-- ==== Sys2Proof/Word.lean ====
section
/-! DEFINITION. The word types of the Plovhilin and the plain sparse map its state is built from.
Bit 0 is the least significant bit of every field and multi-byte values are little-endian (R8). -/

namespace Sys2Proof

abbrev Byte := BitVec 8
abbrev U8 := BitVec 8
abbrev U16 := BitVec 16
abbrev U32 := BitVec 32
abbrev U64 := BitVec 64

/-- A binary32 value as its bits (R89, code 0x8). -/
abbrev F32 := BitVec 32

/-- A sparse map: keys strictly rising, no entry equal to the value an unlisted key reads as. -/
abbrev SMap (α : Type) := List (Nat × α)

/-- Logical core `(x, y)` as `16·y + x`; the dictionary's sub-index `s` of R32 is one more. -/
abbrev CoreId := Nat

/-- Physical site `S(col, row)` as `16·row + col` (R5, R221). -/
abbrev Site := Nat

end Sys2Proof
end

