-- ==== Sys2Proof/Syntax.lean ====
section
/-! DEFINITION. The commands of the block: one constructor per row of `spec/opcode_table.json`, and the data
their operands carry. What the outside world supplies (a measured value, a frame, what host memory holds, a
choice the manual leaves to firmware) is an operand; what the device already holds is in its state. -/

namespace Sys2Proof

/-- Port of a router (R193) and the ring port at the die edge (R195). -/
inductive Dir where
  | n | s | e | w | loc
  deriving DecidableEq, Repr

/-- A flit of the Flue: 16 data words and its control fields (R194, R198). -/
structure Flit where
  v     : Bool
  kind  : BitVec 2
  first : Bool
  last  : Bool
  pmask : U16
  strm  : U8
  seq   : BitVec 10
  epl   : U8
  crc   : U16
  data  : List U64
  deriving DecidableEq, Repr

/-- Where the word of a scratchpad read goes when it is served. -/
inductive ReqTag where
  /-- word `idx` of the feeder's vector number `vec` of array `arr` (R55). -/
  | feeder (arr vec idx : Nat)
  /-- word `idx` of PE row `row` of the tile being loaded (R61). -/
  | loader (row idx : Nat)
  /-- word `idx` of part `part` of what the unit does for step instance `order`; the DMA unit counts by descriptor
  (R71, R85, R177, R178, R180, R210, R298). -/
  | work (u order part idx : Nat)
  /-- a word of an arriving flit; the receive-stream entry it completes, if it is the last of a transfer (R212). -/
  | ingress (done : Option Nat)
  /-- a scrub read, and a queued write-back, `true` of the poison mark (R171, R172, R175). -/
  | scrub
  | back (poison : Bool)
  /-- a reader outside these units, in step `step` of the recipe. -/
  | other (step : Nat)
  deriving DecidableEq, Repr

/-- One word request to the scratchpad (R166, R167). -/
structure BankReq where
  cls     : Nat
  ingress : Bool
  arr     : Nat
  word    : Nat
  /-- `none` reads; `some (data, poison)` writes the whole word (R162). -/
  wr      : Option (U64 × Bool)
  tag     : ReqTag
  deriving DecidableEq, Repr

/-- What an upset of the cells has left in a stored word, by its syndrome (R170 to R172). -/
inductive Check where
  | good | single | uncorrectable | poison
  /-- the poison mark with one bit flipped (R170). -/
  | poisonFlipped
  deriving DecidableEq, Repr

/-- What the check of one 64-bit pair of columns finds when an accumulator row is read (R69). -/
inductive AccUpset where
  | none | single | double
  deriving DecidableEq, Repr

/-- What an upset of a stack access is found to be (R315). -/
inductive StackUpset where
  | oneSymbol | uncorrectable
  deriving DecidableEq, Repr

/-- The draught routes and offsets the Stoker compiles (R222, R228). -/
structure DraughtPlan where
  /-- offset φ of every place of 0x3310.01: `5·site + port` (N, S, E, W, local) below 1,280, then `1280 + ring port` for the
  direction from a ring port into its router (R231); one at a place without a direction is not looked at. -/
  offsets  : List Nat
  /-- `(source, destination, path)`; agents are `256 + ring port`. -/
  routes   : List (Nat × Nat × List Dir)
  deriving DecidableEq, Repr

/-- What the boot tests of a cold start find (R435). -/
structure BootObs where
  romW        : Bool
  romE        : Bool
  /-- fuse words whose first and whose second copy fail their CRC at this start's read (R31). -/
  badA        : List Nat
  badB        : List Nat
  /-- the board has repeated the sequence of R44 before this T0, with a rail that was out of order dropped below 10 % of
  its nominal value first (R45, R454). -/
  repeated    : Bool
  /-- newly failed tracks: link direction key, group 0 to 16, count (R17). -/
  seam        : List (Nat × Nat × Nat)
  /-- larger of the two measured crossing latencies: site, egress, ingress (R401). -/
  proving     : List (Site × Nat × Nat)
  /-- channels whose training fails, and lanes repaired per channel (R317, R321). -/
  badChannels : List Nat
  lanes       : List (Nat × Nat)
  /-- values drawn from the TRNG, in order (R333). -/
  trng        : List U64
  deriving DecidableEq, Repr

/-- What the array self-test finds (R79 to R81): failed columns per core, and cores whose fault is not confined
to one column. -/
structure SelfTest where
  columns : List (CoreId × List Nat)
  whole   : List CoreId
  deriving DecidableEq, Repr

/-- One stream as the Baker has placed it (R245). -/
structure StreamPlace where
  sendNo  : Nat
  recvNo  : Nat
  /-- scheduled route length in Flue cycles (R219). -/
  cycles  : Nat
  /-- injection slots per period (R248). -/
  slots   : Nat
  deriving DecidableEq, Repr

/-- What the Baker cores decide for one bake (R245). -/
structure Placement where
  /-- per instance: core, phase, whether `alt` is used. -/
  insts   : List (CoreId × Nat × Bool)
  /-- per tensor: scratchpad byte address of the committed and of the next view. -/
  tensors : List (Nat × Nat)
  /-- per tensor with home 0x1: its channel list, each channel with the base offset there of the committed and, for
  STATE, of the next view (R314). -/
  stackCh : List (Nat × List (Nat × Nat × Nat))
  /-- per sync entry: hardware sync object (R293). -/
  syncs   : List Nat
  streams : List StreamPlace
  /-- slot tables: site and its entries from the region base on, those of phase k from base + (k − 1)·period on. -/
  tables  : List (Site × List U32)
  period  : Nat
  base    : Nat
  c0      : Nat
  density : Nat
  tplan   : Nat
  phases  : Nat
  micros  : Nat
  /-- base of the spill area and of the bank areas A and B (R444, R466). -/
  spill   : Nat
  bankA   : Nat
  bankB   : Nat
  /-- base of the area that holds the tensors of the phases not on the cores (R266). -/
  phaseArea : Nat
  /-- channels these four areas are spread over, each with the offset there that the bases count from. -/
  areaCh  : List (Nat × Nat)
  /-- 0, or the package reason 0x07, 0x08 or 0x09 where the Baker cores find no placement (R244). -/
  reject  : Nat
  deriving DecidableEq, Repr

/-- A Stedan frame: its header fields (R327), payload words and whether its CRC passes (R326). -/
structure Frame where
  ftype : Nat
  cls   : Nat
  seq   : BitVec 12
  ack   : BitVec 12
  av    : Bool
  nak   : Bool
  crd0  : Nat
  crd1  : Nat
  crd2  : Nat
  dst   : Nat
  src   : Nat
  chan  : Nat
  xseq  : BitVec 10
  hops  : Nat
  nblk  : Nat
  boff  : Nat
  itag  : U16
  pmask : U64
  /-- payload, 16 words of 64 bits to a block. -/
  data  : List U64
  /-- CRC-32C of the trailer (R326). -/
  crc   : U32
  deriving DecidableEq, Repr

/-- The fields of a TRAIN payload (R335). -/
structure TrainInfo where
  vmap    : U16
  sysId   : U32
  devId   : U16
  port    : U8
  width   : U8
  inc     : U64
  nextSeq : BitVec 12
  lastSeq : BitVec 12
  deriving DecidableEq, Repr

/-- A power-broker report (R351). -/
structure BrokerReport where
  group : U32
  k     : U64
  dev   : U16
  pfx   : U64
  slack : U32
  cap   : F32
  base  : F32
  deriving DecidableEq, Repr

/-- A firmware message (R380). -/
structure FwMsg where
  dstm   : U8
  srcm   : U8
  mclass : U8
  mseq   : U16
  mack   : U16
  status : U32
  body   : List Byte
  deriving DecidableEq, Repr

/-- A replica report (R462). -/
structure ReplicaReport where
  group  : U32
  k      : U32
  j      : U64
  gpfx   : U64
  poison : Bool
  digest : BitVec 128
  deriving DecidableEq, Repr

/-- The BAR0 registers of a ring and of the device without behaviour of their own (R272, R367). -/
inductive BarReg where
  | descBase (r : Fin 64) | alogBase (r : Fin 64) | cmplBase (r : Fin 64) | ptRoot (r : Fin 64)
  /-- RING_CTL written without a change of `en`. -/
  | ringCtl (r : Fin 64)
  | invRoot | fqBase | fqHead
  /-- eight bytes of DICT_REQ at the given offset. -/
  | dictReq (off : Nat)
  /-- offsets 0x00, 0x08 and 0x10 of a channel entry: staging (R345). -/
  | channel (n : Fin 4096) (part : Fin 3)
  deriving DecidableEq, Repr

/-- The reset pins (R39, R442). -/
inductive ResetPin where
  | perst | hardRst
  deriving DecidableEq, Repr

/-- What raised a calendar date write: the DATE fields of R357. -/
structure Date where
  year : Nat
  month : Nat
  day : Nat
  hour : Nat
  minute : Nat
  second : Nat
  nano : Nat
  deriving DecidableEq, Repr

/-- How the boundary of a reset is reached (R443, R444). -/
inductive Boundary where
  | none | drain | absorb
  deriving DecidableEq, Repr

/-- Scope of a reset (R441). -/
inductive ResetScope where
  | core (c : CoreId) | hearth (n : Fin 16) | rect (t : Nat) | warm | whole
  deriving DecidableEq, Repr

/-- The commands: one constructor per row of the opcode table, in the table's order. -/
inductive Instr where
  -- start-up, pins and supply events
  | vaonInTolerance (badA badB : List Nat) (nodeLow : Bool)
  | coldStart (obs : BootObs)
  | railSequencingFault (rail : Nat)
  | thermalTrip (hearth : Fin 16)
  | junctionAverageSample (t : Int)
  | hardRstN (pin : ResetPin) (allBelow95 : Bool)
  | pcieHotReset (flr : Bool)
  | presenceNChange (asserted : Bool)
  | alwaysOnSourceSwitch (vaonMv : Nat) (held10ms : Bool) (nodeMv : Nat)
  | vbakRead (v : F32)
  | refclkLoss
  | refclkReturn
  | oscillatorFailure (site : Site)
  | couplingLineFailure (siteA siteB : Site) (line : Fin 2)
  | ppsInEdge
  | coreFailure (core : CoreId)
  | mapChangeEffect (core : CoreId)
  -- arrays
  | issueSequencerCycle (core : CoreId)
  | loaderRowInjection (core : CoreId)
  /-- one upset for each pair of columns found in error, with the array whose row is read. -/
  | accumulatorAdd (core : CoreId) (upsets : List (Fin 4 × AccUpset))
  | drainRow (core : CoreId) (arr : Fin 4) (upsets : List AccUpset)
  | counterPublication (core : CoreId)
  -- recipe steps
  | nop (core : CoreId)
  | loop (core : CoreId)
  | endloop (core : CoreId)
  | sync (core : CoreId)
  | fence (core : CoreId)
  | endStep (core : CoreId)
  | matmul (core : CoreId)
  | dma (core : CoreId)
  | send (core : CoreId)
  | put (core : CoreId)
  | fill (core : CoreId)
  | copy (core : CoreId)
  | vadd (core : CoreId)
  | vsub (core : CoreId)
  | vmul (core : CoreId)
  | vfmai (core : CoreId)
  | vdiv (core : CoreId)
  | vsqrt (core : CoreId)
  | vmin (core : CoreId)
  | vmax (core : CoreId)
  | vcmplt (core : CoreId)
  | vrcp (core : CoreId)
  | vrsqrt (core : CoreId)
  | vexp2 (core : CoreId)
  | vexp (core : CoreId)
  | vcvt (core : CoreId)
  | vquant (core : CoreId)
  | vdequant (core : CoreId)
  | vrsum (core : CoreId)
  | vrmax (core : CoreId)
  | vtopk (core : CoreId)
  | vslice (core : CoreId)
  | stepFinish (core : CoreId) (order : Nat)
  | resumption (slot : Nat)
  -- scratchpad
  | scratchpadBankCycle (core : CoreId) (reqs : List BankReq) (upsets : List (Nat × Check))
  | correctionWriteBack (core : CoreId)
  | poisonWriteBack (core : CoreId)
  | scrubRead (core : CoreId) (bank : Fin 128) (upset : Check)
  | corePowerGating (core : CoreId)
  | coreWake (core : CoreId)
  | putWordArrival (core : CoreId)
  | crumb (core : CoreId)
  | fenceProbe (core : CoreId)
  | probeAnswer (core : CoreId)
  -- Flue
  | routerSlot (crcBad : List (Site × Dir))
  | streamFlitArrival (core : CoreId)
  | draughtFlitArrival (core : CoreId)
  | scheduleCommit (site : Site) (base period c0 tenant mask density epoch : Nat)
  | scheduleSwitch (site : Site)
  | stopMaskApply
  | streamStopWord (site : Site) (stream : Nat) (stop : Bool)
  | streamStopApply
  | draughtCompile (plan : DraughtPlan)
  | syncNetworkTurn (core : CoreId)
  | remoteSignalApply
  -- work rings
  | registerWrite (reg : BarReg) (val : U64)
  | ringEnable (ring : Fin 64) (val : U64)
  | ringDisable (ring : Fin 64) (val : U64)
  | tail (ring : Fin 64) (val : U32)
  | chead (ring : Fin 64) (val : U32)
  | descriptorAccept (ring : Fin 64) (host : List Host.Cell)
  | cancel (ring : Fin 64) (index : U32)
  | readinessPass
  | nopItem (ring : Fin 64) (index : U32)
  | load (ring : Fin 64) (index : U32) (host : List Host.Cell)
  | placementComplete (slot : Nat) (p : Placement)
  | run (ring : Fin 64) (index : U32) (host : List Host.Cell)
  | unload (ring : Fin 64) (index : U32)
  | migrate (ring : Fin 64) (index : U32)
  | signal (ring : Fin 64) (index : U32)
  | stepCommit (slot : Nat)
  | copyOutComplete (slot : Nat)
  | completionRecordWrite (ring : Fin 64)
  | epochFence (slot : Nat) (reason : Nat)
  | rePlacement (slot : Nat) (trigger : Nat) (canComplete : Bool)
  | bakeTimeout (slot : Nat)
  | migrationTarget (master : U8) (slot : Nat) (tenant : Nat)
  | migrationSwitch (slot : Nat) (p : Placement)
  | phaseChange (slot : Nat) (phase : Nat)
  -- translation and DMA
  | invAddr (val : U64)
  | invalidationComplete
  | dmaDescriptorStart (host : List Host.Cell) (atsDenied : List Nat) (upsets : List (Nat × StackUpset))
  | dmaDescriptorComplete (id : Nat)
  | translationFault (id : Nat) (dva : Nat) (cause : Nat)
  | priResponse (seq : U32) (success : Bool)
  | retry (seq : U32) (host : List Host.Cell) (atsDenied : List Nat)
  | faultPaging (slot : Nat)
  | faultHoldExpiry (slot : Nat)
  -- memory stacks
  | channelRetrain (ch : Nat) (waitCycles : Nat)
  | channelRetirement (ch : Nat) (planned : Bool) (moves : List (Nat × Nat × Nat × Nat × Nat)) (cached : List Nat)
  | stackRetirement (stack : Fin 20) (cached : List Nat)
  | ledgerCopyRebuild (south : Bool) (poisoned : List (Fin 64 × U32))
  -- Stedan links
  | portTraining (port : Fin 12) (goodLanes : List Nat)
  | train (port : Fin 12) (info : TrainInfo)
  | sequencedFrameReceive (port : Fin 12) (f : Frame)
  | ack (port : Fin 12) (f : Frame)
  | frameTransmit (port : Fin 12)
  | replayTimerExpiry (port : Fin 12)
  | ackDeadlineInterval (port : Fin 12)
  | portDown (port : Fin 12)
  | pmaLockLoss (port : Fin 12) (lanes : Nat)
  | laneFailure (port : Fin 12) (lane : Fin 13)
  | portEnable (master : U8) (port : Fin 12) (en : Bool)
  | frameForward (port : Fin 12)
  | bridgeFlitArrival (chiplet : Fin 4) (f : Flit) (chan : Option Nat)
  | data (port : Fin 12)
  | heldFrameTimeout (port : Fin 12)
  | reinc (port : Fin 12)
  | channelTableWrite (n : Fin 4096) (val : U64)
  | brokerInterval (k : U64) (slack : U32)
  | broker (port : Fin 12) (micros : Nat)
  | brokerAllocation
  | digestSend
  | digest (port : Fin 12)
  | digestMismatchHold (port : Fin 12)
  -- control plane
  | managementFrame (port : Fin 2) (frame : List Byte)
  | dictDb
  | semaphoreAcquire (master id : U8)
  | semaphoreRelease (master : U8)
  | leaseExpiry
  | windowOpen (master : U8)
  | windowClose (master : U8)
  | windowExpiry
  | commit (master : U8) (set : U8)
  | discard (master : U8) (set : U8)
  | commitApplication (set : U8)
  /-- the first CTL frame that `port` has received carries the message, or it comes on the die: by draught to a ring agent,
  or over a hearth's control chain. -/
  | firmwareMessage (port : Option (Fin 12)) (m : FwMsg)
  | messageResend (srcm dstm : U8) (mseq : U16)
  | go (chan : Fin 256) (master : U8) (val : U32)
  | done (chan : Fin 256) (master : U8)
  | mailboxRegisterWrite (chan : Fin 256) (reg : Fin 16) (master : U8) (val : U32)
  | ptpSyncMessage (port : Fin 2) (offset : Int) (utcNs : Nat)
  | ptpStateChange (port : U8) (sinceSyncMs lockedForMs : Nat)
  | leapSecond
  | calendarWrite (master : U8) (d : Date)
  | calendarEnd
  | copyBWrite
  | rescueFrame (port : Fin 2) (frame : List Byte)
  -- clocks and power
  | stepUp (hearth : Fin 16) (mhz : Nat)
  | stepDown (hearth : Fin 16) (mhz : Nat)
  | voltageSettleTimeout (hearth : Fin 16)
  | hearthFreeze (hearth : Fin 16)
  | generatorLock (hearth : Fin 16)
  | clockStretch (hearth : Fin 16) (reason : Nat) (on : Bool)
  | marginWindow (hearth : Fin 16) (codes : List (Site × List Nat))
  | marginEmergency (hearth : Fin 16) (code : Nat) (aboveLoFor1us : Bool)
  | capControllerRun (avg est : F32) (belowFor100us aboveFor10ms : Bool) (aboveUs : U32)
  | railCurrentLimit (hearth : Fin 16) (avgA estA : Nat) (below1050for1ms : Bool)
  | junctionSensorRead (hearth : Fin 16) (hottest : F32) (at100us : Bool)
  | avsbusTelemetryRead (rail : Fin 22) (r : Option (F32 × F32))
  | statusWord (rail : Fin 22) (word : U16)
  | boost (hearth : Fin 16) (amps : F32) (overrun : Bool)
  | shunt (hearth : Fin 16) (overrun : Bool)
  | switchOff (master : U8) (hearth : Fin 16)
  | switchOn (master : U8) (hearth : Fin 16)
  | undervoltageTrip (hearth : Fin 16)
  | overvoltage (hearth : Fin 16)
  | hearthLossDeclaration (hearth : Fin 16)
  | fixedRailFault (rail : Fin 22)
  | pmbusLoss (bus : Fin 2)
  | safeHold (hearth : Fin 16)
  | safeHoldEnd (hearth : Fin 16)
  | railUnmanaged (hearth : Fin 16)
  | returnToManaged (master : U8) (hearth : Fin 16)
  -- firmware load, resets and recovery
  | fwWinWrite (off : Nat) (bytes : List Byte)
  | fwCtlGo (test : SelfTest) (plan : DraughtPlan) (bindings : List (Fin 256 × U32))
  | coreReset (core : CoreId) (test : SelfTest)
  | hearthReset (hearth : Fin 16) (test : SelfTest)
  | rectangleReset (t : Nat) (test : SelfTest)
  | warmReset (test : SelfTest) (romW romE : Bool)
  | wholeDeviceReset (obs : BootObs)
  | resetBoundary (scope : ResetScope) (b : Boundary)
  | emberTimerExpiry (m : Nat) (crash : List Byte) (recent : Nat)
  | stokerTakeover
  | journalCopy
  | rescueEntry
  | rescueReset (level : Nat)
  | firmwareReload
  -- integrity, banks, events and monitors
  | digestComplete (slot : Nat)
  | replicaReport (slot : Nat) (member : Nat) (r : ReplicaReport)
  | checkResolution (slot : Nat) (windowRan : Bool)
  | bankWhole (slot : Nat)
  | bankHostCopyComplete (slot : Nat) (ok : Bool)
  | restore (master : U8) (slot : Nat) (area : Nat)
  | eventRaise (index : U16) (sub sev src : U8) (arg : U64)
  | eventLogMove
  | acknowledged (master : U8) (seq : U64)
  | arm (index : U16) (sub : U8)
  | freeze (index : U16) (sub : U8)
  | clear (index : U16) (sub : U8)
  | clearAndArm (index : U16) (sub : U8)
  | monitorSample (index : U16) (sub : U8) (q : Nat)
  | processorRestart (m : Nat)
  | atsInvalidation (iova : Nat) (size : Nat)
  | failedControllerEvent (m : Nat)
  deriving DecidableEq, Repr

end Sys2Proof
end

