-- ==== Sys2Proof/Decode.lean ====
section
/-! DEFINITION. Reading a command from the bits of a table word. `spec/opcode_table.json` gives no row any bits (every
row's "fields" is empty), so no word spells a command (log entry 17). -/

namespace Sys2Proof

/-- The command that the word `w` of `nbits` bits spells: none, since the table gives no row any bits. -/
def decodeTableWord (_nbits _w : Nat) : Option Instr := none

end Sys2Proof
end

