-- ==== Sys2Proof/Config.lean ====
section
/-! DEFINITION. What an implementation fixes: the free values of the manual, as constants without a body, and the
fixed figures of the part, its package and its ratings (R1, R2, R14 to R16, R34 to R46). -/

namespace Sys2Proof.Config

/-! ### Free values -/

/-- FREE VALUE: which result within the bounds of R126 an approximation returns, per operation and operand.
The same on every device of the generation, and not stated (log entry 10). -/
opaque approxPick : Nat → U32 → Nat

/-- FREE VALUE: the value the manual states for no operand of a reduction or ratio over nothing, numbered by a
counter of the state (log entry 10). -/
opaque freeValue : Nat → U64

/-- FREE VALUE: what a sensor that no command of the table reads shows, by dictionary key and Flue cycle: mesh frequency
and phase error, stack and regulator temperatures, on-die scrub counts (log entry 10). -/
opaque measured : Nat → Nat → U32

/-! ### Figures of the part -/

/-- Flue clock period in sixteenths of a nanosecond (R10: 0.625 ns). -/
def flueCycle16ns : Nat := 10

/-- Flue cycles in one millisecond and one second at 1.6 GHz (R10). -/
def cyclesPerMs : Nat := 1600000
def cyclesPerSecond : Nat := 1600000000

/-- Peak rates of R2 in operations per core and cycle: dense 8-bit MACs of one core (R74). -/
def macsPerCycle : Nat := 262144

/-- Slice products of S7T that one binary64 multiply-add costs (R2, R118). -/
def s7tPasses : Nat := 28

/-- Sustained and excursion power in W, and the excursion's length in ms (R2). -/
def powerSustained : Nat := 15000
def powerExcursion : Nat := 18000
def excursionMs : Nat := 10

/-- Dies of the package: compute die, HBM4 stacks, link chiplets. -/
def stackCount : Nat := 20
def chiplets : Nat := 4

/-- The die: width and height in mm, field width and height in mm (R14). -/
def dieSize : Nat × Nat := (104, 66)
def fieldSize : Nat × Nat := (26, 33)

/-- Tracks of a seam link direction: groups, tracks to a group, spares per stitch and per lintel group (R16). -/
def trackGroups : Nat := 17
def groupTracks : Nat := 64
def stitchSpares : Nat := 2
def lintelSpares : Nat := 4

/-- Lintel directions whose loss keeps a die from shipping, and a device from leaving reset (R19). -/
def lintelShipMax : Nat := 2
def lintelStartMax : Nat := 4

/-- Site pitch in tenths of a micrometre, west to east and north to south (R20). -/
def sitePitch : Nat × Nat := (58000, 34500)

/-! ### Package, connector and ratings -/

/-- Substrate in tenths of a millimetre; connector positions, columns and rows (R34). -/
def substrate : Nat × Nat := (1500, 1200)
def contacts : Nat := 40320
def contactGrid : Nat × Nat := (224, 180)

/-- Connector load in N: least, nominal, greatest (R35). -/
def load : Nat × Nat × Nat := (12700, 14100, 15500)

/-- Contact rating in mA: continuous and for at most 10 ms; resistance in µΩ (R36). -/
def contactRating : Nat × Nat × Nat := (1250, 2000, 1500)

/-- Thermal resistance, lid to inlet and junction to lid, in tenths of a mK/W (R37). -/
def thermalResistance : Nat × Nat := (16, 20)

/-- Contact groups of R38: name and contacts. -/
def pinGroups : List (String × Nat) :=
  [("VLOG0-VLOG15", 16 * 900), ("VMEM", 1200), ("VMIF_Q", 480), ("VMIF_C", 640), ("VMIF_P", 480), ("VLNK", 800),
   ("VCLK", 96), ("VAON", 16), ("VBAK", 4), ("Sense", 46), ("Stedan", 624), ("PCIe", 66), ("MGMT", 8), ("Time", 2),
   ("Clocks", 4), ("PMBus", 6), ("AVSBus", 15), ("Control", 5), ("Test", 5), ("GND", 20399), ("RSV", 1024)]

/-- A rail's absolute maximum in mV (R40); every minimum is -300 mV. -/
def absMax : List (String × Nat) :=
  [("VLOG", 950), ("VMEM", 900), ("VMIF_Q", 850), ("VMIF_C", 1200), ("VMIF_P", 2000), ("VLNK", 950), ("VCLK", 1050),
   ("VAON", 3800), ("VBAK", 3900)]

/-- Operating set point in mV and tolerance in tenths of a percent of the fixed rails, in the order of the rail
records 17 to 22 (R41, R433); VMIF_P and VLNK as the record order has them. -/
def fixedRails : List (Nat × Nat) :=
  [(750, 20), (700, 20), (1050, 20), (1800, 30), (800, 20), (900, 10)]

/-- VLOG set points in mV, tolerance in mV; currents in A: sustained and for 10 ms, per hearth and in all (R41). -/
def vlogRange : Nat × Nat := (550, 850)
def vlogTolerance : Nat := 10
def vlogAmps : (Nat × Nat) × (Nat × Nat) := ((1100, 17000), (1300, 20400))

/-- Junction range in °C (R41), trip level (R43), storage range (R40). -/
def junction : Nat × Nat := (10, 100)
def junctionTrip : Nat := 110
def storage : Int × Int := (-40, 70)

/-- Damper response in ns and its hold (R42). -/
def damper : Nat × Nat := (2, 200)

/-- Order in which the board brings up the rails (R44). -/
def railOrder : List String :=
  ["VAON", "VCLK", "VMEM", "VMIF_P", "VMIF_C", "VMIF_Q", "VLNK", "VLOG0-VLOG15"]

/-- Rated cycles: large and medium swings, non-operating excursions, matings (R46). -/
def ratedLarge : Nat := 50000
def ratedMedium : Nat := 2000000
def ratedExcursions : Nat := 100
def ratedMatings : Nat := 20

/-- Scratchpad: words, banks, rows to a bank, words of a block (R161 to R164, R188). -/
def padWords : Nat := 1572864
def padBanks : Nat := 128
def padRows : Nat := 12288

/-- Bytes of a stack channel, and of the kept region in each channel 31 (R312, R319). -/
def channelBytes : Nat := 1500000000
def keptBytes : Nat := 268435456

end Sys2Proof.Config
end

