-- ==== Sys2Proof/Machine/State.lean ====
section
/-! DEFINITION. The state of the block as plain data: every register, memory, queue, counter, mode and pin the
manual gives the Plovhilin, unit by unit, and the queue of waiting commands. Field defaults are the values of
`State.reset`. Entries of the object dictionary that a master or firmware writes (access RW, RWS, RWP) live in
`Dict.scalar` and `Dict.domain` under their index and sub-index; every other entry is computed from these fields. -/

namespace Sys2Proof.Machine

/-- Reasons a command stops the block. -/
inductive Fault where
  /-- Raised by a command that names a logical core, site, slot, channel, rail or processor beyond those the
  manual gives the part (R5, R32, R268). Safe: the manual gives such a place no existence. -/
  | noSuchUnit
  deriving DecidableEq, Repr

/-- Reasons a command has no meaning in the model. -/
inductive Refusal where
  /-- Raised by an arm of `exec` that has no meaning yet. Safe. -/
  | notModelled (mnemonic : String)
  deriving DecidableEq, Repr

/-! ### The part as manufactured (R21, R31) -/

inductive Grade where
  | plv1A | plv1B
  deriving DecidableEq, Repr

/-- The fuse block (R31): what the tester burned, and what R440 burns later. -/
structure Fuse where
  grade     : Grade := .plv1A
  defective : List Site := []
  /-- fuse words with a copy that fails its CRC. -/
  badA      : List Nat := []
  badB      : List Nat := []
  /-- fused failed tracks per link direction key and group (R17). -/
  tracks    : SMap Nat := []
  /-- MAC columns bypassed at manufacture, by site (R31). -/
  columns   : SMap (List Nat) := []
  spareRows : SMap Nat := []
  keyHash   : List (BitVec 384) := [0, 0, 0, 0]
  revoked   : BitVec 4 := 0
  minSvn    : U32 := 0
  serial    : List Byte := []
  mac       : List (List Byte) := [[2, 0, 0, 0, 0, 1], [2, 0, 0, 0, 0, 2]]
  /-- fused voltage in mV by `57·hearth + step` (R408); an unlisted entry reads 730. -/
  vf        : SMap Nat := []
  deriving DecidableEq, Repr

/-! ### Always-on block -/

/-- One event record (R471). -/
structure Event where
  seq   : U64
  time  : U64
  index : U16
  sub   : U8
  sev   : U8
  src   : U8
  arg   : U64
  deriving DecidableEq, Repr

/-- The persistent records (R392). -/
structure Records where
  large       : U32 := 0
  medium      : U32 := 0
  /-- junction average: peak, trough and highest in thousandths of a kelvin; `none` before the first sample. -/
  swing       : Option (Int × Int) := none
  rising      : Bool := true
  highest     : Option Int := none
  fallbacks   : U32 := 0
  resets      : SMap U64 := []
  provings    : U32 := 0
  /-- recorded events of R43, R45 and the losses of R429. -/
  thermTrips  : Nat := 0
  seqFaults   : List Nat := []
  lostHearths : List Nat := []
  /-- tracks repaired in service, by link direction key and group (R17). -/
  tracks      : SMap Nat := []
  /-- sites that failed in service since manufacture (R25). -/
  failedSites : List Site := []
  retired     : List Nat := []
  railMap     : List Byte := []
  deriving DecidableEq, Repr

structure AlwaysOn where
  /-- `true` while fed from VBAK (R391). -/
  onVbak     : Bool := false
  latch      : Bool := false
  vbak       : F32 := 0
  vbakLow    : Bool := false
  presence   : Bool := false
  thermTrip  : Bool := false
  /-- calendar in units of 1/8 ns since 2000-01-01 00:00:00 UTC (R389). -/
  calendar   : Nat := 0
  calValid   : Bool := false
  calStopped : Bool := false
  /-- 0x1100.01, and the time left on the lease and on the presence window in Flue cycles. -/
  holder     : U8 := 0
  leaseLeft  : Nat := 0
  window     : Bool := false
  windowLeft : Nat := 0
  /-- event queue of R473, oldest first, and 0x6030.03. -/
  queue      : List Event := []
  /-- Flue cycle of the newest queued event, and how many at the queue's end are of that cycle (R473). -/
  queuedAt   : Nat := 0
  queuedNew  : Nat := 0
  lost       : U64 := 0
  /-- 0x7110.01 and 0x7110.02. -/
  rescue     : U8 := 0
  cause      : U8 := 0
  recA       : Records := {}
  recB       : Records := {}
  /-- 0x1410.01. -/
  recSel     : U8 := 0
  deriving DecidableEq, Repr

/-! ### Oscillator mesh and hearths -/

structure Mesh where
  /-- 0x2000.01: 0 locked, 1 free-running, 2 acquiring. -/
  state    : U8 := 2
  failed   : List Site := []
  badLines : List (Nat × Nat) := []
  deriving DecidableEq, Repr

/-- One throttle reason of 0x2300.n: duration in ns and entries (R423). -/
structure Throttle where
  ns      : U64 := 0
  entries : U32 := 0
  deriving DecidableEq, Repr

/-- One hearth and its controller (R26, R399 to R433). Frequencies in MHz, voltages in mV. -/
structure Hearth where
  /-- state code of R429. -/
  state     : U8 := 0
  reason    : U8 := 0
  freq      : Nat := 1600
  target    : Nat := 1600
  setMv     : Nat := 750
  /-- frequency of the step up whose voltage is settling (R408). -/
  stepTo    : Option Nat := none
  /-- frequency the stop under way switches to, and the cycle of its stop bit (R409). -/
  stopTo    : Option (Nat × Nat) := none
  stopBit   : Bool := false
  frozen    : Bool := false
  restartAt : Option Nat := none
  /-- Flue cycle of the last change of frequency (R405). -/
  changedAt : Option Nat := none
  margin    : Nat := 2000
  ceiling   : Nat := 2000
  thermal   : Nat := 2000
  railLim   : Nat := 2000
  safeLim   : Nat := 2000
  fixedRun  : Bool := true
  /-- the last step up did not settle in time (R408). -/
  unsettled : Bool := false
  /-- reasons that stretch the clock at present (R400). -/
  stretch   : List Nat := []
  mH        : Nat := 0
  above     : Nat := 0
  minima    : SMap U8 := []
  stops     : U64 := 0
  power     : Bool := true
  clamped   : Bool := false
  tripped   : Bool := false
  damper    : Bool := true
  boosts    : U64 := 0
  shunts    : U64 := 0
  overruns  : U64 := 0
  maxBoost  : F32 := 0
  junction  : F32 := 0
  throttle  : SMap Throttle := []
  /-- Flue cycle at which the governing reason took effect (R423). -/
  since     : Nat := 0
  deriving DecidableEq, Repr

/-- A regulator rail (0x2100.r, R433). -/
structure Rail where
  state  : U8 := 0
  setMv  : Nat := 750
  status : U16 := 0
  volts  : F32 := 0
  amps   : F32 := 0
  /-- Flue cycle of the last good telemetry read. -/
  readAt : Nat := 0
  fails  : Nat := 0
  valid  : Bool := true
  deriving DecidableEq, Repr

/-- Capping, broker allocation and thermal figures (R416 to R426). -/
structure Power where
  power      : F32 := 0
  aboveUs    : U32 := 0
  excursion  : Bool := false
  alloc      : Option F32 := none
  lastK      : U64 := 0
  lastOwn    : F32 := 0
  lastLambda : F32 := 0
  lastS      : F32 := 0
  counted    : U16 := 0
  missing    : U16 := 0
  shortfalls : U64 := 0
  pmbusLost  : List Nat := []
  deriving DecidableEq, Repr

/-! ### Core map (R21 to R25, R32, R479) -/

/-- A pending change of the core map (R479). -/
inductive Pending where
  | substitute (row : Nat)
  | bypass
  deriving DecidableEq, Repr

structure CoreMap where
  /-- left-out sites of each column as read at the last cold start. -/
  spare     : SMap U16 := []
  /-- reported width, 0x3002.s; an unlisted core of the grid reads 512. -/
  width     : SMap Nat := []
  subRow    : SMap Nat := []
  /-- bypassed columns by site; columns added in service by core (0x3007.s). -/
  bypass    : SMap (List Nat) := []
  added     : SMap Nat := []
  pending   : SMap Pending := []
  gen       : U32 := 0
  stitch    : U16 := 0
  lintel    : U16 := 0
  stitchTr  : U32 := 0
  lintelTr  : U32 := 0
  /-- proved crossing latencies by site: egress, ingress (0x2020.s). -/
  crossing  : SMap (Nat × Nat) := []
  unreach   : List CoreId := []
  deriving DecidableEq, Repr

/-! ### One core -/

/-- A scratchpad word and what its check bits say (R170). An unlisted word carries the poison mark. -/
structure Cell where
  data : U64 := 0
  chk  : Check := .poison
  deriving DecidableEq, Repr

/-- A statistics slot (R116). -/
structure StatSlot where
  hist  : List F32 := []
  range : U32 := 0
  scale : F32 := 0
  amax  : F32 := 0
  nan   : U32 := 0
  sat   : U32 := 0
  low   : F32 := 0xFF800000
  high  : F32 := 0x7F800000
  deriving DecidableEq, Repr

/-- The counters of a core that R84 publishes together. -/
structure Counters where
  active     : U64 := 0
  issued     : U64 := 0
  tokens     : U64 := 0
  dry        : U64 := 0
  drainHold  : U64 := 0
  accCorr    : U64 := 0
  loadWait   : U64 := 0
  barrier    : U64 := 0
  loaderDly  : U64 := 0
  /-- conflict matrix by `8·loser + winner` (R169) and words served per class. -/
  conflict   : SMap U64 := []
  served     : SMap U64 := []
  corrected  : U64 := 0
  uncorr     : U64 := 0
  poisoned   : U64 := 0
  lastUncorr : U32 := 0xFFFFFFFF
  crumbsSent : U32 := 0
  staleWords : U64 := 0
  crumbsRecv : U32 := 0
  crumbsLost : U32 := 0
  crumbsOld  : U32 := 0
  /-- 0x3320.s by input N, S, E, W, ring and 0x3330.s by place. -/
  crc        : SMap U64 := []
  flue       : SMap U64 := []
  slots      : SMap StatSlot := []
  deriving DecidableEq, Repr

/-- A request waiting for its bank and the core cycles it has waited (R167). -/
structure Waiting where
  req : BankReq
  age : Nat
  deriving DecidableEq, Repr

/-- One part (a row, a flit, a block of rows) of what a unit does at the scratchpad for a step instance: reads it has still to
ask for, words read, writes it has still to ask for (R71, R85, R177, R178, R180, R210, R298). -/
structure Work where
  order  : Nat
  part   : Nat
  /-- place and word address of the reads still to ask for. -/
  reads  : List (Nat × Nat)
  /-- words the part reads in all, and those that have come: place, word, poison. -/
  want   : Nat
  got    : List (Nat × U64 × Bool) := []
  /-- the words to write are known. -/
  made   : Bool := false
  /-- word address, word and poison of the writes still to ask for. -/
  writes : List (Nat × U64 × Bool) := []
  /-- core cycle of the first write, and the one by which a drain is to have asked for the last (R70, R71). -/
  since  : Nat := 0
  due    : Nat := 0
  deriving DecidableEq, Repr

structure Scratchpad where
  words    : SMap Cell := []
  valid    : SMap Bool := []
  /-- queued write-backs of class 0x7: word, `true` for poison, cycles waited (R171, R172). -/
  backs    : List (Nat × Bool × Nat) := []
  /-- what the units do, oldest part first: drains 0 to 3, vector unit 4, memory engine 5, transfer unit 6, DMA unit 7 and digest unit 8. -/
  work     : SMap (List Work) := []
  waiting  : List Waiting := []
  /-- reads served in the last cycle: request, word, poison. -/
  out      : List (BankReq × U64 × Bool) := []
  scrubRow : SMap Nat := []
  scrubEnd : SMap Bool := []
  passes   : U32 := 0
  deriving DecidableEq, Repr

/-- A recipe image (R130): header, steps, operand descriptors, sync-list entries. -/
structure Recipe where
  hdr   : BitVec 256 := 0
  steps : List (BitVec 256) := []
  descs : List (BitVec 256) := []
  syncs : List U64 := []
  deriving DecidableEq, Repr

/-- A tensor symbol as bound on a core: owner, base, size and, for STATE, the base of the other view. -/
structure TensBind where
  core : CoreId
  base : Nat
  size : Nat
  deriving DecidableEq, Repr

/-- A stream symbol as bound on its sender: send-stream number, receiving core and stream, transfer bytes. -/
structure StreamBind where
  sendNo : Nat
  dst    : Option CoreId
  recvNo : Nat
  bytes  : Nat
  deriving DecidableEq, Repr

/-- The binding table of an instance (R133). -/
structure Binding where
  tens    : SMap TensBind := []
  syncs   : SMap Nat := []
  streams : SMap StreamBind := []
  peers   : SMap CoreId := []
  dmas    : SMap (BitVec 512) := []
  params  : SMap U32 := []
  deriving DecidableEq, Repr

/-- An open loop level: first step of its body, variable, iterations (R152). -/
structure Loop where
  start : Nat
  v     : Nat
  count : Nat
  deriving DecidableEq, Repr

/-- The units of a core (R135). -/
inductive UnitKind where
  | s | a | v | m | d | x
  deriving DecidableEq, Repr

/-- A step instance that has issued and not finished (R136, R137). `ready` once its work is done. -/
structure StepInst where
  order : Nat
  step  : Nat
  loops : List Nat
  unit  : UnitKind
  ready : Bool
  /-- it has met a poisoned word (R174). -/
  failed : Bool
  /-- fence count in force when a PUT issued (R183). -/
  fcount : U32 := 0
  deriving DecidableEq, Repr

inductive SeqState where
  | idle | running | stopped | ended
  deriving DecidableEq, Repr

/-- The resume record of R157: yield step and open loops. -/
structure Resume where
  step  : Nat
  loops : List Loop
  deriving DecidableEq, Repr

/-- A FENCE whose probes are out (R184). -/
structure FenceWait where
  step    : Nat
  loops   : List Nat
  sobj    : Nat
  count   : U32
  waiting : List CoreId
  deriving DecidableEq, Repr

/-- A crumb (R185). -/
structure Crumb where
  epoch  : U32
  fcount : U32
  sobj   : U16
  reason : BitVec 4
  att    : BitVec 4
  init   : CoreId
  target : CoreId
  step   : Nat
  loops  : List Nat
  taddr  : Nat
  nwords : Nat
  deriving DecidableEq, Repr

/-- The step sequencer and what it keeps (R135 to R138, R157, R187). -/
structure Sequencer where
  state   : SeqState := .idle
  step    : Nat := 0
  loops   : List Loop := []
  order   : Nat := 0
  flight  : List StepInst := []
  resume  : Resume := ⟨0, []⟩
  done    : List (Nat × List Nat) := []
  /-- replaying a yield region after a resumption (R158). -/
  replay  : Bool := false
  attempt : BitVec 4 := 0
  /-- step index, loop variables and crumb of the recipe fault reported (R155). -/
  fault   : Option (Nat × List Nat × Crumb) := none
  deriving DecidableEq, Repr

/-- A sync object: value and the epoch of the bake that owns it (R294). -/
structure SyncObj where
  value : U32 := 0
  epoch : U32 := 0
  deriving DecidableEq, Repr

/-- A signal on the sync network: object, set or add, operand, sender's epoch (R294, R296). -/
structure Sig where
  obj   : Nat
  set   : Bool
  val   : U32
  epoch : U32
  deriving DecidableEq, Repr

/-- Synchronisation state of a core. -/
structure SyncUnit where
  objs   : SMap SyncObj := []
  /-- sync queue: the remote signals of finished steps, oldest first (R296). -/
  queue  : List (List Sig) := []
  /-- fence counts per hardware object and the PUTs not yet covered: object, count, target (R183). -/
  counts : SMap U32 := []
  puts   : List (Nat × U32 × CoreId) := []
  fence  : List FenceWait := []
  held   : List Crumb := []
  /-- crumbs this core, as a target, has open for PUT instances of others (R185). -/
  opened : List Crumb := []
  deriving DecidableEq, Repr

/-- A receive-stream entry (R211) and its progress. -/
structure RecvEntry where
  epoch  : U32
  base   : Nat
  size   : Nat
  depth  : Nat
  sobj   : Nat
  amt    : U32
  /-- transfer expected: its sequence number is this modulo 1,024, its place this modulo the depth. -/
  num    : Nat
  /-- words of the transfer under way, and whether it rewrites transfer e − 1 (R212). -/
  got    : Option (Nat × Bool)
  deriving DecidableEq, Repr

/-- A draught flit with its header (R225) in fields. -/
structure Draught where
  mtype  : Nat
  dst    : Nat
  src    : Nat
  tnt    : U8
  rot    : BitVec 2
  epoch  : U32
  fcount : U32
  step   : Nat
  att    : BitVec 4
  lst    : Bool
  loops  : List Nat
  taddr  : Nat
  sobj   : U16
  /-- payload words with their poison marks (R213). -/
  data   : List (U64 × Bool)
  crumb  : Option Crumb
  deriving DecidableEq, Repr

/-- The router island: queues between the core and its router (R209 to R217, R225). -/
structure Island where
  tenant  : U8 := 0
  epoch   : U32 := 0
  /-- egress queue: order number of the SEND, send stream and flit (R210); before them the flits still in the crossing from the
  hearth clock, with the Flue cycle that ends it (R218). -/
  egress  : List (Nat × Nat × Flit) := []
  toEgress : List (Nat × Nat × Nat × Flit) := []
  /-- draught flits waiting for a turn, with the order number of their PUT (0 for none). -/
  outbox  : List (Nat × Draught) := []
  /-- the two shares of the ingress buffer: flits that may leave it, and flits still in the crossing to the hearth clock, with
  the Flue cycle that ends it (R214, R218). -/
  inStream  : List Flit := []
  inDraught : List Draught := []
  newStream  : List (Nat × Flit) := []
  newDraught : List (Nat × Draught) := []
  recv    : SMap RecvEntry := []
  sendSeq : SMap (BitVec 10) := []
  stop    : SMap Bool := []
  target  : SMap CoreId := []
  bubbles : SMap U64 := []
  /-- remote-write windows: base, length (R181). -/
  windows : List (Nat × Nat) := []
  deriving DecidableEq, Repr

/-- A word the feeder holds for a vector (R55, R56). -/
structure FeedWord where
  vec    : Nat
  idx    : Nat
  data   : U64
  poison : Bool
  deriving DecidableEq, Repr

/-- One item of the wavefront between issue and accumulator (R52, R57). -/
structure Wave where
  cycle  : Nat
  row    : Nat
  sums   : List Int
  fp     : Bool
  rowsum : Int
  first  : Bool
  last   : Bool
  poison : Bool
  shift  : Nat
  wide   : Bool
  /-- output row `i`, K block and column-sum bank of the row (R64, R70). -/
  out    : Nat
  block  : Nat
  bank   : Bool
  order  : Nat
  /-- 32-bit rows that a last-K item leaves to one drain. -/
  holds  : List Nat
  deriving DecidableEq, Repr

/-- A 32-bit accumulator row (R65): 512 sums as integers or binary32 bits, or a third of a wide row's, its row sum and state. -/
structure AccRow where
  vals     : List Int := []
  rowsum   : Int := 0
  complete : Bool := false
  poisoned : Bool := false
  out      : Nat := 0
  block    : Nat := 0
  bank     : Bool := false
  order    : Nat := 0
  /-- poisoned by a double-bit error of its own (R69). -/
  upset    : Bool := false
  deriving DecidableEq, Repr

/-- One matrix array with its feeder and accumulator memory. -/
structure Array4 where
  /-- tile (pass) the issue has reached, and place in its item list: 0 is the token. -/
  pass    : Nat := 0
  pos     : Nat := 0
  second  : Bool := false
  fetched : List FeedWord := []
  fetch   : Nat := 0
  waves   : List Wave := []
  acc     : SMap AccRow := []
  /-- complete rows in the order in which they became complete, with the cycle of their last write (R70). -/
  ready   : List (Nat × Nat) := []
  /-- cycle in which the drain is free again (R71). -/
  busy    : Nat := 0
  deriving DecidableEq, Repr

/-- A PE row of a weight tile: one code by logical column, and whether a word of it was poisoned (R61, R173). -/
structure TileRow where
  codes  : List Nat
  poison : Bool
  deriving DecidableEq, Repr

/-- The four arrays of a core, the loader and the issue sequencer (R50 to R73). -/
structure Arrays where
  cycle    : Nat := 0
  /-- the MATMUL being issued: order number, step, loop variables. -/
  job      : Option (Nat × Nat × List Nat) := none
  arr      : SMap Array4 := []
  active   : List TileRow := []
  shadow   : List TileRow := []
  /-- block codes of the active tile and of the tile being loaded, by K block and column (R110). -/
  activeSb : List (List Nat) := []
  shadowSb : List (List Nat) := []
  /-- tile being loaded, first cycle its load may start, words fetched, PE rows and side words asked for. -/
  loadPass : Nat := 0
  loadFrom : Nat := 0
  loadBuf  : List FeedWord := []
  loadReq  : Nat := 0
  sideReq  : Nat := 0
  /-- column-sum banks, the bank of the tile being loaded and of the active tile (R64). -/
  colA     : List Int := []
  colB     : List Int := []
  bankLoad : Bool := false
  bankUse  : Bool := false
  /-- per-column scales by order number, column exponents by order number and K block (R102, R122). -/
  scales   : List (Nat × List F32) := []
  exps     : List (Nat × Nat × List Int) := []
  /-- MATMULs started and not finished, with their rows still to drain. -/
  draining : List (Nat × Nat) := []
  deriving DecidableEq, Repr

/-- Power state of a core (R190, R191). -/
inductive CorePower where
  | on | gatedKeep | gatedLost
  deriving DecidableEq, Repr

structure Core where
  power   : CorePower := .on
  /-- the core's instance: bake slot and instance number. -/
  inst    : Option (Nat × Nat) := none
  pad     : Scratchpad := {}
  recipe  : Recipe := {}
  bind    : Binding := {}
  seq     : Sequencer := {}
  sync    : SyncUnit := {}
  island  : Island := {}
  arrays  : Arrays := {}
  live    : Counters := {}
  pub     : Counters := {}
  pubs    : U32 := 0
  deriving DecidableEq, Repr

/-! ### The Flue -/

/-- A router's schedule (R201, R206). -/
structure Schedule where
  period : Nat := 0
  base   : Nat := 0
  c0     : Nat := 0
  tenant : U8 := 0
  mask   : BitVec 5 := 0
  density : Nat := 0
  epoch  : U32 := 0
  deriving DecidableEq, Repr

structure Router where
  table  : SMap U32 := []
  sched  : Schedule := {}
  /-- schedule committed and not yet switched to, and the table entries still to be written where old and new region do not
  both fit (R207). -/
  staged : Option Schedule := none
  rewrite : List (Nat × U32) := []
  /-- the old schedule injects no more before the switch: the phase or bake that used it has ended (R207). -/
  hold   : Bool := false
  deriving DecidableEq, Repr

/-- A flit on its way to a router input, or to a local port's ingress buffer. -/
structure Moving where
  flit : Flit
  site : Site
  inp  : Dir
  at_  : Nat
  deriving DecidableEq, Repr

/-- A draught flit in a router's holding buffer: where it is, what is left of its path, its injection turn. -/
structure Held where
  d    : Draught
  site : Site
  path : List Dir
  turn : Nat
  since : Nat
  deriving DecidableEq, Repr

structure Flue where
  cycle     : Nat := 0
  moving    : List Moving := []
  held      : List Held := []
  routers   : SMap Router := []
  /-- stop mask in force at the islands, and changes in flight: cycle, hearth, value (R215). -/
  mask      : U16 := 0
  maskQ     : List (Nat × Nat × Bool) := []
  stopQ     : List (Nat × Site × Nat × Bool) := []
  /-- stream-stop words that a chiplet's bridge has yet to send, and the cycle after each bridge's last word (R217). -/
  stopOut   : List (Nat × Site × Nat × Bool) := []
  stopAt    : SMap Nat := []
  /-- scheduled flits delivered to the chiplet bridges, by ring port. -/
  bridge    : List (Nat × Flit) := []
  /-- offset φ of each place of 0x3310.01; empty before the first compile. -/
  offsets   : List Nat := []
  routes    : List (Nat × Nat × List Dir) := []
  compiles  : U32 := 0
  /-- 0x3310.04. -/
  maxRoute  : Nat := 0
  /-- bound ring port of Stoker W, Baker W0–W2, host bridge, Stoker E, Baker E0–E2 (0x3310.06). -/
  agents    : SMap Nat := []
  compiling : Bool := false
  /-- no agent reaches the Flue (R196). -/
  cutOff    : Bool := false
  /-- link directions declared lost, by `5·site + port`. -/
  lostDirs  : List Nat := []
  /-- cycles of the CRC errors of each direction that still lie in the window, newest first (R199). -/
  crcWin    : SMap (List Nat) := []
  /-- firmware messages delivered to the agents of 0x3310.06, and those that wait for a turn of their agent's port: agent and
  flit, oldest first (R196). -/
  ring      : List (Nat × Draught) := []
  ringOut   : List (Nat × Draught) := []
  deriving DecidableEq, Repr

/-! ### Bakes and rectangles -/

/-- A graph package by its sections (R232 to R241). -/
structure Package where
  hdr     : BitVec 256 := 0
  recipes : List Recipe := []
  insts   : List (BitVec 512) := []
  binds   : List U64 := []
  tensors : List (BitVec 256) := []
  streams : List (BitVec 128) := []
  syncs   : List U64 := []
  dmas    : List (BitVec 512) := []
  deriving DecidableEq, Repr

/-- Replica check state of a bake (R461 to R465). -/
structure Replica where
  j        : U64 := 0
  result   : U8 := 0
  poison   : Bool := false
  /-- members removed from the active view, by entry. -/
  dropped  : U8 := 0
  odd      : U8 := 0
  counted  : U8 := 0
  own      : BitVec 128 := 0
  majority : BitVec 128 := 0
  checks   : U32 := 0
  foreign  : U32 := 0
  late     : U32 := 0
  /-- check under way, and reports held for it by member. -/
  open_    : Bool := false
  whole    : Bool := false
  reports  : SMap ReplicaReport := []
  expelled : Bool := false
  deriving DecidableEq, Repr

/-- One bank area (R466, 0x6021.b). -/
structure Bank where
  state  : U8 := 0
  epoch  : U32 := 0
  steps  : U64 := 0
  at_    : U64 := 0
  bytes  : U64 := 0
  digest : BitVec 128 := 0
  /-- statistics histories and scales by `16·instance + slot` (R466). -/
  hists  : SMap (List F32 × F32) := []
  /-- STATE tensors the item's I/O table names, with their DVAs (R468). -/
  io     : List (Nat × Nat) := []
  deriving DecidableEq, Repr

/-- Tensor statistics of a bake (0x3419.b): committed then abandoned sat, nan, range. -/
structure TensorStat where
  sat   : U32 := 0
  nan   : U32 := 0
  range : U32 := 0
  aSat  : U32 := 0
  aNan  : U32 := 0
  aRange : U32 := 0
  deriving DecidableEq, Repr

/-- One bake slot (R268). -/
structure Bake where
  state     : U8 := 0
  epoch     : U32 := 0
  tenant    : U8 := 0
  digest    : BitVec 384 := 0
  committed : U64 := 0
  fenced    : U64 := 0
  below     : U64 := 0
  reject    : BitVec 128 := 0
  migTo     : U8 := 0
  migDrain  : Bool := false
  pkg       : Package := {}
  place     : Option Placement := none
  longest   : Nat := 0
  /-- views exchanged an odd number of times (R253). -/
  swapped   : Bool := false
  tstats    : SMap TensorStat := []
  /-- statistics baseline of the current attempt by `16·core + slot`: sat, nan, range (R254, R459). -/
  baseline  : SMap (Nat × Nat × Nat) := []
  ring      : Nat := 0
  loadIdx   : U32 := 0
  /-- host addresses of tensors, from the I/O tables of the RUN in progress and of the LOAD (R278). -/
  io        : List (Nat × Nat) := []
  loadIo    : List (Nat × Nat) := []
  /-- RUN item whose step is in progress; phase in progress. -/
  item      : Option U32 := none
  phase     : Nat := 0
  committing : Bool := false
  ready     : Bool := false
  preempted : Bool := false
  draining  : Bool := false
  /-- ldma fills still to finish before the bake is in force. -/
  filling   : Bool := false
  /-- phase 1 of the step in progress has started (R266). -/
  begun     : Bool := false
  /-- placement compiled while the bake runs, switched in at the next commit (R260). -/
  nextPlace : Option Placement := none
  /-- transfers of each stream carried to a later phase in this step (R266). -/
  carried   : SMap Nat := []
  /-- Flue cycle at which the commit began to wait for digest reads or banks. -/
  waitFrom  : Option Nat := none
  noRoute   : Bool := false
  reason    : U8 := 0
  /-- triggers of R260 seen and not yet acted on, by the row number of R286, and the losses among them, each counted (R289). -/
  triggers  : List Nat := []
  losses    : Nat := 0
  /-- the step has been fenced for a migration that waits for its switch (R263). -/
  absorbed  : Bool := false
  /-- values of 0x3101 read at placement: slice, H, m, E5M2 mode (R129). -/
  defaults  : Nat × Nat × Nat × Bool := (2, 16, 0, false)
  replica   : Replica := {}
  bankA     : Bank := {}
  bankB     : Bank := {}
  bankDue   : Option Bool := none
  /-- STATE entries of the I/O table of the item that made a bank due. -/
  bankIo    : List (Nat × Nat) := []
  waitUs    : U64 := 0
  /-- transfers received per channel since the last commit (R348). -/
  linkRecv  : SMap Nat := []
  deriving DecidableEq, Repr

/-- The Baker cores' shared state (R250, R252, R267). -/
structure Baker where
  epoch    : U32 := 0
  /-- Flue cycle at which the counter last advanced (R252). -/
  epochAt  : Option Nat := none
  slots    : SMap Bake := []
  /-- placement cache: key, digest of the package with the other inputs of R247; most recently used first. -/
  cache    : List (BitVec 384 × Nat × Placement) := []
  hits     : U64 := 0
  misses   : U64 := 0
  /-- placements the Baker has made, by package and the other inputs of R247: the model's own record, so that equal inputs give an
  equal placement whether cached or not. -/
  made     : List (BitVec 384 × Nat × Placement) := []
  reject   : BitVec 128 := 0
  rectState : SMap U8 := []
  deriving DecidableEq, Repr

/-! ### Rings, synchronisation hub, DMA and translation -/

/-- A ledger entry and the progress of its item (R280 to R286). -/
structure Item where
  index    : U32
  desc     : BitVec 512
  /-- 1 ACCEPTED, 2 COMMITTING, 3 COMMITTED, 4 ENDED. -/
  state    : U8 := 1
  attempts : Nat := 0
  reason   : U8 := 0
  epoch    : U32 := 0
  slot     : Nat := 0
  fences   : Nat := 0
  ready    : Bool := false
  startable : Bool := false
  started  : Bool := false
  /-- status and detail once the item has ended. -/
  status   : Option (U8 × BitVec 128) := none
  /-- index of the nearest earlier LOAD of the ring (R276). -/
  lref     : Option U32 := none
  /-- resets whose fences do not count have fenced this item (R444). -/
  uncounted : Nat := 0
  deriving DecidableEq, Repr

/-- A work ring's registers and ledger (R272). -/
structure Ring where
  descBase : U64 := 0
  alogBase : U64 := 0
  cmplBase : U64 := 0
  ptRoot   : U64 := 0
  ctl      : U64 := 0
  tail     : U32 := 0
  head     : U32 := 0
  complete : U32 := 0
  chead    : U32 := 0
  cancelIx : U32 := 0
  cstat    : BitVec 2 := 0
  cancels  : List U32 := []
  ledger   : List Item := []
  /-- index of the latest LOAD accepted (R276), and Flue cycle of the ring's last interrupt (R275). -/
  lastLoad : Option U32 := none
  irqAt    : Option Nat := none
  /-- a completion record has been written inside the moderation interval. -/
  irqDue   : Bool := false
  deriving DecidableEq, Repr

/-- What a DMA descriptor is for (R299): a step instance with its step and loop variables, an ldma fill, a copy-out, a
bank copy and the host copy of a bank (area B when set). -/
inductive DmaUse where
  | step (core : CoreId) (order step : Nat) (vars : List Nat)
  | load (tensor : Nat)
  | copyOut (tensor : Nat)
  | bank (areaB : Bool)
  | hostCopy (areaB : Bool)
  deriving DecidableEq, Repr

/-- Where one side of a DMA row lies. -/
inductive Side where
  | pad (core : CoreId) (addr : Nat)
  /-- byte `off` of a stack tensor of the bake, in its next view when `next` (R314). -/
  | tens (tensor : Nat) (next : Bool) (off : Nat)
  /-- byte `off` of an area of the stacks spread over the bake's area channels from base `base` on (R314). -/
  | area (base off : Nat)
  /-- a DVA under the page tables of the bake's ring (R303). -/
  | host (dva : Nat)
  deriving DecidableEq, Repr

/-- A DMA descriptor, or a request waiting for one (R299, R301). -/
structure DmaDesc where
  id       : Nat
  use      : DmaUse
  slot     : Nat
  epoch    : U32
  /-- rows in order, from and to, and bytes to a row. -/
  src      : List Side
  dst      : List Side
  bytes    : Nat
  /-- bytes moved. -/
  moved    : Nat := 0
  running  : Bool := false
  /-- fault it is parked on: DVA of the page, cause, sequence number of its latest record (0 before the record). -/
  parked   : Option (Nat × Nat × U32) := none
  /-- stopped and kept through a pre-emption (R309). -/
  saved    : Bool := false
  /-- stopped by a poisoned word bound for host memory (R301). -/
  dead     : Bool := false
  deriving DecidableEq, Repr

/-- A translation held by the cache of a memory-side controller (R304): root, first DVA, log2 of its size, leaf entry. -/
structure Tlb where
  south : Bool
  root  : Nat
  base  : Nat
  size  : Nat
  leaf  : U64
  deriving DecidableEq, Repr

/-- A fault record (R307). -/
structure FaultRec where
  dva   : U64
  cause : U8
  ring  : U8
  slot  : U8
  att   : U8
  inst  : U16
  step  : U16
  seq   : U32
  deriving DecidableEq, Repr

structure RingEngine where
  rings    : SMap Ring := []
  accepted : U64 := 0
  failed   : U64 := 0
  ignored  : U64 := 0
  invRoot  : U64 := 0
  invAddr  : U64 := 0
  invBusy  : Bool := false
  fqBase   : U64 := 0
  fqTail   : U64 := 0
  fqHead   : U64 := 0
  faultSeq : U32 := 0
  recent   : List FaultRec := []
  parked   : U64 := 0
  resolved : U64 := 0
  late     : U64 := 0
  unresolved : U64 := 0
  recLost  : U64 := 0
  dmas     : List DmaDesc := []
  nextDma  : Nat := 0
  high     : Nat := 0
  waits    : U64 := 0
  /-- frames of the paging pool in use, counted from its base (R309). -/
  frames   : Nat := 0
  /-- pages brought in: stack address of the frame, bus address of the leaf and backing IOVA (R309, R321). -/
  backed   : List (Nat × Nat × Nat) := []
  /-- device and ATS translations held by the two controllers' caches, most recently used first (`true` south, and
  IOVA page), and outstanding PRI requests by fault sequence. -/
  tlb      : List Tlb := []
  ats      : List (Bool × Nat) := []
  pri      : List U32 := []
  atsInv   : Nat := 0
  /-- global sync objects by number from 0xF000, signals in flight on the sync network with their sender, 0x5011. -/
  globals  : SMap SyncObj := []
  /-- the mirror of the global values that every core holds (R295); a value reaches all mirrors together. -/
  mirrors  : SMap U32 := []
  sigs     : List (CoreId × Sig) := []
  stale    : U64 := 0
  stalls   : U64 := 0
  /-- MSI-X messages sent, newest first. -/
  msix     : List Nat := []
  freeCtr  : Nat := 0
  deriving DecidableEq, Repr

/-! ### Memory stacks -/

structure Channel where
  /-- 0 in service, 1 retired planned, 2 retired otherwise, 3 retraining. -/
  state  : U8 := 0
  lanes  : U8 := 0
  corr   : U32 := 0
  uncorr : U32 := 0
  waits  : U64 := 0
  deriving DecidableEq, Repr

structure Stacks where
  /-- 64-bit words by stack address div 8; an unlisted word reads poisoned (R317). -/
  words    : SMap (Option U64) := []
  state    : SMap U8 := []
  chans    : SMap Channel := []
  /-- ledger copies A and B whole (R320). -/
  copyA    : Bool := true
  copyB    : Bool := true
  oneCopy  : Bool := false
  deriving DecidableEq, Repr

/-! ### Stedan links -/

structure Port where
  /-- state code of R356. -/
  state    : U8 := 0
  width    : U8 := 0
  spare    : U8 := 0
  version  : U16 := 0
  peerDev  : U16 := 0
  peerInc  : U64 := 0
  known    : Bool := false
  lanes    : List Nat := []
  nextSeq  : BitVec 12 := 0
  lastRx   : BitVec 12 := 4095
  acked    : BitVec 12 := 4095
  ackMoved : Bool := false
  missedRun : Nat := 0
  /-- link-down count in force, taken at each ack-deadline interval (R331). -/
  limit    : Nat := 3
  /-- Flue cycle of the last failed training (R342). -/
  failedAt : Option Nat := none
  nakSent  : Bool := false
  /-- the next frame carries the nak bit. -/
  nakDue   : Bool := false
  /-- sequenced frames sent and not acknowledged, oldest first; those due to be sent again; new frames due. -/
  replay   : List Frame := []
  resend   : List Frame := []
  out      : List Frame := []
  /-- last frame put on the lanes. -/
  wire     : Option Frame := none
  crd0     : Nat := 8192
  crd1     : Nat := 32
  crd2     : Nat := 32
  /-- credits of emptied space, not yet returned. -/
  ret0     : Nat := 0
  ret1     : Nat := 0
  ret2     : Nat := 0
  /-- received frames not yet handled, and transit frames without a route, already counted. -/
  rx       : List Frame := []
  stuck    : List Frame := []
  trainOk  : Nat := 0
  lastTrain : Option TrainInfo := none
  sent     : U64 := 0
  replayed : U64 := 0
  missed   : U32 := 0
  retrains : U32 := 0
  fresh    : U32 := 0
  moved    : U32 := 0
  dropped  : U64 := 0
  badTypes : U64 := 0
  /-- a digest mismatch is under way, already reported, and with which peer (R378). -/
  mismatch : Bool := false
  reported : Bool := false
  peerBad  : U16 := 0
  deriving DecidableEq, Repr

/-- A channel-table entry (R345) with its staging and progress. -/
structure Channel5 where
  ent    : BitVec 256 := 0
  stage  : BitVec 192 := 0
  xseq   : BitVec 10 := 0
  /-- xseq at the bake's last commit (R344). -/
  xseqC  : BitVec 10 := 0
  /-- bytes the bridge holds for the channel, and the flits of the transfer being packed (R344). -/
  held   : Nat := 0
  pack   : List U64 := []
  packPm : List Bool := []
  packed : Nat := 0
  /-- the stream's stop bit as the bridge set it. -/
  stopped : Bool := false
  expect : BitVec 10 := 0
  wrote  : Nat := 0
  deriving DecidableEq, Repr

structure Links where
  inc      : U64 := 0
  ports    : SMap Port := []
  chans    : SMap Channel5 := []
  waiting  : List Frame := []
  hopDrop  : U64 := 0
  stale    : U64 := 0
  noRoute  : U64 := 0
  reports  : SMap BrokerReport := []
  lastCap  : SMap F32 := []
  brokerK  : U64 := 0
  counted  : U64 := 0
  late     : U64 := 0
  quiet    : Nat := 0
  mismatches : U64 := 0
  lastBad  : U32 := 0xFFFFFFFF
  deriving DecidableEq, Repr

/-! ### Control plane -/

/-- Staging of one commit set: entries with their bytes, and the generation at the first write (R375). -/
structure Staging where
  vals : List (Nat × List Byte) := []
  gen  : U32 := 0
  deriving DecidableEq, Repr

/-- A session of a management port: number, and responses held by sequence number (R366). -/
structure Session where
  id   : U32
  held : List (U32 × List Byte)
  deriving DecidableEq, Repr

structure MgmtPort where
  sessions : List Session := []
  executed : U64 := 0
  repeated : U64 := 0
  malformed : U64 := 0
  stale    : U64 := 0
  response : List Byte := []
  deriving DecidableEq, Repr

/-- A mailbox channel (R382). -/
structure Mailbox where
  regs    : SMap U32 := []
  full    : Bool := false
  drop    : Bool := false
  refused : U32 := 0
  goneAt  : Nat := 0
  deriving DecidableEq, Repr

/-- A message sent and not acknowledged (R381). -/
structure Unacked where
  msg   : FwMsg
  /-- device it goes to, or none for a message on the die. -/
  dev   : Option Nat
  sends : Nat
  deriving DecidableEq, Repr

structure Dict where
  /-- live values of writable scalar entries by `256·index + sub`. -/
  scalar  : SMap Nat := []
  /-- live values of writable domains. -/
  domain  : SMap (List Byte) := []
  staging : SMap Staging := []
  gens    : SMap U32 := []
  /-- sets committed and waiting for their boundary, with the values to apply. -/
  due     : SMap Staging := []
  locked  : Bool := false
  fwVer   : U32 := 0
  deriving DecidableEq, Repr

/-- What a Stoker journal copy holds (R451). -/
structure Journal where
  staging : SMap Staging := []
  portA   : MgmtPort := {}
  portB   : MgmtPort := {}
  trips   : List Nat := []
  /-- rail states in progress, and DMA descriptors parked on faults that are being paged (R309, R451). -/
  rails   : SMap U8 := []
  paging  : List Nat := []
  logTail : U64 := 1
  deriving DecidableEq, Repr

structure Control where
  dict     : Dict := {}
  portA    : MgmtPort := {}
  portB    : MgmtPort := {}
  dictReq  : SMap Byte := []
  dictRsp  : List Byte := []
  dictBusy : Bool := false
  boxes    : SMap Mailbox := []
  unacked  : List Unacked := []
  /-- mseq kept per source and destination with the status answered: `(srcm, dstm, last 32)` (R381). -/
  seen     : List (U8 × U8 × List (U16 × U32)) := []
  nextMseq : SMap U16 := []
  msgDrops : U64 := 0
  /-- messages delivered to firmware, newest first. -/
  delivered : List FwMsg := []
  /-- messages given to the draught for delivery on the die, newest first. -/
  onDie    : List FwMsg := []
  journal  : Journal := {}
  ptpState : U8 := 0
  ptpOff   : Int := 0
  ptpPort  : U8 := 0
  ptpUtc   : Nat := 0
  pps      : Nat := 0
  ppsSeen  : Bool := false
  deriving DecidableEq, Repr

/-! ### Firmware processors and resets -/

structure Processor where
  /-- 0 running, 1 restarting, 2 failed, 3 standby, 4 held. -/
  state    : U8 := 4
  expiries : U32 := 0
  restarts : U32 := 0
  recent   : U32 := 0
  last     : U64 := 0
  crash    : List Byte := []
  deriving DecidableEq, Repr

/-- 0x7100.03. -/
structure ResetRecord where
  level    : U8 := 0
  cause    : U8 := 0
  bnd      : U8 := 0
  target   : U16 := 0
  start    : U64 := 0
  dur      : U32 := 0
  drained  : U16 := 0
  absorbed : U16 := 0
  deriving DecidableEq, Repr

structure Recovery where
  /-- 0x7100.01. -/
  dev      : U8 := 0
  procs    : SMap Processor := []
  active   : U8 := 0
  /-- the Stoker that is not active has failed its ROM self-test at this start and is held (R436). -/
  romFail  : Bool := false
  /-- Flue cycle of the last journal copy (0x7004.01). -/
  journalAt : Nat := 0
  fwState  : BitVec 4 := 0
  fwRej    : BitVec 4 := 0
  fwReason : U8 := 0
  fwSvn    : U32 := 0
  sram     : SMap Byte := []
  rejects  : U32 := 0
  dropped  : U32 := 0
  last     : ResetRecord := {}
  /-- record of the reset under way. -/
  cur      : ResetRecord := {}
  /-- reset whose boundary is being reached, and requests waiting for it (R446). -/
  running  : Option ResetScope := none
  requests : List (ResetScope × Boundary) := []
  /-- both Stokers are down and the warm reset of the rescue sequencer is under way (R445). -/
  noSpill  : Bool := false
  deriving DecidableEq, Repr

/-! ### Integrity -/

/-- A monitor record (R475). -/
structure Monitor where
  armed   : Bool := true
  samples : U64 := 0
  minQ    : U64 := 0xFFFFFFFFFFFFFFFF
  maxQ    : U64 := 0
  bins    : SMap U32 := []
  deriving DecidableEq, Repr

structure Integrity where
  nextSeq  : U64 := 1
  /-- the log's records by position seq mod 1,024. -/
  log      : SMap Event := []
  acked    : U64 := 0
  monitors : SMap Monitor := []
  command  : U32 := 0
  deriving DecidableEq, Repr

/-- The state of the block. -/
structure State where
  fuse    : Fuse := {}
  aon     : AlwaysOn := {}
  mesh    : Mesh := {}
  hearths : SMap Hearth := []
  rails   : SMap Rail := []
  power   : Power := {}
  map     : CoreMap := {}
  cores   : SMap Core := []
  flue    : Flue := {}
  baker   : Baker := {}
  ring    : RingEngine := {}
  hbm     : Stacks := {}
  /-- host memory as the device has found or written it, one byte to a cell; unlisted bytes read 0. -/
  host    : List Host.Cell := []
  links   : Links := {}
  ctl     : Control := {}
  recov   : Recovery := {}
  integ   : Integrity := {}
  /-- commands waiting, first in, first out. -/
  pending : List Instr := []
  deriving DecidableEq, Repr

/-- The block right after reset: supplies in tolerance, the always-on block running, everything else held at the
ROM stage of R434, no command waiting. -/
def State.reset : State := {}

end Sys2Proof.Machine
end

