-- ==== Sys2Proof/Machine/Ops.lean ====
section
/-! DEFINITION. The named operations over the state: sparse maps, bit fields and bytes, the geometry of the die
(R4, R5, R15, R20 to R26), access to the units, the event queue, sync objects and the dictionary's live values. -/

namespace Sys2Proof.Machine

abbrev Out := Host.Outcome State Fault Refusal

/-! ### Sparse maps in canonical form -/

/-- The value at `k`; an unlisted key reads as `d k`. -/
def smGet {α : Type} (d : Nat → α) : SMap α → Nat → α
  | [], k => d k
  | (j, v) :: m, k => if j = k then v else smGet d m k

/-- The map with `k` unlisted. -/
def smDrop {α : Type} (m : SMap α) (k : Nat) : SMap α := m.filter fun e => decide (e.1 ≠ k)

/-- The map with `v` listed at `k`. -/
def smPut {α : Type} : SMap α → Nat → α → SMap α
  | [], k, v => [(k, v)]
  | (j, w) :: m, k, v => if k < j then (k, v) :: (j, w) :: m else if k = j then (k, v) :: m else (j, w) :: smPut m k v

/-- Store `v` at `k`: keys stay strictly rising, and a value equal to `d k` is not listed. -/
def smSet {α : Type} [DecidableEq α] (d : Nat → α) (m : SMap α) (k : Nat) (v : α) : SMap α :=
  if v = d k then smDrop m k else smPut m k v

/-- The canonical form: keys strictly rising and no entry equal to its default. -/
def smWf {α : Type} [DecidableEq α] (d : Nat → α) : SMap α → Bool
  | [] => true
  | [(j, v)] => v != d j
  | (j, v) :: (k, w) :: m => v != d j && j < k && smWf d ((k, w) :: m)

/-- Map with one default for every key. -/
def mget {α : Type} (d : α) (m : SMap α) (k : Nat) : α := smGet (fun _ => d) m k

def mset {α : Type} [DecidableEq α] (d : α) (m : SMap α) (k : Nat) (v : α) : SMap α := smSet (fun _ => d) m k v

def mmod {α : Type} [DecidableEq α] (d : α) (m : SMap α) (k : Nat) (f : α → α) : SMap α := mset d m k (f (mget d m k))

/-- The entries with keys from `lo` up to `lo + n`. -/
def mwithin {α : Type} (m : SMap α) (lo n : Nat) : SMap α := m.filter fun e => decide (lo ≤ e.1) && decide (e.1 < lo + n)

/-- The entries outside keys `lo` up to `lo + n`. -/
def mwithout {α : Type} (m : SMap α) (lo n : Nat) : SMap α := m.filter fun e => !(decide (lo ≤ e.1) && decide (e.1 < lo + n))

/-! ### Bits, bytes and numbers -/

/-- Field `hi … lo` of a word, as a number. -/
def fld {n : Nat} (w : BitVec n) (hi lo : Nat) : Nat := (w.extractLsb' lo (hi - lo + 1)).toNat

/-- A two's-complement field. -/
def sfld {n : Nat} (w : BitVec n) (hi lo : Nat) : Int := (w.extractLsb' lo (hi - lo + 1)).toInt

def bitAt {n : Nat} (w : BitVec n) (i : Nat) : Bool := w.getLsbD i

def setBit {n : Nat} (w : BitVec n) (i : Nat) (b : Bool) : BitVec n :=
  let m := BitVec.ofNat n (2 ^ i)
  if b then w ||| m else w &&& ~~~m

/-- Replace field `hi … lo` of a word by the low bits of `v`. -/
def putFld {n : Nat} (w : BitVec n) (hi lo v : Nat) : BitVec n :=
  let k := hi - lo + 1
  let msk := BitVec.ofNat n ((2 ^ k - 1) * 2 ^ lo)
  (w &&& ~~~msk) ||| BitVec.ofNat n ((v % 2 ^ k) * 2 ^ lo)

/-- `n` bytes of a number, little-endian (R8). -/
def leBytes : Nat → Nat → List Byte
  | 0, _ => []
  | n + 1, v => BitVec.ofNat 8 v :: leBytes n (v / 256)

/-- The number little-endian bytes spell (R8). -/
def ofLe : List Byte → Nat
  | [] => 0
  | b :: t => b.toNat + 256 * ofLe t

/-- The number big-endian bytes spell (R438). -/
def ofBe (l : List Byte) : Nat := ofLe l.reverse

def ceilDiv (a b : Nat) : Nat := (a + b - 1) / b

/-- The entry of a list, or `d` beyond its end. -/
def nth {α : Type} (d : α) : List α → Nat → α
  | [], _ => d
  | x :: _, 0 => x
  | _ :: t, n + 1 => nth d t n

/-- `l` with entry `n` replaced. -/
def setNth {α : Type} : List α → Nat → α → List α
  | [], _, _ => []
  | _ :: t, 0, v => v :: t
  | x :: t, n + 1, v => x :: setNth t n v

/-- Bytes `off … off + len − 1` of a list, short at its end. -/
def slice {α : Type} (l : List α) (off len : Nat) : List α := (l.drop off).take len

/-- `l` with bytes from `off` on replaced by `v`, not lengthened. -/
def splice {α : Type} (l : List α) (off : Nat) (v : List α) : List α :=
  l.take off ++ v.take (l.length - off) ++ l.drop (off + v.length)

def padTo {α : Type} (d : α) (n : Nat) (l : List α) : List α := l.take n ++ List.replicate (n - l.length) d

/-- Sixteen 64-bit words of 128 bytes and the like: bytes of a list of words. -/
def wordsBytes (l : List U64) : List Byte := l.flatMap fun w => leBytes 8 w.toNat

/-- Words of a byte list, the last padded with zero bytes. -/
def bytesWords : Nat → List Byte → List U64
  | 0, _ => []
  | n + 1, l => BitVec.ofNat 64 (ofLe (l.take 8)) :: bytesWords n (l.drop 8)

/-- A counter that stops at its largest value. -/
def satInc {n : Nat} (c : BitVec n) (k : Nat) : BitVec n := BitVec.ofNat n (min (c.toNat + k) (2 ^ n - 1))

/-! ### Geometry (R4, R5, R15, R20 to R23) -/

def siteCol (p : Site) : Nat := p % 16
def siteRow (p : Site) : Nat := p / 16

/-- Logical rows of a grade (R49). -/
def Grade.rows : Grade → Nat
  | .plv1A => 15
  | .plv1B => 14

/-- Sites left out of each column (R21). -/
def Grade.leftOut : Grade → Nat
  | .plv1A => 1
  | .plv1B => 2

/-- Grade code (R33). -/
def Grade.code : Grade → U8
  | .plv1A => 0x1A
  | .plv1B => 0x1B

/-- Hearth of a site (R5). -/
def hearthOfSite (p : Site) : Nat := 4 * (siteRow p / 4) + siteCol p / 4

/-- Field of a site (R5, R14). -/
def fieldOfSite (p : Site) : Nat := 4 * (siteRow p / 8) + siteCol p / 4

/-- Sites of a hearth (R26). -/
def hearthSites (n : Nat) : List Site :=
  (List.range 16).map fun i => 16 * (4 * (n / 4) + i / 4) + (4 * (n % 4) + i % 4)

/-- Number of logical cores (R49). -/
def gridSize (s : State) : Nat := 16 * s.fuse.grade.rows

/-- The part has a logical core of that number (R32). -/
def coreExists (s : State) (c : CoreId) : Bool := decide (c < gridSize s)

/-- Spare map of a column as read at the last cold start (0x3001). -/
def spareMap (s : State) (col : Nat) : U16 := mget 0 s.map.spare col

/-- Rows of a column that R5 numbers, north to south. -/
def goodRows (s : State) (col : Nat) : List Nat := (List.range 16).filter fun r => !bitAt (spareMap s col) r

/-- Physical row of a logical core: its substitute row (R23) or the numbering of R5; none for an affected logical
row of R25. -/
def rowOf (s : State) (c : CoreId) : Option Nat :=
  let sub := mget 255 s.map.subRow c
  if sub = 255 then (goodRows s (c % 16))[c / 16]? else some sub

def siteOf (s : State) (c : CoreId) : Option Site := (rowOf s c).map fun r => 16 * r + c % 16

/-- Logical core at a site, if any. -/
def coreAt (s : State) (p : Site) : Option CoreId :=
  ((List.range s.fuse.grade.rows).map fun y => 16 * y + siteCol p).find? fun c => decide (siteOf s c = some p)

/-- Hearth that holds a core. -/
def hearthOf (s : State) (c : CoreId) : Nat := ((siteOf s c).map hearthOfSite).getD 0

def opposite : Dir → Dir
  | .n => .s
  | .s => .n
  | .e => .w
  | .w => .e
  | .loc => .loc

def dirCode : Dir → Nat
  | .n => 0
  | .s => 1
  | .e => 2
  | .w => 3
  | .loc => 4

def dirs4 : List Dir := [.n, .s, .e, .w]

/-- Neighbouring site in a direction, none beyond the die. -/
def nextSite (p : Site) (d : Dir) : Option Site :=
  match d with
  | .n => if siteRow p = 0 then none else some (p - 16)
  | .s => if siteRow p = 15 then none else some (p + 16)
  | .e => if siteCol p = 15 then none else some (p + 1)
  | .w => if siteCol p = 0 then none else some (p - 1)
  | .loc => none

/-- Ring port that faces the I/O ring (R195). -/
def ringPort (p : Site) (d : Dir) : Option Nat :=
  match d with
  | .n => if siteRow p = 0 then some (siteCol p) else none
  | .e => if siteCol p = 15 then some (16 + siteRow p) else none
  | .s => if siteRow p = 15 then some (32 + siteCol p) else none
  | .w => if siteCol p = 0 then some (48 + siteRow p) else none
  | .loc => none

/-- Site and direction of a ring port. -/
def portSite (m : Nat) : Site × Dir :=
  if m < 16 then (m, .n) else if m < 32 then (16 * (m - 16) + 15, .e)
  else if m < 48 then (240 + (m - 32), .s) else (16 * (m - 48), .w)

/-- Chiplet whose bridge a ring port belongs to (R195). -/
def bridgeOf (m : Nat) : Option Nat :=
  if 48 ≤ m ∧ m ≤ 52 then some 0 else if 59 ≤ m ∧ m ≤ 63 then some 1
  else if 16 ≤ m ∧ m ≤ 20 then some 2 else if 27 ≤ m ∧ m ≤ 31 then some 3 else none

/-- Ports of the two agent groups, and of the memory-side controllers, which carry draughts only (R195, R196). -/
def agentPort (m : Nat) : Bool := (decide (53 ≤ m) && decide (m ≤ 58)) || (decide (21 ≤ m) && decide (m ≤ 26))
def memoryPort (m : Nat) : Bool := decide (m = 7) || decide (m = 39)

/-- A ring port that something is connected to (R195). -/
def portConnected (m : Nat) : Bool := (bridgeOf m).isSome || agentPort m || memoryPort m

/-- The seam a link crosses, if any: `false` stitch, `true` lintel (R15). -/
def seamOf (p : Site) (d : Dir) : Option Bool :=
  match d with
  | .e => if siteCol p = 7 then some true else if siteCol p = 3 ∨ siteCol p = 11 then some false else none
  | .w => if siteCol p = 8 then some true else if siteCol p = 4 ∨ siteCol p = 12 then some false else none
  | .s => if siteRow p = 7 then some false else none
  | .n => if siteRow p = 8 then some false else none
  | .loc => none

/-! ### Units -/

def State.core (s : State) (c : CoreId) : Core := mget {} s.cores c
def State.modCore (s : State) (c : CoreId) (f : Core → Core) : State := { s with cores := mmod {} s.cores c f }
def State.hearth (s : State) (n : Nat) : Hearth := mget {} s.hearths n
def State.modHearth (s : State) (n : Nat) (f : Hearth → Hearth) : State := { s with hearths := mmod {} s.hearths n f }
def State.rail (s : State) (r : Nat) : Rail := mget {} s.rails r
def State.modRail (s : State) (r : Nat) (f : Rail → Rail) : State := { s with rails := mmod {} s.rails r f }
def State.bake (s : State) (b : Nat) : Bake := mget {} s.baker.slots b
def State.modBake (s : State) (b : Nat) (f : Bake → Bake) : State :=
  { s with baker := { s.baker with slots := mmod {} s.baker.slots b f } }
def State.workRing (s : State) (r : Nat) : Ring := mget {} s.ring.rings r
def State.modRing (s : State) (r : Nat) (f : Ring → Ring) : State :=
  { s with ring := { s.ring with rings := mmod {} s.ring.rings r f } }
def State.port (s : State) (p : Nat) : Port := mget {} s.links.ports p
def State.modPort (s : State) (p : Nat) (f : Port → Port) : State :=
  { s with links := { s.links with ports := mmod {} s.links.ports p f } }
def State.router (s : State) (p : Site) : Router := mget {} s.flue.routers p
def State.modRouter (s : State) (p : Site) (f : Router → Router) : State :=
  { s with flue := { s.flue with routers := mmod {} s.flue.routers p f } }
def State.chan (s : State) (c : Nat) : Channel := mget {} s.hbm.chans c
def State.modChan (s : State) (c : Nat) (f : Channel → Channel) : State :=
  { s with hbm := { s.hbm with chans := mmod {} s.hbm.chans c f } }
def State.proc (s : State) (m : Nat) : Processor := mget {} s.recov.procs m
def State.modProc (s : State) (m : Nat) (f : Processor → Processor) : State :=
  { s with recov := { s.recov with procs := mmod {} s.recov.procs m f } }
def State.box (s : State) (k : Nat) : Mailbox := mget {} s.ctl.boxes k
def State.modBox (s : State) (k : Nat) (f : Mailbox → Mailbox) : State :=
  { s with ctl := { s.ctl with boxes := mmod {} s.ctl.boxes k f } }
def State.channel (s : State) (k : Nat) : Channel5 := mget {} s.links.chans k
def State.modChannel (s : State) (k : Nat) (f : Channel5 → Channel5) : State :=
  { s with links := { s.links with chans := mmod {} s.links.chans k f } }

def Core.modLive (k : Core) (f : Counters → Counters) : Core := { k with live := f k.live }
def Core.modSeq (k : Core) (f : Sequencer → Sequencer) : Core := { k with seq := f k.seq }
def Core.modSync (k : Core) (f : SyncUnit → SyncUnit) : Core := { k with sync := f k.sync }
def Core.modIsland (k : Core) (f : Island → Island) : Core := { k with island := f k.island }
def Core.modPad (k : Core) (f : Scratchpad → Scratchpad) : Core := { k with pad := f k.pad }
def Core.modArrays (k : Core) (f : Arrays → Arrays) : Core := { k with arrays := f k.arrays }

/-- A command on one logical core: it runs where the part has that core. -/
def onCore (s : State) (c : CoreId) (t : State) : Out := if coreExists s c then .next t else .fault .noSuchUnit

/-- A command on one of a numbered kind of unit, 1 to `n`. -/
def onSlot (n b : Nat) (t : State) : Out := if 1 ≤ b ∧ b ≤ n then .next t else .fault .noSuchUnit

/-- A command on one of `n` units numbered from 0. -/
def onUnit (n k : Nat) (t : State) : Out := if k < n then .next t else .fault .noSuchUnit

/-! ### Core map (R23, R32, R479) -/

/-- The hearth's routers and cores are on the Flue: neither switched off nor lost, nor clamped by the isolation cells
(R28, R427, R428). -/
def hearthLive (s : State) (n : Nat) : Bool :=
  (s.hearth n).state != 2 && (s.hearth n).state != 3 && !(s.hearth n).clamped

/-- Bypassed physical columns at a core's site (R76, R82). -/
def bypassOf (s : State) (c : CoreId) : List Nat :=
  match siteOf s c with
  | some p => mget [] s.map.bypass p
  | none => []

/-- Width a core would report with its present bypass set (R76). -/
def fullWidth (s : State) (c : CoreId) : Nat := 512 - (bypassOf s c).length

/-- Reported width, 0x3002.s: 0 for a retired core, a hole or a pending change (R32, R479). -/
def width (s : State) (c : CoreId) : Nat :=
  if !coreExists s c || (siteOf s c).isNone then 0
  else if (s.map.pending.find? fun e => decide (e.1 = c)).isSome then 0
  else mget 512 s.map.width c

/-- Usable: of width above 0 and not unreachable (R246, R269). -/
def usable (s : State) (c : CoreId) : Bool := decide (0 < width s c) && !s.map.unreach.contains c

/-- Usable cores, 0x3000.04 (R32). -/
def usableCount (s : State) : Nat := ((List.range (gridSize s)).filter fun c => decide (0 < width s c)).length

/-- A router stands at a site that is neither spared nor in a lost or switched-off hearth (R193, R28). -/
def hasRouter (s : State) (p : Site) : Bool := (coreAt s p).isSome && hearthLive s (hearthOfSite p)

/-! ### Events (R471 to R473) -/

/-- Time stamp: µs since 2000-01-01, bit 63 set while the calendar is invalid (R471). -/
def eventTime (s : State) : U64 := setBit (BitVec.ofNat 64 (s.aon.calendar / 8000)) 63 (!s.aon.calValid)

/-- Put an event among others in ascending order of src, behind those of its own (R473). -/
def insertBySrc (e : Event) : List Event → List Event
  | [] => [e]
  | x :: t => if e.src.toNat < x.src.toNat then e :: x :: t else x :: insertBySrc e t

/-- Records in the queue that were raised in the Flue cycle under way. -/
def eventsNow (s : State) : Nat := if s.aon.queuedAt = s.flue.cycle then min s.aon.queuedNew s.aon.queue.length else 0

/-- Raise an event: it enters the 64-record queue, among the events of its Flue cycle in ascending order of src, or is counted lost
when the queue is full (R473). -/
def raise (s : State) (index : U16) (sub sev src : U8) (arg : U64) : State :=
  if s.aon.queue.length < 64 then
    let n := eventsNow s
    let old := s.aon.queue.length - n
    { s with aon := { s.aon with
        queue := s.aon.queue.take old ++ insertBySrc ⟨0, eventTime s, index, sub, sev, src, arg⟩ (s.aon.queue.drop old),
        queuedAt := s.flue.cycle, queuedNew := n + 1 } }
  else { s with aon := { s.aon with lost := s.aon.lost + 1 } }

/-- Master ID of the active Stoker (R360), 0xFF when there is none. -/
def stokerId (s : State) : U8 := if s.recov.active = 0 then 0xFF else s.recov.active

/-- Raise an event from the active Stoker's side. -/
def raiseS (s : State) (index : Nat) (sub sev arg : Nat) : State :=
  raise s (BitVec.ofNat 16 index) (BitVec.ofNat 8 sub) (BitVec.ofNat 8 sev) (stokerId s) (BitVec.ofNat 64 arg)

/-- ALERT_N asserted (R473): the log holds an unacknowledged event of severity 0x2 or above, or rescue mode. -/
def alertN (s : State) : Bool :=
  s.aon.rescue != 0 || s.integ.log.any fun e => decide (2 ≤ e.2.sev.toNat) && decide (s.integ.acked.toNat < e.2.seq.toNat)

/-! ### Persistent records (R392) -/

def State.modRec (s : State) (f : Records → Records) : State := { s with aon := { s.aon with recA := f s.aon.recA } }

/-! ### Settings of the object dictionary -/

/-- Key of a dictionary entry. -/
def dkey (index sub : Nat) : Nat := 256 * index + sub

/-- Reset value of a writable scalar entry, by key; 0 where the chapter states 0 or none (log entry 5). -/
def scalarReset (grade : Grade) (k : Nat) : Nat :=
  let i := k / 256
  let j := k % 256
  match i with
  | 0x1002 => 0x0100
  | 0x1100 => 10
  | 0x1101 => 120
  | 0x1130 => if j = 7 then 100 else 0
  | 0x1401 => if j = 3 then 0x400CCCCD else 0
  | 0x2010 => 2000
  | 0x2013 => 1600
  | 0x2017 => 20
  | 0x2030 => if j = 1 then 4 else if j = 2 then 10 else if j = 3 then 24 else 0
  | 0x2103 => 1000
  | 0x2130 => 0x466A6000
  | 0x2201 => 0x42C40000
  | 0x3101 => if j = 1 then 2 else if j = 2 then 16 else 0
  | 0x3230 => if j = 1 then 4096 else if j = 2 then 1 else 0
  | 0x3321 => if j = 1 then 8 else if j = 2 then 1000 else 0
  | 0x3402 => if j = 1 then 100000 else if j = 2 then 1 else if j = 3 then 1 else if j = 4 then 3 else 0
  | 0x3501 => if j = 1 then 0x000F0000 + 256 * (grade.rows - 1) + 1 else 0
  | 0x3502 => if j = 1 then 2 ^ 64 - 1 else 0
  | 0x4010 => 1000000
  | 0x4100 => if j = 1 then 0xFFFF else 0
  | 0x4101 => if j = 1 then 800 else if j = 2 then 1500 else if j = 3 then 3 else 0
  | 0x4102 => 10000000
  | 0x4104 => 1
  | 0x4111 => 16
  | 0x5102 => if j = 1 then 10 else 0
  | 0x7001 => if j ≤ 2 then 20 else if 9 ≤ j ∧ j ≤ 24 then 10 else 100
  | 0x7002 => 3
  | 0x7100 => if j = 4 then 1 else 0
  | _ => 0

/-- Live value of a writable scalar entry. -/
def setting (s : State) (index sub : Nat) : Nat := smGet (scalarReset s.fuse.grade) s.ctl.dict.scalar (dkey index sub)

def State.modDict (s : State) (f : Dict → Dict) : State := { s with ctl := { s.ctl with dict := f s.ctl.dict } }

def putSetting (s : State) (index sub v : Nat) : State :=
  s.modDict fun d => { d with scalar := smSet (scalarReset s.fuse.grade) d.scalar (dkey index sub) v }

/-! ### Sync objects (R293, R294) -/

/-- Apply a signal to an object's value (R154). -/
def applySig (o : SyncObj) (set : Bool) (v : U32) : SyncObj := { o with value := if set then v else o.value + v }

/-- A hardware sync object by number (R293). -/
def syncObj (s : State) (n : Nat) : SyncObj :=
  if 0xF000 ≤ n then mget {} s.ring.globals n else mget {} (s.core (n / 256)).sync.objs (n % 256)

def setSyncObj (s : State) (n : Nat) (o : SyncObj) : State :=
  if 0xF000 ≤ n then
    { s with ring := { s.ring with globals := mset {} s.ring.globals n o, mirrors := mset 0 s.ring.mirrors n o.value } }
  else s.modCore (n / 256) fun k => k.modSync fun y => { y with objs := mset {} y.objs (n % 256) o }

/-- Apply a signal under R294: one with another epoch than the object's is refused and counted at 0x5011.01. A global
value reaches every core's mirror (R295, R296). -/
def signalObj (s : State) (g : Sig) : State :=
  let o := syncObj s g.obj
  if o.epoch = g.epoch then setSyncObj s g.obj (applySig o g.set g.val)
  else { s with ring := { s.ring with stale := s.ring.stale + 1 } }

/-- Value a wait of core `c` reads: its own objects, or its mirror of a global one (R295). -/
def waitValue (s : State) (n : Nat) : U32 := if 0xF000 ≤ n then mget 0 s.ring.mirrors n else (syncObj s n).value

/-! ### Epochs (R252) -/

/-- The next epoch: never 0, wrapping from 0xFFFF_FFFF to 1. -/
def nextEpoch (e : U32) : U32 := if e = 0xFFFFFFFF then 1 else e + 1

/-- Take the next epoch. A request behind others of the same command has waited for its turn of the counter: the counter is free
again 4,096 cycles after the last of them (R252; DEDUCED, log entry 144). -/
def takeEpoch (s : State) : U32 × State :=
  let e := nextEpoch s.baker.epoch
  let at_ := match s.baker.epochAt with
    | some a => max s.flue.cycle (a + 4096)
    | none => s.flue.cycle
  (e, { s with baker := { s.baker with epoch := e, epochAt := some at_ } })

end Sys2Proof.Machine
end

