-- ==== Sys2Proof/Machine/Float.lean ====
section
/-! DEFINITION. The arithmetic every unit shares (R87 to R129): formats and codes, exact values, rounding to nearest
even, conversion with overflow and NaN counting, IEEE operations, SB8 scales and the approximations of R126. -/

namespace Sys2Proof.Machine

/-- An exact value: NaN, an infinity, or `±m·2^e` with the sign of a zero kept (R90, R91). -/
inductive FVal where
  | nan
  | inf (neg : Bool)
  | fin (neg : Bool) (m : Nat) (e : Int)
  deriving DecidableEq, Repr

/-- A floating-point format of R89. -/
structure FFmt where
  eb : Nat
  mb : Nat
  bias : Nat
  /-- largest finite code, infinity code (none for E4M3) and produced NaN, all with sign 0. -/
  maxCode : Nat
  infCode : Option Nat
  nanCode : Nat
  deriving DecidableEq, Repr

def e4m3 : FFmt := ⟨4, 3, 7, 0x7E, none, 0x7F⟩
def e5m2 : FFmt := ⟨5, 2, 15, 0x7B, some 0x7C, 0x7E⟩
def fp16 : FFmt := ⟨5, 10, 15, 0x7BFF, some 0x7C00, 0x7E00⟩
def bf16 : FFmt := ⟨8, 7, 127, 0x7F7F, some 0x7F80, 0x7FC0⟩
def b32 : FFmt := ⟨8, 23, 127, 0x7F7FFFFF, some 0x7F800000, 0x7FC00000⟩
def b64 : FFmt := ⟨11, 52, 1023, 0x7FEFFFFFFFFFFFFF, some 0x7FF0000000000000, 0x7FF8000000000000⟩

/-- Format of a floating-point code (R89). -/
def ffmt : Nat → Option FFmt
  | 4 => some e4m3
  | 5 => some e5m2
  | 6 => some fp16
  | 7 => some bf16
  | 8 => some b32
  | 9 => some b64
  | _ => none

/-- `qmin` and `qmax` of an integer code (R88). -/
def qrange : Nat → Option (Int × Int)
  | 0 => some (-8, 7)
  | 1 => some (0, 15)
  | 2 => some (-128, 127)
  | 3 => some (0, 255)
  | 10 => some (-(2 ^ 31), 2 ^ 31 - 1)
  | _ => none

/-- Bits of an element of a format; 0 for a reserved code (R88, R89). -/
def fmtBits : Nat → Nat
  | 0 | 1 => 4
  | 2 | 3 | 4 | 5 => 8
  | 6 | 7 => 16
  | 8 | 10 => 32
  | 9 => 64
  | _ => 0

/-- The value of a floating-point code. -/
def FFmt.value (f : FFmt) (c : Nat) : FVal :=
  let neg := decide (c / 2 ^ (f.eb + f.mb) % 2 = 1)
  let ex := c / 2 ^ f.mb % 2 ^ f.eb
  let m := c % 2 ^ f.mb
  let top := 2 ^ f.eb - 1
  if ex = top ∧ f.infCode.isSome then (if m = 0 then .inf neg else .nan)
  else if f.infCode.isNone ∧ ex = top ∧ m = 2 ^ f.mb - 1 then .nan
  else if ex = 0 then .fin neg m (1 - (f.bias : Int) - f.mb)
  else .fin neg (2 ^ f.mb + m) ((ex : Int) - f.bias - f.mb)

/-- An integer as an exact value. -/
def ofInt (i : Int) : FVal := .fin (decide (i < 0)) i.natAbs 0

/-- A two's-complement or unsigned integer code (R88). -/
def intCode (fmt c : Nat) : Int :=
  match qrange fmt with
  | some (lo, _) => let w := fmtBits fmt; if lo < 0 ∧ 2 ^ (w - 1) ≤ c % 2 ^ w then (c % 2 ^ w : Nat) - 2 ^ w else (c % 2 ^ w : Nat)
  | none => 0

/-- Value of any element code, integers with zero point 0 (R149). -/
def codeValue (fmt c : Nat) : FVal :=
  match ffmt fmt with
  | some f => f.value c
  | none => ofInt (intCode fmt c)

/-- Rounding of the low `k` bits off `m`: to nearest even, or upward. -/
def rne (m k : Nat) : Nat :=
  let q := m / 2 ^ k
  let r := m % 2 ^ k
  if 2 * r > 2 ^ k ∨ (2 * r = 2 ^ k ∧ q % 2 = 1) then q + 1 else q

def rup (m k : Nat) : Nat := ceilDiv m (2 ^ k)

/-- Round `m·2^e` to a format's precision with no upper limit (R92, step 1): the integer multiple and its quantum. -/
def FFmt.quantise (f : FFmt) (rnd : Nat → Nat → Nat) (m : Nat) (e : Int) : Nat × Int :=
  let q := max ((Nat.log2 m : Int) + e - f.mb) (1 - (f.bias : Int) - f.mb)
  if q ≤ e then (m * 2 ^ (e - q).toNat, q) else (rnd m (q - e).toNat, q)

/-- Code of `n·2^q`, a rounded value, by magnitude; beyond the largest finite code the code keeps rising. -/
def FFmt.encode (f : FFmt) (n : Nat) (q : Int) : Nat :=
  if n < 2 ^ f.mb then n else ((q + f.bias + f.mb).toNat) * 2 ^ f.mb + (n - 2 ^ f.mb)

/-- Magnitude code of a finite value under a rounding, without the range check. -/
def FFmt.magCode (f : FFmt) (rnd : Nat → Nat → Nat) (m : Nat) (e : Int) : Nat :=
  if m = 0 then 0 else let r := f.quantise rnd m e; f.encode r.1 r.2

def FFmt.signed (f : FFmt) (neg : Bool) (c : Nat) : Nat := if neg then c + 2 ^ (f.eb + f.mb) else c

/-- What a conversion gives: the code, and whether it counts as an overflow or as a NaN (R92, R93). -/
structure Conv where
  code : Nat
  sat : Nat := 0
  nan : Nat := 0
  deriving DecidableEq, Repr

/-- Conversion to a floating-point format (R92, R93); `nonsat` selects E5M2's non-saturating mode (R94). -/
def FFmt.conv (f : FFmt) (nonsat : Bool) (v : FVal) : Conv :=
  let ovf (neg : Bool) : Nat :=
    match f.infCode with
    | none => f.signed neg f.maxCode
    | some i => if f.eb = 5 ∧ f.mb = 2 ∧ !nonsat then f.signed neg f.maxCode else f.signed neg i
  match v with
  | .nan => { code := f.nanCode, nan := 1 }
  | .inf neg =>
    let satur := f.infCode.isNone || (f.eb == 5 && f.mb == 2 && !nonsat)
    { code := ovf neg, sat := if satur then 1 else 0 }
  | .fin neg m e =>
    let c := f.magCode rne m e
    if c ≤ f.maxCode then { code := f.signed neg c } else { code := ovf neg, sat := 1 }

/-- Round `±m·2^e` to the nearest integer, ties to even. -/
def roundInt (neg : Bool) (m : Nat) (e : Int) : Int :=
  let n : Nat := if 0 ≤ e then m * 2 ^ e.toNat else rne m (-e).toNat
  if neg then -(n : Int) else n

/-- Code of an integer in a width. -/
def toCode (bits : Nat) (i : Int) : Nat := (i % (2 ^ bits : Int)).toNat

/-- Conversion to an integer format with zero point `z` (R92, R93). -/
def intConv (fmt : Nat) (z : Int) (v : FVal) : Conv :=
  match qrange fmt with
  | none => { code := 0 }
  | some (lo, hi) =>
    let w := fmtBits fmt
    match v with
    | .nan => { code := toCode w z, nan := 1 }
    | .inf neg => { code := toCode w (if neg then lo else hi), sat := 1 }
    | .fin neg m e =>
      let i := roundInt neg m e + z
      if i < lo then { code := toCode w lo, sat := 1 }
      else if hi < i then { code := toCode w hi, sat := 1 } else { code := toCode w i }

/-- Conversion of any value to any format (R92, R93). -/
def convTo (fmt : Nat) (z : Int) (nonsat : Bool) (v : FVal) : Conv :=
  match ffmt fmt with
  | some f => f.conv nonsat v
  | none => intConv fmt z v

def fv32 (x : U32) : FVal := b32.value x.toNat
def fv64 (x : U64) : FVal := b64.value x.toNat

/-- RN32 and RN64: rounding to binary32 and binary64 (R12). -/
def rn32 (v : FVal) : U32 := BitVec.ofNat 32 (b32.conv false v).code
def rn64 (v : FVal) : U64 := BitVec.ofNat 64 (b64.conv false v).code
/-- The rounded value itself. -/
def r32 (v : FVal) : FVal := fv32 (rn32 v)
def r64 (v : FVal) : FVal := fv64 (rn64 v)

/-! ### IEEE operations on exact values (R95, R96, R125) -/

def FVal.neg : FVal → FVal
  | .nan => .nan
  | .inf n => .inf !n
  | .fin n m e => .fin (!n) m e

def FVal.abs : FVal → FVal
  | .nan => .nan
  | .inf _ => .inf false
  | .fin _ m e => .fin false m e

def FVal.isNan : FVal → Bool
  | .nan => true
  | _ => false

def FVal.isFin : FVal → Bool
  | .fin _ _ _ => true
  | _ => false

/-- A signed integer mantissa at exponent `e0`, at or below the value's own. -/
def mant (n : Bool) (m : Nat) (e e0 : Int) : Int :=
  let k : Int := m * 2 ^ (e - e0).toNat
  if n then -k else k

def FVal.add : FVal → FVal → FVal
  | .nan, _ | _, .nan => .nan
  | .inf a, .inf b => if a = b then .inf a else .nan
  | .inf a, _ => .inf a
  | _, .inf b => .inf b
  | .fin n m e, .fin n' m' e' =>
    if m = 0 ∧ m' = 0 then .fin (n && n') 0 (min e e')
    else
      let e0 := min e e'
      let t := mant n m e e0 + mant n' m' e' e0
      .fin (decide (t < 0)) t.natAbs e0

def FVal.sub (x y : FVal) : FVal := x.add y.neg

def FVal.isZero : FVal → Bool
  | .fin _ m _ => decide (m = 0)
  | _ => false

def FVal.sign : FVal → Bool
  | .nan => false
  | .inf n => n
  | .fin n _ _ => n

def FVal.mul : FVal → FVal → FVal
  | .nan, _ | _, .nan => .nan
  | .inf a, y => if y.isZero then .nan else .inf (a != y.sign)
  | x, .inf b => if x.isZero then .nan else .inf (x.sign != b)
  | .fin n m e, .fin n' m' e' => .fin (n != n') (m * m') (e + e')

/-- `x / y` to far more bits than any format holds, with a last bit that is set where the quotient is not exact, so
that rounding it rounds the exact quotient. -/
def FVal.div : FVal → FVal → FVal
  | .nan, _ | _, .nan => .nan
  | .inf a, y => match y with
    | .inf _ => .nan
    | _ => .inf (a != y.sign)
  | .fin n m e, y => match y with
    | .inf b => .fin (n != b) 0 e
    | .fin n' m' e' =>
      if m' = 0 then (if m = 0 then .nan else .inf (n != n'))
      else
        let k := 140 + Nat.log2 m'
        let q := m * 2 ^ k / m'
        let r := m * 2 ^ k % m'
        .fin (n != n') (2 * q + (if r = 0 then 0 else 1)) (e - e' - k - 1)
    | .nan => .nan

/-- Integer square root by bits, from bit `b − 1` down. -/
def isqrtGo : Nat → Nat → Nat → Nat
  | 0, _, r => r
  | b + 1, n, r => let t := r + 2 ^ b; isqrtGo b n (if t * t ≤ n then t else r)

def isqrt (n : Nat) : Nat := isqrtGo (Nat.log2 n / 2 + 1) n 0

/-- `√x` with a sticky last bit, as `FVal.div`. -/
def FVal.sqrt : FVal → FVal
  | .nan => .nan
  | .inf n => if n then .nan else .inf false
  | .fin n m e =>
    if m = 0 then .fin n 0 0
    else if n then .nan
    else
      let odd := e % 2 = 1
      let m' := (if odd then 2 * m else m) * 2 ^ 280
      let e' := (if odd then e - 1 else e) - 280
      let q := isqrt m'
      .fin false (2 * q + (if q * q = m' then 0 else 1)) (e' / 2 - 1)

/-- `x < y`, false where either is NaN. -/
def FVal.lt : FVal → FVal → Bool
  | .nan, _ | _, .nan => false
  | .inf a, .inf b => a && !b
  | .inf a, _ => a
  | _, .inf b => !b
  | .fin n m e, .fin n' m' e' => let e0 := min e e'; decide (mant n m e e0 < mant n' m' e' e0)

/-- Order of minimumNumber and maximumNumber: −0 below +0 (R125). -/
def FVal.below (x y : FVal) : Bool := x.lt y || (x.isZero && y.isZero && x.sign && !y.sign)

def FVal.minNum (x y : FVal) : FVal := if x.isNan then y else if y.isNan then x else if y.below x then y else x
def FVal.maxNum (x y : FVal) : FVal := if x.isNan then y else if y.isNan then x else if x.below y then y else x

/-- A positive, normal, finite binary32 scale (R97). -/
def scaleOk (s : U32) : Bool := decide (0x00800000 ≤ s.toNat) && decide (s.toNat ≤ 0x7F7FFFFF)

/-- Position of a binary32 value in IEEE totalOrder, every NaN first replaced by the produced NaN (R128). -/
def totalKey (x : U32) : Nat :=
  let c := if (fv32 x).isNan then 0x7FC00000 else x.toNat
  if 2 ^ 31 ≤ c then 2 ^ 32 - 1 - c else c + 2 ^ 31

/-- RU32: a non-negative value rounded upward to binary32; a sticky quotient rounds as the exact one (R112, R114). -/
def ru32 : FVal → U32
  | .fin _ m e => BitVec.ofNat 32 (min (b32.magCode rup m e) 0x7F800000)
  | .inf _ => 0x7F800000
  | .nan => 0x7FC00000

/-! ### SB8 codes (R105, R106) -/

/-- Value of an SB8 code. -/
def sb8Value (c : Nat) : FVal :=
  let e := c / 8 % 32
  let m := c % 8
  if e = 0 then .fin false m (-17) else .fin false (8 + m) ((e : Int) - 18)

/-- The smallest SB8 code whose value is at least the positive value `v`; 0xFF above 122,880, 0x01 at the bottom. -/
def sb8Code (v : FVal) : Nat :=
  (((List.range 255).map (· + 1)).find? fun c => !(sb8Value c).lt v).getD 0xFF

/-- Largest finite value of an output format, or its qmax (R112). -/
def qmaxValue (fmt : Nat) : FVal :=
  match ffmt fmt with
  | some f => f.value f.maxCode
  | none => match qrange fmt with
    | some (_, hi) => ofInt hi
    | none => ofInt 0

/-! ### Quantising conversion (R97) -/

/-- Quantising conversion of `x` with scale `sc` and zero point `z`: `t = RN32(x · RN32(1/s))`, then R92. -/
def quantConv (fmt : Nat) (sc : U32) (z : Int) (nonsat : Bool) (x : FVal) : Conv :=
  convTo fmt z nonsat (r32 (x.mul (r32 ((ofInt 1).div (fv32 sc)))))

/-! ### Approximations (R126) -/

inductive Approx where
  | rcp | rsqrt | exp2 | exp
  deriving DecidableEq, Repr

def Approx.code : Approx → Nat
  | .rcp => 0
  | .rsqrt => 1
  | .exp2 => 2
  | .exp => 3

/-- Largest error in ulp. -/
def Approx.ulps : Approx → Nat
  | .rcp => 1
  | .rsqrt => 2
  | .exp2 => 2
  | .exp => 3

/-- ln 2 and 1/ln 2 with 160 fraction bits. -/
def ln2Fix : Nat := 1013035739299659071135698605846798551586536899366
def log2eFix : Nat := 2108501164428393954197770173035669514763056903505

/-- Sum of `t·y^i/i!` for the next `n` terms, all with 160 fraction bits. -/
def expGo : Nat → Nat → Nat → Nat → Nat → Nat
  | 0, _, _, _, acc => acc
  | n + 1, i, y, t, acc => let t' := t * y / 2 ^ 160 / i; expGo n (i + 1) y t' (acc + t')

/-- `2^(x/2^160)` as an exact value with a sticky last bit where it is not a power of two. -/
def exp2Fix (x : Int) : FVal :=
  let n := x / (2 ^ 160 : Int)
  let f := (x % (2 ^ 160 : Int)).toNat
  if f = 0 then .fin false 1 n
  else
    let y := f * ln2Fix / 2 ^ 160
    .fin false (2 * expGo 60 1 y (2 ^ 160) (2 ^ 160) + 1) (n - 161)

/-- A binary32 value as a fixed-point number with 160 fraction bits, kept within ±2^10. -/
def toFix (n : Bool) (m : Nat) (e : Int) : Int :=
  let lim : Int := 2 ^ 170
  let k : Int := if e > 40 then lim else min lim (m * 2 ^ (e + 160).toNat)
  if n then -k else k

/-- The exact function, with a sticky last bit. -/
def Approx.exact (o : Approx) (x : FVal) : FVal :=
  match o, x with
  | .rcp, x => (ofInt 1).div x
  | .rsqrt, .fin n m e => if m = 0 then .inf n else (ofInt 1).div (FVal.fin n m e).sqrt
  | .rsqrt, .inf n => if n then .nan else .fin false 0 0
  | .exp2, .inf n | .exp, .inf n => if n then .fin false 0 0 else .inf false
  | .exp2, .fin n m e => exp2Fix (toFix n m e)
  | .exp, .fin n m e => exp2Fix (toFix n m e * log2eFix / (2 ^ 160 : Int))
  | _, .nan => .nan

/-- The binary32 result of an approximation: the IEEE result for special values, an overflow as infinity, and
otherwise one of the codes within the bound of R126, chosen by `Config.approxPick`. -/
def Approx.eval (o : Approx) (x : U32) : U32 :=
  match o.exact (fv32 x) with
  | .nan => 0x7FC00000
  | .inf n => rn32 (.inf n)
  | .fin n m e =>
    if m = 0 then rn32 (.fin n 0 0)
    else
      let nearest := b32.magCode rne m e
      if 0x7F7FFFFF < nearest then rn32 (.inf n)
      else
        let lo := b32.magCode (fun a k => a / 2 ^ k) m e
        let exact := decide (lo = b32.magCode rup m e)
        let bottom := if exact then lo - o.ulps else lo + 1 - o.ulps
        let count := (if exact then lo + o.ulps + 1 else lo + o.ulps + 1) - bottom
        BitVec.ofNat 32 (b32.signed n (min (bottom + Config.approxPick o.code x % count) 0x7F800000))

/-! ### Reductions (R127) -/

/-- One level of the tree: neighbours combined, an odd last value passed on. -/
def pairUp (f : FVal → FVal → FVal) : List FVal → List FVal
  | a :: b :: t => f a b :: pairUp f t
  | l => l

/-- The balanced tree of R127 over at most `2^n` lanes. -/
def treeGo (f : FVal → FVal → FVal) : Nat → List FVal → List FVal
  | 0, l => l
  | n + 1, l => treeGo f n (pairUp f l)

/-- Lists of at most `w` lanes, in order. -/
def chunks {α : Type} (w : Nat) : Nat → List α → List (List α)
  | 0, _ => []
  | n + 1, l => if l.isEmpty then [] else l.take w :: chunks w n (l.drop w)

/-- A reduction: each vector by the tree, then the vectors' results in ascending order. -/
def reduce (f : FVal → FVal → FVal) (lanes : Nat) (l : List FVal) : FVal :=
  match ((chunks lanes l.length l).map fun c => ((treeGo f 7 c).head?).getD (ofInt 0)) with
  | [] => ofInt 0
  | x :: t => t.foldl f x

end Sys2Proof.Machine
end

