-- ==== Sys2Proof/Machine/Operands.lean ====
section
/-! DEFINITION. The fields of every word the manual lays out bit by bit: recipe steps, operand descriptors, sync-list
entries, package entries, work descriptors, slot-table entries and register words; and the addresses of operands. -/

namespace Sys2Proof.Machine

abbrev W256 := BitVec 256

/-! ### Step words (R139, R140) -/

def stOp (w : W256) : Nat := fld w 255 248
def stY (w : W256) : Bool := bitAt w 247
def stB (w : W256) : Bool := bitAt w 246
def stWidx (w : W256) : Nat := fld w 239 230
def stWcnt (w : W256) : Nat := fld w 229 226
def stSidx (w : W256) : Nat := fld w 225 216
def stScnt (w : W256) : Nat := fld w 215 212

def opNop : Nat := 0x00
def opLoop : Nat := 0x01
def opEndloop : Nat := 0x02
def opSync : Nat := 0x03
def opEnd : Nat := 0x0F
def opMatmul : Nat := 0x10
def opVector : Nat := 0x20
def opDma : Nat := 0x30
def opSend : Nat := 0x40
def opPut : Nat := 0x41
def opFill : Nat := 0x50
def opCopy : Nat := 0x51

/-- Unit of an opcode (R140); none for a reserved code. -/
def opUnit (op : Nat) : Option UnitKind :=
  if op ≤ 0x03 ∨ op = 0x0F then some .s else if op = 0x10 then some .a else if op = 0x20 then some .v
  else if op = 0x30 then some .d else if op = 0x40 ∨ op = 0x41 then some .x
  else if op = 0x50 ∨ op = 0x51 then some .m else none

/-! ### Recipe header (R131) -/

def rhVer (w : W256) : Nat := fld w 255 240
def rhNstep (w : W256) : Nat := fld w 239 229
def rhNdesc (w : W256) : Nat := fld w 228 220
def rhNsync (w : W256) : Nat := fld w 219 209
def rhNpar (w : W256) : Nat := fld w 208 204

/-! ### Operand descriptors (R141, R142) -/

def dFmt (d : W256) : Nat := fld d 255 252
def dSmode (d : W256) : Nat := fld d 251 249
def dZp (d : W256) : Int := sfld d 248 240
def dDsc (d : W256) : Bool := bitAt d 239
def dHist (d : W256) : Nat := fld d 238 234
def dMarg (d : W256) : Nat := fld d 233 230
def dOvf (d : W256) : Nat := fld d 229 228
def dSlot (d : W256) : Nat := fld d 227 224
def dScale (d : W256) : U32 := BitVec.ofNat 32 (fld d 223 192)
def dBase (d : W256) : Nat := fld d 191 160
def dTsym (d : W256) : Nat := fld d 159 148
def dPoff (d : W256) : Nat := fld d 147 144
def dSdesc (d : W256) : Nat := fld d 143 134
def dPitch (d : W256) : Int := sfld d 127 104
def dStride (d : W256) (l : Nat) : Int :=
  match l with
  | 0 => sfld d 25 0
  | 1 => sfld d 51 26
  | 2 => sfld d 77 52
  | _ => sfld d 103 78

/-- Value of a loop level; a level that is not open contributes 0 (R142). -/
def loopVal (loops : List Nat) (l : Nat) : Nat := nth 0 loops l

/-- Sum of stride times loop variable over the four levels. -/
def strides (f : Nat → Int) (loops : List Nat) : Int :=
  f 0 * loopVal loops 0 + f 1 * loopVal loops 1 + f 2 * loopVal loops 2 + f 3 * loopVal loops 3

/-- Instance parameter; 0 where `i` is 0 (R133, R141). -/
def paramOff (b : Binding) (i : Nat) : Int := if i = 0 then 0 else ((mget 0 b.params i).toNat : Int)

/-- Offset of row `i` within the tensor (R142). -/
def rowOff (b : Binding) (d : W256) (loops : List Nat) (i : Nat) : Int :=
  (dBase d : Int) + paramOff b (dPoff d) + strides (dStride d) loops + (i : Int) * dPitch d

/-- A(i) of R142 as a byte address of the core's scratchpad. -/
def rowAddr (b : Binding) (d : W256) (loops : List Nat) (i : Nat) : Nat :=
  (((mget ⟨0, 0, 0⟩ b.tens (dTsym d)).base : Int) + rowOff b d loops i).toNat

/-! ### MATMUL body (R144) -/

def mmDa (w : W256) : Nat := fld w 191 182
def mmDw (w : W256) : Nat := fld w 181 172
def mmDy (w : W256) : Nat := fld w 171 162
def mmMtot (w : W256) : Nat := fld w 161 151
def mmSplit (w : W256) : Bool := bitAt w 150
def mmAccb (w : W256) : Nat := fld w 149 142
def mmAccst (w : W256) : Nat := fld w 141 134
def mmKreal (w : W256) : Nat := fld w 133 118
def mmNcols (w : W256) : Nat := fld w 117 108
def mmFirst (w : W256) : Bool := bitAt w 106
def mmLast (w : W256) : Bool := bitAt w 107
def mmSlice (w : W256) : Nat := fld w 105 102
def mmWide (w : W256) : Bool := bitAt w 101
def mmShift (w : W256) : Nat := fld w 100 95
def mmPla (w : W256) : Int := sfld w 94 71
def mmPlw (w : W256) : Int := sfld w 70 47

/-! ### VECTOR body (R149) -/

def vcOp (w : W256) : Nat := fld w 191 184
def vcDx (w : W256) : Nat := fld w 183 174
def vcDz (w : W256) : Nat := fld w 173 164
def vcDd (w : W256) : Nat := fld w 163 154
def vcLen (w : W256) : Nat := fld w 153 138
def vcRows (w : W256) : Nat := fld w 137 122
def vcImm (w : W256) : U32 := BitVec.ofNat 32 (fld w 121 90)

/-! ### DMA, SEND, PUT, FILL and COPY body (R151) -/

def mvDs (w : W256) : Nat := fld w 191 182
def mvTgt (w : W256) : Nat := fld w 181 170
def mvTsym (w : W256) : Nat := fld w 169 158
def mvFsym (w : W256) : Nat := fld w 157 146
def mvRows (w : W256) : Nat := fld w 145 130
def mvRbytes (w : W256) : Nat := fld w 129 114
def mvDd (w : W256) : Nat := fld w 113 104
def mvVal (w : W256) : U32 := BitVec.ofNat 32 (fld w 103 72)

/-! ### LOOP body (R152) -/

def lpCnt (w : W256) : Nat := fld w 191 176
def lpPsel (w : W256) : Bool := bitAt w 175
def lpPar (w : W256) : Nat := fld w 174 171

/-- Iterations of a LOOP of an instance (R152). -/
def loopCount (b : Binding) (w : W256) : Nat :=
  if lpPsel w then (mget 0 b.params (lpPar w)).toNat else lpCnt w + 1

/-! ### Sync-list entries (R153, R154) -/

def syOp (e : U64) : Nat := fld e 63 60
def sySym (e : U64) : Nat := fld e 59 48
def syLev (e : U64) : Nat := fld e 47 46
def syInc (e : U64) : Nat := fld e 45 32
def syVal (e : U64) : Nat := fld e 31 0

/-- Operand of an entry: `(val + inc · v_lev) mod 2³²`. -/
def syOperand (e : U64) (loops : List Nat) : U32 := BitVec.ofNat 32 (syVal e + syInc e * loopVal loops (syLev e))

/-- Descriptor `i` of a recipe. -/
def Recipe.desc (r : Recipe) (i : Nat) : W256 := nth 0 r.descs i

/-- Step `i` of a recipe; step 0 is a yield point whatever it holds, and Y implies B (R139). -/
def Recipe.step (r : Recipe) (i : Nat) : W256 := nth 0 r.steps i
def Recipe.yieldAt (r : Recipe) (i : Nat) : Bool := decide (i = 0) || stY (r.step i)
def Recipe.barrierAt (r : Recipe) (i : Nat) : Bool := r.yieldAt i || stB (r.step i)

/-- Wait and signal entries of step `i`. -/
def Recipe.waits (r : Recipe) (i : Nat) : List U64 := slice r.syncs (stWidx (r.step i)) (stWcnt (r.step i))
def Recipe.signals (r : Recipe) (i : Nat) : List U64 := slice r.syncs (stSidx (r.step i)) (stScnt (r.step i))

/-! ### Graph package (R233 to R241, R300) -/

def phVer (w : W256) : Nat := fld w 255 240
def phBytes (w : W256) : Nat := fld w 239 208
def phNsect (w : W256) : Nat := fld w 207 200
def phTnt (w : W256) : Nat := fld w 199 192
def phFloor (w : W256) : Nat := fld w 191 176
def phTmo (w : W256) : Nat := fld w 175 144
def phMaxph (w : W256) : Nat := fld w 143 140
def phMig (w : W256) : Nat := fld w 139 138
def phNocache (w : W256) : Bool := bitAt w 137

def inRec (w : BitVec 512) : Nat := fld w 511 496
def inAlt (w : BitVec 512) : Nat := fld w 495 480
/-- P1 to P15 of an instance. -/
def inPar (w : BitVec 512) (i : Nat) : U32 := BitVec.ofNat 32 (fld w (511 - 32 * i) (480 - 32 * i))

def bnInst (w : U64) : Nat := fld w 63 54
def bnCls (w : U64) : Nat := fld w 53 51
def bnSym (w : U64) : Nat := fld w 50 39
def bnObj (w : U64) : Nat := fld w 38 23
def bnView (w : U64) : Bool := bitAt w 22

def tnSize (w : W256) : Nat := fld w 255 192
def tnHome (w : W256) : Nat := fld w 191 188
def tnCls (w : W256) : Nat := fld w 187 184
def tnRw (w : W256) : Bool := bitAt w 183
def tnOwner (w : W256) : Nat := fld w 182 173
def tnLdma (w : W256) : Nat := fld w 159 144

def smSnd (w : BitVec 128) : Nat := fld w 127 118
def smRcv (w : BitVec 128) : Nat := fld w 117 108
def smLnk (w : BitVec 128) : Bool := bitAt w 107
def smPort (w : BitVec 128) : Nat := fld w 106 103
def smRtens (w : BitVec 128) : Nat := fld w 102 87
def smRsync (w : BitVec 128) : Nat := fld w 86 71
def smAmt (w : BitVec 128) : Nat := fld w 70 55
def smDepth (w : BitVec 128) : Nat := fld w 54 50
def smNxfer (w : BitVec 128) : Nat := fld w 49 34
def smXsize (w : BitVec 128) : Nat := fld w 33 2

def soScope (w : U64) : Nat := fld w 63 62
def soOwner (w : U64) : Nat := fld w 61 52
def soInit (w : U64) : U32 := BitVec.ofNat 32 (fld w 31 0)

def dmDir (w : BitVec 512) : Nat := fld w 511 508
def dmSpace (w : BitVec 512) : Nat := fld w 507 504
def dmTens (w : BitVec 512) : Nat := fld w 503 488
def dmOff (w : BitVec 512) : Nat := fld w 487 456
def dmPitch (w : BitVec 512) : Nat := fld w 455 424
def dmPar (w : BitVec 512) : Nat := fld w 423 420
def dmStride (w : BitVec 512) (l : Nat) : Int :=
  match l with
  | 0 => sfld w 341 316
  | 1 => sfld w 367 342
  | 2 => sfld w 393 368
  | _ => sfld w 419 394

/-! ### Work descriptors and ring words (R273, R276, R281, R285) -/

def wdOp (w : BitVec 512) : Nat := fld w 511 504
def wdBake (w : BitVec 512) : Nat := fld w 503 496
def wdTgt (w : BitVec 512) : Nat := fld w 495 488
def wdWen (w : BitVec 512) : Bool := bitAt w 487
def wdRpl (w : BitVec 512) : Bool := bitAt w 486
def wdWbake (w : BitVec 512) : Nat := fld w 479 472
def wdWsent (w : BitVec 512) : Nat := fld w 471 456
def wdToken (w : BitVec 512) : U64 := BitVec.ofNat 64 (fld w 447 384)
def wdArg0 (w : BitVec 512) : Nat := fld w 383 320
def wdArg1 (w : BitVec 512) : Nat := fld w 319 256
def wdArg2 (w : BitVec 512) : Nat := fld w 255 224
def wdWval (w : BitVec 512) : Nat := fld w 223 192
def wdPlog (w : BitVec 512) : Nat := fld w 191 128

def rcEn (w : U64) : Bool := bitAt w 31
def rcErr (w : U64) : Bool := bitAt w 30
def rcLg (w : U64) : Nat := fld w 29 25
def rcImod (w : U64) : Nat := fld w 24 17
def rcIe (w : U64) : Bool := bitAt w 16

/-! ### Channel-table entries (R345) -/

def ceDir (w : W256) : Nat := fld w 255 254
def ceSt (w : W256) : Nat := fld w 253 252
def ceBake (w : W256) : Nat := fld w 251 244
def ceEnt (w : W256) : Nat := fld w 243 228
def cePeer (w : W256) : Nat := fld w 227 213
def cePch (w : W256) : Nat := fld w 212 201
def ceRsync (w : W256) : Nat := fld w 200 185
def ceAmt (w : W256) : Nat := fld w 184 169
def ceDepth (w : W256) : Nat := fld w 168 164
def cePinc (w : W256) : U64 := BitVec.ofNat 64 (fld w 127 64)
def ceXsize (w : W256) : Nat := fld w 63 32

/-! ### Slot-table entries (R203, R204) -/

/-- Source code of an output. -/
def teSrc (w : U32) (d : Dir) : Nat :=
  match d with
  | .n => fld w 31 29
  | .s => fld w 28 26
  | .e => fld w 25 23
  | .w => fld w 22 20
  | .loc => fld w 19 17

def teStr (w : U32) : Nat := fld w 16 9
def teKind (w : U32) : Nat := fld w 8 7
def teRsv (w : U32) : Nat := fld w 6 0

/-- An entry that nothing has written: every output idle. -/
def idleEntry : U32 := 0xB6DA0000

/-- Input a source code names; none for the local input, idle and the reserved codes. -/
def srcDir (c : Nat) : Option Dir :=
  match c with
  | 0 => some .n
  | 1 => some .s
  | 2 => some .e
  | 3 => some .w
  | _ => none

/-! ### Rectangle bounds (R270) -/

structure Rect where
  x0 : Nat
  x1 : Nat
  y0 : Nat
  y1 : Nat
  deriving DecidableEq, Repr

/-- Rectangle of tenant `t`; none where it is undefined. -/
def rectOf (s : State) (t : Nat) : Option Rect :=
  let w : U32 := BitVec.ofNat 32 (setting s 0x3501 t)
  if bitAt w 0 then some ⟨fld w 23 20, fld w 19 16, fld w 15 12, fld w 11 8⟩ else none

def Rect.holds (r : Rect) (c : CoreId) : Bool :=
  decide (r.x0 ≤ c % 16) && decide (c % 16 ≤ r.x1) && decide (r.y0 ≤ c / 16) && decide (c / 16 ≤ r.y1)

/-- Logical cores of a rectangle, row by row. -/
def rectCores (s : State) (r : Rect) : List CoreId := (List.range (gridSize s)).filter r.holds

/-- Site set of a rectangle: the sites of its logical rows and every spared site between the northmost and the
southmost of them in each column (R255). -/
def rectSites (s : State) (r : Rect) : List Site :=
  (List.range 256).filter fun p =>
    let col := siteCol p
    let rows := ((List.range s.fuse.grade.rows).filter fun y => decide (r.y0 ≤ y) && decide (y ≤ r.y1)).filterMap
      fun y => rowOf s (16 * y + col)
    decide (r.x0 ≤ col) && decide (col ≤ r.x1) && rows.any (fun a => decide (a ≤ siteRow p)) &&
      rows.any (fun a => decide (siteRow p ≤ a)) &&
      (rows.contains (siteRow p) || bitAt (spareMap s col) (siteRow p))

/-! ### Flits (R185, R198, R225) -/

/-- The record of a crumb (R185). -/
def crumbRecord (r : Crumb) : Nat :=
  let v (i : Nat) : Nat := nth 0 r.loops i % 65536
  r.epoch.toNat * 2 ^ 224 + r.fcount.toNat * 2 ^ 192 + r.sobj.toNat * 2 ^ 176 + r.reason.toNat * 2 ^ 172 +
    r.att.toNat * 2 ^ 168 + (r.init % 16) * 2 ^ 164 + (r.init / 16 % 16) * 2 ^ 160 + (r.target % 16) * 2 ^ 156 +
    (r.target / 16 % 16) * 2 ^ 152 + (r.step % 1024) * 2 ^ 142 + v 0 * 2 ^ 112 + v 1 * 2 ^ 96 + v 2 * 2 ^ 80 + v 3 * 2 ^ 64 +
    (r.taddr % 2 ^ 24) * 2 ^ 40 + (min 0xFFFF r.nwords) * 2 ^ 24

/-- Words of a number of 64·n bits, the lowest first. -/
def wordsOf (n v : Nat) : List U64 := (List.range n).map fun i => BitVec.ofNat 64 (v / 2 ^ (64 * i))

/-- Payload words of a draught flit with their poison marks: a crumb carries its record. -/
def Draught.payload (d : Draught) : List (U64 × Bool) :=
  match d.crumb with
  | some r => (wordsOf 4 (crumbRecord r)).map (·, false)
  | none => d.data

/-- A site of the die, or a ring port, as a draught header names it: eight bits and the mark of a ring port (R225). -/
def endCode (e : Nat) : Nat × Nat := (e % 256, if 256 ≤ e then 1 else 0)

/-- Header of a draught flit (R225). -/
def Draught.header (d : Draught) : BitVec 256 :=
  let v (i : Nat) : Nat := nth 0 d.loops i % 65536
  BitVec.ofNat 256
    ((d.mtype % 16) * 2 ^ 252 + (endCode d.dst).1 * 2 ^ 244 + (endCode d.src).1 * 2 ^ 236 + (endCode d.dst).2 * 2 ^ 235 +
      (endCode d.src).2 * 2 ^ 234 + d.tnt.toNat * 2 ^ 226 + d.rot.toNat * 2 ^ 224 + d.epoch.toNat * 2 ^ 192 +
      d.fcount.toNat * 2 ^ 160 + (d.step % 1024) * 2 ^ 150 + d.att.toNat * 2 ^ 146 + (d.payload.length % 16) * 2 ^ 142 +
      (if d.lst then 2 ^ 141 else 0) + v 0 * 2 ^ 112 + v 1 * 2 ^ 96 + v 2 * 2 ^ 80 + v 3 * 2 ^ 64 + (d.taddr % 2 ^ 24) * 2 ^ 40 +
      d.sobj.toNat * 2 ^ 24)

/-- Bits 63 to 16 of a flit's control word; bit 16 is written 0 (R198). -/
def flitControl (f : Flit) : Nat :=
  (if f.v then 2 ^ 63 else 0) + f.kind.toNat * 2 ^ 61 + (if f.first then 2 ^ 60 else 0) + (if f.last then 2 ^ 59 else 0) +
    f.pmask.toNat * 2 ^ 43 + f.strm.toNat * 2 ^ 35 + f.seq.toNat * 2 ^ 25 + f.epl.toNat * 2 ^ 17

/-- The low `n` bits of `w`, highest first, through a CRC-16 register with polynomial 0x8BB7. -/
def crcBits : Nat → Nat → Nat → Nat
  | 0, _, r => r
  | n + 1, w, r =>
    let r' := 2 * r % 65536
    crcBits n w (if (r / 32768 + w / 2 ^ n) % 2 = 1 then r' ^^^ 0x8BB7 else r')

/-- CRC-16 over the data and bits 63 to 16 (R198): the words in order, each from its highest bit, from a register of 0 (PRESUMED,
log entry 141). -/
def flitCrc (f : Flit) : U16 :=
  BitVec.ofNat 16 (crcBits 48 (flitControl f / 2 ^ 16) (f.data.foldl (fun r w => crcBits 64 w.toNat r) 0))

/-- The 64 control bits (R198). -/
def flitWord (f : Flit) : U64 := BitVec.ofNat 64 (flitControl f + f.crc.toNat)

/-- A flit with the CRC of its contents. -/
def sealFlit (f : Flit) : Flit := { f with crc := flitCrc f }

/-- A draught flit as it travels: kind 0x1, header and payload as its data, payload marks in pmask, the rest 0 (R225). -/
def Draught.flit (d : Draught) : Flit :=
  sealFlit
    { v := true, kind := 1, first := false, last := false, strm := 0, seq := 0, epl := 0, crc := 0,
      pmask := BitVec.ofNat 16 ((d.payload.zipIdx).foldl (fun m w => if w.1.2 then m + 2 ^ (4 + w.2) else m) 0),
      data := wordsOf 4 d.header.toNat ++ padTo 0 12 (d.payload.map (·.1)) }

end Sys2Proof.Machine
end

