-- ==== Sys2Proof/Machine/Flags.lean ====
section
/-! DEFINITION. Counters, statistics and status flags: the counters of a core and their publication (R84), the
statistics slots (R116, R117), scratchpad accesses with their error counts (R170 to R174, R188, R189), and the triggers
of a bake (R260). -/

namespace Sys2Proof.Machine

/-! ### Counters of a core -/

/-- Words served per class (R169). -/
def Counters.serve (k : Counters) (cls n : Nat) : Counters := { k with served := mmod 0 k.served cls (· + BitVec.ofNat 64 n) }

/-- One loss of a bank by class `l` to class `w` (R169). -/
def Counters.lose (k : Counters) (l w : Nat) : Counters := { k with conflict := mmod 0 k.conflict (8 * l + w) (· + 1) }

/-- One of the eight places of 0x3330.s. -/
def Counters.flueInc (k : Counters) (place : Nat) : Counters := { k with flue := mmod 0 k.flue place (· + 1) }

/-- Publish all counters of a core together and count the publication (R84, R117, R169, R231). -/
def Core.publish (k : Core) : Core := { k with pub := k.live, pubs := k.pubs + 1 }

/-! ### Statistics slots (R113, R116) -/

/-- Larger of two non-negative binary32 values, by their codes. -/
def maxF32 (a b : F32) : F32 := if a.toNat < b.toNat then b else a

/-- Count one element's conversion in a slot; the counts stop at 0xFFFF_FFFF (R117). -/
def StatSlot.count (t : StatSlot) (c : Conv) : StatSlot := { t with sat := satInc t.sat c.sat, nan := satInc t.nan c.nan }

/-- Take an element's value `y` before its conversion into the amax register; NaN and infinities are left out (R113). -/
def StatSlot.peak (t : StatSlot) (y : F32) : StatSlot :=
  { t with amax := if (fv32 y).isFin then maxF32 t.amax (y &&& 0x7FFFFFFF) else t.amax }

/-- What a drain observes of an element: the amax register and the bounds, with which no NaN compares (R70, R113, R116,
R457). -/
def StatSlot.observe (t : StatSlot) (y : F32) : StatSlot :=
  let v := fv32 y
  { t.peak y with
    range := if v.lt (fv32 t.low) || (fv32 t.high).lt v then satInc t.range 1 else t.range }

def Counters.modSlot (k : Counters) (n : Nat) (f : StatSlot → StatSlot) : Counters :=
  { k with slots := mmod {} k.slots n f }

/-! ### Scratchpad accesses -/

/-- What a read reports besides the word (R172, R174). -/
inductive ReadEvent where
  /-- an uncorrectable error found at this word. -/
  | uncorrectable (word : Nat)
  /-- a word that already carried the mark. -/
  | poison (word : Nat)
  deriving DecidableEq, Repr

def Scratchpad.cell (p : Scratchpad) (w : Nat) : Cell := mget {} p.words w

/-- Valid bit of the block that holds a word (R188). -/
def Scratchpad.blockValid (p : Scratchpad) (w : Nat) : Bool := mget false p.valid (w / 128)

/-- Queue a write-back of a word, once for each kind (R171, R172). -/
def Scratchpad.queueBack (p : Scratchpad) (w : Nat) (poison : Bool) : Scratchpad :=
  if p.backs.any fun b => decide (b.1 = w) && decide (b.2.1 = poison) then p else { p with backs := p.backs ++ [(w, poison, 0)] }

/-- Mark a scratchpad invalid: every block bit is cleared (R188). -/
def Scratchpad.invalidate (p : Scratchpad) : Scratchpad := { p with words := [], valid := [], backs := [], waiting := [], out := [], work := [] }

/-- Read one word in class `cls`: the word, whether it is poisoned, the core with its counters, and what to report
(R171, R172, R174, R188). -/
def Core.readWord (k : Core) (cls w : Nat) : (U64 × Bool) × Core × List ReadEvent :=
  let k := k.modLive fun l => l.serve cls 1
  let again (k : Core) : Core := if cls = 7 then k else k.modLive fun l => { l with poisoned := l.poisoned + 1 }
  if !k.pad.blockValid w then ((0, true), again k, [])
  else
    let c := k.pad.cell w
    match c.chk with
    | .good => ((c.data, false), k, [])
    | .single =>
      ((c.data, false), (k.modLive fun l => { l with corrected := l.corrected + 1 }).modPad fun p => p.queueBack w false, [])
    | .uncorrectable =>
      ((c.data, true),
        (k.modLive fun l => { l with uncorr := l.uncorr + 1, lastUncorr := BitVec.ofNat 32 (8 * w) }).modPad
          fun p => p.queueBack w true, [.uncorrectable w])
    | .poison => ((c.data, true), again k, if cls = 7 then [] else [.poison w])
    | .poisonFlipped =>
      ((c.data, true), (again k).modPad fun p => p.queueBack w true, if cls = 7 then [] else [.poison w])

/-- Write one whole word: it clears an error or a mark, cancels a queued write-back of the word and makes its block
valid, the other words of a block initialised by it being poisoned (R171, R172, R189). -/
def Scratchpad.write (p : Scratchpad) (w : Nat) (data : U64) (poison : Bool) : Scratchpad :=
  { p with
    words := mset {} p.words w ⟨if poison then 0 else data, if poison then .poison else .good⟩,
    valid := mset false p.valid (w / 128) true,
    backs := p.backs.filter fun b => decide (b.1 ≠ w) }

def Core.writeWord (k : Core) (cls w : Nat) (data : U64) (poison : Bool) : Core :=
  (k.modLive fun l => l.serve cls 1).modPad fun p => p.write w data poison

/-- Read words in order. -/
def Core.readWords (k : Core) (cls : Nat) : List Nat → List (U64 × Bool) × Core × List ReadEvent
  | [] => ([], k, [])
  | w :: t =>
    let r := k.readWord cls w
    let q := r.2.1.readWords cls t
    (r.1 :: q.1, q.2.1, r.2.2 ++ q.2.2)

/-- Write words from word address `w` on. -/
def Core.writeWords (k : Core) (cls w : Nat) : List (U64 × Bool) → Core
  | [] => k
  | x :: t => (k.writeWord cls w x.1 x.2).writeWords cls (w + 1) t

/-- Word addresses of `n` words from a byte address. -/
def wordRange (byte n : Nat) : List Nat := (List.range n).map fun i => byte / 8 + i

/-- Elements of `bits` bits packed into words, a word poisoned where an element of it is; unused bits are 0 (R162). -/
def packWords (bits : Nat) (l : List (Nat × Bool)) : List (U64 × Bool) :=
  let per := 64 / bits
  (chunks per l.length l).map fun c =>
    (BitVec.ofNat 64 ((c.zipIdx).foldl (fun a e => a + (e.1.1 % 2 ^ bits) * 2 ^ (bits * e.2)) 0), c.any (·.2))

/-- The first `n` elements of `bits` bits in words, with the poison mark of the word each lies in. -/
def unpackWords (bits n : Nat) (l : List (U64 × Bool)) : List (Nat × Bool) :=
  (l.flatMap fun w => (List.range (64 / bits)).map fun i => (w.1.toNat / 2 ^ (bits * i) % 2 ^ bits, w.2)).take n

/-! ### Reports of reads and triggers of a bake -/

/-- Record a trigger of R260 for a bake: the row number it has in R286. Triggers during a fence are merged (R261); a loss of a
core, a hearth or a channel counts each time (R289); and a drain for a migration becomes an absorb (R263). -/
def trigger (s : State) (b row : Nat) : State :=
  s.modBake b fun k =>
    { k with
      triggers := if k.triggers.contains row then k.triggers else k.triggers ++ [row],
      losses := k.losses + (if row = 1 ∨ row = 2 ∨ row = 6 then 1 else 0),
      migDrain := false }

/-- Bake of the instance on a core, 0 when it has none. -/
def bakeOf (k : Core) : Nat := (k.inst.map (·.1)).getD 0

/-- Mark the step instance `order` of a core as failed. -/
def Sequencer.fail (q : Sequencer) (order : Nat) : Sequencer :=
  { q with flight := q.flight.map fun i => if i.order = order then { i with failed := true } else i }

/-- Recipe step of the instance `order` of a core, 0xFFFF where no such instance is in flight. -/
def stepOfOrder (k : Core) (order : Nat) : Nat := ((k.seq.flight.find? fun i => decide (i.order = order)).map (·.step)).getD 0xFFFF

/-- Report the reads of one step instance of core `c`: an event for each uncorrectable word, and one poison event for
the first marked word unless the instance has already failed; either fails the step (R172, R174, R260). The poison event's
argument holds the word address in bits 31 to 0 and the step index in bits 47 to 32 (DESIGN CHOICE, log entry 123). -/
def reportReads (s : State) (c : CoreId) (order : Nat) (evs : List ReadEvent) : State :=
  let failedYet := (s.core c).seq.flight.any fun i => decide (i.order = order) && i.failed
  let at_ := stepOfOrder (s.core c) order
  let step (a : State × Bool) (e : ReadEvent) : State × Bool :=
    match e with
    | .uncorrectable w => (raise a.1 0x3221 (BitVec.ofNat 8 (c + 1)) 2 (BitVec.ofNat 8 (0x20 + hearthOf s c)) (BitVec.ofNat 64 (8 * w)), true)
    | .poison w =>
      if a.2 then a
      else (raise a.1 0x3222 (BitVec.ofNat 8 (c + 1)) 2 (BitVec.ofNat 8 (0x20 + hearthOf s c)) (BitVec.ofNat 64 (at_ * 2 ^ 32 + w)), true)
  let r := evs.foldl step (s, failedYet)
  if evs.isEmpty then s
  else trigger (r.1.modCore c fun k => k.modSeq fun q => q.fail order) (bakeOf (s.core c)) 5

end Sys2Proof.Machine
end

