-- ==== Sys2Proof/Machine/Scratchpad.lean ====
section
/-! DEFINITION. The scratchpad: bank cycles and arbitration (R164 to R169), error correction and poison (R170 to R174),
write-backs and scrubbing (R171, R172, R175, R176), and what the units of a core have in hand there (R71, R85, R210). -/

namespace Sys2Proof.Machine

/-- Bank and bank row of a word (R164). -/
def bankOf (w : Nat) : Nat := (w % 128) ^^^ (w / 128 % 128) ^^^ (w / 16384 % 128)
def bankRow (w : Nat) : Nat := w / 128

/-- Word at a row of a bank (R164, inverted). -/
def bankWord (bank row : Nat) : Nat := 128 * row + (bank ^^^ (row % 128) ^^^ (row / 128 % 128))

/-! ### Arbitration (R167) -/

/-- Requests of one unit are served in the order it made them: class, ingress before egress, array index; scrub reads and
write-backs are two units of the maintenance class. -/
def reqUnit (r : BankReq) : Nat := 16 * r.cls + (if r.ingress then 0 else 8) + r.arr

/-- Waited long enough to be aged: 32 core cycles, or the forced interval for a scrub read. -/
def aged (interval : Nat) (w : Waiting) : Bool :=
  if w.req.tag = .scrub then decide (interval ≤ w.age) else decide (32 ≤ w.age)

/-- Place in the order of R167 below a block initialisation: a smaller rank is served first. -/
def rank (interval : Nat) (w : Waiting) : Nat := (if aged interval w then 0 else 1024) + reqUnit w.req

/-- The oldest request of each unit. -/
def heads : List (Waiting × Nat) → List (Waiting × Nat) :=
  fun l => l.foldl (fun a e => if a.any fun x => decide (reqUnit x.1.req = reqUnit e.1.req) then a else a ++ [e]) []

/-- The request of smallest rank, the first of equals. -/
def bestOf (interval : Nat) : List (Waiting × Nat) → Option (Waiting × Nat)
  | [] => none
  | e :: t =>
    match bestOf interval t with
    | none => some e
    | some x => if rank interval x.1 < rank interval e.1 then some x else some e

def inBank (b : Nat) (l : List (Waiting × Nat)) : List (Waiting × Nat) := l.filter fun e => decide (bankOf e.1.req.word = b)

/-- What one cycle serves: winners by place in the waiting list, and `(loser class, winner class)` for each loss. -/
structure Grant where
  won    : List Nat
  losses : List (Nat × Nat)
  deriving DecidableEq, Repr

/-- One bank's choice. -/
def grantBank (interval : Nat) (l : List (Waiting × Nat)) (b : Nat) : Grant :=
  let h := heads (inBank b l)
  match bestOf interval h with
  | none => ⟨[], []⟩
  | some w => ⟨[w.2], (h.filter fun e => decide (e.2 ≠ w.2)).map fun e => (e.1.req.cls, w.1.req.cls)⟩

/-- Writes into invalid blocks that head their unit's requests to their bank (R189). -/
def initCandidates (p : Scratchpad) (banks : List Nat) (l : List (Waiting × Nat)) : List (Waiting × Nat) :=
  (banks.flatMap fun b => heads (inBank b l)).filter fun e => e.1.req.wr.isSome && !p.blockValid e.1.req.word

/-- The whole cycle: a block initialisation takes every bank; otherwise each bank serves one request (R167, R189). -/
def grantCycle (interval : Nat) (p : Scratchpad) (l : List (Waiting × Nat)) : Grant :=
  let banks := (l.map fun e => bankOf e.1.req.word).dedup
  match bestOf interval (initCandidates p banks l) with
  | some w =>
    ⟨[w.2], (banks.flatMap fun b => heads (inBank b l)).filterMap fun e => if e.2 = w.2 then none else some (e.1.req.cls, 7)⟩
  | none =>
    banks.foldl (fun g b => let x := grantBank interval l b; ⟨g.won ++ x.won, g.losses ++ x.losses⟩) ⟨[], []⟩

/-! ### What units have in hand -/

/-- The jobs of a unit, oldest first. -/
def Scratchpad.jobs (p : Scratchpad) (u : Nat) : List Work := mget [] p.work u

def Scratchpad.setJobs (p : Scratchpad) (u : Nat) (l : List Work) : Scratchpad := { p with work := mset [] p.work u l }

def Scratchpad.modJob (p : Scratchpad) (u order part : Nat) (f : Work → Work) : Scratchpad :=
  p.setJobs u ((p.jobs u).map fun j => if j.order = order ∧ j.part = part then f j else j)

/-- Requests of a unit that wait for their banks. -/
def Scratchpad.outstanding (p : Scratchpad) (u : Nat) : Nat :=
  (p.waiting.filter fun w => match w.req.tag with
    | .work v _ _ _ => decide (v = u)
    | _ => false).length

/-- A job has made every access it wants. -/
def Scratchpad.jobDone (p : Scratchpad) (u : Nat) (j : Work) : Bool :=
  j.made && j.reads.isEmpty && j.writes.isEmpty && !(p.waiting.any fun w => match w.req.tag with
    | .work v o q _ => decide (v = u) && decide (o = j.order) && decide (q = j.part)
    | _ => false)

/-- Every word the job reads has come. -/
def Work.hasRead (j : Work) : Bool := j.reads.isEmpty && decide (j.want ≤ j.got.length)

/-- The words read, in the order of their places. -/
def Work.words (j : Work) : List (U64 × Bool) :=
  (List.range j.want).map fun i => ((j.got.find? fun g => decide (g.1 = i)).map (·.2)).getD (0, true)

/-- The reads of a job from a list of word addresses. -/
def Work.reading (order part : Nat) (l : List Nat) : Work :=
  { order := order, part := part, reads := l.zipIdx.map fun e => (e.2, e.1), want := l.length }

/-- Class and order within the class of a unit's requests (R166, R167). -/
def unitReq (u : Nat) (word : Nat) (wr : Option (U64 × Bool)) (tag : ReqTag) : BankReq :=
  if u < 4 then ⟨1, false, u, word, wr, tag⟩
  else if u = 4 then ⟨4, false, 0, word, wr, tag⟩
  else if u = 5 then ⟨6, false, 0, word, wr, tag⟩
  else if u = 6 then ⟨0, false, 0, word, wr, tag⟩
  else if u = 7 then ⟨5, false, 0, word, wr, tag⟩
  else ⟨6, false, 1, word, wr, tag⟩

/-- Ask for up to `n` more words of a job: reads first, then writes whose cycle has come. -/
def Work.ask (j : Work) (u cycle n : Nat) : List BankReq × Work :=
  let r := j.reads.take n
  let w := if j.made && decide (j.since ≤ cycle) then j.writes.take (n - r.length) else []
  ((r.map fun e => unitReq u e.2 none (.work u j.order j.part e.1)) ++
      w.map fun e => unitReq u e.1 (some e.2) (.work u j.order j.part 0),
    { j with reads := j.reads.drop n, writes := j.writes.drop w.length })

/-- Ask for up to `n` words over the jobs of a unit, the oldest first. -/
def askAll (u cycle : Nat) : Nat → List Work → List BankReq × List Work
  | _, [] => ([], [])
  | n, j :: t =>
    let a := j.ask u cycle n
    let r := askAll u cycle (n - a.1.length) t
    (a.1 ++ r.1, a.2 :: r.2)

/-- Ask for words so that no more than `cap` of the unit's requests are out (R71, R177, R178, R210, R298). -/
def Scratchpad.askUnit (p : Scratchpad) (u cycle cap : Nat) : Scratchpad :=
  let a := askAll u cycle (cap - p.outstanding u) (p.jobs u)
  { p.setJobs u a.2 with waiting := p.waiting ++ a.1.map (Waiting.mk · 0) }

/-- Requests of the units and of the arrays in hand are given up: all but those of the router island's ingress, of the DMA
unit, of the digest unit and of the maintenance class (R86, R158). -/
def Scratchpad.giveUp (p : Scratchpad) : Scratchpad :=
  { p with
    waiting := p.waiting.filter fun w => match w.req.tag with
      | .feeder _ _ _ => false
      | .loader _ _ => false
      | .work u _ _ _ => decide (7 ≤ u)
      | _ => true,
    work := p.work.filter fun e => decide (7 ≤ e.1) }

/-- A word of an arriving flit asks for its bank in class 0x0, ingress before egress (R166, R167, R181, R213). -/
def Scratchpad.askIngress (p : Scratchpad) (l : List (Nat × U64 × Bool)) (done : Option Nat) : Scratchpad :=
  let n := l.length
  { p with waiting := p.waiting ++ l.zipIdx.map fun e =>
      ⟨⟨0, true, 0, e.1.1, some e.1.2, .ingress (if e.2 + 1 = n then done else none)⟩, 0⟩ }

def isIngress (w : Waiting) : Bool := match w.req.tag with
  | .ingress _ => true
  | _ => false

/-- Words of an arrived flit are still to be written: the next flits stay in the ingress buffer (R182, R214). -/
def Scratchpad.ingressBusy (p : Scratchpad) : Bool := p.waiting.any isIngress

/-- Words of arrived flits not yet written are dropped with the epoch they came under. -/
def Scratchpad.dropIngress (p : Scratchpad) : Scratchpad := { p with waiting := p.waiting.filter fun w => !isIngress w }

/-! ### Serving -/

/-- Hand a served word to the buffer it was read for (R55, R61). -/
def deliver (a : Arrays) (t : ReqTag) (w : U64 × Bool) : Arrays :=
  match t with
  | .feeder n vec idx =>
    { a with arr := mmod {} a.arr n fun x => { x with fetched := x.fetched ++ [⟨vec, idx, w.1, w.2⟩] } }
  | .loader row idx => { a with loadBuf := a.loadBuf ++ [⟨row, idx, w.1, w.2⟩] }
  | _ => a

/-- Hand a served word to the job it was read for. -/
def deliverJob (p : Scratchpad) (t : ReqTag) (w : U64 × Bool) : Scratchpad :=
  match t with
  | .work u o q i => p.modJob u o q fun j => { j with got := j.got ++ [(i, w.1, w.2)] }
  | _ => p

/-- A write-back: the corrected word, or the exact poison mark (R170 to R172). -/
def Scratchpad.writeBack (p : Scratchpad) (w : Nat) (poison : Bool) : Scratchpad :=
  { p with
    words := mmod {} p.words w (fun c => if poison then ⟨0, .poison⟩ else { c with chk := .good }),
    backs := p.backs.filter fun b => !(decide (b.1 = w) && decide (b.2.1 = poison)) }

/-- First valid block at or after a bank row (R175: invalid blocks are skipped). -/
def nextValid (p : Scratchpad) (row : Nat) : Option Nat := (p.valid.find? fun e => decide (row ≤ e.1) && e.2).map (·.1)

/-- A bank has finished a pass; all 128 together count one (R176). -/
def endPass (p : Scratchpad) (bank : Nat) : Scratchpad :=
  let e := mset false p.scrubEnd bank true
  let q := { p with scrubRow := mset 0 p.scrubRow bank 0 }
  if (List.range 128).all fun b => mget false e b then { q with scrubEnd := [], passes := p.passes + 1 }
  else { q with scrubEnd := e }

/-- A scrub read of a word has been made: the bank goes on behind it. -/
def scrubbed (p : Scratchpad) (w : Nat) : Scratchpad :=
  match nextValid p (bankRow w + 1) with
  | none => endPass p (bankOf w)
  | some n => { p with scrubRow := mset 0 p.scrubRow (bankOf w) n }

/-- Serve one request: a write-back, a whole-word write, or a read whose word goes to its unit. A DMA write that is `stale`
is discarded and counted (R301). -/
def serveReq (stale : BankReq → Bool) (k : Core) (r : BankReq) : Core × List ReadEvent :=
  match r.tag, r.wr with
  | .back p, _ => ((k.modLive fun l => l.serve r.cls 1).modPad fun q => q.writeBack r.word p, [])
  | _, some (d, p) =>
    (if stale r then k.modLive fun l => { l with staleWords := l.staleWords + 1 } else k.writeWord r.cls r.word d p, [])
  | .scrub, none =>
    let q := k.readWord r.cls r.word
    (q.2.1.modPad fun p => scrubbed p r.word, q.2.2)
  | _, none =>
    let q := k.readWord r.cls r.word
    ((q.2.1.modPad fun p => deliverJob { p with out := p.out ++ [(r, q.1.1, q.1.2)] } r.tag q.1).modArrays
      fun a => deliver a r.tag q.1, q.2.2)

/-- What the descriptor of a number serves, if it is in flight. -/
def dmaUse (s : State) (id : Nat) : Option DmaUse := (s.ring.dmas.find? fun d => decide (d.id = id)).map (·.use)

/-- Order number of the step instance a read serves, 0 where it serves none. -/
def reqOrder (s : State) (k : Core) (r : BankReq) : Nat :=
  match r.tag with
  | .other n => n
  | .work u o _ _ =>
    if u = 7 then
      match dmaUse s o with
      | some (.step _ n _ _) => n
      | _ => 0
    else if u < 7 then o else 0
  | .scrub => 0
  | _ => (k.arrays.job.map (·.1)).getD 0

/-- A read that serves no step: of the scrubber, of the copy of a bank, or of the digest unit, whose digest carries a poison flag of
its own (R460). -/
def serviceRead (s : State) (r : BankReq) : Bool :=
  match r.tag with
  | .scrub => true
  | .work u o _ _ => decide (u = 8) || (decide (u = 7) && (match dmaUse s o with
    | some (.step _ _ _ _) => false
    | some (.copyOut _) => false
    | _ => true))
  | _ => false

/-- Serve requests in order, gathering what the reads report: order number, whether the read serves no step, events. -/
def serveAll (s : State) (stale : BankReq → Bool) (k : Core) : List BankReq → Core × List (Nat × Bool × List ReadEvent)
  | [] => (k, [])
  | r :: t =>
    let x := serveReq stale k r
    let y := serveAll s stale x.1 t
    (y.1, if x.2.isEmpty then y.2 else (reqOrder s k r, serviceRead s r, x.2) :: y.2)

/-- What upsets of the cells have left in stored words of valid blocks (R170; log entry 9). -/
def upsetWords (p : Scratchpad) (ups : List (Nat × Check)) : Scratchpad :=
  { p with
    words := ups.foldl
      (fun m u => if p.blockValid u.1 then mmod {} m u.1 (fun c => { c with chk := u.2 }) else m) p.words }

/-- Queued write-backs as requests of the maintenance class. -/
def Scratchpad.backReqs (p : Scratchpad) : List Waiting :=
  p.backs.map fun b => ⟨⟨7, false, 1, b.1, some (0, b.2.1), .back b.2.1⟩, b.2.2⟩

/-- The event of an uncorrectable word that the scrubber or the digest unit has found (R172). -/
def scrubReport (s : State) (c : CoreId) (evs : List ReadEvent) : State :=
  evs.foldl
    (fun t e => match e with
      | .uncorrectable w => raise t 0x3221 (BitVec.ofNat 8 (c + 1)) 2 (BitVec.ofNat 8 (0x20 + hearthOf s c)) (BitVec.ofNat 64 (8 * w))
      | .poison _ => t) s

/-- A core's scratchpad has a clock: the core is on and its hearth not in a stop (R54, R190). -/
def padRuns (s : State) (c : CoreId) : Bool := decide ((s.core c).power = .on) && !(s.hearth (hearthOf s c)).frozen

/-- Serve one bank cycle: arbitration over the waiting requests, those given and the queued write-backs; losers are counted
and age (R167, R169). Answers the requests served. -/
def bankCycle (s : State) (c : CoreId) (stale : BankReq → Bool) (reqs : List BankReq) : State × List BankReq :=
  let k0 := s.core c
  let l := (k0.pad.waiting ++ reqs.map (Waiting.mk · 0) ++ k0.pad.backReqs).zipIdx
  let g := grantCycle (setting s 0x3230 1) k0.pad l
  let served := (l.filter fun e => g.won.contains e.2).map fun e => e.1.req
  let k1 := g.losses.foldl (fun k e => k.modLive fun v => v.lose e.1 e.2) k0
  let isBack (w : Waiting) : Bool := match w.req.tag with
    | .back _ => true
    | _ => false
  let k2 := k1.modPad fun p =>
    { p with
      out := [],
      waiting := (l.filter fun e => !g.won.contains e.2 && !isBack e.1).map fun e => { e.1 with age := e.1.age + 1 },
      backs := p.backs.map fun b => (b.1, b.2.1, b.2.2 + 1) }
  let r := serveAll s stale k2 served
  (r.2.foldl (fun t e => if e.2.1 then scrubReport t c e.2.2 else reportReads t c e.1 e.2.2) (s.modCore c fun _ => r.1), served)

/-! ### Write-backs and scrubbing -/

/-- A bank cycle of one bank for a request of the maintenance class: it is free when no other class waits for the bank (R167,
R175). -/
def bankFree (p : Scratchpad) (b : Nat) : Bool := !(p.waiting.any fun w => decide (bankOf w.req.word = b) && decide (w.req.cls ≠ 7))

/-- Serve the oldest queued write-back of a kind in a free cycle of its bank; where another class wants the bank it stays in
the queue for the arbitration of R167. -/
def writeBack (s : State) (c : CoreId) (poison : Bool) : State :=
  match (s.core c).pad.backs.find? fun b => decide (b.2.1 = poison) with
  | none => s
  | some b =>
    if bankFree (s.core c).pad (bankOf b.1) then
      s.modCore c fun k => (k.modLive fun l => l.serve 7 1).modPad fun p => p.writeBack b.1 poison
    else s

/-- CORRECTION_WRITE_BACK (R171). -/
def execCorrectionWriteBack (c : CoreId) (s : State) : Out := onCore s c (if padRuns s c then writeBack s c false else s)

/-- POISON_WRITE_BACK (R170, R172). -/
def execPoisonWriteBack (c : CoreId) (s : State) : Out := onCore s c (if padRuns s c then writeBack s c true else s)

/-- A scrub read of a bank waits already. -/
def scrubWaits (p : Scratchpad) (b : Nat) : Bool :=
  p.waiting.any fun w => decide (w.req.tag = .scrub) && decide (bankOf w.req.word = b)

/-- Scrub the next word of a bank in class 0x7: in a cycle of the bank that no other class wants, or else by a request that
waits for one. -/
def scrub (s : State) (c : CoreId) (bank : Nat) (upset : Check) : State :=
  let p := (s.core c).pad
  if scrubWaits p bank then s
  else
    match nextValid p (mget 0 p.scrubRow bank) with
    | none => s.modCore c fun k => k.modPad fun p => endPass p bank
    | some r =>
      let w := bankWord bank r
      let k := (s.core c).modPad fun p => if upset = .good then p else upsetWords p [(w, upset)]
      let q : BankReq := ⟨7, false, 0, w, none, .scrub⟩
      if bankFree p bank then
        let x := serveReq (fun _ => false) k q
        scrubReport (s.modCore c fun _ => x.1) c x.2
      else s.modCore c fun _ => k.modPad fun p => { p with waiting := p.waiting ++ [⟨q, 0⟩] }

/-- SCRUB_READ (R171, R172, R175, R176). -/
def execScrubRead (c : CoreId) (bank : Fin 128) (upset : Check) (s : State) : Out :=
  onCore s c (if setting s 0x3230 2 = 1 ∧ padRuns s c = true then scrub s c bank.val upset else s)

end Sys2Proof.Machine
end

