-- ==== Sys2Proof/Machine/Placed.lean ====
section
/-! DEFINITION. What a placement puts on the cores of a bake (R133, R211, R217, R236 to R241, R245, R294): recipe
images, binding tables, receive-stream entries, remote-write windows and sync objects. -/

namespace Sys2Proof.Machine

/-! ### What the placement says of an instance -/

def instRow (b : Bake) (i : Nat) : BitVec 512 := nth 0 b.pkg.insts i

/-- Core, phase and recipe choice of instance `i`. -/
def instPlace (b : Bake) (i : Nat) : Option (CoreId × Nat × Bool) :=
  b.place.bind fun p => p.insts[i]?

def instCore (b : Bake) (i : Nat) : CoreId := ((instPlace b i).map (·.1)).getD 0

/-- Recipe of instance `i`: rec or alt (R236). -/
def instRecipe (b : Bake) (i : Nat) : Recipe :=
  let alt := ((instPlace b i).map (·.2.2)).getD false
  nth {} b.pkg.recipes (if alt then inAlt (instRow b i) else inRec (instRow b i))

/-- Instances of a phase with their cores. -/
def phaseInsts (b : Bake) (ph : Nat) : List (Nat × CoreId) :=
  match b.place with
  | none => []
  | some p => p.insts.zipIdx.filterMap fun e => if e.1.2.1 = ph then some (e.2, e.1.1) else none

/-- Cores the bake's placement uses. -/
def bakeCores (b : Bake) : List CoreId :=
  match b.place with
  | none => []
  | some p => (p.insts.map (·.1)).dedup

def tensorRow (b : Bake) (j : Nat) : W256 := nth 0 b.pkg.tensors j

/-- The committed, or with `next` the next view of tensor `j` lies in the second place of a STATE tensor (R239, R253). -/
def viewSecond (b : Bake) (j : Nat) (next : Bool) : Bool := decide (tnCls (tensorRow b j) = 2) && (next != b.swapped)

/-- Scratchpad address of tensor `j`: its committed view, or its next view when it is a STATE tensor (R239, R253). -/
def viewBase (b : Bake) (j : Nat) (next : Bool) : Nat :=
  let e := nth (0, 0) ((b.place.map (·.tensors)).getD []) j
  if viewSecond b j next then e.2 else e.1

/-- Hardware sync object of sync entry `j` (R293). -/
def hwSync (b : Bake) (j : Nat) : Nat := nth 0 ((b.place.map (·.syncs)).getD []) j

def streamPlace (b : Bake) (j : Nat) : StreamPlace :=
  nth ⟨0, 0, 0, 0⟩ ((b.place.map (·.streams)).getD []) j

/-! ### Binding tables (R133, R237) -/

/-- Bindings of one class for one instance. -/
def bindings (b : Bake) (i cls : Nat) : List U64 := b.pkg.binds.filter fun w => decide (bnInst w = i) && decide (bnCls w = cls)

/-- A map from symbol to what the entry is bound to. -/
def bindMap {α : Type} [DecidableEq α] (d : α) (l : List U64) (f : U64 → α) : SMap α :=
  l.foldl (fun m w => mset d m (bnSym w) (f w)) []

def bindTens (b : Bake) (i : Nat) : SMap TensBind :=
  bindMap ⟨0, 0, 0⟩ (bindings b i 0) fun w =>
    let t := tensorRow b (bnObj w)
    ⟨instCore b (tnOwner t), viewBase b (bnObj w) (bnView w), tnSize t⟩

/-- Binding table of instance `i`, with its instance parameters. -/
def bindTable (b : Bake) (i : Nat) : Binding :=
  { tens := bindTens b i
    syncs := bindMap 0 (bindings b i 1) fun w => hwSync b (bnObj w)
    streams := bindMap ⟨0, none, 0, 0⟩ (bindings b i 2) fun w =>
      let r := nth 0 b.pkg.streams (bnObj w)
      let p := streamPlace b (bnObj w)
      if smLnk r then ⟨p.sendNo, none, p.recvNo, smXsize r⟩
      else ⟨p.sendNo, some (instCore b (smRcv r)), p.recvNo, smXsize r⟩
    peers := bindMap 0 (bindings b i 3) fun w => instCore b (bnObj w)
    dmas := bindMap 0 (bindings b i 4) fun w => nth 0 b.pkg.dmas (bnObj w)
    params := (List.range 16).foldl
      (fun m k => mset 0 m k (if k = 0 then BitVec.ofNat 32 i else inPar (instRow b i) k)) [] }

/-! ### Router island entries (R181, R211, R215) -/

/-- Receive-stream entries of a core for the instance it runs. -/
def recvEntries (b : Bake) (i : Nat) : SMap RecvEntry :=
  b.pkg.streams.zipIdx.foldl
    (fun m e =>
      if !smLnk e.1 && decide (smRcv e.1 = i) then
        mset ⟨0, 0, 0, 0, 0, 0, 0, none⟩ m (streamPlace b e.2).recvNo
          ⟨b.epoch, viewBase b (smRtens e.1) true, smXsize e.1, max 1 (smDepth e.1), hwSync b (smRsync e.1),
            BitVec.ofNat 32 (smAmt e.1), 0, none⟩
      else m) []

/-- Remote-write windows of the instance's core: one for each view of its tensors with rw set. -/
def windowsOf (b : Bake) (i : Nat) : List (Nat × Nat) :=
  b.pkg.tensors.zipIdx.flatMap fun e =>
    if tnRw e.1 && decide (tnHome e.1 = 0) && decide (tnOwner e.1 = i) then
      let p := nth (0, 0) ((b.place.map (·.tensors)).getD []) e.2
      if tnCls e.1 = 2 then [(p.1, tnSize e.1), (p.2, tnSize e.1)] else [(p.1, tnSize e.1)]
    else []

/-- Receiving core of each send stream of the instance (R215). -/
def sendTargets (b : Bake) (i : Nat) : SMap CoreId :=
  b.pkg.streams.zipIdx.foldl
    (fun m e => if !smLnk e.1 && decide (smSnd e.1 = i) then mset 240 m (streamPlace b e.2).sendNo (instCore b (smRcv e.1)) else m) []

/-- A sequencer at step 0: its attempt number stays, which a resumption alone moves (R187), and so does the running number of
its step instances. -/
def Sequencer.fresh (q : Sequencer) : Sequencer := { order := q.order, attempt := q.attempt }

/-- Synchronisation state of a core that a bake of epoch `e` is written onto: crumbs of that epoch stay held, a new bake
finds none (R187). -/
def SyncUnit.fresh (y : SyncUnit) (e : U32) : SyncUnit :=
  { y with
    counts := [], puts := [], fence := [], held := y.held.filter fun r => decide (r.epoch = e),
    opened := y.opened.filter fun r => decide (r.epoch = e), queue := [] }

/-- Write one instance onto its core: recipe image, binding table, entries of its router island, its sequencer at step
0 and its streams numbered from 0 (R130, R133, R211, R212, R217, R455). -/
def installCore (s : State) (b i : Nat) (c : CoreId) : State :=
  let k := s.bake b
  s.modCore c fun q =>
    { q with
      inst := some (b, i),
      recipe := instRecipe k i,
      bind := bindTable k i,
      seq := q.seq.fresh,
      arrays := {},
      pad := q.pad.giveUp.dropIngress,
      sync := q.sync.fresh k.epoch,
      island := { q.island with
        tenant := k.tenant, epoch := k.epoch, egress := [], toEgress := [], outbox := [],
        recv := recvEntries k i, sendSeq := [], stop := [], target := sendTargets k i, windows := windowsOf k i } }

/-- Every sync object of the bake takes the epoch in force and its initial value (R241, R294). -/
def initSyncs (s : State) (b : Nat) : State :=
  let k := s.bake b
  k.pkg.syncs.zipIdx.foldl (fun t e => setSyncObj t (hwSync k e.2) ⟨soInit e.1, k.epoch⟩) s

/-- Write the instances of a phase. -/
def installPhase (s : State) (b ph : Nat) : State :=
  (phaseInsts (s.bake b) ph).foldl (fun t e => installCore t b e.1 e.2) s

/-- Take the bake off its cores: no instance, recipe or entry of it is left. -/
def clearCores (s : State) (b : Nat) : State :=
  (bakeCores (s.bake b)).foldl
    (fun t c => t.modCore c fun q =>
      if bakeOf q = b then
        { q with
          inst := none, recipe := {}, bind := {}, seq := q.seq.fresh, arrays := {}, pad := q.pad.giveUp.dropIngress,
          sync := q.sync.fresh (s.bake b).epoch,
          island := { q.island with
            epoch := 0, egress := [], toEgress := [], outbox := [], recv := [], sendSeq := [], stop := [], target := [],
            windows := [] } }
      else q) s

/-- Start the recipe of every instance of a phase at step 0 (R138). -/
def startPhase (s : State) (b ph : Nat) : State :=
  (phaseInsts (s.bake b) ph).foldl (fun t e => t.modCore e.2 fun q => { q with seq := { q.seq.fresh with state := .running } }) s

/-- Rewrite the binding tables of the bake's instances, as after a view exchange (R253). -/
def rebind (s : State) (b : Nat) : State :=
  (phaseInsts (s.bake b) (s.bake b).phase).foldl
    (fun t e => t.modCore e.2 fun q =>
      { q with
               bind := { q.bind with tens := bindTens (s.bake b) e.1 },
               island := { q.island with
                 recv := (recvEntries (s.bake b) e.1).map fun r =>
                   (r.1, { r.2 with num := (mget r.2 q.island.recv r.1).num }) } }) s

end Sys2Proof.Machine
end

