-- ==== Sys2Proof/Machine/Issue.lean ====
section
/-! DEFINITION. How steps issue and finish, once for every opcode (R135 to R138, R152, R154, R156 to R158): the
conditions of issue, the walk through loops, yield regions and replay, signals, and step instances in flight. -/

namespace Sys2Proof.Machine

/-- Variables of the open loops, outermost first. -/
def Sequencer.vars (q : Sequencer) : List Nat := q.loops.map (·.v)

/-- The step at the head of a core's sequencer. -/
def headStep (k : Core) : W256 := k.recipe.step k.seq.step

/-! ### Waits (R153, R154) -/

/-- Hardware sync object a symbol is bound to. -/
def symObj (k : Core) (sym : Nat) : Nat := mget 0 k.bind.syncs sym

/-- A FENCE entry is satisfied once its probes are out and every target has answered (R184). -/
def fenceMet (k : Core) (obj : Nat) : Bool :=
  k.sync.fence.any fun f => decide (f.step = k.seq.step) && decide (f.loops = k.seq.vars) && decide (f.sobj = obj) && f.waiting.isEmpty

/-- One wait entry of the step at the head is satisfied. -/
def waitMet (s : State) (k : Core) (e : U64) : Bool :=
  let n := symObj k (sySym e)
  let v := (waitValue s n).toNat
  let o := (syOperand e k.seq.vars).toNat
  match syOp e with
  | 0 => decide (o ≤ v)
  | 1 => decide (v = o)
  | 2 => fenceMet k n
  | _ => false

def waitsMet (s : State) (k : Core) : Bool := (k.recipe.waits k.seq.step).all (waitMet s k)

/-! ### Conditions of issue (R135, R138, R157) -/

/-- A step's descriptor has been taken (R299). -/
def dmaRuns (s : State) (c : CoreId) (order : Nat) : Bool :=
  s.ring.dmas.any fun d => d.running && (match d.use with
    | .step c' o _ _ => decide (c' = c) && decide (o = order)
    | _ => false)

/-- A step instance waits in its unit's queue: its unit has not started it. The arrays start a MATMUL as their job, the DMA unit
with its descriptor, every other unit its instance when the one before has finished (R136). -/
def inQueue (s : State) (c : CoreId) (i : StepInst) : Bool :=
  let k := s.core c
  !i.ready && match i.unit with
    | .a => !(k.arrays.draining.any fun d => decide (d.1 = i.order))
    | .d => !dmaRuns s c i.order
    | u => k.seq.flight.any fun x => decide (x.unit = u) && decide (x.order < i.order)

/-- A unit has one of its four queue places free: a place is taken from issue to start (DESIGN CHOICE, log entry 134). The
sequencer's own steps take none (R135, R136). -/
def unitRoom (s : State) (c : CoreId) (u : UnitKind) : Bool :=
  decide (u = .s) || decide (((s.core c).seq.flight.filter fun i => decide (i.unit = u) && inQueue s c i).length < 4)

/-- The sequencer runs: core on, hearth not frozen, a step at the head (R54, R138). -/
def seqRuns (s : State) (c : CoreId) : Bool :=
  let k := s.core c
  decide (k.power = .on) && decide (k.seq.state = .running) && !(s.hearth (hearthOf s c)).frozen &&
    decide (k.seq.step < k.recipe.steps.length)

/-- Every condition of R135 for the step at the head. -/
def canIssue (s : State) (c : CoreId) : Bool :=
  let k := s.core c
  let u := (opUnit (stOp (headStep k))).getD .s
  waitsMet s k && (!k.recipe.barrierAt k.seq.step || k.seq.flight.isEmpty) &&
    unitRoom s c u

/-- A MATMUL that sets last-K for its rows; a slice MATMUL counts as one (R147, R158). -/
def setsLast (w : W256) : Bool := mmLast w || decide (mmSlice w ≠ 0)

/-- The walk of R158 skips the step at the head. -/
def skips (k : Core) : Bool :=
  k.seq.replay && k.seq.done.contains (k.seq.step, k.seq.vars) &&
    !(decide (stOp (headStep k) = opMatmul) && !setsLast (headStep k))

/-! ### The walk (R152, R157) -/

/-- Move to the next step: LOOP opens a level, ENDLOOP advances or closes the innermost one. -/
def Sequencer.advance (q : Sequencer) (b : Binding) (w : W256) : Sequencer :=
  if stOp w = opLoop then { q with loops := q.loops ++ [⟨q.step + 1, 0, loopCount b w⟩], step := q.step + 1 }
  else if stOp w = opEndloop then
    match q.loops.getLast? with
    | none => { q with step := q.step + 1 }
    | some l =>
      if l.v + 1 < l.count then { q with loops := q.loops.dropLast ++ [{ l with v := l.v + 1 }], step := l.start }
      else { q with loops := q.loops.dropLast, step := q.step + 1 }
  else { q with step := q.step + 1 }

/-- A yield point records the resume record and empties the done set; one issued again by the walk of R158 keeps what
its region has done. -/
def Sequencer.atYield (q : Sequencer) (yields : Bool) : Sequencer :=
  if !yields || (q.replay && decide (q.resume = ⟨q.step, q.loops⟩)) then q
  else { q with resume := ⟨q.step, q.loops⟩, done := [], replay := false }

def Core.walk (k : Core) (q : Sequencer) : Core := { k with seq := q.advance k.bind (headStep k) }

/-! ### Signals (R137, R154, R156, R296) -/

/-- Signals of a step instance, in list order, with the sender's epoch. -/
def stepSignals (k : Core) (step : Nat) (vars : List Nat) : List Sig :=
  (k.recipe.signals step).map fun e => ⟨symObj k (sySym e), decide (syOp e = 9), syOperand e vars, k.island.epoch⟩

/-- An object of the core itself. -/
def localSig (c : CoreId) (g : Sig) : Bool := decide (g.obj < 0xF000) && decide (g.obj / 256 = c)

/-- Fire a step's signals: local ones at once, remote ones as one entry of the sync queue. None when the queue of 64
steps is full: the step then does not finish (R296). -/
def fireSignals (s : State) (c : CoreId) (step : Nat) (vars : List Nat) : Option State :=
  let g := stepSignals (s.core c) step vars
  let remote := g.filter fun x => !localSig c x
  if !remote.isEmpty && decide (64 ≤ (s.core c).sync.queue.length) then none
  else
    let t := (g.filter (localSig c)).foldl signalObj s
    some (if remote.isEmpty then t else t.modCore c fun k => k.modSync fun y => { y with queue := y.queue ++ [remote] })

/-- A cycle in which a step waits for room in the sync queue (0x5011.02). -/
def countStall (s : State) : State := { s with ring := { s.ring with stalls := s.ring.stalls + 1 } }

/-! ### Issue and finish -/

/-- NOP, LOOP and ENDLOOP are not added to the done set (R157). -/
def entersDone (op : Nat) : Bool := op != opNop && op != opLoop && op != opEndloop

def Sequencer.addDone (q : Sequencer) (step : Nat) (vars : List Nat) (op : Nat) : Sequencer :=
  if entersDone op && !q.done.contains (step, vars) then { q with done := q.done ++ [(step, vars)] } else q

/-- Issue the step at the head and finish it in the same cycle, firing its signals (R137). -/
def issueNow (s : State) (c : CoreId) : State :=
  let k := s.core c
  match fireSignals s c k.seq.step k.seq.vars with
  | none => countStall s
  | some t =>
    t.modCore c fun k =>
      let q := k.seq.atYield (k.recipe.yieldAt k.seq.step)
      let q := { q with order := q.order + 1 }
      k.walk (q.addDone q.step q.vars (stOp (headStep k)))

/-- Order number the next issued step takes; numbers start at 1. -/
def nextOrder (k : Core) : Nat := k.seq.order + 1

/-- Issue the step at the head as an instance in flight; `ready` where its work is already done. -/
def issueFlight (k : Core) (ready : Bool) : Core :=
  let q := k.seq.atYield (k.recipe.yieldAt k.seq.step)
  let u := (opUnit (stOp (headStep k))).getD .s
  let i : StepInst := ⟨q.order + 1, q.step, q.vars, u, ready, false, 0⟩
  k.walk { q with order := q.order + 1, flight := q.flight ++ [i] }

/-- Run `go` if the step at the head is the one named and may issue; skip it where the walk of R158 does; otherwise
nothing happens (log entry 1). -/
def atHead (s : State) (c : CoreId) (fits : W256 → Bool) (go : State) : State :=
  let k := s.core c
  if !seqRuns s c || !fits (headStep k) then s
  else if skips k then s.modCore c fun k => k.walk k.seq
  else if canIssue s c then go
  else s

def isOp (op : Nat) (w : W256) : Bool := decide (stOp w = op)
def isVec (vop : Nat) (w : W256) : Bool := decide (stOp w = opVector) && decide (vcOp w = vop)

/-- E5M2 overflow mode of an output: its own, or the default read at placement (R94, R129, R141). -/
def nonsatOf (s : State) (k : Core) (d : W256) : Bool :=
  if dOvf d = 0 then (s.bake (bakeOf k)).defaults.2.2.2 else decide (dOvf d = 2)

/-- Bytes of each row of a transfer as word addresses, in row order (R142). -/
def rowWords (b : Binding) (d : W256) (vars : List Nat) (rows rbytes : Nat) : List Nat :=
  (List.range rows).flatMap fun i => wordRange (rowAddr b d vars i) (rbytes / 8)

end Sys2Proof.Machine
end

