-- ==== Sys2Proof/Machine/Ledger.lean ====
section
/-! DEFINITION. Host memory, the ledger's items with their acceptance records (R280 to R286), and the step of a bake as a
whole: its start, its re-run after a fence, and the end of a load (R138, R243, R262, R284). -/

namespace Sys2Proof.Machine

/-! ### Host memory -/

/-- Host memory as the device finds it: the given cells, read before it uses them, over what it held (log entry 7). -/
def mergeHost (s : State) (l : List Host.Cell) : State :=
  if l.isEmpty then s else { s with host := l.foldl (fun m e => mset 0 m e.1 e.2) s.host }

/-- `n` bytes of host memory from a bus address. -/
def hostBytes (s : State) (a n : Nat) : List Byte := (List.range n).map fun i => mget 0 s.host (a + i)

def hostNum (s : State) (a n : Nat) : Nat := ofLe (hostBytes s a n)

def hostStore (s : State) (a : Nat) (l : List Byte) : State :=
  { s with host := l.zipIdx.foldl (fun m e => mset 0 m (a + e.2) e.1) s.host }

/-- MSI-X vector raised. -/
def raiseMsix (s : State) (v : Nat) : State := { s with ring := { s.ring with msix := v :: s.ring.msix } }

/-! ### Items -/

/-- Positions of a ring's areas (R271). -/
def ringSize (g : Ring) : Nat := 2 ^ rcLg g.ctl

def getItem (s : State) (r : Nat) (i : U32) : Option Item := (s.workRing r).ledger.find? fun t => decide (t.index = i)

def modItem (s : State) (r : Nat) (i : U32) (f : Item → Item) : State :=
  s.modRing r fun g => { g with ledger := g.ledger.map fun t => if t.index = i then f t else t }

/-- An acceptance record (R281). -/
def acceptBytes (s : State) (t : Item) : List Byte :=
  leBytes 6 0 ++ [BitVec.ofNat 8 t.slot, t.state] ++ leBytes 8 s.links.inc.toNat ++ leBytes 4 t.epoch.toNat ++
    leBytes 4 t.index.toNat ++ leBytes 8 (wdToken t.desc).toNat

/-- Write an item's acceptance record at its position (R280, R281). -/
def writeAccept (s : State) (r : Nat) (i : U32) : State :=
  match getItem s r i with
  | none => s
  | some t =>
    let g := s.workRing r
    hostStore s (g.alogBase.toNat + 32 * (i.toNat % ringSize g)) (acceptBytes s t)

/-- End an item: any status but 0x00 and 0x01 turns its acceptance record to ENDED, and any above 0x02 counts as failed
(R286, R311). -/
def endItem (s : State) (r : Nat) (i : U32) (status : U8) (detail : BitVec 128) : State :=
  match getItem s r i with
  | none => s
  | some t =>
    if t.status.isSome then s
    else if status = 0 ∨ status = 1 then modItem s r i fun t => { t with status := some (status, detail) }
    else
      let u := writeAccept (modItem s r i fun t => { t with status := some (status, detail), state := 4 }) r i
      if 2 < status.toNat then { u with ring := { u.ring with failed := u.ring.failed + 1 } } else u

/-- End an item INVALID, naming the high bit of the offending field (R286). -/
def endInvalid (s : State) (r : Nat) (i : U32) (bit : Nat) : State := endItem s r i 3 (BitVec.ofNat 128 bit)

/-- RUN item whose step is in progress on a bake. -/
def runItem (s : State) (b : Nat) : Option Item := (s.bake b).item.bind (getItem s (s.bake b).ring)

/-! ### The step of a bake -/

/-- Number of phases of a bake's placement (R265). -/
def phasesOf (b : Bake) : Nat := max 1 ((b.place.map (·.phases)).getD 1)

/-- Start the step in progress from step 0 of every recipe: phase 1 is on the cores, or its change is still to come
(R138, R259, R266). -/
def startStep (s : State) (b : Nat) : State :=
  let k := s.bake b
  let s := s.modBake b fun q => { q with state := 3, begun := decide (k.phase ≤ 1), committing := false, carried := [] }
  let s := match k.item with
    | some i => modItem s k.ring i fun t => { t with attempts := t.attempts + 1 }
    | none => s
  if k.phase ≤ 1 then startPhase (s.modBake b fun q => { q with phase := 1 }) b 1 else s

/-- The state a bake takes when its step is over. -/
def idleState (k : Bake) : U8 := if k.draining then 7 else if k.migTo ≠ 0 then 6 else 2

/-- The bake goes on after a fence or a re-placement: its item is re-run, or ends FENCED OUT with the reason of its last
fence when it has been fenced more often than 0x3402.04 allows (R259, R262). A bake that migrates waits for its switch, its step
fenced already (R263); one that drains for a reset waits for the restore (R444). -/
def resumeItem (s : State) (b : Nat) : State :=
  let k := s.bake b
  let idle (q : Bake) : Bake := { q with item := none, state := idleState q, committing := false }
  match k.item, runItem s b with
  | some i, some t =>
    if setting s 0x3402 4 < t.fences - t.uncounted then endItem (s.modBake b idle) k.ring i 5 (BitVec.ofNat 128 k.reason.toNat)
    else if k.draining then s.modBake b fun q => { q with state := 7 }
    else if k.migTo ≠ 0 then s.modBake b fun q => { q with state := 6, absorbed := true }
    else startStep s b
  | _, _ => s.modBake b idle

/-- The triggers seen call for a re-placement: a core, hearth or channel is lost, or a core the bake uses is no longer
usable (R260). -/
def needsPlace (s : State) (k : Bake) : Bool :=
  k.triggers.any (fun r => decide (r = 1) || decide (r = 2) || decide (r = 6)) || (bakeCores k).any fun c => !usable s c

/-- Every ldma fill of a bake has ended: a load is in force and its item completes with epoch and phases (R286); a
re-placed bake goes on, unless a loss seen meanwhile starts its placement again (R261), and a phase whose refill it was starts
(R266). -/
def fillsDone (s : State) (b : Nat) : State :=
  let k := s.bake b
  if !k.filling then s
  else
    let t := s.modBake b fun q => { q with filling := false }
    if k.state = 1 then
      endItem (t.modBake b fun q => { q with state := idleState q }) k.ring k.loadIdx 0
        (BitVec.ofNat 128 (k.epoch.toNat + 2 ^ 32 * phasesOf k))
    else if k.state = 5 then
      if needsPlace t k then t
      else resumeItem (t.modBake b fun q => { q with losses := 0, triggers := q.triggers.filter fun r => decide (r = 4) || decide (r = 8) }) b
    else if k.state = 3 then startPhase t b k.phase
    else t

end Sys2Proof.Machine
end

