-- ==== Sys2Proof/Machine/Dma.lean ====
section
/-! DEFINITION. DMA and address translation (R298 to R310), and reads and writes of the memory stacks (R313 to R315). -/

namespace Sys2Proof.Machine

/-! ### Page tables (R303, R304) -/

/-- Shift, index bits and level of each table, root first. -/
def ptLevels : List (Nat × Nat × Nat) := [(48, 4, 4), (39, 9, 3), (30, 9, 2), (21, 9, 1), (12, 9, 0)]

/-- An entry that breaks R304 at its level. -/
def pteMalformed (e : U64) (level : Nat) : Bool :=
  let leaf := bitAt e 4
  decide (fld e 61 57 ≠ 0) || decide (fld e 11 5 ≠ 0) || bitAt e 3 || decide (fld e 63 62 = 3) ||
    (leaf && decide (3 ≤ level)) || (!leaf && decide (level = 0)) || (!leaf && decide (fld e 63 62 ≠ 0)) ||
    (leaf && decide (level = 2) && decide (fld e 29 12 ≠ 0)) || (leaf && decide (level = 1) && decide (fld e 20 12 ≠ 0))

/-- Walk the tables: log2 of the page size with its leaf, or the fault cause of R306. -/
def walkPt (s : State) (dva : Nat) : List (Nat × Nat × Nat) → Nat → Except Nat (Nat × U64)
  | [], _ => .error 5
  | (sh, w, lv) :: t, table =>
    let e : U64 := BitVec.ofNat 64 (hostNum s (table + 8 * (dva / 2 ^ sh % 2 ^ w)) 8)
    if !bitAt e 0 then .error 1
    else if pteMalformed e lv then .error 5
    else if bitAt e 4 then .ok (sh, e)
    else walkPt s dva t (fld e 56 12 * 4096)

/-- Where an access lands: host bus address or stack address. -/
inductive Phys where
  | bus (a : Nat)
  | stack (a : Nat)
  deriving DecidableEq, Repr

/-- Permission, residency and ATS for a leaf (R304, R306). -/
def useLeaf (s : State) (south : Bool) (dva sh : Nat) (e : U64) (write : Bool) (denied : List Nat) :
    Except Nat Phys × State :=
  let a := fld e 56 12 * 4096 + dva % 2 ^ sh
  if !(bitAt e (if write then 2 else 1)) then (.error 2, s)
  else if fld e 63 62 = 1 then (.ok (.stack a), s)
  else if fld e 63 62 = 2 then (.error 3, s)
  else
    let pg := a / 4096
    if s.ring.ats.contains (south, pg) then (.ok (.bus a), s)
    else if denied.contains pg then (.error 4, s)
    else
      let l := (south, pg) :: s.ring.ats
      let mine := (l.filter fun x => decide (x.1 = south)).take 2048
      (.ok (.bus a), { s with ring := { s.ring with ats := l.filter fun x => decide (x.1 ≠ south) || mine.contains x } })

/-- Translate a DVA through the controller's cache, walking the tables on a miss (R303, R304). -/
def translate (s : State) (south : Bool) (root dva : Nat) (write : Bool) (denied : List Nat) : Except Nat Phys × State :=
  if 2 ^ 52 ≤ dva then (.error 1, s)
  else
    match s.ring.tlb.find? fun e => decide (e.south = south) && decide (e.root = root) && decide (e.base = dva / 2 ^ e.size * 2 ^ e.size) with
    | some e => useLeaf s south dva e.size e.leaf write denied
    | none =>
      match walkPt s dva ptLevels root with
      | .error c => (.error c, s)
      | .ok (sh, e) =>
        let n : Tlb := ⟨south, root, dva / 2 ^ sh * 2 ^ sh, sh, e⟩
        let mine := (n :: s.ring.tlb.filter fun x => decide (x.south = south)).take 4096
        let t := { s with ring := { s.ring with tlb := mine ++ s.ring.tlb.filter fun x => decide (x.south ≠ south) } }
        useLeaf t south dva sh e write denied

/-- Bytes at DVAs that the ring engine reads for an item: a package or an I/O table. A fault gives its DVA and cause.
FREE VALUE: the bytes of a word that the stacks return poisoned, which the manual does not state here (log entry 10). -/
def readDva (s : State) (root : Nat) (denied : List Nat) : Nat → Nat → Except (Nat × Nat) (List Byte) × State
  | 0, _ => (.ok [], s)
  | n + 1, dva =>
    match translate s false root dva false denied with
    | (.error c, t) => (.error (dva / 4096 * 4096, c), t)
    | (.ok p, t) =>
      let l := match p with
        | .bus a => hostBytes t a 8
        | .stack a => leBytes 8 (((mget none t.hbm.words (a / 8)).getD (Config.freeValue a)).toNat)
      match readDva t root denied n (dva + 8) with
      | (.error e, u) => (.error e, u)
      | (.ok r, u) => (.ok (l ++ r), u)

/-! ### Memory stacks (R313 to R315) -/

/-- Stack address of byte `b` of bytes spread over a list of channels with a base in each (R314). -/
def stackAddr (chans : List (Nat × Nat)) (b : Nat) : Nat :=
  let g := b / 4096
  let k := max 1 chans.length
  let e := nth (0, 0) chans (g % k)
  2 ^ 31 * e.1 + e.2 + g / k * 4096 + b % 4096

/-- Stack address of byte `off` of an area of a bake (R314, R444, R466). -/
def areaAddr (b : Bake) (base off : Nat) : Nat :=
  stackAddr (((b.place.map (·.areaCh)).getD []).map fun e => (e.1, e.2 + base)) off

/-- Stack address of byte `off` of a tensor of a bake with home 0x1. The second base of a STATE tensor holds its other
view. -/
def tensorAddr (b : Bake) (j : Nat) (next : Bool) (off : Nat) : Nat :=
  let e := ((b.place.map (·.stackCh)).getD []).find? fun x => decide (x.1 = j)
  match e with
  | none => 0
  | some x => stackAddr (x.2.map fun c => (c.1, if viewSecond b j next then c.2.2 else c.2.1)) off

/-- The channel takes requests (R321). -/
def chanServes (s : State) (ch : Nat) : Bool := decide ((s.chan ch).state ≠ 1) && decide ((s.chan ch).state ≠ 2)

/-- Bytes of a channel (R312, R313). -/
def chanSize : Nat := 1500000000

/-- The stacks hold a byte at the address, in a channel that takes requests (R313, R321; log entry 45). -/
def stackHas (s : State) (a : Nat) : Bool := decide (a / 2 ^ 31 < 640) && decide (a % 2 ^ 31 < chanSize) && chanServes s (a / 2 ^ 31)

/-- Read one 8-byte word of the stacks: one bad symbol is corrected and counted, any other error returns the access
poisoned, is counted and raises an event (R315). -/
def stackRead (s : State) (a : Nat) (ups : List (Nat × StackUpset)) : (U64 × Bool) × State :=
  let ch := a / 2 ^ 31
  let v := mget none s.hbm.words (a / 8)
  let plain := match v with
    | some w => (w, false)
    | none => (0, true)
  if !stackHas s a then ((0, true), s)
  else
    match ups.find? fun u => decide (u.1 / 64 = a / 64) with
    | none => (plain, s)
    | some u =>
      let first := decide (u.1 / 8 = a / 8)
      match u.2 with
      | .oneSymbol => (plain, if first then s.modChan ch fun c => { c with corr := c.corr + 1 } else s)
      | .uncorrectable =>
        ((0, true),
          if first then
            raiseS (s.modChan ch fun c => { c with uncorr := c.uncorr + 1 }) (0x4020 + ch / 32) (ch % 32 + 1) 2 a
          else s)

/-- Write one word; a poisoned word leaves the poison syndrome, which an unlisted word reads as. -/
def stackWrite (s : State) (a : Nat) (w : U64 × Bool) : State :=
  if !stackHas s a then s
  else { s with hbm := { s.hbm with words := mset none s.hbm.words (a / 8) (if w.2 then none else some w.1) } }

/-! ### Moving words (R301) -/

/-- Root page table of the bake's items. -/
def bakeRoot (s : State) (slot : Nat) : Nat := (s.workRing (s.bake slot).ring).ptRoot.toNat

/-- Cores of H8 to H15 reach memory through the south controller (R298). -/
def southSide (s : State) : Side → Bool
  | .pad c _ => decide (8 ≤ hearthOf s c)
  | _ => false

/-- Result of moving one word. -/
inductive Moved where
  | done (s : State)
  | fault (dva cause : Nat) (s : State)
  | stop (s : State)
  deriving DecidableEq, Repr

/-- One side, `off` bytes on. -/
def Side.plus : Side → Nat → Side
  | .pad c a, n => .pad c (a + n)
  | .tens j v o, n => .tens j v (o + n)
  | .area b o, n => .area b (o + n)
  | .host d, n => .host (d + n)

/-! ### The scratchpad side of a descriptor (R298, R301) -/

/-- The job of a descriptor at a core's scratchpad, if it has one. -/
def dmaJob (k : Core) (id : Nat) : Option Work := (k.pad.jobs 7).find? fun j => decide (j.order = id)

/-- Change or open the job of a descriptor at a core. -/
def modDmaJob (k : Core) (id : Nat) (f : Work → Work) : Core :=
  k.modPad fun p =>
    if (p.jobs 7).any fun j => decide (j.order = id) then p.modJob 7 id 0 f
    else p.setJobs 7 (p.jobs 7 ++ [f { order := id, part := 0, reads := [], want := 0, made := true }])

/-- The side of the row that byte `n` of a transfer lies in, and the byte in the row. -/
def rowSide (d : DmaDesc) (l : List Side) (n : Nat) : Side × Nat := (nth (.area 0 0) l (n / max 8 d.bytes), n % max 8 d.bytes)

/-- Core and word address that word `n` of a transfer is read from, if its source is a scratchpad. -/
def padWordOf (d : DmaDesc) (n : Nat) : Option (CoreId × Nat) :=
  match rowSide d d.src (8 * n) with
  | (.pad c a, o) => some (c, (a + o) / 8)
  | _ => none

/-- Words of a transfer from byte `moved` on that are read from a scratchpad: number, core, word address. -/
def padWords (d : DmaDesc) : List (Nat × CoreId × Nat) :=
  (List.range (d.src.length * d.bytes / 8)).filterMap fun n =>
    if 8 * n < d.moved then none else (padWordOf d n).map fun e => (n, e)

/-- The descriptor's reads of its scratchpad rows have been asked for. -/
def padAsked (s : State) (d : DmaDesc) : Bool := (padWords d).all fun e => (dmaJob (s.core e.2.1) d.id).isSome

/-- A word of the transfer as the scratchpad served it. -/
def padGot (s : State) (d : DmaDesc) (n : Nat) : Option (U64 × Bool) :=
  (padWordOf d n).bind fun e => ((dmaJob (s.core e.1) d.id).bind fun j => j.got.find? fun g => decide (g.1 = n)).map (·.2)

/-- Every word still to be moved that lies in a scratchpad has been served. -/
def padServed (s : State) (d : DmaDesc) : Bool := (padWords d).all fun e => (padGot s d e.1).isSome

/-- Ask for the words of the scratchpad rows through class 0x5. -/
def askPad (s : State) (d : DmaDesc) : State :=
  ((padWords d).map (·.2.1)).dedup.foldl
    (fun t c => t.modCore c fun k => modDmaJob k d.id fun j =>
      let l := ((padWords d).filter fun e => decide (e.2.1 = c)).map fun e => (e.1, e.2.2)
      { j with reads := j.reads ++ l, want := j.want + l.length }) s

/-- Cores at whose scratchpads a descriptor has a side. -/
def padCores (d : DmaDesc) : List CoreId :=
  ((d.src ++ d.dst).filterMap fun x => match x with
    | .pad c _ => some c
    | _ => none).dedup

/-- Every scratchpad write of a descriptor has been performed (R301). -/
def padWritten (s : State) (d : DmaDesc) : Bool :=
  (padCores d).all fun c => match dmaJob (s.core c) d.id with
    | none => true
    | some j => (s.core c).pad.jobDone 7 j

/-- A descriptor leaves nothing at the scratchpads. -/
def endPadJobs (s : State) (d : DmaDesc) : State :=
  (padCores d).foldl (fun t c => t.modCore c fun k => k.modPad fun p =>
    p.setJobs 7 ((p.jobs 7).filter fun j => decide (j.order ≠ d.id))) s

/-- Read word `n` of a transfer from the side that names it; a scratchpad has served it. -/
def readSide (s : State) (d : DmaDesc) (south : Bool) (denied : List Nat) (ups : List (Nat × StackUpset)) (n : Nat) (x : Side) :
    Except (Nat × Nat) (U64 × Bool) × State :=
  match x with
  | .pad _ _ => (.ok ((padGot s d n).getD (0, true)), s)
  | .tens j v o => let q := stackRead s (tensorAddr (s.bake d.slot) j v o) ups; (.ok q.1, q.2)
  | .area b o => let q := stackRead s (areaAddr (s.bake d.slot) b o) ups; (.ok q.1, q.2)
  | .host dva =>
    match translate s south (bakeRoot s d.slot) dva false denied with
    | (.error c, t) => (.error (dva / 4096 * 4096, c), t)
    | (.ok (.bus a), t) => (.ok (BitVec.ofNat 64 (hostNum t a 8), false), t)
    | (.ok (.stack a), t) => let q := stackRead t a ups; (.ok q.1, q.2)

/-- A DMA write into a scratchpad joins the descriptor's job there (R298). -/
def padWrite (s : State) (d : DmaDesc) (c : CoreId) (a : Nat) (w : U64 × Bool) : State :=
  s.modCore c fun k => modDmaJob k d.id fun j => { j with writes := j.writes ++ [(a / 8, w)] }

/-- A DMA write that a bank is about to serve carries the epoch of its descriptor; with another, or with a descriptor that a
fence has freed, it is stale (R301, R302). -/
def dmaStale (s : State) (c : CoreId) (r : BankReq) : Bool :=
  match r.tag with
  | .work u o _ _ => decide (u = 7) && !(s.ring.dmas.any fun d => decide (d.id = o) && decide (d.epoch = (s.core c).island.epoch))
  | _ => false

/-- A poisoned word bound for host memory stops its descriptor and fails the step it serves (R301); the copy of a bank serves none,
and its poison event names no core (log entry 123). -/
def stopPoisoned (s : State) (d : DmaDesc) : State :=
  match d.use with
  | .step c o _ _ => trigger (s.modCore c fun k => k.modSeq fun q => q.fail o) d.slot 5
  | .hostCopy _ => raiseS s 0x3222 0 2 d.slot
  | _ => trigger s d.slot 5

/-- Write a word; a poisoned one never reaches host memory. -/
def writeSide (s : State) (d : DmaDesc) (south : Bool) (denied : List Nat) (x : Side) (w : U64 × Bool) : Moved :=
  match x with
  | .pad c a => .done (padWrite s d c a w)
  | .tens j v o => .done (stackWrite s (tensorAddr (s.bake d.slot) j v o) w)
  | .area b o => .done (stackWrite s (areaAddr (s.bake d.slot) b o) w)
  | .host dva =>
    if w.2 then .stop (stopPoisoned s d)
    else
      match translate s south (bakeRoot s d.slot) dva true denied with
      | (.error c, t) => .fault (dva / 4096 * 4096) c t
      | (.ok (.bus a), t) => .done (hostStore t a (leBytes 8 w.1.toNat))
      | (.ok (.stack a), t) => .done (stackWrite t a w)

/-- Move the word at byte `n` of the whole transfer. A write's translation is tried before its source is read, so that a
parked descriptor has read nothing for the faulting page. -/
def moveWord (s : State) (d : DmaDesc) (denied : List Nat) (ups : List (Nat × StackUpset)) (n : Nat) : Moved :=
  let r := n / max 8 d.bytes
  let o := n % max 8 d.bytes
  let src := (nth (.area 0 0) d.src r).plus o
  let dst := (nth (.area 0 0) d.dst r).plus o
  let south := southSide s src || southSide s dst
  let pre : Moved := match dst with
    | .host dva =>
      match translate s south (bakeRoot s d.slot) dva true denied with
      | (.error c, t) => .fault (dva / 4096 * 4096) c t
      | (.ok _, t) => .done t
    | _ => .done s
  match pre with
  | .done t =>
    match readSide t d south denied ups (n / 8) src with
    | (.error e, u) => .fault e.1 e.2 u
    | (.ok w, u) => writeSide u d south denied dst w
  | m => m

/-- Move words in order until the transfer ends, faults or stops. -/
def moveGo : Nat → State → DmaDesc → List Nat → List (Nat × StackUpset) → State × DmaDesc
  | 0, s, d, _, _ => (s, d)
  | f + 1, s, d, denied, ups =>
    if d.src.length * d.bytes ≤ d.moved then (s, d)
    else
      match moveWord s d denied ups d.moved with
      | .done t => moveGo f t { d with moved := d.moved + 8 } denied ups
      | .fault a c t => (t, { d with parked := some (a, c, (d.parked.map (·.2.2)).getD 0) })
      | .stop t => (t, { d with dead := true })

/-- Bytes of the whole transfer. -/
def DmaDesc.total (d : DmaDesc) : Nat := d.src.length * d.bytes

def DmaDesc.run (s : State) (d : DmaDesc) (denied : List Nat) (ups : List (Nat × StackUpset)) : State × DmaDesc :=
  moveGo (d.total / 8 + 1) s { d with parked := none } denied ups

/-! ### Descriptors (R299) -/

def State.modDmas (s : State) (f : List DmaDesc → List DmaDesc) : State := { s with ring := { s.ring with dmas := f s.ring.dmas } }

/-- Put a descriptor back under its number. -/
def putDma (s : State) (d : DmaDesc) : State := s.modDmas fun l => l.map fun x => if x.id = d.id then d else x

def getDma (s : State) (id : Nat) : Option DmaDesc := s.ring.dmas.find? fun d => decide (d.id = id)

/-- Descriptors in flight: all that have been taken. -/
def inFlight (s : State) : Nat := (s.ring.dmas.filter fun d => d.running).length

/-- A new request for a descriptor, at the end of the request order; a wait for a free one is counted (R299). -/
def requestDma (s : State) (use : DmaUse) (slot : Nat) (src dst : List Side) (bytes : Nat) : State :=
  let d : DmaDesc :=
    { id := s.ring.nextDma, use := use, slot := slot, epoch := (s.bake slot).epoch, src := src, dst := dst, bytes := bytes }
  { s with ring := { s.ring with
      dmas := s.ring.dmas ++ [d],
      nextDma := s.ring.nextDma + 1,
      waits := if 4096 ≤ s.ring.dmas.length then s.ring.waits + 1 else s.ring.waits } }

/-- DMA steps of a core whose descriptors have been taken. -/
def coreRuns (s : State) (c : CoreId) : Nat :=
  (s.ring.dmas.filter fun d => d.running && (match d.use with
    | .step c' _ _ _ => decide (c' = c)
    | _ => false)).length

/-- A descriptor the engine can move on: one waiting for a free place, of a core with fewer than 16 DMA steps under way, or one
taken that stands still for no fault and whose scratchpad words have come (R136, R299). -/
def startable (s : State) (d : DmaDesc) : Bool :=
  if d.running then
    !d.saved && d.parked.isNone && !d.dead && decide (d.moved < d.total) && (!padAsked s d || padServed s d)
  else match d.use with
    | .step c _ _ _ => decide (coreRuns s c < 16)
    | _ => true

/-- Move a descriptor on: its scratchpad rows are asked for first, and its words moved once those have come. -/
def advanceDma (s : State) (d : DmaDesc) (denied : List Nat) (ups : List (Nat × StackUpset)) : State × DmaDesc :=
  if padServed s d then d.run s denied ups else if padAsked s d then (s, d) else (askPad s d, d)

/-- DMA_DESCRIPTOR_START: the oldest request that can start takes a free descriptor and moves its rows in order (R299,
R301). -/
def execDmaDescriptorStart (host : List Host.Cell) (atsDenied : List Nat) (ups : List (Nat × StackUpset)) (s : State) : Out :=
  let s := mergeHost s host
  match s.ring.dmas.find? (startable s) with
  | none => .next s
  | some d =>
    if 4096 ≤ inFlight s ∧ d.running = false then .next s
    else
      let r := advanceDma s { d with running := true } atsDenied ups
      let t := putDma r.1 r.2
      .next { t with ring := { t.ring with high := max t.ring.high (inFlight t) } }

/-- Free a descriptor. -/
def freeDma (s : State) (id : Nat) : State := s.modDmas fun l => l.filter fun d => decide (d.id ≠ id)

/-- What a completed descriptor leaves: the DMA step it serves has done its work (R137, R301). -/
def dmaDone (s : State) (d : DmaDesc) : State :=
  match d.use with
  | .step c o _ _ =>
    s.modCore c fun k => k.modSeq fun q => { q with flight := q.flight.map fun i => if i.order = o then { i with ready := true } else i }
  | _ => s

/-- The last ldma fill of a bake ends its load or re-placement (R243, R260). -/
def afterFree (s : State) (d : DmaDesc) : State :=
  let isLoad (x : DmaDesc) : Bool := match x.use with
    | .load _ => true
    | _ => false
  if isLoad d && !(s.ring.dmas.any fun x => isLoad x && decide (x.slot = d.slot)) then fillsDone s d.slot else s

/-- DMA_DESCRIPTOR_COMPLETE: the last write has been performed (R301). -/
def execDmaDescriptorComplete (id : Nat) (s : State) : Out :=
  match getDma s id with
  | none => .next s
  | some d =>
    .next (if d.running = true ∧ d.total ≤ d.moved ∧ padWritten s d = true then
        afterFree (freeDma (endPadJobs (dmaDone s d) d) id) d
      else s)

/-! ### The DMA step (R300) -/

/-- Address of row `i` of the far side within its tensor (R300). -/
def farOffset (b : Binding) (w : BitVec 512) (vars : List Nat) (i : Nat) : Nat :=
  ((dmOff w : Int) + paramOff b (dmPar w) + strides (dmStride w) vars + (i : Int) * dmPitch w).toNat

/-- Host address of a tensor from the I/O table. -/
def ioAddr (b : Bake) (j : Nat) : Nat := ((b.io.find? fun e => decide (e.1 = j)).map (·.2)).getD 0

/-- Far side at an offset: reading takes the committed view of a STATE tensor, writing its next view (R239). -/
def farSide (b : Bake) (w : BitVec 512) (off : Nat) (write : Bool) : Side :=
  if dmSpace w = 2 then .host (ioAddr b (dmTens w) + off) else .tens (dmTens w) write off

/-- Issue the DMA step at the head: a descriptor saved for it continues, otherwise it asks for a new one (R299, R310). -/
def doDma (s : State) (c : CoreId) : State :=
  let k := s.core c
  let w := headStep k
  let slot := bakeOf k
  let o := nextOrder k
  let t := s.modCore c fun k => issueFlight k false
  match s.ring.dmas.find? fun d =>
      d.saved && (match d.use with
        | .step c' _ st v => decide (c' = c) && decide (st = k.seq.step) && decide (v = k.seq.vars)
        | _ => false) with
  | some d =>
    putDma t { d with saved := false, use := .step c o k.seq.step k.seq.vars }
  | none =>
    let m := mget 0 k.bind.dmas (mvTgt w)
    let near := (List.range (mvRows w)).map fun i => Side.pad c (rowAddr k.bind (k.recipe.desc (mvDs w)) k.seq.vars i)
    let out := decide (dmDir m = 1)
    let far := (List.range (mvRows w)).map fun i => farSide (s.bake slot) m (farOffset k.bind m k.seq.vars i) out
    requestDma t (.step c o k.seq.step k.seq.vars) slot (if out then near else far) (if out then far else near) (mvRbytes w)

/-- DMA (R151, R299, R300). -/
def execDma (c : CoreId) (s : State) : Out := onCore s c (atHead s c (isOp opDma) (doDma s c))

/-! ### Faults (R306 to R309) -/

/-- Instance and step of a descriptor's fault record. -/
def dmaWhere (s : State) (d : DmaDesc) : Nat × Nat × Nat :=
  match d.use with
  | .step c _ st _ => (((s.core c).inst.map (·.2)).getD 0xFFFF, st, (s.core c).seq.attempt.toNat)
  | _ => (0xFFFF, 0xFFFF, 0)

/-- Bytes of a fault record (R307). -/
def FaultRec.bytes (r : FaultRec) : List Byte :=
  leBytes 8 r.dva.toNat ++ [r.cause, r.ring, r.slot, r.att] ++ leBytes 2 r.inst.toNat ++ leBytes 2 r.step.toNat ++
    leBytes 4 r.seq.toNat ++ List.replicate 12 0

/-- Write a fault record to the fault queue and to 0x5110.01; a full queue counts it lost and keeps the fault parked
(R307, R275). -/
def writeFault (s : State) (d : DmaDesc) (dva cause : Nat) : State :=
  let seq := s.ring.faultSeq + 1
  let w := dmaWhere s d
  let r : FaultRec :=
    ⟨BitVec.ofNat 64 dva, BitVec.ofNat 8 cause, BitVec.ofNat 8 (s.bake d.slot).ring, BitVec.ofNat 8 d.slot,
      BitVec.ofNat 8 w.2.2, BitVec.ofNat 16 w.1, BitVec.ofNat 16 w.2.1, seq⟩
  let t := { s with ring := { s.ring with
    faultSeq := seq,
    recent := (s.ring.recent ++ [r]).drop (s.ring.recent.length + 1 - 16),
    pri := if cause = 4 then s.ring.pri ++ [seq] else s.ring.pri } }
  let t := putDma t { d with parked := some (dva, cause, seq) }
  if 256 ≤ t.ring.fqTail.toNat - t.ring.fqHead.toNat then { t with ring := { t.ring with recLost := t.ring.recLost + 1 } }
  else
    let u := hostStore t (t.ring.fqBase.toNat + 32 * (t.ring.fqTail.toNat % 256)) r.bytes
    raiseMsix { u with ring := { u.ring with fqTail := u.ring.fqTail + 1 } } 64

/-- TRANSLATION_FAULT: the descriptor that met the fault is parked and its record written (R306, R307). -/
def execTranslationFault (id dva cause : Nat) (s : State) : Out :=
  match getDma s id with
  | none => .next s
  | some d =>
    .next (if d.parked = some (dva, cause, 0) then
        let t := writeFault s d dva cause
        { t with ring := { t.ring with parked := t.ring.parked + 1 } }
      else s)

/-- Count a resolved fault by when it was resolved (R308). -/
def countResolved (s : State) (slot : Nat) : State :=
  if (s.bake slot).preempted then { s with ring := { s.ring with late := s.ring.late + 1 } }
  else { s with ring := { s.ring with resolved := s.ring.resolved + 1 } }

/-- The PRI request of a descriptor's latest record is no longer outstanding. -/
def dropPri (s : State) (d : DmaDesc) : State :=
  match d.parked with
  | some p => { s with ring := { s.ring with pri := s.ring.pri.filter fun x => decide (x ≠ p.2.2) } }
  | none => s

/-- A retry of a parked descriptor (R307, R309, R310): a saved one only has its translation tried; any other moves on. It
meets the fault again with a new record, or the fault is resolved. -/
def retryDma (s : State) (d : DmaDesc) (atsDenied : List Nat) : State :=
  let t := dropPri s d
  if d.saved then
    match moveWord t d atsDenied [] d.moved with
    | .fault a c u => writeFault u d a c
    | _ => countResolved (putDma t { d with parked := none }) d.slot
  else
    let r := d.run t atsDenied []
    match r.2.parked with
    | some p =>
      if d.moved < r.2.moved then countResolved (putDma r.1 r.2) d.slot else writeFault (putDma r.1 r.2) r.2 p.1 p.2.1
    | none => countResolved (putDma r.1 r.2) d.slot

/-- Parked descriptor whose latest record has a sequence number. -/
def parkedBy (s : State) (seq : U32) : Option DmaDesc :=
  s.ring.dmas.find? fun d => match d.parked with
    | some p => decide (p.2.2 = seq) && decide (seq ≠ 0)
    | none => false

/-- PRI_RESPONSE: Success retries the translation; any other response writes a second record with cause 0x6 (R307). -/
def execPriResponse (seq : U32) (success : Bool) (s : State) : Out :=
  if !s.ring.pri.contains seq then .next s
  else
    let t := { s with ring := { s.ring with pri := s.ring.pri.filter fun x => decide (x ≠ seq) } }
    match parkedBy t seq with
    | none => .next t
    | some d =>
      match d.parked with
      | none => .next t
      | some p => .next (if success then retryDma t d [] else writeFault t d p.1 6)

/-- RETRY: names the latest record of a parked descriptor; any other is ignored (R307). -/
def execRetry (seq : U32) (host : List Host.Cell) (atsDenied : List Nat) (s : State) : Out :=
  let s := mergeHost s host
  match parkedBy s seq with
  | none => .next s
  | some d => .next (retryDma s d atsDenied)

/-- Log2 of the size an INV_ADDR write names; none for every entry under the root (R272). -/
def invSize (v : U64) : Option Nat :=
  match fld v 1 0 with
  | 0 => some 12
  | 1 => some 21
  | 2 => some 30
  | _ => none

/-- A translation of the given root and DVA is covered by an invalidation. -/
def invCovers (root : Nat) (v : U64) (r dva : Nat) : Bool :=
  decide (r = root) && (match invSize v with
    | none => true
    | some z => decide (dva / 2 ^ z = fld v 63 12 * 4096 / 2 ^ z))

/-- INV_ADDR: starts an invalidation; one is ignored with an event while another is in progress (R305). -/
def execInvAddr (val : U64) (s : State) : Out :=
  if s.ring.invBusy then .next (raiseS s 0x5000 5 1 0)
  else
    let root := s.ring.invRoot.toNat
    let keep (e : Tlb) : Bool :=
      !invCovers root val e.root e.base && !(invCovers root val e.root (fld val 63 12 * 4096) &&
        decide (fld val 63 12 * 4096 / 2 ^ e.size = e.base / 2 ^ e.size))
    .next { s with ring := { s.ring with invBusy := true, invAddr := val, tlb := s.ring.tlb.filter keep } }

/-- Retry every parked descriptor a test picks. -/
def retryAll (s : State) (pick : DmaDesc → Bool) : State :=
  (s.ring.dmas.filter fun d => d.parked.isSome && pick d).foldl
    (fun t d => match getDma t d.id with
      | some x => retryDma t x []
      | none => t) s

/-- INVALIDATION_COMPLETE: no request that used the old translation is left; parked faults that the invalidation covers
are retried (R305, R307). -/
def execInvalidationComplete (s : State) : Out :=
  if !s.ring.invBusy then .next s
  else
    let v := s.ring.invAddr
    let root := s.ring.invRoot.toNat
    .next (retryAll { s with ring := { s.ring with invBusy := false } }
      fun d => match d.parked with
        | some p => decide (p.2.2 ≠ 0) && invCovers root v (bakeRoot s d.slot) p.1
        | none => false)

/-- ATS_INVALIDATION: the caches drop translations of an IOVA range (R306). -/
def execAtsInvalidation (iova size : Nat) (s : State) : Out :=
  .next { s with ring := { s.ring with
    ats := s.ring.ats.filter fun e => !(decide (iova / 4096 ≤ e.2) && decide (e.2 * 4096 < iova + size)),
    atsInv := s.ring.atsInv + 1 } }

end Sys2Proof.Machine
end

