-- ==== Sys2Proof/Machine/Areas.lean ====
section
/-! DEFINITION. Where the bytes of a bake's tensors lie outside DMA steps: on the cores of its phase, in the phase area, in
the spill area and in the bank areas (R238, R239, R266, R444, R466), and copies between these places. -/

namespace Sys2Proof.Machine

/-- Tensors of a bake with their rows. -/
def tensorsOf (b : Bake) : List (Nat × W256) := b.pkg.tensors.zipIdx.map fun e => (e.2, e.1)

/-- Bytes before tensor `j` in an area that holds the tensors a test picks, each `copies` times. -/
def areaOff (b : Bake) (pick : W256 → Bool) (copies : W256 → Nat) (j : Nat) : Nat :=
  ((tensorsOf b).filter fun e => decide (e.1 < j) && pick e.2).foldl (fun a e => a + copies e.2 * tnSize e.2) 0

def isState (t : W256) : Bool := decide (tnCls t = 2)
def homePad (t : W256) : Bool := decide (tnHome t = 0)

/-- Byte of tensor `j` in the spill area (R444). -/
def spillSide (b : Bake) (j off : Nat) : Side :=
  .area ((b.place.map (·.spill)).getD 0) (areaOff b (fun t => isState t && homePad t) (fun _ => 1) j + off)

/-- Byte of tensor `j` in a bank area (R466). -/
def bankSide (b : Bake) (areaB : Bool) (j off : Nat) : Side :=
  .area ((b.place.map fun p => if areaB then p.bankB else p.bankA).getD 0)
    (areaOff b (fun t => isState t && decide (tnHome t ≤ 1)) (fun _ => 1) j + off)

/-- Byte of tensor `j` in the phase area, by the physical copy. -/
def phaseSide (b : Bake) (j : Nat) (second : Bool) (off : Nat) : Side :=
  .area ((b.place.map (·.phaseArea)).getD 0)
    (areaOff b homePad (fun t => if isState t then 2 else 1) j + (if second then tnSize (tensorRow b j) else 0) + off)

/-- Phase of an instance. -/
def instPhase (b : Bake) (i : Nat) : Nat := ((instPlace b i).map (·.2.1)).getD 1

/-- Byte of a tensor in its committed or next view: on its core while its owner's phase is there, else in the phase
area. -/
def tensorSide (b : Bake) (j : Nat) (next : Bool) (off : Nat) : Side :=
  let t := tensorRow b j
  match tnHome t with
  | 0 =>
    if phasesOf b ≤ 1 ∨ instPhase b (tnOwner t) = b.phase then .pad (instCore b (tnOwner t)) (viewBase b j next + off)
    else phaseSide b j (isState t && (next != b.swapped)) off
  | 1 => .tens j next off
  | _ => .host (ioAddr b j + off)

/-- Read one word for a copy between these places. -/
def copyRead (s : State) (b : Nat) (x : Side) : (U64 × Bool) × State :=
  match x with
  | .pad c a => let q := (s.core c).readWord 5 (a / 8); (q.1, s.modCore c fun _ => q.2.1)
  | .tens j v o => stackRead s (tensorAddr (s.bake b) j v o) []
  | .area o n => stackRead s (areaAddr (s.bake b) o n) []
  | .host _ => ((0, true), s)

def copyWrite (s : State) (b : Nat) (x : Side) (w : U64 × Bool) : State :=
  match x with
  | .pad c a => s.modCore c fun k => k.writeWord 5 (a / 8) w.1 w.2
  | .tens j v o => stackWrite s (tensorAddr (s.bake b) j v o) w
  | .area o n => stackWrite s (areaAddr (s.bake b) o n) w
  | .host _ => s

/-- Copy `n` bytes between two places of bake `b`. -/
def copyBytes (s : State) (b n : Nat) (src dst : Nat → Side) : State :=
  (List.range (n / 8)).foldl (fun t i => let r := copyRead t b (src (8 * i)); copyWrite r.2 b (dst (8 * i)) r.1) s

/-- Read `n` words for a copy: the words with their marks, and what the reads leave. -/
def readGo (b : Nat) (side : Nat → Side) (s : State) (n : Nat) : List (U64 × Bool) × State :=
  (List.range n).foldl (fun a i => let r := copyRead a.2 b (side i); (a.1 ++ [r.1], r.2)) ([], s)

/-- Words of a tensor's view with their marks. -/
def viewWords (s : State) (b j : Nat) (next : Bool) : List (U64 × Bool) × State :=
  readGo b (fun i => tensorSide (s.bake b) j next (8 * i)) s (tnSize (tensorRow (s.bake b) j) / 8)

/-- Request the DMA that moves a whole tensor as one row (R299). -/
def requestWhole (s : State) (use : DmaUse) (b n : Nat) (src dst : Side) : State := requestDma s use b [src] [dst] n

end Sys2Proof.Machine
end

