-- ==== Sys2Proof/Machine/LinkBase.lean ====
section
/-! DEFINITION. Routes, channels and outgoing frames of the Stedan links that other units use too (R332, R338 to R341,
R343, R345). -/

namespace Sys2Proof.Machine

/-- Device ID (0x4100.01), 0xFFFF unassigned. -/
def deviceId (s : State) : Nat := setting s 0x4100 1

/-- Bytes of a writable domain of the dictionary; empty before any write. -/
def domainOf (s : State) (index sub : Nat) : List Byte := mget [] s.ctl.dict.domain (dkey index sub)

/-- Routing-table entry of a device; 0xFF00, no route and no alternate, before any write (R339). -/
def routeEntry (s : State) (dev : Nat) : U16 :=
  let d := domainOf s 0x4110 1
  if d.isEmpty then 0xFF00 else BitVec.ofNat 16 (ofLe (slice d (2 * dev) 2))

def portUp (s : State) (p : Nat) : Bool := decide (p < 12) && decide ((s.port p).state = 2)

/-- A port holds an unacknowledged frame for a destination, or one due to go (R341). -/
def holdsFor (s : State) (p dev : Nat) : Bool := ((s.port p).replay ++ (s.port p).out).any fun f => decide (f.dst = dev)

/-- Port for a destination: the one that still holds frames for it, else its primary, else its alternate; none where
that port is not up, so that frames wait and keep their order (R341 to R343). -/
def portFor (s : State) (dev : Nat) : Option Nat :=
  let e := routeEntry s dev
  let p := fld e 15 12
  let a := fld e 11 8
  let up (q : Nat) : Option Nat := if portUp s q then some q else none
  if a < 12 ∧ holdsFor s a dev = true then up a
  else if p < 12 ∧ holdsFor s p dev = true then up p
  else (up p).or (up a)

/-! ### Channels (R345) -/

/-- State a send channel shows: active without an up route reads 0x3. -/
def chanState (s : State) (e : W256) : Nat :=
  if ceDir e = 1 ∧ ceSt e = 1 ∧ (portFor s (cePeer e)).isNone then 3 else ceSt e

/-- The send channel of a stream of a bake, if one is set up. -/
def sendChannel (s : State) (slot ent : Nat) : Option Nat :=
  (s.links.chans.find? fun e => decide (ceDir e.2.ent = 1) && decide (ceBake e.2.ent = slot) && decide (ceEnt e.2.ent = ent)).map (·.1)

/-- A SEND on the stream may go: its channel is active and has a route (R343, R345, R350). -/
def channelReady (s : State) (slot ent : Nat) : Bool :=
  match sendChannel s slot ent with
  | none => false
  | some n => decide (chanState s (s.channel n).ent = 1)

/-- Pause a bake that cannot send, and report it (R260, R343, R345; severity as in log entry 64). -/
def pauseNoRoute (s : State) (slot : Nat) : State :=
  if (s.bake slot).state = 3 then
    raiseS (s.modBake slot fun b => { b with state := 7, noRoute := true, reason := 8 }) 0x3410 slot 1 8
  else s

/-- A bake paused only for want of a route returns to running (R343). -/
def resumeRouted (s : State) (slot : Nat) : State :=
  s.modBake slot fun b => if b.state = 7 ∧ b.noRoute = true ∧ s.flue.cutOff = false then { b with state := 3, noRoute := false } else b

/-- Bakes paused for want of a route whose link streams all have active channels with a route again. -/
def resumeAllRouted (s : State) : State :=
  (List.range 64).foldl
    (fun t i =>
      let b := t.bake (i + 1)
      let lnk := (b.pkg.streams.zipIdx.filter fun e => smLnk e.1).map (·.2)
      if b.state = 7 ∧ b.noRoute = true ∧ lnk.all (channelReady t (i + 1)) then resumeRouted t (i + 1) else t) s

/-! ### Outgoing frames -/

/-- Header of a frame (R327). -/
def frameHeader (f : Frame) : Nat :=
  (f.ftype % 16) * 2 ^ 252 + (f.cls % 4) * 2 ^ 250 + f.seq.toNat * 2 ^ 238 + f.ack.toNat * 2 ^ 226 + (if f.av then 2 ^ 225 else 0) +
    (if f.nak then 2 ^ 224 else 0) + (f.crd0 % 4096) * 2 ^ 212 + (f.crd1 % 64) * 2 ^ 206 + (f.crd2 % 64) * 2 ^ 200 +
    (f.dst % 32768) * 2 ^ 185 + (f.src % 32768) * 2 ^ 170 + (f.chan % 4096) * 2 ^ 158 + f.xseq.toNat * 2 ^ 148 +
    (f.hops % 64) * 2 ^ 142 + (f.nblk % 8) * 2 ^ 139 + (f.boff % 65536) * 2 ^ 123 + f.itag.toNat * 2 ^ 107 + f.pmask.toNat

/-- One bit of a CRC-32C register, reflected, and `n` of them. -/
def crc32Bits : Nat → Nat → Nat
  | 0, r => r
  | n + 1, r => crc32Bits n (if r % 2 = 1 then r / 2 ^^^ 0x82F63B78 else r / 2)

/-- CRC-32C over the header and the payload, as bytes in ascending order (R326; PRESUMED, log entry 148). -/
def frameCrc (f : Frame) : U32 :=
  let l := leBytes 32 (frameHeader f) ++ wordsBytes f.data
  BitVec.ofNat 32 (l.foldl (fun r b => crc32Bits 8 (r ^^^ b.toNat)) 0xFFFFFFFF ^^^ 0xFFFFFFFF)

/-- The frame passes its CRC. -/
def crcGood (f : Frame) : Bool := decide (f.crc = frameCrc f)

/-- A frame with the CRC of its contents. -/
def sealFrame (f : Frame) : Frame := { f with crc := frameCrc f }

/-- A frame of this device with every link-level field zero. -/
def newFrame (s : State) (ftype cls dst : Nat) (data : List U64) : Frame :=
  { ftype := ftype, cls := cls, seq := 0, ack := 0, av := false, nak := false, crd0 := 0, crd1 := 0, crd2 := 0, dst := dst,
    src := deviceId s, chan := 0, xseq := 0, hops := setting s 0x4111 1, nblk := (data.length + 15) / 16, boff := 0,
    itag := 0, pmask := 0, data := padTo 0 (16 * ((data.length + 15) / 16)) data, crc := 0 }

/-- Queue a frame on a port, behind what is already due there. -/
def queueOut (s : State) (p : Nat) (f : Frame) : State := s.modPort p fun q => { q with out := q.out ++ [f] }

/-- Queue a frame towards its destination; without an up port it waits, counted at 0x4112.03 (R343). -/
def sendFrame (s : State) (f : Frame) : State :=
  match portFor s f.dst with
  | some p => queueOut s p f
  | none => { s with links := { s.links with waiting := s.links.waiting ++ [f], noRoute := s.links.noRoute + 1 } }

end Sys2Proof.Machine
end

