-- ==== Sys2Proof/Machine/Moves.lean ====
section
/-! DEFINITION. The memory engine and the transfer unit (R151, R177 to R187, R210): FILL, COPY, SEND and PUT, and what a
target's router island does with PUT words, crumbs, probes and answers. -/

namespace Sys2Proof.Machine

/-! ### FILL and COPY (R177, R178) -/

def mvSrc (k : Core) (w : W256) : W256 := k.recipe.desc (mvDs w)
def mvDst (k : Core) (w : W256) : W256 := k.recipe.desc (mvDd w)

/-- A word of a FILL: `val` in both halves. -/
def fillWord (v : U32) : U64 := BitVec.ofNat 64 (v.toNat + 2 ^ 32 * v.toNat)

/-- Words of one row of a transfer. -/
def moveRow (k : Core) (d : W256) (vars : List Nat) (w : W256) (r : Nat) : List Nat :=
  wordRange (rowAddr k.bind d vars r) (mvRbytes w / 8)

/-- FILL's writes in row `r` (R177). -/
def fillRow (k : Core) (w : W256) (vars : List Nat) (r : Nat) : List (Nat × U64 × Bool) :=
  (moveRow k (mvSrc k w) vars w r).map fun a => (a, fillWord (mvVal w), false)

/-- COPY's writes in row `r` from the words read for it (R178). -/
def copyRow (k : Core) (w : W256) (vars : List Nat) (r : Nat) (l : List (U64 × Bool)) : List (Nat × U64 × Bool) :=
  (moveRow k (mvDst k w) vars w r).zip l

/-- FILL (R177). -/
def execFill (c : CoreId) (s : State) : Out :=
  onCore s c (atHead s c (isOp opFill) (s.modCore c fun k => issueFlight k false))

/-- COPY (R178). -/
def execCopy (c : CoreId) (s : State) : Out :=
  onCore s c (atHead s c (isOp opCopy) (s.modCore c fun k => issueFlight k false))

/-! ### SEND (R209, R210, R212) -/

/-- Package index of the link stream that an instance sends with a send-stream number; none for an on-die stream. -/
def linkStream (b : Bake) (inst sendNo : Nat) : Option Nat :=
  (b.pkg.streams.zipIdx.find? fun e =>
    smLnk e.1 && decide (smSnd e.1 = inst) && decide ((streamPlace b e.2).sendNo = sendNo)).map (·.2)

/-- Send stream a SEND step of a core names. -/
def sendBind (k : Core) (w : W256) : StreamBind := mget ⟨0, none, 0, 0⟩ k.bind.streams (mvTgt w)

/-- Words of a SEND or PUT, in row order (R180, R210). -/
def moveWords (k : Core) (w : W256) (vars : List Nat) : List Nat := rowWords k.bind (mvSrc k w) vars (mvRows w) (mvRbytes w)

/-- Flit `p` of a SEND instance of `n` flits, from the words read for it; the transfers of a stream are numbered as their SENDs
finish, one after another (R136, R212). -/
def sendFlit (k : Core) (i : StepInst) (p n : Nat) (l : List (U64 × Bool)) : Flit :=
  let b := sendBind k (k.recipe.step i.step)
  sealFlit
    { v := true, kind := 0, first := decide (p = 0), last := decide (p + 1 = n),
      pmask := BitVec.ofNat 16 ((l.zipIdx).foldl (fun m w => if w.1.2 then m + 2 ^ w.2 else m) 0),
      strm := BitVec.ofNat 8 b.recvNo, seq := mget 0 k.island.sendSeq b.sendNo, epl := BitVec.ofNat 8 (k.island.epoch.toNat % 256),
      crc := 0, data := padTo 0 16 (l.map (·.1)) }

/-- SEND issues: it takes a place in the transfer unit's queue, whose flits are read in the bank cycles. -/
def doSend (s : State) (c : CoreId) : State := s.modCore c fun k => issueFlight k false

/-- Package index of the stream a symbol of an instance is bound to. -/
def streamOf (b : Bake) (inst sym : Nat) : Option Nat :=
  ((bindings b inst 2).find? fun w => decide (bnSym w = sym)).map bnObj

/-- The stream's receiver runs in a later phase. -/
def crossesPhase (b : Bake) (ent : Nat) : Bool :=
  let r := nth 0 b.pkg.streams ent
  !smLnk r && decide (b.phase < instPhase b (smRcv r))

/-- SEND to a later phase: the transfer goes to its place of the receiving tensor through the memory stacks (R266). -/
def carrySend (s : State) (c : CoreId) (slot ent : Nat) : State :=
  let k := s.core c
  let w := headStep k
  let b := s.bake slot
  let r := nth 0 b.pkg.streams ent
  let n := mget 0 b.carried ent
  let q := k.readWords 0 (moveWords k w k.seq.vars)
  let base := n % max 1 (smDepth r) * smXsize r
  let t := q.1.zipIdx.foldl (fun t e => copyWrite t slot (tensorSide b (smRtens r) true (base + 8 * e.2)) e.1)
    (s.modCore c fun _ => issueFlight q.2.1 true)
  reportReads (t.modBake slot fun x => { x with carried := mset 0 x.carried ent (n + 1) }) c (nextOrder k) q.2.2

/-- SEND: a link stream without an active channel holds the step and pauses the bake (R343, R345). -/
def sendOrHold (s : State) (c : CoreId) : State :=
  let k := s.core c
  let b := sendBind k (headStep k)
  let slot := bakeOf k
  match linkStream (s.bake slot) ((k.inst.map (·.2)).getD 0) b.sendNo with
  | none =>
    match streamOf (s.bake slot) ((k.inst.map (·.2)).getD 0) (mvTgt (headStep k)) with
    | some ent => if crossesPhase (s.bake slot) ent then carrySend s c slot ent else doSend s c
    | none => doSend s c
  | some ent => if channelReady s slot ent then doSend (resumeRouted s slot) c else pauseNoRoute s slot

def execSend (c : CoreId) (s : State) : Out := onCore s c (atHead s c (isOp opSend) (sendOrHold s c))

/-! ### PUT (R180, R183, R225) -/

/-- Target core, base address, sync object and fence count of a PUT step. -/
def putTarget (k : Core) (w : W256) : CoreId := mget 0 k.bind.peers (mvTgt w)
def putBase (k : Core) (w : W256) : Nat := (mget ⟨0, 0, 0⟩ k.bind.tens (mvTsym w)).base + (mvVal w).toNat
def putObj (k : Core) (w : W256) : Nat := symObj k (mvFsym w)

/-- Flit `p` of a PUT instance of `n` flits, up to 12 words each, from the words read for it; its fence count is that of its
issue (R180, R183, R225). -/
def putFlit (s : State) (c : CoreId) (k : Core) (i : StepInst) (p n : Nat) (l : List (U64 × Bool)) : Draught :=
  let w := k.recipe.step i.step
  { mtype := 1, dst := (siteOf s (putTarget k w)).getD 0, src := (siteOf s c).getD 0, tnt := k.island.tenant, rot := 0,
    epoch := k.island.epoch, fcount := i.fcount, step := i.step, att := k.seq.attempt, lst := decide (p + 1 = n),
    loops := padTo 0 4 i.loops, taddr := putBase k w + 96 * p, sobj := BitVec.ofNat 16 (putObj k w), data := l, crumb := none }

/-- PUT issues with the fence count in force, and leaves its entry for the FENCE that will cover it. -/
def doPut (s : State) (c : CoreId) : State :=
  s.modCore c fun k =>
    let w := headStep k
    let obj := putObj k w
    let count := mget 0 k.sync.counts obj
    let e := (obj, count, putTarget k w)
    let q := (issueFlight k false).modSync fun y => if y.puts.contains e then y else { y with puts := y.puts ++ [e] }
    q.modSeq fun q => { q with flight := q.flight.map fun i => if i.order = q.order then { i with fcount := count } else i }

def execPut (c : CoreId) (s : State) : Out := onCore s c (atHead s c (isOp opPut) (doPut s c))

/-! ### The target of a PUT (R181, R185, R186, R226) -/

/-- The whole word lies inside one of the windows. -/
def inWindow (w : List (Nat × Nat)) (addr : Nat) : Bool :=
  w.any fun e => decide (e.1 ≤ addr) && decide (addr + 8 ≤ e.1 + e.2)

/-- Draught flit back to the initiator of `d`. -/
def replyTo (s : State) (c : CoreId) (d : Draught) (mtype : Nat) (r : Option Crumb) : Draught :=
  { d with
    mtype := mtype, dst := d.src, src := (siteOf s c).getD 0, tnt := (s.core c).island.tenant, lst := false, taddr := 0,
    data := [], crumb := r }

/-- The crumb and the PUT flit belong to one PUT step instance. -/
def sameInstance (d : Draught) (i : CoreId) (r : Crumb) : Bool :=
  decide (r.init = i) && decide (r.epoch = d.epoch) && decide (r.step = d.step) && decide (r.att = d.att) &&
    decide (r.loops = d.loops)

/-- Count one failed word of a PUT instance: it opens the instance's crumb, or adds to its word count (R185). -/
def openCrumb (l : List Crumb) (d : Draught) (i t : CoreId) (reason : Nat) (addr : Nat) : List Crumb :=
  if l.any (sameInstance d i) then
    l.map fun r => if sameInstance d i r then { r with nwords := min 0xFFFF (r.nwords + 1) } else r
  else
    l ++ [⟨d.epoch, d.fcount, d.sobj, BitVec.ofNat 4 reason, d.att, i, t, d.step, d.loops, addr, 1⟩]

/-- Initiating core of a draught flit. -/
def srcCore (s : State) (d : Draught) : CoreId := (coreAt s d.src).getD 0

/-- Check one word of a PUT flit, and have it written through class 0x0 (R181, R226). -/
def putWord (s : State) (c : CoreId) (d : Draught) (k : Core) (n : Nat) (w : U64 × Bool) : Core :=
  let addr := d.taddr + 8 * n
  let failWith (r : Nat) : Core := k.modSync fun y => { y with opened := openCrumb y.opened d (srcCore s d) c r addr }
  if d.tnt ≠ k.island.tenant then failWith 2
  else if d.epoch ≠ k.island.epoch then k.modLive fun l => { l with staleWords := l.staleWords + 1 }
  else if k.power ≠ .on ∨ k.inst = none then failWith 2
  else if !inWindow k.island.windows addr then failWith 1
  else k.modPad fun p => p.askIngress [(addr / 8, w.1, w.2)] none

/-- Words of one PUT flit in order. -/
def putWords (s : State) (c : CoreId) (d : Draught) (k : Core) : Core :=
  d.data.zipIdx.foldl (fun k e => putWord s c d k e.2 e.1) k

/-- Send the open crumbs an initiator is owed (R185). -/
def sendCrumbs (s : State) (c : CoreId) (pick : Crumb → Bool) (d : Draught) : State :=
  let l := (s.core c).sync.opened.filter pick
  s.modCore c fun k =>
    let k := k.modSync fun y => { y with opened := y.opened.filter fun r => !pick r }
    let k := k.modLive fun v => { v with crumbsSent := v.crumbsSent + BitVec.ofNat 32 l.length }
    k.modIsland fun r => { r with outbox := r.outbox ++ l.map fun x => (0, replyTo s c d 4 (some x)) }

/-- Take the flit at the head of the draught share when it has the wanted type. -/
def headDraught (s : State) (c : CoreId) (mtype : Nat) : Option Draught :=
  match (s.core c).island.inDraught with
  | d :: _ => if d.mtype = mtype then some d else none
  | [] => none

def dropDraught (s : State) (c : CoreId) : State :=
  s.modCore c fun k => k.modIsland fun r => { r with inDraught := r.inDraught.drop 1 }

/-- The ingress buffer gives up its next flit: the hearth is not frozen, and no word of an earlier flit waits (R182, R214,
R216). -/
def hearthWrites (s : State) (c : CoreId) : Bool := !(s.hearth (hearthOf s c)).frozen && !(s.core c).pad.ingressBusy

/-- PUT_WORD_ARRIVAL: the words of the PUT flit at the head of the ingress buffer are checked and written; with the
instance's last flit its crumb travels (R181, R185). -/
def execPutWordArrival (c : CoreId) (s : State) : Out :=
  onCore s c
    (match headDraught s c 1 with
    | none => s
    | some d =>
      if !hearthWrites s c then s
      else
        let t := (dropDraught s c).modCore c fun k => putWords s c d k
        if d.lst then sendCrumbs t c (sameInstance d (srcCore s d)) d else t)

/-- FENCE_PROBE: any crumbs for earlier words of the initiator, then the answer; a probe of another tenant is answered
with crumb reason 0x2 first (R184, R185, R226). -/
def execFenceProbe (c : CoreId) (s : State) : Out :=
  onCore s c
    (match headDraught s c 2 with
    | none => s
    | some d =>
      if !hearthWrites s c then s
      else
      let t := dropDraught s c
      let i := srcCore s d
      let t := if d.tnt ≠ (t.core c).island.tenant then
          t.modCore c fun k => k.modSync fun y => { y with opened := openCrumb y.opened d i c 2 0 }
        else t
      let t := sendCrumbs t c (fun r => decide (r.init = i)) d
      t.modCore c fun k => k.modIsland fun r => { r with outbox := r.outbox ++ [(0, replyTo s c d 3 none)] })

/-- PROBE_ANSWER: one target of a FENCE has answered (R184). -/
def execProbeAnswer (c : CoreId) (s : State) : Out :=
  onCore s c
    (match headDraught s c 3 with
    | none => s
    | some d =>
      let from_ := srcCore s d
      (dropDraught s c).modCore c fun k =>
        if d.epoch ≠ k.island.epoch then k
        else k.modSync fun y =>
          { y with fence := y.fence.map fun f =>
              if f.sobj = d.sobj.toNat ∧ f.count = d.fcount then { f with waiting := f.waiting.filter fun x => decide (x ≠ from_) }
              else f })

/-- What an initiator does with a crumb: counted and reported; held while its epoch and attempt are current and fewer
than 16 are held (R187, R259). -/
def takeCrumb (s : State) (c : CoreId) (r : Crumb) : State :=
  let t := s.modCore c fun k =>
    let k := k.modLive fun l => { l with crumbsRecv := l.crumbsRecv + 1 }
    if r.epoch ≠ k.island.epoch ∨ r.att ≠ k.seq.attempt then k.modLive fun l => { l with crumbsOld := l.crumbsOld + 1 }
    else if k.sync.held.length < 16 then k.modSync fun y => { y with held := y.held ++ [r] }
    else k.modLive fun l => { l with crumbsLost := l.crumbsLost + 1 }
  raise t 0x3250 (BitVec.ofNat 8 (c + 1)) 2 (BitVec.ofNat 8 (0x20 + hearthOf s c)) (BitVec.ofNat 64 r.taddr)

/-- CRUMB: the initiator takes the crumb at the head of its ingress buffer (R187). -/
def execCrumb (c : CoreId) (s : State) : Out :=
  onCore s c
    (match headDraught s c 4 with
    | none => s
    | some d =>
      match d.crumb with
      | none => dropDraught s c
      | some r => takeCrumb (dropDraught s c) c r)

end Sys2Proof.Machine
end

