-- ==== Sys2Proof/Machine/FlueOps.lean ====
section
/-! DEFINITION. One Flue cycle (R193 to R230): links and latencies, scheduled flits, injection slots, CRC errors, the draught
rotations and the router islands' queues. -/

namespace Sys2Proof.Machine

/-- Remove one element from a list, the first that equals it. -/
def eraseFirst {α : Type} [DecidableEq α] (x : α) : List α → List α
  | [] => []
  | y :: t => if y = x then t else y :: eraseFirst x t

/-! ### Links and latencies (R15, R22, R193, R195, R219) -/

/-- Flue cycles a seam adds to a link. -/
def seamCycles (p : Site) (d : Dir) : Nat :=
  match seamOf p d with
  | some true => 2
  | some false => 1
  | none => 0

/-- Follow a link over the bypass stages of spared sites, each of which is one more link and one more cycle (R22, R219). -/
def linkGo (s : State) (d : Dir) : Nat → Site → Nat → Option (Site × Nat)
  | 0, _, _ => none
  | f + 1, p, x =>
    match nextSite p d with
    | none => none
    | some q =>
      let y := x + seamCycles p d
      if hasRouter s q then some (q, y)
      else if (d = .n ∨ d = .s) ∧ coreAt s q = none ∧ hearthLive s (hearthOfSite q) = true then linkGo s d f q (y + 2)
      else none

/-- Router at the far end of a port's link, and the cycles the way there adds to the link's own. -/
def linkTo (s : State) (p : Site) (d : Dir) : Option (Site × Nat) := linkGo s d 16 p 0

/-- Seam that the way behind a port's link crosses, bypass stages passed on the way included (R18, R22). -/
def waySeam (s : State) (d : Dir) : Nat → Site → Option Bool
  | 0, _ => none
  | f + 1, p =>
    (seamOf p d).or (match nextSite p d with
      | none => none
      | some q => if hasRouter s q then none else waySeam s d f q)

/-- A flit that leaves a router by an output in cycle `c + extra`; an output to the I/O ring delivers to the bridge
behind it, and a ring port without one carries no stream (R195, R219). -/
def sendOut (s : State) (p : Site) (out : Dir) (extra : Nat) (f : Flit) : List Moving :=
  let c := s.flue.cycle + extra
  match out with
  | .loc => [⟨f, p, .loc, c + 2⟩]
  | _ =>
    match ringPort p out with
    | some m => if (bridgeOf m).isSome then [⟨f, 256 + m, .loc, c + 3⟩] else []
    | none =>
      match linkTo s p out with
      | some (q, x) => [⟨f, q, opposite out, c + 1 + x⟩]
      | none => []

def addMoving (s : State) (l : List Moving) : State := { s with flue := { s.flue with moving := s.flue.moving ++ l } }

/-! ### Entries in force (R201, R202, R207) -/

/-- A draught position of every schedule. -/
def draughtCycle (c : Nat) : Bool := decide (c % 16 = 0) || decide (c % 64 = 8)

/-- The router waits for its table to be rewritten: from c_sw on it treats every position as idle (R207). -/
def rewriting (s : State) (p : Site) : Bool :=
  match (s.router p).staged with
  | none => false
  | some n => !(s.router p).rewrite.isEmpty && decide (n.c0 ≤ s.flue.cycle)

/-- Index in the period in force at a router, from the schedule's start cycle on. -/
def slotIndex (s : State) (p : Site) : Option Nat :=
  let h := (s.router p).sched
  let c := s.flue.cycle
  if h.period = 0 ∨ c < h.c0 ∨ rewriting s p = true then none else some ((c - h.c0) % h.period)

def entryOf (s : State) (p : Site) (i : Nat) : U32 :=
  mget idleEntry (s.router p).table ((s.router p).sched.base + i)

/-- Entry that moves scheduled traffic in this cycle: none at a draught position, in a draught entry, or with no schedule. -/
def entryNow (s : State) (p : Site) : Option U32 :=
  match slotIndex s p with
  | none => none
  | some i => if draughtCycle s.flue.cycle || teKind (entryOf s p i) != 0 then none else some (entryOf s p i)

/-- Longest scheduled route of the bake whose epoch a schedule carries, at most 63 (R207). -/
def longestOf (s : State) (epoch : U32) : Nat :=
  min 63 (((s.baker.slots.find? fun e => decide (e.2.epoch = epoch)).map (·.2.longest)).getD 0)

/-- From c_sw − L_max on, the old schedule injects bubbles only; one whose phase or bake has ended does so at once (R207). -/
def switching (s : State) (p : Site) : Bool :=
  match (s.router p).staged with
  | none => false
  | some n => (s.router p).hold || decide (n.c0 ≤ s.flue.cycle + longestOf s (s.router p).sched.epoch)

/-- The router changes to its staged schedule; the island takes the tenant and epoch that come with it (R207, R229). Where the
table had to be rewritten, the schedule starts at the first multiple of 64 after the rewrite. -/
def switchSchedule (s : State) (p : Site) : State :=
  match (s.router p).staged with
  | none => s
  | some h =>
    let l := (s.router p).rewrite
    let h := if l.isEmpty then h else { h with c0 := (s.flue.cycle / 64 + 1) * 64 }
    let t := s.modRouter p fun r =>
      { r with sched := h, staged := none, rewrite := [], hold := false, table := l.foldl (fun m e => mset idleEntry m e.1 e.2) r.table }
    match coreAt t p with
    | some c => t.modCore c fun k => k.modIsland fun r => { r with tenant := h.tenant, epoch := h.epoch }
    | none => t

/-- Routers that still wait for the switch of the same commit (R207). -/
def awaitsSwitch (s : State) (h : Schedule) : Bool :=
  s.flue.routers.any fun e => match e.2.staged with
    | some g => decide (g.c0 = h.c0) && decide (g.tenant = h.tenant)
    | none => false

/-- Commit set 0x01 is applied once its last router has switched: its generation goes up (R374, R375). -/
def countSwitch (s : State) (h : Schedule) : State :=
  if awaitsSwitch s h then s else s.modDict fun d => { d with gens := mmod 0 d.gens 1 (· + 1) }

/-- A router's switch with the count of its commit set. -/
def takeSwitch (s : State) (p : Site) : State :=
  match (s.router p).staged with
  | none => s
  | some h => countSwitch (switchSchedule s p) h

/-- Every switch whose cycle has come, but for tables still to be rewritten (R207). -/
def applySwitches (s : State) : State :=
  ((s.flue.routers.filter fun e => match e.2.staged with
    | some h => decide (h.c0 ≤ s.flue.cycle) && e.2.rewrite.isEmpty
    | none => false).map (·.1)).foldl takeSwitch s

/-- A port the boundary mask marks: bits 0 to 3 for N, S, E and W, bit 4 for the ring port (R229). -/
def marked (mask : BitVec 5) (p : Site) (d : Dir) : Bool :=
  bitAt mask (dirCode d) || ((ringPort p d).isSome && bitAt mask 4)

/-- Count at one of the places of 0x3330.s of the router island at a site. -/
def countIsland (s : State) (p : Site) (place : Nat) : State :=
  match coreAt s p with
  | some c => s.modCore c fun k => k.modLive fun l => l.flueInc place
  | none => s

/-- An event of the router island at a site. -/
def raiseIsland (s : State) (p : Site) (index sev arg : Nat) : State :=
  raise s (BitVec.ofNat 16 index) (BitVec.ofNat 8 (((coreAt s p).map (· + 1)).getD 0)) (BitVec.ofNat 8 sev)
    (BitVec.ofNat 8 (0x20 + hearthOfSite p)) (BitVec.ofNat 64 arg)

/-! ### CRC errors (R199) -/

/-- Key of the link direction that ends at input `d` of a router. -/
def dirInto (s : State) (p : Site) (d : Dir) : Nat :=
  match ringPort p d with
  | some m => 1280 + m
  | none =>
    match linkTo s p d with
    | some (q, _) => 5 * q + dirCode (opposite d)
    | none => 5 * p + dirCode d

/-- A table entry of the router at a site sends scheduled traffic in a link direction, or takes it from a ring port's. -/
def entryUses (p : Site) (key : Nat) (w : U32) : Bool :=
  decide (teKind w = 0) &&
    ((dirs4.any fun d => decide (key = 5 * p + dirCode d) && decide (teSrc w d ≤ 4)) ||
      (decide (1280 ≤ key) && decide ((portSite (key - 1280)).1 = p) &&
        [Dir.n, .s, .e, .w, .loc].any fun o => decide (srcDir (teSrc w o) = some (portSite (key - 1280)).2)))

/-- The schedule of a bake uses a link direction. -/
def usesDirection (b : Bake) (key : Nat) : Bool :=
  ((b.place.map (·.tables)).getD []).any fun e => e.2.any (entryUses e.1 key)

def triggerAll (s : State) (row : Nat) (pick : Bake → Bool) : State :=
  (s.baker.slots.filter fun e => e.2.place.isSome && pick e.2).foldl (fun t e => trigger t e.1 row) s

/-- Declare a link direction lost: event, the counts of R18, re-placement of the bakes that use it, a draught compile. -/
def loseDirection (s : State) (p : Site) (d : Dir) : State :=
  let key := dirInto s p d
  if s.flue.lostDirs.contains key then s
  else
    let t := { s with flue := { s.flue with lostDirs := s.flue.lostDirs ++ [key], compiling := true } }
    let t := raiseIsland t p 0x3320 3 key
    let t := match waySeam s d 16 p with
      | some true => { t with map := { t.map with lintel := t.map.lintel + 1 } }
      | some false => { t with map := { t.map with stitch := t.map.stitch + 1 } }
      | none => t
    triggerAll t 4 fun b => usesDirection b key

/-- A flit has failed its CRC at an input: counted, and a direction that reaches the threshold in the window is lost. -/
def crcError (s : State) (p : Site) (d : Dir) : State :=
  let place := if (ringPort p d).isSome then 4 else dirCode d
  let t := match coreAt s p with
    | some c => s.modCore c fun k => k.modLive fun l => { l with crc := mmod 0 l.crc place (· + 1) }
    | none => s
  let key := 5 * p + dirCode d
  let win := setting t 0x3321 2 * 1600
  let l := t.flue.cycle :: (mget [] t.flue.crcWin key).filter fun x => decide (t.flue.cycle < x + win)
  let t := { t with flue := { t.flue with crcWin := mset [] t.flue.crcWin key l } }
  if setting t 0x3321 1 ≤ l.length then loseDirection t p d else t

/-! ### Scheduled traffic (R205, R208, R229) -/

/-- One flit at a router input in this cycle. -/
def arriveFlit (bad : List (Site × Dir)) (s : State) (m : Moving) : State :=
  let p := m.site
  let failed := m.flit.v && (bad.contains (p, m.inp) || decide (m.flit.crc ≠ flitCrc m.flit))
  let f := if failed then sealFlit { m.flit with pmask := 0xFFFF } else m.flit
  if !hasRouter s p || !m.flit.v then s
  else
    let t := if failed then crcError s p m.inp else s
    if marked (t.router p).sched.mask p m.inp then countIsland t p 4
    else
      let outs := match entryNow t p with
        | none => []
        | some e => [Dir.n, .s, .e, .w, .loc].filter fun o => decide (srcDir (teSrc e o) = some m.inp)
      if outs.isEmpty then raiseIsland (countIsland t p 0) p 0x3330 0 0
      else addMoving t (outs.flatMap fun o => sendOut t p o 0 f)

/-- Proved latencies of a core's crossings: into the egress queue, out of the ingress buffer (R218). -/
def crossingOf (s : State) (c : CoreId) : Nat × Nat := ((siteOf s c).map fun p => mget (0, 0) s.map.crossing p).getD (0, 0)

/-- Flits whose crossing ends in this cycle: of the egress queue, and of the two shares of the ingress buffer (R218). -/
def endCrossings (s : State) : State :=
  let n := s.flue.cycle
  s.cores.foldl
    (fun t e =>
      let r := e.2.island
      if r.toEgress.isEmpty && r.newStream.isEmpty && r.newDraught.isEmpty then t
      else t.modCore e.1 fun k => k.modIsland fun r =>
        { r with
          egress := r.egress ++ (r.toEgress.filter fun x => decide (x.1 ≤ n)).map (·.2)
          toEgress := r.toEgress.filter fun x => decide (n < x.1)
          inStream := r.inStream ++ (r.newStream.filter fun x => decide (x.1 ≤ n)).map (·.2)
          newStream := r.newStream.filter fun x => decide (n < x.1)
          inDraught := r.inDraught ++ (r.newDraught.filter fun x => decide (x.1 ≤ n)).map (·.2)
          newDraught := r.newDraught.filter fun x => decide (n < x.1) }) s

/-- Every flit due at a router, at an island's ingress buffer or at a chiplet bridge in this cycle. -/
def arrivals (bad : List (Site × Dir)) (s : State) : State :=
  let c := s.flue.cycle
  let due (m : Moving) : Bool := decide (m.at_ = c)
  let l := s.flue.moving.filter due
  let s := { s with flue := { s.flue with moving := s.flue.moving.filter fun m => !due m } }
  l.foldl
    (fun t m =>
      if 256 ≤ m.site then { t with flue := { t.flue with bridge := t.flue.bridge ++ [(m.site - 256, m.flit)] } }
      else if m.inp = .loc then
        match coreAt t m.site with
        | some k => t.modCore k fun q => q.modIsland fun r =>
            { r with newStream := r.newStream ++ [(c + (crossingOf t k).2, m.flit)] }
        | none => t
      else arriveFlit bad t m) s

/-- Send stream `n` of core `c` is held by the stop mask: a hearth stop at either end (R215). -/
def stopHeld (s : State) (c : CoreId) (n : Nat) : Bool :=
  let t := mget 240 (s.core c).island.target n
  bitAt s.flue.mask (hearthOf s c) || (coreExists s t && bitAt s.flue.mask (hearthOf s t))

/-- The head flit of stream `n` in the egress queue: the queue leaves in order, but a stream that its own stop bit holds lets
the others pass (R209, R210, R217). -/
def injectable (r : Island) (n : Nat) : Option (Nat × Nat × Flit) :=
  match r.egress.find? fun e => decide (e.2.1 = n) || !mget false r.stop e.2.1 with
  | some e => if e.2.1 = n then some e else none
  | none => none

/-- The injection slot of one router, if its entry has one: the stream's head flit, or a bubble (R209, R215 to R217). -/
def injectSlot (s : State) (p : Site) : State :=
  match entryNow s p, coreAt s p with
  | some e, some c =>
    let outs := dirs4.filter fun o => decide (teSrc e o = 4)
    if outs.isEmpty || !hasRouter s p then s
    else
      let n := teStr e
      let held := stopHeld s c n
      let free := !held && !mget false (s.core c).island.stop n && !switching s p
      match (if free then injectable (s.core c).island n else none) with
      | some f =>
        let t := s.modCore c fun k => k.modIsland fun r => { r with egress := eraseFirst f r.egress }
        addMoving t (outs.flatMap fun o => sendOut t p o 1 f.2.2)
      | none =>
        s.modCore c fun k =>
          let k := k.modIsland fun r => { r with bubbles := mmod 0 r.bubbles n (· + 1) }
          if held then k.modLive fun l => l.flueInc 3 else k
  | _, _ => s

/-! ### Draught rotations (R221 to R224, R227) -/

/-- Number of entries of kind 0x2 below index `i` of a router's table. -/
def localBefore (s : State) (p : Site) (i : Nat) : Nat :=
  ((List.range i).filter fun j => decide (teKind (entryOf s p j) = 2)).length

/-- Turn number of a rotation in this cycle at a site, if this cycle is one of its positions: 0 base, 1 ring, 2 local. -/
def turnNow (s : State) (p : Site) (rot : Nat) : Option Nat :=
  let c := s.flue.cycle
  match rot with
  | 0 => if c % 16 = 0 then some (c / 16) else none
  | 1 => if c % 64 = 8 then some (c / 64) else none
  | 2 =>
    match slotIndex s p with
    | none => none
    | some i =>
      let h := (s.router p).sched
      if teKind (entryOf s p i) = 2 ∧ draughtCycle c = false then
        some ((c - h.c0) / h.period * localBefore s p h.period + localBefore s p i)
      else none
  | _ => none

/-- Sites of the rectangle a router belongs to. -/
def tenantSites (s : State) (p : Site) : List Site :=
  match rectOf s (s.router p).sched.tenant.toNat with
  | some r => rectSites s r
  | none => []

/-- Turns of a rotation. -/
def turnsOf (s : State) (p : Site) (rot : Nat) : Nat :=
  match rot with
  | 0 => 256
  | 1 => 64
  | _ => (tenantSites s p).length

def routeOf (s : State) (src dst : Nat) : Option (List Dir) :=
  (s.flue.routes.find? fun e => decide (e.1 = src) && decide (e.2.1 = dst)).map (·.2.2)

/-- Sites a path visits from a site on. -/
def pathSites (s : State) : List Dir → Site → List Site
  | [], p => [p]
  | d :: t, p =>
    match linkTo s p d with
    | some (q, _) => p :: pathSites s t q
    | none => [p]

/-- Rotation of a draught flit at its source: local where the bake has one and the route stays in the rectangle (R224). -/
def rotOf (s : State) (p : Site) (d : Draught) : Nat :=
  if (s.router p).sched.density = 0 ∨ 256 ≤ d.dst then 0
  else
    match routeOf s p d.dst with
    | none => 0
    | some path => if (pathSites s path p).all fun q => (tenantSites s p).contains q then 2 else 0

/-- Where a held flit goes next: key of its offset. -/
def hopKey (h : Held) : Nat :=
  if 256 ≤ h.site then 1280 + (h.site - 256)
  else match h.path with
    | d :: _ => 5 * h.site + dirCode d
    | [] => 5 * h.site + 4

/-- Site whose turn numbers a held flit goes by. -/
def heldSite (h : Held) : Site := if 256 ≤ h.site then (portSite (h.site - 256)).1 else h.site

/-- The slot of the held flit's next link has come: slot s + 1 + φ of its rotation (R222). -/
def hopDue (s : State) (h : Held) : Bool :=
  if 512 ≤ h.site then false
  else
    match turnNow s (heldSite h) h.d.rot.toNat with
    | none => false
    | some t =>
      let first := h.turn + 1 + nth 0xFFFF s.flue.offsets (hopKey h)
      decide (first ≤ t) && decide ((t - first) % max 1 (turnsOf s (heldSite h) h.d.rot.toNat) = 0)

/-- A draught flit whose CRC has failed: every payload word is marked (R199). -/
def Draught.poisoned (d : Draught) : Draught := { d with data := d.data.map fun w => (w.1, true) }

/-- A held flit enters a router by an input, its CRC checked. -/
def enterRouter (bad : List (Site × Dir)) (s : State) (h : Held) (q : Site) (inp : Dir) (path : List Dir) : State × List Held :=
  let failed := bad.contains (q, inp)
  let t := if failed then crcError s q inp else s
  (t, [{ h with d := if failed then h.d.poisoned else h.d, site := q, path := path, since := s.flue.cycle }])

/-- Agent of 0x3310.06 that a master ID names: Stoker W, Baker W0–W2, host bridge, Stoker E, Baker E0–E2 (R196, R360). -/
def agentOf (id : Nat) : Option Nat :=
  if id = 0x00 then some 4 else if id = 0x08 then some 0 else if id = 0x09 then some 5
  else if 0x10 ≤ id ∧ id ≤ 0x12 then some (id - 0x0F) else if 0x13 ≤ id ∧ id ≤ 0x15 then some (id - 0x0D) else none

/-- Destination master of the firmware message a draught flit carries: the top byte of its 16-byte header (R380). -/
def messageDst (d : Draught) : Nat := fld (nth (0, false) d.data 1).1 63 56

/-- The agent switch delivers a firmware message; a flit that failed its CRC is sent again by its sender (R196, R199, R381). -/
def deliverRing (s : State) (d : Draught) : State :=
  match agentOf (messageDst d) with
  | some a =>
    if d.mtype = 5 ∧ d.data.all (fun w => !w.2) = true then { s with flue := { s.flue with ring := s.flue.ring ++ [(a, d)] } } else s
  | none => s

/-- Move one held flit over its next link; the path's end is the local output or a ring port. A lost direction loses it (R228). -/
def hop (bad : List (Site × Dir)) (s : State) (h : Held) : State × List Held :=
  if s.flue.lostDirs.contains (hopKey h) then (s, [])
  else if 256 ≤ h.site then
    let q := portSite (h.site - 256)
    if hasRouter s q.1 then enterRouter bad s h q.1 q.2 h.path else (s, [])
  else
    match h.path with
    | [] => (s, [{ h with site := 512 + h.site, since := s.flue.cycle }])
    | d :: t =>
      match ringPort h.site d with
      | some _ => (deliverRing s h.d, [])
      | none =>
        match linkTo s h.site d with
        | some (q, _) => enterRouter bad s h q (opposite d) t
        | none => (s, [])

/-- Every held flit whose slot has come moves; the others wait. -/
def hops (bad : List (Site × Dir)) (s : State) : State :=
  let r := s.flue.held.foldl
    (fun a h => if hopDue a.1 h then let q := hop bad a.1 h; (q.1, a.2 ++ q.2) else (a.1, a.2 ++ [h])) (s, [])
  { r.1 with flue := { r.1.flue with held := r.2 } }

/-- Change the last element that a test picks. -/
def changeLast {α : Type} (pick : α → Bool) (f : α → α) : List α → List α
  | [] => []
  | x :: t => if pick x && !t.any pick then f x :: t else x :: changeLast pick f t

/-- A draught flit reaches its ingress buffer. A PUT that finds the draught share of 60 flits full has its words failed
with crumb reason 0x3 after the checks that come before (R181, R214, R216, R226); where it was the instance's last flit, the last
one still in the buffer ends the instance in its place (R185). -/
def intoIngress (s : State) (c : CoreId) (d : Draught) : State :=
  let k := s.core c
  if k.island.inDraught.length + k.island.newDraught.length < 60 ∨ d.mtype ≠ 1 then
    s.modCore c fun k => k.modIsland fun r => { r with newDraught := r.newDraught ++ [(s.flue.cycle + (crossingOf s c).2, d)] }
  else if d.tnt = k.island.tenant ∧ d.epoch ≠ k.island.epoch then
    s.modCore c fun k => k.modLive fun l => { l with staleWords := l.staleWords + BitVec.ofNat 64 d.data.length }
  else
    let i := srcCore s d
    let reason := if d.tnt ≠ k.island.tenant ∨ k.power ≠ .on ∨ k.inst = none then 2 else 3
    let t := s.modCore c fun k => k.modSync fun y =>
      { y with opened := d.data.zipIdx.foldl (fun l e => openCrumb l d i c reason (d.taddr + 8 * e.2)) y.opened }
    let mate (x : Draught) : Bool :=
      decide (x.mtype = 1) && decide (x.src = d.src) && decide (x.epoch = d.epoch) && decide (x.step = d.step) &&
        decide (x.att = d.att) && decide (x.loops = d.loops)
    if !d.lst then t
    else if k.island.newDraught.any fun x => mate x.2 then
      t.modCore c fun k => k.modIsland fun r =>
        { r with newDraught := changeLast (fun x => mate x.2) (fun x => (x.1, { x.2 with lst := true })) r.newDraught }
    else if k.island.inDraught.any mate then
      t.modCore c fun k => k.modIsland fun r => { r with inDraught := changeLast mate (fun x => { x with lst := true }) r.inDraught }
    else sendCrumbs t c (sameInstance d i) d

/-- Held flits on their way out of a router that reach the ingress buffer in this cycle. -/
def ejections (s : State) : State :=
  let due (h : Held) : Bool := decide (512 ≤ h.site) && decide (h.since + 2 ≤ s.flue.cycle)
  let l := s.flue.held.filter due
  let s := { s with flue := { s.flue with held := s.flue.held.filter fun h => !due h } }
  l.foldl
    (fun t h => match coreAt t (h.site - 512) with
      | some c => intoIngress t c h.d
      | none => t) s

/-! ### Draught injection (R182, R184, R221, R224) -/

/-- Flits an island may inject: the first of its own steps and the first reply. -/
def readyDraughts (r : Island) : List (Nat × Draught) :=
  (r.outbox.find? fun e => decide (0 < e.1)).toList ++ (r.outbox.find? fun e => decide (e.1 = 0)).toList

/-- A core injects one draught flit in its turn; the turn of a gated core is idle (R221). -/
def injectDraught (s : State) (p : Site) (rot turn : Nat) : State :=
  match coreAt s p with
  | none => s
  | some c =>
    if (s.core c).power ≠ .on then s else
    match (readyDraughts (s.core c).island).find? fun e =>
        decide (e.2.dst ≠ p) && decide (rotOf s p e.2 = rot) && (routeOf s p e.2.dst).isSome with
    | none => s
    | some e =>
      let d := { e.2 with rot := BitVec.ofNat 2 rot }
      let path := (routeOf s p d.dst).getD []
      let t := s.modCore c fun k =>
        (k.modIsland fun r => { r with outbox := eraseFirst e r.outbox }).modLive fun l => l.flueInc 6
      { t with flue := { t.flue with held := t.flue.held ++ [⟨d, p, path, turn, t.flue.cycle⟩] } }

/-- A flit of a PUT, probe or reply to the core itself takes the local port only: four cycles, no turn (R180). -/
def injectSelf (s : State) (p : Site) : State :=
  match coreAt s p with
  | none => s
  | some c =>
    match (readyDraughts (s.core c).island).find? fun e => decide (e.2.dst = p) with
    | none => s
    | some e =>
      let t := s.modCore c fun k => k.modIsland fun r => { r with outbox := eraseFirst e r.outbox }
      { t with flue := { t.flue with held := t.flue.held ++ [⟨e.2, 512 + p, [], 0, t.flue.cycle + 2⟩] } }

/-- Bound ring port of an agent; 255 for none. -/
def boundPort (s : State) (a : Nat) : Nat := mget 255 s.flue.agents a

/-- A ring port injects in its turn the oldest waiting flit of the agents bound to it, under the bound port of the agent it goes
to (R196). -/
def injectRing (s : State) (m turn : Nat) : State :=
  match s.flue.ringOut.find? fun e => decide (boundPort s e.1 = m) with
  | none => s
  | some e =>
    let dst := 256 + boundPort s ((agentOf (messageDst e.2)).getD 9)
    match routeOf s (256 + m) dst with
    | none => s
    | some path =>
      { s with flue := { s.flue with
          ringOut := eraseFirst e s.flue.ringOut,
          held := s.flue.held ++ [⟨{ e.2 with rot := 1, src := 256 + m, dst := dst }, 256 + m, path, turn, s.flue.cycle⟩] } }

/-- Injections of the three rotations; none while the routes are compiled (R228). -/
def draughtTurns (s : State) : State :=
  if s.flue.compiling then s
  else
    let c := s.flue.cycle
    let s := if c % 16 = 0 ∧ hasRouter s (c / 16 % 256) then injectDraught s (c / 16 % 256) 0 (c / 16) else s
    let s := if c % 64 = 8 then injectRing s (c / 64 % 64) (c / 64) else s
    (List.range 256).foldl
      (fun t p =>
        match turnNow t p 2 with
        | some n =>
          let l := tenantSites t p
          if hasRouter t p && decide (l[n % max 1 l.length]? = some p) then injectDraught t p 2 n else t
        | none => t) s

/-- Largest number of flits a holding buffer has held (0x3330.s). -/
def highWater (s : State) : State :=
  (List.range 256).foldl
    (fun t p =>
      let n := (t.flue.held.filter fun h => decide (h.site = p)).length
      match coreAt t p with
      | some c =>
        if (mget 0 (t.core c).live.flue 7).toNat < n then
          t.modCore c fun k => k.modLive fun l => { l with flue := mset 0 l.flue 7 (BitVec.ofNat 64 n) }
        else t
      | none => t) s

/-! ### What else a Flue cycle does -/

/-- Changes of the stop mask and of stop bits that are due take effect (R215, R217). -/
def applyStops (s : State) : State :=
  let c := s.flue.cycle
  let m := (s.flue.maskQ.filter fun e => decide (e.1 ≤ c)).foldl (fun m e => setBit m e.2.1 e.2.2) s.flue.mask
  { s with flue := { s.flue with mask := m, maskQ := s.flue.maskQ.filter fun e => decide (c < e.1) } }

/-- Stream-stop words whose cycle has come take effect at their islands (R217). -/
def applyStreamStops (s : State) : State :=
  let c := s.flue.cycle
  let l := s.flue.stopQ.filter fun e => decide (e.1 ≤ c)
  let s := { s with flue := { s.flue with stopQ := s.flue.stopQ.filter fun e => decide (c < e.1) } }
  l.foldl
    (fun t e => match coreAt t e.2.1 with
      | some k => t.modCore k fun q => q.modIsland fun r => { r with stop := mset false r.stop e.2.2.1 e.2.2.2 }
      | none => t) s

/-- Frequency a hearth's clock runs at: 0 while it is stopped, half, and at least 600 MHz, while it is stretched (R54, R400). -/
def runFreq (h : Hearth) : Nat := if h.frozen ∨ h.state = 2 ∨ h.state = 3 then 0 else if h.stretch.isEmpty then h.freq else max (h.freq / 2) 600

/-- Hearths of a rectangle. -/
def rectHearths (s : State) (t : Nat) : List Nat :=
  match rectOf s t with
  | some r => ((rectSites s r).map hearthOfSite).dedup
  | none => []

/-- Count a cycle below its floor for each bake (R249). -/
def countBelow (s : State) : State :=
  { s with baker := { s.baker with slots := s.baker.slots.map fun e =>
      if e.2.place.isSome && (rectHearths s e.2.tenant.toNat).any fun n => decide (runFreq (s.hearth n) < phFloor e.2.pkg.hdr)
      then (e.1, { e.2 with below := e.2.below + 1 }) else e } }

/-- The calendar runs 5/8 ns; lease and presence window run down (R371, R372, R389). -/
def countTime (s : State) : State :=
  let a := s.aon
  { s with aon := { a with
      calendar := if a.calStopped then a.calendar else a.calendar + 5,
      leaseLeft := a.leaseLeft - 1,
      windowLeft := a.windowLeft - 1 } }

/-- A hearth leaves a state of running for a stop and comes back to it; safe hold and unmanaged stay through a stop. -/
def stopState (h : Hearth) (inStop : Bool) : U8 :=
  if h.state = 0 ∨ h.state = 1 then (if inStop then 1 else 0) else h.state

/-- The stop bit of a hearth changes: every router island sees it 32 cycles later (R215). -/
def setStop (s : State) (n : Nat) (b : Bool) : State :=
  let t := s.modHearth n fun h => { h with stopBit := b }
  { t with flue := { t.flue with maskQ := t.flue.maskQ ++ [(t.flue.cycle + 32, n, b)] } }

/-- Stops whose last row restarts in this cycle: the hearth runs again and its stop bit is cleared (R409). -/
def endStops (s : State) : State :=
  (List.range 16).foldl
    (fun t n => match (t.hearth n).restartAt with
      | some c =>
        if c ≤ t.flue.cycle then
          setStop (t.modHearth n fun h => { h with frozen := false, restartAt := none, stopTo := none, state := stopState h false }) n false
        else t
      | none => t) s

/-- One Flue cycle of the whole die. -/
def flueCycle (bad : List (Site × Dir)) (s : State) : State :=
  let s := endCrossings (applySwitches (applyStreamStops (applyStops s)))
  let s := arrivals bad s
  let s := (List.range 256).foldl injectSlot s
  let s := ejections (hops bad s)
  let s := draughtTurns ((List.range 256).foldl injectSelf s)
  let s := endStops (countTime (countBelow (highWater (endCrossings s))))
  { s with flue := { s.flue with cycle := s.flue.cycle + 1 } }

end Sys2Proof.Machine
end

