-- ==== Sys2Proof/Machine/Flue.lean ====
section
/-! DEFINITION. The commands of the Flue and of the sync network (R193 to R231, R294 to R296). -/

namespace Sys2Proof.Machine

/-- ROUTER_SLOT: one Flue cycle; `crcBad` names the inputs whose flit fails its CRC (R199, R208). -/
def execRouterSlot (crcBad : List (Site × Dir)) (s : State) : Out := .next (flueCycle crcBad s)

/-! ### Arriving stream flits (R211 to R213) -/

/-- A discarded flit out of sequence or without an entry: counted, with an event (R212). -/
def seqError (s : State) (c : CoreId) : State :=
  raise (s.modCore c fun k => k.modLive fun l => l.flueInc 2) 0x3330 (BitVec.ofNat 8 (c + 1)) 0
    (BitVec.ofNat 8 (0x20 + hearthOf s c)) 0

def setRecv (s : State) (c : CoreId) (n : Nat) (r : RecvEntry) : State :=
  s.modCore c fun k => k.modIsland fun i => { i with recv := i.recv.map fun e => if e.1 = n then (n, r) else e }

/-- Have the words of one flit written at word `w` of transfer `m` of an entry, beyond its size none (R211, R213); `done` where
the last of them completes the transfer expected. -/
def writeFlit (k : Core) (n : Nat) (r : RecvEntry) (m w : Nat) (f : Flit) (done : Bool) : Core :=
  let base := r.base + m % max 1 r.depth * r.size
  k.modPad fun p => p.askIngress
    ((f.data.take (r.size / 8 - w)).zipIdx.map fun e => (base / 8 + w + e.2, e.1, bitAt f.pmask e.2)) (if done then some n else none)

/-- A flit at word `w` of the transfer expected, or of the one before it when `again` (R212). -/
def takeFlit (s : State) (c : CoreId) (n : Nat) (r : RecvEntry) (w : Nat) (again : Bool) (f : Flit) : State :=
  let w' := w + min 16 (r.size / 8 - w)
  let ends := decide (r.size / 8 ≤ w')
  let t := s.modCore c fun k => writeFlit k n r (if again then r.num - 1 else r.num) w f (ends && !again)
  setRecv t c n { r with got := if ends && again then none else some (w', again) }

/-- The last word of the transfer expected has been written: the entry signals its sync object and moves on (R212). -/
def streamDone (s : State) (c : CoreId) (n : Nat) : State :=
  match (s.core c).island.recv.find? fun e => decide (e.1 = n) with
  | none => s
  | some (_, r) => signalObj (setRecv s c n { r with got := none, num := r.num + 1 }) ⟨r.sobj, false, r.amt, r.epoch⟩

/-- The order of R212. -/
def streamFlit (s : State) (c : CoreId) (f : Flit) : State :=
  let k := s.core c
  match k.island.recv.find? fun e => decide (e.1 = f.strm.toNat) with
  | none => seqError s c
  | some (n, r) =>
    if r.epoch ≠ k.island.epoch then seqError s c
    else if f.epl.toNat ≠ r.epoch.toNat % 256 then s.modCore c fun k => k.modLive fun l => l.flueInc 1
    else if f.first = true ∧ f.seq.toNat = r.num % 1024 then takeFlit s c n r 0 false f
    else if f.first = true ∧ 0 < r.num ∧ f.seq.toNat = (r.num - 1) % 1024 then takeFlit s c n r 0 true f
    else
      match r.got with
      | none => seqError s c
      | some (w, again) =>
        if f.first = false ∧ f.seq.toNat = (if again then r.num - 1 else r.num) % 1024 then takeFlit s c n r w again f
        else seqError s c

/-- STREAM_FLIT_ARRIVAL: the flit at the head of the stream share (R212); a stopped hearth's scratchpad takes none. -/
def execStreamFlitArrival (c : CoreId) (s : State) : Out :=
  onCore s c
    (match (s.core c).island.inStream with
    | [] => s
    | f :: _ =>
      if !hearthWrites s c then s
      else streamFlit (s.modCore c fun k => k.modIsland fun r => { r with inStream := r.inStream.drop 1 }) c f)

/-! ### Arriving draught flits (R226) -/

/-- DRAUGHT_FLIT_ARRIVAL: the tenant check of the flit at the head of the draught share. A PUT or probe of another tenant
is dropped and answered with crumb reason 0x2, a probe with an answer as well; a firmware message is taken from tenant
0xFF only, and nothing else is. A flit that passes waits for the command of its type. -/
def execDraughtFlitArrival (c : CoreId) (s : State) : Out :=
  onCore s c
    (match (s.core c).island.inDraught with
    | [] => s
    | d :: _ =>
      let t := dropDraught s c
      if d.mtype = 5 then
        if d.tnt = 0xFF then t else t.modCore c fun k => k.modLive fun l => l.flueInc 5
      else if d.tnt = 0xFF then t
      else if d.tnt = (s.core c).island.tenant then s
      else
        let i := srcCore s d
        match d.mtype with
        | 1 =>
          let t := t.modCore c fun k => putWords s c d k
          if d.lst then sendCrumbs t c (sameInstance d i) d else t
        | 2 =>
          let t := t.modCore c fun k => k.modSync fun y => { y with opened := openCrumb y.opened d i c 2 0 }
          let t := sendCrumbs t c (fun r => decide (r.init = i)) d
          t.modCore c fun k => k.modIsland fun r => { r with outbox := r.outbox ++ [(0, replyTo s c d 3 none)] }
        | _ => s)

/-! ### Schedules (R201 to R207, R229) -/

/-- Two regions share a table entry. -/
def regionsMeet (a p b q : Nat) : Bool := decide (a < b + q) && decide (b < a + p)

/-- Slot index `i` of a schedule of period `p` can fall on a draught position (R202). -/
def draughtIndex (p i : Nat) : Bool :=
  decide (i % 16 = 0) || (if p % 64 = 0 then decide (i % 64 = 8) else decide (i % 16 = 8))

/-- One entry of a schedule obeys R202, R203, R204 and R229. -/
def entryOk (p : Site) (mask : BitVec 5) (period i : Nat) (w : U32) : Bool :=
  decide (teRsv w = 0) && decide (teKind w < 3) && (!draughtIndex period i || decide (teKind w = 1)) &&
    (decide (teKind w ≠ 0) ||
      [Dir.n, .s, .e, .w, .loc].all fun o =>
        let c := teSrc w o
        decide (c < 6) && decide (c ≠ dirCode o) &&
          (decide (c = 5) ||
            ((decide (o = .loc) || !marked mask p o) &&
              match srcDir c with
              | some i => !marked mask p i
              | none => true)))

/-- A cycle a schedule may be switched at: not gone by, and on a period boundary of the schedule in force (R207; a commit for
another cycle is refused, DESIGN CHOICE, log entry 142). -/
def switchCycle (a : Schedule) (now c0 : Nat) : Bool :=
  decide (a.period = 0) || (decide (now ≤ c0) && decide (a.c0 ≤ c0) && decide ((c0 - a.c0) % a.period = 0))

/-- A router takes the schedule (R206). -/
def scheduleOk (s : State) (p : Site) (h : Schedule) : Bool :=
  let a := (s.router p).sched
  decide (h.period % 16 = 0) && decide (16 ≤ h.period) && decide (h.period ≤ 4096) && decide (h.c0 % 64 = 0) &&
    switchCycle a s.flue.cycle h.c0 &&
    decide (h.base + h.period ≤ 4096) && !(decide (0 < a.period) && regionsMeet h.base h.period a.base a.period) &&
    (List.range h.period).all fun i => entryOk p h.mask h.period i (mget idleEntry (s.router p).table (h.base + i))

/-- Commit a schedule at one router: staged for its switch cycle, or refused with an event. -/
def commitSchedule (s : State) (p : Site) (h : Schedule) : State :=
  if scheduleOk s p h then s.modRouter p fun r => { r with staged := some h } else raiseIsland s p 0x3301 0 p

/-- SCHEDULE_COMMIT (R206). -/
def execScheduleCommit (site : Site) (base period c0 tenant mask density epoch : Nat) (s : State) : Out :=
  if hasRouter s site then
    .next (commitSchedule s site
      ⟨period, base, c0, BitVec.ofNat 8 tenant, BitVec.ofNat 5 mask, density, BitVec.ofNat 32 epoch⟩)
  else .fault .noSuchUnit

/-- Routers whose tables end their rewrite together: those of one commit (R207). -/
def rewriteMates (s : State) (h : Schedule) : List Site :=
  (s.flue.routers.filter fun e => match e.2.staged with
    | some g => !e.2.rewrite.isEmpty && decide (g.c0 = h.c0) && decide (g.tenant = h.tenant)
    | none => false).map (·.1)

/-- SCHEDULE_SWITCH: at c_sw, which is the new schedule's start cycle; of a commit whose tables had to be rewritten, when the
rewrite ends, at every router of it (R207). -/
def execScheduleSwitch (site : Site) (s : State) : Out :=
  if hasRouter s site then
    .next (match (s.router site).staged with
      | some h =>
        if s.flue.cycle < h.c0 then s
        else if (s.router site).rewrite.isEmpty then takeSwitch s site
        else (rewriteMates s h).foldl takeSwitch s
      | none => s)
  else .fault .noSuchUnit

/-! ### Stops (R215, R217) -/

/-- STOP_MASK_APPLY: the changes made 32 cycles ago take effect at every router island (R215). -/
def execStopMaskApply (s : State) : Out := .next (applyStops s)

/-- The bridge that is to send a stream-stop word, if the word is its oldest (R217). -/
def stopSender (s : State) (w : Site × Nat × Bool) : Option Nat :=
  match s.flue.stopOut.find? fun e => decide (e.2 = w) with
  | some e => if (s.flue.stopOut.find? fun x => decide (x.1 = e.1)) = some e then some e.1 else none
  | none => none

/-- STREAM_STOP_WORD: a bridge sends a stop bit's new value to an island, its oldest word first and at most one in a Flue cycle
(R217). -/
def execStreamStopWord (site : Site) (stream : Nat) (stop : Bool) (s : State) : Out :=
  .next
    (match stopSender s (site, stream, stop) with
    | none => s
    | some n =>
      if s.flue.cycle < mget 0 s.flue.stopAt n then s
      else { s with flue := { s.flue with
        stopOut := eraseFirst (n, site, stream, stop) s.flue.stopOut,
        stopQ := s.flue.stopQ ++ [(s.flue.cycle + 32, site, stream, stop)],
        stopAt := mset 0 s.flue.stopAt n (s.flue.cycle + 1) } })

/-- STREAM_STOP_APPLY: the words sent 32 cycles ago take effect at their islands (R217). -/
def execStreamStopApply (s : State) : Out := .next (applyStreamStops s)

/-! ### The draught compile (R196, R220, R222, R228) -/

/-- Strictly increasing offsets. -/
def rising : List Nat → Bool
  | a :: b :: t => decide (a < b) && rising (b :: t)
  | _ => true

/-- Keys of the offsets a route visits, by site and path, local output last (R222); none where a link is missing or
lost. -/
def routeKeys (s : State) : List Dir → Site → Option (List Nat)
  | [], p => some [5 * p + 4]
  | d :: t, p =>
    if s.flue.lostDirs.contains (5 * p + dirCode d) then none
    else
      match ringPort p d with
      | some _ => if t.isEmpty then some [5 * p + dirCode d] else none
      | none => (linkTo s p d).bind fun q => (routeKeys s t q.1).map ((5 * p + dirCode d) :: ·)

/-- Keys of a whole route from a site or, at 256 and up, from a ring port. -/
def fullKeys (s : State) (src : Nat) (path : List Dir) : Option (List Nat) :=
  if src < 256 then (if hasRouter s src then routeKeys s path src else none)
  else
    let p := (portSite (src - 256)).1
    if hasRouter s p && !s.flue.lostDirs.contains (1280 + (src - 256)) then (routeKeys s path p).map ((1280 + (src - 256)) :: ·)
    else none

/-- Where a route ends: a site, or 256 and the ring port. -/
def routeEnd (s : State) : List Dir → Site → Nat
  | [], p => p
  | d :: t, p =>
    match ringPort p d with
    | some m => 256 + m
    | none =>
      match linkTo s p d with
      | some (q, _) => routeEnd s t q
      | none => 512

/-- First router of a route: its source's site, or that of the ring port. -/
def routeStart (src : Nat) : Site := if src < 256 then src else (portSite (src - 256)).1

/-- An end of a route that draughts come from or go to: a site, or a ring port that carries them (R195). -/
def endConnected (e : Nat) : Bool := decide (e < 256) || agentPort (e - 256) || memoryPort (e - 256)

/-- Routers of a route with the turns after its injection from which and before which its flit waits there: a core's flit waits
in its own router from its turn on, and leaves over a link with offset φ in turn φ + 1 (R222). -/
def waits (s : State) (off : List Nat) (r : Nat × Nat × List Dir) : List (Site × Nat × Nat) :=
  let at_ := ((fullKeys s r.1 r.2.2).getD []).map fun k => nth 0 off k + 1
  let sites := pathSites s r.2.2 (routeStart r.1)
  if r.1 < 256 then sites.zip ((0 :: at_).zip at_) else sites.zip (at_.zip (at_.drop 1))

/-- Flits at most in a router's holding buffer after base turn `t` and the ring turn before it, one for each owner whose flit
may wait there then (R221, R222). -/
def bufferAt (l : List (Nat × Site × Nat × Nat)) (p : Site) (t : Nat) : Nat :=
  let here (m age : Nat) : Bool := l.any fun e => decide (e.1 = m) && decide (e.2.1 = p) && decide (e.2.2.1 ≤ age) && decide (age < e.2.2.2)
  ((l.map (·.1)).dedup.map fun m =>
    if m < 256 then (if here m ((t + 256 - m) % 256) then 1 else 0)
    else ((List.range 4).filter fun j => here m ((t / 4 + 64 - (m - 256)) % 64 + 64 * j)).length).sum

/-- No router ever holds more than 96 flits (R222). -/
def buffersOk (s : State) (plan : DraughtPlan) : Bool :=
  let l := plan.routes.flatMap fun r => (waits s plan.offsets r).map fun w => (r.1, w)
  (l.map (·.2.1)).dedup.all fun p => (List.range 256).all fun t => decide (bufferAt l p t ≤ 96)

/-- A plan the compile may give: an offset 0 to 255 for every direction, every route on links that exist and between ends that
are connected, with rising offsets, and holding buffers that suffice (R195, R222). -/
def planOk (s : State) (plan : DraughtPlan) : Bool :=
  decide (plan.offsets.length = 1344) && (plan.offsets.all fun x => decide (x < 256)) &&
    (plan.routes.all fun r =>
      endConnected r.1 && endConnected r.2.1 && decide (routeEnd s r.2.2 (routeStart r.1) = r.2.1) &&
        match fullKeys s r.1 r.2.2 with
        | none => false
        | some l => rising (l.map fun k => nth 0 plan.offsets k)) && buffersOk s plan

/-! ### The longest scheduled route (R220) -/

/-- Cycles from a site to each site so far reached, one link further: a link's own, its seams and its bypass stages (R219). -/
def relax (s : State) (l : SMap Nat) : SMap Nat :=
  l.foldl
    (fun m e => dirs4.foldl
      (fun m d =>
        if s.flue.lostDirs.contains (5 * e.1 + dirCode d) then m
        else match linkTo s e.1 d with
          | none => m
          | some (q, x) =>
            let y := e.2 + 1 + x
            if y < mget 0xFFFF m q then mset 0xFFFF m q y else m) m) l

/-- Repeat the step until every shortest way is known. -/
def relaxed (s : State) : Nat → SMap Nat → SMap Nat
  | 0, l => l
  | n + 1, l => relaxed s n (relax s l)

/-- Cycles of the longest of the shortest scheduled routes between two usable cores: injection and ejection add 3 to the links'
own (R219, R220). -/
def longestShortest (s : State) : Nat :=
  let sites := ((List.range (gridSize s)).filter (usable s)).filterMap (siteOf s)
  sites.foldl
    (fun a p =>
      let l := relaxed s 256 [(p, 0)]
      sites.foldl (fun a q => if q = p then a else match l.find? fun e => decide (e.1 = q) with
        | some e => max a (e.2 + 3)
        | none => a) a) 0

/-- Home port, home group and number of the nine agents of 0x3310.06. -/
def agentHomes : List (Nat × Bool) :=
  [(53, true), (54, true), (55, true), (56, true), (57, true), (21, false), (22, false), (23, false), (24, false)]

/-- Ports and spare ports of an agent group: West, East (R196). -/
def groupPorts (west : Bool) : List Nat := if west then [53, 54, 55, 56, 57, 58] else [21, 22, 23, 24, 25, 26]
def groupSpares (west : Bool) : List Nat := if west then [58] else [25, 26]

def portUsable (s : State) (unreach : List CoreId) (m : Nat) : Bool :=
  let p := (portSite m).1
  hasRouter s p && (match coreAt s p with
    | some c => !unreach.contains c
    | none => false)

def holders (b : SMap Nat) (m : Nat) : Nat := (b.filter fun e => decide (e.2 = m)).length

/-- The usable port that the fewest agents hold, lowest number first. -/
def fewest (b : SMap Nat) : List Nat → Option Nat
  | [] => none
  | m :: t =>
    match fewest b t with
    | none => some m
    | some n => if holders b n < holders b m then some n else some m

/-- Rules 2 and 3 of R196 in one group. -/
def bindIn (usable : Nat → Bool) (b : SMap Nat) (west : Bool) : Option Nat :=
  match (groupSpares west).find? fun m => usable m && decide (holders b m = 0) with
  | some m => some m
  | none => fewest b ((groupPorts west).filter usable)

/-- Bindings of the nine agents: home ports first, then the rest of a group in order, then the agents of a group without
a usable port in the other group (R196). -/
def bindAgents (s : State) (unreach : List CoreId) : SMap Nat :=
  let usable := portUsable s unreach
  let l := agentHomes.zipIdx
  let homes := (l.filter fun e => usable e.1.1).foldl (fun b e => mset 255 b e.2 e.1.1) []
  let put (b : SMap Nat) (e : (Nat × Bool) × Nat) (west : Bool) : SMap Nat :=
    if mget 255 b e.2 ≠ 255 then b
    else match bindIn usable b west with
      | some m => mset 255 b e.2 m
      | none => b
  let own := l.foldl (fun b e => put b e e.1.2) homes
  l.foldl (fun b e => put b e (!e.1.2)) own

/-- Bound ring ports, each once, as route ends. -/
def boundEnds (b : SMap Nat) : List Nat := (b.map fun e => 256 + e.2).dedup

/-- Routes a core lacks, both ways, to the bound ports and to the other cores. -/
def lacking (s : State) (routes : List (Nat × Nat × List Dir)) (ends : List Nat) (cores : List CoreId) (c : CoreId) : Nat :=
  let p := (siteOf s c).getD 0
  let has (a b : Nat) : Bool := routes.any fun r => decide (r.1 = a) && decide (r.2.1 = b)
  let others := ends ++ (cores.filter fun x => decide (x ≠ c)).map fun x => (siteOf s x).getD 0
  (others.foldl (fun n x => n + (if has p x then 0 else 1) + (if has x p then 0 else 1)) 0)

/-- The core that lacks the most routes, the lowest site index among equals (R228). -/
def worst (s : State) (f : CoreId → Nat) : List CoreId → Option CoreId
  | [] => none
  | c :: t =>
    match worst s f t with
    | none => some c
    | some d =>
      if f d < f c ∨ (f c = f d ∧ (siteOf s c).getD 0 ≤ (siteOf s d).getD 0) then some c else some d

/-- Declare cores unreachable one at a time until the others have every route (R228). -/
def pruneCores (s : State) (routes : List (Nat × Nat × List Dir)) (ends : List Nat) : Nat → List CoreId → List CoreId
  | 0, _ => []
  | n + 1, l =>
    match worst s (lacking s routes ends l) l with
    | none => []
    | some c => if lacking s routes ends l c = 0 then [] else c :: pruneCores s routes ends n (l.filter fun x => decide (x ≠ c))

/-- A route of the bindings in force crosses a loss: a link it takes is gone (R228). -/
def routeBroken (s : State) (src dst : Nat) : Bool :=
  match routeOf s src dst with
  | none => false
  | some path => (fullKeys s src path).isNone

/-- Sync hub: the ring port of the ring engine's side (R296). -/
def hubEnd (s : State) : Nat := 256 + mget 57 s.flue.agents 4

/-- A bake with a route between two of its cores, or from one of them to the sync hub, that crosses the loss. -/
def bakeBroken (s : State) (b : Bake) : Bool :=
  let l := (bakeCores b).map fun c => (siteOf s c).getD 0
  l.any fun a => (l.any fun x => routeBroken s a x) || routeBroken s a (hubEnd s)

/-- A held flit on a route that crosses the loss, wherever it is on it (R228). -/
def heldLost (s : State) (h : Held) : Bool :=
  if 512 ≤ h.site then !hasRouter s (h.site - 512)
  else (fullKeys s h.site h.path).isNone || routeBroken s h.d.src h.d.dst

/-- A signal in flight whose route crosses the loss (R296). -/
def sigLost (s : State) (e : CoreId × Sig) : Bool :=
  let dst := if 0xF000 ≤ e.2.obj then hubEnd s else (siteOf s (e.2.obj / 256)).getD 0
  routeBroken s ((siteOf s e.1).getD 0) dst

/-- Pause every bake: no agent reaches the Flue (R196). -/
def pauseAll (s : State) : State :=
  { s with baker := { s.baker with slots := s.baker.slots.map fun e =>
      if e.2.state = 0 then e else (e.1, { e.2 with state := 7 }) } }

/-- Put a compile's routes, bindings and reachability in force. -/
def compileDraught (s : State) (plan : DraughtPlan) : State :=
  let broken := triggerAll s 3 (bakeBroken s)
  let t := { broken with
    flue := { broken.flue with held := broken.flue.held.filter fun h => !heldLost s h },
    ring := { broken.ring with sigs := broken.ring.sigs.filter fun e => !sigLost s e } }
  let cores := (List.range (gridSize t)).filter fun c => decide (0 < width t c)
  let first := bindAgents t []
  let un := pruneCores t plan.routes (boundEnds first) 240 cores
  let agents := bindAgents t un
  let un := if agents = first then un else pruneCores t plan.routes (boundEnds agents) 240 cores
  let new := un.filter fun c => !t.map.unreach.contains c
  let t := { t with
    map := { t.map with unreach := un },
    flue := { t.flue with
      offsets := plan.offsets, routes := plan.routes, compiles := t.flue.compiles + 1, agents := agents,
      cutOff := t.flue.cutOff || agents.isEmpty, compiling := false } }
  let t : State := { t with flue := { t.flue with maxRoute := longestShortest t } }
  let t := new.foldl (fun t c => raiseS t 0x3002 (c + 1) 3 c) t
  let t := triggerAll t 3 fun b => new.any fun c => (bakeCores b).contains c
  let u := raiseS t 0x3310 4 1 t.flue.maxRoute
  let t : State := { t with aon := if 40 < t.flue.maxRoute then u.aon else t.aon }
  if agents.isEmpty then pauseAll (raiseS t 0x3310 6 3 0) else t

/-- DRAUGHT_COMPILE (R228); a plan that breaks R222 is none the compile gives. -/
def execDraughtCompile (plan : DraughtPlan) (s : State) : Out := .next (if planOk s plan then compileDraught s plan else s)

/-! ### The sync network (R294, R296) -/

/-- SYNC_NETWORK_TURN: the core sends the remote signals of one finished step; none leave during a compile. -/
def execSyncNetworkTurn (c : CoreId) (s : State) : Out :=
  onCore s c
    (match (s.core c).sync.queue with
    | [] => s
    | g :: _ =>
      if s.flue.compiling || !usable s c then s
      else
        let t := s.modCore c fun k => k.modSync fun y => { y with queue := y.queue.drop 1 }
        { t with ring := { t.ring with sigs := t.ring.sigs ++ g.map fun x => (c, x) } })

/-- REMOTE_SIGNAL_APPLY: the oldest signal in flight reaches its object (R294, R296). -/
def execRemoteSignalApply (s : State) : Out :=
  match s.ring.sigs with
  | [] => .next s
  | (_, g) :: t => .next (signalObj { s with ring := { s.ring with sigs := t } } g)

end Sys2Proof.Machine
end

