-- ==== Sys2Proof/Machine/Crypto.lean ====
section
/-! DEFINITION. The published functions the manual names: SHA-384 (R247, R268, R377, R437), ECDSA over P-384 (R438, R439),
CRC-32C and the digest over GF(2¹²⁸) of R460. -/

namespace Sys2Proof.Machine

/-! ### SHA-384 -/

/-- Round constants of SHA-512. -/
def shaK : List U64 :=
  [0x428A2F98D728AE22, 0x7137449123EF65CD, 0xB5C0FBCFEC4D3B2F, 0xE9B5DBA58189DBBC] ++
  [0x3956C25BF348B538, 0x59F111F1B605D019, 0x923F82A4AF194F9B, 0xAB1C5ED5DA6D8118] ++
  [0xD807AA98A3030242, 0x12835B0145706FBE, 0x243185BE4EE4B28C, 0x550C7DC3D5FFB4E2] ++
  [0x72BE5D74F27B896F, 0x80DEB1FE3B1696B1, 0x9BDC06A725C71235, 0xC19BF174CF692694] ++
  [0xE49B69C19EF14AD2, 0xEFBE4786384F25E3, 0x0FC19DC68B8CD5B5, 0x240CA1CC77AC9C65] ++
  [0x2DE92C6F592B0275, 0x4A7484AA6EA6E483, 0x5CB0A9DCBD41FBD4, 0x76F988DA831153B5] ++
  [0x983E5152EE66DFAB, 0xA831C66D2DB43210, 0xB00327C898FB213F, 0xBF597FC7BEEF0EE4] ++
  [0xC6E00BF33DA88FC2, 0xD5A79147930AA725, 0x06CA6351E003826F, 0x142929670A0E6E70] ++
  [0x27B70A8546D22FFC, 0x2E1B21385C26C926, 0x4D2C6DFC5AC42AED, 0x53380D139D95B3DF] ++
  [0x650A73548BAF63DE, 0x766A0ABB3C77B2A8, 0x81C2C92E47EDAEE6, 0x92722C851482353B] ++
  [0xA2BFE8A14CF10364, 0xA81A664BBC423001, 0xC24B8B70D0F89791, 0xC76C51A30654BE30] ++
  [0xD192E819D6EF5218, 0xD69906245565A910, 0xF40E35855771202A, 0x106AA07032BBD1B8] ++
  [0x19A4C116B8D2D0C8, 0x1E376C085141AB53, 0x2748774CDF8EEB99, 0x34B0BCB5E19B48A8] ++
  [0x391C0CB3C5C95A63, 0x4ED8AA4AE3418ACB, 0x5B9CCA4F7763E373, 0x682E6FF3D6B2B8A3] ++
  [0x748F82EE5DEFB2FC, 0x78A5636F43172F60, 0x84C87814A1F0AB72, 0x8CC702081A6439EC] ++
  [0x90BEFFFA23631E28, 0xA4506CEBDE82BDE9, 0xBEF9A3F7B2C67915, 0xC67178F2E372532B] ++
  [0xCA273ECEEA26619C, 0xD186B8C721C0C207, 0xEADA7DD6CDE0EB1E, 0xF57D4F7FEE6ED178] ++
  [0x06F067AA72176FBA, 0x0A637DC5A2C898A6, 0x113F9804BEF90DAE, 0x1B710B35131C471B] ++
  [0x28DB77F523047D84, 0x32CAAB7B40C72493, 0x3C9EBE0A15C9BEBC, 0x431D67C49C100D4C] ++
  [0x4CC5D4BECB3E42B6, 0x597F299CFC657E2A, 0x5FCB6FAB3AD6FAEC, 0x6C44198C4A475817]

/-- Initial values of SHA-384. -/
def shaInit : List U64 := [0xCBBB9D5DC1059ED8, 0x629A292A367CD507, 0x9159015A3070DD17, 0x152FECD8F70E5939, 0x67332667FFC00B31, 0x8EB44A8768581511, 0xDB0C2E0D64F98FA7, 0x47B5481DBEFA4FA4]

def rotr (x : U64) (n : Nat) : U64 := x.rotateRight n

/-- Message words of one block of sixteen, newest first. -/
def shaSchedule : Nat → List U64 → List U64
  | 0, l => l
  | n + 1, l =>
    let a := nth 0 l 14
    let b := nth 0 l 1
    let s0 := rotr a 1 ^^^ rotr a 8 ^^^ (a >>> 7)
    let s1 := rotr b 19 ^^^ rotr b 61 ^^^ (b >>> 6)
    shaSchedule n ((nth 0 l 15 + s0 + nth 0 l 6 + s1) :: l)

def shaRound (v : List U64) (k w : U64) : List U64 :=
  match v with
  | [a, b, c, d, e, f, g, h] =>
    let s1 := rotr e 14 ^^^ rotr e 18 ^^^ rotr e 41
    let ch := (e &&& f) ^^^ (~~~e &&& g)
    let t1 := h + s1 + ch + k + w
    let s0 := rotr a 28 ^^^ rotr a 34 ^^^ rotr a 39
    let mj := (a &&& b) ^^^ (a &&& c) ^^^ (b &&& c)
    [t1 + s0 + mj, a, b, c, d + t1, e, f, g]
  | l => l

def shaBlock (h : List U64) (block : List Byte) : List U64 :=
  let w := ((List.range 16).map fun i => BitVec.ofNat 64 (ofBe (slice block (8 * i) 8))).reverse
  let l := (shaSchedule 64 w).reverse
  let v := (shaK.zip l).foldl (fun v e => shaRound v e.1 e.2) h
  (h.zip v).map fun e => e.1 + e.2

def shaBlocks : Nat → List Byte → List U64 → List U64
  | 0, _, h => h
  | n + 1, l, h => shaBlocks n (l.drop 128) (shaBlock h (l.take 128))

/-- SHA-384 of a byte string, its first byte in the highest bits. -/
def sha384 (m : List Byte) : BitVec 384 :=
  let z := (239 - m.length % 128) % 128
  let p := m ++ [0x80] ++ List.replicate z 0 ++ (leBytes 16 (8 * m.length)).reverse
  let h := shaBlocks (p.length / 128) p shaInit
  BitVec.ofNat 384 ((h.take 6).foldl (fun a x => a * 2 ^ 64 + x.toNat) 0)

/-- The 48 bytes of a digest, highest first. -/
def digestBytes (d : BitVec 384) : List Byte := (leBytes 48 d.toNat).reverse

/-! ### ECDSA over P-384 -/

def ecP : Nat := 0xFFFFFFFFFFFFFFFFFFFFFFFFFFFFFFFFFFFFFFFFFFFFFFFFFFFFFFFFFFFFFFFEFFFFFFFF0000000000000000FFFFFFFF
def ecB : Nat := 0xB3312FA7E23EE7E4988E056BE3F82D19181D9C6EFE8141120314088F5013875AC656398D8A2ED19D2A85C8EDD3EC2AEF
def ecN : Nat := 0xFFFFFFFFFFFFFFFFFFFFFFFFFFFFFFFFFFFFFFFFFFFFFFFFC7634D81F4372DDF581A0DB248B0A77AECEC196ACCC52973
def ecG : Nat × Nat :=
  (0xAA87CA22BE8B05378EB1C71EF320AD746E1D3B628BA79B9859F741E082542A385502F25DBF55296C3A545E3872760AB7,
   0x3617DE4A96262C6F5D9E98BF9292DC29F8F41DBD289A147CE9DA3113B5F0B8C00A60B1CE1D7E819D7A431D7C90EA0E5F)

/-- `a ^ e` modulo `m`, six bits of `e` at a time from the lowest. -/
def powMod (m : Nat) : Nat → Nat → Nat → Nat → Nat
  | 0, _, _, r => r
  | f + 1, a, e, r => powMod m f (a ^ 64 % m) (e / 64) (r * a ^ (e % 64) % m)

/-- Inverse modulo a prime of 384 bits. -/
def invMod (m a : Nat) : Nat := powMod m 64 (a % m) (m - 2) 1

/-- Sum of two points; `none` is the point at infinity. -/
def ecAdd (p q : Option (Nat × Nat)) : Option (Nat × Nat) :=
  match p, q with
  | none, q => q
  | p, none => p
  | some (x, y), some (u, v) =>
    if x = u ∧ (y + v) % ecP = 0 then none
    else
      let l := if x = u then (3 * x * x + (ecP - 3)) * invMod ecP (2 * y) else (v + (ecP - y)) * invMod ecP (u + (ecP - x))
      let l := l % ecP
      let w := (l * l + 2 * ecP - x - u) % ecP
      some (w, (l * (x + ecP - w) + ecP - y) % ecP)

def ecMul : Nat → Nat → Option (Nat × Nat) → Option (Nat × Nat) → Option (Nat × Nat)
  | 0, _, _, r => r
  | f + 1, k, p, r => ecMul f (k / 2) (ecAdd p p) (if k % 2 = 1 then ecAdd r p else r)

/-- A public key is a point of the curve. -/
def ecOn (q : Nat × Nat) : Bool :=
  decide (q.1 < ecP) && decide (q.2 < ecP) && decide ((q.2 * q.2) % ecP = (q.1 * q.1 * q.1 + (ecP - 3) * q.1 + ecB) % ecP)

/-- The signature (r, s) of a message digest verifies under a key. -/
def ecdsaOk (q : Nat × Nat) (e r s : Nat) : Bool :=
  if !ecOn q || decide (r = 0) || decide (ecN ≤ r) || decide (s = 0) || decide (ecN ≤ s) then false
  else
    let w := invMod ecN s
    match ecAdd (ecMul 384 (e * w % ecN) (some ecG) none) (ecMul 384 (r * w % ecN) (some q) none) with
    | none => false
    | some x => decide (x.1 % ecN = r)

/-! ### CRC-32C -/

def crcByte (c : U32) (b : Byte) : U32 :=
  (List.range 8).foldl (fun a _ => if a.getLsbD 0 then (a >>> 1) ^^^ 0x82F63B78 else a >>> 1) (c ^^^ b.setWidth 32)

/-- CRC-32C (Castagnoli), reflected, initial value and final exclusive-or all ones. -/
def crc32c (l : List Byte) : U32 := (l.foldl crcByte 0xFFFFFFFF) ^^^ 0xFFFFFFFF

/-! ### The digest of R460 -/

/-- Product in GF(2¹²⁸) with the polynomial x¹²⁸ + x⁷ + x² + x + 1. -/
def gfMul (a b : BitVec 128) : BitVec 128 :=
  ((List.range 128).foldl
    (fun (r : BitVec 128 × BitVec 128) i =>
      (if b.getLsbD i then r.1 ^^^ r.2 else r.1,
        if r.2.getLsbD 127 then (r.2 <<< 1) ^^^ 0x87 else r.2 <<< 1)) (0, a)).1

def gfPow : Nat → BitVec 128 → Nat → BitVec 128 → BitVec 128
  | 0, _, _, r => r
  | f + 1, a, e, r => gfPow f (gfMul a a) (e / 2) (if e % 2 = 1 then gfMul r a else r)

/-- Key of a seed: x¹²⁷ + S. -/
def gfKey (seed : U64) : BitVec 128 := BitVec.ofNat 128 (2 ^ 127 + seed.toNat)

/-- Digest of tensor `t`, as words of 8 bytes: the blocks b_k times H to the power t·2³² + k + 1. -/
def tensorDigest (h : BitVec 128) (t : Nat) (l : List U64) : BitVec 128 :=
  (List.range ((l.length + 1) / 2)).foldl
    (fun d k =>
      let b := BitVec.ofNat 128 ((nth 0 l (2 * k)).toNat + 2 ^ 64 * (nth 0 l (2 * k + 1)).toNat)
      d ^^^ gfMul b (gfPow 64 h (t * 2 ^ 32 + k + 1) 1)) 0

end Sys2Proof.Machine
end

