-- ==== Sys2Proof/Machine/MatCtx.lean ====
section
/-! DEFINITION. What a MATMUL step asks of the arrays (R74, R100, R118, R120, R144 to R147, R480): its tiles and passes,
the share and target rows of each array, the words it reads, and the arithmetic of one vector (R95, R96, R108, R109). -/

namespace Sys2Proof.Machine

/-- A MATMUL step instance with its descriptors. -/
structure MCtx where
  k    : Core
  w    : W256
  da   : W256
  dw   : W256
  dy   : W256
  vars : List Nat
  /-- slice code in force, 0 for none. -/
  code : Nat
  deriving DecidableEq, Repr

def mctx (s : State) (k : Core) (step : Nat) (vars : List Nat) : MCtx :=
  let w := k.recipe.step step
  let code := if mmSlice w = 0xF then (s.bake (bakeOf k)).defaults.1 else mmSlice w
  { k := k, w := w, da := k.recipe.desc (mmDa w), dw := k.recipe.desc (mmDw w), dy := k.recipe.desc (mmDy w), vars := vars,
    code := code }

/-- Slices of a mode (R118). -/
def MCtx.n (x : MCtx) : Nat := if x.code = 1 then 6 else 7
def MCtx.wide (x : MCtx) : Bool := decide (x.code ≠ 0) || mmWide x.w
def MCtx.bitsA (x : MCtx) : Nat := fmtBits (dFmt x.da)
def MCtx.bitsW (x : MCtx) : Nat := fmtBits (dFmt x.dw)
def MCtx.is16 (x : MCtx) : Bool := decide (x.bitsA = 16)
def MCtx.is44 (x : MCtx) : Bool := decide (x.bitsA = 4) && decide (x.bitsW = 4)

/-- K positions of a pass (R74). -/
def MCtx.kpass (x : MCtx) : Nat := if x.is16 then 64 else if x.is44 then 256 else 128

/-- Floating-point operands. -/
def MCtx.isFp (x : MCtx) : Bool := (ffmt (dFmt x.da)).isSome

/-- Block size of a block-scaled step, 0 for none (R104). -/
def MCtx.block (x : MCtx) : Nat := if dSmode x.da = 3 then 32 else if dSmode x.da = 4 then 64 else 0

/-- K tiles. -/
def MCtx.tiles (x : MCtx) : Nat := ceilDiv (mmKreal x.w) x.kpass

/-- Real K positions of tile `t`. -/
def MCtx.real (x : MCtx) (t : Nat) : Nat := min x.kpass (mmKreal x.w - t * x.kpass)

/-- Products a slice mode keeps, in ascending order of i + j and then of i (R118, R147). -/
def keptPairs (code : Nat) : List (Nat × Nat) :=
  let n := if code = 1 then 6 else 7
  (List.range (2 * n - 1)).flatMap fun s => (List.range n).filterMap fun i =>
    if i ≤ s ∧ s - i < n ∧ (s ≤ n - 1 ∨ code = 3) then some (i, s - i) else none

/-- One weight tile's pass: K tile, planes, flags, shift, and whether it adds into the second wide row (R120, R145). -/
structure Pass where
  t     : Nat
  pa    : Nat
  pw    : Nat
  first : Bool
  last  : Bool
  shift : Nat
  low   : Bool
  /-- first pass of a K block (R122). -/
  opens : Bool
  deriving DecidableEq, Repr

def MCtx.pairs (x : MCtx) : List (Nat × Nat) := keptPairs x.code

def MCtx.passes (x : MCtx) : Nat := if x.code = 0 then x.tiles else x.tiles * x.pairs.length

def MCtx.pass (x : MCtx) (p : Nat) : Pass :=
  if x.code = 0 then
    ⟨p, 0, 0, decide (p = 0) && mmFirst x.w, decide (p + 1 = x.tiles) && mmLast x.w, if mmWide x.w then mmShift x.w else 0,
      false, false⟩
  else
    let m := x.pairs.length
    let e := nth (0, 0) x.pairs (p % m)
    let low := decide (x.n ≤ e.1 + e.2)
    ⟨p / m, e.1, e.2, decide (p % m = 0) || (decide (e.1 + e.2 = x.n) && decide (e.1 = 1)), decide (p % m + 1 = m),
      if low then 8 * (2 * x.n - 2 - e.1 - e.2) else 8 * (x.n - 1 - e.1 - e.2), low, decide (p % m = 0)⟩

/-! ### Shares and target rows (R146) -/

/-- Vectors of array `a`. -/
def MCtx.share (x : MCtx) (a : Nat) : Nat :=
  let m := mmMtot x.w
  if mmSplit x.w then ceilDiv (m - a) 4
  else let q := ceilDiv m 4; min m ((a + 1) * q) - a * q

/-- Activation vector that is the array's `j`-th. -/
def MCtx.vecNo (x : MCtx) (a j : Nat) : Nat := if mmSplit x.w then 4 * j + a else a * ceilDiv (mmMtot x.w) 4 + j

/-- Accumulator row the array's `j`-th vector targets, as a 32-bit row: wide row `r` is kept at `3r`. -/
def MCtx.row (x : MCtx) (j : Nat) (low : Bool) : Nat :=
  let v := x.vars.getLast?.getD 0
  if x.wide then
    let b := (mmAccb x.w + mmAccst x.w * v) % 85
    if x.code = 3 then 3 * ((b + 2 * j + (if low then 1 else 0)) % 85) else 3 * ((b + j) % 85)
  else ((mmAccb x.w + mmAccst x.w * v) % 256 + j) % 256

/-- First wide row of the pair whose second row is `r` (R146). -/
def pairRow (r : Nat) : Nat := 3 * ((r / 3 + 84) % 85)

/-! ### Words read (R100, R110, R122, R145, R480) -/

/-- Address `off` bytes and `m` planes of stride `pl` beyond a row. -/
def planeOf (a : Nat) (m : Nat) (pl : Int) (off : Nat) : Nat := ((a : Int) + (m : Int) * pl + (off : Int)).toNat

/-- Words of a vector: those holding a real K position, then the block-code or exponent word as index 16. -/
def MCtx.vecWords (x : MCtx) (p : Pass) (i : Nat) : List (Nat × Nat) :=
  let a := rowAddr x.k.bind x.da x.vars i
  let base := planeOf a p.pa (mmPla x.w) (128 * p.t)
  let l := (List.range (ceilDiv (x.real p.t * x.bitsA) 64)).map fun q => (q, base / 8 + q)
  if x.block ≠ 0 then
    l ++ [(16, (rowAddr x.k.bind (x.k.recipe.desc (dSdesc x.da)) x.vars i + p.t * x.kpass / x.block) / 8)]
  else if p.opens then l ++ [(16, planeOf a x.n (mmPla x.w) (2 * p.t) / 8)]
  else l

/-- Byte of the index-16 word at which the vector's codes or exponent start. -/
def MCtx.vecSide (x : MCtx) (p : Pass) (i : Nat) : Nat :=
  if x.block ≠ 0 then
    (rowAddr x.k.bind (x.k.recipe.desc (dSdesc x.da)) x.vars i + p.t * x.kpass / x.block) % 8
  else planeOf (rowAddr x.k.bind x.da x.vars i) x.n (mmPla x.w) (2 * p.t) % 8

/-- PE rows of a tile that hold a real K position. -/
def MCtx.realRows (x : MCtx) (t : Nat) : Nat :=
  if x.is44 then ceilDiv (x.real t) 2 else if x.is16 then 2 * x.real t else x.real t

/-- Bytes a PE row (or the pair of a 16-bit K element) occupies in scratchpad. -/
def MCtx.rowBytes (x : MCtx) : Nat :=
  let c := mmNcols x.w
  if x.is16 then 2 * c else if x.is44 || x.bitsW = 8 then c else ceilDiv c 2

/-- Words the loader reads before injecting PE row `r`: those with weights of the step's columns; a 16-bit pair is read
with its first row (R61). R145's `k` of A(k) counts K elements in the 16-bit modes, where a pair of PE rows holds one of them
(DESIGN CHOICE, log entry 124). -/
def MCtx.rowWordsOf (x : MCtx) (p : Pass) (r : Nat) : List Nat :=
  if x.realRows p.t ≤ r ∨ (x.is16 ∧ r % 2 = 1) then []
  else
    let i := if x.is16 then p.t * 64 + r / 2 else p.t * 128 + r
    let a := planeOf (rowAddr x.k.bind x.dw x.vars i) p.pw (mmPlw x.w) 0
    wordRange a (ceilDiv x.rowBytes 8)

/-- Words read before row 0 of a tile: per-column scales on the step's first tile, exponents on a block's first pass,
block codes for every block-scaled tile (R102, R110, R122). Of the column codes it reads those that R107 gives the tile: one
byte for each logical column and each block with a real K position, which is R110's 256 words for 512 columns and four blocks
(DESIGN CHOICE, log entry 125). -/
def MCtx.sideWords (x : MCtx) (pi : Nat) : List Nat :=
  let p := x.pass pi
  let sd := x.k.recipe.desc (dSdesc x.dw)
  let scales := if pi = 0 ∧ dSmode x.dw = 2 then wordRange (rowAddr x.k.bind sd x.vars 0) (ceilDiv (mmNcols x.w) 2) else []
  let exps := if p.opens then
      wordRange (planeOf (rowAddr x.k.bind x.dw x.vars (2 * p.t)) x.n (mmPlw x.w) 0) (ceilDiv (mmNcols x.w) 4)
    else []
  let codes := if x.block ≠ 0 then
      (List.range (ceilDiv (x.real p.t) x.block)).flatMap fun b =>
        wordRange (rowAddr x.k.bind sd x.vars (p.t * (x.kpass / x.block) + b)) (ceilDiv (mmNcols x.w) 8)
    else []
  scales ++ exps ++ codes

/-! ### Codes of a tile and of a vector -/

/-- Fill of an unused position (R100): the zero point's code, or +0. -/
def fillCode (fmt : Nat) (z : Int) : Nat := if (ffmt fmt).isSome then 0 else toCode (fmtBits fmt) z

/-- Codes of PE row `r` from the words read for it: one by column; a 16-bit pair gives its low or high bytes. -/
def MCtx.rowCodes (x : MCtx) (p : Pass) (r : Nat) (l : List (U64 × Bool)) : List Nat :=
  let c := mmNcols x.w
  let zf := fillCode (dFmt x.dw) (dZp x.dw)
  if x.realRows p.t ≤ r then List.replicate c (if x.is44 then zf + 16 * zf else zf)
  else if x.is16 then
    (unpackWords 16 c l).map fun e => if r % 2 = 0 then e.1 % 256 else e.1 / 256
  else if x.is44 then
    (unpackWords 8 c l).map fun e => if x.real p.t ≤ 2 * r + 1 then e.1 % 16 + 16 * zf else e.1
  else (unpackWords x.bitsW c l).map (·.1)

/-- Weight code of K position `kk` and column `c` in a tile. -/
def MCtx.weight (x : MCtx) (t : List TileRow) (kk c : Nat) : Nat :=
  let at_ (r : Nat) : Nat := nth 0 (nth ⟨[], false⟩ t r).codes c
  if x.is16 then at_ (2 * kk) + 256 * at_ (2 * kk + 1)
  else if x.is44 then (if kk % 2 = 0 then at_ (kk / 2) % 16 else at_ (kk / 2) / 16)
  else at_ kk

/-- Activation codes of a vector over all K positions of the pass, with the fill of R100. -/
def MCtx.vecCodes (x : MCtx) (p : Pass) (l : List (U64 × Bool)) : List Nat :=
  let r := (unpackWords x.bitsA (x.real p.t) l).map (·.1)
  r ++ List.replicate (x.kpass - r.length) (fillCode (dFmt x.da) (dZp x.da))

/-- Signedness of the codes of one slice plane: plane 0 signed, the others unsigned (R119). -/
def MCtx.planeFmt (x : MCtx) (fmt plane : Nat) : Nat := if x.code ≠ 0 ∧ plane ≠ 0 then 3 else if x.code ≠ 0 then 2 else fmt

/-! ### Products and sums (R95, R96, R108, R109) -/

/-- One product in the accumulation format. -/
def MCtx.prod (x : MCtx) (a w : Nat) : FVal :=
  let v := (codeValue (dFmt x.da) a).mul (codeValue (dFmt x.dw) w)
  if dFmt x.da = 7 then r32 v else v

/-- Floating-point sum in ascending K order, each addition rounded. -/
def MCtx.fpSum (x : MCtx) (l : List (Nat × Nat)) : FVal :=
  l.foldl (fun a e => r32 (a.add (x.prod e.1 e.2))) (.fin false 0 0)

/-- Exact integer sum of products of codes. -/
def MCtx.intSum (x : MCtx) (p : Pass) (l : List (Nat × Nat)) : Int :=
  l.foldl (fun a e => a + intCode (x.planeFmt (dFmt x.da) p.pa) e.1 * intCode (x.planeFmt (dFmt x.dw) p.pw) e.2) 0

/-- A block-scaled pass sum: block results in ascending K order, a block of code 0x00 contributing +0. -/
def MCtx.blockSum (x : MCtx) (p : Pass) (l : List (Nat × Nat)) (ca cw : List Nat) : FVal :=
  (chunks x.block l.length l).zipIdx.foldl
    (fun a e =>
      let u := nth 0 ca e.2
      let v := nth 0 cw e.2
      let r := if u = 0 ∨ v = 0 then .fin false 0 0
        else
          let b := if x.isFp then x.fpSum e.1 else ofInt (x.intSum p e.1)
          r32 (b.mul ((sb8Value u).mul (sb8Value v)))
      r32 (a.add r)) (.fin false 0 0)

/-- Column sum of one vector for column `c`: an integer, or binary32 bits as a number. -/
def MCtx.colResult (x : MCtx) (p : Pass) (tile : List TileRow) (sb : List (List Nat)) (codes ca : List Nat) (c : Nat) : Int :=
  let l := codes.zipIdx.map fun e => (e.1, x.weight tile e.2 c)
  if x.block ≠ 0 then (rn32 (x.blockSum p l ca (sb.map fun b => nth 0 b c))).toNat
  else if x.isFp then (rn32 (x.fpSum l)).toNat
  else x.intSum p l

/-- The accumulator holds binary32 values. -/
def MCtx.accFp (x : MCtx) : Bool := x.isFp || decide (x.block ≠ 0)

/-- 32-bit rows that hold what a vector accumulates into from row `r` on: a wide row takes three of them (R65). -/
def rowSpan (wide : Bool) (r : Nat) : List Nat := if wide then [r, r + 1, r + 2] else [r]

/-- Rows whose last-K item leaves them to one drain: the target row, and in S7F the first wide row of the pair (R146, R147). -/
def MCtx.drainRows (x : MCtx) (r : Nat) : List Nat := if x.code = 3 then [pairRow r, r] else [r]

/-- Rows this step drains (R66, R147). -/
def MCtx.drains (x : MCtx) : Nat := if x.code ≠ 0 then x.tiles * mmMtot x.w else if mmLast x.w then mmMtot x.w else 0

end Sys2Proof.Machine
end

