-- ==== Sys2Proof/Machine/RecipeCheck.lean ====
section
/-! DEFINITION. The Baker's load-time checks of a recipe (R130 to R160, R480): the checks of its text, and those made
again for each instance with its bindings, parameters and core width. -/

namespace Sys2Proof.Machine

/-- A reject record of R243. -/
structure Reject where
  rcls   : Nat
  reason : Nat
  recIx  : Nat := 0xFFFF
  inst   : Nat := 0xFFFF
  step   : Nat := 0xFFFF
  stype  : Nat := 0
  entry  : Nat := 0xFFFFFF
  deriving DecidableEq, Repr

/-- The record's 128 bits (R243). -/
def Reject.bits (r : Reject) : BitVec 128 :=
  BitVec.ofNat 128
    (((((((r.rcls * 256 + r.reason) * 2 ^ 16 + r.recIx) * 2 ^ 16 + r.inst) * 2 ^ 16 + r.step) * 256 + r.stype) * 2 ^ 24
      + r.entry) * 2 ^ 32)

/-- First reason of a list of checks that fails. -/
def fails (l : List (Bool × Nat)) : Option Nat := (l.find? (·.1)).map (·.2)

/-- The first answer of a function over a list with places. -/
def firstOf {α β : Type} (l : List α) (f : Nat → α → Option β) : Option β := l.zipIdx.findSome? fun e => f e.2 e.1

/-! ### Descriptors (R141, R142) -/

/-- Checks of a descriptor by itself; `n` is ndesc. A scale mode with a companion needs one, whether or not a step uses the
descriptor (DESIGN CHOICE, log entry 135). -/
def descFault (n : Nat) (d : W256) : Option Nat :=
  fails [
    (decide (fld d 133 128 ≠ 0), 0x02),
    (decide (0xB ≤ dFmt d), 0x03),
    (decide (5 ≤ dSmode d), 0x03),
    (decide (17 ≤ dHist d), 0x03),
    (decide (8 ≤ dMarg d) && decide (dMarg d ≤ 14), 0x03),
    (decide (dOvf d = 3), 0x03),
    (dDsc d && decide (dSmode d ≠ 1), 0x03),
    (decide (n ≤ dSdesc d) && decide (dSdesc d ≠ 0x3FF), 0x07),
    (decide (2 ≤ dSmode d) && decide (dSdesc d = 0x3FF), 0x08),
    (decide (dBase d % 8 ≠ 0) || decide (dPitch d % 8 ≠ 0) || (List.range 4).any fun l => decide (dStride d l % 8 ≠ 0), 0x0A)]

def isInt8 (f : Nat) : Bool := decide (f = 2) || decide (f = 3)
def isInt4 (f : Nat) : Bool := decide (f = 0) || decide (f = 1)
def isFp8 (f : Nat) : Bool := decide (f = 4) || decide (f = 5)

/-- Range of an integer format's codes (R88). -/
def codeRange (f : Nat) : Int × Int :=
  match f with
  | 0 => (-8, 7)
  | 1 => (0, 15)
  | 2 => (-128, 127)
  | _ => (0, 255)

def zpOk (d : W256) : Bool :=
  decide ((codeRange (dFmt d)).1 ≤ dZp d) && decide (dZp d ≤ (codeRange (dFmt d)).2)

/-- An operand or output that quantises or de-quantises by its descriptor's scale has a good one (R97, R103). -/
def quantOk (d : W256) : Bool := scaleOk (dScale d) && (!(isInt8 (dFmt d) || isInt4 (dFmt d)) || zpOk d)

/-! ### MATMUL (R74, R107, R144 to R148) -/

/-- The operand pairs of R74. -/
def pairOk (a w : Nat) : Bool :=
  (isInt8 a && (isInt8 w || isInt4 w)) || (isInt4 a && isInt4 w) || (isFp8 a && isFp8 w) || (decide (a = 7) && decide (w = 7)) ||
    (decide (a = 6) && decide (w = 6))

def blockMode (d : W256) : Bool := decide (dSmode d = 3) || decide (dSmode d = 4)

/-- Most vectors an array may take (R146). -/
def arrayLimit (w : W256) : Nat :=
  if mmSlice w = 3 then 42 else if mmSlice w ≠ 0 ∨ mmWide w = true then 85 else 256

/-- Vectors of the array that takes the most. -/
def mostVectors (w : W256) : Nat := ceilDiv (mmMtot w) 4

/-- Output format and scale mode of a MATMUL (R104, R122, R147). -/
def matOutOk (w dy : W256) (fp : Bool) : Bool :=
  let f := dFmt dy
  if mmSlice w ≠ 0 then decide (f = 9) && decide (dSmode dy ≤ 1)
  else if mmWide w then decide (f = 9) && decide (dSmode dy ≤ 1)
  else
    match dSmode dy with
    | 0 => decide (f = (if fp then 8 else 0xA))
    | 1 => decide (f ≠ 0xA)
    | 2 => false
    | _ => decide (f ≤ 5)

/-- An FP8, FP16 or BF16 operand with a zero point (R98). -/
def floatZp (d : W256) : Bool := decide (4 ≤ dFmt d) && decide (dFmt d ≤ 7) && decide (dZp d ≠ 0)

/-- Checks of a MATMUL with its descriptors; a slice code of 0xF is taken as a slice mode. -/
def matFault (w da dw dy : W256) : Option Nat :=
  let a := dFmt da
  let b := dFmt dw
  let int := isInt8 a || isInt4 a
  let block := blockMode da || blockMode dw
  let sliced := decide (mmSlice w ≠ 0) || mmWide w
  fails [
    (decide (fld w 46 0 ≠ 0), 0x02),
    (decide (mmMtot w = 0) || decide (1024 < mmMtot w) || decide (mmKreal w = 0) || decide (mmNcols w = 0), 0x03),
    (decide (4 ≤ mmSlice w) && decide (mmSlice w ≠ 0xF), 0x03),
    (!pairOk a b, 0x08),
    (!int && (decide (dZp da ≠ 0) || decide (dZp dw ≠ 0)) || floatZp dy, 0x08),
    (decide (dSmode da = 0) || decide (dSmode da = 2) || decide (dSmode dw = 0), 0x08),
    (block && (decide (dSmode da ≠ dSmode dw) || decide (dZp da ≠ 0) || decide (dZp dw ≠ 0) || decide (fmtBits a = 16) || sliced), 0x08),
    (sliced && (!(isInt8 a && isInt8 b) || decide (dZp da ≠ 0) || decide (dZp dw ≠ 0)), 0x08),
    (mmWide w && decide (mmSlice w = 0) && (decide (dSmode da ≠ 1) || decide (dSmode dw ≠ 1)), 0x08),
    (!matOutOk w dy (!int || block), 0x08),
    (decide (dZp da ≠ 0) && !(mmFirst w && mmLast w), 0x0D),
    (decide (arrayLimit w < mostVectors w), 0x0B)]

/-! ### Vector steps (R149, R150, R480) -/

def vopKnown (v : Nat) : Bool :=
  (decide (1 ≤ v) && decide (v ≤ 9)) || (decide (0x10 ≤ v) && decide (v ≤ 0x13)) || (decide (0x20 ≤ v) && decide (v ≤ 0x22)) ||
    (decide (0x30 ≤ v) && decide (v ≤ 0x32)) || decide (v = 0x40)

/-- Operations with a second source or an index output: dz must name a descriptor. -/
def usesZ (v : Nat) : Bool := decide (v ≠ 6) && ((decide (1 ≤ v) && decide (v ≤ 9)) || decide (v = 0x32))

/-- Slices a SLICE step writes. -/
def slicesOf (w : W256) : Nat := if (vcImm w).toNat % 16 = 1 then 6 else 7

/-- Column orientation of a SLICE. -/
def sliceCols (w : W256) : Bool := bitAt (vcImm w) 8

def vecFault (w dx dz dd : W256) : Option Nat :=
  let v := vcOp w
  fails [
    (!vopKnown v, 0x03),
    (decide (fld w 89 0 ≠ 0), 0x02),
    (decide (vcLen w = 0) || decide (vcRows w = 0), 0x03),
    (decide (v = 0x32) && (decide ((vcImm w).toNat = 0) || decide (256 < (vcImm w).toNat)), 0x03),
    (decide (v = 0x40) && (decide ((vcImm w).toNat % 16 = 0) || decide (4 ≤ (vcImm w).toNat % 16) ||
      decide ((vcImm w).toNat - (vcImm w).toNat % 16 ≠ (if sliceCols w then 256 else 0))), 0x03),
    (decide (v = 0x21) && !((isInt8 (dFmt dd) || isInt4 (dFmt dd)) && decide (dSmode dd = 1)), 0x08),
    (decide (v = 0x40) && decide (dFmt dd ≠ 2), 0x08),
    (floatZp dx || floatZp dd || (usesZ v && decide (v ≠ 0x32) && floatZp dz), 0x08),
    (decide (v = 0x40) && (decide (dPitch dd < vcLen w) || (!sliceCols w && decide (dPitch dd < 2 * ceilDiv (vcLen w) 128))), 0x0A)]

/-! ### The other steps (R151, R152) -/

/-- Checks of a DMA, SEND, PUT, FILL or COPY. Another dd than 0x3FF where there is no destination is a nonzero unused field, at
whatever index (DESIGN CHOICE between the reasons of R151 and R160, log entry 136). -/
def moveFault (op : Nat) (w : W256) (n : Nat) : Option Nat :=
  fails [
    (decide (fld w 71 0 ≠ 0), 0x02),
    ((decide (op = opFill) || decide (op = opCopy)) && decide (mvTgt w ≠ 0), 0x02),
    (decide (op ≠ opPut) && (decide (mvTsym w ≠ 0) || decide (mvFsym w ≠ 0)), 0x02),
    (decide (op ≠ opPut) && decide (op ≠ opFill) && decide (mvVal w ≠ 0), 0x02),
    (decide (op ≠ opCopy) && decide (mvDd w ≠ 0x3FF), 0x02),
    (decide (mvRows w = 0) || decide (mvRbytes w < 8) || decide (65528 < mvRbytes w) || decide (mvRbytes w % 8 ≠ 0), 0x03),
    (decide (n ≤ mvDs w) || (decide (op = opCopy) && decide (n ≤ mvDd w)), 0x07),
    (decide (op = opPut) && decide ((mvVal w).toNat % 8 ≠ 0), 0x0A)]

def loopFault (w : W256) : Option Nat :=
  fails [
    (decide (fld w 170 0 ≠ 0), 0x02),
    (if lpPsel w then decide (lpCnt w ≠ 0) else decide (lpPar w ≠ 0), 0x02)]

/-- Checks of a step word by itself. -/
def stepFault (r : Recipe) (w : W256) : Option Nat :=
  let op := stOp w
  let n := r.descs.length
  let m := r.syncs.length
  let common := fails [
    ((opUnit op).isNone, 0x03),
    (decide (fld w 245 240 ≠ 0) || decide (fld w 211 192 ≠ 0), 0x02),
    (decide (8 < stWcnt w) || decide (8 < stScnt w), 0x06),
    (decide (0 < stWcnt w) && decide (m < stWidx w + stWcnt w), 0x06),
    (decide (0 < stScnt w) && decide (m < stSidx w + stScnt w), 0x06)]
  let body :=
    if op = opNop ∨ op = opEndloop ∨ op = opSync ∨ op = opEnd then fails [(decide (fld w 191 0 ≠ 0), 0x02)]
    else if op = opLoop then loopFault w
    else if op = opMatmul then
      if n ≤ mmDa w ∨ n ≤ mmDw w ∨ n ≤ mmDy w then some 0x07
      else matFault w (r.desc (mmDa w)) (r.desc (mmDw w)) (r.desc (mmDy w))
    else if op = opVector then
      if n ≤ vcDx w ∨ n ≤ vcDd w ∨ (n ≤ vcDz w ∧ (vcDz w ≠ 0x3FF ∨ usesZ (vcOp w) = true)) then some 0x07
      else vecFault w (r.desc (vcDx w)) (r.desc (vcDz w)) (r.desc (vcDd w))
    else moveFault op w n
  common.or body

/-! ### Sync-list entries (R153, R154) -/

/-- A reserved operation: an entry that no step names may not hold one either (R154, R160). -/
def reservedOp (e : U64) : Bool := !(decide (syOp e ≤ 2) || decide (syOp e = 8) || decide (syOp e = 9))

/-- Checks of an entry in a wait list or a signal list of a step. -/
def entryFault (wait : Bool) (op : Nat) (e : U64) : Option Nat :=
  let o := syOp e
  fails [
    (if wait then decide (3 ≤ o) else decide (o < 8), 0x06),
    (decide (o = 2) && decide (op ≠ opSync), 0x06)]

/-! ### What a step names -/

/-- Descriptors a step word names. -/
def stepDescs (w : W256) : List Nat :=
  let op := stOp w
  (if op = opMatmul then [mmDa w, mmDw w, mmDy w]
    else if op = opVector then [vcDx w, vcDz w, vcDd w]
    else if op ≥ opDma then [mvDs w, mvDd w] else []).filter fun d => decide (d ≠ 0x3FF)

/-- Companion scale descriptors of a list of descriptors (R141). -/
def companions (r : Recipe) (l : List Nat) : List Nat :=
  l.filterMap fun d => if 2 ≤ dSmode (r.desc d) then some (dSdesc (r.desc d)) else none

/-- Descriptors whose addresses a step forms: those it names and uses, and for a MATMUL their companions. -/
def usedDescs (r : Recipe) (w : W256) : List Nat :=
  let op := stOp w
  if op = opMatmul then let l := [mmDa w, mmDw w, mmDy w]; l ++ companions r l
  else if op = opVector then [vcDx w, vcDd w] ++ (if usesZ (vcOp w) then [vcDz w] else [])
  else if op = opCopy then [mvDs w, mvDd w]
  else if op ≥ opDma then [mvDs w] else []

/-- Lowest step a test picks, 0xFFFF where it picks none. -/
def lowestStep (r : Recipe) (pick : W256 → Bool) : Nat := (firstOf r.steps fun i w => if pick w then some i else none).getD 0xFFFF

/-- Lowest step that names a descriptor, itself or as a companion (R160). -/
def descStep (r : Recipe) (d : Nat) : Nat := lowestStep r fun w => let l := stepDescs w; l.contains d || (companions r l).contains d

/-- Lowest step that names a sync-list entry. -/
def syncStep (r : Recipe) (j : Nat) : Nat :=
  lowestStep r fun w =>
    (decide (stWidx w ≤ j) && decide (j < stWidx w + stWcnt w)) || (decide (stSidx w ≤ j) && decide (j < stSidx w + stScnt w))

/-- Where a fault lies: step and entry (R160). -/
def descAt (r : Recipe) (d : Nat) : Nat × Nat := (descStep r d, d)
def syncAt (r : Recipe) (j : Nat) : Nat × Nat := (syncStep r j, 0x800000 + j)

/-- Descriptor of a step whose scale, or zero point, is out of its range (R97, R103). -/
def scaleFault (r : Recipe) (w : W256) : Option Nat :=
  let op := stOp w
  let d (n : Nat) : W256 := r.desc n
  let bad : List (Nat × Bool) :=
    if op = opMatmul then
      let int := isInt8 (dFmt (d (mmDa w))) || isInt4 (dFmt (d (mmDa w)))
      [(mmDa w, !quantOk (d (mmDa w))),
       (mmDw w, (decide (dSmode (d (mmDw w)) ≠ 2) && !quantOk (d (mmDw w))) || (int && !zpOk (d (mmDw w)))),
       (mmDy w, decide (1 ≤ dSmode (d (mmDy w))) && decide (dFmt (d (mmDy w)) ≤ 5) && !quantOk (d (mmDy w)))]
    else if op = opVector then
      [(vcDd w, decide (vcOp w = 0x21) && !quantOk (d (vcDd w))), (vcDx w, decide (vcOp w = 0x22) && !quantOk (d (vcDx w)))]
    else []
  (bad.find? (·.2)).map (·.1)

/-! ### Structure: loops, END, counts (R131, R134, R152) -/

/-- Step at which the loops do not match: an ENDLOOP with no level open, a fifth level, or the LOOP last left open; the open
LOOPs, innermost first, go along. -/
def loopsFault : List (W256 × Nat) → List Nat → Option Nat
  | [], o => o.head?
  | (w, i) :: t, o =>
    if stOp w = opLoop then (if 4 ≤ o.length then some i else loopsFault t (i :: o))
    else if stOp w = opEndloop then
      match o with
      | [] => some i
      | _ :: u => loopsFault t u
    else loopsFault t o

/-- Step that breaks the rule of END: the one after it, or the last one where there is none (R134). -/
def lastStepFault (r : Recipe) : Option Nat :=
  match firstOf r.steps fun i w => if stOp w = opEnd then some i else none with
  | none => some (r.steps.length - 1)
  | some i => if i + 1 < r.steps.length then some (i + 1) else none

/-- A use of a symbol: the symbol, and where it stands. -/
abbrev SymUse := Nat × (Nat × Nat)

/-- Uses of symbols by class: tensor, sync, stream, peer, DMA (R133, R151). -/
def symUses (r : Recipe) : List (List SymUse) :=
  let on (p : Nat → Bool) (f : W256 → Nat) : List SymUse :=
    (r.steps.zipIdx.filter fun e => p (stOp e.1)).map fun e => (f e.1, e.2, 0xFFFFFF)
  [ (r.descs.zipIdx.map fun e => (dTsym e.1, descAt r e.2)) ++ on (· == opPut) mvTsym,
    (r.syncs.zipIdx.map fun e => (sySym e.1, syncAt r e.2)) ++ on (· == opPut) mvFsym,
    on (· == opSend) mvTgt,
    on (· == opPut) mvTgt,
    on (· == opDma) mvTgt ]

/-- Symbols a recipe names, by class, each once. -/
def recipeSyms (r : Recipe) : List (List Nat) := (symUses r).map fun l => (l.map (·.1)).dedup

/-- The use that names one symbol more than `n`. -/
def overLimit (n : Nat) : List SymUse → List Nat → Option (Nat × Nat)
  | [], _ => none
  | u :: t, seen =>
    if seen.contains u.1 then overLimit n t seen else if n ≤ seen.length then some u.2 else overLimit n t (u.1 :: seen)

/-- Checks of a recipe's text: reason, step and entry (R131, R134, R139 to R154, R160). `hdrCounts` are the counts of its header. -/
def recipeFaultOf (r : Recipe) (hdrCounts : Nat × Nat × Nat) : Option (Nat × Nat × Nat) :=
  let hd := fails [
    (decide (rhVer r.hdr ≠ 0x0100), 0x01),
    (decide (fld r.hdr 203 0 ≠ 0), 0x02),
    (decide (hdrCounts.1 = 0) || decide (1024 < hdrCounts.1) || decide (384 < hdrCounts.2.1) || decide (1024 < hdrCounts.2.2) ||
      decide (16 < rhNpar r.hdr), 0x04),
    (decide (65536 < 32 + 32 * hdrCounts.1 + 32 * hdrCounts.2.1 + 8 * hdrCounts.2.2), 0x04)]
  let steps := firstOf r.steps fun i w => (stepFault r w).map fun c => (c, i, 0xFFFFFF)
  let descs := firstOf r.descs fun i d => (descFault r.descs.length d).map fun c => (c, descAt r i)
  let scales := firstOf r.steps fun _ w => (scaleFault r w).map fun d => (0x09, descAt r d)
  let ops := firstOf r.syncs fun j e => if reservedOp e then some (0x03, syncAt r j) else none
  let syncs := firstOf r.steps fun i w =>
    let list (wait : Bool) (ix n : Nat) : Option (Nat × Nat × Nat) :=
      firstOf (slice r.syncs ix n) fun j e => (entryFault wait (stOp w) e).map fun c => (c, i, 0x800000 + ix + j)
    (list true (stWidx w) (stWcnt w)).or (list false (stSidx w) (stScnt w))
  let loops := (loopsFault r.steps.zipIdx []).map fun i => (0x05, i, 0xFFFFFF)
  let ends := (lastStepFault r).map fun i => (0x10, i, 0xFFFFFF)
  let many := ((symUses r).zip [256, 256, 64, 64, 32]).findSome? fun e => (overLimit e.2 e.1 []).map fun a => (0x0F, a)
  (hd.map fun c => (c, 0xFFFF, 0xFFFFFF)).or <|
    steps.or <| descs.or <| scales.or <| ops.or <| syncs.or <| loops.or <| ends.or many

/-! ### Loop ranges of each step (R143, R152) -/

/-- Counts of the open loops at each step, outermost first. -/
def loopCounts (b : Binding) : List W256 → List Nat → List (List Nat)
  | [], _ => []
  | w :: t, open_ =>
    open_ :: loopCounts b t
      (if stOp w = opLoop then open_ ++ [loopCount b w] else if stOp w = opEndloop then open_.dropLast else open_)

/-- Least and greatest of a stride's contribution over a loop. -/
def corner (st : Int) (n : Nat) : Int × Int :=
  let e := st * ((n : Int) - 1)
  (min 0 e, max 0 e)

/-- Least first byte and greatest end of the rows a descriptor forms within its tensor: `n` rows, of which each holds
bytes from `lo` to `hi` beyond its address. -/
def span (b : Binding) (d : W256) (counts : List Nat) (n : Nat) (lo hi : Int) : Int × Int :=
  let base := (dBase d : Int) + paramOff b (dPoff d)
  let c := counts.zipIdx.foldl (fun a e => let x := corner (dStride d e.2) e.1; (a.1 + x.1, a.2 + x.2)) ((0 : Int), (0 : Int))
  let r := corner (dPitch d) n
  (base + c.1 + r.1 + lo, base + c.2 + r.2 + hi)

/-- One access a step can make: tensor symbol, first byte, end, and whether it writes. -/
structure Access where
  sym   : Nat
  lo    : Int
  hi    : Int
  write : Bool
  deriving DecidableEq, Repr

def access (b : Binding) (d : W256) (counts : List Nat) (n : Nat) (lo hi : Int) (write : Bool) : Access :=
  let s := span b d counts n lo hi
  ⟨dTsym d, s.1, s.2, write⟩

/-- Bytes of `n` elements of a format in whole words. -/
def rowSize (n fmt : Nat) : Nat := 8 * ceilDiv (n * fmtBits fmt) 64

/-- Accesses of a MATMUL: the words its feeders, loader and drains touch (R100, R143, R147, R480); one that sets no last-K
drains nothing (R70, R144). -/
def matAccess (k : Core) (w : W256) (counts : List Nat) (code : Nat) : List Access :=
  let r := k.recipe
  let b := k.bind
  let x : MCtx := ⟨k, w, r.desc (mmDa w), r.desc (mmDw w), r.desc (mmDy w), [], code⟩
  let planes (pl : Int) : Int × Int := corner pl x.n
  let kb := ceilDiv (mmKreal w) 128
  let rowsK := if x.is44 then ceilDiv (mmKreal w) 2 else mmKreal w
  let pa := if code = 0 then (0, 0) else planes (mmPla w)
  let pw := if code = 0 then (0, 0) else planes (mmPlw w)
  let side (d : W256) : W256 := r.desc (dSdesc d)
  let blocks := if x.block = 0 then 0 else ceilDiv (mmKreal w) x.block
  let oblock := if dSmode x.dy = 3 then 32 else 64
  [access b x.da counts (mmMtot w) pa.1 (pa.2 + rowSize (mmKreal w) (dFmt x.da)) false,
   access b x.dw counts rowsK pw.1 (pw.2 + 8 * ceilDiv x.rowBytes 8) false] ++
  (if setsLast w then [access b x.dy counts (mmMtot w) 0 (rowSize (mmNcols w) (dFmt x.dy)) true] else []) ++
  (if code = 0 then [] else
    let ea := (x.n : Int) * mmPla w
    let ew := (x.n : Int) * mmPlw w
    [access b x.da counts (mmMtot w) ea (ea + 8 * ceilDiv (2 * kb) 8) false,
     access b x.dw counts (2 * kb - 1) ew (ew + 8 * ceilDiv (2 * mmNcols w) 8) false]) ++
  (if code ≠ 0 ∧ mmFirst w = false then [access b x.dy counts (mmMtot w) 0 (8 * mmNcols w) false] else []) ++
  (if x.block = 0 then [] else
    [access b (side x.da) counts (mmMtot w) 0 blocks false, access b (side x.dw) counts blocks 0 (mmNcols w) false]) ++
  (if dSmode x.dw = 2 then [access b (side x.dw) counts 1 0 (4 * mmNcols w) false] else []) ++
  (if blockMode x.dy ∧ setsLast w = true then [access b (side x.dy) counts (mmMtot w) 0 (ceilDiv (mmNcols w) oblock) true] else [])

/-- Accesses of a VECTOR step. -/
def vecAccess (k : Core) (w : W256) (counts : List Nat) : List Access :=
  let r := k.recipe
  let b := k.bind
  let dx := r.desc (vcDx w)
  let dd := r.desc (vcDd w)
  let dz := r.desc (vcDz w)
  let src (d : W256) : Access := access b d counts (vcRows w) 0 (rowSize (vcLen w) (dFmt d)) false
  let out (n : Nat) : Access := access b dd counts (vcRows w) 0 (rowSize n (dFmt dd)) true
  let v := vcOp w
  if v = 0x40 then
    let q := dPitch dd * vcRows w
    let n := slicesOf w
    let top : Int := if sliceCols w then
        (2 * (ceilDiv (vcRows w) 128 : Int) - 2) * dPitch dd - (vcRows w - 1) * dPitch dd + 8 * (ceilDiv (2 * vcLen w) 8 : Nat)
      else max (8 * ceilDiv (vcLen w) 8 : Nat) (8 * ceilDiv (2 * ceilDiv (vcLen w) 128) 8 : Nat)
    [src dx, access b dd counts (vcRows w) 0 (n * q + max (vcLen w : Int) top) true]
  else if v = 0x32 then
    [src dx, out (vcImm w).toNat, access b dz counts (vcRows w) 0 (8 * ceilDiv ((vcImm w).toNat) 4) true]
  else if v = 0x30 ∨ v = 0x31 then [src dx, out 1]
  else if usesZ v then [src dx, src dz, out (vcLen w)]
  else [src dx, out (vcLen w)]

/-- Accesses of any step, in its own core's scratchpad and, for PUT, in the target's tensor. -/
def stepAccess (k : Core) (w : W256) (counts : List Nat) (dflt : Nat) : List Access :=
  let op := stOp w
  let r := k.recipe
  let rows (d : Nat) (write : Bool) : Access := access k.bind (r.desc d) counts (mvRows w) 0 (mvRbytes w) write
  if op = opMatmul then matAccess k w counts (if mmSlice w = 0xF then dflt else mmSlice w)
  else if op = opVector then vecAccess k w counts
  else if op = opDma then
    [rows (mvDs w) (decide (dmDir (mget 0 k.bind.dmas (mvTgt w)) = 0))]
  else if op = opSend then [rows (mvDs w) false]
  else if op = opPut then
    [rows (mvDs w) false, ⟨mvTsym w, (mvVal w).toNat, (mvVal w).toNat + (mvRows w * mvRbytes w : Nat), true⟩]
  else if op = opFill then [rows (mvDs w) true]
  else if op = opCopy then [rows (mvDs w) false, rows (mvDd w) true]
  else []

/-- A descriptor a step uses whose parameter is no multiple of 8 (R142). -/
def paramFault (k : Core) (w : W256) : Option Nat :=
  (usedDescs k.recipe w).find? fun d => decide (paramOff k.bind (dPoff (k.recipe.desc d)) % 8 ≠ 0)

/-- Far bytes a DMA step moves: object, first byte, end, and whether it writes (R300). -/
def farAccess (k : Core) (farObj : Nat → Bool → Nat) (w : W256) (counts : List Nat) : Access :=
  let m := mget 0 k.bind.dmas (mvTgt w)
  let c := counts.zipIdx.foldl (fun a e => let x := corner (dmStride m e.2) e.1; (a.1 + x.1, a.2 + x.2)) ((0 : Int), (0 : Int))
  let base := (dmOff m : Int) + paramOff k.bind (dmPar m)
  let out := decide (dmDir m = 1)
  ⟨farObj (dmTens m) out, base + c.1, base + c.2 + (dmPitch m * (mvRows w - 1) : Nat) + mvRbytes w, out⟩

/-- Far addresses of a DMA step lie within the far tensor, and are multiples of 8 (R142, R143, R300). -/
def farOk (k : Core) (w : W256) (counts : List Nat) (size : Nat → Nat) : Bool :=
  let m := mget 0 k.bind.dmas (mvTgt w)
  let c := counts.zipIdx.foldl (fun a e => let x := corner (dmStride m e.2) e.1; (a.1 + x.1, a.2 + x.2)) ((0 : Int), (0 : Int))
  let base := (dmOff m : Int) + paramOff k.bind (dmPar m)
  decide (0 ≤ base + c.1) && decide (base + c.2 + (dmPitch m * (mvRows w - 1) : Nat) + mvRbytes w ≤ size (dmTens m)) &&
    decide (dmOff m % 8 = 0) && decide (dmPitch m % 8 = 0) && decide (paramOff k.bind (dmPar m) % 8 = 0) &&
    (List.range 4).all fun l => decide (dmStride m l % 8 = 0)

/-! ### Yield regions (R157 to R159) -/

/-- An occurrence of a step in a region: the innermost loop around it with its count, which pass of it is meant, and whether the
region holds every pass. Outside every loop the count is 0. -/
structure Occ where
  step  : Nat
  loop  : Nat := 0
  count : Nat := 0
  pass  : Nat := 1
  whole : Bool := true
  deriving DecidableEq, Repr

/-- Instances at most, and occurrences in issue order. -/
abbrev Region := Nat × List Occ

/-- Step occurrences of a stretch of recipe in issue order, a loop's body twice where it runs more than once; with the
greatest number of instances each stands for. A yield step ends the stretch before it. -/
structure Stretch where
  /-- before the first yield, or all where there is none. -/
  pre   : Region
  /-- from the last yield on, if there is one. -/
  post  : Option Region
  /-- whole regions inside. -/
  inner : List Region
  deriving DecidableEq, Repr

def joinRegion (a b : Region) : Region := (a.1 + b.1, a.2 ++ b.2)

def Stretch.append (a b : Stretch) : Stretch :=
  match a.post, b.post with
  | none, none => ⟨joinRegion a.pre b.pre, none, a.inner ++ b.inner⟩
  | none, some q => ⟨joinRegion a.pre b.pre, some q, a.inner ++ b.inner⟩
  | some p, none => ⟨a.pre, some (joinRegion p b.pre), a.inner ++ b.inner⟩
  | some p, some q => ⟨a.pre, some q, a.inner ++ joinRegion p b.pre :: b.inner⟩

/-- The occurrences of a body that no inner loop encloses, as those of a pass of loop `l`. -/
def Region.inLoop (g : Region) (l n pass : Nat) (whole : Bool) : Region :=
  (g.1, g.2.map fun o => if o.count = 0 then { o with loop := l, count := n, pass := pass, whole := whole } else o)

/-- The body of loop `l` run `n` times. -/
def Stretch.times (a : Stretch) (l n : Nat) : Stretch :=
  let inner (whole : Bool) := a.inner.map fun g => g.inLoop l n 1 whole
  if n ≤ 1 then ⟨a.pre.inLoop l 1 1 true, a.post.map fun p => p.inLoop l 1 1 true, inner true⟩
  else match a.post with
    | none => ⟨(a.pre.1 * n, (a.pre.inLoop l n 1 true).2 ++ (a.pre.inLoop l n 2 true).2), none, inner true⟩
    | some p =>
      ⟨a.pre.inLoop l n 1 false, some (p.inLoop l n 2 false),
        inner false ++ [joinRegion (p.inLoop l n 1 false) (a.pre.inLoop l n 2 false)]⟩

def emptyStretch : Stretch := ⟨(0, []), none, []⟩

/-- Stretches of a recipe: a stack of open loops, each with what ran before it, its step and its count. -/
def stretches (b : Binding) (r : Recipe) : List (W256 × Nat) → List (Stretch × Nat × Nat) → Stretch → Stretch
  | [], _, a => a
  | (w, i) :: t, st, a =>
    let n := if entersDone (stOp w) then 1 else 0
    let one : Stretch := if r.yieldAt i then ⟨(0, []), some (n, [⟨i, 0, 0, 1, true⟩]), []⟩ else ⟨(n, [⟨i, 0, 0, 1, true⟩]), none, []⟩
    if stOp w = opLoop then stretches b r t ((a.append one, i, loopCount b w) :: st) emptyStretch
    else if stOp w = opEndloop then
      match st with
      | (p, l, c) :: u => stretches b r t u (p.append ((a.append one).times l c))
      | [] => stretches b r t [] (a.append one)
    else stretches b r t st (a.append one)

/-- Yield regions of an instance. -/
def regions (b : Binding) (r : Recipe) : List Region :=
  let a := stretches b r (r.steps.zipIdx) [] emptyStretch
  a.pre :: a.inner ++ a.post.toList

/-- Two accesses to one object share a byte. -/
def Access.meets (x y : Access) : Bool := decide (x.sym = y.sym) && decide (x.lo < y.hi) && decide (y.lo < x.hi)

/-- The innermost loop variable of `x` has the value of that of `y`, for every value `x` stands for: the same pass of one loop, or
the same pass of two loops that the region holds whole, of which that of `y` runs as often. -/
def samePass (x y : Occ) : Bool :=
  decide (x.pass = y.pass) && ((decide (x.loop = y.loop) && decide (x.count = y.count)) ||
    (x.whole && y.whole && (decide (x.pass = 1) || decide (x.count ≤ y.count))))

/-- `y` sets last-K for the accumulator rows of `x` (R146, R159): the same rows by their fields, at the same value of the
innermost loop variable where the row base advances with it. -/
def completesRows (r : Recipe) (x y : Occ) : Bool :=
  let a := r.step x.step
  let b := r.step y.step
  decide (stOp b = opMatmul) && setsLast b &&
    decide (mmAccb a = mmAccb b) && decide (mmAccst a = mmAccst b) && decide (mmMtot a = mmMtot b) &&
    decide (mmSplit a = mmSplit b) && decide (mmWide a = mmWide b) && (decide (mmAccst a = 0) || samePass x y)

/-- Pairs of a list, each with a later one. -/
def laterPairs {α : Type} : List α → List (α × α)
  | [] => []
  | x :: t => t.map (fun y => (x, y)) ++ laterPairs t

/-- Step at which a region breaks R159: its first step where it holds too many instances, a step that writes a byte of an earlier
step, a MATMUL whose rows stay open. `acc` gives a step's accesses by object. Instances of one step in different iterations are
not compared (DEDUCED from the worked example, log entry 137). -/
def regionBad (r : Recipe) (acc : Nat → List Access) (g : Region) : Option Nat :=
  if 256 < g.1 then some ((g.2.map (·.step)).headD 0xFFFF)
  else
    (((laterPairs g.2).find? fun e => decide (e.1.step ≠ e.2.step) &&
      (acc e.2.step).any fun y => y.write && (acc e.1.step).any fun x => x.meets y).map fun e => e.2.step).or
    ((firstOf g.2 fun i o =>
      if stOp (r.step o.step) = opMatmul ∧ setsLast (r.step o.step) = false ∧
          !((g.2.drop (i + 1)).any (completesRows r o)) then some o.step else none))

/-! ### Checks of an instance (R160) -/

/-- What a bound symbol names: object index and view, so that two symbols of one tensor are one object. -/
structure InstView where
  /-- core as the instance will find it: recipe, bindings, parameters. -/
  core : Core
  /-- object of a tensor symbol; `none` where it is not bound. -/
  obj  : Nat → Option Nat
  /-- object of a far tensor that a DMA step reads, or writes. -/
  farObj : Nat → Bool → Nat
  size : Nat → Nat
  width : Nat
  /-- 0x3101.01. -/
  dflt : Nat

/-- Accesses of step `n` of an instance by object, in its own scratchpad, at a PUT's target and at the far side of a DMA step. -/
def InstView.accesses (v : InstView) (n : Nat) : List Access :=
  let k := v.core
  let w := k.recipe.step n
  let c := nth [] (loopCounts k.bind k.recipe.steps []) n
  let near := (stepAccess k w c v.dflt).map fun a => { a with sym := (v.obj a.sym).getD 0xFFFFFF }
  if stOp w = opDma then near ++ [farAccess k v.farObj w c] else near

/-- Checks of a recipe for one instance: reason, step and entry. -/
def instFault (v : InstView) (bound : Nat → Nat → Bool) (farSize : Nat → Nat) : Option (Nat × Nat × Nat) :=
  let k := v.core
  let r := k.recipe
  let counts := loopCounts k.bind r.steps []
  let cnt (i : Nat) : List Nat := nth [] counts i
  let unbound := (symUses r).zipIdx.findSome? fun e => (e.1.find? fun u => !bound e.2 u.1).map fun u => (0x0F, u.2)
  let perStep := firstOf r.steps fun i w =>
    ((paramFault k w).map fun d => (0x0A, descAt r d)).or <|
    (fails [
      (decide (stOp w = opLoop) && (decide (loopCount k.bind w = 0) || decide (65536 < loopCount k.bind w)), 0x05),
      ((stepAccess k w (cnt i) v.dflt).any fun a => decide (a.lo < 0) || decide ((v.size a.sym : Int) < a.hi), 0x0A),
      (decide (stOp w = opDma) && !farOk k w (cnt i) farSize, 0x0A),
      (decide (stOp w = opMatmul) && decide (v.width < mmNcols w), 0x0C),
      (decide (stOp w = opMatmul) && decide (mmSlice w = 0xF) && decide ((if v.dflt = 3 then 42 else 85) < mostVectors w), 0x0B)]).map
      fun c => (c, i, 0xFFFFFF)
  unbound.or <| perStep.or <|
    ((regions k.bind r).findSome? (regionBad r v.accesses)).map fun i => (0x0E, i, 0xFFFFFF)

end Sys2Proof.Machine
end

