-- ==== Sys2Proof/Machine/PkgCheck.lean ====
section
/-! DEFINITION. The graph package (R232 to R242, R300): its reading from bytes and the Baker's load-time checks with the
reasons of R160 and R244. -/

namespace Sys2Proof.Machine

/-- A package reason with the offending section and entry (R243). -/
def pkgReject (reason stype entry : Nat) : Reject := { rcls := 2, reason := reason, stype := stype, entry := entry }

/-! ### Reading (R233 to R235) -/

/-- The `n` entries of `size` bytes from byte `off` on, as little-endian numbers (R8). -/
def entriesAt (l : List Byte) (off n size : Nat) : List Nat :=
  (padTo 0 n ((chunks size n (l.drop off)).map ofLe))

/-- Directory of a package: section type, entry count and byte offset. -/
def pkgDir (l : List Byte) : List (Nat × Nat × Nat) :=
  let h : W256 := BitVec.ofNat 256 (ofLe (l.take 32))
  (entriesAt l 32 (phNsect h) 8).map fun n =>
    let w : U64 := BitVec.ofNat 64 n
    (fld w 63 56, fld w 55 32, fld w 31 0)

/-- Bytes of an entry of a section other than the recipes. -/
def entryBytes (stype : Nat) : Nat := if stype = 2 ∨ stype = 7 then 64 else if stype = 4 then 32 else if stype = 5 then 16 else 8

/-- Counts of a recipe image and its bytes. -/
def recipeCounts (h : W256) : Nat × Nat × Nat := (rhNstep h, rhNdesc h, rhNsync h)
def recipeBytes (h : W256) : Nat := 32 + 32 * rhNstep h + 32 * rhNdesc h + 8 * rhNsync h

/-- One recipe image at the front of a list, its counts, and the bytes after it up to a multiple of 32 (R130, R235). -/
def readRecipe (l : List Byte) : Recipe × List Byte × Nat :=
  let h : W256 := BitVec.ofNat 256 (ofLe (l.take 32))
  let n := recipeCounts h
  let at1 := 32 + 32 * n.1
  let at2 := at1 + 32 * n.2.1
  let len := recipeBytes h
  ({ hdr := h
     steps := (entriesAt l 32 n.1 32).map (BitVec.ofNat 256)
     descs := (entriesAt l at1 n.2.1 32).map (BitVec.ofNat 256)
     syncs := (entriesAt l at2 n.2.2 8).map (BitVec.ofNat 64) },
   slice l len (ceilDiv len 32 * 32 - len), ceilDiv len 32 * 32)

/-- The recipes of a section with their padding, and the bytes they take. -/
def readRecipes : Nat → List Byte → List (Recipe × List Byte) × Nat
  | 0, _ => ([], 0)
  | n + 1, l =>
    let r := readRecipe l
    let t := readRecipes n (l.drop r.2.2)
    ((r.1, r.2.1) :: t.1, r.2.2 + t.2)

/-- Bytes a section takes. -/
def sectionBytes (l : List Byte) (e : Nat × Nat × Nat) : Nat :=
  if e.1 = 1 then (readRecipes e.2.1 (l.drop e.2.2)).2 else e.2.1 * entryBytes e.1

/-- Greatest entry count of a section (R242). -/
def sectionLimit (stype : Nat) : Nat :=
  match stype with
  | 1 => 256
  | 2 => 1024
  | 3 => 131072
  | 4 => 4096
  | 5 => 8192
  | 6 => 8192
  | _ => 65536

/-- Checks of the header (R233, R234, R242). -/
def headerFault (h : W256) : Option Nat :=
  fails [
    (decide (phVer h ≠ 0x0100), 0x01),
    (decide (fld h 136 0 ≠ 0), 0x02),
    (decide (phMig h = 3), 0x03),
    (decide (67108864 < phBytes h) || decide (phNsect h < 3) || decide (7 < phNsect h) || decide (phMaxph h = 0) ||
      decide (8 < phMaxph h), 0x04),
    (decide (phFloor h < 600) || decide (2000 < phFloor h), 0x0A),
    (decide (phTmo h ≠ 0) && (decide (phTmo h < 100) || decide (60000000 < phTmo h)), 0x0A)]

/-- Checks of the directory (R235, R242): reason and section. -/
def dirFault (l : List Byte) : Option (Nat × Nat) :=
  let h : W256 := BitVec.ofNat 256 (ofLe (l.take 32))
  let d := pkgDir l
  let bytes := min (phBytes h) l.length
  let ext := d.map fun e => (e.2.2, e.2.2 + sectionBytes l e)
  let one := d.findSome? fun e =>
    (fails [
      (decide (e.1 = 0) || decide (8 ≤ e.1), 0x03),
      (decide (sectionLimit e.1 < e.2.1), 0x04),
      (decide (e.2.2 % 32 ≠ 0) || decide (e.2.2 < 32 + 8 * d.length) || decide (bytes < e.2.2 + sectionBytes l e), 0x04)]).map
      fun c => (c, e.1)
  let all := fails [
    (decide ((d.map (·.1)).dedup.length ≠ d.length), 0x04),
    ([1, 2, 3].any fun t => !(d.map (·.1)).contains t, 0x04),
    ((laterPairs ext).any fun e => decide (e.1.1 < e.2.2) && decide (e.2.1 < e.1.2), 0x04)]
  one.or (all.map fun c => (c, 0))

/-- A section's entries; none where the package has no such section. -/
def sectionOf (l : List Byte) (stype : Nat) : List Nat :=
  match (pkgDir l).find? fun e => decide (e.1 = stype) with
  | some e => entriesAt l e.2.2 e.2.1 (entryBytes stype)
  | none => []

/-- Recipes with their padding. -/
def recipesOf (l : List Byte) : List (Recipe × List Byte) :=
  match (pkgDir l).find? fun e => decide (e.1 = 1) with
  | some e => (readRecipes e.2.1 (l.drop e.2.2)).1
  | none => []

/-- The package by its sections. -/
def readPackage (l : List Byte) : Package :=
  { hdr := BitVec.ofNat 256 (ofLe (l.take 32))
    recipes := (recipesOf l).map (·.1)
    insts := (sectionOf l 2).map (BitVec.ofNat 512)
    binds := (sectionOf l 3).map (BitVec.ofNat 64)
    tensors := (sectionOf l 4).map (BitVec.ofNat 256)
    streams := (sectionOf l 5).map (BitVec.ofNat 128)
    syncs := (sectionOf l 6).map (BitVec.ofNat 64)
    dmas := (sectionOf l 7).map (BitVec.ofNat 512) }

/-! ### Checks of the entries -/

/-- Recipes an instance may run: rec, and alt where it has one. -/
def instRecipes (w : BitVec 512) : List Nat := inRec w :: (if inAlt w = 0xFFFF then [] else [inAlt w])

/-- The same members, in any order. -/
def sameSet (a b : List Nat) : Bool := a.all b.contains && b.all a.contains

/-- Instances (R236). -/
def instRowFault (p : Package) (w : BitVec 512) : Option Nat :=
  let n := p.recipes.length
  fails [
    ((instRecipes w).any fun r => decide (n ≤ r), 0x05),
    (decide (inAlt w ≠ 0xFFFF) &&
      ((recipeSyms (nth {} p.recipes (inRec w))).zip (recipeSyms (nth {} p.recipes (inAlt w)))).any (fun e => !sameSet e.1 e.2), 0x05)]

/-- Entries of the section a binding class indexes. -/
def classSize (p : Package) (cls : Nat) : Nat :=
  match cls with
  | 0 => p.tensors.length
  | 1 => p.syncs.length
  | 2 => p.streams.length
  | 3 => p.insts.length
  | _ => p.dmas.length

/-- One binding entry (R237, R240). -/
def bindFault (p : Package) (w : U64) : Option Nat :=
  fails [
    (decide (fld w 21 0 ≠ 0), 0x02),
    (decide (5 ≤ bnCls w), 0x03),
    (decide (p.insts.length ≤ bnInst w) || decide (classSize p (bnCls w) ≤ bnObj w), 0x05),
    (bnView w && !(decide (bnCls w = 0) && decide (tnCls (nth 0 p.tensors (bnObj w)) = 2)), 0x02),
    (decide (bnCls w = 2) && decide (smSnd (nth 0 p.streams (bnObj w)) ≠ bnInst w), 0x05)]

/-- Key of a bound symbol. -/
def bindKey (w : U64) : Nat × Nat × Nat := (bnInst w, bnCls w, bnSym w)

/-- Place of the first binding that binds a symbol again. -/
def boundTwice (p : Package) : Option Nat :=
  firstOf p.binds fun i w => if (p.binds.take i).any fun x => decide (bindKey x = bindKey w) then some i else none

/-- One tensor entry (R238, R278). -/
def tensorFault (p : Package) (j : Nat) (w : W256) : Option Nat :=
  let m := nth 0 p.dmas (tnLdma w)
  fails [
    (decide (fld w 172 160 ≠ 0) || decide (fld w 143 0 ≠ 0), 0x02),
    (decide (3 ≤ tnHome w) || decide (5 ≤ tnCls w), 0x03),
    (decide (tnSize w % 8 ≠ 0), 0x04),
    (decide (tnHome w ≠ 0) && (tnRw w || decide (tnOwner w ≠ 0)), 0x02),
    (decide (tnHome w = 0) && decide (p.insts.length ≤ tnOwner w), 0x05),
    (decide (tnLdma w ≠ 0xFFFF) && (decide (p.dmas.length ≤ tnLdma w) || decide (dmDir m ≠ 0) || decide (dmTens m = j)), 0x05),
    (decide (tnHome w = 2) && (decide (tnCls w = 2) || decide (tnCls w = 4)), 0x06)]

/-- One stream entry (R240). -/
def streamFault (p : Package) (w : BitVec 128) : Option Nat :=
  let t := nth 0 p.tensors (smRtens w)
  let common := fails [
    (decide (fld w 1 0 ≠ 0), 0x02),
    (decide (p.insts.length ≤ smSnd w), 0x05),
    (decide (smNxfer w = 0), 0x04),
    (decide (smXsize w = 0) || decide (smXsize w % 8 ≠ 0), 0x0B)]
  let rest :=
    if smLnk w then fails [
      (decide (smRcv w ≠ 0) || decide (smRtens w ≠ 0) || decide (smRsync w ≠ 0) || decide (smAmt w ≠ 0) || decide (smDepth w ≠ 0), 0x02),
      (decide (12 ≤ smPort w), 0x09)]
    else fails [
      (decide (p.insts.length ≤ smRcv w) || decide (p.tensors.length ≤ smRtens w) || decide (p.syncs.length ≤ smRsync w), 0x05),
      (decide (smDepth w = 0) || decide (16 < smDepth w), 0x04),
      (decide (tnHome t ≠ 0) || decide (tnOwner t ≠ smRcv w), 0x05),
      (decide (tnSize t < smDepth w * smXsize w), 0x0B),
      (decide (tnCls t = 0) || decide (tnCls t = 3), 0x0C)]
  common.or rest

/-- One sync-object entry (R241). -/
def syncFault (p : Package) (w : U64) : Option Nat :=
  fails [
    (decide (2 ≤ soScope w), 0x03),
    (decide (fld w 51 32 ≠ 0), 0x02),
    (decide (soScope w = 0) && decide (p.insts.length ≤ soOwner w), 0x05)]

/-- One DMA template (R300). -/
def dmaFault (p : Package) (w : BitVec 512) : Option Nat :=
  let t := nth 0 p.tensors (dmTens w)
  fails [
    (decide (2 ≤ dmDir w) || decide (dmSpace w = 0) || decide (3 ≤ dmSpace w), 0x03),
    (decide (fld w 315 0 ≠ 0), 0x02),
    (decide (p.tensors.length ≤ dmTens w) || decide (tnHome t ≠ dmSpace w), 0x05),
    (decide (dmDir w = 1) && (decide (tnCls t = 0) || decide (tnCls t = 3)), 0x0C)]

/-- Scratchpad bytes of the tensors of an instance, STATE counted twice (R242). -/
def padBytes (p : Package) (i : Nat) : Nat :=
  (p.tensors.filter fun t => decide (tnHome t = 0) && decide (tnOwner t = i)).foldl
    (fun a t => a + (if tnCls t = 2 then 2 else 1) * tnSize t) 0

/-- Remote-write windows of an instance. -/
def windowCount (p : Package) (i : Nat) : Nat :=
  (p.tensors.filter fun t => decide (tnHome t = 0) && decide (tnOwner t = i) && tnRw t).foldl
    (fun a t => a + (if tnCls t = 2 then 2 else 1)) 0

/-- Limits of one instance on any core (R242, R293). -/
def instLimits (p : Package) (i : Nat) : Option Nat :=
  fails [
    (decide (12582912 < padBytes p i), 0x06),
    (decide (256 < (p.syncs.filter fun w => decide (soScope w = 0) && decide (soOwner w = i)).length), 0x08),
    (decide (256 < (p.streams.filter fun w => !smLnk w && decide (smRcv w = i)).length), 0x08),
    (decide (256 < (p.streams.filter fun w => decide (smSnd w = i)).length), 0x08),
    (decide (16 < windowCount p i), 0x08)]

/-! ### Checks of what an instance's steps do (R160, R239, R240, R295, R300) -/

/-- Tensor and view a symbol of an instance is bound to. -/
def boundTensor (p : Package) (i sym : Nat) : Option (Nat × Bool) :=
  (p.binds.find? fun w => decide (bnInst w = i) && decide (bnCls w = 0) && decide (bnSym w = sym)).map fun w => (bnObj w, bnView w)

def boundObj (p : Package) (i cls sym : Nat) : Option Nat :=
  (p.binds.find? fun w => decide (bnInst w = i) && decide (bnCls w = cls) && decide (bnSym w = sym)).map bnObj

/-- The core as instance `i` finds it under a recipe, before any placement. -/
def instView (p : Package) (i rcp dflt : Nat) : InstView :=
  let b : Bake := { pkg := p }
  { core := { recipe := nth {} p.recipes rcp, bind := bindTable b i }
    obj := fun y => (boundTensor p i y).map fun e => 2 * e.1 + (if e.2 then 1 else 0)
    farObj := fun j out => 2 * j + (if out && decide (tnCls (nth 0 p.tensors j) = 2) then 1 else 0)
    size := fun y => match boundTensor p i y with
      | some e => tnSize (nth 0 p.tensors e.1)
      | none => 0
    width := 512
    dflt := dflt }

/-- Steps in issue order, a loop's body twice. -/
def issueOrder : List (W256 × Nat) → List (List Nat) → List Nat → List Nat
  | [], _, a => a
  | (w, i) :: t, st, a =>
    if stOp w = opLoop then issueOrder t ((a ++ [i]) :: st) []
    else if stOp w = opEndloop then
      match st with
      | p :: u => issueOrder t u (p ++ a ++ [i] ++ a ++ [i])
      | [] => issueOrder t [] (a ++ [i])
    else issueOrder t st (a ++ [i])

/-- A read is covered by an earlier write of the instance. -/
def Access.covers (x y : Access) : Bool := decide (x.sym = y.sym) && decide (x.lo ≤ y.lo) && decide (y.hi ≤ x.hi)

/-- Follow the steps: some write meets bytes read before the instance wrote them (R239). A byte that one instance reads and another
writes is none of the rule's: streams and PUTs are such pairs (DEDUCED, log entry 138). -/
def readThenWrite : List (List Access) → List Access → List Access → Bool
  | [], _, _ => false
  | a :: t, written, read =>
    let rd := (a.filter fun x => !x.write && !(written.any fun y => y.covers x)) ++ read
    let wr := a.filter fun x => x.write
    (wr.any fun y => rd.any fun x => x.meets y) || readThenWrite t (wr ++ written) rd

/-- What one recipe of one instance breaks beyond R160: reason and step. -/
def instRule (p : Package) (i : Nat) (v : InstView) : Option (Nat × Nat) :=
  let k := v.core
  let r := k.recipe
  let tens (o : Nat) : W256 := nth 0 p.tensors (o / 2)
  let acc (n : Nat) : List Access := v.accesses n
  let near (n : Nat) : Bool :=
    (usedDescs r (r.step n)).all fun d => match boundTensor p i (dTsym (r.desc d)) with
      | some e => decide (tnHome (nth 0 p.tensors e.1) = 0) && decide (tnOwner (nth 0 p.tensors e.1) = i)
      | none => true
  let step := firstOf r.steps fun n w =>
    let op := stOp w
    (fails [
      (!near n, 0x05),
      ((r.waits n).any fun e => match boundObj p i 1 (sySym e) with
        | some j => let o := nth 0 p.syncs j; decide (soScope o = 0) && decide (soOwner o ≠ i)
        | none => false, 0x05),
      (decide (op = opSend) && (match boundObj p i 2 (mvTgt w) with
        | some j => decide (smXsize (nth 0 p.streams j) ≠ mvRows w * mvRbytes w)
        | none => false), 0x0B),
      ((acc n).any fun a => a.write && decide (a.lo < a.hi) &&
        (let c := tnCls (tens a.sym)
         decide (c = 0) || (decide (c = 3) && decide (op ≠ opDma)) ||
           (decide (c = 2) && decide (a.sym % 2 = 0))), 0x0C)]).map fun c => (c, n)
  let order := issueOrder r.steps.zipIdx [] []
  let free (a : Access) : Bool := decide (tnCls (tens a.sym) = 1) || decide (tnCls (tens a.sym) = 4)
  step.or (if readThenWrite (order.map fun n => (acc n).filter free) [] [] then some (0x0C, 0xFFFF) else none)

/-- All checks of one instance, rec first: a recipe reason or a package reason. -/
def instReject (p : Package) (dflt i : Nat) (w : BitVec 512) : Option Reject :=
  (instRecipes w).findSome? fun r =>
    let v := instView p i r dflt
    match instFault v (fun cls y => (boundObj p i cls y).isSome) (fun t => tnSize (nth 0 p.tensors t)) with
    | some e => some { rcls := 1, reason := e.1, recIx := r, inst := i, step := e.2.1, entry := e.2.2 }
    | none => (instRule p i v).map fun e => { rcls := 2, reason := e.1, recIx := r, inst := i, step := e.2 }

/-- Widest MATMUL of a recipe. -/
def widest (r : Recipe) : Nat := (r.steps.filter fun w => decide (stOp w = opMatmul)).foldl (fun a w => max a (mmNcols w)) 0

/-- Whether alt is used on a core of a width, where the instance fits it (R236). -/
def altOn (p : Package) (w : BitVec 512) (width : Nat) : Option Bool :=
  if widest (nth {} p.recipes (inRec w)) ≤ width then some false
  else if inAlt w ≠ 0xFFFF ∧ widest (nth {} p.recipes (inAlt w)) ≤ width then some true
  else none

/-- Usable cores of a rectangle. -/
def usableIn (s : State) (t : Nat) : List CoreId :=
  match rectOf s t with
  | some r => (rectCores s r).filter (usable s)
  | none => []

/-- The instances fit the usable cores of a rectangle in `n` phases, one to a core and phase. A core that takes an instance takes
every one that a narrower core takes, so it is enough to count (R236, R265). -/
def coresFit (s : State) (p : Package) (t n : Nat) : Bool :=
  let cores := usableIn s t
  let l := p.insts.map fun w => (cores.filter fun c => (altOn p w (width s c)).isSome).length
  l.all fun x => decide ((l.filter fun y => decide (y ≤ x)).length ≤ n * x)

/-- A link port of the package has a usable ring port of its chiplet in the rectangle (R195, R230). -/
def portReached (s : State) (t port : Nat) : Bool :=
  let mask : U64 := BitVec.ofNat 64 (setting s 0x3502 t)
  let sites := match rectOf s t with
    | some r => rectSites s r
    | none => []
  (List.range 64).any fun m => bitAt mask m && decide (bridgeOf m = some (port / 3)) && hasRouter s (portSite m).1 &&
    sites.contains (portSite m).1

/-- First entry of a section that fails, as a package reject. -/
def sectionReject {α : Type} (stype : Nat) (l : List α) (f : Nat → α → Option Nat) : Option Reject :=
  firstOf l fun i w => (f i w).map fun c => pkgReject c stype i

/-- Every load-time check after the rectangle: the first that fails (R160, R243, R244). -/
def packageReject (s : State) (l : List Byte) : Option Reject :=
  let p := readPackage l
  let cores := usableIn s (phTnt p.hdr)
  let head := (headerFault p.hdr).map fun c => pkgReject c 0 0xFFFFFF
  let dir := (dirFault l).map fun e => pkgReject e.1 e.2 0xFFFFFF
  let recipes := firstOf (recipesOf l) fun i e =>
    if e.2.any (· != 0) then some { pkgReject 2 1 i with recIx := i }
    else (recipeFaultOf e.1 (recipeCounts e.1.hdr)).map fun f =>
      ({ rcls := 1, reason := f.1, recIx := i, step := f.2.1, entry := f.2.2 } : Reject)
  let rows := (sectionReject 2 p.insts fun _ w => instRowFault p w).or <|
    (sectionReject 4 p.tensors (tensorFault p)).or <|
    (sectionReject 6 p.syncs fun _ w => syncFault p w).or <|
    (sectionReject 7 p.dmas fun _ w => dmaFault p w).or <|
    (sectionReject 5 p.streams fun _ w => streamFault p w).or <|
    (sectionReject 3 p.binds fun _ w => bindFault p w).or <|
    ((boundTwice p).map fun i => pkgReject 5 3 i)
  let limits := (firstOf p.insts fun i _ => (instLimits p i).map fun c => { pkgReject c 2 i with inst := i }).or
    (if 4096 < (p.syncs.filter fun w => decide (soScope w = 1)).length then some (pkgReject 8 6 0xFFFFFF) else none)
  let insts := firstOf p.insts (instReject p (setting s 0x3101 1))
  let fit := firstOf p.insts fun i w =>
    if cores.all fun c => (altOn p w (width s c)).isNone then some { pkgReject 0x0D 2 i with inst := i } else none
  let room := if coresFit s p (phTnt p.hdr) (phMaxph p.hdr) then none else some (pkgReject 7 0 0xFFFFFF)
  let ports := sectionReject 5 p.streams fun _ w => if smLnk w && !portReached s (phTnt p.hdr) (smPort w) then some 9 else none
  head.or <| dir.or <| recipes.or <| rows.or <| limits.or <| insts.or <| fit.or <| room.or ports

end Sys2Proof.Machine
end

