-- ==== Sys2Proof/Machine/BakeOps.lean ====
section
/-! DEFINITION. What the Baker cores do to a bake as a whole: statistics and delayed scaling (R113 to R117, R254), the
epoch fence (R259), putting a placement in force (R245 to R250), moving a bake's tensors (R260, R263, R266), and the checks
and banks that a commit starts (R457 to R467). -/

namespace Sys2Proof.Machine

/-! ### Statistics slots of a bake (R114 to R117, R254, R457) -/

/-- Output descriptors of a recipe: of its MATMULs and VECTOR steps, in step order. -/
def outDescs (r : Recipe) : List W256 :=
  r.steps.filterMap fun w =>
    if stOp w = opMatmul then some (r.desc (mmDy w)) else if stOp w = opVector then some (r.desc (vcDd w)) else none

/-- Every instance of a bake with its core and recipe. -/
def bakeInsts (b : Bake) : List (Nat × CoreId × Recipe) :=
  (List.range b.pkg.insts.length).map fun i => (i, instCore b i, instRecipe b i)

/-- Producers of a tensor: instance, core, and the descriptor that writes it. -/
def producers (b : Bake) (j : Nat) : List (Nat × CoreId × W256) :=
  (bakeInsts b).flatMap fun e =>
    ((outDescs e.2.2).filter fun d => (bindings b e.1 0).any fun w => decide (bnSym w = dTsym d) && decide (bnObj w = j)).map
      fun d => (e.1, e.2.1, d)

/-- Producing cores of a tensor with the slots they count in, each once. -/
def tensorSlots (b : Bake) (j : Nat) : List (CoreId × Nat) := ((producers b j).map fun e => (e.2.1, dSlot e.2.2)).dedup

def slotOf (s : State) (c : CoreId) (n : Nat) : StatSlot := mget {} (s.core c).live.slots n

/-- sat, nan and range counts of a slot. -/
def slotCounts (s : State) (c : CoreId) (n : Nat) : Nat × Nat × Nat :=
  let t := slotOf s c n
  (t.sat.toNat, t.nan.toNat, t.range.toNat)

/-- Counts a tensor gained since the bake's baseline, over its producing cores (R254, R459). -/
def gains (s : State) (b : Bake) (j : Nat) : Nat × Nat × Nat :=
  (tensorSlots b j).foldl
    (fun a e =>
      let x := slotCounts s e.1 e.2
      let y := mget (0, 0, 0) b.baseline (16 * e.1 + e.2)
      (a.1 + (x.1 - y.1), a.2.1 + (x.2.1 - y.2.1), a.2.2 + (x.2.2 - y.2.2))) (0, 0, 0)

/-- Tensors that have a statistics slot. -/
def countedTensors (b : Bake) : List Nat := (List.range b.pkg.tensors.length).filter fun j => !(producers b j).isEmpty

/-- A new baseline: the counts as they stand. -/
def newBaseline (s : State) (b : Nat) : State :=
  let k := s.bake b
  let l := ((bakeInsts k).flatMap fun e => (outDescs e.2.2).map fun d => (e.2.1, dSlot d)).dedup
  s.modBake b fun q => { q with baseline := l.foldl (fun m e => mset (0, 0, 0) m (16 * e.1 + e.2) (slotCounts s e.1 e.2)) [] }

def TensorStat.add (t : TensorStat) (committed : Bool) (g : Nat × Nat × Nat) : TensorStat :=
  let n (x : U32) (k : Nat) : U32 := x + BitVec.ofNat 32 k
  if committed then { t with sat := n t.sat g.1, nan := n t.nan g.2.1, range := n t.range g.2.2 }
  else { t with aSat := n t.aSat g.1, aNan := n t.aNan g.2.1, aRange := n t.aRange g.2.2 }

/-- Add the gains of every counted tensor to 0x3419.b, to the committed or the abandoned totals (R254). -/
def takeGains (s : State) (b : Nat) (committed : Bool) : State :=
  let k := s.bake b
  newBaseline
    (s.modBake b fun q =>
      { q with tstats := (countedTensors k).foldl (fun m j => mmod {} m j fun t => t.add committed (gains s k j)) q.tstats }) b

/-- Set the amax register of every slot the bake's cores count in to 0 (R114). -/
def clearAmax (s : State) (b : Nat) : State :=
  (bakeCores (s.bake b)).foldl
    (fun t c => t.modCore c fun k => k.modLive fun l => { l with slots := l.slots.map fun e => (e.1, { e.2 with amax := 0 }) }) s

/-- History length and margin of a descriptor (R113, R129, R141). -/
def histOf (b : Bake) (d : W256) : Nat := if dHist d = 0 then b.defaults.2.1 else dHist d
def margOf (b : Bake) (d : W256) : Nat := if dMarg d = 15 then b.defaults.2.2.1 else dMarg d

/-- The scale that follows from a history maximum: `min(max(RU32(A/Qmax)·2^m, 2⁻¹²⁶), 0x7F7F_FFFF)` (R114). -/
def nextScale (fmt m : Nat) (a : F32) (s : F32) : F32 :=
  if (fv32 a).isZero then s
  else
    let x := (fv32 (ru32 ((fv32 a).div (qmaxValue fmt)))).mul (.fin false (2 ^ m) 0)
    if x.lt (fv32 0x00800000) then 0x00800000 else if (fv32 0x7F7FFFFF).lt x then 0x7F7FFFFF else rn32 x

/-- One slot at a commit: the tensor's maximum joins the history and the scale follows (R114). -/
def StatSlot.commit (t : StatSlot) (h m fmt : Nat) (amax : F32) : StatSlot :=
  let hist := t.hist ++ [amax]
  let hist := hist.drop (hist.length - h)
  { t with hist := hist, scale := nextScale fmt m (hist.foldl maxF32 0) t.scale }

/-- Delayed scaling at a commit: for each tensor the first descriptor that writes it with dsc governs (R114, R115). -/
def delayedScaling (s : State) (b : Nat) : State :=
  let k := s.bake b
  let one (t : State) (j : Nat) : State :=
    let p := (producers k j).filter fun e => dDsc e.2.2
    match p with
    | [] => t
    | (_, _, d) :: _ =>
      let l := (p.map fun e => (e.2.1, dSlot e.2.2)).dedup
      let amax := l.foldl (fun a e => maxF32 a (slotOf s e.1 e.2).amax) 0
      l.foldl (fun t e => t.modCore e.1 fun q => q.modLive fun v => v.modSlot e.2 fun x =>
        x.commit (histOf k d) (margOf k d) (dFmt d) amax) t
  clearAmax ((List.range k.pkg.tensors.length).foldl one s) b

/-- A cleared slot: no counts and no history, and the scale of the descriptor that names it, s_init under delayed scaling (R114,
R116, R117). -/
def freshSlot (d : W256) : StatSlot := { scale := if dSmode d = 1 then dScale d else 0 }

/-- Write slots for the output descriptors of a bake's instances; of two descriptors with one slot the first decides. -/
def putSlots (s : State) (b : Nat) (f : Nat → CoreId → W256 → Option StatSlot) : State :=
  (bakeInsts (s.bake b)).foldl
    (fun t e => (outDescs e.2.2).reverse.foldl
      (fun t d => match f e.1 e.2.1 d with
        | some x => t.modCore e.2.1 fun q => q.modLive fun v => v.modSlot (dSlot d) fun _ => x
        | none => t) t) s

/-- Clear the slots that a bake names, as at its load, and start its delayed scales from the descriptors (R114, R117). -/
def clearSlots (s : State) (b : Nat) : State := putSlots s b fun _ _ d => some (freshSlot d)

/-- A slot outside some cores that holds the history of the tensor an instance's descriptor writes. -/
def donorSlot (s : State) (k : Bake) (l : List CoreId) (i : Nat) (d : W256) : Option StatSlot :=
  ((bindings k i 0).find? fun w => decide (bnSym w = dTsym d)).bind fun w =>
    (((producers k (bnObj w)).filter fun e => dDsc e.2.2 && !l.contains e.2.1).head?).map fun e => slotOf s e.2.1 (dSlot e.2.2)

/-- Slots of cores that a reset has cleared: under delayed scaling they take history and scale from a producing core outside the
reset, so that R115 holds, and without one they start as at the bake's load (DESIGN CHOICE, log entry 139). -/
def refillSlots (s : State) (b : Nat) (l : List CoreId) : State :=
  putSlots s b fun i c d =>
    if !l.contains c then none
    else if dDsc d then some (match donorSlot s (s.bake b) l i d with
      | some x => { freshSlot d with hist := x.hist, scale := x.scale }
      | none => freshSlot d)
    else some (freshSlot d)

/-! ### Check tables (R457 to R459) -/

/-- The 64 entries of 0x6010.b; none before the table is written. -/
def checkTable (s : State) (b : Nat) : List W256 :=
  let l := domainOf s 0x6010 b
  (chunks 32 64 l).map fun e => BitVec.ofNat 256 (ofLe e)

def ckTensor (w : W256) : Nat := fld w 255 240
def ckAction (w : W256) : Nat := fld w 239 232
def ckNan (w : W256) : Nat := fld w 223 192
def ckSat (w : W256) : Nat := fld w 191 160
def ckRange (w : W256) : Nat := fld w 159 128
def ckLow (w : W256) : F32 := BitVec.ofNat 32 (fld w 127 96)
def ckHigh (w : W256) : F32 := BitVec.ofNat 32 (fld w 95 64)

/-- Every entry unused again: the slot is emptied (R458). -/
def clearTable (s : State) (b : Nat) : State :=
  s.modDict fun d => { d with domain := mset [] d.domain (dkey 0x6010 b) [] }

/-- Entries in use. -/
def checkEntries (s : State) (b : Nat) : List W256 := (checkTable s b).filter fun w => decide (ckTensor w ≠ 0xFFFF)

/-- Write the bounds of the check table into the slots of the producing cores, −∞ and +∞ where a tensor has no entry
(R116, R457). -/
def writeBounds (s : State) (b : Nat) : State :=
  let k := s.bake b
  let put (t : State) (j : Nat) (lo hi : F32) : State :=
    (tensorSlots k j).foldl (fun t e => t.modCore e.1 fun q => q.modLive fun v => v.modSlot e.2 fun x =>
      { x with low := lo, high := hi }) t
  let t := (countedTensors k).foldl (fun t j => put t j 0xFF800000 0x7F800000) s
  (checkEntries s b).foldl (fun t w => put t (ckTensor w) (ckLow w) (ckHigh w)) t

/-- A gain above its threshold; 0xFFFF_FFFF is never exceeded. -/
def exceeds (gain thr : Nat) : Bool := decide (thr ≠ 0xFFFFFFFF) && decide (thr < gain)

/-- An entry whose tensor gained more than it allows in this attempt (R459). -/
def entryTrips (s : State) (b : Nat) (w : W256) : Bool :=
  let g := gains s (s.bake b) (ckTensor w)
  exceeds g.1 (ckSat w) || exceeds g.2.1 (ckNan w) || exceeds g.2.2 (ckRange w)

/-! ### The epoch fence (R259) -/

/-- The epoch counter may advance: once every 4,096 Flue cycles at most (R252). -/
def epochFree (s : State) : Bool :=
  match s.baker.epochAt with
  | none => true
  | some a => decide (a + 4096 ≤ s.flue.cycle)

/-- Cores of the rectangle of a tenant. -/
def tenantCores (s : State) (t : Nat) : List CoreId :=
  match rectOf s t with
  | some r => rectCores s r
  | none => []

/-- Write an epoch and a tenant ID to every router island and router of a rectangle. -/
def writeEpoch (s : State) (t : Nat) (e : U32) : State :=
  (tenantCores s t).foldl
    (fun u c =>
      let u := u.modCore c fun k => k.modIsland fun r => { r with tenant := BitVec.ofNat 8 t, epoch := e }
      match siteOf u c with
      | some p => u.modRouter p fun r =>
          { r with
            sched := { r.sched with tenant := BitVec.ofNat 8 t, epoch := e }
            staged := r.staged.map fun h => { h with tenant := BitVec.ofNat 8 t, epoch := e } }
      | none => u) s

/-- Crumbs of the old epoch that the bake's cores hold are counted at 0x3255.s and dropped (R259). -/
def dropCrumbs (s : State) (b : Nat) : State :=
  let old (r : Crumb) : Bool := decide (r.epoch = (s.bake b).epoch)
  (bakeCores (s.bake b)).foldl
    (fun t c => t.modCore c fun k =>
      (k.modLive fun l => { l with crumbsOld := l.crumbsOld + BitVec.ofNat 32 (k.sync.held.filter old).length }).modSync fun y =>
        { y with held := y.held.filter fun r => !old r }) s

/-- A descriptor that a fence leaves alone: bank copies run on (log entry 47). -/
def keptDma (d : DmaDesc) : Bool :=
  match d.use with
  | .bank _ => true
  | .hostCopy _ => true
  | _ => false

/-- Free the descriptors of a bake; a parked fault is withdrawn (R302). -/
def dropDmas (s : State) (b : Nat) : State := s.modDmas fun l => l.filter fun d => decide (d.slot ≠ b) || keptDma d

/-- Channels of a bake at a fence: a send channel's xseq returns to its value at the last commit, and a frame half packed goes, with
the stop bit that its sender loses; a receive channel signals again what it received since the last commit (R344, R348). -/
def fenceLinks (s : State) (b : Nat) : State :=
  let k := s.bake b
  let back (e : Nat × Channel5) : Nat × Channel5 :=
    if ceBake e.2.ent = b ∧ ceDir e.2.ent = 1 then
      (e.1, { e.2 with xseq := e.2.xseqC, held := e.2.held - 8 * e.2.pack.length, pack := [], packPm := [], packed := 0, stopped := false })
    else e
  let t := { s with links := { s.links with chans := s.links.chans.map back } }
  k.linkRecv.foldl
    (fun t e =>
      let w := (t.channel e.1).ent
      if ceDir w = 2 ∧ ceBake w = b then
        signalObj t ⟨hwSync k (ceRsync w), false, BitVec.ofNat 32 (ceAmt w * e.2), k.epoch⟩
      else t) t

/-- Abandon the current step of a bake under a new epoch; 0x3416.b counts it (R254, R259, R302). -/
def abandon (s : State) (b : Nat) : State :=
  let x := takeEpoch (dropCrumbs (takeGains s b false) b)
  let e := x.1
  let s := clearAmax (x.2.modBake b fun k =>
    { k with
      epoch := e, committing := false, begun := false, preempted := false, noRoute := false, absorbed := false, carried := [],
      waitFrom := none, filling := false, fenced := k.fenced + 1 }) b
  let s := dropDmas (installPhase s b (s.bake b).phase) b
  fenceLinks (initSyncs (writeEpoch s (s.bake b).tenant.toNat e) b) b

/-- A fence with its counts: the item's fences and last reason, its acceptance record back to ACCEPTED, and the
event (R259, R262, R280, R472). `counts` is false for a fence that a requested reset causes (R444). -/
def fence (s : State) (b reason : Nat) (counts : Bool) : State :=
  let k := s.bake b
  let t := abandon s b
  let t := t.modBake b fun q => { q with reason := BitVec.ofNat 8 reason }
  let t := match k.item with
    | none => t
    | some i =>
      let t := modItem t k.ring i fun x =>
        { x with fences := x.fences + 1, reason := BitVec.ofNat 8 reason, epoch := 0, state := 1,
                 uncounted := x.uncounted + (if counts then 0 else 1) }
      if (runItem s b).any (fun x => x.state == 2) then writeAccept t k.ring i else t
  raiseS t 0x3416 b 2 reason

/-! ### Moving a bake's tensors (R260, R263, R266, R444) -/

/-- Tensors of home 0x0 whose committed bytes go with the bake: CONST, STATE and INPUT; without the ones that ldma
fills again when `refill`. -/
def carriedTensor (refill : Bool) (t : W256) : Bool :=
  homePad t && (isState t || ((decide (tnCls t = 0) || decide (tnCls t = 3)) && !(refill && decide (tnLdma t ≠ 0xFFFF))))

/-- Committed words of the tensors that go with the bake, and both views of its stack tensors. -/
def gather (s : State) (b : Nat) (refill : Bool) : List (Nat × Bool × List (U64 × Bool)) × State :=
  let views := (tensorsOf (s.bake b)).flatMap fun e =>
    if carriedTensor refill e.2 then [(e.1, false)]
    else if tnHome e.2 = 1 then (if isState e.2 then [(e.1, false), (e.1, true)] else [(e.1, false)])
    else []
  views.foldl (fun a v => let r := viewWords a.2 b v.1 v.2; (a.1 ++ [(v.1, v.2, r.1)], r.2)) ([], s)

/-- Write gathered words where the placement in force has them. -/
def scatter (s : State) (b : Nat) (l : List (Nat × Bool × List (U64 × Bool))) : State :=
  l.foldl
    (fun t e => e.2.2.zipIdx.foldl (fun t w => copyWrite t b (tensorSide (t.bake b) e.1 e.2.1 (8 * w.2)) w.1) t) s

/-- Copy a whole view of a tensor between two places. -/
def copyView (s : State) (b j : Nat) (src dst : Nat → Side) : State := copyBytes s b (tnSize (tensorRow (s.bake b) j)) src dst

/-- The slots that the bake's instances use, by instance and slot (R115). -/
def gatherSlots (s : State) (b : Nat) : List (Nat × Nat × StatSlot) :=
  (bakeInsts (s.bake b)).flatMap fun e => ((outDescs e.2.2).map dSlot).dedup.map fun n => (e.1, n, slotOf s e.2.1 n)

/-- Put them on the cores in force: the counts go on, as they count since the bake was loaded (R117). -/
def scatterSlots (s : State) (b : Nat) (l : List (Nat × Nat × StatSlot)) : State :=
  l.foldl
    (fun t e => t.modCore (instCore (t.bake b) e.1) fun q => q.modLive fun v => v.modSlot e.2.1 fun _ =>
      { e.2.2 with amax := 0 }) s

/-! ### Placement (R245 to R250, R265) -/

/-- Flits per step of a stream (R248). -/
def streamFlits (w : BitVec 128) : Nat := smNxfer w * ceilDiv (smXsize w) 128

/-- No two entries of a list are equal. -/
def distinct {α : Type} [DecidableEq α] (l : List α) : Bool := decide (l.dedup.length = l.length)

/-- Views of the scratchpad tensors of an instance: address and size. -/
def padViews (k : Package) (p : Placement) (i : Nat) : List (Nat × Nat) :=
  k.tensors.zipIdx.flatMap fun e =>
    if homePad e.1 && decide (tnOwner e.1 = i) then
      let a := nth (0, 0) p.tensors e.2
      if isState e.1 then [(a.1, tnSize e.1), (a.2, tnSize e.1)] else [(a.1, tnSize e.1)]
    else []

/-- Global objects that the other bakes hold. -/
def globalsInUse (s : State) (b : Nat) : List Nat :=
  s.baker.slots.flatMap fun e => if e.1 = b then [] else ((e.2.place.map (·.syncs)).getD []).filter fun n => decide (0xF000 ≤ n)

/-- Instances of a placement: one usable core of the rectangle each per phase, with the recipe that fits it, in no more phases than
the cores force; the slots of streams may force more (R236, R246, R265; log entry 145). -/
def instsOk (s : State) (k : Package) (t maxph : Nat) (p : Placement) : Bool :=
  let cores := usableIn s t
  decide (p.insts.length = k.insts.length) && decide (1 ≤ p.phases) && decide (p.phases ≤ maxph) &&
    (decide (p.phases = 1) || !coresFit s k t (p.phases - 1) || !k.streams.isEmpty) &&
    distinct (p.insts.map fun e => (e.1, e.2.1)) &&
    (p.insts.zip k.insts).all fun e =>
      cores.contains e.1.1 && decide (1 ≤ e.1.2.1) && decide (e.1.2.1 ≤ p.phases) &&
        decide (altOn k e.2 (width s e.1.1) = some e.1.2.2)

/-- Scratchpad addresses of an instance: whole words inside 12 MiB, no view on another (R142, R242). -/
def viewsOk (l : List (Nat × Nat)) : Bool :=
  (l.all fun e => decide (e.1 % 8 = 0) && decide (e.1 + e.2 ≤ 12582912)) &&
    (laterPairs l).all fun e => decide (e.1.1 + e.1.2 ≤ e.2.1) || decide (e.2.1 + e.2.2 ≤ e.1.1)

/-- Core and phase a placement gives an instance. -/
def placedCore (p : Placement) (i : Nat) : CoreId := (nth (0, 0, false) p.insts i).1
def placedPhase (p : Placement) (i : Nat) : Nat := (nth (0, 0, false) p.insts i).2.1

/-- Hardware sync objects: of the owner's core or global; one object serves two entries only where their owners run in different
phases (R265, R293). -/
def syncsOk (s : State) (b : Nat) (k : Package) (p : Placement) : Bool :=
  let used := globalsInUse s b
  let l := p.syncs.zip k.syncs
  decide (p.syncs.length = k.syncs.length) &&
    distinct (l.map fun e => (e.1, if soScope e.2 = 0 then placedPhase p (soOwner e.2) else 0)) &&
    l.all fun e =>
      if soScope e.2 = 0 then decide (e.1 / 256 = placedCore p (soOwner e.2)) && decide (e.1 < 0xF000)
      else decide (0xF000 ≤ e.1) && decide (e.1 < 0x10000) && !used.contains e.1

/-- A stream whose receiver runs in a later phase than its sender goes through the memory stacks (R266). -/
def laterPhase (p : Placement) (r : BitVec 128) : Bool := !smLnk r && decide (placedPhase p (smSnd r) < placedPhase p (smRcv r))

/-- Entry of the placed table of a router for phase `ph` and slot index `i`. -/
def placedEntry (p : Placement) (site : Site) (ph i : Nat) : U32 :=
  match p.tables.find? fun e => decide (e.1 = site) with
  | some e => nth idleEntry e.2 ((ph - 1) * p.period + i)
  | none => idleEntry

/-- Where the placed tables take a flit that reaches a router's input in slot `i`, `n` cycles after its injection: ends and the
latency of R219 to each; 512 is no end. -/
def traceFlit (s : State) (p : Placement) (ph : Nat) : Nat → Site → Dir → Nat → Nat → List (Nat × Nat)
  | 0, _, _, _, _ => [(512, 0)]
  | f + 1, site, inp, i, n =>
    let w := placedEntry p site ph (i % p.period)
    let outs := [Dir.n, .s, .e, .w, .loc].filter fun o => decide (teKind w = 0) && decide (srcDir (teSrc w o) = some inp)
    if outs.isEmpty then [(512, n)]
    else outs.flatMap fun o =>
      if o = .loc then [(site, n + 2)]
      else match ringPort site o with
        | some m => [(256 + m, n + 3)]
        | none => match linkTo s site o with
          | some (q, x) => traceFlit s p ph f q (opposite o) (i + 1 + x) (n + 1 + x)
          | none => [(512, n)]

/-- The injection slots that the placed table of a router gives a send stream, each with the ends of its flit (R209, R219). -/
def tracesOf (s : State) (p : Placement) (ph : Nat) (site : Site) (n : Nat) : List (List (Nat × Nat)) :=
  (List.range p.period).filterMap fun i =>
    let w := placedEntry p site ph i
    let outs := dirs4.filter fun o => decide (teKind w = 0) && decide (teSrc w o = 4) && decide (teStr w = n)
    if outs.isEmpty then none
    else some (outs.flatMap fun o =>
      match ringPort site o with
      | some m => [(256 + m, 4)]
      | none => match linkTo s site o with
        | some (q, x) => traceFlit s p ph 64 q (opposite o) (i + 2 + x) (2 + x)
        | none => [(512, 0)])

/-- The end of a stream's route: its receiver's site, or a ring port of the chiplet that carries its link port (R195, R230). -/
def rightEnd (s : State) (p : Placement) (r : BitVec 128) (e : Nat) : Bool :=
  if smLnk r then decide (256 ≤ e) && decide (bridgeOf (e - 256) = some (smPort r / 3))
  else decide (siteOf s (placedCore p (smRcv r)) = some e)

/-- A stream that stays in its phase: every slot of its send stream leads to its end alone and in the cycles the placement names,
at most 63 with the crossings at both ends, and there are as many as R248 asks for (R218, R219, R246). -/
def routeOk (s : State) (p : Placement) (e : StreamPlace) (r : BitVec 128) : Bool :=
  let c := placedCore p (smSnd r)
  let l := tracesOf s p (placedPhase p (smSnd r)) ((siteOf s c).getD 512) e.sendNo
  let cross := (crossingOf s c).1 + (if smLnk r then 0 else (crossingOf s (placedCore p (smRcv r))).2)
  decide (l.length = e.slots) && decide (ceilDiv (streamFlits r * p.period) (max 1 p.tplan) ≤ e.slots) &&
    decide (e.cycles + cross ≤ 63) &&
    l.all fun x => match x with
      | [y] => rightEnd s p r y.1 && decide (y.2 = e.cycles)
      | _ => false

/-- Streams: their numbers, their routes and slots in the placed tables, and the order of phases (R211, R245, R246, R248, R265). -/
def streamsOk (s : State) (k : Package) (p : Placement) : Bool :=
  let l := p.streams.zip k.streams
  decide (p.streams.length = k.streams.length) && distinct (l.map fun e => (smSnd e.2, e.1.sendNo)) &&
    distinct (l.map fun e => if smLnk e.2 then (1024 + smPort e.2 / 3, e.1.recvNo) else (smRcv e.2, e.1.recvNo)) &&
    l.all fun e =>
      decide (e.1.sendNo < 256) && decide (e.1.recvNo < 256) && (laterPhase p e.2 || routeOk s p e.1 e.2) &&
        (smLnk e.2 || decide (placedPhase p (smSnd e.2) ≤ placedPhase p (smRcv e.2)))

/-- Ports of a router that its rectangle marks: N, S, E, W, ring (R229, R255). -/
def boundaryMask (s : State) (t : Nat) (p : Site) : BitVec 5 :=
  let sites := match rectOf s t with
    | some r => rectSites s r
    | none => []
  let mark (d : Dir) : Nat :=
    match ringPort p d with
    | some _ => 0
    | none => match linkTo s p d with
      | some (q, _) => if sites.contains q then 0 else 2 ^ dirCode d
      | none => match nextSite p d with
        | some q => if sites.contains q then 0 else 2 ^ dirCode d
        | none => 2 ^ dirCode d
  let ring := dirs4.findSome? (ringPort p)
  let m : U64 := BitVec.ofNat 64 (setting s 0x3502 t)
  let rb := match ring with
    | some r => if bitAt m r && (bridgeOf r).isSome then 0 else 16
    | none => 16
  BitVec.ofNat 5 (mark .n + mark .s + mark .e + mark .w + rb)

/-- Routers of a rectangle. -/
def tenantRouters (s : State) (t : Nat) : List Site := (tenantCores s t).filterMap fun c =>
  (siteOf s c).bind fun p => if hasRouter s p then some p else none

/-- Schedule of phase `ph` at a router (R201, R206). -/
def phaseSched (s : State) (t : Nat) (e : U32) (p : Placement) (ph c0 : Nat) (site : Site) : Schedule :=
  { period := p.period, base := p.base + (ph - 1) * p.period, c0 := c0, tenant := BitVec.ofNat 8 t, mask := boundaryMask s t site,
    density := p.density, epoch := e }

/-- A placement's table of a router with the places of its entries in the router's memory. -/
def tableAt (p : Placement) (site : Site) : List (Nat × U32) :=
  match p.tables.find? fun e => decide (e.1 = site) with
  | some e => e.2.zipIdx.map fun w => (p.base + w.2, w.1)
  | none => []

def writeEntries (m : SMap U32) (l : List (Nat × U32)) : SMap U32 := l.foldl (fun m e => mset idleEntry m e.1 e.2) m

/-- One router takes a schedule with the entries that go with it. Without a schedule in force it takes it at once; else it
switches at the schedule's start cycle, injecting nothing before, and where the entries overlap the schedule in force they are
written from the switch cycle on (R206, R207). -/
def Router.stage (r : Router) (h : Schedule) (lo n : Nat) (l : List (Nat × U32)) : Router :=
  if r.sched.period = 0 then { r with table := writeEntries r.table l, sched := h, staged := none, rewrite := [], hold := false }
  else if regionsMeet lo n r.sched.base r.sched.period then { r with staged := some h, rewrite := l, hold := true }
  else { r with table := writeEntries r.table l, staged := some h, rewrite := [], hold := true }

/-- The schedule of a phase is put in force at every router of the rectangle, for cycle `c0`; the tables are written with
phase 1 of a new placement (R206, R207, R266). -/
def putSchedule (s : State) (t : Nat) (e : U32) (p : Placement) (ph c0 : Nat) (write : Bool) : State :=
  if p.period = 0 then s
  else (tenantRouters s t).foldl
    (fun u site => u.modRouter site fun r =>
      let h := phaseSched s t e p ph c0 site
      if write then r.stage h p.base (p.phases * p.period) (tableAt p site) else r.stage h h.base h.period []) s

/-- Slot indices of kind 0x2 of a phase at a router. -/
def localIndices (p : Placement) (site : Site) (ph : Nat) : List Nat :=
  (List.range p.period).filter fun i => decide (teKind (placedEntry p site ph i) = 2)

/-- The local rotation of a placement: density 1, 2, 4 or 8 entries of kind 0x2 in every 16, at the same indices in every router,
or none (R227). -/
def localOk (p : Placement) (sites : List Site) : Bool :=
  decide (p.density = 0 ∨ p.density = 1 ∨ p.density = 2 ∨ p.density = 4 ∨ p.density = 8) &&
    (List.range p.phases).all fun n =>
      let l := localIndices p (sites.headD 0) (n + 1)
      (sites.all fun x => decide (localIndices p x (n + 1) = l)) &&
        (List.range (p.period / 16)).all fun w => decide ((l.filter fun i => decide (i / 16 = w)).length = p.density)

/-- Every router of the rectangle gets its table; every schedule of the placement is accepted by R206 and uses no lost direction
(R18); its switch cycle lies on a period boundary of the schedule in force, behind what that still injects (R207); or the bake has
no scheduled stream. -/
def schedulesOk (s : State) (t : Nat) (p : Placement) : Bool :=
  let sites := tenantRouters s t
  decide (p.period = 0) ||
    (decide (s.flue.cycle ≤ p.c0) && decide (p.c0 % 64 = 0) && localOk p sites &&
      sites.all fun site =>
        let r := s.router site
        let l := tableAt p site
        let u := s.modRouter site fun r => { r with table := writeEntries r.table l, sched := { r.sched with period := 0 } }
        decide (l.length = p.phases * p.period) && switchCycle r.sched s.flue.cycle p.c0 &&
          (decide (r.sched.period = 0) || decide (s.flue.cycle + longestOf s r.sched.epoch ≤ p.c0)) &&
          (l.all fun e => !s.flue.lostDirs.any fun key => entryUses site key e.2) &&
          (List.range p.phases).all fun n => scheduleOk u site (phaseSched s t 0 p (n + 1) p.c0 site))

/-! ### Room in the memory stacks (R314, R319, R321) -/

/-- Channels of tensor `j` of a bake. -/
def tensorChans (k : Bake) (j : Nat) : List (Nat × Nat × Nat) :=
  ((((k.place.map (·.stackCh)).getD []).find? fun x => decide (x.1 = j)).map (·.2)).getD []

/-- Bytes that entry `i` of a list of `k` channels holds of `n` bytes (R314). -/
def shareOf (n k i : Nat) : Nat := 4096 * ceilDiv (ceilDiv n 4096 - i) (max 1 k)

/-- The four areas of a bake with their bytes: base and length. -/
def areasOf (k : Bake) : List (Nat × Nat) :=
  match k.place with
  | none => []
  | some p =>
    let all := k.pkg.tensors.length
    let bank := areaOff k (fun t => isState t && decide (tnHome t ≤ 1)) (fun _ => 1) all
    [(p.spill, areaOff k (fun t => isState t && homePad t) (fun _ => 1) all), (p.bankA, bank), (p.bankB, bank),
      (p.phaseArea, if p.phases ≤ 1 then 0 else areaOff k homePad (fun t => if isState t then 2 else 1) all)]

/-- What a bake takes of the stacks: first address and bytes of every share of its tensors and areas. -/
def extents (k : Bake) : List (Nat × Nat) :=
  let tens := (tensorsOf k).flatMap fun e =>
    let l := tensorChans k e.1
    l.zipIdx.flatMap fun c =>
      let n := shareOf (tnSize e.2) l.length c.2
      let one := [(2 ^ 31 * c.1.1 + c.1.2.1, n)]
      if isState e.2 then one ++ [(2 ^ 31 * c.1.1 + c.1.2.2, n)] else one
  let areas : List (Nat × Nat) := (k.place.map (·.areaCh)).getD []
  (tens ++ areas.zipIdx.flatMap fun (c : (Nat × Nat) × Nat) => (areasOf k).map fun (a : Nat × Nat) =>
    (2 ^ 31 * c.1.1 + c.1.2 + a.1, shareOf a.2 areas.length c.2)).filter fun e => decide (e.2 ≠ 0)

/-- Two stretches of the stacks share no byte. -/
def apart (a b : Nat × Nat) : Bool := decide (a.1 + a.2 ≤ b.1) || decide (b.1 + b.2 ≤ a.1)

/-- A placement's tensors and areas lie on channels in service, each share inside its channel, outside the kept region and the
paging pool, and on nothing of its own or of another bake (R309, R314, R319, R321). -/
def roomOk (s : State) (b : Nat) (k : Bake) : Bool :=
  let l := extents k
  let others := s.baker.slots.flatMap fun e => if e.1 = b then [] else extents e.2
  let kept := (List.range 20).map fun i => (2 ^ 31 * (32 * i + 31), 268435456)
  let pool := (setting s 0x5102 2, 4096 * setting s 0x5102 3)
  (l.all fun e => decide (e.1 / 2 ^ 31 < 640) && chanServes s (e.1 / 2 ^ 31) && decide (e.1 % 2 ^ 31 + e.2 ≤ chanSize) &&
    ((pool :: kept) ++ others).all (apart e)) && (laterPairs l).all fun e => apart e.1 e.2

/-- A placement that R245 and R246 allow for package `k` in rectangle `t`. -/
def placementOk (s : State) (b t maxph : Nat) (k : Package) (p : Placement) : Bool :=
  instsOk s k t maxph p && decide (p.tensors.length = k.tensors.length) &&
    ((List.range k.insts.length).all fun i => viewsOk (padViews k p i)) && syncsOk s b k p &&
    ((k.tensors.zipIdx.filter fun e => decide (tnHome e.1 = 1)).all fun e =>
      p.stackCh.any fun x => decide (x.1 = e.2) && !x.2.isEmpty) &&
    roomOk s b { s.bake b with pkg := k, place := some p } && schedulesOk s t p && streamsOk s k p

/-- Fill requests: one row of the tensor's size for each tensor with an ldma template that a test picks (R238, R300). -/
def requestFills (s : State) (b : Nat) (pick : Nat → Bool) : State :=
  let k := s.bake b
  (tensorsOf k).foldl
    (fun t e =>
      if tnLdma e.2 ≠ 0xFFFF ∧ pick e.1 = true then
        let m := nth 0 k.pkg.dmas (tnLdma e.2)
        let far : Side := if dmSpace m = 2 then
            .host (((k.loadIo.find? fun x => decide (x.1 = dmTens m)).map (·.2)).getD 0 + dmOff m)
          else .tens (dmTens m) false (dmOff m)
        requestWhole t (.load e.1) b (tnSize e.2) far (tensorSide k e.1 false 0)
      else t) s

/-- Put a placement on the die under the bake's epoch: tables and schedules, instances of phase 1, sync objects. -/
def install (s : State) (b : Nat) (p : Placement) : State :=
  let t := (s.bake b).tenant.toNat
  let s := s.modBake b fun k =>
    { k with place := some p, phase := 1, begun := false, carried := [], nextPlace := none,
             longest := p.streams.foldl (fun a e => max a e.cycles) 0 }
  let e := (s.bake b).epoch
  let s := putSchedule s t e p 1 p.c0 true
  initSyncs (installPhase (writeEpoch s t e) b 1) b

/-- Request the fills a test picks; with none the load or re-placement is done. -/
def beginFills (s : State) (b : Nat) (pick : W256 → Bool) : State :=
  let t := requestFills (s.modBake b fun k => { k with filling := true }) b fun j => pick (tensorRow (s.bake b) j)
  if (tensorsOf (s.bake b)).any fun e => decide (tnLdma e.2 ≠ 0xFFFF) && pick e.2 then t else fillsDone t b

/-! ### The placement cache (R250) -/

/-- The inputs of R247 besides the package, as one number. -/
def placeInputs (s : State) (t maxph : Nat) : Nat :=
  let prov := s.map.crossing.foldl (fun a e => (a * 256 + e.1) * 65536 + 256 * e.2.1 + e.2.2) 1
  ((((prov * 2 ^ 32 + s.map.gen.toNat) * 2 ^ 32 + setting s 0x3501 t) * 2 ^ 64 + setting s 0x3502 t) * 2 ^ 32 + s.flue.compiles.toNat) * 16 + maxph

def cacheFind (s : State) (d : BitVec 384) (n : Nat) : Option Placement :=
  (s.baker.cache.find? fun e => decide (e.1 = d) && decide (e.2.1 = n)).map (·.2.2)

def cachePut (s : State) (d : BitVec 384) (n : Nat) (p : Placement) : State :=
  { s with baker := { s.baker with
      cache := ((d, n, p) :: s.baker.cache.filter fun e => !(decide (e.1 = d) && decide (e.2.1 = n))).take 256 } }

/-- The placement of bake `b` in rectangle `t`: of equal inputs the one found before, as long as the rest of the device leaves room
for it, with this placement's start cycle and time; else the one the Baker cores have found now (R247; log entry 146). -/
def settled (s : State) (b t maxph : Nat) (p : Placement) : Placement × State :=
  let k := s.bake b
  let n := placeInputs s t maxph
  match s.baker.made.find? fun e => decide (e.1 = k.digest) && decide (e.2.1 = n) with
  | some e =>
    let q := { e.2.2 with c0 := p.c0, micros := p.micros }
    (if placementOk s b t maxph k.pkg q then q else p, s)
  | none => (p, { s with baker := { s.baker with made := s.baker.made ++ [(k.digest, n, p)] } })

/-- The placement a load takes, with the cache's counts: a match is taken from the cache (R250). -/
def cachedPlace (s : State) (b maxph : Nat) (p : Placement) : Placement × State :=
  let k := s.bake b
  let x := settled s b k.tenant.toNat maxph p
  if phNocache k.pkg.hdr || decide (setting s 0x3402 3 = 0) then x
  else
    let n := placeInputs s k.tenant.toNat maxph
    let hit := (cacheFind s k.digest n).isSome
    let t := x.2
    let t : State := { t with baker :=
      if hit then { t.baker with hits := t.baker.hits + 1 } else { t.baker with misses := t.baker.misses + 1 } }
    (x.1, cachePut t k.digest n x.1)

/-! ### Phases (R266) -/

/-- Tensors of home 0x0 of the instances of a phase. -/
def phaseTensors (b : Bake) (ph : Nat) : List Nat :=
  ((tensorsOf b).filter fun e => homePad e.2 && decide (instPhase b (tnOwner e.2) = ph)).map (·.1)

/-- Tensors of a phase that their ldma template fills again at its refill; a STATE tensor comes back from the stacks (R238, R253,
R266). -/
def refilled (b : Bake) (ph : Nat) (j : Nat) : Bool :=
  let t := tensorRow b j
  homePad t && !isState t && decide (tnLdma t ≠ 0xFFFF) && decide (instPhase b (tnOwner t) = ph)

/-- Copy the tensors of a phase between its cores and the phase area, both views of STATE; what ldma fills again does not come
back from there. -/
def swapPhase (s : State) (b ph : Nat) (out : Bool) : State :=
  let k := s.bake b
  ((phaseTensors k ph).filter fun j => out || !refilled k ph j).foldl
    (fun t j =>
      let row := tensorRow k j
      let copy (t : State) (next : Bool) : State :=
        let pad (o : Nat) : Side := .pad (instCore k (tnOwner row)) (viewBase k j next + o)
        let area (o : Nat) : Side := phaseSide k j (isState row && (next != k.swapped)) o
        if out then copyView t b j pad area else copyView t b j area pad
      if isState row then copy (copy t false) true else copy t false) s

/-- Streams carried to a phase: the receive entry goes on from what was carried, and its object is signalled for each
transfer. -/
def deliverCarried (s : State) (b ph : Nat) : State :=
  let k := s.bake b
  k.carried.foldl
    (fun t e =>
      let r := nth 0 k.pkg.streams e.1
      if instPhase k (smRcv r) = ph then
        let p := streamPlace k e.1
        let t := t.modCore (instCore k (smRcv r)) fun q => q.modIsland fun i =>
          { i with recv := i.recv.map fun x => if x.1 = p.recvNo then (x.1, { x.2 with num := e.2 }) else x }
        signalObj t ⟨hwSync k (smRsync r), false, BitVec.ofNat 32 (smAmt r * e.2), k.epoch⟩
      else t) s

/-- The first cycle for a change of phase: on a period boundary of the schedule in force and a multiple of 64, and behind every
flit it has injected (R207). -/
def phaseSwitch (s : State) (k : Bake) : Nat :=
  let h := ((tenantRouters s k.tenant.toNat).head?.map fun x => (s.router x).sched).getD {}
  let m := Nat.lcm 64 (max 1 h.period)
  let now := s.flue.cycle + k.longest
  h.c0 + ceilDiv (now - h.c0) m * m

/-- Sync objects of a phase's instances that another phase uses too take their initial values (R265). -/
def initShared (s : State) (b ph : Nat) : State :=
  let k := s.bake b
  k.pkg.syncs.zipIdx.foldl
    (fun t e =>
      let mine := decide (soScope e.1 = 0) && decide (instPhase k (soOwner e.1) = ph)
      let shared := (k.pkg.syncs.zipIdx.filter fun x => decide (hwSync k x.2 = hwSync k e.2)).length
      if mine && decide (1 < shared) then setSyncObj t (hwSync k e.2) ⟨soInit e.1, k.epoch⟩ else t) s

/-- Change the cores from the phase on them to phase `ph`; it starts at once, or when its ldma fills have ended (R238, R266). -/
def changePhase (s : State) (b ph : Nat) : State :=
  let k := s.bake b
  let t := swapPhase s b k.phase true
  let t := clearCores t b
  let t := t.modBake b fun q => { q with phase := ph, begun := true }
  let t := swapPhase t b ph false
  let t := match k.place with
    | some p => putSchedule t k.tenant.toNat k.epoch p ph (phaseSwitch t k) false
    | none => t
  let t := writeEpoch (initShared (installPhase t b ph) b ph) k.tenant.toNat k.epoch
  let t := deliverCarried t b ph
  if (tensorsOf k).any fun e => refilled k ph e.1 then
    requestFills (t.modBake b fun q => { q with filling := true }) b fun e => refilled k ph e
  else startPhase t b ph

/-- Bytes moved in a step for its phases: on a core that serves several phases each instance's CONST and STATE bytes are filled again
and its next STATE views and OUTPUT bytes spilled; a stream to a later phase is spilled and filled (R266). -/
def movedBytes (k : Bake) : Nat :=
  let n := k.pkg.insts.length
  let shared (i : Nat) : Bool := (List.range n).any fun j => decide (instCore k j = instCore k i) && decide (instPhase k j ≠ instPhase k i)
  let tens := ((tensorsOf k).filter fun e => homePad e.2 && shared (tnOwner e.2)).map fun e =>
    (if tnCls e.2 = 0 ∨ isState e.2 = true then tnSize e.2 else 0) + (if tnCls e.2 = 4 ∨ isState e.2 = true then tnSize e.2 else 0)
  let streams := (k.pkg.streams.filter fun r => (k.place.map fun p => laterPhase p r).getD false).map fun r => 2 * smNxfer r * smXsize r
  tens.sum + streams.sum

/-! ### Checks and banks that a commit starts (R461, R466) -/

/-- 0x6001.b as bytes; K, window, flags, seed. -/
def groupBytes (s : State) (b : Nat) : List Byte := domainOf s 0x6001 b
def groupId (s : State) (b : Nat) : Nat := ofLe (slice (groupBytes s b) 0 4)
def groupK (s : State) (b : Nat) : Nat := ofLe (slice (groupBytes s b) 4 4)
def groupWindow (s : State) (b : Nat) : Nat := ofLe (slice (groupBytes s b) 8 2)
def groupState (s : State) (b : Nat) : Bool := decide (ofLe (slice (groupBytes s b) 10 1) % 2 = 1)
def groupSeed (s : State) (b : Nat) : U64 := BitVec.ofNat 64 (ofLe (slice (groupBytes s b) 12 8))
/-- The eight member entries; none before the group is written. -/
def groupMembers (s : State) (b : Nat) : List Nat :=
  (List.range 8).map fun i => if (groupBytes s b).isEmpty then 0xFFFF else ofLe (slice (groupBytes s b) (20 + 2 * i) 2)

/-- Tensors a check covers: CONST of home 0x0, and STATE of home 0x0 with the flag (R460). -/
def coveredTensors (s : State) (b : Nat) : List Nat :=
  ((tensorsOf (s.bake b)).filter fun e =>
    homePad e.2 && (decide (tnCls e.2 = 0) || (groupState s b && isState e.2))).map (·.1)

/-- The digest units begin to read the covered tensors that lie on cores, through class 0x6 (R461). -/
def startDigest (s : State) (b : Nat) : State :=
  (coveredTensors s b).foldl
    (fun t j => match tensorSide (t.bake b) j false 0 with
      | .pad c a => t.modCore c fun k => k.modPad fun p =>
          let job := { Work.reading j 0 (wordRange a (tnSize (tensorRow (t.bake b) j) / 8)) with made := true }
          p.setJobs 8 ((p.jobs 8).filter (fun x => decide (x.order ≠ j)) ++ [job])
      | _ => t) s

/-- A commit that makes 0x3415.b a multiple of K starts a check (R461). -/
def startCheck (s : State) (b : Nat) : State :=
  let k := s.bake b
  let n := groupK s b
  if n ≠ 0 ∧ k.committed.toNat % n = 0 ∧ k.replica.expelled = false then
    (startDigest s b).modBake b fun q => { q with replica := { q.replica with
      j := BitVec.ofNat 64 (k.committed.toNat / n), open_ := true, whole := false, own := 0, poison := false,
      reports := q.replica.reports.filter fun r => decide (r.2.j.toNat = k.committed.toNat / n) } }
  else s

def bankOf' (k : Bake) (areaB : Bool) : Bank := if areaB then k.bankB else k.bankA

def modBank (s : State) (b : Nat) (areaB : Bool) (f : Bank → Bank) : State :=
  s.modBake b fun k => if areaB then { k with bankB := f k.bankB } else { k with bankA := f k.bankA }

/-- The area that does not hold the newest whole bank (R466). -/
def bankArea (k : Bake) : Bool :=
  decide (2 ≤ k.bankA.state.toNat) && (decide (k.bankB.state.toNat < 2) || decide (k.bankB.steps.toNat ≤ k.bankA.steps.toNat))

/-- STATE tensors of a bank. -/
def bankTensors (k : Bake) : List Nat :=
  ((tensorsOf k).filter fun e => isState e.2 && decide (tnHome e.2 ≤ 1)).map (·.1)

/-- Start a bank copy into an area, unless that area's host copy is still under way: then it waits (R466, R468). -/
def startBank (s : State) (b : Nat) (areaB : Bool) : State :=
  let k := s.bake b
  if (bankOf' k areaB).state = 3 then s.modBake b fun q => { q with bankDue := some areaB }
  else
    let t := modBank s b areaB fun _ =>
      { state := 1, epoch := k.epoch, steps := k.committed, io := k.bankIo,
        bytes := BitVec.ofNat 64 ((bankTensors k).foldl (fun a j => a + tnSize (tensorRow k j)) 0),
        hists := (bakeInsts k).foldl
          (fun m e => ((outDescs e.2.2).filter dDsc).foldl
            (fun m d => mset ([], 0) m (16 * e.1 + dSlot d) ((slotOf s e.2.1 (dSlot d)).hist, (slotOf s e.2.1 (dSlot d)).scale)) m) [] }
    let t := t.modBake b fun q => { q with bankDue := none }
    (bankTensors k).foldl
      (fun t j => requestWhole t (.bank areaB) b (tnSize (tensorRow k j)) (tensorSide k j false 0) (bankSide k areaB j 0)) t

/-- A bank is due after a commit: its interval, or a STATE tensor in the item's I/O table (R466). -/
def bankWanted (s : State) (b : Nat) : Bool :=
  let k := s.bake b
  let n := setting s 0x6020 b
  (decide (n ≠ 0) && decide (k.committed.toNat % n = 0)) || k.io.any fun e => isState (tensorRow k e.1)

/-- A bank copy of the bake is under way or waits. -/
def bankBusy (k : Bake) : Bool := decide (k.bankA.state = 1) || decide (k.bankB.state = 1) || k.bankDue.isSome

end Sys2Proof.Machine
end

