-- ==== Sys2Proof/Machine/Bakes.lean ====
section
/-! DEFINITION. The commands of a bake's life: placement, fences, commits, migration, phases, pre-emption and resumption
(R158, R243 to R266, R284, R308 to R310, R459). -/

namespace Sys2Proof.Machine

/-! ### Items and the bakes they name (R276, R279) -/

/-- What the bake field of an item names. -/
inductive Named where
  | slot (b : Nat)
  /-- the nearest earlier LOAD has not taken its slot yet. -/
  | waiting
  | bad
  deriving DecidableEq, Repr

/-- Slot of the bake that the LOAD at an index of a ring loaded. -/
def slotOfLoad (s : State) (r : Nat) (i : U32) : Option Nat :=
  (s.baker.slots.find? fun e => decide (e.2.state ≠ 0) && decide (e.2.ring = r) && decide (e.2.loadIdx = i)).map (·.1)

def namedSlot (s : State) (r field : Nat) (lref : Option U32) : Named :=
  if field = 0 then
    match lref with
    | none => .bad
    | some i =>
      match slotOfLoad s r i with
      | some b => .slot b
      | none =>
        match getItem s r i with
        | some t => if t.status.isNone then .waiting else .bad
        | none => .bad
  else if field ≤ 64 ∧ (s.bake field).state ≠ 0 ∧ (s.bake field).ring = r then .slot field
  else .bad

/-- The item belongs to the bake in a slot: its LOAD, or an operation that names it. -/
def itemOf (s : State) (r b : Nat) (t : Item) : Bool :=
  let op := wdOp t.desc
  if op = 1 then decide (t.slot = b) && decide (t.index = (s.bake b).loadIdx)
  else decide (2 ≤ op) && decide (op ≤ 5) && decide (namedSlot s r (wdBake t.desc) t.lref = .slot b)

/-- Open items of a bake. -/
def bakeItems (s : State) (b : Nat) : List U32 :=
  let r := (s.bake b).ring
  ((s.workRing r).ledger.filter fun t => t.status.isNone && itemOf s r b t).map (·.index)

/-- End every open item of a bake that a test picks. -/
def endItems (s : State) (b : Nat) (pick : U32 → Bool) (status : U8) (detail : BitVec 128) : State :=
  ((bakeItems s b).filter pick).foldl (fun t i => endItem t (s.bake b).ring i status detail) s

/-! ### Placement (R243 to R251) -/

/-- Reject the load in a slot: the record goes to the completion, to 0x3403.01 and to 0x341B.b, and the slot is free. -/
def rejectLoad (s : State) (b : Nat) (r : Reject) : State :=
  let k := s.bake b
  let t := endItem { s with baker := { s.baker with reject := r.bits } } k.ring k.loadIdx 4 r.bits
  clearTable (t.modBake b fun _ => { reject := r.bits }) b

/-- A first placement in force: new epoch, cores, sync objects, statistics slots and fills (R117, R252). -/
def placeLoad (s : State) (b : Nat) (p : Placement) : State :=
  let k := s.bake b
  let c := cachedPlace s b (phMaxph k.pkg.hdr) p
  if !epochFree s || s.flue.cutOff || !placementOk s b k.tenant.toNat (phMaxph k.pkg.hdr) k.pkg c.1 then s
  else
    let e := takeEpoch c.2
    let t := e.2.modBake b fun q => { q with epoch := e.1 }
    let t := newBaseline (writeBounds (clearSlots (install t b c.1) b) b) b
    beginFills t b fun _ => true

/-- Move a bake to another placement in its rectangle, keeping its committed bytes and its histories (R253, R260). -/
def moveBake (s : State) (b : Nat) (p : Placement) (refill : Bool) : State :=
  let g := gather s b refill
  let h := gatherSlots s b
  let t := install (clearCores g.2 b) b p
  newBaseline (writeBounds (scatterSlots (scatter t b g.1) b h) b) b

/-- Pause a bake and report it (R260); the event is a hold reported, severity 0x1 (R472; log entry 64). -/
def pauseBake (s : State) (b reason : Nat) : State :=
  raiseS (s.modBake b fun k => { k with state := 7, reason := BitVec.ofNat 8 reason }) 0x3410 b 1 reason

/-- A re-placement that cannot complete pauses the bake. Items of a bake that met a second loss before it recovered end UNCOVERED
with the last fence reason (R289). -/
def cannotPlace (s : State) (b row : Nat) : State :=
  let k := s.bake b
  let t := pauseBake (dropDmas (s.modBake b fun q => { q with filling := false, losses := 0 }) b) b row
  if 2 ≤ k.losses then endItems t b (fun _ => true) 8 (BitVec.ofNat 128 k.reason.toNat) else t

/-- A change of the core map that a core of the bake waits for (R24, R479). -/
def mapWaits (s : State) (k : Bake) : Bool := (bakeCores k).any fun c => s.map.pending.any fun e => decide (e.1 = c)

/-- A re-placement in force: it has seen every loss so far (R261); ldma fills CONST and INPUT tensors again, those in the
stacks too where a channel was lost, then the bake goes on (R260, R321). It waits for a change of the core map that is still to take effect (R479), and for a master agent of the Flue (R196). -/
def placeAgain (s : State) (b : Nat) (p : Placement) : State :=
  let k := s.bake b
  let c := cachedPlace s b 8 p
  if s.flue.cutOff || mapWaits s k || !placementOk s b k.tenant.toNat 8 k.pkg c.1 then s
  else
    let t := moveBake c.2 b c.1 true
    let t := t.modBake b fun q => { q with triggers := q.triggers.filter fun x => decide (x = 8) }
    beginFills t b fun w => !isState w && (homePad w || (k.triggers.contains 6 && decide (tnHome w = 1)))

/-- Switch in the placement compiled while the bake ran, while it still fits the die (R246, R260). -/
def switchNext (s : State) (b : Nat) : State :=
  match (s.bake b).nextPlace with
  | none => s
  | some p =>
    let p := { p with c0 := max p.c0 (phaseSwitch s (s.bake b)) }
    if !placementOk s b (s.bake b).tenant.toNat 8 (s.bake b).pkg p then s.modBake b fun q => { q with nextPlace := none }
    else (moveBake s b p false).modBake b fun q => { q with nextPlace := none, triggers := q.triggers.filter fun x => decide (x ≠ 4) }

/-- The Baker cores have found no placement, for a reason that the checks made before it did not find: the placement they report
with it is none that R245 and R246 allow (R244; log entry 145). -/
def notPlaced (s : State) (b maxph : Nat) (p : Placement) : Bool :=
  decide (p.reject = 7 ∨ p.reject = 8 ∨ p.reject = 9) && !placementOk s b (s.bake b).tenant.toNat maxph (s.bake b).pkg p

/-- PLACEMENT_COMPLETE: the Baker cores have placed a load, a re-placement, or the new placement of a running bake; or they have
found that they cannot, which rejects a load and pauses a bake. -/
def execPlacementComplete (b : Nat) (p : Placement) (s : State) : Out :=
  onSlot 64 b
    (let k := s.bake b
     if k.filling then s
     else if k.state = 1 then
       if notPlaced s b (phMaxph k.pkg.hdr) p then rejectLoad s b (pkgReject p.reject 0 0xFFFFFF) else placeLoad s b p
     else if k.state = 5 then
       if notPlaced s b 8 p then cannotPlace s b k.reason.toNat else placeAgain s b p
     else if (k.state = 2 ∨ k.state = 3) ∧ k.triggers.contains 4 = true ∧ s.flue.cutOff = false ∧ notPlaced s b 8 p = true then
       pauseBake s b 4
     else
       let c := settled s b k.tenant.toNat 8 p
       if (k.state = 2 ∨ k.state = 3) ∧ k.triggers.contains 4 = true ∧ s.flue.cutOff = false ∧
           placementOk s b k.tenant.toNat 8 k.pkg c.1 = true then
         let t := c.2.modBake b fun q => { q with nextPlace := some c.1 }
         if k.state = 2 then switchNext t b else t
       else s)

/-! ### Commit (R253, R284, R459) -/

/-- Triggers that end a step in a fence. -/
def fenceRows (k : Bake) : List Nat := k.triggers.filter fun r => decide (r ≠ 4) && decide (r ≠ 8)

/-- Every instance of the last phase has finished END, and no fence is due. -/
def stepEnded (s : State) (b : Nat) : Bool :=
  let k := s.bake b
  decide (k.state = 3) && k.item.isSome && !k.committing && k.begun && decide (k.phase = phasesOf k) && (fenceRows k).isEmpty &&
    (phaseInsts k k.phase).all fun e => decide ((s.core e.2).seq.state = .ended)

/-- The commit waits for digest reads or a bank copy (R461, R467). -/
def commitWaits (k : Bake) : Bool := (k.replica.open_ && !k.replica.whole) || bankBusy k

/-- Microseconds a commit has waited go to 0x6023.b. -/
def countWait (s : State) (b : Nat) : State :=
  s.modBake b fun k =>
    match k.waitFrom with
    | some a => { k with waitFrom := none, waitUs := k.waitUs + BitVec.ofNat 64 ((s.flue.cycle - a) / 1600) }
    | none => k

/-- Request the copy-out of the OUTPUT tensors that the item's I/O table names (R278, R284). -/
def requestCopyOut (s : State) (b : Nat) : State :=
  let k := s.bake b
  (k.io.filter fun e => decide (tnCls (tensorRow k e.1) = 4)).foldl
    (fun t e => requestWhole t (.copyOut e.1) b (tnSize (tensorRow k e.1)) (tensorSide k e.1 false 0) (.host e.2)) s

/-- The item turns COMMITTING, and its copy-out is requested (R284). -/
def beginCommit (s : State) (b : Nat) : State :=
  let k := s.bake b
  match k.item with
  | none => s
  | some i =>
    let t := writeAccept (modItem s k.ring i fun x => { x with state := 2, epoch := k.epoch }) k.ring i
    requestCopyOut (t.modBake b fun q => { q with committing := true }) b

/-- STEP_COMMIT: the output check, then COMMITTING. -/
def execStepCommit (b : Nat) (s : State) : Out :=
  onSlot 64 b
    (if !stepEnded s b then s
     else if commitWaits (s.bake b) then
       s.modBake b fun k => { k with waitFrom := some (k.waitFrom.getD s.flue.cycle) }
     else
       let t := countWait s b
       let trips := (checkEntries t b).filter (entryTrips t b)
       let t := (trips.filter fun w => decide (ckAction w = 1)).foldl (fun u w => raiseS u 0x6010 b 2 (ckTensor w)) t
       if trips.any (fun w => decide (ckAction w = 2)) then trigger t b 5 else beginCommit t b)

/-- The descriptor is part of a copy-out. -/
def isCopyOut (d : DmaDesc) : Bool :=
  match d.use with
  | .copyOut _ => true
  | _ => false

/-- A copy-out of the bake has not ended. -/
def copyingOut (s : State) (b : Nat) : Bool := s.ring.dmas.any fun d => decide (d.slot = b) && isCopyOut d

/-- Every item in COMMITTING resumes its copy-out from the start (R283). -/
def resumeCopies (s : State) : State :=
  (s.baker.slots.filter fun e => e.2.committing).foldl
    (fun t e => requestCopyOut (t.modDmas fun l => l.filter fun d => !(decide (d.slot = e.1) && isCopyOut d)) e.1) s

/-- What the Baker does at the completion boundary of a step: views, counts, delayed scaling, links (R253, R254, R344). -/
def turnOver (s : State) (b : Nat) : State :=
  let t := delayedScaling (takeGains s b true) b
  let t := t.modBake b fun k => { k with swapped := !k.swapped, committed := k.committed + 1, linkRecv := [] }
  let keep (e : Nat × Channel5) : Nat × Channel5 := if ceBake e.2.ent = b then (e.1, { e.2 with xseqC := e.2.xseq }) else e
  rebind { t with links := { t.links with chans := t.links.chans.map keep } } b

/-- COPY_OUT_COMPLETE: COMMITTED, the views turn over, the item completes, and the checks and banks that the commit starts
begin. -/
def execCopyOutComplete (b : Nat) (s : State) : Out :=
  onSlot 64 b
    (let k := s.bake b
     match k.item with
     | none => s
     | some i =>
       if !k.committing || copyingOut s b || !(fenceRows k).isEmpty then s
       else
         let t := turnOver (modItem s k.ring i fun x => { x with state := 3 }) b
         let t := writeAccept t k.ring i
         let n := (t.bake b).committed.toNat
         let t := endItem t k.ring i 0 (BitVec.ofNat 128 (k.epoch.toNat + 2 ^ 32 * n))
         let t := startCheck t b
         let t := if bankWanted t b then
             let t := t.modBake b fun q => { q with bankIo := q.io.filter fun e => isState (tensorRow q e.1) }
             startBank t b (bankArea (t.bake b))
           else t
         let t := t.modBake b fun q => { q with item := none, committing := false, state := idleState q }
         switchNext t b)

/-! ### Fences and re-placement (R259 to R262) -/

/-- After a fence: to a re-placement, or on with the item. -/
def afterFence (s : State) (b : Nat) : State :=
  let k := s.bake b
  if needsPlace s k then s.modBake b fun q => { q with state := 4 }
  else
    let t := s.modBake b fun q => { q with triggers := q.triggers.filter fun r => decide (r = 4) || decide (r = 8) }
    resumeItem t b

/-- A bake whose step stands still, paused for a fault or for want of a route, can still be fenced. -/
def heldStep (k : Bake) : Bool := decide (k.state = 7) && (k.preempted || k.noRoute)

/-- EPOCH_FENCE: for a trigger seen; it waits for the epoch counter (R252), and takes a bake that is neither placing,
fencing nor re-placing, nor paused with nothing under way (R261). -/
def execEpochFence (b reason : Nat) (s : State) : Out :=
  onSlot 64 b
    (let k := s.bake b
     if (k.state = 2 ∨ k.state = 3 ∨ k.state = 6 ∨ heldStep k = true) ∧ (fenceRows k).contains reason = true ∧ epochFree s = true then
       let t := fence s b reason true
       afterFence (t.modBake b fun q => { q with migDrain := false }) b
     else s)

/-- RE_PLACEMENT: after the fence the Baker places the bake again, or pauses it where it cannot; a loss that arrives while the new
placement's fills run starts the placement again, under the same epoch (R261). -/
def execRePlacement (b row : Nat) (canComplete : Bool) (s : State) : Out :=
  onSlot 64 b
    (let k := s.bake b
     if !k.triggers.contains row then s
     else if k.state = 4 ∨ k.state = 5 then
       if !canComplete then cannotPlace s b row
       else if k.filling && needsPlace s k then (dropDmas s b).modBake b fun q => { q with filling := false }
       else s.modBake b fun q => { q with state := 5 }
     else if row = 4 ∧ canComplete = false ∧ (k.state = 2 ∨ k.state = 3) then pauseBake s b row
     else s)

/-! ### Timeout, pre-emption and resumption (R158, R262, R308 to R310) -/

/-- A DMA fault of the bake is pending. -/
def faultPending (s : State) (b : Nat) : Bool := s.ring.dmas.any fun d => decide (d.slot = b) && d.parked.isSome

/-- A core stops at pre-emption: every step in flight is abandoned and array state is discarded (R86, R158). -/
def stopCore (k : Core) : Core :=
  { k with
    seq := { k.seq with flight := [], state := if k.seq.state = .ended then .ended else .stopped }
    arrays := {}
    pad := k.pad.giveUp
    sync := { k.sync with fence := [] }
    island := { k.island with egress := [], toEgress := [], outbox := k.island.outbox.filter fun e => decide (e.1 = 0) } }

/-- Descriptors of a pre-empted bake are saved with their progress; requests that hold no descriptor go (R309). -/
def saveDmas (s : State) (b : Nat) : State :=
  let isStep (d : DmaDesc) : Bool := match d.use with
    | .step _ _ _ _ => true
    | _ => false
  s.modDmas fun l =>
    (l.filter fun d => !(decide (d.slot = b) && isStep d && !d.running)).map fun d =>
      if d.slot = b ∧ isStep d = true then { d with saved := true } else d

/-- Pre-empt a bake: it reads 0x7 until its faults are resolved. -/
def preempt (s : State) (b : Nat) : State :=
  let k := s.bake b
  let t := (phaseInsts k k.phase).foldl (fun t e => t.modCore e.2 stopCore) s
  (saveDmas t b).modBake b fun q => { q with state := 7, preempted := true, migDrain := false }

/-- BAKE_TIMEOUT: a running step is pre-empted if a DMA fault is pending, and fenced otherwise; a step that a drain waits for is
fenced, also where it is held (R262, R444). -/
def execBakeTimeout (b : Nat) (s : State) : Out :=
  onSlot 64 b
    (let k := s.bake b
     if k.item = none ∨ ¬ (k.state = 3 ∨ (heldStep k = true ∧ k.draining = true)) then s
     else if faultPending s b && !k.draining then preempt s b
     else trigger (s.modBake b fun q => { q with migDrain := false }) b 7)

/-- A core resumes: the walk of R158 starts at the yield step of its resume record. -/
def resumeCore (k : Core) : Core :=
  if k.seq.state = .ended then k
  else k.modSeq fun q =>
    { q with
      state := .running, step := q.resume.step, loops := q.resume.loops, flight := [], replay := true, attempt := q.attempt + 1 }

/-- RESUMPTION: every fault of a pre-empted bake is resolved, and no fence is due that would abandon its step (R158, R260, R310). -/
def execResumption (b : Nat) (s : State) : Out :=
  onSlot 64 b
    (let k := s.bake b
     if k.state ≠ 7 ∨ k.preempted = false ∨ faultPending s b = true ∨ (fenceRows k).isEmpty = false ∨ s.flue.cutOff = true then s
     else
       let t := (phaseInsts k k.phase).foldl (fun t e => t.modCore e.2 resumeCore) s
       t.modBake b fun q => { q with state := 3, preempted := false })

/-! ### Paging (R309) -/

/-- Bus address, shift and value of the leaf that maps a DVA. -/
def leafOf (s : State) (dva : Nat) : List (Nat × Nat × Nat) → Nat → Option (Nat × Nat × U64)
  | [], _ => none
  | (sh, w, _) :: t, table =>
    let a := table + 8 * (dva / 2 ^ sh % 2 ^ w)
    let e : U64 := BitVec.ofNat 64 (hostNum s a 8)
    if !bitAt e 0 then none else if bitAt e 4 then some (a, sh, e) else leafOf s dva t (fld e 56 12 * 4096)

/-- A 4 KiB page of host memory copied into a stack frame. -/
def copyPage (s : State) (frame from_ : Nat) : State :=
  (List.range 512).foldl
    (fun t i => stackWrite t (frame + 8 * i) (BitVec.ofNat 64 (hostNum s (from_ + 8 * i) 8), false)) s

/-- Firmware brings a non-resident 4 KiB page in: its bytes go into the next free frame of the paging pool, the entry
becomes a stack page, and the translation is retried. -/
def pageIn (s : State) (d : DmaDesc) (dva : Nat) : State :=
  let root := bakeRoot s d.slot
  match leafOf s dva ptLevels root with
  | none => s
  | some (a, sh, e) =>
    if sh ≠ 12 ∨ fld e 63 62 ≠ 2 ∨ setting s 0x5102 3 ≤ s.ring.frames then s
    else
      let frame := setting s 0x5102 2 + 4096 * s.ring.frames
      let from_ := fld e 56 12 * 4096
      if !chanServes s (frame / 2 ^ 31) then s else
      let t := copyPage s frame from_
      let e := putFld (putFld e 63 62 1) 56 12 (frame / 4096)
      let t := hostStore t a (leBytes 8 e.toNat)
      let t := { t with ring := { t.ring with
        frames := t.ring.frames + 1,
        backed := t.ring.backed ++ [(frame, a, from_)],
        tlb := t.ring.tlb.filter fun x => !(decide (x.root = root) && decide (x.base = dva / 4096 * 4096)) } }
      retryDma t d []

/-- FAULT_PAGING: for each parked fault of a pre-empted bake, cause 0x3 brings the page in and cause 0x4 or 0x6 sends one
new PRI request; other causes wait for the host driver. -/
def execFaultPaging (b : Nat) (s : State) : Out :=
  onSlot 64 b
    (if (s.bake b).preempted = false then s
     else (s.ring.dmas.filter fun d => decide (d.slot = b)).foldl
       (fun t d => match d.parked with
         | none => t
         | some p =>
           if p.2.1 = 3 then pageIn t d p.1
           else if (p.2.1 = 4 ∨ p.2.1 = 6) ∧ t.ring.pri.contains p.2.2 = false then
             { t with ring := { t.ring with pri := t.ring.pri ++ [p.2.2] } }
           else t) s)

/-- FAULT_HOLD_EXPIRY: a fault of a pre-empted bake is still unresolved at the end of the hold: the item ends with status
0x06, the bake is fenced and moves on (R308, R309). -/
def execFaultHoldExpiry (b : Nat) (s : State) : Out :=
  onSlot 64 b
    (let k := s.bake b
     let l := s.ring.dmas.filterMap fun d => if d.slot = b then d.parked else none
     match l with
     | [] => s
     | p :: _ =>
       if k.preempted = false ∨ epochFree s = false then s
       else
         let t := { s with ring := { s.ring with unresolved := s.ring.unresolved + BitVec.ofNat 64 l.length } }
         let t := fence t b 7 true
         let t := match k.item with
           | some i => endItem t k.ring i 6 (BitVec.ofNat 128 (p.1 + 2 ^ 64 * p.2.1))
           | none => t
         t.modBake b fun q => { q with item := none, state := idleState q })

/-! ### Phases and migration (R263 to R266) -/

/-- PHASE_CHANGE: to the next phase once every instance has ended, or back to phase 1 at the start of a step. -/
def execPhaseChange (b ph : Nat) (s : State) : Out :=
  onSlot 64 b
    (let k := s.bake b
     let ended := (phaseInsts k k.phase).all fun e => decide ((s.core e.2).seq.state = .ended)
     if k.state ≠ 3 ∨ k.item = none ∨ k.committing = true ∨ (fenceRows k).isEmpty = false ∨ phasesOf k < ph ∨ ph = 0 then s
     else if (k.begun = false ∧ ph = 1) ∨ (k.begun = true ∧ ph = k.phase + 1 ∧ ended = true) then changePhase s b ph
     else s)

/-- Migration boundary: the choice, else 0x341C.b, else the package's, else 0x3402.02 (R263). -/
def boundaryOf (s : State) (b choice : Nat) : Nat :=
  if choice ≠ 0 then choice
  else if setting s 0x341C b ≠ 0 then setting s 0x341C b
  else if phMig (s.bake b).pkg.hdr ≠ 0 then phMig (s.bake b).pkg.hdr
  else setting s 0x3402 2

/-- A rectangle a bake may move to: defined, holding no bake, and not its own. -/
def targetOk (s : State) (b t : Nat) : Bool :=
  decide (1 ≤ t) && decide (t ≤ 64) && (rectOf s t).isSome &&
    !(s.baker.slots.any fun e => decide (e.2.state ≠ 0) && decide (e.2.tenant.toNat = t)) &&
    decide ((s.bake b).tenant.toNat ≠ t)

/-- Start a migration; none where R263 or R264 refuses it. -/
def startMigration (s : State) (b t choice : Nat) : Option State :=
  let k := s.bake b
  if k.state = 0 ∨ k.state = 1 ∨ k.migTo ≠ 0 ∨ targetOk s b t = false then none
  else some (s.modBake b fun q =>
    { q with
      migTo := BitVec.ofNat 8 t
      migDrain := decide (boundaryOf s b choice = 1)
      state := if q.state = 2 then 6 else q.state })

/-- The MIGRATE item under way for a bake. -/
def migrateItem (s : State) (b : Nat) : Option Item :=
  let r := (s.bake b).ring
  (s.workRing r).ledger.find? fun t =>
    decide (wdOp t.desc = 4) && t.started && t.status.isNone && decide (t.slot = b)

/-- The bake moves: tensors, new epoch, new cores; then its step goes on, or it is ready again. A step that has been fenced already
takes no second epoch, and the routers left behind take the new one, so that they refuse what still carries the old (R263, R264). -/
def switchBake (s : State) (b : Nat) (p : Placement) : State :=
  let k := s.bake b
  let s := if k.absorbed then s
    else if k.item.isSome then fence s b ((fenceRows k).headD 0) true
    else
      let e := takeEpoch s
      dropDmas (e.2.modBake b fun q => { q with epoch := e.1 }) b
  let g := gather s b false
  let h := gatherSlots s b
  let t := writeEpoch (clearCores g.2 b) k.tenant.toNat (s.bake b).epoch
  let t := t.modBake b fun q =>
    { q with tenant := q.migTo, migTo := 0, migDrain := false, absorbed := false,
             triggers := q.triggers.filter fun r => decide (r = 4) || decide (r = 8) }
  let t := newBaseline (writeBounds (scatterSlots (scatter (install t b p) b g.1) b h) b) b
  let t := match migrateItem s b with
    | some i => endItem t k.ring i.index 0 0
    | none => t
  if k.item.isSome then resumeItem t b else t.modBake b fun q => { q with state := idleState q }

/-- The bake stands where its migration may switch: with no step in progress, with its step fenced for it, or in a step that it may
absorb (R263). -/
def mayMigrate (k : Bake) : Bool :=
  (k.item.isNone && (decide (k.state = 2) || decide (k.state = 6))) || (decide (k.state = 3) && !k.migDrain) ||
    (decide (k.state = 6) && k.absorbed)

/-- MIGRATION_SWITCH: at a boundary where no step is in progress, or at once for an absorb; a loss is met by a re-placement first
(R260, R263). -/
def execMigrationSwitch (b : Nat) (p : Placement) (s : State) : Out :=
  onSlot 64 b
    (let k := s.bake b
     let c := settled s b k.migTo.toNat (phMaxph k.pkg.hdr) p
     if k.migTo ≠ 0 ∧ mayMigrate k = true ∧ needsPlace s k = false ∧ (k.absorbed = true ∨ epochFree s = true) ∧ s.flue.cutOff = false ∧
         rectOf s k.migTo.toNat ≠ none ∧ placementOk s b k.migTo.toNat (phMaxph k.pkg.hdr) k.pkg c.1 = true then switchBake c.2 b c.1
     else s)

end Sys2Proof.Machine
end

