-- ==== Sys2Proof/Machine/Clocks.lean ====
section
/-! DEFINITION. The oscillator mesh and the hearth clocks: limits, governing reasons, voltage and frequency steps, stops,
stretches and margin windows (R395 to R409, R418, R419, R422, R423). -/

namespace Sys2Proof.Machine

/-! ### The oscillator mesh (R395 to R398) -/

def raiseMesh (s : State) (index sub sev arg : Nat) : State := raiseS s index sub sev arg

/-- A site's oscillator is failed: switched off, the site clocked from a neighbour (R397). -/
def failOscillator (s : State) (p : Site) : State :=
  if s.mesh.failed.contains p then s
  else raiseMesh { s with mesh := { s.mesh with failed := s.mesh.failed ++ [p] } } 0x2001 1 3 p

/-- OSCILLATOR_FAILURE. -/
def execOscillatorFailure (p : Site) (s : State) : Out := onUnit 256 p (failOscillator s p)

/-- Two sites are neighbours across a seam. -/
def acrossSeam (p q : Site) : Bool := dirs4.any fun d => decide (nextSite p d = some q) && (seamOf p d).isSome

/-- COUPLING_LINE_FAILURE: the other line carries the coupling; with both lines of a crossing gone, the oscillators on both
sides are treated as failed. -/
def execCouplingLineFailure (p q : Site) (line : Fin 2) (s : State) : Out :=
  let key := 256 * min p q + max p q
  onUnit 256 (max p q)
    (if !acrossSeam p q || s.mesh.badLines.contains (key, line.val) then s
     else
       let t : State := { s with mesh := { s.mesh with badLines := s.mesh.badLines ++ [(key, line.val)] } }
       if t.mesh.badLines.contains (key, 1 - line.val) then failOscillator (failOscillator t p) q else t)

/-- REFCLK_LOSS: the mesh runs on coupled, free (R398). -/
def execRefclkLoss (s : State) : Out :=
  .next (if s.mesh.state = 1 then s else raiseMesh { s with mesh := { s.mesh with state := 1 } } 0x2000 1 1 0)

/-- REFCLK_RETURN: the reference loop slews the mesh back to lock, without a step (R398). -/
def execRefclkReturn (s : State) : Out :=
  .next (if s.mesh.state = 0 then s else raiseMesh { s with mesh := { s.mesh with state := 0 } } 0x2000 1 0 0)

/-! ### Frequencies, voltages and limits (R399, R406 to R408, R422) -/

/-- One of the 57 frequencies. -/
def freqStep (f : Nat) : Bool := decide (600 ≤ f) && decide (f ≤ 2000) && decide ((f - 600) % 25 = 0)

/-- V(f) in mV: the fused entry plus the guard (R408). -/
def voltOf (s : State) (n f : Nat) : Nat := mget 730 s.fuse.vf (57 * n + (f - 600) / 25) + setting s 0x2017 1

/-- A frequency the hearth may use. -/
def usableFreq (s : State) (n f : Nat) : Bool := freqStep f && decide (550 ≤ voltOf s n f) && decide (voltOf s n f ≤ 850)

/-- The hearth is in fixed-step mode: by its setting, or by firmware (R406). -/
def fixedMode (s : State) (n : Nat) : Bool := (s.hearth n).fixedRun || decide (setting s 0x2012 (n + 1) = 1)

/-- The limits of R407 with their reason codes of R422. -/
def limits (s : State) (n : Nat) : List (Nat × Nat) :=
  let h := s.hearth n
  [(0, 2000), (0xA, setting s 0x2010 (n + 1))] ++
  (if fixedMode s n then [(0xB, if h.fixedRun then min (setting s 0x2013 (n + 1)) h.margin else setting s 0x2013 (n + 1))]
   else [(1, h.margin)]) ++
  [(if s.power.excursion then 4 else 3, h.ceiling), (5, h.thermal), (6, h.railLim),
   (if h.state = 5 then 9 else 8, h.safeLim)]

/-- Target frequency: the lowest limit (R407). -/
def targetOf (s : State) (n : Nat) : Nat := (limits s n).foldl (fun a e => min a e.2) 2000

def leastCode (l : List Nat) : Nat := l.foldl min 0xC

/-- The governing reason (R422). -/
def governing (s : State) (n : Nat) : Nat :=
  let h := s.hearth n
  let on := (limits s n).filter fun e => decide (e.2 = h.freq)
  if !h.stretch.isEmpty && decide (600 < h.freq) then leastCode h.stretch
  else if h.state = 5 then 9
  else if h.unsettled then 7
  else if h.freq = 2000 then 0
  else if on.isEmpty then h.reason.toNat
  else leastCode (on.map (·.1))

/-- Bring the throttle record up to this cycle and take the governing reason anew (R423). -/
def regovern (s : State) (n : Nat) : State :=
  s.modHearth n fun h =>
    let old := h.reason.toNat
    let ns := (s.flue.cycle - h.since) * 10 / 16
    let g := governing s n
    let add (t : Throttle) : Throttle := if runFreq h < 2000 then { t with ns := t.ns + BitVec.ofNat 64 ns } else t
    let m := mmod {} h.throttle old add
    let m := if g = old then m else mmod {} m g fun t => { t with entries := t.entries + 1 }
    { h with throttle := m, reason := BitVec.ofNat 8 g, since := s.flue.cycle }

/-- Change a hearth, its target and its governing reason. -/
def withHearth (s : State) (n : Nat) (f : Hearth → Hearth) : State :=
  let t := regovern s n
  let t := t.modHearth n f
  let t := t.modHearth n fun h => { h with target := targetOf t n }
  t.modHearth n fun h =>
    let g := governing t n
    { h with
      reason := BitVec.ofNat 8 g,
      throttle := if h.reason.toNat = g then h.throttle else mmod {} h.throttle g fun x => { x with entries := x.entries + 1 } }

/-- Processor `m` has its supply: a hearth controller is fed from its hearth's rail, every other from VLNK (R26, R29). -/
def processorPowered (s : State) (m : Nat) : Bool :=
  if 9 ≤ m ∧ m ≤ 24 then (s.hearth (m - 9)).power && decide ((s.hearth (m - 9)).state ≠ 2) && decide ((s.hearth (m - 9)).state ≠ 3) else true

/-- The hearth controller of hearth `n` runs (R26, R448, R449). -/
def controllerRuns (s : State) (n : Nat) : Bool := decide ((s.proc (9 + n)).state = 0) && processorPowered s (9 + n)

/-! ### Changing frequency (R408, R409) -/

/-- Begin a stop: the controller sets the stop bit. -/
def beginStop (s : State) (n f : Nat) : State :=
  setStop (withHearth s n fun h => { h with stopTo := some (f, s.flue.cycle), state := stopState h true, stops := h.stops + 1 }) n true

/-- Flue cycles of the 25 µs that lie between two changes of a hearth's frequency (R405). -/
def changeInterval : Nat := 40000

/-- The last change of the hearth's frequency lies 25 µs back (R405). -/
def changeDue (s : State) (n : Nat) : Bool :=
  match (s.hearth n).changedAt with
  | none => true
  | some c => decide (c + changeInterval ≤ s.flue.cycle)

/-- No frequency change or voltage step is under way, the last one lies 25 µs back, and the hearth runs. -/
def mayChange (s : State) (n : Nat) : Bool :=
  let h := s.hearth n
  controllerRuns s n && changeDue s n && h.stopTo.isNone && h.stepTo.isNone && !h.frozen && (decide (h.state = 0) || decide (h.state = 4) || decide (h.state = 5))

/-- STEP_UP: the device writes the higher voltage and waits for it to settle; safe hold makes no voltage step (R432). -/
def execStepUp (n : Fin 16) (mhz : Nat) (s : State) : Out :=
  let h := s.hearth n
  .next
    (if mayChange s n && decide (h.state = 0) && usableFreq s n mhz && decide (h.freq < mhz) && decide (mhz ≤ targetOf s n) then
      (withHearth s n fun h => { h with setMv := voltOf s n mhz, stepTo := some mhz }).modRail (n.val + 1) fun r =>
        { r with setMv := voltOf s n mhz }
    else s)

/-- STEP_DOWN: the stop first, then the lower voltage. -/
def execStepDown (n : Fin 16) (mhz : Nat) (s : State) : Out :=
  let h := s.hearth n
  .next (if mayChange s n && usableFreq s n mhz && decide (mhz < h.freq) && decide (targetOf s n ≤ mhz) then beginStop s n mhz else s)

/-- VOLTAGE_SETTLE_TIMEOUT: the voltage has not settled within 100 µs; the hearth stays at its frequency with reason 0x7. -/
def execVoltageSettleTimeout (n : Fin 16) (s : State) : Out :=
  .next
    (if (s.hearth n).stepTo.isSome then
      raiseS (withHearth s n fun h => { h with stepTo := none, unsettled := true }) 0x2011 (n.val + 1) 1 (s.hearth n).freq
    else s)

/-- HEARTH_FREEZE: 32 cycles, the longest route and 8 after the stop bit, the hearth freezes. -/
def execHearthFreeze (n : Fin 16) (s : State) : Out :=
  .next
    (match (s.hearth n).stopTo with
     | some (_, c) =>
       if (s.hearth n).restartAt.isNone ∧ c + 32 + s.flue.maxRoute + 8 ≤ s.flue.cycle then
         s.modHearth n fun h => { h with frozen := true } else s
     | none => s)

/-- GENERATOR_LOCK: the clock runs at the new frequency; its rows restart 16 cycles apart, the last at lock + 48. A step
down then writes the lower voltage. -/
def execGeneratorLock (n : Fin 16) (s : State) : Out :=
  let h := s.hearth n
  .next
    (match h.stopTo with
     | some (f, _) =>
       if h.frozen = true ∧ h.restartAt.isNone then
         let v := if f < h.freq ∧ h.state ≠ 4 ∧ h.state ≠ 5 then voltOf s n f else h.setMv
         (withHearth s n fun h => { h with freq := f, setMv := v, unsettled := false, restartAt := some (s.flue.cycle + 48), changedAt := some s.flue.cycle }).modRail
           (n.val + 1) fun r => { r with setMv := v }
       else s
     | none => s)

/-! ### Stretches and margins (R400, R404, R405) -/

def addReason (l : List Nat) (r : Nat) : List Nat := if l.contains r then l else l ++ [r]

/-- Stretch a hearth for a reason, or end that reason's stretch; no stretch at 600 MHz. -/
def stretch (s : State) (n r : Nat) (on : Bool) : State :=
  withHearth s n fun h =>
    { h with stretch := if on then (if h.freq = 600 then h.stretch else addReason h.stretch r) else h.stretch.filter fun x => decide (x ≠ r) }

/-- CLOCK_STRETCH: engages or ends for one of the reasons that stretch. -/
def execClockStretch (n : Fin 16) (r : Nat) (on : Bool) (s : State) : Out :=
  .next (if r = 2 ∨ r = 4 ∨ r = 6 ∨ r = 0xC then stretch s n r on else s)

/-- MARGIN_WINDOW: the codes of the window's end move the margin limit in margin-steered mode. -/
def execMarginWindow (n : Fin 16) (codes : List (Site × List Nat)) (s : State) : Out :=
  let mine := codes.filter fun e => decide (hearthOfSite e.1 = n.val)
  let m := (mine.flatMap (·.2)).foldl min 63
  let keep : List (Nat × U8) := mine.flatMap fun (e : Site × List Nat) =>
    (e.2.zipIdx 0).map fun (c : Nat × Nat) => (8 * e.1 + c.2 % 8, BitVec.ofNat 8 (c.1 % 64))
  .next
    (withHearth s n fun h =>
      let h := { h with mH := m, minima := keep.foldl (fun (a : SMap U8) (e : Nat × U8) => mset 0 a e.1 e.2) h.minima, above := if setting s 0x2030 3 < m then min 10 (h.above + 1) else 0 }
      let steered := decide (setting s 0x2012 (n.val + 1) = 0)
      let h := { h with fixedRun := h.fixedRun && !(steered && decide (s.recov.dev = 3)) }
      if !steered then h
      else if m < setting s 0x2030 2 then { h with margin := max 600 (h.margin - 25) }
      else if h.above = 10 then { h with margin := min 2000 (h.margin + 25) } else h)

/-- MARGIN_EMERGENCY: a code at or below E stretches the clock until every code has stayed above Lo for 1 µs. -/
def execMarginEmergency (n : Fin 16) (code : Nat) (aboveLoFor1us : Bool) (s : State) : Out :=
  .next
    (if code ≤ setting s 0x2030 1 then stretch s n 2 true
     else if aboveLoFor1us = true ∧ setting s 0x2030 2 < code then stretch s n 2 false else s)

/-! ### Rail current and temperature (R418, R419) -/

/-- RAIL_CURRENT_LIMIT: once per 25 µs, with the 1 ms average and the estimate in A. -/
def execRailCurrentLimit (n : Fin 16) (avgA estA : Nat) (below1050for1ms : Bool) (s : State) : Out :=
  let t := withHearth s n fun h =>
    if 1100 < avgA then { h with railLim := max 600 (h.railLim - 25) }
    else if below1050for1ms then { h with railLim := min 2000 (h.railLim + 25) } else h
  .next (stretch t n 6 (decide (1300 < estA)))

/-- JUNCTION_SENSOR_READ: the hottest sensor every 10 µs; the limit moves at the 100 µs marks, and drops to 600 MHz at
100 °C. -/
def execJunctionSensorRead (n : Fin 16) (hottest : F32) (at100us : Bool) (s : State) : Out :=
  let t := fv32 hottest
  let lim := fv32 (BitVec.ofNat 32 (setting s 0x2201 1))
  .next
    (withHearth s n fun h =>
      let h := { h with junction := hottest }
      if !(t.lt (ofInt 100)) then { h with thermal := 600 }
      else if !at100us then h
      else if lim.lt t then { h with thermal := max 600 (h.thermal - 25) }
      else if t.lt (lim.sub (ofInt 3)) then { h with thermal := min 2000 (h.thermal + 25) } else h)

end Sys2Proof.Machine
end

