-- ==== Sys2Proof/Machine/Rails.lean ====
section
/-! DEFINITION. Power cap, rails, lost sidebands, the damper, hearths switched off and lost, and the reduction of
rectangles (R258, R410 to R421, R427 to R433). -/

namespace Sys2Proof.Machine

/-! ### Numbers -/

/-- Exact value of a finite binary32; 0 for any other. -/
def ratOf (x : F32) : Rat :=
  match fv32 x with
  | .fin n m e =>
    let a : Rat := if 0 ≤ e then ((m * 2 ^ e.toNat : Nat) : Rat) else (m : Rat) / ((2 ^ (-e).toNat : Nat) : Rat)
    if n then -a else a
  | _ => 0

/-- Nearest binary32. -/
def f32Of (q : Rat) : F32 := rn32 ((ofInt q.num).div (ofInt q.den))

/-! ### The cap (R416, R417, R421) -/

/-- The device is in a broker group and PTP is locked (R352, R416). -/
def brokered (s : State) : Bool := decide (setting s 0x4120 1 ≠ 0) && decide (s.ctl.ptpState = 2)

/-- Base device cap, 0x2130.01. -/
def baseCap (s : State) : F32 := BitVec.ofNat 32 (setting s 0x2130 1)

/-- The cap in force C, never above 15,000 W. -/
def capInForce (s : State) : F32 :=
  let c := if brokered s then s.power.alloc.getD (baseCap s) else baseCap s
  if ratOf c ≤ 15000 then c else 0x466A6000

/-- Highest floor among the running bakes placed on a hearth; none without one. -/
def floorOf (s : State) (n : Nat) : Option Nat :=
  let l := (s.baker.slots.filter fun e => decide (e.2.state = 3) && (bakeCores e.2).any fun c => decide (hearthOf s c = n)).map
    fun e => phFloor e.2.pkg.hdr
  if l.isEmpty then none else some (l.foldl max 0)

/-- Move the ceilings of the hearths that a test picks, each between its least and its greatest value. -/
def moveCeilings (s : State) (pick : Nat → Bool) (f : Nat → Nat → Nat) : State :=
  ((List.range 16).filter pick).foldl (fun t n => withHearth t n fun h => { h with ceiling := f n h.ceiling }) s

/-- Lower the cap ceiling by one step, in the order of the floor policy. -/
def lowerCeiling (s : State) : State :=
  let c (n : Nat) : Nat := (s.hearth n).ceiling
  let all := List.range 16
  let idle := all.filter fun n => (floorOf s n).isNone && decide (600 < c n)
  let busy := all.filter fun n => match floorOf s n with
    | some f => decide (max 600 f < c n)
    | none => false
  if setting s 0x2131 1 = 1 then moveCeilings s (fun _ => true) fun _ x => max 600 (x - 25)
  else if !idle.isEmpty then moveCeilings s (fun n => idle.contains n) fun _ x => max 600 (x - 25)
  else if !busy.isEmpty then
    moveCeilings s (fun n => busy.contains n) fun n x => max (max 600 ((floorOf s n).getD 600)) (x - 25)
  else moveCeilings s (fun _ => true) fun _ x => max 600 (x - 25)

/-- Raise it by one step, in reverse order. -/
def raiseCeiling (s : State) : State :=
  let c (n : Nat) : Nat := (s.hearth n).ceiling
  let all := List.range 16
  let below := all.filter fun n => match floorOf s n with
    | some f => decide (c n < f)
    | none => false
  let busy := all.filter fun n => (floorOf s n).isSome && decide (c n < 2000)
  if setting s 0x2131 1 = 1 then moveCeilings s (fun _ => true) fun _ x => min 2000 (x + 25)
  else if !below.isEmpty then moveCeilings s (fun n => below.contains n) fun _ x => x + 25
  else if !busy.isEmpty then moveCeilings s (fun n => busy.contains n) fun _ x => min 2000 (x + 25)
  else moveCeilings s (fun _ => true) fun _ x => min 2000 (x + 25)

/-- CAP_CONTROLLER_RUN: every 10 µs, with the 1 ms average, the 1 µs estimate and the two durations of R417. Capping steps
need a Stoker; the excursion stretch does not (R453). -/
def execCapControllerRun (avg est : F32) (belowFor100us aboveFor10ms : Bool) (aboveUs : U32) (s : State) : Out :=
  let c := ratOf (capInForce s)
  let a := ratOf avg
  let s1 : State := { s with power := { s.power with power := avg, aboveUs := aboveUs } }
  let s2 := if 18000 < ratOf est then (List.range 16).foldl (fun t n => stretch t n 4 true) s1
    else if ratOf est < c then (List.range 16).foldl (fun t n => stretch t n 4 false) s1 else s1
  .next
    (if s.recov.active = 0 then s2
     else
       let on := aboveFor10ms || decide (10000 ≤ aboveUs.toNat) || (s.power.excursion && decide (c * 95 / 100 < a))
       let s3 : State := { s2 with power := { s2.power with excursion := on } }
       if c < a ∨ on = true then lowerCeiling s3
       else if belowFor100us = true ∧ a < c * 98 / 100 then raiseCeiling s3 else s3)

/-! ### The damper (R414, R415) -/

/-- BOOST: an action of the boost cells with its current in A, and whether it overran. -/
def execBoost (n : Fin 16) (amps : F32) (over_ : Bool) (s : State) : Out :=
  .next
    (if (s.hearth n).damper then s.modHearth n fun h =>
      { h with
        boosts := h.boosts + 1, overruns := if over_ then h.overruns + 1 else h.overruns,
        maxBoost := rn32 ((fv32 h.maxBoost).maxNum (fv32 amps)) }
    else s)

/-- SHUNT: an action of the shunt cells. -/
def execShunt (n : Fin 16) (over_ : Bool) (s : State) : Out :=
  .next
    (if (s.hearth n).damper then s.modHearth n fun h =>
      { h with shunts := h.shunts + 1, overruns := if over_ then h.overruns + 1 else h.overruns }
    else s)

/-! ### Rails: telemetry and status (R411, R412, R432, R433) -/

/-- Safe hold of a hearth whose AVSBus is lost: it takes f_safe, makes no further voltage step and stops down to f_safe if
it runs above it. -/
def safeHold (s : State) (n : Nat) : State :=
  let h := s.hearth n
  if !(decide (h.state = 0) || decide (h.state = 1)) then s
  else
    let v := min (voltOf s n h.freq) h.setMv
    let fits := ((List.range 57).map fun i => 600 + 25 * i).filter fun f => decide (voltOf s n f ≤ v)
    let safe := if h.stepTo.isSome then fits.foldl max 600 else h.freq
    let t := withHearth s n fun h => { h with state := 4, safeLim := safe, stepTo := none }
    let t := t.modRail (n + 1) fun r => { r with state := 3, valid := false }
    let t := raiseS t 0x2011 (n + 1) 1 8
    if safe < h.freq ∧ h.stopTo.isNone ∧ controllerRuns s n = true then beginStop t n safe else t

/-- AVSBUS_TELEMETRY_READ of rail record r = rail + 1: voltage and current, or a failed transaction; the third failure in a
row loses the bus for the rail. A settled step up begins its stop. -/
def execAvsbusTelemetryRead (rail : Fin 22) (r : Option (F32 × F32)) (s : State) : Out :=
  let i := rail.val + 1
  .next
    (match r with
     | none =>
       let t := s.modRail i fun x => { x with fails := x.fails + 1, valid := x.valid && decide (x.fails < 2) }
       if (t.rail i).fails = 3 then (if rail.val < 16 then safeHold t rail.val else raiseS t 0x2100 i 1 i) else t
     | some (v, a) =>
       let t := s.modRail i fun x => { x with volts := v, amps := a, readAt := s.flue.cycle, fails := 0, valid := true }
       let h := t.hearth rail.val
       let off := ratOf v * 1000 - h.setMv
       match h.stepTo with
       | some f =>
         if rail.val < 16 ∧ -10 ≤ off ∧ off ≤ 10 ∧ controllerRuns s rail.val = true then
           beginStop (t.modHearth rail.val fun h => { h with stepTo := none }) rail.val f else t
       | none => t)

/-- STATUS_WORD reports an output fault: VOUT, IOUT, VOUT_OV or IOUT_OC of PMBus 1.3 (PRESUMED, log entry 18). -/
def outputFault (w : U16) : Bool := bitAt w 15 || bitAt w 14 || bitAt w 5 || bitAt w 4

/-- STATUS_WORD: the word read; after a fault read the device clears the faults. -/
def execStatusWord (rail : Fin 22) (w : U16) (s : State) : Out :=
  .next (s.modRail (rail.val + 1) fun x => { x with status := w, state := if outputFault w then 2 else x.state })

/-- PMBUS_LOSS (R431). -/
def execPmbusLoss (bus : Fin 2) (s : State) : Out :=
  .next
    (if s.power.pmbusLost.contains bus.val then s
     else raiseS { s with power := { s.power with pmbusLost := s.power.pmbusLost ++ [bus.val] } } 0x2102 1 1 bus.val)

/-- SAFE_HOLD: 100 µs without valid telemetry. -/
def execSafeHold (n : Fin 16) (s : State) : Out := .next (safeHold s n)

/-- SAFE_HOLD_END: telemetry has been valid for 1 ms; an interrupted step may start again from its beginning. -/
def execSafeHoldEnd (n : Fin 16) (s : State) : Out :=
  .next
    (if (s.hearth n).state = 4 ∧ (s.rail (n.val + 1)).valid = true then
      raiseS ((withHearth s n fun h => { h with state := if h.stopTo.isSome then 1 else 0, safeLim := 2000 }).modRail (n.val + 1) fun r =>
        { r with state := 0 }) 0x2011 (n.val + 1) 0 0
    else s)

/-- RAIL_UNMANAGED: safe hold has lasted 0x2103.01; the Stoker declares the rail unmanaged. -/
def execRailUnmanaged (n : Fin 16) (s : State) : Out :=
  .next
    (if (s.hearth n).state = 4 ∧ s.recov.active ≠ 0 then
      raiseS ((withHearth s n fun h => { h with state := 5 }).modRail (n.val + 1) fun r => { r with state := 4 }) 0x2100 (n.val + 1) 3 9
    else s)

/-- A write of 1 to 0x2104.r: back to managed operation, or the abort code while telemetry is not valid (R433). -/
def returnManaged (s : State) (n : Nat) : Nat × State :=
  if !(s.rail (n + 1)).valid then (0x06090030, s)
  else if n < 16 ∧ (s.hearth n).state = 5 then
    (0, (withHearth s n fun h => { h with state := 0, safeLim := 2000 }).modRail (n + 1) fun r => { r with state := 0 })
  else (0, s)

/-! ### Hearths switched off (R427) -/

/-- Sites a bake's schedule passes. -/
def bakeSites (s : State) (k : Bake) : List Site :=
  ((bakeCores k).filterMap (siteOf s)) ++ (((k.place.map (·.tables)).getD []).filter fun e => e.2.any fun w => decide (w ≠ idleEntry)).map (·.1)

/-- No bake has an instance or a scheduled route in the hearth, and no draught route of the compile in force crosses it
(0x2015.n). -/
def transitFree (s : State) (n : Nat) : Bool :=
  !(s.baker.slots.any fun e => e.2.place.isSome && (bakeSites s e.2).any fun p => decide (hearthOfSite p = n)) &&
    !(s.flue.routes.any fun r =>
      let first := if 256 ≤ r.1 then (portSite (r.1 - 256)).1 else r.1
      (pathSites s r.2.2 first ++ [first]).any fun p => decide (hearthOfSite p = n))

/-- Cores of a hearth. -/
def hearthCores (s : State) (n : Nat) : List CoreId := (hearthSites n).filterMap (coreAt s)

/-- The supply of the cores is gone: their scratchpads are invalid, no retention is kept, and nothing runs (R188, R190, R427). -/
def loseScratch (s : State) (l : List CoreId) : State :=
  l.foldl (fun t c => t.modCore c fun k => { k with pad := { passes := k.pad.passes }, power := .on }) s

/-- A write of 0x2014.n. -/
def setPower (s : State) (n v : Nat) : Nat × State :=
  let h := s.hearth n
  if v = 1 ∧ h.state ≠ 2 then
    if !transitFree s n || decide (h.state = 3) then (0x08000028, s)
    else
      let t := withHearth (loseScratch (putSetting s 0x2014 (n + 1) 1) (hearthCores s n)) n fun h =>
        { h with state := 2, clamped := true, power := false, damper := false, stepTo := none, stopTo := none, frozen := s.aon.thermTrip, restartAt := none }
      (0, setStop (t.modRail (n + 1) fun r => { r with state := 1 }) n true)
  else if v = 0 ∧ h.state = 2 then
    let t := withHearth (putSetting s 0x2014 (n + 1) 0) n fun h =>
      { h with state := 0, clamped := false, power := true, damper := true, fixedRun := true, margin := 600, freq := 600, setMv := voltOf s n 600 }
    (0, setStop (t.modRail (n + 1) fun r => { r with state := 0, setMv := voltOf s n 600 }) n false)
  else (0, s)

/-! ### Trips and losses (R258, R428, R429) -/

/-- UNDERVOLTAGE_TRIP: the isolation cells clamp, the stop bit is set and the damper is off; flits on their way into the
hearth are lost. A hearth that is switched off is clamped already and does not trip (DESIGN CHOICE, log entry 122). -/
def execUndervoltageTrip (n : Fin 16) (s : State) : Out :=
  .next
    (if (s.hearth n).tripped || decide ((s.hearth n).state = 3) || decide ((s.hearth n).state = 2) then s
     else
       let t := s.modHearth n fun h => { h with tripped := true, clamped := true, damper := false }
       let t := setStop t n true
       { t with flue := { t.flue with moving := t.flue.moving.filter fun m => decide (hearthOfSite m.site ≠ n.val) } })

/-- OVERVOLTAGE: the device writes OPERATION off (R428). -/
def execOvervoltage (n : Fin 16) (s : State) : Out :=
  .next ((s.modHearth n fun h => { h with power := false }).modRail (n.val + 1) fun r => { r with state := 1 })

/-- Bounds word of a rectangle (R270). -/
def rectWord (x0 x1 y0 y1 : Nat) : Nat := x0 * 2 ^ 20 + x1 * 2 ^ 16 + y0 * 2 ^ 12 + y1 * 2 ^ 8 + 1

/-- Least by an order among candidates. -/
def leastBy (lt : Rect → Rect → Bool) : List Rect → Option Rect
  | [] => none
  | r :: t => some (t.foldl (fun a b => if lt b a then b else a) r)

/-- Logical cores of a rectangle. -/
def rectCount (r : Rect) : Nat := (r.x1 + 1 - r.x0) * (r.y1 + 1 - r.y0)

/-- Greatest rectangle within the old bounds without a site of the lost hearth (R258). -/
def reducedRect (s : State) (r : Rect) (n : Nat) : Option Rect :=
  let xs := (List.range 16).filter fun x => decide (r.x0 ≤ x) && decide (x ≤ r.x1)
  let ys := (List.range 15).filter fun y => decide (r.y0 ≤ y) && decide (y ≤ r.y1)
  let bad (x y : Nat) : Bool := match siteOf s (16 * y + x) with
    | some p => decide (hearthOfSite p = n)
    | none => false
  let lost : List (Nat × Nat) := xs.flatMap fun x => (ys.filter (bad x)).map fun y => (x, y)
  let all : List Rect := xs.flatMap fun a => (xs.filter fun b => decide (a ≤ b)).flatMap fun b =>
    ys.flatMap fun c => (ys.filter fun d => decide (c ≤ d)).map fun d => ⟨a, b, c, d⟩
  let ok := all.filter fun q =>
    !(lost.any fun p => decide (q.x0 ≤ p.1) && decide (p.1 ≤ q.x1) && decide (q.y0 ≤ p.2) && decide (p.2 ≤ q.y1)) &&
      !((rectSites s q).any fun p => decide (hearthOfSite p = n))
  let cols (q : Rect) : Nat := q.x1 - q.x0
  leastBy (fun a b =>
    decide (rectCount b < rectCount a) || (decide (rectCount a = rectCount b) &&
      (decide (cols b < cols a) || (decide (cols a = cols b) &&
        (decide (a.x0 < b.x0) || (decide (a.x0 = b.x0) && decide (a.y0 < b.y0))))))) ok

/-- Ring ports of a mask whose routers remain, at some sites (R258). -/
def keepPorts (s : State) (sites : List Site) (mask : Nat) : Nat :=
  (List.range 64).foldl (fun a m =>
    if bitAt (BitVec.ofNat 64 mask) m && hasRouter s (portSite m).1 && sites.contains (portSite m).1 then a + 2 ^ m else a) 0

/-- Routers of some sites that stand outside every rectangle carry tenant ID 0x00, and only draught traffic (R257). -/
def releaseRouters (s : State) (l : List Site) : State :=
  (l.filter fun p => !((List.range 64).any fun i => match rectOf s (i + 1) with
      | some r => (rectSites s r).contains p
      | none => false)).foldl
    (fun t p =>
      let u := t.modRouter p fun r => { r with sched := {}, staged := none }
      match coreAt u p with
      | some c => u.modCore c fun k => k.modIsland fun i => { i with tenant := 0 }
      | none => u) s

/-- Reduce a rectangle that holds sites of a lost hearth; one that cannot be reduced becomes undefined, its bake paused. -/
def reduceRect (s : State) (n : Nat) (t : Nat) : State :=
  match rectOf s t with
  | none => s
  | some r =>
    if !(rectHearths s t).contains n then s
    else
      let ports (l : List Site) : Nat := keepPorts s l (setting s 0x3502 t)
      match reducedRect s r n with
      | some q =>
        let u := putSetting (putSetting s 0x3501 t (rectWord q.x0 q.x1 q.y0 q.y1)) 0x3502 t (ports (rectSites s q))
        let u := releaseRouters u (rectSites s r)
        raiseS { u with baker := { u.baker with rectState := mset 0 u.baker.rectState t 3 } } 0x3503 t 3 n
      | none =>
        let u := putSetting (putSetting s 0x3501 t 0) 0x3502 t (ports [])
        let u := releaseRouters u (rectSites s r)
        let u := raiseS { u with baker := { u.baker with rectState := mset 0 u.baker.rectState t 0 } } 0x3503 t 3 n
        (u.baker.slots.filter fun e => decide (e.2.state ≠ 0) && decide (e.2.tenant.toNat = t)).foldl (fun v e => pauseBake v e.1 2) u

end Sys2Proof.Machine
end

