-- ==== Sys2Proof/Machine/CoreMap.lean ====
section
/-! DEFINITION. Failures of cores, in-service spares, bypass growth and the moments at which the core map changes (R21 to
R25, R79 to R81, R479). -/

namespace Sys2Proof.Machine

/-- Sites whose proved crossing exceeds 6 cycles: defective at this cold start (R402). -/
def slowSites (s : State) : List Site :=
  (s.map.crossing.filter fun e => decide (6 < e.2.1) || decide (6 < e.2.2)).map (·.1)

/-- Sites that are no longer good: fused defective, failed in service, or too slow to cross at this start. -/
def badSites (s : State) : List Site := s.fuse.defective ++ s.aon.recA.failedSites ++ slowSites s

/-- Sites left out of a column by R21 and R25: every defective site, and the southmost good ones up to the grade's
count. -/
def leaveOut (g : Grade) (bad : List Site) (col : Nat) : List Nat :=
  let d := (List.range 16).filter fun r => bad.contains (16 * r + col)
  let good := ((List.range 16).filter fun r => !d.contains r).reverse
  d ++ good.take (g.leftOut - d.length)

def rowMask (l : List Nat) : U16 := BitVec.ofNat 16 (l.foldl (fun a r => a + 2 ^ r) 0)

/-- Good spared rows of a column that no core has taken over yet. -/
def spareRows (s : State) (col : Nat) : List Nat :=
  (List.range 16).filter fun r =>
    bitAt (spareMap s col) r && !(badSites s).contains (16 * r + col) && hearthLive s (hearthOfSite (16 * r + col)) &&
      !((List.range (gridSize s)).any fun c => decide (c % 16 = col) &&
        (decide (mget 255 s.map.subRow c = r) || decide (mget .bypass s.map.pending c = .substitute r)))

/-- Nearest of some rows to a row; the tie goes to the south. -/
def nearestRow (r : Nat) (l : List Nat) : Option Nat :=
  let d (x : Nat) : Nat := if x < r then 2 * (r - x) + 1 else 2 * (x - r)
  l.foldl (fun a x => match a with
    | none => some x
    | some y => if d x < d y then some x else some y) none

/-- A bake has an instance on the core, or a scheduled route through its column. -/
def usesColumn (s : State) (k : Bake) (c : CoreId) : Bool :=
  (bakeCores k).contains c ||
    ((k.place.map (·.tables)).getD []).any fun e => decide (siteCol e.1 = c % 16) && e.2.any fun w => decide (w ≠ idleEntry)

/-- Set a pending change, with the first of the two increments of the map generation (R479). -/
def pend (s : State) (c : CoreId) (p : Pending) : State :=
  { s with map := { s.map with
      pending := (s.map.pending.filter fun e => decide (e.1 ≠ c)) ++ [(c, p)], gen := s.map.gen + 1 } }

/-- Retire a core as a hole; a change that was pending for it is gone (R23, R479). -/
def retireCore (s : State) (c : CoreId) : State :=
  raiseS { s with map := { s.map with
    width := mset 512 s.map.width c 0, gen := s.map.gen + 1,
    pending := s.map.pending.filter fun e => decide (e.1 ≠ c) } } 0x3002 (c + 1) 3 c

/-- The bakes that use the core or route through its column have all been fenced and not been placed again: none runs on the
old paths, nor waits pre-empted to run on them (R24, R479). -/
def mayTakeEffect (s : State) (c : CoreId) : Bool :=
  s.baker.slots.all fun e => e.2.place.isNone || !usesColumn s e.2 c || decide (e.2.state = 4) ||
    (decide (e.2.state = 5) && !e.2.filling) ||
    (decide (e.2.state = 7) && !e.2.preempted && !e.2.draining && !e.2.noRoute)

/-- A core whose site another core has taken over, or that runs on fewer columns: everything of the old one is gone but the
counters, which are the logical core's (R84). -/
def Core.replaced (k : Core) : Core := { live := k.live, pub := k.pub, pubs := k.pubs }

/-- The pending change of a core takes effect, with the second increment of the map generation. -/
def takeEffect (s : State) (c : CoreId) : State :=
  match s.map.pending.find? fun e => decide (e.1 = c) with
  | none => s
  | some (_, p) =>
    let t : State := { s with map := { s.map with
      pending := s.map.pending.filter fun e => decide (e.1 ≠ c), gen := s.map.gen + 1 } }
    let t := match p with
      | .substitute r => { t with
          map := { t.map with subRow := mset 255 t.map.subRow c r },
          cores := mmod {} t.cores c Core.replaced }
      | .bypass => t
    { t with map := { t.map with width := mset 512 t.map.width c (fullWidth t c) } }

/-- A change takes effect at once where no bake in force uses the core or its column (R479). -/
def settleChange (s : State) (c : CoreId) : State := if mayTakeEffect s c then takeEffect s c else s

/-- A bypass set of the core has grown and waits for its boundary: its bakes still run it until they are fenced. -/
def growthPending (s : State) (c : CoreId) : Bool :=
  decide ((s.map.pending.find? fun e => decide (e.1 = c)) = some (c, .bypass))

/-- The core works: of width above 0, or with a grown bypass set pending. -/
def coreWorks (s : State) (c : CoreId) : Bool := decide (0 < width s c) || growthPending s c

/-- A logical core fails in service: the nearest in-service spare of its column is to take it over, or it is retired; the
bakes concerned are fenced and placed again (R23, R24, R260). -/
def failCore (s : State) (c : CoreId) : State :=
  match rowOf s c with
  | none => s
  | some r =>
    let t := s.modRec fun x => { x with failedSites := x.failedSites ++ [16 * r + c % 16] }
    let hit (all : Bool) (u : State) : State :=
      triggerAll u 1 fun k => if all then usesColumn s k c else (bakeCores k).contains c
    match nearestRow r (spareRows t (c % 16)) with
    | some q => settleChange (hit true (raiseS (pend t c (.substitute q)) 0x3002 (c + 1) 3 c)) c
    | none => hit false (retireCore t c)

/-- A pending substitution whose spare lies in a hearth that is lost takes the next nearest spare, or the core is retired. -/
def rechoose (s : State) (c : CoreId) : State :=
  match rowOf s c with
  | none => s
  | some r =>
    let t : State := { s with map := { s.map with pending := s.map.pending.filter fun e => decide (e.1 ≠ c) } }
    match nearestRow r (spareRows t (c % 16)) with
    | some q => { t with map := { t.map with pending := t.map.pending ++ [(c, .substitute q)] } }
    | none => retireCore t c

/-- The pending changes that a lost hearth takes with it: those of its cores, which are retired, and the spares it held (R28, R479). -/
def dropPending (s : State) (n : Nat) (cores : List CoreId) : State :=
  let t : State := { s with map := { s.map with pending := s.map.pending.filter fun e => !cores.contains e.1 } }
  ((t.map.pending.filter fun e => match e.2 with
    | .substitute r => decide (hearthOfSite (16 * r + e.1 % 16) = n)
    | .bypass => false).map (·.1)).foldl rechoose t

/-- Declare a hearth lost: its cores are retired, its routers leave the Flue, rectangles are reduced, bakes that used it
are fenced and placed again, and the draught routes are compiled anew (R28, R228, R258, R260, R429). -/
def loseHearth (s : State) (n : Nat) : State :=
  let hit (k : Bake) : Bool := (bakeSites s k).any fun p => decide (hearthOfSite p = n)
  let bakes := (s.baker.slots.filter fun e => e.2.place.isSome && hit e.2).map (·.1)
  let cores := hearthCores s n
  let t := regovern (loseScratch s cores) n
  let t := t.modHearth n fun h => { h with state := 3, power := false, clamped := true, damper := false, tripped := true }
  let t := t.modRail (n + 1) fun r => { r with state := 1 }
  let t := t.modRec fun r => { r with lostHearths := r.lostHearths ++ [n] }
  let width := cores.foldl (fun m c => mset 512 m c 0) t.map.width
  let t : State := { t with map := { t.map with gen := t.map.gen + 1, width := width } }
  let t := dropPending t n cores
  let t : State := { t with flue := { t.flue with compiling := true, moving := t.flue.moving.filter fun m => decide (hearthOfSite m.site ≠ n) } }
  let t := raiseS t 0x2011 (n + 1) 3 n
  let t := (List.range 64).foldl (fun u i => if (rectHearths s (i + 1)).contains n then reduceRect u n (i + 1) else u) t
  bakes.foldl (fun u b => trigger u b 2) t

/-- HEARTH_LOSS_DECLARATION: by the active Stoker, on an output-fault status or 10 ms after the trip (R429, R453). -/
def execHearthLossDeclaration (n : Fin 16) (s : State) : Out :=
  .next (if (s.hearth n).tripped = true ∧ (s.hearth n).state ≠ 3 ∧ s.recov.active ≠ 0 then loseHearth s n else s)

/-- CORE_FAILURE. -/
def execCoreFailure (c : CoreId) (s : State) : Out := onCore s c (if coreWorks s c then failCore s c else s)

/-- MAP_CHANGE_EFFECT. -/
def execMapChangeEffect (c : CoreId) (s : State) : Out := onCore s c (settleChange s c)

/-- The array self-test of one core: newly failed columns join its bypass set, or the core is retired (R79 to R81). -/
def selfTestCore (s : State) (test : SelfTest) (c : CoreId) : State :=
  match siteOf s c with
  | none => s
  | some p =>
    let old := mget [] s.map.bypass p
    let found := (((test.columns.filter fun e => decide (e.1 = c)).flatMap (·.2)).filter fun x => decide (x < 512) && !old.contains x).dedup
    if !coreWorks s c then s
    else if test.whole.contains c || decide (8 < old.length + found.length) then failCore s c
    else if found.isEmpty then s
    else
      let t : State := { s with map := { s.map with
        bypass := mset [] s.map.bypass p ((old ++ found).mergeSort),
        added := mmod 0 s.map.added c (· + found.length) } }
      settleChange (triggerAll (pend t c .bypass) 1 fun k => usesColumn s k c) c

def selfTestCores (s : State) (test : SelfTest) (l : List CoreId) : State := l.foldl (fun t c => selfTestCore t test c) s

end Sys2Proof.Machine
end

