-- ==== Sys2Proof/Machine/AlwaysOn.lean ====
section
/-! DEFINITION. The always-on block: fuses and the retention latch, thermal trip and rail sequencing, swing counters, the
backup supply, time and the calendar, and the two copies of the persistent records (R31, R39, R43 to R48, R388 to R393,
R434). -/

namespace Sys2Proof.Machine

/-- Enter rescue mode (R453): state and cause, the event, no active Stoker. -/
def enterRescue (s : State) (st cause : U8) : State :=
  let t : State := { s with
    aon := { s.aon with rescue := st, cause := cause }, recov := { s.recov with dev := 5, active := 0 } }
  raise t 0x7110 1 3 0xFF (cause.setWidth 64)

/-- Everything but the always-on block, the fuses and host memory as before a start (R30, R434, R441). -/
def heldInReset (s : State) : State :=
  { State.reset with
    fuse := s.fuse, aon := s.aon, host := s.host, pending := s.pending,
    recov := { procs := s.recov.procs.map fun e => (e.1, { crash := e.2.crash }), last := s.recov.last } }

/-- The test port stays in bypass unless a presence window is open (R39, R372). -/
def testPortBypass (s : State) : Bool := !s.aon.window

/-- Copy B of the persistent records follows copy A (R392). -/
def writeCopyB (s : State) : State := { s with aon := { s.aon with recB := s.aon.recA } }

/-- COPY_B_WRITE: at most once every 10 s. -/
def execCopyBWrite (s : State) : Out := .next (writeCopyB s)

/-- The retention latch at a start: the calendar is marked invalid and runs from 2000-01-01, the records fall back to
copy B (R47, R391, R393). -/
def fallBack (s : State) : State :=
  let r : Records := { s.aon.recB with fallbacks := s.aon.recB.fallbacks + 1, swing := none, rising := true }
  { s with aon := { s.aon with
      latch := false, calValid := false, calendar := 0, calStopped := false, recA := r, recB := r, recSel := 1 } }

/-- VAON_IN_TOLERANCE: both fuse copies are read, the retention latch is evaluated and cleared, and everything else is held
in reset; a fuse word with both copies bad keeps it there (R31, R434). `badA` and `badB` are the words found bad. -/
def execVaonInTolerance (badA badB : List Nat) (nodeLow : Bool) (s : State) : Out :=
  let t := heldInReset { s with fuse := { s.fuse with badA := badA, badB := badB } }
  let t : State := { t with aon := { t.aon with
    onVbak := false, holder := 0, leaseLeft := 0, window := false, windowLeft := 0, thermTrip := false, rescue := 0, cause := 0 } }
  let t := if t.aon.latch || nodeLow then fallBack t else t
  .next (if badA.any badB.contains then enterRescue t 2 5 else t)

/-- Every hearth clock stops, and no change of frequency under way starts it again (R43). -/
def haltClocks (s : State) : State :=
  (List.range 16).foldl
    (fun t i => t.modHearth i fun h => { h with frozen := true, stepTo := none, stopTo := none, restartAt := none }) s

/-- THERMAL_TRIP: a sensor at 110 °C stops every hearth clock, asserts THERMTRIP_N and is recorded (R43, R392). -/
def execThermalTrip (n : Fin 16) (s : State) : Out :=
  let t := haltClocks s
  let t : State := { t with aon := { t.aon with thermTrip := true } }
  let t := t.modRec fun r => { r with thermTrips := r.thermTrips + 1 }
  .next (raise (writeCopyB t) 0x2200 (BitVec.ofNat 8 (n.val + 1)) 3 0xFF 0)

/-- RAIL_SEQUENCING_FAULT: whole-device reset is held and the fault is recorded (R45, R392). -/
def execRailSequencingFault (rail : Nat) (s : State) : Out :=
  let t := s.modRec fun r => { r with seqFaults := r.seqFaults ++ [rail] }
  .next (enterRescue (heldInReset (writeCopyB t)) 2 3)

/-- FIXED_RAIL_FAULT on VMEM, VMIF, VLNK or VCLK: whole-device reset with rescue cause 0x4 (R430, R442). -/
def execFixedRailFault (rail : Fin 22) (s : State) : Out :=
  .next (if rail.val < 16 then s else enterRescue (heldInReset s) 2 4)

/-! ### Swing counters (R47, R48) -/

/-- A counter that reaches 80 % or 100 % of its rated count raises an event. -/
def reachedRating (old new rated : Nat) : Bool :=
  decide (old < new) && (decide (new * 100 = rated * 80) || decide (new = rated))

/-- Count a swing in thousandths of a kelvin. -/
def classify (s : State) (swing : Int) : State :=
  let r := s.aon.recA
  if 40000 ≤ swing then
    let t := s.modRec fun r => { r with large := r.large + 1 }
    if reachedRating r.large.toNat (r.large.toNat + 1) Config.ratedLarge then raise t 0x2240 1 1 0xFF 0 else t
  else if 15000 ≤ swing then
    let t := s.modRec fun r => { r with medium := r.medium + 1 }
    if reachedRating r.medium.toNat (r.medium.toNat + 1) Config.ratedMedium then raise t 0x2240 2 1 0xFF 0 else t
  else s

/-- JUNCTION_AVERAGE_SAMPLE every 10 ms, in thousandths of a kelvin (here of a degree Celsius). -/
def execJunctionAverageSample (t : Int) (s : State) : Out :=
  let r := s.aon.recA
  let s := s.modRec fun r => { r with highest := some (max t (r.highest.getD t)) }
  .next
    (match r.swing with
     | none => s.modRec fun r => { r with swing := some (t, t), rising := true }
     | some (peak, trough) =>
       if r.rising ∧ t < peak - 15000 then
         (classify s (peak - trough)).modRec fun r => { r with swing := some (peak, min t t), rising := false }
       else if ¬ r.rising ∧ trough + 15000 < t then
         (classify s (peak - trough)).modRec fun r => { r with swing := some (max t t, trough), rising := true }
       else s.modRec fun r => { r with swing := some (if r.rising then (max peak t, trough) else (peak, min trough t)) })

/-! ### Presence and the supplies (R39, R372, R391, R393) -/

/-- PRESENCE_N_CHANGE after the debounce: deassertion closes the window. -/
def execPresenceNChange (asserted : Bool) (s : State) : Out :=
  .next { s with aon := { s.aon with
    presence := asserted, window := s.aon.window && asserted, windowLeft := if asserted then s.aon.windowLeft else 0 } }

/-- ALWAYS_ON_SOURCE_SWITCH: to VBAK below 2.90 V, back to VAON after 10 ms at or above 3.05 V; the monitor latches below
1.80 V. Loss of VAON releases the semaphore and closes the window (R371, R372). -/
def execAlwaysOnSourceSwitch (vaonMv : Nat) (held10ms : Bool) (nodeMv : Nat) (s : State) : Out :=
  let a := s.aon
  let lost := decide (vaonMv < 2900) && !a.onVbak
  let back := a.onVbak && decide (3050 ≤ vaonMv) && held10ms
  .next { s with
    ctl := if lost then { s.ctl with dict := { s.ctl.dict with staging := [] } } else s.ctl
    aon := { a with
    onVbak := (a.onVbak || lost) && !back, latch := a.latch || decide (nodeMv < 1800),
    holder := if lost then 0 else a.holder, leaseLeft := if lost then 0 else a.leaseLeft,
    window := a.window && !lost, windowLeft := if lost then 0 else a.windowLeft } }

/-- VBAK_READ every second: an event when VBAK falls below 0x1401.03. -/
def execVbakRead (v : F32) (s : State) : Out :=
  let low := (fv32 v).lt (fv32 (BitVec.ofNat 32 (setting s 0x1401 3)))
  let t : State := { s with aon := { s.aon with vbak := v, vbakLow := low } }
  .next (if low && !s.aon.vbakLow then raise t 0x1401 1 1 0xFF 0 else t)

/-! ### Time (R388 to R390) -/

/-- PPS_IN_EDGE: timestamped, never steering the clock. -/
def execPpsInEdge (s : State) : Out := .next { s with ctl := { s.ctl with pps := s.aon.calendar, ppsSeen := true } }

/-- The instant at which the calendar stops: 3000-01-01, in units of 1/8 ns since 2000-01-01. -/
def calendarMax : Nat := 365243 * 86400 * 8000000000

/-- PTP_SYNC_MESSAGE: offset measured; while locked the calendar follows PTP time less the UTC offset, given in ns since
2000-01-01. -/
def execPtpSyncMessage (port : Fin 2) (offset : Int) (utcNs : Nat) (s : State) : Out :=
  let t : State := { s with ctl := { s.ctl with ptpOff := offset, ptpPort := BitVec.ofNat 8 (port.val + 1), ptpUtc := utcNs } }
  .next
    (if s.ctl.ptpState = 2 then
      { t with aon := { t.aon with calendar := min (8 * utcNs) (calendarMax - 1), calValid := true } } else t)

/-- PTP_STATE_CHANGE by the times of R388: `port` 0 for no master present. -/
def execPtpStateChange (port : U8) (sinceSyncMs lockedForMs : Nat) (s : State) : Out :=
  let near := decide (s.ctl.ptpOff.natAbs ≤ 100)
  let st : U8 :=
    if port = 0 ∨ (s.ctl.ptpState = 3 ∧ 12000 ≤ sinceSyncMs) ∨ (s.ctl.ptpState = 0 ∧ 2000 ≤ sinceSyncMs) then 0
    else if 2000 ≤ sinceSyncMs then 3
    else if near ∧ 10000 ≤ lockedForMs then 2
    else if s.ctl.ptpState = 2 ∧ near then 2 else 1
  .next { s with
    ctl := { s.ctl with ptpState := st, ptpPort := if st = 0 then 0 else port },
    aon := { s.aon with calValid := s.aon.calValid || decide (st = 2) } }

/-- LEAP_SECOND announced by the master: second 59 is repeated. -/
def execLeapSecond (s : State) : Out :=
  .next { s with aon := { s.aon with
    calendar := if s.ctl.ptpState = 2 then s.aon.calendar - 8000000000 else s.aon.calendar } }

/-- CALENDAR_END: at the last instant of 2999 the calendar stops and raises an event. -/
def execCalendarEnd (s : State) : Out :=
  .next
    (if calendarMax - 8 ≤ s.aon.calendar ∧ s.aon.calStopped = false then
      raise { s with aon := { s.aon with calendar := calendarMax - 8, calStopped := true } } 0x1400 1 0 0xFF 0
    else s)

def leapYear (y : Nat) : Bool := decide (y % 4 = 0) && (!decide (y % 100 = 0) || decide (y % 400 = 0))

def monthDays (y m : Nat) : Nat :=
  if m = 2 then (if leapYear y then 29 else 28) else if m = 4 ∨ m = 6 ∨ m = 9 ∨ m = 11 then 30 else 31

/-- A DATE that R390 accepts. -/
def dateOk (d : Date) : Bool :=
  decide (2000 ≤ d.year) && decide (d.year ≤ 2999) && decide (1 ≤ d.month) && decide (d.month ≤ 12) && decide (1 ≤ d.day) &&
    decide (d.day ≤ monthDays d.year d.month) && decide (d.hour ≤ 23) && decide (d.minute ≤ 59) && decide (d.second ≤ 59) &&
    decide (d.nano ≤ 999999999)

/-- Days from 2000-01-01 to the first of January of year 2000 + `n`. -/
def daysTo : Nat → Nat
  | 0 => 0
  | n + 1 => daysTo n + (if leapYear (2000 + n) then 366 else 365)

/-- Days of year `y` before month `m`. -/
def daysBefore (y m : Nat) : Nat := ((List.range (m - 1)).map fun i => monthDays y (i + 1)).sum

/-- A DATE as nanoseconds since 2000-01-01. -/
def dateNs (d : Date) : Nat :=
  (((daysTo (d.year - 2000) + daysBefore d.year d.month + d.day - 1) * 86400) + d.hour * 3600 + d.minute * 60 + d.second) *
    1000000000 + d.nano

/-- Year and remaining days, from a number of days since 2000-01-01. -/
def yearGo : Nat → Nat → Nat → Nat × Nat
  | 0, y, d => (y, d)
  | f + 1, y, d => let n := if leapYear y then 366 else 365; if d < n then (y, d) else yearGo f (y + 1) (d - n)

def monthGo : Nat → Nat → Nat → Nat → Nat × Nat
  | 0, _, m, d => (m, d)
  | f + 1, y, m, d => if d < monthDays y m then (m, d) else monthGo f y (m + 1) (d - monthDays y m)

/-- The DATE of a number of nanoseconds since 2000-01-01. -/
def dateOfNs (ns : Nat) : Date :=
  let sec := ns / 1000000000
  let y := yearGo 1000 2000 (sec / 86400)
  let m := monthGo 12 y.1 1 y.2
  ⟨y.1, m.1, m.2 + 1, sec / 3600 % 24, sec / 60 % 60, sec % 60, ns % 1000000000⟩

/-- DATE on the wire (R357). -/
def dateBytes (d : Date) : List Byte :=
  leBytes 2 d.year ++ [BitVec.ofNat 8 d.month, BitVec.ofNat 8 d.day, BitVec.ofNat 8 d.hour, BitVec.ofNat 8 d.minute,
    BitVec.ofNat 8 d.second, 0] ++ leBytes 4 d.nano

def dateOfBytes (l : List Byte) : Date :=
  let n (o k : Nat) : Nat := ofLe (slice l o k)
  ⟨n 0 2, n 2 1, n 3 1, n 4 1, n 5 1, n 6 1, n 8 4⟩

/-- A write of 0x1400.01: refused while PTP is locked, or for an impossible date (R389, R390). -/
def setCalendar (s : State) (d : Date) : Nat × State :=
  if s.ctl.ptpState = 2 then (0x08000025, s)
  else if !dateOk d then (0x06090030, s)
  else (0, { s with aon := { s.aon with calendar := 8 * dateNs d, calValid := true, calStopped := false } })

end Sys2Proof.Machine
end

