-- ==== Sys2Proof/Machine/Arrays.lean ====
section
/-! DEFINITION. The matrix arrays of a core: MATMUL, the issue sequencer and the feeders, the loader, the accumulators, the
drains and the publication of counters (R51 to R73, R83, R84, R99 to R103, R110 to R113, R122, R123). -/

namespace Sys2Proof.Machine

/-- MATMUL: the array unit takes the step (R144). -/
def execMatmul (c : CoreId) (s : State) : Out :=
  onCore s c (atHead s c (isOp opMatmul) (s.modCore c fun k => issueFlight k false))

def Arrays.array (a : Arrays) (n : Nat) : Array4 := mget {} a.arr n
def Arrays.modArr (a : Arrays) (n : Nat) (f : Array4 → Array4) : Arrays := { a with arr := mmod {} a.arr n f }

/-- Context of the MATMUL in progress. -/
def jobCtx (s : State) (k : Core) : Option (Nat × MCtx) := k.arrays.job.map fun j => (j.1, mctx s k j.2.1 j.2.2)

/-- Context of a MATMUL in flight by order number. -/
def orderCtx (s : State) (k : Core) (order : Nat) : Option MCtx :=
  (k.seq.flight.find? fun i => decide (i.order = order)).map fun i => mctx s k i.step i.loops

/-! ### Starting and finishing a step (R73, R136) -/

/-- The oldest MATMUL not yet started becomes the job; its first weight load may start in this cycle. -/
def startJob (s : State) (k : Core) : Core :=
  if k.arrays.job.isSome then k
  else
    match k.seq.flight.find? fun i => decide (i.unit = .a) && !i.ready && !(k.arrays.draining.any fun d => decide (d.1 = i.order)) with
    | none => k
    | some i =>
      let x := mctx s k i.step i.loops
      k.modArrays fun a =>
        { (List.range 4).foldl
            (fun a n => a.modArr n fun q => { q with pass := 0, pos := 0, second := false, fetched := [], fetch := 0 }) a with
          job := some (i.order, i.step, i.loops),
          shadow := [], shadowSb := [], loadPass := 0, loadFrom := a.cycle, loadBuf := [], loadReq := 0, sideReq := 0,
          draining := a.draining ++ [(i.order, x.drains)] }

/-- Array `n` has issued every item of the job. -/
def issuedAll (x : MCtx) (a : Arrays) (n : Nat) : Bool := decide (x.share n = 0) || decide (x.passes ≤ (a.array n).pass)

/-- A MATMUL with no item to issue, no item on its way and no row to drain has done its work (R73). -/
def settle (s : State) (k : Core) : Core :=
  let k := match jobCtx s k with
    | none => k
    | some (_, x) => if (List.range 4).all (issuedAll x k.arrays) then k.modArrays fun a => { a with job := none } else k
  let busy (o : Nat) : Bool :=
    decide (k.arrays.job.map (·.1) = some o) || ((List.range 4).any fun n => (k.arrays.array n).waves.any fun w => decide (w.order = o))
  let done := (k.arrays.draining.filter fun d => decide (d.2 = 0) && !busy d.1).map (·.1)
  let k := k.modArrays fun a => { a with draining := a.draining.filter fun d => !done.contains d.1 }
  k.modSeq fun q => { q with flight := q.flight.map fun i => if done.contains i.order then { i with ready := true } else i }

/-! ### Feeders (R55, R56) and loader requests (R61) -/

/-- Vectors array `n` has issued in the job. -/
def issuedVecs (x : MCtx) (a : Array4) (n : Nat) : Nat := a.pass * x.share n + (a.pos - 1)

/-- The feeder asks for its next vector if its queues have room: at most 16 vectors fetched and not issued. -/
def feederReqs (x : MCtx) (a : Arrays) (n : Nat) : List BankReq × Arrays :=
  let r := a.array n
  let v := r.fetch
  if x.share n = 0 ∨ x.passes * x.share n ≤ v ∨ issuedVecs x r n + 16 ≤ v then ([], a)
  else
    let w := x.vecWords (x.pass (v / x.share n)) (x.vecNo n (v % x.share n))
    (w.map fun e => ⟨3, false, n, e.2, none, .feeder n v e.1⟩, a.modArr n fun q => { q with fetch := v + 1 })

/-- A first-K load waits while an undrained row needs the bank it would clear (R64). -/
def bankHeld (s : State) (k : Core) (x : MCtx) (p : Pass) : Bool :=
  let b := !k.arrays.bankLoad
  let needs (o : Nat) : Bool := match orderCtx s k o with
    | some y => decide (dZp y.da ≠ 0) && !y.wide
    | none => false
  p.first && !x.wide && (List.range 4).any fun n =>
    let r := k.arrays.array n
    (r.ready.any fun q => let e := mget {} r.acc q.1; decide (e.bank = b) && needs e.order) ||
      r.waves.any fun w => w.last && decide (w.bank = b) && needs w.order

/-- Number under which side words travel, beyond every PE row. -/
def sideRow : Nat := 1000

/-- The loader asks for side words, 64 a cycle, then for the words of the PE row due. -/
def loaderReqs (s : State) (k : Core) (x : MCtx) : List BankReq × Arrays :=
  let a := k.arrays
  if x.passes ≤ a.loadPass ∨ a.cycle < a.loadFrom then ([], a)
  else
    let p := x.pass a.loadPass
    let side := x.sideWords a.loadPass
    let due := a.shadow.length
    if due = 0 ∧ a.loadReq = 0 ∧ bankHeld s k x p then ([], a)
    else if a.sideReq < side.length then
      let l := slice side.zipIdx a.sideReq 64
      (l.map fun e => ⟨2, false, 0, e.1, none, .loader sideRow e.2⟩, { a with sideReq := a.sideReq + l.length })
    else if due < 128 ∧ a.loadReq = due then
      ((x.rowWordsOf p due).zipIdx.map fun e => ⟨2, false, 0, e.1, none, .loader due e.2⟩, { a with loadReq := due + 1 })
    else ([], a)

/-- Requests of one cycle enter the scratchpad's queue. -/
def postRequests (s : State) (k : Core) : Core :=
  match jobCtx s k with
  | none => k
  | some (_, x) =>
    let l := loaderReqs s k x
    let k := { k with arrays := l.2 }
    let f := (List.range 4).foldl (fun q n => let r := feederReqs x q.2 n; (q.1 ++ r.1, r.2)) (([] : List BankReq), k.arrays)
    { k with arrays := f.2, pad := { k.pad with waiting := k.pad.waiting ++ (l.1 ++ f.1).map (Waiting.mk · 0) } }

/-! ### The issue sequencer (R57, R59, R62, R83) -/

/-- Words of a vector the feeder holds, by index; none while one is missing. -/
def haveWords (l : List FeedWord) (v : Nat) (want : List Nat) : Option (List (U64 × Bool)) :=
  want.mapM fun i => (l.find? fun f => decide (f.vec = v) && decide (f.idx = i)).map fun f => (f.data, f.poison)

inductive Outcome5 where
  | token | valid | dry | drainHold | loadWait | barrier
  deriving DecidableEq, Repr

/-- Column-sum bank, active tile and loader after a swap token (R62, R64). -/
def swapTile (a : Arrays) : Arrays :=
  { a with
    active := a.shadow, activeSb := a.shadowSb, bankUse := a.bankLoad, shadow := [], shadowSb := [],
    loadPass := a.loadPass + 1, loadFrom := a.cycle + 1, loadBuf := [], loadReq := 0, sideReq := 0 }

/-- Every array with a share has reached its swap token for the same tile. -/
def allAtToken (x : MCtx) (a : Arrays) (pass : Nat) : Bool :=
  (List.range 4).all fun n => decide (x.share n = 0) || (decide ((a.array n).pass = pass) && decide ((a.array n).pos = 0))

/-- A row holds a result that its drain has still to write, complete or with its last-K item on the wavefront. A row counts as
completed from the issue of that item on, and in S7F both rows of the pair: a first-K vector that passed it would change what
the drain writes, against R87 (DEDUCED, log entry 126). -/
def undrained (r : Array4) (row : Nat) : Bool :=
  (mget {} r.acc row).complete || r.waves.any fun w => w.last && w.holds.contains row

/-- What array `n` would do in this cycle (R57). -/
def outcome (x : MCtx) (a : Arrays) (n : Nat) : Outcome5 :=
  let r := a.array n
  if r.pos = 0 then
    if a.shadow.length < 128 then .loadWait else if allAtToken x a r.pass then .token else .barrier
  else
    let p := x.pass r.pass
    let i := x.vecNo n (r.pos - 1)
    if r.second then .valid
    else if p.first && (rowSpan x.wide (x.row (r.pos - 1) p.low)).any (undrained r) then .drainHold
    else if (haveWords r.fetched (r.pass * x.share n + (r.pos - 1)) ((x.vecWords p i).map (·.1))).isNone then .dry
    else .valid

/-- The item a vector puts on the wavefront: its column sums, row sum and flags (R52, R66, R99, R122). -/
def mkWave (x : MCtx) (order : Nat) (a : Arrays) (n : Nat) : Wave :=
  let r := a.array n
  let j := r.pos - 1
  let p := x.pass r.pass
  let i := x.vecNo n j
  let v := r.pass * x.share n + j
  let want := (x.vecWords p i).map (·.1)
  let words := (haveWords r.fetched v want).getD []
  let data := words.take (want.filter fun q => decide (q < 16)).length
  let side := (words.drop data.length).head?
  let codes := x.vecCodes p data
  let at_ := x.vecSide p i
  let sideBytes := (leBytes 8 ((side.map (·.1.toNat)).getD 0)).drop at_
  let ca := (sideBytes.map (·.toNat)).take 8
  let ea : Int := (BitVec.ofNat 16 (ofLe (sideBytes.take 2))).toInt
  { cycle := a.cycle, row := x.row j p.low,
    sums := (List.range (mmNcols x.w)).map (x.colResult p a.active a.activeSb codes ca),
    fp := x.accFp,
    rowsum := if x.code ≠ 0 then (if p.opens then ea else 0)
      else if x.wide then 0 else codes.foldl (fun t q => t + intCode (dFmt x.da) q) 0,
    first := p.first, last := p.last, poison := words.any (·.2) || a.active.any (·.poison), shift := p.shift, wide := x.wide,
    out := i, block := p.t, bank := a.bankUse, order := order,
    holds := if p.last then (x.drainRows (x.row j p.low)).flatMap (rowSpan x.wide) else [] }

/-- Move array `n` past a vector: a 16-bit vector takes a second cycle (R74), from which the cycles of R52 are counted (DESIGN
CHOICE, log entry 127). -/
def passVec (x : MCtx) (order : Nat) (a : Arrays) (n : Nat) : Arrays :=
  let r := a.array n
  if x.is16 && !r.second then a.modArr n fun q => { q with second := true }
  else
    let w := mkWave x order a n
    let v := r.pass * x.share n + (r.pos - 1)
    a.modArr n fun q =>
      let q := { q with second := false, waves := q.waves ++ [w], fetched := q.fetched.filter fun f => decide (f.vec ≠ v) }
      if r.pos = x.share n then { q with pass := q.pass + 1, pos := 0 } else { q with pos := q.pos + 1 }

/-- Count one array cycle under its class (R83). -/
def countClass (l : Counters) : Outcome5 → Counters
  | .token => { l with active := l.active + 1, tokens := l.tokens + 1 }
  | .valid => { l with active := l.active + 1, issued := l.issued + 1 }
  | .dry => { l with active := l.active + 1, dry := l.dry + 1 }
  | .drainHold => { l with active := l.active + 1, drainHold := l.drainHold + 1 }
  | .loadWait => { l with active := l.active + 1, loadWait := l.loadWait + 1 }
  | .barrier => { l with active := l.active + 1, barrier := l.barrier + 1 }

/-- One array's item of the cycle. -/
def issueArray (x : MCtx) (order : Nat) (k : Core) (e : Nat × Outcome5) : Core :=
  let k := k.modLive fun l => countClass l e.2
  match e.2 with
  | .valid => k.modArrays fun a => passVec x order a e.1
  | .token => k.modArrays fun a => a.modArr e.1 fun q => { q with pos := 1 }
  | _ => k

/-- One core cycle of the issue sequencer. -/
def issueCycle (s : State) (k : Core) : Core :=
  let k := startJob s (k.modArrays fun a => { a with cycle := a.cycle + 1 })
  let k := match jobCtx s k with
    | none => k
    | some (order, x) =>
      let act := ((List.range 4).filter fun n => !issuedAll x k.arrays n).map fun n => (n, outcome x k.arrays n)
      let k := act.foldl (issueArray x order) k
      if act.any fun e => decide (e.2 = .token) then k.modArrays swapTile else k
  settle s (postRequests s k)

/-- ISSUE_SEQUENCER_CYCLE: each array issues a vector, a token or a bubble; the feeders and the loader make their requests
(R54 to R59, R83). -/
def execIssueSequencerCycle (c : CoreId) (s : State) : Out :=
  onCore s c
    (if (s.core c).power = .on ∧ (s.hearth (hearthOf s c)).frozen = false then
      s.modCore c (issueCycle s)
    else s)

/-! ### The loader (R61, R64, R76, R102, R110, R122) -/

/-- Side words of the tile once all have arrived. -/
def sideData (a : Arrays) (n : Nat) : Option (List (U64 × Bool)) := haveWords a.loadBuf sideRow (List.range n)

/-- Take the side words of a tile: per-column scales, exponents, block codes. -/
def takeSide (x : MCtx) (order pi : Nat) (a : Arrays) (l : List (U64 × Bool)) : Arrays :=
  let p := x.pass pi
  let c := mmNcols x.w
  let ns := if pi = 0 ∧ dSmode x.dw = 2 then ceilDiv c 2 else 0
  let ne := if p.opens then ceilDiv c 4 else 0
  let sc := (unpackWords 32 c (l.take ns)).map fun e => BitVec.ofNat 32 e.1
  let ex := (unpackWords 16 c (slice l ns ne)).map fun e => (BitVec.ofNat 16 e.1).toInt
  let rest := l.drop (ns + ne)
  let wb := ceilDiv c 8
  { a with
    scales := if ns = 0 then a.scales else (a.scales ++ [(order, sc)]).drop (a.scales.length + 1 - 8),
    exps := if ne = 0 then a.exps else (a.exps ++ [(order, p.t, ex)]).drop (a.exps.length + 1 - 8),
    shadowSb := (chunks wb rest.length rest).map fun r => (unpackWords 8 c r).map (·.1) }

/-- Add an injected row's weight codes into the column sums; a first-K tile first clears the other bank (R64). Wide and slice
steps form none. -/
def addSums (x : MCtx) (p : Pass) (a : Arrays) (due : Nat) (codes : List Nat) : Arrays :=
  if x.wide then a
  else
    let z := List.replicate (mmNcols x.w) (0 : Int)
    let b := if due = 0 ∧ p.first = true then !a.bankLoad else a.bankLoad
    let old := if due = 0 ∧ p.first = true then z else (if b then a.colB else a.colA)
    let v (q : Nat) : Int :=
      if x.is16 then (if due % 2 = 0 then (q : Int) else 256 * (q : Int))
      else if x.is44 then intCode (dFmt x.dw) (q % 16) + intCode (dFmt x.dw) (q / 16) else intCode (dFmt x.dw) q
    let new := ((padTo 0 (mmNcols x.w) old).zip codes).map fun e => e.1 + v e.2
    if b then { a with bankLoad := b, colB := new } else { a with bankLoad := b, colA := new }

/-- Poison a 16-bit pair's second row takes from the words read with its first. -/
def pairPoison (x : MCtx) (a : Arrays) (due : Nat) : Bool :=
  x.is16 && decide (due % 2 = 1) && (nth ⟨[], false⟩ a.shadow (due - 1)).poison

/-- Inject the PE row due, if its words are there; a row that was due and could not go counts at 0x3118.s. -/
def injectRow (s : State) (k : Core) : Core :=
  match jobCtx s k with
  | none => k
  | some (order, x) =>
    let a := k.arrays
    let due := a.shadow.length
    let p := x.pass a.loadPass
    let side := (x.sideWords a.loadPass).length
    if x.passes ≤ a.loadPass ∨ a.cycle < a.loadFrom ∨ 128 ≤ due then k
    else if due = 0 ∧ a.loadReq = 0 ∧ a.sideReq = 0 ∧ bankHeld s k x p then k
    else
      let late : Core := k.modLive fun l => { l with loaderDly := l.loaderDly + 1 }
      let src := if x.is16 then due - due % 2 else due
      match sideData a side, haveWords a.loadBuf src (List.range (x.rowWordsOf p src).length) with
      | some sw, some w =>
        if a.loadReq ≤ due then late
        else
          let a := if due = 0 then takeSide x order a.loadPass a sw else a
          let codes := x.rowCodes p due w
          let bad := w.any (·.2) || pairPoison x a due || (decide (due = 0) && sw.any (·.2))
          let a := addSums x p a due codes
          let keep (f : FeedWord) : Bool :=
            decide (f.vec = sideRow) || decide (due < f.vec) || (x.is16 && decide (due % 2 = 0) && decide (f.vec = due))
          { k with arrays := { a with shadow := a.shadow ++ [⟨codes, bad⟩], loadBuf := a.loadBuf.filter keep } }
      | _, _ => late

/-- LOADER_ROW_INJECTION. -/
def execLoaderRowInjection (c : CoreId) (s : State) : Out :=
  onCore s c
    (if (s.core c).power = .on ∧ (s.hearth (hearthOf s c)).frozen = false then s.modCore c (injectRow s) else s)

/-! ### Accumulators (R65 to R69) -/

/-- 96-bit two's complement (R68). -/
def wrap96 (i : Int) : Int := (BitVec.ofInt 96 i).toInt

/-- A 32-bit word of a wide sum: word 0 lies in the first of the three rows (DESIGN CHOICE, log entry 128). -/
def limb (k : Nat) (v : Int) : Int := (BitVec.ofInt 32 (v / 2 ^ (32 * k))).toInt

/-- The wide sum three 32-bit rows hold in a column. -/
def unlimb (a b c : Int) : Int :=
  wrap96 ((BitVec.ofInt 32 a).toNat + 2 ^ 32 * (BitVec.ofInt 32 b).toNat + 2 ^ 64 * (BitVec.ofInt 32 c).toNat : Nat)

/-- Read a row of an accumulator memory; a wide row takes three 32-bit rows, and its row sum and state bits stand beside the
first (R65). -/
def readAcc (m : SMap AccRow) (row : Nat) (wide : Bool) : AccRow :=
  let r := mget {} m row
  if wide then
    let b := (mget {} m (row + 1)).vals
    let c := (mget {} m (row + 2)).vals
    { r with vals := (List.range (max r.vals.length (max b.length c.length))).map fun i => unlimb (nth 0 r.vals i) (nth 0 b i) (nth 0 c i) }
  else r

/-- Write a row of an accumulator memory (R65). -/
def writeAcc (m : SMap AccRow) (row : Nat) (wide : Bool) (r : AccRow) : SMap AccRow :=
  if wide then
    (List.range 3).foldl (fun m k => mset {} m (row + k) { r with vals := r.vals.map (limb k) }) m
  else mset {} m row r

/-- A drained row holds no result any longer (R70). -/
def AccRow.clear (r : AccRow) : AccRow := { r with complete := false, poisoned := false, upset := false }

/-- Saturating 32-bit addition; `true` where it saturated (R67). -/
def sat32 (i : Int) : Int × Bool :=
  if i < -(2 ^ 31) then (-(2 ^ 31), true) else if 2 ^ 31 - 1 < i then (2 ^ 31 - 1, true) else (i, false)

/-- One column of the add stage. -/
def addCol (w : Wave) (old new : Int) : Int × Bool :=
  if w.wide then (wrap96 ((if w.first then 0 else old) + new * 2 ^ w.shift), false)
  else if w.fp then
    if w.first then (new, false)
    else ((rn32 ((fv32 (BitVec.ofInt 32 old)).add (fv32 (BitVec.ofInt 32 new)))).toNat, false)
  else if w.first then sat32 new else sat32 (old + new)

/-- Add one item into its row: first-K replaces, last-K completes, poison is kept (R66, R69, R173). -/
def accumulate (r : AccRow) (w : Wave) (ups : AccUpset) : AccRow × Nat :=
  let c := (padTo 0 w.sums.length r.vals).zip w.sums |>.map fun e => addCol w e.1 e.2
  let double := decide (ups = .double) && !w.first
  ({ r with
      vals := c.map (·.1), rowsum := if w.first then w.rowsum else r.rowsum + w.rowsum,
      complete := w.last, poisoned := (if w.first then w.poison else r.poisoned || w.poison) || double,
      upset := (!w.first && r.upset) || double,
      out := w.out, block := w.block, bank := w.bank, order := w.order },
    (c.filter (·.2)).length)

/-- The worst of the upsets found in the row an array reads: with one double-bit error the row is poisoned (R69). -/
def worstUpset (l : List AccUpset) : AccUpset := if l.contains .double then .double else if l.contains .single then .single else .none

/-- Upsets of the row that array `n` reads. -/
def upsetsOf (ups : List (Fin 4 × AccUpset)) (n : Nat) : List AccUpset := (ups.filter fun e => decide (e.1.val = n)).map (·.2)

/-- Single-bit errors found on a read are corrected and counted (R69). -/
def countSingles (k : Core) (ups : List AccUpset) : Core :=
  let n := (ups.filter fun u => decide (u = .single)).length
  if n = 0 then k else k.modLive fun l => { l with accCorr := l.accCorr + BitVec.ofNat 64 n }

/-- One item reaches its row. A last-K item marks complete every row that its drain takes together (R66, R146, R147). -/
def addWave (s : State) (k : Core) (n : Nat) (w : Wave) (ups : List AccUpset) : Core :=
  let k := if w.first then k else countSingles k ups
  let r := accumulate (readAcc (k.arrays.array n).acc w.row w.wide) w (worstUpset ups)
  let k := k.modArrays fun a => a.modArr n fun q =>
    let acc := writeAcc q.acc w.row w.wide r.1
    { q with
      acc := w.holds.foldl (fun m h => mmod {} m h fun e => { e with complete := true }) acc,
      ready := if w.last then q.ready ++ [(w.row, a.cycle)] else q.ready,
      waves := q.waves.drop 1 }
  match orderCtx s k w.order with
  | some x => if r.2 = 0 then k else k.modLive fun l => l.modSlot (dSlot x.dy) fun t => { t with sat := satInc t.sat r.2 }
  | none => k

/-- Add the items that reach the accumulator of array `n` by this cycle (R52); the upsets are those of the first row read. -/
def addWaves (s : State) (k : Core) (n : Nat) (ups : List AccUpset) : Core :=
  let due := (k.arrays.array n).waves.filter fun w => decide (w.cycle + 194 ≤ k.arrays.cycle)
  (due.foldl (fun (a : Core × List AccUpset) w => (addWave s a.1 n w a.2, if w.first then a.2 else [])) (k, ups)).1

/-- ACCUMULATOR_ADD (R52, R58, R66 to R69); the upsets are operands (log entry 9). -/
def execAccumulatorAdd (c : CoreId) (ups : List (Fin 4 × AccUpset)) (s : State) : Out :=
  onCore s c
    (if (s.core c).power = .on ∧ (s.hearth (hearthOf s c)).frozen = false then
      s.modCore c fun k => settle s ((List.range 4).foldl (fun k n => addWaves s k n (upsetsOf ups n)) k)
    else s)

/-! ### The drains (R70, R71, R99, R102, R103, R112, R113, R122) -/

/-- Scale of an output: the slot's under delayed scaling, else the descriptor's (R113). -/
def outScale (x : MCtx) : F32 := if dDsc x.dy then (mget {} x.k.live.slots (dSlot x.dy)).scale else dScale x.dy

/-- S_n = RN32(s_a × s_w,n) for a column (R102, R111). -/
def colScale (x : MCtx) (sc : List F32) (c : Nat) : FVal :=
  r32 ((fv32 (dScale x.da)).mul (fv32 (if dSmode x.dw = 2 then nth 0 sc c else dScale x.dw)))

/-- D1: the corrected sum (R99). -/
def corrected (x : MCtx) (a : Arrays) (r : AccRow) (c : Nat) (acc : Int) : Int :=
  let col := nth 0 (if r.bank then a.colB else a.colA) c
  let kpad : Int := (x.tiles * x.kpass : Nat)
  acc - dZp x.da * col - dZp x.dw * r.rowsum + kpad * dZp x.da * dZp x.dw

/-- D2: the de-quantised value y of a column; raw mode passes the sum through (R102). -/
def dequantised (x : MCtx) (a : Arrays) (r : AccRow) (c : Nat) (acc : Int) : FVal :=
  if dSmode x.dy = 0 then (if x.accFp then fv32 (BitVec.ofInt 32 acc) else ofInt acc)
  else
  let sn := colScale x ((a.scales.find? fun e => decide (e.1 = r.order)).map (·.2) |>.getD []) c
  if x.accFp then r32 ((fv32 (BitVec.ofInt 32 acc)).mul sn)
  else r32 ((r32 (ofInt (corrected x a r c acc))).mul sn)

/-- D3 for one element with a scale and zero point: quantising, scaled FP8, or plain conversion (R97, R103). -/
def convertOut (fmt : Nat) (sc : F32) (z : Int) (nonsat : Bool) (y : FVal) : Conv :=
  if (qrange fmt).isSome then quantConv fmt sc z nonsat y
  else if fmt = 4 ∨ fmt = 5 then quantConv fmt sc 0 nonsat y
  else convTo fmt 0 nonsat y

/-- Largest magnitude over the finite elements of a block. -/
def blockMax (l : List FVal) : FVal := l.foldl (fun a y => if y.isFin && a.lt y.abs then y.abs else a) (ofInt 0)

/-- SB8 code of an output block (R112). -/
def outBlockCode (x : MCtx) (l : List FVal) : Nat :=
  let a := blockMax l
  if a.isZero then 0x78
  else sb8Code (fv32 (ru32 (a.div ((qmaxValue (dFmt x.dy)).mul (fv32 (dScale x.dy))))))

/-- What a drained row writes: output codes with their conversions, block codes, and the values D3 observes. -/
structure Drained where
  outs   : List Conv
  blocks : List Nat
  seen   : List F32
  deriving DecidableEq, Repr

/-- A slice or wide row's exact value for a column (R122, R147). -/
def wideValue (x : MCtx) (a : Arrays) (r low : AccRow) (c : Nat) : FVal :=
  let h := nth 0 r.vals c
  if x.code = 0 then
    if dSmode x.dy = 0 then ofInt h
    else (ofInt h).mul (colScale x ((a.scales.find? fun e => decide (e.1 = r.order)).map (·.2) |>.getD []) c)
  else
    let ea := r.rowsum
    let ew := nth 0 (((a.exps.find? fun e => decide (e.1 = r.order) && decide (e.2.1 = r.block)).map (·.2.2)).getD []) c
    if ea = 32767 ∨ ew = 32767 then .nan
    else if ea = -32768 ∨ ew = -32768 then .fin false 0 0
    else
      let v := if x.code = 3 then h * 2 ^ 48 + nth 0 low.vals c else h
      .fin (decide (v < 0)) v.natAbs (ea + ew - (if x.code = 3 then 108 else 8 * (x.n : Int) + 4))

/-- Counting of a binary64 element: only in the block in which it becomes NaN or infinite (R122). -/
def wideConv (prev : FVal) (v : FVal) : Conv :=
  let c := b64.conv false v
  { code := c.code, sat := c.sat, nan := if prev.isNan then 0 else c.nan }

/-- The row of a wide or slice step; a later block adds to the binary64 value already written (R122, R123, R147). D3 observes
each value as it is written, rounded to binary32, in every block (DESIGN CHOICE, log entry 129). -/
def drainWide (x : MCtx) (a : Arrays) (r low : AccRow) (old : Option (List Nat)) : Drained :=
  let outs := (List.range (mmNcols x.w)).map fun c =>
    let v := wideValue x a r low c
    match old with
    | none => wideConv (ofInt 0) v
    | some l => let p := b64.value (nth 0 l c); wideConv p (p.add v)
  { outs := outs, blocks := [], seen := outs.map fun e => rn32 (b64.value e.code) }

/-- The row of any other step (R99 to R103, R112). A raw output's value y is the sum as D1 and D2 pass it through; D3 checks
it, and takes a raw INT32 into amax rounded to binary32 (DESIGN CHOICE, log entry 129). -/
def drainPlain (x : MCtx) (a : Arrays) (r : AccRow) (nonsat : Bool) : Drained :=
  let cols := List.range (mmNcols x.w)
  let ys := cols.map fun c => dequantised x a r c (nth 0 r.vals c)
  let seen := ys.map rn32
  if dSmode x.dy = 0 then { outs := ys.map (convTo (dFmt x.dy) 0 nonsat), blocks := [], seen := seen }
  else
    if dSmode x.dy = 3 ∨ dSmode x.dy = 4 then
      let bs := chunks (if dSmode x.dy = 3 then 32 else 64) ys.length ys
      let codes := bs.map (outBlockCode x)
      { outs := (bs.zip codes).flatMap fun e =>
          let sc := rn32 ((sb8Value e.2).mul (fv32 (dScale x.dy)))
          e.1.map (convertOut (dFmt x.dy) sc 0 nonsat),
        blocks := codes, seen := seen }
    else { outs := ys.map (convertOut (dFmt x.dy) (outScale x) (dZp x.dy) nonsat), blocks := [], seen := seen }

/-- Words of the binary64 row a later block adds to; none where the row is written for the first time (R122, R123, R147). -/
def oldWords (x : MCtx) (r : AccRow) : List Nat :=
  if x.code ≠ 0 ∧ (r.block ≠ 0 ∨ mmFirst x.w = false) then wordRange (rowAddr x.k.bind x.dy x.vars r.out) (mmNcols x.w) else []

/-- Update the output's statistics slot (R113, R116, R117). -/
def countDrain (x : MCtx) (k : Core) (d : Drained) : Core :=
  k.modLive fun l => l.modSlot (dSlot x.dy) fun t =>
    let t := d.outs.foldl StatSlot.count t
    d.seen.foldl StatSlot.observe t

/-- The upset of an accumulator row read by a drain has the row written poisoned, with an event (R69): index 0x3115.s with
severity 2, argument 0 (DESIGN CHOICE, log entry 130). -/
def raiseUpset (s : State) (c : CoreId) : State :=
  raise s 0x3115 (BitVec.ofNat 8 (c + 1)) 2 (BitVec.ofNat 8 (0x20 + hearthOf s c)) 0

/-- Words a row of output codes and block codes makes: word address, word, poison (R71, R112). -/
def rowWrites (x : MCtx) (r : AccRow) (d : Drained) (bad : Bool) : List (Nat × U64 × Bool) :=
  let at_ (a : Nat) (l : List (U64 × Bool)) := l.zipIdx.map fun e => (a / 8 + e.2, e.1.1, e.1.2)
  at_ (rowAddr x.k.bind x.dy x.vars r.out) (packWords (fmtBits (dFmt x.dy)) (d.outs.map fun e => (e.code, bad))) ++
    (if d.blocks.isEmpty then []
    else at_ (rowAddr x.k.bind (x.k.recipe.desc (dSdesc x.dy)) x.vars r.out) (packWords 8 (d.blocks.map fun b => (b, bad))))

/-- D1 to D4 of a row: statistics counted, words made. `old` holds the binary64 words read for a later block. A row written
poisoned is not counted (log entry 21). -/
def makeRow (s : State) (k : Core) (x : MCtx) (n row : Nat) (old : Option (List (U64 × Bool))) (double : Bool) :
    Core × List (Nat × U64 × Bool) :=
  let a := k.arrays
  let r := readAcc (a.array n).acc row x.wide
  let hi := if x.code = 3 then readAcc (a.array n).acc (pairRow row) true else r
  let bad := r.poisoned || hi.poisoned || double || (old.getD []).any (·.2)
  let hv : AccRow := { hi with order := r.order, block := r.block, bank := r.bank }
  let d := if x.wide then drainWide x a hv r (old.map fun l => l.map fun e => e.1.toNat) else drainPlain x a r (nonsatOf s k x.dy)
  (if bad then k else countDrain x k d, rowWrites x r d bad)

/-- Words of an output row that hold the drain (R71). -/
def holdWords (x : MCtx) : Nat := ceilDiv (mmNcols x.w * fmtBits (dFmt x.dy)) 64

/-- A drain takes a complete row (R70, R71, R123): the first write follows the read of D0 by seven cycles, a later binary64
block's by sixteen more; the row holds the drain for a cycle per 32 words read and written. The row's bits are cleared when the
last word is written. -/
def drainOne (s : State) (c : CoreId) (n row : Nat) (ups : List AccUpset) : State :=
  let k := s.core c
  let a := k.arrays
  let r := mget {} (a.array n).acc row
  let taken (k : Core) : Core := k.modArrays fun a => a.modArr n fun q => { q with ready := q.ready.drop 1 }
  match orderCtx s k r.order with
  | none => s.modCore c taken
  | some x =>
    let double := ups.contains .double
    let hi := if x.code = 3 then (mget {} (a.array n).acc (pairRow row)).upset else false
    let old := oldWords x r
    let hold := max 1 (ceilDiv (holdWords x) 32) + ceilDiv old.length 32
    let job : Work :=
      { Work.reading r.order row old with since := a.cycle + 7 + ceilDiv old.length 32, due := a.cycle + 7 + hold }
    let t := s.modCore c fun k =>
      let k := countSingles (taken k) ups
      let k := k.modArrays fun a => a.modArr n fun q =>
        { q with
          busy := a.cycle + hold,
          acc := if double then mmod {} q.acc row (fun e => { e with poisoned := true, upset := true }) else q.acc }
      let m := if old.isEmpty then makeRow s k x n row none double else (k, [])
      m.1.modPad fun p => p.setJobs n (p.jobs n ++ [{ job with made := old.isEmpty, writes := m.2 }])
    if double || r.upset || hi then raiseUpset t c else t

/-- The drain is free: the row before has left the stage, and no word that was due is still to be asked for (R71). -/
def drainFree (k : Core) (n : Nat) : Bool :=
  decide ((k.arrays.array n).busy ≤ k.arrays.cycle) &&
    (k.pad.jobs n).all fun j => decide (k.arrays.cycle < j.due) || (j.made && j.writes.isEmpty)

/-- DRAIN_ROW: a free drain takes the next complete row of its array, from the cycle after its last write on (R70). -/
def execDrainRow (c : CoreId) (arr : Fin 4) (ups : List AccUpset) (s : State) : Out :=
  onCore s c
    (let k := s.core c
    match (k.arrays.array arr.val).ready with
    | [] => s
    | e :: _ =>
      if k.power = .on ∧ (s.hearth (hearthOf s c)).frozen = false ∧ drainFree k arr.val = true ∧ e.2 < k.arrays.cycle then
        drainOne s c arr.val e.1 ups
      else s)

/-- A later block's row whose old words have come is made (R123). -/
def drainMake (s : State) (k : Core) (n : Nat) : Core :=
  (k.pad.jobs n).foldl
    (fun k j =>
      if j.made || !j.hasRead then k
      else
        match orderCtx s k j.order with
        | none => k
        | some x =>
          let m := makeRow s k x n j.part (some j.words) false
          m.1.modPad fun p => p.modJob n j.order j.part fun j => { j with made := true, writes := m.2 }) k

/-- Rows whose last word is written: their bits are cleared and the step has one row less to drain (R70, R72, R73). -/
def drainSettle (s : State) (k : Core) (n : Nat) : Core :=
  let done := (k.pad.jobs n).filter fun j => k.pad.jobDone n j
  let k := done.foldl
    (fun k j =>
      let rows := match orderCtx s k j.order with
        | some x => (x.drainRows j.part).flatMap (rowSpan x.wide)
        | none => [j.part]
      k.modArrays fun a =>
        let b := a.modArr n fun q => { q with acc := rows.foldl (fun m r => mmod {} m r AccRow.clear) q.acc }
        { b with draining := b.draining.map fun e => if e.1 = j.order then (e.1, e.2 - 1) else e }) k
  settle s (k.modPad fun p => p.setJobs n ((p.jobs n).filter fun j => !p.jobDone n j))

/-! ### Publication (R84) -/

/-- COUNTER_PUBLICATION: every counter of the core is published together. -/
def execCounterPublication (c : CoreId) (s : State) : Out := onCore s c (s.modCore c Core.publish)

end Sys2Proof.Machine
end

