-- ==== Sys2Proof/Machine/Links.lean ====
section
/-! DEFINITION. The Stedan links: training, acknowledgment and replay, credits, ports that go down, forwarding, link streams
and channels (R325 to R350). -/

namespace Sys2Proof.Machine

def raisePort (s : State) (p sev arg : Nat) : State := raiseS s 0x4103 (p + 1) sev arg

/-- Frames of a port that carry a sequence number (R328). -/
def sequenced (f : Frame) : Bool := decide (1 ≤ f.ftype) && decide (f.ftype ≤ 5)

/-- Bytes of a frame in the replay buffer (R326, R329). -/
def frameBytes (f : Frame) : Nat := 40 + 128 * f.nblk

/-! ### Acknowledgment and credits (R328, R329, R332) -/

/-- Distance from one sequence number to another, modulo 4,096. -/
def seqFrom (a b : BitVec 12) : Nat := (b - a).toNat

/-- Frames still unacknowledged after `a` is acknowledged: those later than it. -/
def afterAck (acked a : BitVec 12) (l : List Frame) : List Frame :=
  l.filter fun f => decide (seqFrom acked a < seqFrom acked f.seq)

/-- The ack, nak and credit fields of a frame that passed its CRC. -/
def applyFields (q : Port) (f : Frame) : Port :=
  let ok := f.av && decide (seqFrom q.acked f.ack ≤ q.replay.length)
  let q := if ok then
      { q with
        replay := afterAck q.acked f.ack q.replay, resend := afterAck q.acked f.ack q.resend, acked := f.ack,
        ackMoved := q.ackMoved || decide (q.acked ≠ f.ack) }
    else q
  let q := if f.nak then { q with resend := q.replay } else q
  { q with crd0 := min 8192 (q.crd0 + f.crd0), crd1 := min 32 (q.crd1 + f.crd1), crd2 := min 32 (q.crd2 + f.crd2) }

/-- Space of a handled frame is free: its credits are due to be returned (R332). -/
def freeSpace (q : Port) (f : Frame) : Port :=
  match f.cls with
  | 0 => { q with ret0 := q.ret0 + f.nblk }
  | 1 => { q with ret1 := q.ret1 + 1 }
  | _ => { q with ret2 := q.ret2 + 1 }

/-- ACK: a frame without a sequence number brings acknowledgment and credits (R328). -/
def execAck (p : Fin 12) (f : Frame) (s : State) : Out :=
  .next (if (s.port p).state = 2 ∧ crcGood f = true ∧ f.ftype = 0 then s.modPort p fun q => applyFields q f else s)

/-- SEQUENCED_FRAME_RECEIVE: accepted with a good CRC and the next sequence number; else discarded with one nak for the
gap. A reserved type is discarded and counted (R328, R329); a device without an ID takes none (R338). -/
def execSequencedFrameReceive (p : Fin 12) (f : Frame) (s : State) : Out :=
  .next
    (if (s.port p).state ≠ 2 then s
     else s.modPort p fun q =>
       let nak (q : Port) : Port := if q.nakSent then q else { q with nakSent := true, nakDue := true }
       if !crcGood f then nak q
       else
         let q := applyFields q f
         if 7 ≤ f.ftype then { q with badTypes := q.badTypes + 1 }
         else if !sequenced f || decide (deviceId s = 0xFFFF) then q
         else if f.seq ≠ q.lastRx + 1 then nak q
         else { q with lastRx := f.seq, nakSent := false, rx := q.rx ++ [f] })

/-! ### Sending (R326, R329, R332, R338) -/

/-- Credit of a frame's class is there. -/
def hasCredit (q : Port) (f : Frame) : Bool :=
  match f.cls with
  | 0 => decide (f.nblk ≤ q.crd0)
  | 1 => decide (1 ≤ q.crd1)
  | _ => decide (1 ≤ q.crd2)

def takeCredit (q : Port) (f : Frame) : Port :=
  match f.cls with
  | 0 => { q with crd0 := q.crd0 - f.nblk }
  | 1 => { q with crd1 := q.crd1 - 1 }
  | _ => { q with crd2 := q.crd2 - 1 }

/-- Next new frame that may go: the first of its class, with credit; classes 1 and 2 do not wait behind class 0. -/
def nextNew (q : Port) : Option Frame :=
  let first (c : Nat) : Option Frame := q.out.find? fun f => decide (f.cls = c)
  q.out.find? fun f => decide (first f.cls = some f) && hasCredit q f

/-- Room for one more frame in the window and the replay buffer (R329). -/
def windowRoom (q : Port) (f : Frame) : Bool :=
  decide (q.replay.length < 2047) && decide ((q.replay.map frameBytes).sum + frameBytes f ≤ 1048576)

/-- Put a frame on the lanes with the link-level fields of the moment and its CRC. -/
def putOnWire (q : Port) (f : Frame) : Port :=
  let w : Frame := { f with
    ack := q.lastRx, av := true, nak := q.nakDue, crd0 := min 4095 q.ret0, crd1 := min 63 q.ret1, crd2 := min 63 q.ret2 }
  { q with
    wire := some (sealFrame w), nakDue := false, ret0 := q.ret0 - w.crd0, ret1 := q.ret1 - w.crd1, ret2 := q.ret2 - w.crd2,
    sent := q.sent + 1 }

/-- A frame without sequence number and payload. -/
def ackFrame (s : State) : Frame := { newFrame s 0 0 0 [] with hops := 0 }

/-- The TRAIN frame of a port: version map, system ID, device ID, port, width, incarnation ID, next and last sequence number
(R335). -/
def trainFrame (s : State) (p : Nat) : Frame :=
  let q := s.port p
  let l := leBytes 2 1 ++ leBytes 4 (setting s 0x4100 2) ++ leBytes 2 (deviceId s) ++ leBytes 1 p ++ leBytes 1 q.width.toNat ++
    leBytes 8 s.links.inc.toNat ++ leBytes 2 q.nextSeq.toNat ++ leBytes 2 q.lastRx.toNat
  { newFrame s 6 0 0 (bytesWords 16 (padTo 0 128 l)) with hops := 0 }

/-- A bridge sets or clears the stop bit of a link stream's sender (R217, R344). -/
def sendStop (s : State) (n : Nat) (stop : Bool) : State :=
  let w := (s.channel n).ent
  let k := s.bake (ceBake w)
  let c := instCore k (smSnd (nth 0 k.pkg.streams (ceEnt w)))
  let no := ((((k.place.map (·.streams)).getD [])[ceEnt w]?).map (·.sendNo)).getD 0
  let t := s.modChannel n fun c => { c with stopped := stop }
  match siteOf s c with
  | some site => { t with flue := { t.flue with
      stopOut := t.flue.stopOut ++ [(smPort (nth 0 k.pkg.streams (ceEnt w)) / 3, site, no, stop)] } }
  | none => t

/-- A DATA frame of this device leaves the send buffer: below 192 KiB the stop bit clears (R344). -/
def leaveBridge (s : State) (f : Frame) : State :=
  if f.ftype ≠ 1 ∨ f.src ≠ deviceId s then s
  else
    match s.links.chans.find? fun e =>
        decide (ceDir e.2.ent = 1) && decide (cePeer e.2.ent = f.dst) && decide (cePch e.2.ent = f.chan) with
    | none => s
    | some e =>
      let t := s.modChannel e.1 fun c => { c with held := c.held - 128 * f.nblk }
      if (t.channel e.1).stopped && decide ((t.channel e.1).held < 196608) then sendStop t e.1 false else t

/-- FRAME_TRANSMIT: replays go before new frames; a new frame goes when window, replay buffer and class credit allow; a port
with nothing to send sends an ACK frame (R329, R332), and so does a device without an ID (R338). A port in training sends TRAIN
frames (R335). -/
def execFrameTransmit (p : Fin 12) (s : State) : Out :=
  let q := s.port p
  .next
    (if q.state = 1 then s.modPort p fun q => { q with wire := some (sealFrame (trainFrame s p)), sent := q.sent + 1 }
     else if q.state ≠ 2 then s
     else
       match (if deviceId s = 0xFFFF then [] else q.resend) with
       | f :: t => s.modPort p fun q => putOnWire { q with resend := t, replayed := q.replayed + 1 } f
       | [] =>
         match (if deviceId s = 0xFFFF then none else nextNew q) with
         | none => s.modPort p fun q => putOnWire q (ackFrame s)
         | some f =>
           if windowRoom q f then
             let g : Frame := { f with seq := q.nextSeq }
             leaveBridge (s.modPort p fun q =>
               putOnWire (takeCredit { q with
                 out := eraseFirst f q.out, replay := q.replay ++ [g], nextSeq := q.nextSeq + 1 } f) g) f
           else s.modPort p fun q => putOnWire q (ackFrame s))

/-- REPLAY_TIMER_EXPIRY: the sender sends again from ack + 1 (R329). -/
def execReplayTimerExpiry (p : Fin 12) (s : State) : Out :=
  .next (if (s.port p).state = 2 then s.modPort p fun q => { q with resend := q.replay } else s)

/-! ### Ports going down (R330, R342, R343) -/

/-- Destinations of a port's frames whose primary is the port and which have an up alternate. -/
def movable (s : State) (p dst : Nat) : Option Nat :=
  let e := routeEntry s dst
  let a := fld e 11 8
  if fld e 15 12 = p ∧ a ≠ p ∧ portUp s a = true then some a else none

/-- Move the frames of destinations with an up alternate there, ahead of newer frames; the others stay, counted at
0x4112.03. A frame for no destination of its own, a DIGEST, stays. -/
def moveFrames (s : State) (p : Nat) : State :=
  let q := s.port p
  let goes (f : Frame) : Bool := decide (f.ftype ≠ 4) && (movable s p f.dst).isSome
  let t := (q.replay.filter goes).reverse.foldl
    (fun t f => match movable s p f.dst with
      | some a => t.modPort a fun r => { r with out := f :: r.out }
      | none => t) s
  let t := (q.out.filter goes).foldl
    (fun t f => match movable s p f.dst with
      | some a => queueOut t a f
      | none => t) t
  let kept := (q.replay ++ q.out).filter fun f => !goes f && decide (f.ftype ≠ 4)
  let t := t.modPort p fun r =>
    { r with
      replay := r.replay.filter fun f => !goes f, out := r.out.filter fun f => !goes f, resend := [],
      moved := r.moved + BitVec.ofNat 32 (q.replay.filter goes).length }
  { t with links := { t.links with noRoute := t.links.noRoute + BitVec.ofNat 64 kept.length } }

/-- Take a port out of service into a state, with the event and the moves of R342. -/
def takeDown (s : State) (p : Nat) (st : U8) : State :=
  let t := s.modPort p fun q => { q with state := st, missedRun := 0, nakSent := false, nakDue := false, trainOk := 0, lastTrain := none }
  moveFrames (raisePort t p 2 p) p

/-- PORT_DOWN: an up port goes down and starts retraining. -/
def execPortDown (p : Fin 12) (s : State) : Out := .next (if (s.port p).state = 2 then takeDown s p 3 else s)

/-- ACK_DEADLINE_INTERVAL: an interval with frames outstanding and no ack advanced is missed; as many in a row as the count in force
take the port down. The interval that begins takes the count of 0x4101.03 (R330, R331). -/
def execAckDeadlineInterval (p : Fin 12) (s : State) : Out :=
  let q := s.port p
  let latch (t : State) : State := t.modPort p fun q => { q with limit := setting s 0x4101 3 }
  .next
    (latch (if q.state ≠ 2 then s
     else if !q.replay.isEmpty && !q.ackMoved then
       let t := s.modPort p fun q => { q with missed := q.missed + 1, missedRun := q.missedRun + 1 }
       if q.limit ≤ q.missedRun + 1 then takeDown t p 3 else t
     else s.modPort p fun q => { q with missedRun := 0, ackMoved := false }))

/-- Good lanes left over as spares (R325). -/
def spareLanes (q : Port) : Nat := q.lanes.length - q.width.toNat

/-- PMA_LOCK_LOSS: lock lost for 1 µs on more lanes than the spare can cover takes the port down (R330). -/
def execPmaLockLoss (p : Fin 12) (lanes : Nat) (s : State) : Out :=
  .next (if (s.port p).state = 2 ∧ spareLanes (s.port p) < lanes then takeDown s p 3 else s)

/-- The link controller of a port's chiplet is down: restarting, or declared failed (R354). -/
def controllerDown (s : State) (p : Nat) : Bool := decide ((s.proc (25 + p / 3)).state = 1) || decide ((s.proc (25 + p / 3)).state = 2)

/-- LANE_FAILURE: a failed lane makes the port retrain; its frames stay for the resumption (R325). Lane replacement waits for a link
controller that is down (R354). -/
def execLaneFailure (p : Fin 12) (lane : Fin 13) (s : State) : Out :=
  .next
    (if (s.port p).state = 2 ∧ (s.port p).lanes.contains lane.val = true ∧ controllerDown s p = false then
      raisePort (s.modPort p fun q => { q with state := 3, lanes := q.lanes.filter fun l => decide (l ≠ lane.val), trainOk := 0, lastTrain := none }) p 1 lane
    else s)

/-! ### Training (R325, R334 to R336) -/

/-- Width from the number of good lanes. -/
def widthOf (n : Nat) : Nat := if 12 ≤ n then 12 else if 8 ≤ n then 8 else if 4 ≤ n then 4 else 0

/-- A port may train again: 100 ms, 160,000,000 Flue cycles, after a failed attempt (R342). -/
def mayRetry (s : State) (q : Port) : Bool :=
  match q.failedAt with
  | none => true
  | some a => decide (a + 160000000 ≤ s.flue.cycle)

/-- PORT_TRAINING: PMD training finds the lanes good at both ends, the logical lanes take them in ascending order, and the
TRAIN exchange begins; fewer than four good lanes leave the port down. A link controller that is down cannot train (R354). -/
def execPortTraining (p : Fin 12) (goodLanes : List Nat) (s : State) : Out :=
  let q := s.port p
  let good := (List.range 13).filter fun l => goodLanes.contains l
  let w := widthOf good.length
  .next
    (if setting s 0x4104 (p.val + 1) = 0 ∨ ¬ (q.state = 0 ∨ q.state = 1 ∨ q.state = 3) ∨ controllerDown s p = true ∨ mayRetry s q = false then s
     else if w = 0 then s.modPort p fun q => { q with state := 0, width := 0, spare := 0, lanes := good, failedAt := some s.flue.cycle }
     else s.modPort p fun q =>
       { q with
         state := 1, width := BitVec.ofNat 8 w, lanes := good, failedAt := none, trainOk := 0, lastTrain := none,
         spare := if (good.take w).any (fun l => decide (w ≤ l)) then 1 else 0,
         retrains := if q.known then q.retrains + 1 else q.retrains })

/-- Give the frames still held new numbers from the next one on; they are all sent again. -/
def renumber (q : Port) (l : List Frame) : Port :=
  let r : List Frame := l.zipIdx.map fun e => { e.1 with seq := q.nextSeq + BitVec.ofNat 12 e.2 }
  { q with replay := r, resend := r, acked := q.nextSeq - 1, nextSeq := q.nextSeq + BitVec.ofNat 12 r.length }

/-- Waiting frames leave by the ports that are up; bakes paused for want of a route go on (R343). -/
def routesChanged (s : State) : State :=
  let l := s.links.waiting
  let t := l.foldl
    (fun (t : State) f => match portFor t f.dst with
      | some p => queueOut t p f
      | none => { t with links := { t.links with waiting := t.links.waiting ++ [f] } })
    { s with links := { s.links with waiting := [] } }
  resumeAllRouted t

/-- Both ends have each other's unchanged values: the port comes up resumed or fresh, or stays down. -/
def trained (s : State) (p : Nat) (i : TrainInfo) : State :=
  let q := s.port p
  if !bitAt i.vmap 0 then raisePort (s.modPort p fun q => { q with state := 4 }) p 2 i.devId.toNat
  else if i.sysId.toNat ≠ setting s 0x4100 2 then raisePort (s.modPort p fun q => { q with state := 5 }) p 2 i.devId.toNat
  else
    let up (q : Port) : Port :=
      { q with state := 2, version := 0x0100, peerDev := i.devId, lastRx := i.nextSeq - 1, nakSent := false, nakDue := false,
               missedRun := 0, ackMoved := false, mismatch := false, reported := false }
    if q.known && q.peerInc == i.inc then
      routesChanged (s.modPort p fun q => renumber (up q) (afterAck q.acked i.lastSeq q.replay))
    else
      let n := q.replay.length
      let t := s.modPort p fun q =>
        let r := renumber (up { q with
          known := true, peerInc := i.inc, dropped := q.dropped + BitVec.ofNat 64 n, fresh := q.fresh + 1 }) []
        { r with crd0 := 8192, crd1 := 32, crd2 := 32, ret0 := 0, ret1 := 0, ret2 := 0, rx := [], stuck := [] }
      let t : State := { t with links := { t.links with stale := t.links.stale + BitVec.ofNat 64 n } }
      routesChanged (raisePort t p 2 i.inc.toNat)

/-- TRAIN: training completes with the second frame that carries unchanged values (R335). -/
def execTrain (p : Fin 12) (i : TrainInfo) (s : State) : Out :=
  let q := s.port p
  .next
    (if q.state ≠ 1 then s
     else if q.lastTrain = some i then trained (s.modPort p fun q => { q with trainOk := 0, lastTrain := none }) p i
     else s.modPort p fun q => { q with lastTrain := some i, trainOk := 1 })

/-- 0x4104.p: 0 takes the port down at once, as disabled; 1 lets it train again (R355). -/
def setPortEnable (s : State) (p : Nat) (en : Bool) : State :=
  let t := putSetting s 0x4104 (p + 1) (if en then 1 else 0)
  let st := (s.port p).state
  if en then (if st = 6 then t.modPort p fun q => { q with state := 0 } else t)
  else if st = 2 then takeDown t p 6 else t.modPort p fun q => { q with state := 6, trainOk := 0, lastTrain := none }

/-! ### Forwarding (R340, R341, R343) -/

/-- First frame of a list that is in transit and satisfies a test. -/
def transit (s : State) (l : List Frame) (f : Frame → Bool) : Option Frame :=
  l.find? fun x => decide (x.ftype ≠ 4) && decide (x.dst ≠ deviceId s) && f x

/-- Take a frame out of a port's receive buffer. -/
def takeRx (s : State) (p : Nat) (f : Frame) (free : Bool) : State :=
  s.modPort p fun q =>
    let q := if q.stuck.contains f then { q with stuck := eraseFirst f q.stuck } else { q with rx := eraseFirst f q.rx }
    if free then freeSpace q f else q

/-- FRAME_FORWARD: the first transit frame with no hops left is discarded; one with a route goes there with one hop fewer;
one without stays in the receiver and is counted (R340, R343). -/
def execFrameForward (p : Fin 12) (s : State) : Out :=
  let q := s.port p
  .next
    (match transit s q.stuck (fun f => (portFor s f.dst).isSome) with
     | some f => queueOut (takeRx s p f true) ((portFor s f.dst).getD 0) { f with hops := f.hops - 1 }
     | none =>
       match transit s q.rx (fun _ => true) with
       | none => s
       | some f =>
         if f.hops = 0 then
           let t := takeRx s p f true
           raiseS { t with links := { t.links with hopDrop := t.links.hopDrop + 1 } } 0x4112 1 0 f.src
         else
           match portFor s f.dst with
           | some o => queueOut (takeRx s p f true) o { f with hops := f.hops - 1 }
           | none =>
             let t := takeRx s p f false
             let t := t.modPort p fun q => { q with stuck := q.stuck ++ [f] }
             { t with links := { t.links with noRoute := t.links.noRoute + 1 } })

/-! ### Link streams: the sender (R344) -/

/-- Send channel of a stream flit that a bridge takes at a ring port: of the bake with the port's tenant and the flit's epoch, the
link stream that leaves by this chiplet under the flit's stream number (R217, R230, R344). -/
def flitChannel (s : State) (chiplet m : Nat) (f : Flit) : Option Nat :=
  (s.links.chans.find? fun e =>
    let k := s.bake (ceBake e.2.ent)
    let r := nth 0 k.pkg.streams (ceEnt e.2.ent)
    decide (ceDir e.2.ent = 1) && decide (k.tenant = (s.router (portSite m).1).sched.tenant) &&
      decide (k.epoch.toNat % 256 = f.epl.toNat) && smLnk r && decide (smPort r / 3 = chiplet) &&
      decide ((streamPlace k (ceEnt e.2.ent)).recvNo = f.strm.toNat)).map (·.1)

/-- The oldest flit at a bridge's ring ports, with its ring port, if it is `f` and `chan` is the channel that claims it. -/
def bridgeHead (s : State) (chiplet : Nat) (f : Flit) (chan : Option Nat) : Option (Nat × Flit) :=
  (s.flue.bridge.find? fun e => decide (bridgeOf e.1 = some chiplet)).filter fun e =>
    decide (e.2 = f) && decide (flitChannel s chiplet e.1 f = chan)

/-- BRIDGE_FLIT_ARRIVAL: the oldest flit at a bridge's ring ports joins its transfer; four flits, or the transfer's last, make a
DATA frame; 256 KiB held set the stream's stop bit (R213, R344). A flit that no active channel claims is discarded. -/
def execBridgeFlitArrival (chiplet : Fin 4) (f : Flit) (chan : Option Nat) (s : State) : Out :=
  .next
    (match bridgeHead s chiplet.val f chan with
    | none => s
    | some e =>
     let s : State := { s with flue := { s.flue with bridge := eraseFirst e s.flue.bridge } }
     match chan with
     | none => s
     | some n =>
      let k := s.channel n
      if f.v = false ∨ ceSt k.ent ≠ 1 then s
      else
       let start := if f.first then 0 else k.packed
       let pack := (if f.first then [] else k.pack) ++ padTo 0 16 f.data
       let pm := (if f.first then [] else k.packPm) ++ (List.range 16).map (bitAt f.pmask)
       let whole := f.last || decide (64 ≤ pack.length)
       let mask : U64 := BitVec.ofNat 64 (pm.zipIdx.foldl (fun a e => a + (if e.1 then 2 ^ e.2 else 0)) 0)
       let t := s.modChannel n fun c =>
         { c with
           held := c.held + 128,
           pack := if whole then [] else pack, packPm := if whole then [] else pm,
           packed := if f.last then 0 else if whole then start + pack.length / 16 else start,
           xseq := if f.last then c.xseq + 1 else c.xseq }
       let t := if whole then
           sendFrame t { newFrame s 1 0 (cePeer k.ent) pack with
             chan := cePch k.ent, xseq := k.xseq, boff := start, itag := BitVec.ofNat 16 (cePinc k.ent).toNat, pmask := mask }
         else t
       if 262144 ≤ (t.channel n).held ∧ k.stopped = false then sendStop t n true else t)

/-! ### Link streams: the receiver (R346 to R350) -/

/-- Write the blocks of a frame into transfer `x` of a receive channel's tensor. -/
def writeTransfer (s : State) (n : Nat) (f : Frame) : State :=
  let w := (s.channel n).ent
  let b := ceBake w
  let base := f.xseq.toNat % max 1 (ceDepth w) * ceXsize w
  f.data.zipIdx.foldl
    (fun t e =>
      let off := 128 * f.boff + 8 * e.2
      if off + 8 ≤ ceXsize w then
        copyWrite t b (tensorSide (t.bake b) (ceEnt w) true (base + off)) (e.1, bitAt f.pmask e.2)
      else t) s

/-- A transfer is complete: the channel signals its sync object and expects the next (R346). -/
def completeTransfer (s : State) (n : Nat) : State :=
  let w := (s.channel n).ent
  let b := ceBake w
  let t := s.modChannel n fun c => { c with expect := c.expect + 1, wrote := 0 }
  let t := t.modBake b fun k => { k with linkRecv := mmod 0 k.linkRecv n (· + 1) }
  signalObj t ⟨hwSync (t.bake b) (ceRsync w), false, BitVec.ofNat 32 (ceAmt w), (t.bake b).epoch⟩

/-- A DATA frame for a channel whose bake runs: appended, rewritten or discarded (R347). -/
def receiveData (s : State) (f : Frame) : State :=
  let n := f.chan
  let c := s.channel n
  let w := c.ent
  let size := ceXsize w
  let stale : State := raiseS { s with links := { s.links with stale := s.links.stale + 1 } } 0x4112 2 1 f.src
  if ceDir w ≠ 2 then stale
  else if f.xseq = c.expect ∧ 128 * f.boff ≤ c.wrote then
    let got := max c.wrote (min size (128 * f.boff + 128 * f.nblk))
    let t := (writeTransfer s n f).modChannel n fun c => { c with wrote := got }
    if size ≤ got then completeTransfer t n else t
  else if f.xseq ≠ c.expect ∧ (c.expect - f.xseq).toNat ≤ ceDepth w then writeTransfer s n f
  else stale

/-- The frame waits: its channel's bake is neither running nor fencing (R349). -/
def heldData (s : State) (f : Frame) : Bool :=
  let w := (s.channel f.chan).ent
  decide (ceDir w = 2) && decide ((s.bake (ceBake w)).state ≠ 3) && decide ((s.bake (ceBake w)).state ≠ 4) &&
    decide (f.itag.toNat = s.links.inc.toNat % 65536)

/-- DATA: the first delivered DATA frame that need not wait. Another incarnation's frame is discarded and answered with a
REINC frame (R350). -/
def execData (p : Fin 12) (s : State) : Out :=
  .next
    (match (s.port p).rx.find? fun f => decide (f.ftype = 1) && decide (f.dst = deviceId s) && !heldData s f with
     | none => s
     | some f =>
       let t := takeRx s p f true
       if f.itag.toNat ≠ s.links.inc.toNat % 65536 then
         let t : State := { t with links := { t.links with stale := t.links.stale + 1 } }
         sendFrame t (newFrame s 5 1 f.src [BitVec.ofNat 64 (deviceId s), s.links.inc])
       else receiveData t f)

/-- HELD_FRAME_TIMEOUT: a frame has been held for 1 ms (R349). -/
def execHeldFrameTimeout (p : Fin 12) (s : State) : Out :=
  .next
    (match (s.port p).rx.find? fun f => decide (f.ftype = 1) && decide (f.dst = deviceId s) && heldData s f with
     | none => s
     | some f => raisePort s p 1 f.chan)

/-- REINC: every send channel to the sender shows its reincarnation; its bakes are held at their next SEND and paused
there, until the host rewrites the channel (R345, R350). -/
def execReinc (p : Fin 12) (s : State) : Out :=
  .next
    (match (s.port p).rx.find? fun f => decide (f.ftype = 5) && decide (f.dst = deviceId s) with
     | none => s
     | some f =>
       let t := takeRx s p f true
       let dev := (nth 0 f.data 0).toNat % 32768
       let mark (e : Nat × Channel5) : Nat × Channel5 :=
         if ceDir e.2.ent = 1 ∧ cePeer e.2.ent = dev then (e.1, { e.2 with ent := putFld e.2.ent 253 252 2 }) else e
       let t : State := { t with links := { t.links with chans := t.links.chans.map mark } }
       raisePort t p 2 (nth 0 f.data 1).toNat)

/-! ### The channel table (R345) -/

/-- The bake slot, stream or tensor exists and fits the direction. -/
def chanEntryOk (s : State) (w : W256) : Bool :=
  let k := s.bake (ceBake w)
  let j := ceEnt w
  decide (1 ≤ ceBake w) && decide (ceBake w ≤ 64) && decide (k.state ≠ 0) &&
    (if ceDir w = 1 then decide (j < k.pkg.streams.length) && smLnk (nth 0 k.pkg.streams j)
     else
       let t := tensorRow k j
       decide (j < k.pkg.tensors.length) && decide (tnCls t = 3) && decide (tnHome t ≤ 1) &&
         decide (ceRsync w < k.pkg.syncs.length) && decide (1 ≤ ceDepth w) && decide (ceDepth w ≤ 16) &&
         decide (0 < ceXsize w) && decide (ceXsize w % 8 = 0) && decide (ceDepth w * ceXsize w ≤ tnSize t))

/-- CHANNEL_TABLE_WRITE: a write at offset 0x18 applies the whole entry; one that fails its check has dir 0. -/
def execChannelTableWrite (n : Fin 4096) (val : U64) (s : State) : Out :=
  let st := (s.channel n).stage
  let w : W256 := BitVec.ofNat 256 (st.toNat + 2 ^ 192 * val.toNat)
  let w := putFld (putFld (putFld w 253 252 0) 163 128 0) 31 0 0
  .next
    (if ceDir w = 0 then s.modChannel n fun _ => { ent := w, stage := st }
     else if (ceDir w = 1 ∨ ceDir w = 2) ∧ chanEntryOk s w = true then
       resumeAllRouted (s.modChannel n fun _ => { ent := putFld w 253 252 1, stage := st })
     else raiseS (s.modChannel n fun _ => { ent := putFld w 255 254 0, stage := st }) (0x4140) (n.val / 64 + 1) 0 n)

end Sys2Proof.Machine
end

