-- ==== Sys2Proof/Machine/Broker.lean ====
section
/-! DEFINITION. The power broker: reports, what counts, and the allocation (R351, R352, R424 to R426). -/

namespace Sys2Proof.Machine

/-- Member list: device IDs of 0x4120.02. -/
def members (s : State) : List Nat :=
  let l := domainOf s 0x4120 2
  (List.range (l.length / 2)).map fun i => ofLe (slice l (2 * i) 2)

/-- SHA-384 prefix of the member list: its first 8 bytes. -/
def memberPrefix (s : State) : U64 :=
  BitVec.ofNat 64 (ofLe ((digestBytes (sha384 (domainOf s 0x4120 2))).take 8))

/-- The 34 bytes of a report, padded to a block. -/
def reportBytes (r : BrokerReport) : List Byte :=
  leBytes 4 r.group.toNat ++ leBytes 8 r.k.toNat ++ leBytes 2 r.dev.toNat ++ leBytes 8 r.pfx.toNat ++ leBytes 4 r.slack.toNat ++
    leBytes 4 r.cap.toNat ++ leBytes 4 r.base.toNat

def reportOf (l : List Byte) : BrokerReport :=
  let num (o n : Nat) : Nat := ofLe (slice l o n)
  { group := BitVec.ofNat 32 (num 0 4), k := BitVec.ofNat 64 (num 4 8), dev := BitVec.ofNat 16 (num 12 2),
    pfx := BitVec.ofNat 64 (num 14 8), slack := BitVec.ofNat 32 (num 22 4), cap := BitVec.ofNat 32 (num 26 4),
    base := BitVec.ofNat 32 (num 30 4) }

/-- Words of one payload block. -/
def blockWords (l : List Byte) : List U64 := bytesWords 16 (padTo 0 128 l)

/-- Record a report of interval `k`; a repeat of a device changes nothing. -/
def countReport (s : State) (r : BrokerReport) (own : Bool) : State :=
  if (s.links.reports.find? fun e => decide (e.1 = r.dev.toNat)).isSome then s
  else
    { s with links := { s.links with
        reports := s.links.reports ++ [(r.dev.toNat, r)],
        lastCap := mset 0 s.links.lastCap r.dev.toNat r.cap,
        counted := if own then s.links.counted else s.links.counted + 1 } }

/-- BROKER_INTERVAL: interval `k` starts; the cap allocated for it takes effect, and a report goes to every other member.
The slack of interval k − 1 is an operand; a device without a running bake reports 50,000 ns (R424). -/
def execBrokerInterval (k : U64) (slack : U32) (s : State) : Out :=
  let run := s.baker.slots.any fun e => decide (e.2.state = 3)
  let t : State := { s with links := { s.links with brokerK := k, reports := [] } }
  let t : State := { t with power := { t.power with
    alloc := if s.power.lastK + 1 = k ∧ s.links.quiet < 4 then some s.power.lastOwn else if s.links.quiet < 4 then t.power.alloc else none } }
  .next
    (if !brokered s || decide (deviceId s = 0xFFFF) then s
     else
       let r : BrokerReport :=
         ⟨BitVec.ofNat 32 (setting s 0x4120 1), k, BitVec.ofNat 16 (deviceId s), memberPrefix s, if run then slack else 50000,
          capInForce t, baseCap s⟩
       ((members s).filter fun d => decide (d ≠ deviceId s)).foldl
         (fun u d => sendFrame u (newFrame u 3 2 d (blockWords (reportBytes r)))) (countReport t r true))

/-- BROKER: a report arrives `micros` after the start of the interval: it counts, or it is foreign or late (R352). -/
def execBroker (p : Fin 12) (micros : Nat) (s : State) : Out :=
  .next
    (match (s.port p).rx.find? fun f => decide (f.ftype = 3) && decide (f.dst = deviceId s) with
     | none => s
     | some f =>
       let t := takeRx s p f true
       let r := reportOf (wordsBytes f.data)
       let late : State := { t with links := { t.links with late := t.links.late + 1 } }
       if r.group.toNat ≠ setting s 0x4120 1 ∨ r.pfx ≠ memberPrefix s then raiseS late 0x4121 2 1 f.src
       else if r.k ≠ s.links.brokerK ∨ 25 < micros then late
       else countReport t r false)

/-! ### The allocation (R425, R426) -/

def ratMin (a b : Rat) : Rat := if a ≤ b then a else b
def ratMax (a b : Rat) : Rat := if a ≤ b then b else a
def ratSum (l : List Rat) : Rat := l.foldl (· + ·) 0

/-- T_j before the group cap: the share the slack gives, in W. -/
def shareT (sMean : Rat) (r : BrokerReport) : Rat :=
  let d := ratMax (-1) (ratMin 1 ((sMean - (r.slack.toNat : Rat)) / ratMax sMean 1000))
  ratMin (ratOf r.base * (1 + d / 5)) 15000

/-- The allocation over the counted reports: λ, the mean slack, and whether F < L. -/
structure Alloc where
  lam   : Rat
  mean  : Rat
  short : Bool
  own   : Rat
  deriving DecidableEq, Repr

def allocate (g : Rat) (counted : List BrokerReport) (missing : List Rat) (own : BrokerReport) : Alloc :=
  let mean := ratSum (counted.map fun r => ((r.slack.toNat : Nat) : Rat)) / ((max 1 counted.length : Nat) : Rat)
  let f := g - ratSum missing
  let l := ratSum (counted.map fun r => ratOf r.base * 4 / 5)
  let u := ratSum (counted.map fun r => shareT mean r - ratOf r.base * 4 / 5)
  let lam : Rat := if 0 < u ∧ f < l + u then ratMax 0 ((f - l) / u) else 1
  ⟨lam, mean, decide (f < l), ratOf own.base * 4 / 5 + lam * (shareT mean own - ratOf own.base * 4 / 5)⟩

/-- BROKER_ALLOCATION: at 40 µs into the interval the own cap of the next one is computed from the reports that count; four
intervals without another member's report return the device to its base cap. -/
def execBrokerAllocation (s : State) : Out :=
  let counted := s.links.reports.map (·.2)
  let missing := (members s).filter fun d => !(s.links.reports.any fun e => decide (e.1 = d))
  .next
    (match s.links.reports.find? fun e => decide (e.1 = deviceId s) with
     | none => s
     | some own =>
       if !brokered s then s
       else
         let a := allocate (ratOf (BitVec.ofNat 32 (setting s 0x4120 3))) counted
           (missing.map fun d => ratOf (mget 0 s.links.lastCap d)) own.2
         let quiet := if counted.length ≤ 1 then s.links.quiet + 1 else 0
         let t : State := { s with
           power := { s.power with
             lastK := s.links.brokerK, lastOwn := f32Of a.own, lastLambda := f32Of a.lam, lastS := f32Of a.mean,
             counted := BitVec.ofNat 16 counted.length, missing := BitVec.ofNat 16 missing.length,
             shortfalls := if a.short then s.power.shortfalls + 1 else s.power.shortfalls },
           links := { s.links with quiet := quiet } }
         if a.short then raiseS t 0x2132 2 1 0 else t)

end Sys2Proof.Machine
end

