-- ==== Sys2Proof/Machine/Messages.lean ====
section
/-! DEFINITION. Firmware messages as bytes, and the sending of them on the die and between devices (R380, R381). -/

namespace Sys2Proof.Machine

/-- The 16-byte header of a message. -/
def msgHeader (m : FwMsg) : Nat :=
  m.dstm.toNat * 2 ^ 120 + m.srcm.toNat * 2 ^ 112 + m.mclass.toNat * 2 ^ 104 + m.body.length * 2 ^ 96 + m.mseq.toNat * 2 ^ 80 +
    m.mack.toNat * 2 ^ 64 + m.status.toNat * 2 ^ 32

/-- Header and body. -/
def msgBytes (m : FwMsg) : List Byte := leBytes 16 (msgHeader m) ++ m.body

/-- Payload words of a message in a draught flit (R225). -/
def msgWords (m : FwMsg) : List (U64 × Bool) := (bytesWords 12 (padTo 0 96 (msgBytes m))).map (·, false)

/-- The draught flit of a firmware message between ring agents; its ends are named at its injection (R196, R225). -/
def msgFlit (m : FwMsg) : Draught :=
  { mtype := 5, dst := 256, src := 256, tnt := 0xFF, rot := 1, epoch := 0, fcount := 0, step := 0, att := 0, lst := false,
    loops := [], taddr := 0, sobj := 0, data := msgWords m, crumb := none }

/-- Put a message on its way: a CTL frame to another device; on the die a draught flit between the agents of the ring, which two
agents of one port need not send, and the control chain to or from a hearth controller (R196, R197). -/
def dispatchMsg (s : State) (dev : Option Nat) (m : FwMsg) : State :=
  match dev with
  | some d => sendFrame s (newFrame s 2 1 d (bytesWords 16 (padTo 0 128 (msgBytes m))))
  | none =>
    match agentOf m.srcm.toNat, agentOf m.dstm.toNat with
    | some a, some b =>
      if boundPort s a = boundPort s b then { s with flue := { s.flue with ring := s.flue.ring ++ [(b, msgFlit m)] } }
      else { s with flue := { s.flue with ringOut := s.flue.ringOut ++ [(a, msgFlit m)] } }
    | _, _ => { s with ctl := { s.ctl with onDie := m :: s.ctl.onDie } }

/-- Number a message and send it; it stays unacknowledged until its acknowledgment (R381). -/
def sendMsg (s : State) (dev : Option Nat) (m : FwMsg) : State :=
  let key := 256 * m.srcm.toNat + m.dstm.toNat
  let n := mget 0 s.ctl.nextMseq key
  let m : FwMsg := { m with mseq := n }
  let t : State := { s with ctl := { s.ctl with
    nextMseq := mset 0 s.ctl.nextMseq key (n + 1), unacked := s.ctl.unacked ++ [⟨m, dev, 1⟩] } }
  dispatchMsg t dev m

end Sys2Proof.Machine
end

