-- ==== Sys2Proof/Machine/Integrity.lean ====
section
/-! DEFINITION. Replica checks, banks, the event log and the monitors (R460 to R477). -/

namespace Sys2Proof.Machine

/-! ### Replica digests (R460 to R464) -/

/-- Job of the digest unit for a covered tensor that lies on a core, with the core. -/
def digestJob (s : State) (b j : Nat) : Option (CoreId × Work) :=
  match tensorSide (s.bake b) j false 0 with
  | .pad c _ => (((s.core c).pad.jobs 8).find? fun w => decide (w.order = j)).map fun w => (c, w)
  | _ => none

/-- Every digest read is done (R461). -/
def digestRead (s : State) (b : Nat) : Bool :=
  (coveredTensors s b).all fun j => match digestJob s b j with
    | some e => e.2.hasRead
    | none => true

/-- Words of a covered tensor as the digest units read them; those of a tensor in a stack area are read from there. -/
def digestWords (s : State) (b j : Nat) : List (U64 × Bool) × State :=
  match digestJob s b j with
  | some e => (e.2.words, s.modCore e.1 fun k => k.modPad fun p => p.setJobs 8 ((p.jobs 8).filter fun w => decide (w.order ≠ j)))
  | none => viewWords s b j false

/-- Digest of tensors in their committed views, whether a word of them is poisoned, and what the reads leave. -/
def digestOf (s : State) (b : Nat) (seed : U64) (l : List Nat) : (BitVec 128 × Bool) × State :=
  l.foldl
    (fun a j =>
      let w := digestWords a.2 b j
      ((a.1.1 ^^^ tensorDigest (gfKey seed) j (w.1.map (·.1)), a.1.2 || w.1.any (·.2)), w.2)) ((0, false), s)

/-- First eight bytes of the graph digest. -/
def graphPrefix (k : Bake) : U64 := BitVec.ofNat 64 (ofLe ((digestBytes k.digest).take 8))

/-- Body of a replica report (R462). -/
def replicaBytes (r : ReplicaReport) : List Byte :=
  leBytes 4 r.group.toNat ++ leBytes 4 r.k.toNat ++ leBytes 8 r.j.toNat ++ leBytes 8 r.gpfx.toNat ++
    leBytes 8 (if r.poison then 1 else 0) ++ leBytes 16 r.digest.toNat

/-- DIGEST_COMPLETE: the device digest is whole; its report goes to every other member. -/
def execDigestComplete (b : Nat) (s : State) : Out :=
  onSlot 64 b
    (let k := s.bake b
     if !k.replica.open_ || k.replica.whole || !digestRead s b then s
     else
       let x := digestOf s b (groupSeed s b) (coveredTensors s b)
       let d := x.1
       let t := x.2.modBake b fun q => { q with replica := { q.replica with whole := true, own := d.1, poison := d.2 } }
       let r : ReplicaReport :=
         ⟨BitVec.ofNat 32 (groupId s b), BitVec.ofNat 32 (groupK s b), k.replica.j, graphPrefix k, d.2, d.1⟩
       if k.replica.expelled || decide (s.recov.active = 0) then t
       else ((groupMembers s b).filter fun d => decide (d ≠ 0xFFFF) && decide (d ≠ deviceId s)).foldl
         (fun u d => sendMsg u (some d) ⟨stokerId s, stokerId s, 3, 0, 0, 0, replicaBytes r⟩) t)

/-- REPLICA_REPORT of member entry `m`: held for its check, or discarded as foreign or late. -/
def execReplicaReport (b m : Nat) (r : ReplicaReport) (s : State) : Out :=
  onSlot 64 b
    (let k := s.bake b
     let foreign := decide (r.group.toNat ≠ groupId s b) || decide (r.k.toNat ≠ groupK s b) || decide (r.gpfx ≠ graphPrefix k) ||
       decide (8 ≤ m)
     let late := decide (r.j.toNat < k.replica.j.toNat) || (decide (r.j = k.replica.j) && !k.replica.open_)
     if foreign then
       raiseS (s.modBake b fun q => { q with replica := { q.replica with foreign := q.replica.foreign + 1 } }) 0x6002 b 1 m
     else if late then
       raiseS (s.modBake b fun q => { q with replica := { q.replica with late := q.replica.late + 1 } }) 0x6002 b 1 m
     else s.modBake b fun q => { q with replica := { q.replica with reports := (q.replica.reports.filter fun e => decide (e.1 ≠ m)) ++ [(m, r)] } })

/-- Members of the active view, by entry. -/
def activeMembers (s : State) (b : Nat) : List Nat :=
  (List.range 8).filter fun i => !bitAt (s.bake b).replica.dropped i && decide (nth 0xFFFF (groupMembers s b) i ≠ 0xFFFF)

/-- Values of the reports counted, by member entry; a poisoned one matches no other. -/
def countedValues (s : State) (b : Nat) : List (Nat × Option (BitVec 128)) :=
  let k := (s.bake b).replica
  (activeMembers s b).filterMap fun i =>
    if nth 0xFFFF (groupMembers s b) i = deviceId s then some (i, if k.poison then none else some k.own)
    else (k.reports.find? fun e => decide (e.1 = i) && decide (e.2.j = k.j)).map fun e => (i, if e.2.poison then none else some e.2.digest)

/-- The majority value: held by at least ⌊n/2⌋ + 1 of the reports counted. -/
def majorityOf (n : Nat) (l : List (Nat × Option (BitVec 128))) : Option (BitVec 128) :=
  l.findSome? fun e => match e.2 with
    | none => none
    | some v => if n / 2 + 1 ≤ (l.filter fun x => decide (x.2 = some v)).length then some v else none

def maskOf (l : List Nat) : U8 := BitVec.ofNat 8 (l.foldl (fun a i => a + 2 ^ i) 0)

/-- CHECK_RESOLUTION: with every report or at the window's end. A device that the majority excludes expels itself. -/
def execCheckResolution (b : Nat) (windowRan : Bool) (s : State) : Out :=
  onSlot 64 b
    (let k := (s.bake b).replica
     let act := activeMembers s b
     let l := countedValues s b
     let missing := act.filter fun i => !(l.any fun e => decide (e.1 = i))
     if !k.open_ || !k.whole || !(windowRan || missing.isEmpty) then s
     else
       let maj := majorityOf act.length l
       let odd := match maj with
         | none => []
         | some v => (l.filter fun e => decide (e.2 ≠ some v)).map (·.1)
       let own := act.find? fun i => decide (nth 0xFFFF (groupMembers s b) i = deviceId s)
       let self := own.any odd.contains
       let result : U8 := if maj.isNone then 4 else if self then 3 else if odd.isEmpty then 1 else 2
       let t := s.modBake b fun q => { q with replica := { q.replica with
         open_ := false, result := result, odd := maskOf odd, counted := BitVec.ofNat 8 l.length, majority := maj.getD 0,
         checks := q.replica.checks + 1, dropped := q.replica.dropped ||| maskOf (odd.filter fun i => decide (some i ≠ own)),
         expelled := q.replica.expelled || self } }
       let t := missing.foldl (fun u i => raiseS u 0x6002 b 1 (nth 0xFFFF (groupMembers s b) i)) t
       let t := if maj.isNone then raiseS t 0x6002 b 2 0 else t
       let t := (odd.filter fun i => decide (some i ≠ own)).foldl (fun u i => raiseS u 0x6002 b 2 (nth 0xFFFF (groupMembers s b) i)) t
       if self then
         let t := raiseS t 0x6002 b 3 (deviceId s)
         let t := if (t.bake b).item.isSome then fence t b 5 true else t
         t.modBake b fun q => { q with state := 7 }
       else t)

/-! ### Banks (R466 to R469) -/

/-- µs since cold start. -/
def micros (s : State) : U64 := BitVec.ofNat 64 (s.flue.cycle / 1600)

/-- A bank copy into an area has DMA left. -/
def bankCopying (s : State) (b : Nat) (areaB host : Bool) : Bool :=
  s.ring.dmas.any fun d => decide (d.slot = b) && decide (d.use = if host then .hostCopy areaB else .bank areaB)

/-- Digest of a bank's tensors as they lie in its area, with S = 0, and what the reads leave. -/
def bankDigest (s : State) (b : Nat) (areaB : Bool) : BitVec 128 × State :=
  let k := s.bake b
  (bankTensors k).foldl
    (fun a j =>
      let w := readGo b (fun i => bankSide k areaB j (8 * i)) a.2 (tnSize (tensorRow k j) / 8)
      (a.1 ^^^ tensorDigest (gfKey 0) j (w.1.map (·.1)), w.2)) (0, s)

/-- A bank that waited for its area begins (R468). -/
def startDue (s : State) (b : Nat) : State :=
  match (s.bake b).bankDue with
  | some a => startBank s b a
  | none => s

/-- BANK_WHOLE: the copy has ended; the digest is recorded and the host copies begin. -/
def execBankWhole (b : Nat) (s : State) : Out :=
  onSlot 64 b
    (match [false, true].find? fun a => decide ((bankOf' (s.bake b) a).state = 1) && !bankCopying s b a false with
     | none => s
     | some a =>
       let io := (bankOf' (s.bake b) a).io
       let d := bankDigest s b a
       let t := modBank d.2 b a fun x =>
         { x with state := if io.isEmpty then 2 else 3, at_ := micros s, digest := d.1 }
       io.foldl
         (fun u e => requestWhole u (.hostCopy a) b (tnSize (tensorRow (u.bake b) e.1)) (bankSide (u.bake b) a e.1 0) (.host e.2)) t)

/-- A host copy of the bank stands still: parked on a fault, or stopped by a poisoned word (R301, R307). -/
def bankStuck (s : State) (b : Nat) (areaB : Bool) : Bool :=
  s.ring.dmas.any fun d => decide (d.slot = b) && decide (d.use = .hostCopy areaB) && (d.parked.isSome || d.dead)

/-- BANK_HOST_COPY_COMPLETE: every host copy of the bank has ended, or one that stands still has failed; a bank that waited
begins. -/
def execBankHostCopyComplete (b : Nat) (ok : Bool) (s : State) : Out :=
  onSlot 64 b
    (match [false, true].find? fun a => decide ((bankOf' (s.bake b) a).state = 3) with
     | none => s
     | some a =>
       if ok then (if bankCopying s b a true then s else startDue (modBank s b a fun x => { x with state := 4 }) b)
       else if !bankStuck s b a then s
       else
         let t := modBank s b a fun x => { x with state := 5 }
         let t := t.modDmas fun l => l.filter fun d => !(decide (d.slot = b) && decide (d.use = .hostCopy a))
         startDue (raiseS t 0x6021 b 2 (if a then 2 else 1)) b)

/-- Restore a paused bake from a whole bank (R469): the abort code, or the bake in state 0x2. -/
def restoreBank (s : State) (b area : Nat) : Nat × State :=
  let k := s.bake b
  let a := decide (area = 2)
  let x := bankOf' k a
  if !(decide (area = 1) || decide (area = 2)) || decide (k.state ≠ 7) || !(bakeItems s b).isEmpty || decide (x.state.toNat < 2) then
    (0x06090030, s)
  else
    let t := (bankTensors k).foldl
      (fun u j => copyBytes u b (tnSize (tensorRow k j)) (bankSide k a j) (tensorSide k j false)) s
    let t := (bakeInsts k).foldl
      (fun u e => (x.hists.filter fun h => decide (h.1 / 16 = e.1)).foldl
        (fun u h => u.modCore e.2.1 fun q => q.modLive fun l => l.modSlot (h.1 % 16) fun g => { g with hist := h.2.1, scale := h.2.2 }) u) t
    let y := takeEpoch t
    let t := y.2.modBake b fun q => { q with committed := x.steps, epoch := y.1, state := 2, noRoute := false, triggers := [], losses := 0 }
    (0, rebind (initSyncs (writeEpoch t k.tenant.toNat y.1) b) b)

/-! ### The event log (R471 to R473) -/

/-- EVENT_RAISE: a hardware unit raises an event. -/
def execEventRaise (index : U16) (sub sev src : U8) (arg : U64) (s : State) : Out :=
  .next (if sev.toNat ≤ 3 then raise s index sub sev src arg else s)

/-- EVENT_LOG_MOVE: the active Stoker moves the oldest record of the queue into the log. -/
def execEventLogMove (s : State) : Out :=
  .next
    (match s.aon.queue with
     | [] => s
     | e :: t =>
       if s.recov.active = 0 then s
       else
         let n := s.integ.nextSeq
         { s with
           aon := { s.aon with queue := t },
           integ := { s.integ with nextSeq := n + 1, log := mset ⟨0, 0, 0, 0, 0, 0, 0⟩ s.integ.log (n.toNat % 1024) { e with seq := n } } })

/-- A write of 0x6030.04. -/
def acknowledge (s : State) (seq : U64) : Nat × State :=
  if s.integ.nextSeq.toNat ≤ seq.toNat then (0x06090030, s)
  else (0, { s with integ := { s.integ with acked := seq } })

/-! ### Monitors (R474 to R477) -/

/-- Instances of a monitor index. -/
def monitorCount (s : State) (index : Nat) : Nat :=
  match index with
  | 0x6110 | 0x6111 => 128
  | 0x6112 | 0x6118 | 0x6119 => 16
  | 0x6113 | 0x6114 => gridSize s
  | 0x6115 => 12
  | 0x6116 => 22
  | 0x6117 => 36
  | _ => 0

/-- Instances a command names; none where one does not exist. -/
def monitorNames (s : State) (index sub : Nat) : List Nat :=
  let n := monitorCount s index
  if n = 0 ∨ n < sub then [] else if sub = 0 then (List.range n).map (· + 1) else [sub]

def modMonitors (s : State) (index sub : Nat) (f : Monitor → Monitor) : State :=
  { s with integ := { s.integ with
      monitors := (monitorNames s index sub).foldl (fun m i => mmod {} m (256 * index + i) f) s.integ.monitors } }

/-- Carry out a monitor command and remember it at 0x6100.01. -/
def monitorCommand (s : State) (cmd index sub : Nat) (f : Monitor → Monitor) : State :=
  if (monitorNames s index sub).isEmpty then s
  else
    let t := modMonitors s index sub f
    { t with integ := { t.integ with command := BitVec.ofNat 32 (cmd * 2 ^ 28 + index * 2 ^ 8 + sub) } }

/-- A cleared record keeps its state. -/
def Monitor.cleared (m : Monitor) : Monitor := { armed := m.armed }

def execArm (index : U16) (sub : U8) (s : State) : Out :=
  .next (monitorCommand s 1 index.toNat sub.toNat fun m => { m with armed := true })

def execFreeze (index : U16) (sub : U8) (s : State) : Out :=
  .next (monitorCommand s 2 index.toNat sub.toNat fun m => { m with armed := false })

def execClear (index : U16) (sub : U8) (s : State) : Out := .next (monitorCommand s 3 index.toNat sub.toNat Monitor.cleared)

def execClearAndArm (index : U16) (sub : U8) (s : State) : Out :=
  .next (monitorCommand s 4 index.toNat sub.toNat fun _ => {})

/-- Bin of a quantity (R475). -/
def binOf (q : Nat) : Nat := if q = 0 then 0 else min 31 (Nat.log2 q + 1)

def Monitor.sample (m : Monitor) (q : Nat) : Monitor :=
  if !m.armed then m
  else
    { m with
      samples := m.samples + 1, minQ := BitVec.ofNat 64 (min m.minQ.toNat q), maxQ := BitVec.ofNat 64 (max m.maxQ.toNat q),
      bins := mmod 0 m.bins (binOf q) fun c => satInc c 1 }

/-- MONITOR_SAMPLE of instance `sub`. -/
def execMonitorSample (index : U16) (sub : U8) (q : Nat) (s : State) : Out :=
  .next (if sub = 0 then s else modMonitors s index.toNat sub.toNat fun m => m.sample (min q (2 ^ 64 - 1)))

end Sys2Proof.Machine
end

