-- ==== Sys2Proof/Machine/Startup.lean ====
section
/-! DEFINITION. Cold start, the firmware image and its checks, and what brings the device to ready (R17 to R25, R333, R401,
R402, R434 to R440). -/

namespace Sys2Proof.Machine

/-! ### Seam test and proving (R17, R18, R401, R402) -/

/-- Spare tracks of a group of a link direction, by the seam its key crosses. -/
def trackSpares (key : Nat) : Nat :=
  let d : Dir := match key % 5 with
    | 0 => .n
    | 1 => .s
    | 2 => .e
    | 3 => .w
    | _ => .loc
  match seamOf (key / 5) d with
  | some true => Config.lintelSpares
  | some false => Config.stitchSpares
  | none => 0

def keyIsLintel (key : Nat) : Bool := decide (trackSpares key = Config.lintelSpares)

/-- Failed tracks of a group: fused and added in service. Groups are keyed `17·direction + group`. -/
def failedTracks (s : State) (g : Nat) : Nat := mget 0 s.fuse.tracks g + mget 0 s.aon.recA.tracks g

/-- The seam test: newly failed tracks join the repair; a direction with a group beyond its spares is lost. -/
def seamTest (s : State) (found : List (Nat × Nat × Nat)) : State :=
  let t := found.foldl
    (fun t e => t.modRec fun r => { r with tracks := mmod 0 r.tracks (17 * e.1 + e.2.1 % 17) (· + e.2.2) }) s
  let keys := ((t.fuse.tracks ++ t.aon.recA.tracks).map (·.1)).dedup
  let lost := ((keys.filter fun g => decide (trackSpares (g / 17) < failedTracks t g)).map (· / 17)).dedup
  let used (lintel : Bool) : Nat :=
    ((keys.filter fun g => decide (keyIsLintel (g / 17) = lintel)).map fun g => min (failedTracks t g) (trackSpares (g / 17))).sum
  let t : State := { t with
    flue := { t.flue with lostDirs := lost },
    map := { t.map with
      stitch := BitVec.ofNat 16 (lost.filter fun k => !keyIsLintel k).length,
      lintel := BitVec.ofNat 16 (lost.filter keyIsLintel).length,
      stitchTr := BitVec.ofNat 32 (used false), lintelTr := BitVec.ofNat 32 (used true) } }
  lost.foldl (fun t k => raiseS t 0x3004 (if keyIsLintel k then 2 else 1) 3 k) t

/-- Spare map of the start: R21 over every defective site, with R25 where a column cannot meet its count. -/
def spareMaps (s : State) (bad : List Site) : State :=
  let cols := List.range 16
  let t : State := { s with map := { s.map with
    spare := cols.foldl (fun m c => mset 0 m c (rowMask (leaveOut s.fuse.grade bad c))) [] } }
  let short := cols.filter fun c => decide (s.fuse.grade.leftOut < (leaveOut s.fuse.grade bad c).length)
  let holes := short.flatMap fun c => ((List.range s.fuse.grade.rows).map fun y => 16 * y + c).filter fun k => (siteOf t k).isNone
  let t := short.foldl (fun t c => raiseS t 0x3001 (c + 1) 3 c) t
  let renumbered : Nat := if bad.all s.fuse.defective.contains then 0 else 1
  { t with map := { t.map with
      width := holes.foldl (fun m k => mset 512 m k 0) t.map.width,
      gen := t.map.gen + BitVec.ofNat 32 (renumbered + holes.length) } }

/-- Latency a crossing holds: the measurement and one cycle of guard, not below the 3 cycles of R401's entry (DEDUCED, log
entry 121). -/
def provedLatency (measured : Nat) : Nat := max 3 (measured + 1)

/-- Proving: the larger of the two measurements and one cycle of guard; a crossing beyond 6 makes its site defective. -/
def prove (s : State) (l : List (Site × Nat × Nat)) : State :=
  let t := s.modRec fun r => { r with provings := r.provings + 1 }
  let t : State := { t with map := { t.map with
    crossing := l.foldl (fun m e => mset (0, 0) m e.1 (provedLatency e.2.1, provedLatency e.2.2)) [] } }
  let t : State := { t with flue := { t.flue with cycle := 0 } }
  spareMaps t (badSites t).dedup

/-! ### Cold start (R435, R436) -/

/-- First value of the TRNG that may be an incarnation ID (R333). -/
def incarnation (l : List U64) : U64 := (l.find? fun v => decide (v ≠ 0) && decide (v ≠ 0xFFFFFFFFFFFFFFFF)).getD 1

/-- Stacks train: channels that fail are retired, every location reads poisoned until written (R317, R321). -/
def trainStacks (s : State) (bad : List Nat) (lanes : List (Nat × Nat)) : State :=
  let t : State := { s with hbm := {} }
  let t := t.modRec fun r => { r with retired := bad }
  let t := lanes.foldl (fun t e => t.modChan e.1 fun c => { c with lanes := BitVec.ofNat 8 e.2 }) t
  bad.foldl (fun t ch => raiseS (t.modChan ch fun c => { c with state := 2 }) (0x4020 + ch / 32) (ch % 32 + 1) 3 ch) t

/-- The sequence of a cold start up to FW_STAT state 0x1, and the memories and links behind it. Both fuse copies are read
again; a word bad in both holds the part in reset (R31). -/
def startSequence (s : State) (o : BootObs) : State :=
  let s : State := { s with fuse := { s.fuse with badA := o.badA, badB := o.badB } }
  if s.fuse.badA.any s.fuse.badB.contains then enterRescue s 2 5
  else if !o.romW && !o.romE then enterRescue s 1 1
  else
    let act : U8 := if o.romW then 8 else 9
    let t : State := { s with
      recov := { s.recov with active := act, romFail := !(o.romW && o.romE), dev := 0 },
      map := { s.map with bypass := s.fuse.columns },
      mesh := { s.mesh with state := 0 } }
    let t := if o.romW then t else raiseS t 0x7000 1 3 1
    let t := seamTest t o.seam
    if Config.lintelStartMax < t.map.lintel.toNat then enterRescue t 2 2
    else
      let t := prove t o.proving
      let t := trainStacks t o.badChannels o.lanes
      { t with links := { t.links with inc := incarnation o.trng }, recov := { t.recov with dev := 1, fwState := 1 } }

/-- COLD_START at T0: from the ROM stage, or from a held reset once the board has repeated its sequence, with a rail that was
out of order dropped first (R45, R435, R454). -/
def execColdStart (o : BootObs) (s : State) : Out :=
  .next
    (if (s.recov.dev = 0 ∧ s.aon.rescue = 0) ∨ (s.aon.rescue = 2 ∧ o.repeated = true) then
       let t := startSequence { s with
         aon := { s.aon with rescue := 0, cause := 0 }, recov := { s.recov with dev := 0, running := none } } o
       { t with recov := { t.recov with last := { level := 5, cause := 7 } } }
     else s)

/-! ### The image (R437 to R439) -/

/-- FW_WIN_WRITE: firmware SRAM takes writes in state 0x1; others are dropped and counted. -/
def execFwWinWrite (off : Nat) (bytes : List Byte) (s : State) : Out :=
  .next
    (if s.recov.fwState = 1 ∧ off + bytes.length ≤ 4194304 then
      { s with recov := { s.recov with sram := bytes.zipIdx.foldl (fun m e => mset 0 m (off + e.2) e.1) s.recov.sram } }
    else { s with recov := { s.recov with dropped := s.recov.dropped + 1 } })

/-- Image header: the field whose lowest bit is `hi … lo` of the 2,048-bit header lies in these bytes. -/
def sramBytes (s : State) (off n : Nat) : List Byte := (List.range n).map fun i => mget 0 s.recov.sram (off + i)

def imageHeader (s : State) : BitVec 2048 := BitVec.ofNat 2048 (ofLe (sramBytes s 0 256))

/-- A byte string of the header in the order of SEC 1: the field's bytes from the most significant down. -/
def headerBytes (h : BitVec 2048) (hi lo : Nat) : List Byte := (leBytes ((hi - lo + 1) / 8) (fld h hi lo)).reverse

/-- The signature verifies over the header with sig zero and the body (R439). -/
def signatureOk (s : State) : Bool :=
  let h := imageHeader s
  let k := headerBytes h 1919 1144
  let q := (ofBe (slice k 1 48), ofBe (slice k 49 48))
  let msg := leBytes 256 (putFld h 1135 368 0).toNat ++ sramBytes s 256 (fld h 1951 1920)
  let sig := headerBytes h 1135 368
  decide (k.head? = some 4) && ecOn q && ecdsaOk q (sha384 msg).toNat (ofBe (slice sig 0 48)) (ofBe (slice sig 48 48))

/-- First check of R439 that the image fails; 0 for none. -/
def imageReason (s : State) : Nat :=
  let h := imageHeader s
  let len := fld h 1951 1920
  let kidx := fld h 1999 1992
  if fld h 2047 2016 ≠ 0x504C5646 ∨ fld h 2015 2000 ≠ 0x0100 ∨ fld h 1991 1984 ≠ 0 ∨ fld h 1143 1136 ≠ 0 ∨ fld h 367 0 ≠ 0 then 1
  else if len % 256 ≠ 0 ∨ len < 4096 ∨ 4194048 < len then 2
  else if 3 < kidx ∨ sha384 (headerBytes h 1919 1144) ≠ nth 0 s.fuse.keyHash kidx then 3
  else if bitAt s.fuse.revoked kidx then 4
  else if !signatureOk s then 5
  else if fld h 1983 1952 < s.fuse.minSvn.toNat then 6
  else 0

/-- A rejected image: reason, count, SRAM cleared, back to state 0x1, event. -/
def rejectImage (s : State) (r : Nat) : State :=
  raiseS { s with recov := { s.recov with
    fwState := 1, fwReason := BitVec.ofNat 8 r, fwRej := satInc s.recov.fwRej 1, sram := [],
    rejects := s.recov.rejects + 1 } } 0x7011 1 0 r

/-- Processors of an image that runs: the active Stoker runs, the other stands by, or is held where it failed its ROM
self-test; the rest run. -/
def startProcessors (s : State) (heldStoker : Bool) : State :=
  let act := if s.recov.active = 9 then 2 else 1
  (List.range 30).foldl
    (fun t i => t.modProc (i + 1) fun p =>
      { p with state := if i + 1 = act then 0 else if i < 2 then (if heldStoker then 4 else 3) else 0 }) s

/-- The image passed: state 0x3. The firmware version is a FREE VALUE, since the header of R438 does not carry it (log
entry 10). -/
def imageRuns (s : State) : State :=
  { s with
    recov := { s.recov with fwState := 3, fwSvn := BitVec.ofNat 32 (fld (imageHeader s) 1983 1952) },
    ring := { s.ring with freeCtr := s.ring.freeCtr + 1 },
    ctl := { s.ctl with dict := { s.ctl.dict with fwVer := (Config.freeValue s.ring.freeCtr).setWidth 32 } } }

/-- The binding table that the loaded firmware brings is written and locked (R387). -/
def lockBindings (s : State) (l : List (Fin 256 × U32)) : State :=
  let t := l.foldl (fun t e => putSetting t 0x1200 (e.1.val + 1) e.2.toNat) s
  t.modDict fun d => { d with locked := true }

/-- Every compute core comes up: scratchpads invalid, self-test, no bake (R435). -/
def bringUpCores (s : State) (test : SelfTest) : State :=
  let all := List.range (gridSize s)
  let t : State := { s with cores := [] }
  let t := selfTestCores t test all
  (List.range 16).foldl (fun t n => t.modHearth n fun h => { h with fixedRun := false }) t

/-! ### What is left of the cold start after a good image (R435) -/

/-- Firmware runs, the binding table is locked, draught routes are compiled, cores are up and the device is ready. -/
def finishStart (s : State) (test : SelfTest) (plan : DraughtPlan) (l : List (Fin 256 × U32)) : State :=
  let t := lockBindings (startProcessors (imageRuns s) s.recov.romFail) l
  let t := if planOk t plan then compileDraught t plan else t
  let t := bringUpCores t test
  { t with recov := { t.recov with dev := 3 } }

end Sys2Proof.Machine
end

