-- ==== Sys2Proof/Machine/Resets.lean ====
section
/-! DEFINITION. Resets below and at whole-device level, their boundaries, spill and restore, and the warm-reset path (R283,
R318, R441 to R447). -/

namespace Sys2Proof.Machine

/-! ### Firmware processors (R448, R450) -/

/-- Master ID of processor `m` (R360, R448). -/
def masterOf (m : Nat) : Nat :=
  if m = 1 then 0x08 else if m = 2 then 0x09 else if m ≤ 8 then 0x10 + (m - 3)
  else if m ≤ 24 then 0x20 + (m - 9) else if m ≤ 28 then 0x30 + (m - 25) else 0x38 + (m - 29)

/-- Every receiver discards the numbers it keeps for a source, which numbers its messages from 0 again (R450). -/
def forgetNumbers (s : State) (src : Nat) : State :=
  { s with ctl := { s.ctl with
    seen := s.ctl.seen.filter fun e => decide (e.1.toNat ≠ src),
    nextMseq := s.ctl.nextMseq.filter fun e => decide (e.1 / 256 ≠ src) } }

/-! ### Scopes (R441, R446) -/

def scopeLevel : ResetScope → Nat
  | .core _ => 1
  | .hearth _ => 2
  | .rect _ => 3
  | .warm => 4
  | .whole => 5

def scopeTarget : ResetScope → Nat
  | .core c => c
  | .hearth n => n
  | .rect t => t
  | _ => 0

/-- Cores a scope resets. -/
def scopeCores (s : State) : ResetScope → List CoreId
  | .core c => [c]
  | .hearth n => hearthCores s n
  | .rect t => match rectOf s t with
    | some r => rectCores s r
    | none => []
  | _ => List.range (gridSize s)

/-- The first scope contains the second. -/
def contains (s : State) (a b : ResetScope) : Bool :=
  decide (a = b) || decide (a = .whole) || (decide (a = .warm) && decide (scopeLevel b < 4)) ||
    (decide (scopeLevel b < 4) && decide (scopeLevel a < 4) && !(decide (scopeLevel b = 2)) &&
      (scopeCores s b).all fun c => (scopeCores s a).contains c)

/-- Bakes with an instance in scope. -/
def scopeBakes (s : State) (a : ResetScope) : List Nat :=
  (s.baker.slots.filter fun e => e.2.place.isSome && (bakeCores e.2).any fun c => (scopeCores s a).contains c).map (·.1)

/-! ### Boundaries (R444) -/

/-- The bake is paused with no step under way: a reset leaves it paused. -/
def restsPaused (k : Bake) : Bool := decide (k.state = 7) && !k.draining && !heldStep k

/-- Absorb a bake: fenced at once; such fences do not count. One that is loading, fenced already or being placed again goes no
further than that; one that rests paused stays so. -/
def absorbBake (s : State) (b : Nat) : State :=
  let k := s.bake b
  if restsPaused k then s
  else
    let t := if k.state = 3 ∨ k.state = 2 ∨ k.state = 6 ∨ heldStep k = true then fence s b 0 false else s
    t.modBake b fun q => { q with draining := true, state := if q.state = 1 ∨ q.state = 4 ∨ q.state = 5 then q.state else 7 }

/-- A bake drains: idle at once, else when its step has committed; it starts no further item. -/
def drainBake (s : State) (b : Nat) : State :=
  s.modBake b fun q =>
    if restsPaused q then q else { q with draining := true, state := if q.item.isNone ∧ (q.state = 2 ∨ q.state = 6) then 7 else q.state }

/-- The boundary of a reset begins. -/
def beginReset (s : State) (a : ResetScope) (b : Boundary) (cause : U8) : State :=
  let l := scopeBakes s a
  let t := l.foldl (fun t i => if b = .drain then drainBake t i else absorbBake t i) s
  let code : U8 := match b with
    | .none => 0
    | .drain => 1
    | .absorb => 2
  let n := BitVec.ofNat 16 l.length
  { t with recov := { t.recov with
      running := some a, dev := if 4 ≤ scopeLevel a then 4 else t.recov.dev, noSpill := decide (s.recov.active = 0),
      cur := { level := BitVec.ofNat 8 (scopeLevel a), cause := cause, bnd := code, target := BitVec.ofNat 16 (scopeTarget a),
               start := micros s, drained := if b = .drain then n else 0, absorbed := if b = .absorb then n else 0 } } }

/-- A request for a reset: merged into a running reset that contains it, taking over a narrower one as absorb, or
waiting (R446). -/
def requestReset (s : State) (a : ResetScope) (b : Boundary) (cause : U8) : State :=
  match s.recov.running with
  | none => { s with recov := { s.recov with
      requests := s.recov.requests ++ [(a, b)], cur := { s.recov.cur with cause := cause } } }
  | some r =>
    if contains s r a then s
    else if contains s a r then beginReset s a .absorb cause
    else { s with recov := { s.recov with requests := s.recov.requests ++ [(a, b)] } }

/-- Every bake in scope has reached the boundary. -/
def atBoundary (s : State) (a : ResetScope) : Bool :=
  (scopeBakes s a).all fun b =>
    let k := s.bake b
    decide (k.state ≠ 2) && decide (k.state ≠ 3) && decide (k.state ≠ 6) && !heldStep k

/-- RESET_BOUNDARY: the boundary of a waiting request begins. A whole-device reset has none (R444). -/
def execResetBoundary (a : ResetScope) (b : Boundary) (s : State) : Out :=
  .next
    (if s.recov.running.isNone ∧ s.recov.requests.contains (a, b) = true ∧ a ≠ .whole then
      beginReset { s with recov := { s.recov with requests := eraseFirst (a, b) s.recov.requests } } a b s.recov.cur.cause
    else s)

/-! ### Spill and restore (R444, R445) -/

/-- STATE tensors of home 0x0 of a bake whose committed views lie on some cores. -/
def viewsOn (k : Bake) (l : List CoreId) : List Nat :=
  ((tensorsOf k).filter fun e => isState e.2 && homePad e.2 && l.contains (instCore k (tnOwner e.2)) &&
    (decide (phasesOf k ≤ 1) || decide (instPhase k (tnOwner e.2) = k.phase))).map (·.1)

/-- The committed views on the cores in scope go to the spill area. -/
def spill (s : State) (l : List CoreId) (b : Nat) : State :=
  let k := s.bake b
  (viewsOn k l).foldl (fun t j => copyBytes t b (tnSize (tensorRow k j)) (tensorSide k j false) (spillSide k j)) s

/-- They come back from the spill area. -/
def unspill (s : State) (l : List CoreId) (b : Nat) : State :=
  let k := s.bake b
  (viewsOn k l).foldl (fun t j => copyBytes t b (tnSize (tensorRow k j)) (spillSide k j) (tensorSide k j false)) s

/-- A bake whose committed views cannot be spilled is paused, and its open items end with status 0x05 (R445). -/
def spillOrPause (s : State) (l : List CoreId) (b : Nat) : State :=
  let k := s.bake b
  let failed := (viewsOn k l).any fun j => decide (width s (instCore k (tnOwner (tensorRow k j))) = 0)
  if (viewsOn k l).isEmpty then s
  else if s.recov.noSpill || failed then
    (endItems (pauseBake s b 0) b (fun _ => true) 5 0).modBake b fun q => { q with draining := false, item := none }
  else spill s l b

/-- One core after a reset: everything gone but its router island (R441), its publication count with the counters (DESIGN CHOICE,
log entry 140); the bake's instance returns with the restore. -/
def resetCore (s : State) (c : CoreId) : State :=
  s.modCore c fun k => { island := k.island, power := .on, pad := { passes := k.pad.passes } }

/-- A bake comes back: its committed views from the spill area, and its cores. One that rests paused stays so; a changed map
generation places it again, or its load anew; else it runs on the same placement, its ldma fills made again, and a re-placement
that was still to be found goes on (R444). -/
def restoreBake (s : State) (l : List CoreId) (gen : U32) (b : Nat) : State :=
  let k := s.bake b
  let t := (unspill s l b).modBake b fun q => { q with draining := false }
  let back := initSyncs (installPhase (refillSlots t b l) b k.phase) b
  if restsPaused k then back
  else if t.map.gen ≠ gen then
    let t := (dropDmas t b).modBake b fun q => { q with filling := false }
    if k.state = 1 then t.modBake b fun q => { q with place := none }
    else trigger (t.modBake b fun q => { q with state := 4 }) b 1
  else if k.state = 4 ∨ (k.state = 5 ∧ k.filling = false) then t
  else
    let t := newBaseline (writeBounds (dropDmas back b) b) b
    beginFills (t.modBake b fun q => { q with state := if k.state = 1 then 1 else 5 }) b fun w =>
      decide (k.state = 1) || (homePad w && !isState w)

/-- The reset proper of a scope's cores, with the self-test, and the restore of its bakes. -/
def resetScope (s : State) (a : ResetScope) (test : SelfTest) : State :=
  let l := scopeCores s a
  let bakes := scopeBakes s a
  let gen := s.map.gen
  let t := bakes.foldl (fun t b => spillOrPause t l b) s
  let t := l.foldl resetCore t
  let t := selfTestCores t test l
  bakes.foldl (fun t b => restoreBake t l gen b) t

/-- Record of the reset that has ended, with its count since manufacture (R456). -/
def endReset (s : State) : State :=
  let c := s.recov.cur
  let t := s.modRec fun r => { r with resets := mmod 0 r.resets c.level.toNat (· + 1) }
  { t with recov := { t.recov with
      running := none, noSpill := false, last := { c with dur := BitVec.ofNat 32 ((micros t).toNat - c.start.toNat) } } }

/-- A reset below warm level, once its boundary is reached; the ring engine runs on, and copies out again what was committing
(R283). -/
def lowReset (s : State) (a : ResetScope) (test : SelfTest) : State :=
  if s.recov.running = some a ∧ atBoundary s a = true then endReset (resumeCopies (resetScope s a test)) else s

/-- CORE_RESET. -/
def execCoreReset (c : CoreId) (test : SelfTest) (s : State) : Out := onCore s c (lowReset s (.core c) test)

/-- The controller of a hearth starts again with its hearth, unless it has been declared failed (R441, R449). -/
def restartController (s : State) (n : Nat) : State :=
  if (s.proc (9 + n)).state = 2 then s
  else forgetNumbers (s.modProc (9 + n) fun p => { p with state := 0 }) (0x20 + n)

/-- HEARTH_RESET: its controller restarts too; rail, set point and frequency stay. -/
def execHearthReset (n : Fin 16) (test : SelfTest) (s : State) : Out :=
  .next
    (if s.recov.running = some (.hearth n) ∧ atBoundary s (.hearth n) = true then
      endReset (resumeCopies (resetScope (restartController s n) (.hearth n) test)) else s)

/-- RECTANGLE_RESET. -/
def execRectangleReset (t : Nat) (test : SelfTest) (s : State) : Out := onSlot 64 t (lowReset s (.rect t) test)

/-! ### Warm reset (R283, R318, R447) -/

/-- What the ring engine and the memory-side controllers lose at a warm reset: DMA, translations, faults, signals on their way. A
copy of a bank, whose step is committed, starts again from its first byte (log entry 47). -/
def dropEngine (s : State) : State :=
  { s with ring := { s.ring with
    dmas := (s.ring.dmas.filter keptDma).map fun d => { d with moved := 0, running := false, parked := none },
    tlb := [], ats := [], pri := [], sigs := [], invBusy := false, atsInv := 0 } }

/-- The ring engine rebuilds every ring from the ledger: an item that has not started is evaluated anew; one that has is executed
again by its bake, whose load, step or migration goes on after the restore; one in COMMITTING copies out from the start (R283). -/
def rebuildLedger (s : State) : State :=
  resumeCopies (s.ring.rings.foldl
    (fun t e => t.modRing e.1 fun g => { g with
      ledger := g.ledger.map fun i => if i.started then i else { i with ready := false, startable := false } }) s)

/-- The journal copy that a Stoker starts from (R451). -/
def restoreJournal (s : State) : State :=
  let j := s.ctl.journal
  let lost := s.integ.log.filter fun e => decide (j.logTail.toNat ≤ e.2.seq.toNat)
  { s with
    ctl := { s.ctl with dict := { s.ctl.dict with staging := j.staging }, portA := j.portA, portB := j.portB },
    integ := { s.integ with
      nextSeq := if lost.isEmpty then s.integ.nextSeq else j.logTail,
      log := s.integ.log.filter fun e => decide (e.2.seq.toNat < j.logTail.toNat) } }

/-- The processors of a warm reset start again, failed ones too; no hearth is stretched for want of a controller any more, and
every receiver forgets the numbers it kept of them (R449, R450). -/
def restartAll (s : State) : State :=
  let t := startProcessors s s.recov.romFail
  let t := (List.range 16).foldl (fun t n => stretch t n 0xC false) t
  (List.range 30).foldl (fun t i => forgetNumbers t (masterOf (i + 1))) t

/-- The end of a warm reset: processors run, rings are rebuilt, bakes are restored and the device is ready. -/
def finishWarm (s : State) (test : SelfTest) : State :=
  let t := restoreJournal (restartAll s)
  let t := rebuildLedger (resetScope (dropEngine t) .warm test)
  let t := endReset t
  { t with
    recov := { t.recov with dev := 3 },
    aon := { t.aon with rescue := 0, cause := 0 } }

/-- WARM_RESET once its boundary is reached: the Stokers run their ROM self-test and the image in SRAM is checked again; a
bad image leaves the device waiting for a new one. -/
def execWarmReset (test : SelfTest) (romW romE : Bool) (s : State) : Out :=
  .next
    (if ¬ (s.recov.running = some .warm ∧ atBoundary s .warm = true) ∨ s.recov.fwState = 1 then s
     else if !romW && !romE then enterRescue s 1 1
     else
       let t : State := { s with recov := { s.recov with active := if romW then 8 else 9, romFail := !(romW && romE) } }
       let r := imageReason t
       if r ≠ 0 then rejectImage t r else finishWarm t test)

/-- FW_CTL_GO: the image is checked; a good one runs, and the cold start or the warm reset that waited for it goes on. -/
def execFwCtlGo (test : SelfTest) (plan : DraughtPlan) (bindings : List (Fin 256 × U32)) (s : State) : Out :=
  .next
    (if s.recov.fwState ≠ 1 then s
     else
       let r := imageReason s
       if r ≠ 0 then rejectImage s r
       else if s.recov.running = some .warm then
         finishWarm (imageRuns { s with recov := { s.recov with active := if s.recov.active = 0 then 8 else s.recov.active } }) test
       else finishStart s test plan bindings)

/-! ### Whole-device reset and the triggers of R442 -/

/-- The persistent counts of a whole-device reset. -/
def countWhole (s : State) : State := s.modRec fun r => { r with resets := mmod 0 r.resets 5 (· + 1) }

/-- A whole-device reset holds everything outside the always-on and fuse blocks; it releases the semaphore and closes the
window (R371, R372, R441). -/
def wholeHeld (s : State) (cause : U8) : State :=
  let t := heldInReset (countWhole s)
  { t with
    aon := { t.aon with holder := 0, leaseLeft := 0, window := false, windowLeft := 0 },
    recov := { t.recov with running := some .whole, cur := { level := 5, cause := cause, start := 0 } } }

/-- What holds whole-device reset and no reset ends: a rail sequencing fault until the board repeats its sequence (R45); any
other cause is looked for again by the sequence itself. -/
def heldByRails (s : State) : Bool := decide (s.aon.rescue = 2) && decide (s.aon.cause = 3)

/-- WHOLE_DEVICE_RESET: requested, or with a reset pin released again; it runs the sequence of a cold start. One that is requested
while the device is held in reset leaves it held (R454). -/
def execWholeDeviceReset (o : BootObs) (s : State) : Out :=
  let asked := s.recov.requests.any fun r => decide (r.1 = .whole)
  .next
    (if ¬ (s.recov.running = some .whole) ∧ asked = false then s
     else if s.aon.rescue = 2 then
       let t := wholeHeld s s.recov.cur.cause
       { t with recov := { t.recov with running := none, dev := 5, last := t.recov.cur } }
     else
       let t := if s.recov.running = some .whole then s else wholeHeld s s.recov.cur.cause
       let c := t.recov.cur
       let t := startSequence { t with
         aon := { t.aon with rescue := 0, cause := 0 }, recov := { t.recov with running := none } } o
       { t with recov := { t.recov with last := c } })

/-- HARD_RST_N or PERST_N asserted: level 0x5 without a boundary. A pulse of HARD_RST_N ends a held reset other than that of a
rail sequencing fault, and THERMTRIP_N when every sensor is below 95 °C; while THERMTRIP_N is asserted no hearth clock runs
(R43, R45, R442, R454). -/
def execHardRstN (pin : ResetPin) (allBelow95 : Bool) (s : State) : Out :=
  let hard := decide (pin = .hardRst)
  let t := wholeHeld s (if hard then 4 else 3)
  let t := if s.aon.thermTrip && !(hard && allBelow95) then haltClocks t else t
  let free := decide (s.aon.rescue ≠ 2) || (hard && !heldByRails s)
  let t : State := { t with aon := { t.aon with
    thermTrip := t.aon.thermTrip && !(hard && allBelow95),
    rescue := if free then 0 else t.aon.rescue, cause := if free then 0 else t.aon.cause } }
  .next (if free then t else { t with recov := { t.recov with running := none, dev := 5 } })

/-- PCIE_HOT_RESET, or a Function Level Reset: a warm reset, absorb. -/
def execPcieHotReset (_flr : Bool) (s : State) : Out := .next (requestReset s .warm .absorb 2)

end Sys2Proof.Machine
end

