-- ==== Sys2Proof/Machine/Recovery.lean ====
section
/-! DEFINITION. Ember timers, restarts and failures of the firmware processors, Stoker takeover, the journal and rescue mode
(R448 to R455). -/

namespace Sys2Proof.Machine

/-- Number of the Stoker with a master ID. -/
def stokerNo (id : U8) : Nat := if id = 8 then 1 else if id = 9 then 2 else 0

def raiseProc (s : State) (m sev : Nat) : State := raise s 0x7000 (BitVec.ofNat 8 m) (BitVec.ofNat 8 sev) 0xFF 0

/-- Effect of a failure that lasts until the next warm or whole-device reset (R449). -/
def failedEffect (s : State) (m : Nat) : State :=
  if 9 ≤ m ∧ m ≤ 24 then stretch s (m - 9) 0xC true else s

/-- EMBER_TIMER_EXPIRY of processor `m` with the state saved in its crash record and its restarts in the last 60 s: stopped
and restarted, or declared failed (R448, R450). -/
def execEmberTimerExpiry (m : Nat) (crash : List Byte) (recent : Nat) (s : State) : Out :=
  if 1 ≤ m ∧ m ≤ 30 then
    .next
      (let st := (s.proc m).state
       if (st ≠ 0 ∧ st ≠ 3) ∨ processorPowered s m = false then s
       else
         let fails := decide (setting s 0x7002 1 ≤ recent)
         let t := s.modProc m fun p =>
           { p with
             state := if fails then 2 else 1, expiries := p.expiries + 1, crash := padTo 0 256 crash,
             restarts := if fails then p.restarts else p.restarts + 1,
             recent := BitVec.ofNat 32 (if fails then recent else recent + 1), last := if fails then p.last else micros s }
         let t := raiseProc t m (if fails then 3 else 0)
         if fails then failedEffect t m else t)
  else .fault .noSuchUnit

/-- PROCESSOR_RESTART of processor `m`: it runs again from the image in firmware SRAM. A Stoker that finds none active
becomes active from the journal copy, and rescue mode for want of a Stoker ends. -/
def execProcessorRestart (m : Nat) (s : State) : Out :=
  if 1 ≤ m ∧ m ≤ 30 then
    .next
      (if (s.proc m).state ≠ 1 then s
       else
         let t := forgetNumbers (s.modProc m fun p => { p with state := 0 }) (masterOf m)
         if m ≤ 2 ∧ s.recov.active = 0 ∧ s.aon.rescue = 1 then
           let t := restoreJournal { t with recov := { t.recov with active := BitVec.ofNat 8 (masterOf m), dev := 3 } }
           { t with aon := { t.aon with rescue := 0, cause := 0 } }
         else t)
  else .fault .noSuchUnit

/-- FAILED_CONTROLLER_EVENT: a failed memory-side controller is reported every hour (R449). -/
def execFailedControllerEvent (m : Nat) (s : State) : Out :=
  if 1 ≤ m ∧ m ≤ 30 then .next (if 29 ≤ m ∧ (s.proc m).state = 2 then raiseProc s m 3 else s) else .fault .noSuchUnit

/-- The Stoker that is not active. -/
def otherStoker (s : State) : Nat := 3 - stokerNo s.recov.active

/-- STOKER_TAKEOVER: the standby becomes active from the last journal copy; work of the last 10 ms is lost (R451, R452). -/
def execStokerTakeover (s : State) : Out :=
  let a := stokerNo s.recov.active
  let o := otherStoker s
  .next
    (if a = 0 ∨ (s.proc a).state = 0 ∨ (s.proc o).state ≠ 3 then s
     else
       let t := s.modProc o fun p => { p with state := 0 }
       restoreJournal { t with recov := { t.recov with active := BitVec.ofNat 8 (masterOf o) } })

/-- JOURNAL_COPY: the active Stoker's journal goes to the other, which then is the standby (R451, R455). -/
def execJournalCopy (s : State) : Out :=
  let a := stokerNo s.recov.active
  let o := otherStoker s
  .next
    (if a = 0 ∨ (s.proc a).state ≠ 0 ∨ ((s.proc o).state ≠ 0 ∧ (s.proc o).state ≠ 3) then s
     else
       let t := s.modProc o fun p => { p with state := 3 }
       let t : State := { t with recov := { t.recov with journalAt := t.flue.cycle } }
       let trips := (List.range 16).filter fun n => (s.hearth n).tripped
       { t with ctl := { t.ctl with journal :=
           { staging := t.ctl.dict.staging, portA := t.ctl.portA, portB := t.ctl.portB, trips := trips,
             rails := (s.rails.filter fun e => decide (e.2.state ≠ 0)).map fun e => (e.1, e.2.state),
             paging := (s.ring.dmas.filter fun d => d.parked.isSome).map (·.id), logTail := t.integ.nextSeq } } })

/-- RESCUE_ENTRY: both Stokers are down (R453). -/
def execRescueEntry (s : State) : Out :=
  let down (m : Nat) : Bool := decide ((s.proc m).state = 1) || decide ((s.proc m).state = 2) || decide ((s.proc m).state = 4)
  .next (if s.aon.rescue = 0 ∧ s.recov.fwState = 3 ∧ down 1 = true ∧ down 2 = true then enterRescue s 1 1 else s)

/-- A write of 0x7110.03: level 0x4, but not while whole-device reset is held, or 0x5 (R442, R454). -/
def startRescueReset (s : State) (level : Nat) : Nat × State :=
  if level = 4 ∧ s.aon.rescue = 1 then (0, requestReset s .warm .absorb 5)
  else if level = 5 ∧ s.aon.rescue ≠ 0 then (0, requestReset s .whole .absorb 5)
  else (0x06090030, s)

/-- RESCUE_RESET: a write of 0x7110.03. -/
def execRescueReset (level : Nat) (s : State) : Out := .next (startRescueReset s level).2

/-- A write of 1 to 0x7110.05: a warm reset that clears firmware SRAM and waits for the host driver. -/
def startReload (s : State) : State :=
  if s.aon.rescue ≠ 1 then s
  else
    let t := match s.recov.running with
      | none => beginReset s .warm .absorb 5
      | some _ => requestReset s .warm .absorb 5
    { t with recov := { t.recov with sram := [], fwState := 1, fwRej := 0, fwReason := 0, fwSvn := 0 } }

/-- FIRMWARE_RELOAD. -/
def execFirmwareReload (s : State) : Out := .next (startReload s)

end Sys2Proof.Machine
end

