-- ==== Sys2Proof/Machine/Dict.lean ====
section
/-! DEFINITION. The object dictionary: its entries with types and access (R357, R358), and the value each reads as, computed
from the state. -/

namespace Sys2Proof.Machine

/-- Rights codes of R357; no entry of this generation is write only. -/
inductive Rights where
  | ro | rw | rws | rwp | const
  deriving DecidableEq, Repr

/-- The entries of one index with sub-indices `lo` to `hi`, where `hi = 0` stands for the number of logical cores (R32).
Type code of R357, size in bytes (0 where it varies), access, and commit set (0 for none). -/
structure Entry where
  index : Nat
  lo    : Nat
  hi    : Nat
  code  : Nat
  size  : Nat
  acc   : Rights
  cset  : Nat
  deriving DecidableEq, Repr

def tBool : Nat := 0x01
def tU8 : Nat := 0x02
def tU16 : Nat := 0x03
def tU32 : Nat := 0x04
def tU64 : Nat := 0x05
def tI64 : Nat := 0x07
def tF32 : Nat := 0x08
def tStr : Nat := 0x0A
def tDate : Nat := 0x0B
def tDom : Nat := 0x0C

/-- Bytes on the wire of a type of fixed size (R357). -/
def codeSize (c : Nat) : Nat :=
  if c = tBool ∨ c = tU8 then 1 else if c = tU16 then 2 else if c = tU32 ∨ c = tF32 then 4 else if c = tU64 ∨ c = tI64 then 8
  else if c = tDate then 12 else 0

/-- Scalar entries. -/
def sc (index lo hi code : Nat) (acc : Rights) (cset : Nat := 0) : Entry := ⟨index, lo, hi, code, codeSize code, acc, cset⟩

/-- DOMAIN entries. -/
def dm (index lo hi size : Nat) (acc : Rights) (cset : Nat := 0) : Entry := ⟨index, lo, hi, tDom, size, acc, cset⟩

/-- Identity, masters, mailboxes and calendar (R369 to R393). -/
def controlEntries : List Entry :=
  [sc 0x1000 1 2 tStr .const, sc 0x1000 3 3 tU16 .const, sc 0x1000 4 4 tStr .const, sc 0x1000 5 5 tU32 .ro,
   sc 0x1001 1 8 tU16 .const, sc 0x1002 1 3 tU16 .rw, sc 0x1004 1 3 tU16 .const,
   sc 0x1100 1 1 tU8 .ro, sc 0x1100 2 2 tU8 .rw, sc 0x1100 3 3 tU8 .rws, sc 0x1100 4 4 tU32 .ro,
   sc 0x1101 1 1 tBool .ro, sc 0x1101 2 3 tU8 .rws, sc 0x1101 4 4 tU32 .ro,
   sc 0x1111 1 2 tU8 .rws, sc 0x1112 1 8 tU32 .ro, sc 0x1112 0x10 0x15 tU32 .ro, sc 0x1113 1 8 tBool .ro,
   sc 0x1113 0x10 0x15 tBool .ro] ++
  [dm 0x1130 1 3 16 .ro, dm 0x1130 4 5 16 .rws, sc 0x1130 6 6 tU64 .ro, sc 0x1130 7 7 tU32 .rws, sc 0x1130 8 8 tU32 .ro,
   dm 0x1141 1 2 32 .ro, dm 0x1150 1 2 48 .rws 8, dm 0x1151 1 2 6 .const,
   sc 0x1200 1 255 tU32 .rws 7, sc 0x1201 1 1 tBool .ro, sc 0x1210 1 255 tU32 .ro,
   sc 0x1400 1 1 tDate .rws, sc 0x1400 2 2 tBool .ro, sc 0x1401 1 1 tF32 .ro, sc 0x1401 2 2 tU8 .ro, sc 0x1401 3 3 tF32 .rws,
   sc 0x1402 1 1 tU8 .ro, sc 0x1402 2 2 tI64 .ro, sc 0x1402 3 3 tU8 .ro, sc 0x1402 4 4 tDate .ro, sc 0x1403 1 1 tU8 .rws,
   sc 0x1410 1 1 tU8 .ro, sc 0x1410 2 2 tU32 .ro]

/-- Clocks, rails, power and temperature (R398 to R433, R47, R48). -/
def powerEntries : List Entry :=
  [sc 0x2000 1 1 tU8 .ro, sc 0x2000 2 2 tF32 .ro, sc 0x2000 3 3 tU16 .ro, sc 0x2000 4 4 tF32 .ro, dm 0x2001 1 1 32 .ro,
   sc 0x2010 1 16 tU16 .rws, dm 0x2011 1 16 32 .ro, sc 0x2012 1 16 tU8 .rws 0x11, sc 0x2013 1 16 tU16 .rws 0x11,
   sc 0x2014 1 16 tU8 .rws, sc 0x2015 1 16 tBool .ro, dm 0x2016 1 16 114 .ro, sc 0x2017 1 1 tU8 .rws, dm 0x2020 1 0 2 .ro,
   sc 0x2021 1 1 tU32 .ro, sc 0x2030 1 3 tU8 .rws 0x10, dm 0x2031 1 0 8 .ro] ++
  [dm 0x2100 1 22 32 .ro, dm 0x2102 1 1 88 .rwp 0x12, sc 0x2103 1 1 tU32 .rws, sc 0x2104 1 22 tBool .rws, dm 0x2120 1 16 32 .ro,
   sc 0x2130 1 1 tF32 .rws, sc 0x2130 2 3 tF32 .ro, sc 0x2130 4 4 tU32 .ro, sc 0x2131 1 1 tU8 .rws, dm 0x2132 1 1 32 .ro,
   sc 0x2132 2 2 tU64 .ro, sc 0x2200 1 16 tF32 .ro, sc 0x2201 1 1 tF32 .rws, sc 0x2240 1 2 tU32 .ro, sc 0x2240 3 3 tF32 .ro,
   dm 0x2300 1 16 256 .ro]

/-- Core map, arrays, arithmetic, scratchpads and Flue (R32, R82, R83, R116, R129, R192, R231). -/
def coreEntries : List Entry :=
  [sc 0x3000 1 2 tU8 .const, sc 0x3000 3 3 tU32 .ro, sc 0x3000 4 4 tU16 .ro, sc 0x3001 1 16 tU16 .ro, sc 0x3002 1 0 tU16 .ro,
   sc 0x3003 1 0 tU8 .ro, sc 0x3004 1 2 tU16 .ro, sc 0x3004 3 4 tU32 .ro, sc 0x3005 1 0 tU64 .ro, sc 0x3006 1 0 tU64 .ro,
   sc 0x3007 1 0 tU8 .ro, sc 0x3101 1 3 tU8 .rws, sc 0x3101 4 4 tBool .rws] ++
  ((List.range 9).map fun i => sc (0x3110 + i) 1 0 tU64 .ro) ++
  [sc 0x311F 1 0 tU32 .ro, dm 0x3120 1 0 512 .ro, dm 0x3121 1 0 128 .ro,
   sc 0x3200 1 1 tU32 .const, sc 0x3200 2 2 tU16 .const, sc 0x3201 1 0 tU16 .ro, dm 0x3210 1 0 512 .ro, dm 0x3211 1 0 64 .ro,
   sc 0x3220 1 0 tU64 .ro, sc 0x3221 1 0 tU64 .ro, sc 0x3222 1 0 tU64 .ro, sc 0x3223 1 0 tU32 .ro, sc 0x3230 1 1 tU32 .rws,
   sc 0x3230 2 2 tBool .rws, sc 0x3231 1 0 tU32 .ro, sc 0x3240 1 0 tBool .rws, sc 0x3241 1 0 tU8 .ro, dm 0x3250 1 0 512 .ro,
   sc 0x3251 1 0 tU32 .ro, sc 0x3252 1 0 tU64 .ro, sc 0x3253 1 0 tU32 .ro, sc 0x3254 1 0 tU32 .ro, sc 0x3255 1 0 tU32 .ro,
   dm 0x3260 1 0 128 .ro] ++
  [sc 0x3300 1 1 tU64 .ro, dm 0x3301 1 0 24 .ro, dm 0x3302 1 0 16384 .ro, dm 0x3310 1 1 2688 .ro, sc 0x3310 2 3 tU32 .ro,
   sc 0x3310 4 5 tU16 .ro, dm 0x3310 6 6 16 .ro, dm 0x3320 1 0 40 .ro, sc 0x3321 1 1 tU16 .rws, sc 0x3321 2 2 tU32 .rws,
   dm 0x3330 1 0 64 .ro, dm 0x3331 1 0 2048 .ro]

/-- Bakes and rectangles (R267 to R269). -/
def bakeEntries : List Entry :=
  [sc 0x3400 1 1 tU8 .ro, sc 0x3400 2 2 tU16 .ro, sc 0x3400 3 4 tU64 .ro, sc 0x3401 1 1 tU32 .ro, sc 0x3402 1 1 tU32 .rws,
   sc 0x3402 2 2 tU8 .rws, sc 0x3402 3 3 tBool .rws, sc 0x3402 4 4 tU8 .rws, dm 0x3403 1 1 16 .ro,
   sc 0x3410 1 64 tU8 .ro, sc 0x3411 1 64 tU32 .ro, sc 0x3412 1 64 tU8 .ro, dm 0x3413 1 64 48 .ro, sc 0x3414 1 64 tU8 .ro,
   sc 0x3415 1 64 tU64 .ro, sc 0x3416 1 64 tU64 .ro, dm 0x3417 1 64 32 .ro, dm 0x3418 1 64 0 .ro, dm 0x3419 1 64 0 .ro,
   sc 0x341A 1 64 tU64 .ro, dm 0x341B 1 64 16 .ro, sc 0x341C 1 64 tU8 .rws, sc 0x341D 1 64 tU8 .rws,
   sc 0x3500 1 1 tU8 .ro, sc 0x3501 1 64 tU32 .rws 2, sc 0x3502 1 64 tU64 .rws 2, sc 0x3503 1 64 tU8 .ro, sc 0x3504 1 64 tU16 .ro]

/-- Stacks, links, rings and translation (R322, R345, R355, R311). -/
def dataEntries : List Entry :=
  [sc 0x4000 1 1 tU8 .ro, sc 0x4000 2 2 tU16 .ro, sc 0x4000 3 3 tU32 .const, sc 0x4000 4 4 tU64 .ro, sc 0x4001 1 20 tU8 .ro,
   sc 0x4002 1 20 tF32 .ro, sc 0x4010 1 1 tU32 .rws, sc 0x4011 1 1 tU8 .ro] ++
  ((List.range 20).map fun i => dm (0x4020 + i) 1 32 32 .ro) ++
  [sc 0x4100 1 1 tU16 .rws 4, sc 0x4100 2 2 tU32 .rws, sc 0x4100 3 3 tU64 .ro, sc 0x4101 1 2 tU32 .rws 3, sc 0x4101 3 3 tU8 .rws 3,
   sc 0x4102 1 1 tU32 .rws, dm 0x4103 1 12 64 .ro, sc 0x4104 1 12 tBool .rws, dm 0x4110 1 1 65536 .rws 4, sc 0x4111 1 1 tU8 .rws,
   sc 0x4112 1 3 tU64 .ro, sc 0x4120 1 1 tU32 .rws 5, dm 0x4120 2 2 512 .rws 5, sc 0x4120 3 3 tF32 .rws 5, sc 0x4121 1 2 tU64 .ro,
   dm 0x4140 1 64 2048 .ro] ++
  [sc 0x5000 1 1 tU8 .ro, sc 0x5000 2 2 tU32 .ro, sc 0x5000 3 5 tU64 .ro, dm 0x5001 1 64 128 .ro, dm 0x5010 1 1 16384 .ro,
   sc 0x5011 1 2 tU64 .ro, sc 0x5020 1 2 tU16 .ro, sc 0x5020 3 3 tU64 .ro, sc 0x5102 1 1 tU32 .rws, sc 0x5102 2 2 tU64 .rws 6,
   sc 0x5102 3 3 tU32 .rws 6, dm 0x5110 1 1 512 .ro, sc 0x5111 1 5 tU64 .ro]

/-- Integrity, monitors, processors and resets (R454, R456, R458, R465 to R476). -/
def careEntries : List Entry :=
  [dm 0x6001 1 64 40 .rws 0x14, dm 0x6002 1 64 64 .ro, dm 0x6010 1 64 2048 .rws 0x15, sc 0x6020 1 64 tU32 .rws,
   dm 0x6021 1 64 96 .ro, sc 0x6022 1 64 tU8 .rws, sc 0x6023 1 64 tU64 .ro, sc 0x6030 1 1 tU64 .ro, dm 0x6030 2 2 32768 .ro,
   sc 0x6030 3 3 tU64 .ro, sc 0x6030 4 4 tU64 .rw, sc 0x6100 1 1 tU32 .rw,
   dm 0x6110 1 128 160 .ro, dm 0x6111 1 128 160 .ro, dm 0x6112 1 16 160 .ro, dm 0x6113 1 0 160 .ro, dm 0x6114 1 0 160 .ro,
   dm 0x6115 1 12 160 .ro, dm 0x6116 1 22 160 .ro, dm 0x6117 1 36 160 .ro, dm 0x6118 1 16 160 .ro, dm 0x6119 1 16 160 .ro] ++
  [dm 0x7000 1 30 32 .ro, sc 0x7001 1 30 tU32 .rws, sc 0x7002 1 1 tU8 .rws, sc 0x7003 1 1 tU8 .ro, sc 0x7004 1 1 tU32 .ro,
   dm 0x7005 1 30 256 .ro, dm 0x7010 1 1 192 .const, sc 0x7010 2 2 tU8 .rwp 0x13, sc 0x7010 3 3 tU32 .rwp 0x13,
   sc 0x7011 1 2 tU32 .ro, sc 0x7100 1 1 tU8 .ro, sc 0x7100 2 2 tU32 .rws, dm 0x7100 3 3 32 .ro, sc 0x7100 4 4 tU8 .rws,
   dm 0x7101 1 1 40 .ro, sc 0x7110 1 2 tU8 .ro, sc 0x7110 3 3 tU8 .rw, dm 0x7110 4 4 512 .ro, sc 0x7110 5 5 tBool .rw]

/-- Every entry but the sub-indices 0. -/
def dictEntries : List Entry :=
  controlEntries ++ powerEntries ++ coreEntries ++ bakeEntries ++ dataEntries ++ careEntries

/-- Highest sub-index of some entries. -/
def Entry.top (s : State) (e : Entry) : Nat := if e.hi = 0 then gridSize s else e.hi

/-- Highest sub-index of an index; 0 where the index does not exist. -/
def topSub (s : State) (index : Nat) : Nat :=
  (dictEntries.filter fun e => decide (e.index = index)).foldl (fun a e => max a (e.top s)) 0

/-- The entry at an index and sub-index, or the abort code of checks 1 and 2 of R359. Sub-index 0 of an index that exists is
a U8 CONST (R357). -/
def findEntry (s : State) (index sub : Nat) : Except Nat Entry :=
  if 0x8000 ≤ index ∧ index ≤ 0xEFFF then .error 0x08000030
  else if topSub s index = 0 then .error 0x06020000
  else if sub = 0 then .ok ⟨index, 0, 0, tU8, 1, .const, 0⟩
  else match dictEntries.find? fun e => decide (e.index = index) && decide (e.lo ≤ sub) && decide (sub ≤ e.top s) with
    | some e => .ok e
    | none => .error 0x06090011

/-! ### Values read -/

/-- Bytes of a list of numbers, `w` to each. -/
def bytesOf (w : Nat) (l : List Nat) : List Byte := l.flatMap (leBytes w)

/-- What a sensor that no command reads shows at this cycle: a FREE VALUE (log entry 10). -/
def sensor (s : State) (index sub : Nat) : Nat := (Config.measured (dkey index sub) s.flue.cycle).toNat

/-- Rail map of a new part (R410, R413). -/
def defaultRailMap : List Byte :=
  ((List.range 16).flatMap fun n =>
    [BitVec.ofNat 8 (n / 8), BitVec.ofNat 8 (0x40 + n % 8), 0, BitVec.ofNat 8 (16 * (n / 4) + n % 4)]) ++
  [0, 0x48, 0, 0x40, 1, 0x48, 0, 0x41, 1, 0x49, 0, 0x42, 1, 0x4A, 0, 0x43, 1, 0x4B, 0, 0x44, 0, 0x49, 0, 0x45]

/-- Reset value of an entry of a check table (R458). -/
def freeCheck : List Byte :=
  leBytes 32 (0xFFFF * 2 ^ 240 + (2 ^ 96 - 1) * 2 ^ 128 + 0xFF800000 * 2 ^ 96 + 0x7F800000 * 2 ^ 64)

/-- Value at reset of a writable DOMAIN. -/
def domainReset (s : State) (index : Nat) : List Byte :=
  match index with
  | 0x1150 => List.replicate 18 0 ++ leBytes 2 47810 ++ List.replicate 28 0
  | 0x2102 => if s.aon.recA.railMap.isEmpty then defaultRailMap else s.aon.recA.railMap
  | 0x4110 => (List.range 65536).map fun i => if i % 2 = 0 then 0 else 0xFF
  | 0x4120 => []
  | 0x6001 => List.replicate 20 0 ++ List.replicate 16 0xFF ++ List.replicate 4 0
  | 0x6010 => (List.range 64).flatMap fun _ => freeCheck
  | _ => List.replicate 16 0

/-- Live value of a writable DOMAIN. -/
def liveDomain (s : State) (index sub : Nat) : List Byte :=
  let l := domainOf s index sub
  if l.isEmpty then domainReset s index else l

/-- A STR on the wire. -/
def strBytes (l : List Byte) : List Byte := leBytes 2 l.length ++ l

def textBytes (t : String) : List Byte := t.toList.map fun c => BitVec.ofNat 8 c.toNat

/-- Power in W from voltage and current. -/
def wattsOf (v a : F32) : F32 := f32Of (ratOf v * ratOf a)

/-- Hearth record, 0x2011.n. -/
def hearthBytes (s : State) (n : Nat) : List Byte :=
  let h := s.hearth n
  let r := s.rail (n + 1)
  [h.state, h.reason, 0, 0] ++ bytesOf 2 [h.freq, h.target, h.setMv] ++ [BitVec.ofNat 8 h.mH, 0] ++
    bytesOf 4 [r.volts.toNat, r.amps.toNat, (wattsOf r.volts r.amps).toNat] ++ leBytes 8 h.stops.toNat

/-- Rail record, 0x2100.r. -/
def railBytes (s : State) (i : Nat) : List Byte :=
  let r := s.rail i
  let mv := if i ≤ 16 then r.setMv else ((Config.fixedRails[i - 17]?).map (·.1)).getD 0
  [r.state, 0] ++ bytesOf 2 [mv, r.status.toNat, 0] ++
    bytesOf 4 [r.volts.toNat, r.amps.toNat, (wattsOf r.volts r.amps).toNat, sensor s 0x2100 i, (s.flue.cycle - r.readAt) / 1600, 0]

/-- Damper record, 0x2120.n. -/
def damperBytes (s : State) (n : Nat) : List Byte :=
  let h := s.hearth n
  bytesOf 8 [h.boosts.toNat, h.shunts.toNat, h.overruns.toNat] ++ bytesOf 4 [h.maxBoost.toNat, 0]

/-- Throttle record, 0x2300.n. -/
def throttleBytes (s : State) (n : Nat) : List Byte :=
  (List.range 16).flatMap fun i =>
    let t := mget {} (s.hearth n).throttle i
    leBytes 8 t.ns.toNat ++ bytesOf 4 [t.entries.toNat, 0]

/-- Last allocation, 0x2132.01. -/
def allocBytes (s : State) : List Byte :=
  let p := s.power
  leBytes 8 p.lastK.toNat ++ bytesOf 4 [p.lastOwn.toNat, p.lastLambda.toNat, p.lastS.toNat] ++
    bytesOf 2 [p.counted.toNat, p.missing.toNat] ++ leBytes 8 0

/-- A statistics slot record (R116). -/
def slotBytes (t : StatSlot) : List Byte :=
  leBytes 32 (t.hist.length * 2 ^ 192 + t.range.toNat * 2 ^ 160 + t.scale.toNat * 2 ^ 128 + t.amax.toNat * 2 ^ 96 +
    (t.hist.foldl maxF32 0).toNat * 2 ^ 64 + t.nan.toNat * 2 ^ 32 + t.sat.toNat)

/-- A crumb (R185). -/
def crumbBytes (r : Crumb) : List Byte := leBytes 32 (crumbRecord r)

/-- Scratchpad state, 0x3241.s (R191). -/
def padState (k : Core) : Nat :=
  match k.power with
  | .on => if (k.pad.valid.filter (·.2)).length = Config.padRows then 0 else 1
  | .gatedKeep => 2
  | .gatedLost => 3

/-- Schedule in force, 0x3301.s. -/
def schedBytes (h : Schedule) : List Byte :=
  bytesOf 2 [h.period, h.base] ++ [h.tenant, h.mask.setWidth 8, BitVec.ofNat 8 h.density, 0] ++ leBytes 8 h.c0 ++
    bytesOf 4 [h.epoch.toNat, 0]

/-- Offset published for an output or ring port (0x3310.01). -/
def offsetShown (s : State) (i : Nat) : Nat :=
  let agent (m : Nat) : Bool := (bridgeOf m).isSome || memoryPort m || s.flue.agents.any fun e => decide (e.2 = m)
  let absent :=
    if i < 1280 then
      !hasRouter s (i / 5) ||
        match dirs4[i % 5]? with
        | none => false
        | some d => match ringPort (i / 5) d with
          | some m => !agent m
          | none => (linkTo s (i / 5) d).isNone
    else !hasRouter s (portSite (i - 1280)).1 || !agent (i - 1280)
  if absent || s.flue.lostDirs.contains i then 0xFFFF else nth 0xFFFF s.flue.offsets i

/-- Base draught bound (R223). -/
def draughtBound (s : State) : Nat := (1 + s.flue.offsets.foldl max 0) * 16 + 2

/-- Router of a logical core. -/
def coreRouter (s : State) (c : CoreId) : Router := ((siteOf s c).map (s.router ·)).getD {}

/-- Plan figures, 0x3417.b. -/
def planBytes (k : Bake) : List Byte :=
  match k.place with
  | none => List.replicate 32 0
  | some p =>
    bytesOf 2 [p.period, phFloor k.pkg.hdr] ++ leBytes 4 p.tplan ++ leBytes 2 k.longest ++ [BitVec.ofNat 8 p.density, 0] ++
      leBytes 8 (movedBytes k) ++ bytesOf 4 [p.micros, 0, 0]

/-- Placement map, 0x3418.b. -/
def mapBytes (k : Bake) : List Byte :=
  ((k.place.map (·.insts)).getD []).flatMap fun e =>
    [BitVec.ofNat 8 e.2.1, BitVec.ofNat 8 (e.1 % 16), BitVec.ofNat 8 (e.1 / 16), if e.2.2 then 1 else 0]

/-- Tensor statistics, 0x3419.b. -/
def tstatBytes (k : Bake) : List Byte :=
  (countedTensors k).flatMap fun j =>
    let t := mget {} k.tstats j
    bytesOf 2 [j, 0] ++ bytesOf 4 [t.sat.toNat, t.nan.toNat, t.range.toNat, t.aSat.toNat, t.aNan.toNat, t.aRange.toNat, 0]

/-- Rectangle state, 0x3503.t. -/
def rectStateOf (s : State) (t : Nat) : Nat :=
  if (rectOf s t).isNone then 0
  else if mget 0 s.baker.rectState t = 3 then 3
  else if s.baker.slots.any fun e => decide (e.2.state ≠ 0) && decide (e.2.tenant.toNat = t) then 2 else 1

/-- A channel is retired (R321). -/
def chanRetired (s : State) (ch : Nat) : Bool := decide ((s.chan ch).state = 1) || decide ((s.chan ch).state = 2)

/-- Bytes of the stacks available to placement (R319). -/
def placeBytes (s : State) : Nat :=
  954631290880 - ((List.range 640).filter (chanRetired s)).foldl
    (fun a ch => a + (if ch % 32 = 31 then Config.channelBytes - Config.keptBytes else Config.channelBytes)) 0

/-- Channel record of a stack (R322). -/
def chanBytes (s : State) (ch : Nat) : List Byte :=
  let c := s.chan ch
  [c.state, c.lanes, 0, 0] ++ bytesOf 4 [c.corr.toNat, c.uncorr.toNat, sensor s (0x4020 + ch / 32) (ch % 32 + 1)] ++
    bytesOf 8 [c.waits.toNat, 0]

/-- Port record, 0x4103.p. -/
def portBytes (s : State) (p : Nat) : List Byte :=
  let q := s.port p
  [q.state, q.width, q.spare, 0] ++ bytesOf 2 [q.version.toNat, q.peerDev.toNat] ++
    bytesOf 8 [q.peerInc.toNat, q.sent.toNat, q.replayed.toNat] ++
    bytesOf 4 [q.missed.toNat, q.retrains.toNat, q.fresh.toNat, q.moved.toNat] ++
    bytesOf 8 [sensor s 0x4103 (p + 1), q.dropped.toNat]

/-- Channel mirror, 0x4140.n: the state field as R345 reports it. -/
def mirrorBytes (s : State) (n : Nat) : List Byte :=
  (List.range 64).flatMap fun i =>
    let w := (s.channel (64 * n + i)).ent
    leBytes 32 (putFld w 253 252 (chanState s w)).toNat

/-- Ring mirror, 0x5001.n: the ring block of R272. -/
def ringBytes (g : Ring) : List Byte :=
  bytesOf 8 [g.descBase.toNat, g.alogBase.toNat, g.cmplBase.toNat, g.ptRoot.toNat, g.ctl.toNat, g.tail.toNat,
    g.complete.toNat * 2 ^ 32 + g.head.toNat, g.chead.toNat, 0, g.cstat.toNat * 2 ^ 32 + g.cancelIx.toNat] ++ List.replicate 48 0

/-- Replica status, 0x6002.b. -/
def replicaStatus (s : State) (b : Nat) : List Byte :=
  let k := (s.bake b).replica
  leBytes 8 k.j.toNat ++ [k.result, if k.poison then 1 else 0, maskOf (activeMembers s b), k.odd, k.counted, 0, 0, 0] ++
    leBytes 16 k.own.toNat ++ leBytes 16 k.majority.toNat ++ bytesOf 4 [k.checks.toNat, k.foreign.toNat, k.late.toNat, 0]

/-- Half of a bank record, 0x6021.b. -/
def bankBytes (x : Bank) : List Byte :=
  [x.state, 0, 0, 0] ++ leBytes 4 x.epoch.toNat ++ bytesOf 8 [x.steps.toNat, x.at_.toNat, x.bytes.toNat] ++ leBytes 16 x.digest.toNat

/-- An event record (R471). -/
def eventBytes (e : Event) : List Byte :=
  leBytes 32 (e.seq.toNat * 2 ^ 192 + e.time.toNat * 2 ^ 128 + e.index.toNat * 2 ^ 112 + e.sub.toNat * 2 ^ 104 +
    e.sev.toNat * 2 ^ 96 + e.src.toNat * 2 ^ 88 + e.arg.toNat)

/-- A monitor record (R475). -/
def monitorBytes (m : Monitor) : List Byte :=
  leBytes 8 (if m.armed then 1 else 0) ++ bytesOf 8 [m.samples.toNat, m.minQ.toNat, m.maxQ.toNat] ++
    bytesOf 4 ((List.range 32).map fun i => (mget 0 m.bins i).toNat)

/-- Processor record, 0x7000.m. -/
def procBytes (s : State) (m : Nat) : List Byte :=
  let p := s.proc m
  [p.state, BitVec.ofNat 8 (masterOf m), 0, 0] ++ bytesOf 4 [p.expiries.toNat, p.restarts.toNat, p.recent.toNat] ++
    bytesOf 8 [p.last.toNat, 0]

/-- Last reset record, 0x7100.03. -/
def resetBytes (r : ResetRecord) : List Byte :=
  [r.level, r.cause, r.bnd, 0] ++ bytesOf 2 [r.target.toNat, 0] ++ leBytes 8 r.start.toNat ++ leBytes 4 r.dur.toNat ++
    bytesOf 2 [r.drained.toNat, r.absorbed.toNat] ++ leBytes 8 0

/-- Bytes a fault record, window and the like fill up to `n`. -/
def fill (n : Nat) (l : List Byte) : List Byte := padTo 0 n l

/-- Live value of a DOMAIN entry of 0x1000 to 0x2FFF. -/
def domainLow (s : State) (index sub : Nat) : List Byte :=
  let n := sub - 1
  let port : MgmtPort := if sub = 1 then s.ctl.portA else s.ctl.portB
  match index with
  | 0x1141 => bytesOf 8 [port.executed.toNat, port.repeated.toNat, port.malformed.toNat, port.stale.toNat]
  | 0x1151 => nth [] s.fuse.mac n
  | 0x2001 => leBytes 32 (s.mesh.failed.foldl (fun a p => a + 2 ^ p) 0)
  | 0x2011 => hearthBytes s n
  | 0x2016 => bytesOf 2 ((List.range 57).map fun i => mget 730 s.fuse.vf (57 * n + i))
  | 0x2020 =>
    match siteOf s n with
    | some p => let c := mget (0, 0) s.map.crossing p; [BitVec.ofNat 8 c.1, BitVec.ofNat 8 c.2]
    | none => [0, 0]
  | 0x2031 =>
    match siteOf s n with
    | some p => (List.range 8).map fun i => mget 0 (s.hearth (hearthOfSite p)).minima (8 * p + i)
    | none => List.replicate 8 0
  | 0x2100 => railBytes s sub
  | 0x2120 => damperBytes s n
  | 0x2132 => allocBytes s
  | 0x2300 => throttleBytes s n
  | _ => liveDomain s index sub

/-- Live value of a DOMAIN entry of 0x3000 to 0x34FF. -/
def domainMid (s : State) (index sub : Nat) : List Byte :=
  let c := sub - 1
  let k := s.core c
  match index with
  | 0x3120 => (List.range 16).flatMap fun i => slotBytes (mget {} k.pub.slots i)
  | 0x3121 => (List.range 16).flatMap fun i => let t := mget {} k.pub.slots i; bytesOf 4 [t.low.toNat, t.high.toNat]
  | 0x3210 => bytesOf 8 ((List.range 64).map fun i => (mget 0 k.pub.conflict i).toNat)
  | 0x3211 => bytesOf 8 ((List.range 8).map fun i => (mget 0 k.pub.served i).toNat)
  | 0x3250 => fill 512 (k.sync.held.flatMap crumbBytes)
  | 0x3260 => fill 128 (k.island.windows.flatMap fun w => leBytes 3 w.1 ++ leBytes 3 w.2 ++ [0, 0])
  | 0x3301 => schedBytes (coreRouter s c).sched
  | 0x3302 => bytesOf 4 ((List.range 4096).map fun i => (mget idleEntry (coreRouter s c).table i).toNat)
  | 0x3310 =>
    if sub = 1 then bytesOf 2 ((List.range 1344).map (offsetShown s))
    else fill 16 ((List.range 9).map fun i => BitVec.ofNat 8 (mget 255 s.flue.agents i))
  | 0x3320 => bytesOf 8 ((List.range 5).map fun i => (mget 0 k.pub.crc i).toNat)
  | 0x3330 => bytesOf 8 ((List.range 8).map fun i => (mget 0 k.pub.flue i).toNat)
  | 0x3331 => bytesOf 8 ((List.range 256).map fun i => (mget 0 k.island.bubbles i).toNat)
  | 0x3403 => leBytes 16 s.baker.reject.toNat
  | 0x3413 => digestBytes (s.bake sub).digest
  | 0x3417 => planBytes (s.bake sub)
  | 0x3418 => mapBytes (s.bake sub)
  | 0x3419 => tstatBytes (s.bake sub)
  | 0x341B => leBytes 16 (s.bake sub).reject.toNat
  | _ => liveDomain s index sub

/-- Live value of a DOMAIN entry from 0x4000 on. -/
def domainHigh (s : State) (index sub : Nat) : List Byte :=
  if 0x4020 ≤ index ∧ index ≤ 0x4033 then chanBytes s (32 * (index - 0x4020) + (sub - 1))
  else if 0x6110 ≤ index ∧ index ≤ 0x6119 then monitorBytes (mget {} s.integ.monitors (256 * index + sub))
  else match index with
    | 0x4103 => portBytes s (sub - 1)
    | 0x4140 => mirrorBytes s (sub - 1)
    | 0x5001 => ringBytes (s.workRing (sub - 1))
    | 0x5010 => bytesOf 4 ((List.range 4096).map fun i => (mget ({} : SyncObj) s.ring.globals (0xF000 + i)).value.toNat)
    | 0x5110 => fill 512 (s.ring.recent.flatMap (FaultRec.bytes ·))
    | 0x6002 => replicaStatus s sub
    | 0x6021 => bankBytes (s.bake sub).bankA ++ bankBytes (s.bake sub).bankB
    | 0x6030 => (List.range 1024).flatMap fun i => eventBytes (mget ⟨0, 0, 0, 0, 0, 0, 0⟩ s.integ.log i)
    | 0x7000 => procBytes s sub
    | 0x7005 => fill 256 (s.proc sub).crash
    | 0x7010 => s.fuse.keyHash.flatMap digestBytes
    | 0x7100 => resetBytes s.recov.last
    | 0x7101 => bytesOf 8 ((List.range 5).map fun i => (mget 0 s.aon.recA.resets (i + 1)).toNat)
    | 0x7110 => fill 256 (s.proc 1).crash ++ fill 256 (s.proc 2).crash
    | _ => liveDomain s index sub

/-- Live value of a DOMAIN entry, but for the digests 0x1130.01 to .03. -/
def domainValue (s : State) (index sub : Nat) : List Byte :=
  if index < 0x3000 then domainLow s index sub else if index < 0x4000 then domainMid s index sub else domainHigh s index sub

/-- Live value of a scalar entry of 0x1000 to 0x1FFF. -/
def scalarControl (s : State) (index sub : Nat) : Nat :=
  let d := s.ctl.dict
  match index, sub with
  | 0x1000, 3 => 0x0100
  | 0x1000, 5 => d.fwVer.toNat
  | 0x1001, 1 => 0x0100
  | 0x1001, _ => 0
  | 0x1004, _ => 0x0100
  | 0x1100, 1 | 0x1100, 2 => s.aon.holder.toNat
  | 0x1100, 4 => s.aon.leaseLeft / Config.cyclesPerMs
  | 0x1101, 1 => if s.aon.presence then 1 else 0
  | 0x1101, 2 => if s.aon.window then 1 else 0
  | 0x1101, 4 => if s.aon.window then s.aon.windowLeft / Config.cyclesPerMs else 0
  | 0x1111, _ => 0
  | 0x1112, n => (mget 0 d.gens n).toNat
  | 0x1113, n => if (mget {} d.staging n).vals.isEmpty then 0 else 1
  | 0x1130, 6 => s.links.mismatches.toNat
  | 0x1130, 8 => s.links.lastBad.toNat
  | 0x1201, _ => if d.locked then 1 else 0
  | 0x1210, n => (s.box (n - 1)).refused.toNat
  | 0x1400, 2 => if s.aon.calValid then 1 else 0
  | 0x1401, 1 => s.aon.vbak.toNat
  | 0x1401, 2 => if s.aon.onVbak then 1 else 0
  | 0x1402, 1 => s.ctl.ptpState.toNat
  | 0x1402, 2 => (BitVec.ofInt 64 s.ctl.ptpOff).toNat
  | 0x1402, 3 => s.ctl.ptpPort.toNat
  | 0x1410, 1 => s.aon.recSel.toNat
  | 0x1410, 2 => s.aon.recA.fallbacks.toNat
  | _, _ => setting s index sub

/-- Live value of a scalar entry of 0x2000 to 0x2FFF. -/
def scalarPower (s : State) (index sub : Nat) : Nat :=
  match index, sub with
  | 0x2000, 1 => s.mesh.state.toNat
  | 0x2000, 3 => s.mesh.failed.length
  | 0x2000, n => sensor s 0x2000 n
  | 0x2015, n => if transitFree s (n - 1) then 1 else 0
  | 0x2021, _ => s.aon.recA.provings.toNat
  | 0x2104, _ => 0
  | 0x2130, 2 => (capInForce s).toNat
  | 0x2130, 3 => s.power.power.toNat
  | 0x2130, 4 => s.power.aboveUs.toNat
  | 0x2132, _ => s.power.shortfalls.toNat
  | 0x2200, n => (s.hearth (n - 1)).junction.toNat
  | 0x2240, 1 => s.aon.recA.large.toNat
  | 0x2240, 2 => s.aon.recA.medium.toNat
  | 0x2240, _ => (f32Of ((s.aon.recA.highest.getD 0 : Rat) / 1000)).toNat
  | _, _ => setting s index sub

/-- Four bypassed columns from place `n` on (R82). -/
def bypassWord (s : State) (c : CoreId) (n : Nat) : Nat :=
  ofLe (bytesOf 2 ((List.range 4).map fun i => nth 0xFFFF (bypassOf s c) (n + i)))

/-- Live value of a scalar entry of a core: 0x3000 to 0x33FF. -/
def scalarCore (s : State) (index sub : Nat) : Nat :=
  let c := sub - 1
  let k := s.core c
  let p := k.pub
  match index, sub with
  | 0x3000, 1 => (Grade.code s.fuse.grade).toNat
  | 0x3000, 2 => Grade.rows s.fuse.grade
  | 0x3000, 3 => s.map.gen.toNat
  | 0x3000, _ => usableCount s
  | 0x3001, n => (spareMap s (n - 1)).toNat
  | 0x3002, _ => width s c
  | 0x3003, _ => mget 255 s.map.subRow c
  | 0x3004, 1 => s.map.stitch.toNat
  | 0x3004, 2 => s.map.lintel.toNat
  | 0x3004, 3 => s.map.stitchTr.toNat
  | 0x3004, _ => s.map.lintelTr.toNat
  | 0x3005, _ => bypassWord s c 0
  | 0x3006, _ => bypassWord s c 4
  | 0x3007, _ => mget 0 s.map.added c
  | 0x3110, _ => p.active.toNat
  | 0x3111, _ => p.issued.toNat
  | 0x3112, _ => p.tokens.toNat
  | 0x3113, _ => p.dry.toNat
  | 0x3114, _ => p.drainHold.toNat
  | 0x3115, _ => p.accCorr.toNat
  | 0x3116, _ => p.loadWait.toNat
  | 0x3117, _ => p.barrier.toNat
  | 0x3118, _ => p.loaderDly.toNat
  | 0x311F, _ => k.pubs.toNat
  | 0x3200, 1 => 12582912
  | 0x3200, _ => 128
  | 0x3201, _ => match siteOf s c with
    | some q => mget 0 s.fuse.spareRows q
    | none => 0
  | 0x3220, _ => p.corrected.toNat
  | 0x3221, _ => p.uncorr.toNat
  | 0x3222, _ => p.poisoned.toNat
  | 0x3223, _ => p.lastUncorr.toNat
  | 0x3231, _ => k.pad.passes.toNat
  | 0x3241, _ => padState k
  | 0x3251, _ => p.crumbsSent.toNat
  | 0x3252, _ => p.staleWords.toNat
  | 0x3253, _ => p.crumbsRecv.toNat
  | 0x3254, _ => p.crumbsLost.toNat
  | 0x3255, _ => p.crumbsOld.toNat
  | 0x3300, _ => s.flue.cycle
  | 0x3310, 2 => s.flue.compiles.toNat
  | 0x3310, 3 => draughtBound s
  | 0x3310, 4 => s.flue.maxRoute
  | 0x3310, _ => s.flue.mask.toNat
  | _, _ => setting s index sub

/-- Live value of a scalar entry of bakes and rectangles: 0x3400 to 0x35FF. -/
def scalarBake (s : State) (index sub : Nat) : Nat :=
  let k := s.bake sub
  match index, sub with
  | 0x3400, 1 => ((List.range 6).filter fun i => decide ((s.proc (3 + i)).state = 0)).length
  | 0x3400, 2 => s.baker.cache.length
  | 0x3400, 3 => s.baker.hits.toNat
  | 0x3400, _ => s.baker.misses.toNat
  | 0x3401, _ => s.baker.epoch.toNat
  | 0x3410, _ => k.state.toNat
  | 0x3411, _ => k.epoch.toNat
  | 0x3412, _ => k.tenant.toNat
  | 0x3414, _ => (k.place.map (·.phases)).getD 0
  | 0x3415, _ => k.committed.toNat
  | 0x3416, _ => k.fenced.toNat
  | 0x341A, _ => k.below.toNat
  | 0x341D, _ => k.migTo.toNat
  | 0x3500, _ => ((List.range 64).filter fun i => (rectOf s (i + 1)).isSome).length
  | 0x3503, t => rectStateOf s t
  | 0x3504, t => match rectOf s t with
    | some r => ((rectCores s r).filter (usable s)).length
    | none => 0
  | _, _ => setting s index sub

/-- Live value of a scalar entry of stacks, links and rings: 0x4000 to 0x5FFF. -/
def scalarData (s : State) (index sub : Nat) : Nat :=
  match index, sub with
  | 0x4000, 1 => ((List.range 20).filter fun n => decide (mget 0 s.hbm.state n ≠ 1)).length
  | 0x4000, 2 => ((List.range 640).filter fun c => !chanRetired s c).length
  | 0x4000, 3 => Config.channelBytes
  | 0x4000, _ => placeBytes s
  | 0x4001, n => (mget 0 s.hbm.state (n - 1)).toNat
  | 0x4002, n => sensor s 0x4002 n
  | 0x4011, _ => if s.hbm.copyA && s.hbm.copyB then 2 else 1
  | 0x4100, 3 => s.links.inc.toNat
  | 0x4112, 1 => s.links.hopDrop.toNat
  | 0x4112, 2 => s.links.stale.toNat
  | 0x4112, _ => s.links.noRoute.toNat
  | 0x4121, 1 => s.links.counted.toNat
  | 0x4121, _ => s.links.late.toNat
  | 0x5000, 1 => (s.ring.rings.filter fun e => rcEn e.2.ctl).length
  | 0x5000, 2 => ((s.ring.rings.filter fun e => rcEn e.2.ctl).map fun e => ringSize e.2).sum
  | 0x5000, 3 => s.ring.accepted.toNat
  | 0x5000, 4 => s.ring.failed.toNat
  | 0x5000, _ => s.ring.ignored.toNat
  | 0x5011, 1 => s.ring.stale.toNat
  | 0x5011, _ => s.ring.stalls.toNat
  | 0x5020, 1 => inFlight s
  | 0x5020, 2 => s.ring.high
  | 0x5020, _ => s.ring.waits.toNat
  | 0x5111, 1 => s.ring.parked.toNat
  | 0x5111, 2 => s.ring.resolved.toNat
  | 0x5111, 3 => s.ring.late.toNat
  | 0x5111, 4 => s.ring.unresolved.toNat
  | 0x5111, _ => s.ring.recLost.toNat
  | _, _ => setting s index sub

/-- Live value of a scalar entry of integrity, processors and resets: 0x6000 to 0x7FFF. -/
def scalarCare (s : State) (index sub : Nat) : Nat :=
  match index, sub with
  | 0x6022, _ => 0
  | 0x6023, b => (s.bake b).waitUs.toNat
  | 0x6030, 1 => s.integ.nextSeq.toNat
  | 0x6030, 3 => s.aon.lost.toNat
  | 0x6030, _ => s.integ.acked.toNat
  | 0x6100, _ => s.integ.command.toNat
  | 0x7003, _ => s.recov.active.toNat
  | 0x7004, _ => (s.flue.cycle - s.recov.journalAt) / Config.cyclesPerMs
  | 0x7010, 2 => s.fuse.revoked.toNat
  | 0x7010, _ => s.fuse.minSvn.toNat
  | 0x7011, 1 => s.recov.rejects.toNat
  | 0x7011, _ => s.recov.dropped.toNat
  | 0x7100, 1 => s.recov.dev.toNat
  | 0x7110, 1 => s.aon.rescue.toNat
  | 0x7110, 2 => s.aon.cause.toNat
  | 0x7110, _ => 0
  | _, _ => setting s index sub

/-- Live value of a scalar entry. -/
def scalarValue (s : State) (index sub : Nat) : Nat :=
  if index < 0x2000 then scalarControl s index sub
  else if index < 0x3000 then scalarPower s index sub
  else if index < 0x3400 then scalarCore s index sub
  else if index < 0x4000 then scalarBake s index sub
  else if index < 0x6000 then scalarData s index sub
  else scalarCare s index sub

/-- Bytes on the wire of an entry, but for the digests 0x1130.01 to .03. -/
def plainBytes (s : State) (e : Entry) (sub : Nat) : List Byte :=
  if sub = 0 then leBytes 1 (topSub s e.index)
  else if e.code = tDom then domainValue s e.index sub
  else if e.code = tStr then
    strBytes (if sub = 1 then textBytes "Elvyel" else if sub = 2 then textBytes "Plovhilin" else s.fuse.serial)
  else if e.code = tDate then
    (if e.index = 0x1400 then dateBytes (dateOfNs (s.aon.calendar / 8))
     else if s.ctl.ppsSeen then dateBytes (dateOfNs (s.ctl.pps / 8)) else List.replicate 12 0)
  else leBytes e.size (scalarValue s e.index sub)

/-! ### Configuration digests (R377) -/

/-- Shared-class entries in ascending order (R377, R404, R420). -/
def sharedEntries : List (Nat × Nat) :=
  [(0x1000, 3), (0x1004, 1), (0x1004, 2), (0x1004, 3), (0x2017, 1), (0x2030, 1), (0x2030, 2), (0x2030, 3), (0x2131, 1), (0x2201, 1)] ++
  [(0x3101, 1), (0x3101, 2), (0x3101, 3), (0x3101, 4), (0x3321, 1), (0x3321, 2), (0x3402, 1), (0x3402, 2), (0x3402, 3), (0x3402, 4)] ++
  [(0x4100, 2), (0x4101, 1), (0x4101, 2), (0x4101, 3), (0x4111, 1), (0x4120, 1), (0x4120, 2), (0x4120, 3)]

/-- First 128 bits of SHA-384 of a list. -/
def digest16 (l : List Byte) : List Byte := (digestBytes (sha384 l)).take 16

/-- D_shared. -/
def sharedDigest (s : State) : List Byte :=
  digest16 (sharedEntries.flatMap fun x =>
    match findEntry s x.1 x.2 with
    | .ok e => leBytes 2 x.1 ++ [BitVec.ofNat 8 x.2, BitVec.ofNat 8 e.code] ++ plainBytes s e x.2
    | .error _ => [])

/-- D_route. -/
def routeDigest (s : State) : List Byte := digest16 (liveDomain s 0x4110 1)

/-- What D_bake takes of one slot: number, graph digest, binding tables and slot tables in force. -/
def bakeList (b : Nat) (k : Bake) : List Byte :=
  let p := k.place
  leBytes 1 b ++ digestBytes k.digest ++ wordsBytes k.pkg.binds ++
    (((p.map (·.tensors)).getD []).flatMap fun e => bytesOf 8 [e.1, e.2]) ++ bytesOf 2 ((p.map (·.syncs)).getD []) ++
    (((p.map (·.streams)).getD []).flatMap fun e => bytesOf 1 [e.sendNo, e.recvNo]) ++
    (((p.map (·.tables)).getD []).flatMap fun e => leBytes 2 e.1 ++ e.2.flatMap fun w => leBytes 4 w.toNat)

/-- D_bake. -/
def bakeDigest (s : State) : List Byte :=
  digest16 ((s.baker.slots.filter fun e => decide (e.2.state ≠ 0)).flatMap fun e => bakeList e.1 e.2)

/-- Bytes on the wire of an entry. -/
def valueBytes (s : State) (e : Entry) (sub : Nat) : List Byte :=
  if e.index = 0x1130 ∧ sub = 1 then sharedDigest s
  else if e.index = 0x1130 ∧ sub = 2 then routeDigest s
  else if e.index = 0x1130 ∧ sub = 3 then bakeDigest s
  else plainBytes s e sub

/-- A READ of `len` bytes from `off` with `room` bytes left in the response (R359, R365); `staged` is the value of READ
STAGED where the entry is staged. -/
def readEntry (s : State) (index sub code off len room : Nat) (staged : Option (List Byte)) : Nat × List Byte :=
  match findEntry s index sub with
  | .error c => (c, [])
  | .ok e =>
    let v := staged.getD (valueBytes s e sub)
    if code ≠ e.code then (0x06070010, [])
    else if e.code = tDom ∨ e.code = tStr then
      (if v.length < off then (0x06070010, []) else (0, (v.drop off).take (min len room)))
    else if off ≠ 0 ∨ len ≠ v.length then (0x06070010, [])
    else (0, v.take room)

end Sys2Proof.Machine
end

