-- ==== Sys2Proof/Machine/DictWrite.lean ====
section
/-! DEFINITION. Writes of the object dictionary: the checks of R359, the semaphore and the presence window (R371, R372),
staging and commit sets (R373 to R375), and what each entry's write does. -/

namespace Sys2Proof.Machine

/-! ### Ranges (R359 check 9) -/

/-- A finite binary32 between two whole tenths. -/
def f32In (lo hi : Nat) (v : Nat) : Bool :=
  match fv32 (BitVec.ofNat 32 v) with
  | .fin _ _ _ => decide ((lo : Rat) / 10 ≤ ratOf (BitVec.ofNat 32 v)) && decide (ratOf (BitVec.ofNat 32 v) ≤ (hi : Rat) / 10)
  | _ => false

def within (lo hi v : Nat) : Bool := decide (lo ≤ v) && decide (v ≤ hi)

/-- Numbers of the commit sets (R374 and the chapters after it). -/
def setNumber (n : Nat) : Bool := within 1 8 n || within 0x10 0x15 n

/-- A master ID that R360 lists. -/
def masterListed (m : Nat) : Bool :=
  decide (m ≤ 2) || within 8 9 m || within 0x10 0x15 m || within 0x20 0x2F m || within 0x30 0x33 m || within 0x38 0x39 m || decide (m = 0xFF)

/-- A value lies in its scalar entry's range and has no reserved bit set. -/
def scalarOk (index sub v : Nat) : Bool :=
  match index, sub with
  | 0x1002, _ => decide (v = 0x0100)
  | 0x1100, 3 => within 2 60 v
  | 0x1101, 2 => within 0 1 v
  | 0x1101, 3 => within 10 120 v
  | 0x1111, _ => setNumber v
  | 0x1130, _ => within 1 10000 v
  | 0x1200, _ => decide (fld (BitVec.ofNat 32 v) 31 24 = 0) && decide (fld (BitVec.ofNat 32 v) 7 1 = 0)
  | 0x1401, _ => f32In 20 36 v
  | 0x1403, _ => within 0 127 v
  | 0x2010, _ | 0x2013, _ => freqStep v
  | 0x2012, _ | 0x2014, _ => within 0 1 v
  | 0x2017, _ => within 0 50 v
  | 0x2030, _ => within 0 63 v
  | 0x2103, _ => within 100 60000 v
  | 0x2104, _ => within 0 1 v
  | 0x2130, _ => f32In 50000 150000 v
  | 0x2131, _ => within 0 1 v
  | 0x2201, _ => f32In 900 1000 v
  | 0x3101, 1 => within 1 3 v
  | 0x3101, 2 => within 1 16 v
  | 0x3101, 3 => within 0 7 v
  | 0x3101, _ => within 0 1 v
  | 0x3230, 1 => within 1024 65536 v
  | 0x3230, _ => within 0 1 v
  | 0x3240, _ => within 0 1 v
  | 0x3321, 1 => within 1 1024 v
  | 0x3321, _ => within 10 1000000 v
  | 0x3402, 1 => within 100 60000000 v
  | 0x3402, 2 => within 1 2 v
  | 0x3402, 3 => within 0 1 v
  | 0x3402, _ => within 0 15 v
  | 0x341C, _ => within 0 2 v
  | 0x3501, _ => decide (fld (BitVec.ofNat 32 v) 31 24 = 0) && decide (fld (BitVec.ofNat 32 v) 7 1 = 0)
  | 0x4010, _ => within 1000 100000000 v
  | 0x4100, 1 => decide (v ≤ 32767) || decide (v = 0xFFFF)
  | 0x4101, 1 => within 200 10000 v
  | 0x4101, 2 => within 500 20000 v
  | 0x4101, _ => within 1 15 v
  | 0x4102, _ => within 1000 1000000000 v
  | 0x4104, _ => within 0 1 v
  | 0x4111, _ => within 1 63 v
  | 0x4120, 3 => f32In 0 49152000 v
  | 0x5102, 1 => within 1 600 v
  | 0x5102, 2 => decide (v % 2097152 = 0)
  | 0x5102, _ => within 0 262144 v
  | 0x6020, _ => within 0 1000000 v
  | 0x7001, _ => within 1 1000 v
  | 0x7002, _ => within 1 15 v
  | 0x7010, 2 => within 0 15 v
  | 0x7010, _ => within 0 63 v
  | 0x7100, 4 => within 1 2 v
  | 0x7110, 5 => within 0 1 v
  | _, _ => true

/-- A port of a routing-table entry. -/
def routePort (p : Nat) : Bool := decide (p < 12) || decide (p = 15)

/-- The value of a DOMAIN has no reserved bit set and its numbers lie in their ranges. -/
def domainOk (index : Nat) (l : List Byte) : Bool :=
  let num (o n : Nat) : Nat := ofLe (slice l o n)
  match index with
  | 0x1150 => within 0 128 (num 16 1) && within 0 1 (num 17 1) && decide (num 32 16 = 0)
  | 0x2102 => (List.range 22).all fun r => within 0 1 (num (4 * r) 1) && within 0 127 (num (4 * r + 1) 1) && within 0 4 (num (4 * r + 3) 1 / 16)
  | 0x4110 => (List.range (l.length / 2)).all fun i =>
      let e : U16 := BitVec.ofNat 16 (num (2 * i) 2)
      decide (fld e 7 0 = 0) && routePort (fld e 15 12) && routePort (fld e 11 8)
  | 0x6001 => decide (num 10 1 < 2) && decide (num 11 1 = 0) && decide (num 36 4 = 0)
  | 0x6010 => (List.range 64).all fun i => decide (num (32 * i) 8 = 0) && decide (num (32 * i + 28) 1 = 0)
  | _ => true

/-! ### The semaphore and the presence window (R371, R372) -/

/-- Restart the lease. -/
def renewLease (s : State) : State :=
  { s with aon := { s.aon with leaseLeft := setting s 0x1100 3 * Config.cyclesPerSecond } }

def closeWindow (s : State) : State := { s with aon := { s.aon with window := false, windowLeft := 0 } }

/-- Release, or the end of a lease: no holder, no staging, no window. -/
def releaseSem (s : State) : State :=
  closeWindow ({ s with aon := { s.aon with holder := 0, leaseLeft := 0 } }.modDict fun d => { d with staging := [] })

/-- A write of 0x1100.02 by a management master. -/
def writeAcquire (s : State) (master v : Nat) : Nat × State :=
  let h := s.aon.holder.toNat
  if v ≠ 0 ∧ v ≠ 1 ∧ v ≠ 2 then (0x06090030, s)
  else if h ≠ 0 ∧ h ≠ master then (0x08000023, s)
  else if v = master then (0, renewLease { s with aon := { s.aon with holder := BitVec.ofNat 8 master } })
  else if v ≠ 0 then (0x06090030, s)
  else if h = 0 then (0, s)
  else (0, releaseSem s)

/-- A write of 0x1101.02: a second open does not restart an open window. -/
def writeWindow (s : State) (v : Nat) : Nat × State :=
  if v = 0 then (0, closeWindow s)
  else if !s.aon.presence then (0x08000022, s)
  else if s.aon.window then (0, s)
  else (0, { s with aon := { s.aon with window := true, windowLeft := setting s 0x1101 3 * Config.cyclesPerSecond } })

/-! ### Staging (R375) -/

def stagingOf (s : State) (n : Nat) : Staging := mget {} s.ctl.dict.staging n

/-- Value of a member in a list of staged values. -/
def stagedIn (l : List (Nat × List Byte)) (index sub : Nat) : Option (List Byte) :=
  (l.find? fun e => decide (e.1 = dkey index sub)).map (·.2)

/-- Stage a member's value; the first staged write records the generation. -/
def stageValue (s : State) (n index sub : Nat) (v : List Byte) : State :=
  s.modDict fun d =>
    let g := mget {} d.staging n
    let k := dkey index sub
    let h : Staging :=
      { vals := (g.vals.filter fun e => decide (e.1 ≠ k)) ++ [(k, v)], gen := if g.vals.isEmpty then mget 0 d.gens n else g.gen }
    { d with staging := mset {} d.staging n h }

def dropStaging (s : State) (n : Nat) : State := s.modDict fun d => { d with staging := mset {} d.staging n {} }

/-- Value a member would have after a write of `data` at `off`. A write of the member list 0x4120.02 ends the list behind its
last byte. -/
def stagedAfter (s : State) (e : Entry) (sub off : Nat) (data : List Byte) : List Byte :=
  let old := (stagedIn (stagingOf s e.cset).vals e.index sub).getD (valueBytes s e sub)
  if e.code ≠ tDom then data
  else if e.index = 0x4120 then padTo 0 off old ++ data
  else splice old off data

/-! ### Checks of the commit sets (R374) -/

/-- A member of a commit as it would be: staged, or else live. -/
def wouldBe (s : State) (l : List (Nat × List Byte)) (index sub : Nat) : Nat :=
  ((stagedIn l index sub).map ofLe).getD (scalarValue s index sub)

def wouldBytes (s : State) (l : List (Nat × List Byte)) (index sub : Nat) : List Byte :=
  (stagedIn l index sub).getD (domainValue s index sub)

/-- Bounds word of a tenant as it would be, as a rectangle. -/
def wouldRect (s : State) (l : List (Nat × List Byte)) (t : Nat) : Option Rect :=
  let w : U32 := BitVec.ofNat 32 (wouldBe s l 0x3501 t)
  if bitAt w 0 then some ⟨fld w 23 20, fld w 19 16, fld w 15 12, fld w 11 8⟩ else none

/-- Tenants that a commit of set 0x02 names. -/
def namedTenants (l : List (Nat × List Byte)) : List Nat :=
  (List.range 64).filterMap fun i =>
    if (stagedIn l 0x3501 (i + 1)).isSome || (stagedIn l 0x3502 (i + 1)).isSome then some (i + 1) else none

/-- A tenant's definition would change. -/
def rectChanges (s : State) (l : List (Nat × List Byte)) (t : Nat) : Bool :=
  decide (wouldBe s l 0x3501 t ≠ setting s 0x3501 t) || decide (wouldBe s l 0x3502 t ≠ setting s 0x3502 t)

/-- The change enlarges the rectangle: its bounds hold the old ones and its mask keeps the old ports. -/
def enlarges (s : State) (l : List (Nat × List Byte)) (t : Nat) : Bool :=
  match rectOf s t, wouldRect s l t with
  | some a, some b =>
    decide (b.x0 ≤ a.x0) && decide (a.x1 ≤ b.x1) && decide (b.y0 ≤ a.y0) && decide (a.y1 ≤ b.y1) && decide (a ≠ b) &&
      decide (setting s 0x3502 t &&& wouldBe s l 0x3502 t = setting s 0x3502 t)
  | none, some _ => true
  | _, _ => false

/-- A rectangle of the commit that R256 refuses with 0x0609_0030. -/
def badRect (s : State) (l : List (Nat × List Byte)) (t : Nat) : Bool :=
  match wouldRect s l t with
  | none => false
  | some r =>
    let sites := rectSites s r
    decide (r.x1 < r.x0) || decide (r.y1 < r.y0) || decide (Grade.rows s.fuse.grade ≤ r.y1) ||
      sites.any (fun p => decide ((s.hearth (hearthOfSite p)).state = 3)) ||
      (List.range 64).any fun m =>
        bitAt (BitVec.ofNat 64 (wouldBe s l 0x3502 t)) m && hasRouter s (portSite m).1 && !sites.contains (portSite m).1

/-- Two defined rectangles would share a site. -/
def rectsMeet (s : State) (l : List (Nat × List Byte)) : Bool :=
  let all : List (Nat × List Site) := (List.range 64).filterMap fun i => (wouldRect s l (i + 1)).map fun r => (i, rectSites s r)
  all.any fun a => all.any fun b => decide (a.1 < b.1) && a.2.any b.2.contains

/-- Bakes in a tenant's rectangle. -/
def bakesOf (s : State) (t : Nat) : List (Nat × Bake) :=
  s.baker.slots.filter fun e => decide (e.2.state ≠ 0) && decide (e.2.tenant.toNat = t)

/-- Check of set 0x02 (R256). -/
def checkRects (s : State) (l : List (Nat × List Byte)) : Nat :=
  let ts := (namedTenants l).filter (rectChanges s l)
  if ts.any (badRect s l) then 0x06090030
  else if ts.any fun t => !(bakesOf s t).isEmpty && !(enlarges s l t && (bakesOf s t).all fun e => decide (e.2.state = 7))
    then 0x08000024
  else if rectsMeet s l then 0x08000024 else 0

/-- Check of set 0x06 (R311, R313): the pool lies within one channel and off the kept region. -/
def checkPool (s : State) (l : List (Nat × List Byte)) : Nat :=
  let b := wouldBe s l 0x5102 2
  let n := 4096 * wouldBe s l 0x5102 3
  let o := b % 2 ^ 31
  let ch := b / 2 ^ 31
  if n = 0 ∧ b = 0 then 0
  else if 640 ≤ ch ∨ Config.channelBytes < o + n ∨ (ch % 32 = 31 ∧ o < Config.keptBytes) then 0x06090030 else 0

/-- Check of one binding (R387). -/
def bindingOk (v : Nat) : Bool :=
  let w : U32 := BitVec.ofNat 32 v
  !bitAt w 0 || (masterListed (fld w 23 16) && masterListed (fld w 15 8) && decide (fld w 23 16 ≠ fld w 15 8))

/-- Check of set 0x08 (R374): the two ports share no address. -/
def checkAddresses (s : State) (l : List (Nat × List Byte)) : Nat :=
  let a := wouldBytes s l 0x1150 1
  let b := wouldBytes s l 0x1150 2
  let v6 (x : List Byte) : Nat := ofLe (slice x 0 16)
  let v4 (x : List Byte) : Nat := ofLe (slice x 20 4)
  let on (x : List Byte) : Bool := decide (ofLe (slice x 17 1) = 1)
  if (v6 a ≠ 0 ∧ v6 a = v6 b) ∨ ((on a && on b) = true ∧ v4 a = v4 b) then 0x06090030 else 0

/-- Check of set 0x12 (R413): no two rails share a PMBus address and PAGE, or an AVSBus bus and rail select. -/
def checkRailMap (s : State) (l : List (Nat × List Byte)) : Nat :=
  let m := wouldBytes s l 0x2102 1
  let pm := (List.range 22).map fun r => slice m (4 * r) 3
  let av := (List.range 22).map fun r => slice m (4 * r + 3) 1
  if distinct pm && distinct av then 0 else 0x06090030

/-- Check of set 0x13 (R440). -/
def checkPolicy (s : State) (l : List (Nat × List Byte)) : Nat :=
  let r : BitVec 4 := BitVec.ofNat 4 (wouldBe s l 0x7010 2)
  if s.fuse.revoked &&& r ≠ s.fuse.revoked ∨ r = 15 ∨ wouldBe s l 0x7010 3 < s.fuse.minSvn.toNat then 0x06090030 else 0

/-- Check of a replica group (R465). -/
def groupOk (s : State) (l : List Byte) : Bool :=
  let num (o n : Nat) : Nat := ofLe (slice l o n)
  let ids := ((List.range 8).map fun i => num (20 + 2 * i) 2).filter fun d => decide (d ≠ 0xFFFF)
  ids.contains (deviceId s) && (decide (num 4 4 = 0) || decide (2 ≤ ids.length)) && decide (num 4 4 ≤ 1000000) && within 1 1000 (num 8 2)

/-- Check of a check table (R457, R459). -/
def tableOk (s : State) (b : Nat) (l : List Byte) : Bool :=
  let k := s.bake b
  let es := ((chunks 32 64 l).map fun e => (BitVec.ofNat 256 (ofLe e) : W256)).filter fun w => decide (ckTensor w ≠ 0xFFFF)
  decide (k.state ≠ 0) && distinct (es.map ckTensor) &&
    es.all fun w =>
      (countedTensors k).contains (ckTensor w) && decide (ckAction w ≤ 2) && !(fv32 (ckLow w)).isNan && !(fv32 (ckHigh w)).isNan &&
        !(fv32 (ckHigh w)).lt (fv32 (ckLow w))

/-- Slots whose member of a set is staged. -/
def stagedSlots (l : List (Nat × List Byte)) (index : Nat) : List (Nat × List Byte) :=
  (List.range 64).filterMap fun i => (stagedIn l index (i + 1)).map fun v => (i + 1, v)

/-- A set's own check: the abort code, 0 where it passes. -/
def checkSet (s : State) (n : Nat) (l : List (Nat × List Byte)) : Nat :=
  let bad (b : Bool) : Nat := if b then 0x06090030 else 0
  match n with
  | 2 => checkRects s l
  | 3 =>
    let a := wouldBe s l 0x4101 1
    let r := wouldBe s l 0x4101 2
    bad !(decide (a < r) && decide (r < a * wouldBe s l 0x4101 3))
  | 5 =>
    let m := wouldBytes s l 0x4120 2
    bad (decide (wouldBe s l 0x4120 1 ≠ 0) && !((List.range (m.length / 2)).any fun i => decide (ofLe (slice m (2 * i) 2) = deviceId s)))
  | 6 => checkPool s l
  | 7 => bad !(l.all fun e => bindingOk (ofLe e.2))
  | 8 => checkAddresses s l
  | 0x10 => bad !(decide (wouldBe s l 0x2030 1 < wouldBe s l 0x2030 2) && decide (wouldBe s l 0x2030 2 < wouldBe s l 0x2030 3))
  | 0x12 => checkRailMap s l
  | 0x13 => checkPolicy s l
  | 0x14 => bad !((stagedSlots l 0x6001).all fun e => groupOk s e.2)
  | 0x15 => bad !((stagedSlots l 0x6010).all fun e => tableOk s e.1 e.2)
  | _ => 0

/-- What must hold of the presence window for a set (R375, R387). -/
def checkPresence (s : State) (n : Nat) : Nat :=
  if s.aon.window then 0
  else if n = 0x12 ∨ n = 0x13 then 0x08000022
  else if n = 7 ∧ s.ctl.dict.locked = true then 0x08000027 else 0

/-- A write of 0x1111.01: the set waits for its boundary, or is refused; its staging is gone either way. A set still waiting
for its boundary takes the new values on top. -/
def commitSet (s : State) (n : Nat) : Nat × State :=
  let g := stagingOf s n
  let t := dropStaging s n
  let code :=
    if g.vals.isEmpty ∨ g.gen ≠ mget 0 s.ctl.dict.gens n then 0x08000024
    else if checkPresence s n ≠ 0 then checkPresence s n else checkSet s n g.vals
  if code ≠ 0 then (code, t)
  else (0, t.modDict fun d =>
    let old := (mget {} d.due n).vals.filter fun e => !(g.vals.any fun x => decide (x.1 = e.1))
    let h : Staging := { vals := old ++ g.vals, gen := g.gen }
    { d with due := mset {} d.due n h })

/-! ### Application (R374) -/

/-- Store staged values as they are: scalars or DOMAINs. -/
def storeMember (s : State) (e : Nat × List Byte) : State :=
  let index := e.1 / 256
  let sub := e.1 % 256
  match dictEntries.find? fun x => decide (x.index = index) && decide (x.lo ≤ sub) && decide (sub ≤ x.top s) with
  | some x =>
    if x.code = tDom then s.modDict fun d => { d with domain := mset [] d.domain e.1 e.2 } else putSetting s index sub (ofLe e.2)
  | none => s

def storeMembers (s : State) (l : List (Nat × List Byte)) : State := l.foldl storeMember s

/-- The bake of an enlarged rectangle goes on to its re-placement (R256, R260). -/
def wakePaused (s : State) (b : Nat) : State :=
  let k := s.bake b
  if k.state = 7 ∧ k.place.isSome = true ∧ k.draining = false ∧ k.triggers.isEmpty = false ∧ needsPlace s k = true ∧
      heldStep k = false ∧ s.flue.cutOff = false then
    s.modBake b fun q => { q with state := 4 }
  else s

/-- Rectangles take their new definitions; routers that leave them leave their tenant (R257). -/
def applyRects (s : State) (l : List (Nat × List Byte)) : State :=
  let ts := (namedTenants l).filter (rectChanges s l)
  let t := storeMembers s l
  let t := ts.foldl (fun (u : State) n => { u with baker := { u.baker with rectState := mset 0 u.baker.rectState n 0 } }) t
  let t := releaseRouters t (ts.flatMap fun n => ((rectOf s n).map (rectSites s)).getD [])
  ts.foldl (fun u n => (bakesOf u n).foldl (fun v e => wakePaused v e.1) u) t

/-- A changed device ID retrains every port (R338); changed routes are taken at once, by waiting frames and paused bakes (R339, R343). -/
def applyIds (s : State) (l : List (Nat × List Byte)) : State :=
  let t := storeMembers s l
  if wouldBe s l 0x4100 1 = deviceId s then routesChanged t
  else (List.range 12).foldl
    (fun u p => u.modPort p fun q => if q.state = 1 ∨ q.state = 2 then { q with state := 3, trainOk := 0, lastTrain := none } else q) t

/-- A channel whose binding changes while FULL is cleared and counts one refused write (R387). -/
def applyBindings (s : State) (l : List (Nat × List Byte)) : State :=
  l.foldl
    (fun t e =>
      let n := e.1 % 256
      let changed := decide (setting t 0x1200 n ≠ ofLe e.2)
      let u := storeMember t e
      if changed && (t.box (n - 1)).full then u.modBox (n - 1) fun x => { refused := x.refused + 1 } else u) s

/-- The paging pool moves: frames are counted from its new base. -/
def applyPool (s : State) (l : List (Nat × List Byte)) : State :=
  let moved := decide (wouldBe s l 0x5102 2 ≠ setting s 0x5102 2)
  let t := storeMembers s l
  if moved then { t with ring := { t.ring with frames := 0 } } else t

/-- Burn the signing policy (R440): a fuse that is burned stays burned, and the minimum security version never falls. -/
def applyPolicy (s : State) (l : List (Nat × List Byte)) : State :=
  { s with fuse := { s.fuse with
      revoked := s.fuse.revoked ||| BitVec.ofNat 4 (wouldBe s l 0x7010 2),
      minSvn := BitVec.ofNat 32 (max s.fuse.minSvn.toNat (wouldBe s l 0x7010 3 % 2 ^ 32)) } }

/-- Every active view is whole again (R464). -/
def applyGroups (s : State) (l : List (Nat × List Byte)) : State :=
  let t := storeMembers s l
  { t with baker := { t.baker with slots := t.baker.slots.map fun e => (e.1, { e.2 with replica := { e.2.replica with dropped := 0 } }) } }

/-- Apply the members of a set. -/
def applySet (s : State) (n : Nat) (l : List (Nat × List Byte)) : State :=
  match n with
  | 2 => applyRects s l
  | 4 => applyIds s l
  | 6 => applyPool s l
  | 7 => applyBindings s l
  | 0x11 => (List.range 16).foldl (fun t i => withHearth t i id) (storeMembers s l)
  | 0x12 => s.modRec fun r => { r with railMap := wouldBytes s l 0x2102 1 }
  | 0x13 => applyPolicy s l
  | 0x14 => applyGroups s l
  | 0x15 => (stagedSlots l 0x6010).foldl (fun t e => if (t.bake e.1).place.isSome then writeBounds t e.1 else t) (storeMembers s l)
  | _ => storeMembers s l

/-- No step of the bake is in progress, or its commit is (R457, R465). -/
def betweenSteps (k : Bake) : Bool := k.item.isNone || k.committing || !k.begun

/-- The boundary of a set has come (R374, R457, R465). -/
def atSetBoundary (s : State) (n : Nat) (l : List (Nat × List Byte)) : Bool :=
  match n with
  | 6 => !(s.ring.dmas.any fun d => d.parked.isSome)
  | 0x14 => (stagedSlots l 0x6001).all fun e => betweenSteps (s.bake e.1)
  | 0x15 => (stagedSlots l 0x6010).all fun e => betweenSteps (s.bake e.1)
  | _ => true

/-- Apply a set that is due, its generation going up; where presence has gone it is refused instead (R375). -/
def applyDue (s : State) (n : Nat) : State :=
  let g := mget {} s.ctl.dict.due n
  if g.vals.isEmpty || !atSetBoundary s n g.vals then s
  else
    let t := s.modDict fun d => { d with due := mset {} d.due n {} }
    if checkPresence s n ≠ 0 then t
    else (applySet t n g.vals).modDict fun d => { d with gens := mmod 0 d.gens n (· + 1) }

/-! ### What a write does -/

/-- Scope a reset request names (R443). -/
def scopeNamed (s : State) (level target : Nat) : Option ResetScope :=
  match level with
  | 1 => if 1 ≤ target ∧ target ≤ gridSize s then some (.core (target - 1)) else none
  | 2 => if h : target < 16 then some (.hearth ⟨target, h⟩) else none
  | 3 => if 1 ≤ target ∧ target ≤ 64 ∧ (rectOf s target).isSome = true then some (.rect target) else none
  | 4 => if target = 0 then some .warm else none
  | 5 => if target = 0 then some .whole else none
  | _ => none

/-- A write of 0x7100.02. -/
def writeReset (s : State) (v : Nat) : Nat × State :=
  let w : U32 := BitVec.ofNat 32 v
  let bnd := if fld w 23 22 = 0 then setting s 0x7100 4 else fld w 23 22
  if fld w 31 28 ≠ 0 ∨ fld w 21 16 ≠ 0 ∨ fld w 23 22 = 3 then (0x06090030, s)
  else match scopeNamed s (fld w 27 24) (fld w 15 0) with
    | none => (0x06090030, s)
    | some a => (0, requestReset (putSetting s 0x7100 2 v) a (if bnd = 1 then .drain else .absorb) 1)

/-- A write of 0x6100.01 (R476). -/
def writeMonitor (s : State) (v : Nat) : Nat × State :=
  let w : U32 := BitVec.ofNat 32 v
  let cmd := fld w 31 28
  let index := fld w 23 8
  let sub := fld w 7 0
  if fld w 27 24 ≠ 0 ∨ cmd = 0 ∨ 4 < cmd ∨ (monitorNames s index sub).isEmpty = true then (0x06090030, s)
  else (0, monitorCommand s cmd index sub fun m =>
    match cmd with
    | 1 => { m with armed := true }
    | 2 => { m with armed := false }
    | 3 => m.cleared
    | _ => {})

/-- A write of 0x341D.b (R263). -/
def writeTarget (s : State) (b t : Nat) : Nat × State :=
  match startMigration s b t 0 with
  | some u => (0, u)
  | none => (0x08000024, s)

/-- What a checked write of a scalar entry outside the commit sets does: the abort code and the state after it. -/
def writeScalar (s : State) (master index sub v : Nat) : Nat × State :=
  match index, sub with
  | 0x1100, 2 => writeAcquire s master v
  | 0x1101, 2 => writeWindow s v
  | 0x1111, 1 => commitSet s v
  | 0x1111, _ => (0, dropStaging s v)
  | 0x2010, n => (0, withHearth (putSetting s index sub v) (n - 1) id)
  | 0x2014, n => setPower s (n - 1) v
  | 0x2104, n => if v = 1 then returnManaged s (n - 1) else (0, s)
  | 0x341D, b => writeTarget s b v
  | 0x4104, p => (0, setPortEnable s (p - 1) (decide (v = 1)))
  | 0x6022, b => restoreBank s b v
  | 0x6030, _ => acknowledge s (BitVec.ofNat 64 v)
  | 0x6100, _ => writeMonitor s v
  | 0x7100, 2 => writeReset s v
  | 0x7110, 3 => startRescueReset s v
  | 0x7110, _ => (0, if v = 1 then startReload s else s)
  | _, _ => (0, putSetting s index sub v)

/-- Type, length and offset of a write agree with its entry (R359 check 5, R365). -/
def writeFits (e : Entry) (code off : Nat) (data : List Byte) : Bool :=
  decide (code = e.code) &&
    (if e.code = tDom ∧ e.cset ≠ 0 then decide (1 ≤ data.length) && decide (off + data.length ≤ e.size)
     else decide (off = 0) && decide (data.length = e.size))

/-- A DATE with a reserved byte of 0 that R390 accepts. -/
def dateFits (l : List Byte) : Bool := decide (ofLe (slice l 7 1) = 0) && dateOk (dateOfBytes l)

/-- The value a write would leave lies in its range (R359 check 9). -/
def valueFits (s : State) (e : Entry) (sub off : Nat) (data : List Byte) : Bool :=
  if e.code = tDom then domainOk e.index (if e.cset = 0 then data else stagedAfter s e sub off data)
  else if e.code = tDate then dateFits data
  else scalarOk e.index sub (ofLe data)

/-- Checks 3 to 9 of R359 for a write: the first abort code, 0 where every check passes. -/
def writeCode (s : State) (e : Entry) (master sub code off : Nat) (data : List Byte) (rsv : Bool) : Nat :=
  if master ≠ 1 ∧ master ≠ 2 then 0x08000026
  else if e.acc = .ro ∨ e.acc = .const then 0x06010002
  else if !writeFits e code off data then 0x06070010
  else if e.acc ≠ .rw ∧ s.aon.holder.toNat ≠ master then 0x08000021
  else if e.acc = .rwp ∧ s.aon.window = false then 0x08000022
  else if e.index = 0x1200 ∧ s.ctl.dict.locked = true ∧ s.aon.window = false then 0x08000027
  else if rsv || !valueFits s e sub off data then 0x06090030
  else 0

/-- What a write that passed every check does. -/
def doWrite (s : State) (e : Entry) (master sub off : Nat) (data : List Byte) : Nat × State :=
  if e.cset ≠ 0 then (0, stageValue s e.cset e.index sub (stagedAfter s e sub off data))
  else if e.code = tDom then (0, s.modDict fun d => { d with domain := mset [] d.domain (dkey e.index sub) data })
  else if e.code = tDate then setCalendar s (dateOfBytes data)
  else writeScalar s master e.index sub (ofLe data)

/-- WRITE (R359, R365): the abort code and the state after it. A successful RWS or RWP write by the holder restarts the lease
(R371). `rsv` marks a request head with a reserved bit set (R9). -/
def writeEntry (s : State) (master index sub code off : Nat) (data : List Byte) (rsv : Bool) : Nat × State :=
  match findEntry s index sub with
  | .error c => (c, s)
  | .ok e =>
    let c := writeCode s e master sub code off data rsv
    if c ≠ 0 then (c, s)
    else
      let r := doWrite s e master sub off data
      (r.1, if r.1 = 0 ∧ e.acc ≠ .rw ∧ r.2.aon.holder.toNat = master then renewLease r.2 else r.2)

end Sys2Proof.Machine
end

