-- ==== Sys2Proof/Machine/Frames.lean ====
section
/-! DEFINITION. Frames of the dictionary protocol: parsing, execution, sessions, the host window and rescue frames (R363 to
R367, R370, R394). -/

namespace Sys2Proof.Machine

/-- A request of a frame with its data (R365). -/
structure Request where
  op    : Nat
  code  : Nat
  index : Nat
  sub   : Nat
  rsv   : Bool
  len   : Nat
  off   : Nat
  data  : List Byte
  deriving DecidableEq, Repr

def opRead : Nat := 1
def opWrite : Nat := 2
def opReadStaged : Nat := 3

/-- `n` requests from the bytes behind a header; data follow the head of a WRITE only. -/
def parseRequests : Nat → List Byte → Option (List Request)
  | 0, _ => some []
  | n + 1, l =>
    let w : BitVec 128 := BitVec.ofNat 128 (ofLe (l.take 16))
    let op := fld w 127 120
    let size := if op = opWrite then fld w 79 64 else 0
    let padded := 4 * ceilDiv size 4
    if l.length < 16 + padded then none
    else
      let r : Request :=
        { op := op, code := fld w 119 112, index := fld w 111 96, sub := fld w 95 88,
          rsv := decide (fld w 87 80 ≠ 0) || decide (fld w 31 0 ≠ 0), len := fld w 79 64, off := fld w 63 32, data := slice l 16 size }
      (parseRequests n (l.drop (16 + padded))).map (r :: ·)

/-- A request frame: version, session, sequence number, requests; none for a frame that is discarded (R363, R364). -/
def parseFrame (limit : Nat) (l : List Byte) : Option (Nat × Nat × Nat × List Request) :=
  let h : BitVec 128 := BitVec.ofNat 128 (ofLe (l.take 16))
  if l.length < 16 ∨ limit < l.length ∨ fld h 127 112 ≠ 0xE1D1 ∨ fld h 95 88 ≠ 1 ∨ fld h 87 80 = 0 ∨ 32 < fld h 87 80 then none
  else (parseRequests (fld h 87 80) (l.drop 16)).map fun r => (fld h 111 96, fld h 63 32, fld h 31 0, r)

/-- Header of a response frame (R364). -/
def responseHeader (ver n session seq : Nat) : List Byte :=
  leBytes 16 (0xE1D1 * 2 ^ 112 + ver * 2 ^ 96 + 2 * 2 ^ 88 + n * 2 ^ 80 + session * 2 ^ 32 + seq)

/-- One response: head, data and padding (R365). -/
def responseBytes (r : Request) (abort : Nat) (data : List Byte) : List Byte :=
  leBytes 16 (r.op * 2 ^ 120 + r.code * 2 ^ 112 + r.index * 2 ^ 96 + r.sub * 2 ^ 88 + data.length * 2 ^ 64 + r.off * 2 ^ 32 + abort) ++
    padTo 0 (4 * ceilDiv data.length 4) data

/-- A request that executes whatever version its frame has (R370). -/
def versionExempt (r : Request) : Bool :=
  ((decide (r.op = opRead) || decide (r.op = opReadStaged)) && decide (0x1000 ≤ r.index) && decide (r.index ≤ 0x10FF)) ||
    (decide (r.op = opWrite) && decide (r.index = 0x1002))

/-- Version selected for a master (0x1002). -/
def selectedVersion (s : State) (master : Nat) : Nat := setting s 0x1002 (if master = 0 then 3 else master)

/-- Staged value of an entry, where it is a member that is staged. -/
def stagedValue (s : State) (index sub : Nat) : Option (List Byte) :=
  match findEntry s index sub with
  | .ok e => if e.cset = 0 then none else stagedIn (stagingOf s e.cset).vals index sub
  | .error _ => none

/-- Execute one request: abort code, data read, state after it. -/
def runRequest (s : State) (master ver room : Nat) (r : Request) : Nat × List Byte × State :=
  if ver ≠ selectedVersion s master ∧ ¬ (ver = 0x0100 ∧ versionExempt r = true) then (0x08000029, [], s)
  else if r.op = opRead then
    let x := readEntry s r.index r.sub r.code r.off r.len room none
    (x.1, x.2, s)
  else if r.op = opReadStaged then
    let x := readEntry s r.index r.sub r.code r.off r.len room (stagedValue s r.index r.sub)
    (x.1, x.2, s)
  else if r.op = opWrite then
    let x := writeEntry s master r.index r.sub r.code r.off r.data r.rsv
    (x.1, [], x.2)
  else (0x08000031, [], s)

/-- Execute requests in order, each on the state the earlier ones left; room is kept for the heads of those that follow
(R365, R366). -/
def runRequests (run : State → Nat → Request → Nat × List Byte × State) : State → Nat → List Request → List Byte × State
  | s, _, [] => ([], s)
  | s, left, r :: t =>
    let x := run s (4 * ((left - 16 * (t.length + 1)) / 4)) r
    let b := responseBytes r x.1 x.2.1
    let y := runRequests run x.2.2 (left - b.length) t
    (b ++ y.1, y.2)

/-- Every request of a frame aborted with one code. -/
def abortAll (code : Nat) (s : State) (_room : Nat) (_r : Request) : Nat × List Byte × State := (code, [], s)

/-- Response frame of a parsed frame, and the state after it. -/
def answer (s : State) (limit : Nat) (run : State → Nat → Request → Nat × List Byte × State) (f : Nat × Nat × Nat × List Request) :
    List Byte × State :=
  let x := runRequests run s (limit - 16) f.2.2.2
  (responseHeader f.1 f.2.2.2.length f.2.1 f.2.2.1 ++ x.1, x.2)

/-- The dictionary is served: the device is ready and its active Stoker runs (R447, R451). -/
def served (s : State) : Bool := decide (s.recov.dev = 3) && decide ((s.proc (stokerNo s.recov.active)).state = 0) && decide (s.recov.active ≠ 0)

/-! ### Management ports (R363 to R366) -/

/-- Longest frame of a management port and of the host window (R363, R367). -/
def portFrame : Nat := 1452
def hostFrame : Nat := 4096

def mgmtPort (s : State) (p : Fin 2) : MgmtPort := if p = 0 then s.ctl.portA else s.ctl.portB

def modMgmt (s : State) (p : Fin 2) (f : MgmtPort → MgmtPort) : State :=
  if p = 0 then { s with ctl := { s.ctl with portA := f s.ctl.portA } } else { s with ctl := { s.ctl with portB := f s.ctl.portB } }

/-- A session becomes the most recently used of at most 16. -/
def keepSession (l : List Session) (x : Session) : List Session :=
  let m := (l.filter fun e => decide (e.id ≠ x.id)) ++ [x]
  m.drop (m.length - 16)

/-- A response joins those a session holds, at most 64. -/
def holdResponse (x : Session) (seq : U32) (b : List Byte) : Session :=
  let m := x.held ++ [(seq, b)]
  { x with held := m.drop (m.length - 64) }

/-- A frame whose seq is below the oldest response held for its session (R366). -/
def staleSeq (x : Session) (seq : U32) : Bool :=
  match x.held with
  | [] => false
  | e :: _ => decide (seq.toNat < e.1.toNat)

/-- A frame that parses, from a port that is served: repeated, stale, or executed and its response held. -/
def handleFrame (s : State) (p : Fin 2) (f : Nat × Nat × Nat × List Request) : State :=
  let id : U32 := BitVec.ofNat 32 f.2.1
  let seq : U32 := BitVec.ofNat 32 f.2.2.1
  let x : Session := ((mgmtPort s p).sessions.find? fun e => decide (e.id = id)).getD ⟨id, []⟩
  match x.held.find? fun e => decide (e.1 = seq) with
  | some e => modMgmt s p fun q => { q with sessions := keepSession q.sessions x, repeated := q.repeated + 1, response := e.2 }
  | none =>
    if staleSeq x seq then
      modMgmt s p fun q => { q with sessions := keepSession q.sessions x, stale := q.stale + 1, response := [] }
    else
      let y := answer s portFrame (fun t room r => runRequest t (p.val + 1) f.1 room r) f
      modMgmt y.2 p fun q =>
        { q with sessions := keepSession q.sessions (holdResponse x seq y.1), executed := q.executed + 1, response := y.1 }

/-- MANAGEMENT_FRAME on port MGMT-A (0) or MGMT-B (1). In rescue mode RESCUE_FRAME answers instead. -/
def execManagementFrame (p : Fin 2) (frame : List Byte) (s : State) : Out :=
  .next
    (if s.aon.rescue ≠ 0 then s
     else match parseFrame portFrame frame with
       | none => modMgmt s p fun q => { q with malformed := q.malformed + 1, response := [] }
       | some f =>
         if served s then handleFrame s p f
         else modMgmt s p fun q => { q with response := (answer s portFrame (abortAll 0x08000028) f).1 })

/-! ### The host window (R367) -/

/-- DICT_DB: the frame in DICT_REQ is executed for the host, without sessions, and the response is in DICT_RSP; a frame that
does not parse leaves it empty. -/
def execDictDb (s : State) : Out :=
  let frame := (List.range hostFrame).map fun i => mget 0 s.ctl.dictReq i
  .next
    (match parseFrame hostFrame frame with
     | none => { s with ctl := { s.ctl with dictRsp := [], dictBusy := false } }
     | some f =>
       let y := if served s && decide (s.aon.rescue = 0) then answer s hostFrame (fun t room r => runRequest t 0 f.1 room r) f
         else answer s hostFrame (abortAll 0x08000028) f
       { y.2 with ctl := { y.2.ctl with dictRsp := y.1, dictBusy := false } })

/-! ### Rescue mode (R394, R454) -/

/-- Entries the rescue sequencer reads. -/
def rescueReadable (r : Request) : Bool :=
  decide (r.index = 0x7110) || (decide (r.index = 0x1000) && decide (1 ≤ r.sub) && decide (r.sub ≤ 5)) ||
    (decide (r.index = 0x1100) && decide (r.sub = 1)) || (decide (r.index = 0x1101) && decide (r.sub = 1))

/-- One request to the rescue sequencer. -/
def rescueRequest (s : State) (master room : Nat) (r : Request) : Nat × List Byte × State :=
  if r.op = opRead ∧ rescueReadable r = true then
    let x := readEntry s r.index r.sub r.code r.off r.len room none
    (x.1, x.2, s)
  else if r.op = opWrite ∧ r.index = 0x7110 then
    let x := writeEntry s master r.index r.sub r.code r.off r.data r.rsv
    (x.1, [], x.2)
  else (0x08000041, [], s)

/-- RESCUE_FRAME: the rescue sequencer answers, without sessions. -/
def execRescueFrame (p : Fin 2) (frame : List Byte) (s : State) : Out :=
  .next
    (if s.aon.rescue = 0 then s
     else match parseFrame portFrame frame with
       | none => modMgmt s p fun q => { q with malformed := q.malformed + 1, response := [] }
       | some f =>
         let y := answer s portFrame (fun t room r => rescueRequest t (p.val + 1) room r) f
         modMgmt y.2 p fun q => { q with response := y.1 })

end Sys2Proof.Machine
end

