-- ==== Sys2Proof/Machine/Control.lean ====
section
/-! DEFINITION. The control plane's commands: writes of single entries, commit sets, digests, firmware messages and mailboxes
(R353, R371 to R390, R263, R355, R427, R433, R469, R473). -/

namespace Sys2Proof.Machine

/-! ### Writes of one entry by a management master -/

/-- A master writes one scalar entry while the dictionary is served; the abort code goes to its response alone. -/
def masterWrite (s : State) (master : U8) (index sub code size v : Nat) : State :=
  if served s then (writeEntry s master.toNat index sub code 0 (leBytes size v) false).2 else s

/-- SEMAPHORE_ACQUIRE: a write of a master ID to 0x1100.02. -/
def execSemaphoreAcquire (master id : U8) (s : State) : Out := .next (masterWrite s master 0x1100 2 tU8 1 id.toNat)

/-- SEMAPHORE_RELEASE: a write of 0 to 0x1100.02. -/
def execSemaphoreRelease (master : U8) (s : State) : Out := .next (masterWrite s master 0x1100 2 tU8 1 0)

/-- LEASE_EXPIRY: the lease timer of the always-on block has run out. -/
def execLeaseExpiry (s : State) : Out := .next (if s.aon.holder ≠ 0 ∧ s.aon.leaseLeft = 0 then releaseSem s else s)

/-- WINDOW_OPEN. -/
def execWindowOpen (master : U8) (s : State) : Out := .next (masterWrite s master 0x1101 2 tU8 1 1)

/-- WINDOW_CLOSE. -/
def execWindowClose (master : U8) (s : State) : Out := .next (masterWrite s master 0x1101 2 tU8 1 0)

/-- WINDOW_EXPIRY: the window's length has run out. -/
def execWindowExpiry (s : State) : Out := .next (if s.aon.window = true ∧ s.aon.windowLeft = 0 then closeWindow s else s)

/-- COMMIT of a set. -/
def execCommit (master set : U8) (s : State) : Out := .next (masterWrite s master 0x1111 1 tU8 1 set.toNat)

/-- DISCARD of a set's staging. -/
def execDiscard (master set : U8) (s : State) : Out := .next (masterWrite s master 0x1111 2 tU8 1 set.toNat)

/-- COMMIT_APPLICATION of a set at its boundary. -/
def execCommitApplication (set : U8) (s : State) : Out := .next (applyDue s set.toNat)

/-- CALENDAR_WRITE. A date whose fields do not fit their bytes cannot be written. -/
def execCalendarWrite (master : U8) (d : Date) (s : State) : Out :=
  .next
    (if served s && decide (dateOfBytes (dateBytes d) = d) then
      (writeEntry s master.toNat 0x1400 1 tDate 0 (dateBytes d) false).2 else s)

/-- MIGRATION_TARGET: a write of 0x341D.b. -/
def execMigrationTarget (master : U8) (b t : Nat) (s : State) : Out :=
  onSlot 64 b (if t < 256 then masterWrite s master 0x341D b tU8 1 t else s)

/-- PORT_ENABLE: a write of 0x4104.p. -/
def execPortEnable (master : U8) (p : Fin 12) (en : Bool) (s : State) : Out :=
  .next (masterWrite s master 0x4104 (p.val + 1) tBool 1 (if en then 1 else 0))

/-- SWITCH_OFF: a write of 1 to 0x2014.n. -/
def execSwitchOff (master : U8) (n : Fin 16) (s : State) : Out := .next (masterWrite s master 0x2014 (n.val + 1) tU8 1 1)

/-- SWITCH_ON: a write of 0 to 0x2014.n. -/
def execSwitchOn (master : U8) (n : Fin 16) (s : State) : Out := .next (masterWrite s master 0x2014 (n.val + 1) tU8 1 0)

/-- RETURN_TO_MANAGED: a write of 1 to 0x2104.r. -/
def execReturnToManaged (master : U8) (n : Fin 16) (s : State) : Out := .next (masterWrite s master 0x2104 (n.val + 1) tBool 1 1)

/-- RESTORE: a write of 0x6022.b. -/
def execRestore (master : U8) (b area : Nat) (s : State) : Out :=
  onSlot 64 b (if area < 256 then masterWrite s master 0x6022 b tU8 1 area else s)

/-- ACKNOWLEDGED: a write of 0x6030.04. -/
def execAcknowledged (master : U8) (seq : U64) (s : State) : Out := .next (masterWrite s master 0x6030 4 tU64 8 seq.toNat)

/-! ### Digests between devices (R353, R378, R379) -/

/-- Payload of a DIGEST frame (R378). -/
def digestPayload (s : State) : List Byte :=
  leBytes 4 (setting s 0x4100 2) ++ leBytes 2 (deviceId s) ++ List.replicate 10 0 ++ sharedDigest s ++ routeDigest s ++ bakeDigest s ++
    List.replicate 64 0

/-- DIGEST_SEND: a DIGEST frame to each up port; a device without an ID sends none (R338). -/
def execDigestSend (s : State) : Out :=
  let w := blockWords (digestPayload s)
  .next
    (if deviceId s = 0xFFFF then s
     else (List.range 12).foldl
       (fun t p => if portUp t p then queueOut t p (newFrame t 4 1 (t.port p).peerDev.toNat w) else t) s)

/-- Expected digest, 0x1130.04 or .05, differs from the peer's; all zero is not checked. -/
def expectedDiffers (s : State) (sub : Nat) (got : List Byte) : Bool :=
  let x := liveDomain s 0x1130 sub
  x.any (fun b => decide (b ≠ 0)) && decide (x ≠ got)

/-- DIGEST: the first received DIGEST frame of a port is compared; a mismatch begins, goes on or ends. -/
def execDigest (p : Fin 12) (s : State) : Out :=
  .next
    (match (s.port p).rx.find? fun f => decide (f.ftype = 4) with
     | none => s
     | some f =>
       let t := takeRx s p f true
       let l := wordsBytes f.data
       let bad := decide (slice l 16 16 ≠ sharedDigest s) || expectedDiffers s 4 (slice l 32 16) || expectedDiffers s 5 (slice l 48 16)
       t.modPort p fun q =>
         { q with mismatch := bad, reported := bad && q.mismatch && q.reported,
                  peerBad := if bad then BitVec.ofNat 16 (ofLe (slice l 4 2)) else q.peerBad })

/-- DIGEST_MISMATCH_HOLD: a mismatch has lasted 0x1130.07 and is reported once. -/
def execDigestMismatchHold (p : Fin 12) (s : State) : Out :=
  .next
    (let q := s.port p
     if q.mismatch = true ∧ q.reported = false then
       let v := p.val + q.peerBad.toNat * 2 ^ 16
       let t := s.modPort p fun q => { q with reported := true }
       let t : State := { t with links := { t.links with mismatches := t.links.mismatches + 1, lastBad := BitVec.ofNat 32 v } }
       raiseS t 0x1130 6 2 v
     else s)

/-! ### Mailboxes (R382 to R386) -/

/-- Binding of a channel (R387). -/
def bindingOf (s : State) (k : Nat) : U32 := BitVec.ofNat 32 (setting s 0x1200 (k + 1))

/-- A master stands for a bound ID: either Stoker stands for both (R451). -/
def standsFor (master id : Nat) : Bool :=
  decide (master = id) || ((decide (master = 8) || decide (master = 9)) && (decide (id = 8) || decide (id = 9)))

def isWriter (s : State) (k master : Nat) : Bool := bitAt (bindingOf s k) 0 && standsFor master (fld (bindingOf s k) 23 16)
def isReader (s : State) (k master : Nat) : Bool := bitAt (bindingOf s k) 0 && standsFor master (fld (bindingOf s k) 15 8)

/-- Refuse a write: counted; a host write is dropped with DROP and an event (R385). -/
def refuseWrite (s : State) (k master code : Nat) : Nat × State :=
  let t := s.modBox k fun x => { x with refused := x.refused + 1, drop := x.drop || decide (master = 0) }
  (code, if master = 0 then raiseS t 0x1210 (k + 1) 0 k else t)

/-- What may keep a write from a channel: status 0x0800_002A while it is FULL, 0x0800_002B for a master that is not its
writer; 0 for none. -/
def writeRefusal (s : State) (k master : Nat) : Nat :=
  if !isWriter s k master then 0x0800002B else if (s.box k).full then 0x0800002A else 0

/-- Store one register; register 15 keeps nreg and tag, and GO makes the channel FULL (R383). -/
def storeRegister (s : State) (k j : Nat) (v : U32) : State :=
  s.modBox k fun x =>
    if j = 15 then
      { x with
        regs := mset 0 x.regs 15 (v &&& 0x000FFFFF), full := x.full || bitAt v 31,
        goneAt := if bitAt v 31 then s.flue.cycle else x.goneAt }
    else { x with regs := mset 0 x.regs j v }

/-- DONE: the reader ends the message (R383). -/
def endMessage (s : State) (k : Nat) : State := s.modBox k fun x => { x with full := false, drop := false }

/-- A write of register `j` by a master: a reader's DONE, a writer's write, or a refusal. -/
def mailboxWrite (s : State) (k j master : Nat) (v : U32) : Nat × State :=
  if j = 15 ∧ bitAt v 28 = true ∧ bitAt v 31 = false then
    (if isReader s k master then (0, endMessage s k) else refuseWrite s k master 0x0800002B)
  else
    let c := writeRefusal s k master
    if c = 0 then (0, storeRegister s k j v) else refuseWrite s k master c

/-- Register as a master reads it: 0 for one bound to neither end; register 15 shows FULL and DROP (R383, R385). -/
def mailboxRead (s : State) (k j master : Nat) : U32 :=
  let x := s.box k
  if !(isWriter s k master || isReader s k master) then 0
  else if j = 15 then setBit (setBit (mget 0 x.regs 15) 30 x.full) 29 x.drop
  else mget 0 x.regs j

/-- MB_PEND: channels that are FULL with the host as reader (R386). -/
def mbPend (s : State) : List Nat := (List.range 256).filter fun k => (s.box k).full && isReader s k 0

/-- GO: a write of register 15 with GO set. -/
def execGo (k : Fin 256) (master : U8) (v : U32) (s : State) : Out :=
  .next (mailboxWrite s k.val 15 master.toNat (setBit v 31 true)).2

/-- DONE: a write of register 15 with DONE set. -/
def execDone (k : Fin 256) (master : U8) (s : State) : Out := .next (mailboxWrite s k.val 15 master.toNat 0x10000000).2

/-- MAILBOX_REGISTER_WRITE. -/
def execMailboxRegisterWrite (k : Fin 256) (j : Fin 16) (master : U8) (v : U32) (s : State) : Out :=
  .next (mailboxWrite s k.val j.val master.toNat v).2

/-! ### Firmware messages (R380, R381) -/

/-- Registers a mailbox-write message names, with their values in ascending order (R386). -/
def messageRegs (body : List Byte) : List (Nat × U32) :=
  let mask : U16 := BitVec.ofNat 16 (ofLe (slice body 2 2))
  ((List.range 16).filter (bitAt mask)).zipIdx.map fun e => (e.1, BitVec.ofNat 32 (ofLe (slice body (4 + 4 * e.2) 4)))

/-- The mailbox write a message carries, as one write: its status and effect. -/
def mailboxMessage (s : State) (m : FwMsg) : Nat × State :=
  let k := ofLe (slice m.body 0 1)
  let l := messageRegs m.body
  let ends := l.any fun e => decide (e.1 = 15) && bitAt e.2 28 && !bitAt e.2 31
  if ends then mailboxWrite s k 15 m.srcm.toNat 0x10000000
  else
    let c := writeRefusal s k m.srcm.toNat
    if c = 0 then (0, l.foldl (fun t e => storeRegister t k e.1 e.2) s) else refuseWrite s k m.srcm.toNat c

/-- Master a message is delivered to: the active Stoker for either Stoker's ID (R451). -/
def receiverOf (s : State) (dstm : U8) : U8 := if dstm = 8 ∨ dstm = 9 then s.recov.active else dstm

/-- The firmware processor with a master ID runs, or stands by. -/
def processorRuns (s : State) (id : U8) : Bool :=
  ((List.range 30).any fun i => decide (masterOf (i + 1) = id.toNat) && processorPowered s (i + 1) &&
    (decide ((s.proc (i + 1)).state = 0) || decide ((s.proc (i + 1)).state = 3)))

/-- Numbers kept for a source and destination. -/
def seenOf (s : State) (m : FwMsg) : List (U16 × U32) :=
  ((s.ctl.seen.find? fun e => decide (e.1 = m.srcm) && decide (e.2.1 = m.dstm)).map (·.2.2)).getD []

/-- Keep a number with the status answered: the last 32. -/
def keepSeen (s : State) (m : FwMsg) (status : U32) : State :=
  let l := seenOf s m ++ [(m.mseq, status)]
  let rest := s.ctl.seen.filter fun e => !(decide (e.1 = m.srcm) && decide (e.2.1 = m.dstm))
  { s with ctl := { s.ctl with seen := rest ++ [(m.srcm, m.dstm, l.drop (l.length - 32))] } }

/-- The acknowledgment of a message goes back where it came from. -/
def acknowledgeMsg (s : State) (dev : Option Nat) (m : FwMsg) (status : U32) : State :=
  dispatchMsg s dev { dstm := m.srcm, srcm := m.dstm, mclass := 2, mseq := 0, mack := m.mseq, status := status, body := [] }

/-- A mailbox write or firmware-private message is executed once and acknowledged; one for a processor that does not run is
lost, to be sent again. -/
def takeMessage (s : State) (dev : Option Nat) (m : FwMsg) : State :=
  match (seenOf s m).find? fun e => decide (e.1 = m.mseq) with
  | some e => acknowledgeMsg s dev m e.2
  | none =>
    if m.mclass = 1 then
      let x := mailboxMessage s m
      acknowledgeMsg (keepSeen x.2 m (BitVec.ofNat 32 x.1)) dev m (BitVec.ofNat 32 x.1)
    else if processorRuns s (receiverOf s m.dstm) then
      let t : State := { s with ctl := { s.ctl with delivered := { m with dstm := receiverOf s m.dstm } :: s.ctl.delivered } }
      acknowledgeMsg (keepSeen t m 0) dev m 0
    else s

/-- An arrived message by its class. -/
def receiveMessage (s : State) (dev : Option Nat) (m : FwMsg) : State :=
  if m.mclass = 2 then
    { s with ctl := { s.ctl with unacked := s.ctl.unacked.filter fun u =>
        !(decide (u.msg.srcm = m.dstm) && decide (u.msg.dstm = m.srcm) && decide (u.msg.mseq = m.mack)) } }
  else if m.mclass = 1 ∨ m.mclass = 3 then takeMessage s dev m
  else { s with ctl := { s.ctl with msgDrops := s.ctl.msgDrops + 1 } }

/-- Take a message off the die: the flit of an agent that carries it, or its entry on the control chains (log entry 143). -/
def takeOnDie (s : State) (m : FwMsg) : State :=
  match s.flue.ring.find? fun e => decide (e.2.data = msgWords m) with
  | some e => { s with flue := { s.flue with ring := eraseFirst e s.flue.ring } }
  | none => { s with ctl := { s.ctl with onDie := eraseFirst m s.ctl.onDie } }

/-- FIRMWARE_MESSAGE: on the die, or in the first CTL frame a port has received for this device. -/
def execFirmwareMessage (port : Option (Fin 12)) (m : FwMsg) (s : State) : Out :=
  .next
    (match port with
     | none => receiveMessage (takeOnDie s m) none m
     | some p =>
       match (s.port p).rx.find? fun f => decide (f.ftype = 2) && decide (f.dst = deviceId s) with
       | none => s
       | some f =>
         if wordsBytes f.data = padTo 0 128 (msgBytes m) then receiveMessage (takeRx s p f true) (some f.src) m else s)

/-- Processor number of a master ID; 0 for none. -/
def processorOf (id : U8) : Nat := (((List.range 30).find? fun i => decide (masterOf (i + 1) = id.toNat)).map (· + 1)).getD 0

/-- MESSAGE_RESEND: 200 µs without an acknowledgment, or a draught compile has ended; the eighth unanswered send is the
last. -/
def execMessageResend (srcm dstm : U8) (mseq : U16) (s : State) : Out :=
  .next
    (match s.ctl.unacked.find? fun u => decide (u.msg.srcm = srcm) && decide (u.msg.dstm = dstm) && decide (u.msg.mseq = mseq) with
     | none => s
     | some u =>
       if 8 ≤ u.sends then
         let t : State := { s with ctl := { s.ctl with unacked := eraseFirst u s.ctl.unacked } }
         raiseS t 0x7000 (processorOf dstm) 1 dstm.toNat
       else
         let l := s.ctl.unacked.map fun x => if x = u then { x with sends := x.sends + 1 } else x
         dispatchMsg { s with ctl := { s.ctl with unacked := l } } u.dev u.msg)

end Sys2Proof.Machine
end

