-- ==== Sys2Proof/Machine/Rings.lean ====
section
/-! DEFINITION. The work rings: host registers (R272 to R275), acceptance (R280 to R282), readiness and cancellation (R291,
R292), the items (R276 to R279, R287, R290, R297), and completion records (R285, R286). -/

namespace Sys2Proof.Machine

/-! ### Host registers -/

/-- A ring write ignored because the ring is enabled: counted at 0x5000.05, with an event (R274). -/
def ignoreWrite (s : State) (r : Nat) : State :=
  raiseS { s with ring := { s.ring with ignored := s.ring.ignored + 1 } } 0x5000 5 0 r

/-- RING_CTL with its reserved fields at 0 and err kept. -/
def ctlBits (old val : U64) : U64 := putFld (putFld (putFld val 63 53 0) 15 0 0) 30 30 (fld old 30 30)

/-- The fields of RING_CTL that an enabled ring keeps: pv, pasid, lg (R274). -/
def keptFields (w : U64) : Nat × Nat := (fld w 52 32, fld w 29 25)

def keepFields (old val : U64) : U64 := putFld (putFld val 52 32 (fld old 52 32)) 29 25 (fld old 29 25)

/-- RING_CTL written without a change of en: an enabled ring takes imod and ie and ignores a change of the others; en written 0
clears err (R273, R274). -/
def writeCtl (s : State) (r : Nat) (val : U64) : State :=
  let g := s.workRing r
  let v := ctlBits g.ctl val
  if rcEn g.ctl then
    let t := s.modRing r fun g => { g with ctl := setBit (keepFields g.ctl v) 31 true }
    if keptFields v = keptFields g.ctl then t else ignoreWrite t r
  else s.modRing r fun g => { g with ctl := setBit (setBit v 31 false) 30 false }

/-- A base register, ignored while the ring is enabled. -/
def writeBase (s : State) (r : Nat) (f : Ring → Ring) : State :=
  if rcEn (s.workRing r).ctl then ignoreWrite s r else s.modRing r f

/-- One of the three staged parts of a channel-table entry (R345). -/
def stageChannel (s : State) (n part : Nat) (val : U64) : State :=
  s.modChannel n fun c => { c with stage := putFld c.stage (64 * part + 63) (64 * part) val.toNat }

/-- REGISTER_WRITE: a BAR0 register without behaviour of its own (R272, R345, R367). -/
def execRegisterWrite (reg : BarReg) (val : U64) (s : State) : Out :=
  .next (match reg with
    | .descBase r => writeBase s r fun g => { g with descBase := val }
    | .alogBase r => writeBase s r fun g => { g with alogBase := val }
    | .cmplBase r => writeBase s r fun g => { g with cmplBase := val }
    | .ptRoot r => writeBase s r fun g => { g with ptRoot := val }
    | .ringCtl r => if rcEn val = rcEn (s.workRing r).ctl then writeCtl s r val else s
    | .invRoot => { s with ring := { s.ring with invRoot := val } }
    | .fqBase => { s with ring := { s.ring with fqBase := val } }
    | .fqHead => { s with ring := { s.ring with fqHead := val } }
    | .dictReq off =>
      { s with ctl := { s.ctl with
          dictReq := (leBytes 8 val.toNat).zipIdx.foldl (fun m e => if off + e.2 < 0x1000 then mset 0 m (off + e.2) e.1 else m) s.ctl.dictReq } }
    | .channel n part => stageChannel s n part val)

/-- RING_ENABLE: en is set where lg and the bases allow it; otherwise it stays 0 and an event is raised (R274). -/
def execRingEnable (r : Fin 64) (val : U64) (s : State) : Out :=
  .next
    (let g := s.workRing r
     let v := ctlBits g.ctl val
     if rcEn g.ctl || !rcEn val then s
     else
       let aligned (a : U64) : Bool := decide (fld a 11 0 = 0)
       if 4 ≤ rcLg v ∧ rcLg v ≤ 16 ∧ (aligned g.descBase && aligned g.alogBase && aligned g.cmplBase) = true then
         s.modRing r fun g => { g with ctl := v }
       else raiseS (s.modRing r fun g => { g with ctl := setBit v 31 false }) 0x5001 (r + 1) 0 r)

/-- RING_DISABLE: en is written 0: acceptance stops at once and err clears; items accepted go on (R273, R274). -/
def execRingDisable (r : Fin 64) (val : U64) (s : State) : Out :=
  .next
    (let g := s.workRing r
     if !rcEn g.ctl || rcEn val then s
     else
       let v := ctlBits g.ctl val
       let t := s.modRing r fun g => { g with ctl := setBit (setBit (keepFields g.ctl v) 31 false) 30 false }
       if keptFields v = keptFields g.ctl then t else ignoreWrite t r)

/-- TAIL: the index after the last descriptor; a ring with more than 2^lg outstanding is frozen (R274). -/
def execTail (r : Fin 64) (val : U32) (s : State) : Out :=
  .next
    (s.modRing r fun g =>
      let g := { g with tail := val }
      if ringSize g < (val - g.chead).toNat then { g with ctl := setBit g.ctl 30 true } else g)

/-- CHEAD: the index after the last completion record consumed (R275). -/
def execChead (r : Fin 64) (val : U32) (s : State) : Out := .next (s.modRing r fun g => { g with chead := val })

/-! ### Acceptance (R280 to R282) -/

/-- The ring engine may read a descriptor (R274, R275). -/
def mayAccept (g : Ring) : Bool :=
  rcEn g.ctl && !bitAt g.ctl 30 && decide (g.head ≠ g.tail) && decide ((g.head - g.chead).toNat < ringSize g)

/-- DESCRIPTOR_ACCEPT: ledger entry, acceptance record, HEAD; `host` is what host memory holds there. -/
def execDescriptorAccept (r : Fin 64) (host : List Host.Cell) (s : State) : Out :=
  .next
    (let s := mergeHost s host
     let g := s.workRing r
     if !mayAccept g then s
     else
       let w : BitVec 512 := BitVec.ofNat 512 (hostNum s (g.descBase.toNat + 64 * (g.head.toNat % ringSize g)) 64)
       let t : Item := { index := g.head, desc := w, lref := g.lastLoad, slot := if wdOp w = 1 then 0 else wdBake w }
       let t := { t with slot := match namedSlot s r (wdBake w) g.lastLoad with
         | .slot b => if wdOp w = 1 then 0 else b
         | _ => t.slot }
       let s := s.modRing r fun g =>
         { g with ledger := g.ledger ++ [t], lastLoad := if wdOp w = 1 then some g.head else g.lastLoad, head := g.head + 1 }
       writeAccept { s with ring := { s.ring with accepted := s.ring.accepted + 1 } } r t.index)

/-! ### Readiness and cancellation (R291, R292) -/

/-- CANCEL: names an index; the next pass applies it. -/
def execCancel (r : Fin 64) (index : U32) (s : State) : Out :=
  .next (s.modRing r fun g => { g with cancels := g.cancels ++ [index] })

/-- Apply one cancel: CSTAT gets its result. -/
def applyCancel (s : State) (r : Nat) (i : U32) : State :=
  let g := s.workRing r
  let put (t : State) (c : BitVec 2) : State := t.modRing r fun g => { g with cancelIx := i, cstat := c }
  if (i - g.head).toNat < 2 ^ 31 then put s 2
  else
    match getItem s r i with
    | none => put s 1
    | some t => if t.started || t.status.isSome then put s 1 else put (endItem s r i 2 0) 0

/-- Slot of the awaited object (R276). -/
def waitSlot (s : State) (r : Nat) (t : Item) : Named :=
  if wdWbake t.desc = 0 then namedSlot s r (wdBake t.desc) t.lref else namedSlot s r (wdWbake t.desc) t.lref

/-- The item is ready: it waits for nothing, its object has reached wval, or what it names is wrong and it can only fail. -/
def itemReady (s : State) (r : Nat) (t : Item) : Bool :=
  !wdWen t.desc ||
    match waitSlot s r t with
    | .waiting => false
    | .bad => true
    | .slot b =>
      let k := s.bake b
      if k.pkg.syncs.length ≤ wdWsent t.desc ∨ soScope (nth 0 k.pkg.syncs (wdWsent t.desc)) ≠ 1 then decide (k.state ≠ 1)
      else decide (k.state ≠ 1) && decide (wdWval t.desc ≤ (syncObj s (hwSync k (wdWsent t.desc))).value.toNat)

/-- Earlier items of a ring that have not completed. -/
def earlier (g : Ring) (t : Item) : List Item := (g.ledger.takeWhile fun x => decide (x.index ≠ t.index)).filter fun x => x.status.isNone

/-- The item may start now (R277, R279): a RUN when its bake is in force and idle, a MIGRATE when no load, fence or re-placement of
its bake is under way (R264), both after every earlier item of the bake; a SIGNAL when its bake has its objects (log entry 147). -/
def itemStarts (s : State) (r : Nat) (t : Item) : Bool :=
  let op := wdOp t.desc
  if op = 2 ∨ op = 4 then
    match namedSlot s r (wdBake t.desc) t.lref with
    | .waiting => false
    | .bad => true
    | .slot b =>
      let k := s.bake b
      k.item.isNone && !k.draining && !((earlier (s.workRing r) t).any (itemOf s r b)) &&
        (if op = 2 then decide (k.state = 2) || decide (k.state = 6)
         else decide (k.state = 2) || decide (k.state = 6) || decide (k.state = 7))
  else if op = 5 then
    match namedSlot s r (wdBake t.desc) t.lref with
    | .waiting => false
    | .bad => true
    | .slot b => (s.bake b).place.isSome
  else true

/-- An earlier item of the ring, not completed, with the same nonzero token (R282). -/
def duplicateOf (g : Ring) (t : Item) : Option Item :=
  if wdToken t.desc = 0 then none else (earlier g t).find? fun x => decide (wdToken x.desc = wdToken t.desc)

/-- The second pass on one item: its token is checked (R282), and it is marked ready. -/
def readyItem (s : State) (r : Nat) (t : Item) : State :=
  if t.status.isSome || t.started || t.ready then s
  else
    match duplicateOf (s.workRing r) t with
    | some d => endItem s r t.index 9 (BitVec.ofNat 128 d.index.toNat)
    | none => if itemReady s r t then modItem s r t.index fun x => { x with ready := true } else s

/-- The third pass on one item that was ready in an earlier cycle: it may start, a reserved operation failing at once. -/
def letStart (s : State) (r : Nat) (t : Item) : State :=
  if t.status.isSome || t.started then s
  else if itemStarts s r t then
    if 6 ≤ wdOp t.desc then endInvalid (modItem s r t.index fun x => { x with started := true }) r t.index 511
    else modItem s r t.index fun x => { x with startable := true }
  else modItem s r t.index fun x => { x with startable := false }

/-- Interrupt of a ring whose moderation interval has passed (R275). -/
def imodPassed (s : State) (g : Ring) : Bool :=
  match g.irqAt with
  | none => true
  | some a => decide (a + 1600 * rcImod g.ctl ≤ s.flue.cycle)

def raiseRing (s : State) (r : Nat) : State :=
  raiseMsix (s.modRing r fun g => { g with irqAt := some s.flue.cycle, irqDue := false }) r

/-- The first pass of a ring: its cancels, in the order they came. -/
def cancelRing (s : State) (r : Nat) : State :=
  (s.workRing r).cancels.foldl (fun t i => applyCancel t r i) (s.modRing r fun g => { g with cancels := [] })

/-- One of the later passes: an action on every item, in order, as it finds it. -/
def passRing (act : State → Nat → Item → State) (s : State) (e : Nat × List U32) : State :=
  e.2.foldl
    (fun t i => match getItem t e.1 i with
      | some y => act t e.1 y
      | none => t) s

/-- Items of every ring that a test picks. -/
def ringItems (s : State) (pick : Item → Bool) : List (Nat × List U32) :=
  (List.range 64).map fun r => (r, ((s.workRing r).ledger.filter pick).map (·.index))

/-- An interrupt that moderation held back is raised when its interval has passed (R275). -/
def raiseDue (s : State) (r : Nat) : State :=
  let g := s.workRing r
  if g.irqDue && rcIe g.ctl && imodPassed s g then raiseRing s r else s

/-- READINESS_PASS: the ring engine's three passes over every accepted item: it applies cancels, marks items ready, and lets those
start that were ready before (R291); then interrupts held back by moderation. -/
def execReadinessPass (s : State) : Out :=
  let t := (List.range 64).foldl cancelRing s
  let before := ringItems t (·.ready)
  let t := (ringItems t fun _ => true).foldl (passRing readyItem) t
  .next ((List.range 64).foldl raiseDue (before.foldl (passRing letStart) t))

/-! ### Starting an item -/

/-- High bit of the first field of a descriptor that R276, R277 or R303 does not allow. -/
def descBad (w : BitVec 512) : Option Nat :=
  let op := wdOp w
  (([ (decide (fld w 485 480 ≠ 0), 485),
      (decide (fld w 455 448 ≠ 0), 455),
      (decide (fld w 127 0 ≠ 0), 127),
      (decide (op ≠ 4) && decide (wdTgt w ≠ 0), 495),
      (if op = 1 then decide (2 ^ 52 ≤ wdArg0 w) else decide (wdArg0 w ≠ 0), 383),
      (if op = 1 ∨ op = 2 then decide (2 ^ 52 ≤ wdArg1 w)
        else if op = 5 then decide (wdArg1 w / 2 ^ 32 % 2 ^ 31 ≠ 0) else decide (wdArg1 w ≠ 0), 319),
      (if op = 1 ∨ op = 2 then decide (4096 < wdArg2 w)
        else if op = 4 then decide (2 < wdArg2 w) else decide (op ≠ 5) && decide (wdArg2 w ≠ 0), 255)] : List (Bool × Nat)).find?
    (·.1)).map (·.2)

/-- The wait of an item names an object that is none of a loaded bake's globals. -/
def waitBad (s : State) (r : Nat) (t : Item) : Option Nat :=
  if !wdWen t.desc then none
  else match waitSlot s r t with
    | .slot b =>
      let k := s.bake b
      if k.pkg.syncs.length ≤ wdWsent t.desc ∨ soScope (nth 0 k.pkg.syncs (wdWsent t.desc)) ≠ 1 then some 471 else none
    | _ => some 479

/-- Start an item of an operation, unless a cancel of it has arrived that the next pass applies (R291): the checks of its
descriptor, and for a replayed item the old acceptance record (R290). `go` runs an item that passes. -/
def startItem (s : State) (r : Nat) (i : U32) (op : Nat) (go : State → Item → State) : State :=
  match getItem s r i with
  | none => s
  | some t =>
    if !t.startable || t.started || t.status.isSome || decide (wdOp t.desc ≠ op) || (s.workRing r).cancels.contains i then s
    else
      let u := modItem s r i fun x => { x with started := true }
      match (descBad t.desc).or (waitBad s r t) with
      | some bit => endInvalid u r i bit
      | none =>
        let old : W256 := BitVec.ofNat 256 (hostNum s (wdPlog t.desc) 32)
        if wdRpl t.desc = true ∧ fld old 63 56 = 3 ∧ fld old 255 192 = (wdToken t.desc).toNat then
          endItem u r i 1 (BitVec.ofNat 128 (fld old 159 128))
        else go u t

/-- Run an item on the bake it names; it is INVALID where it names none (R279). -/
def onBake (s : State) (r : Nat) (t : Item) (go : State → Nat → State) : State :=
  match namedSlot s r (wdBake t.desc) t.lref with
  | .slot b => go (modItem s r t.index fun x => { x with slot := b }) b
  | _ => endInvalid s r t.index 503

/-- NOP_ITEM: completes at once (R277). -/
def execNopItem (r : Fin 64) (i : U32) (s : State) : Out := .next (startItem s r i 0 fun t _ => endItem t r i 0 0)

/-! ### I/O tables (R278, R303) -/

/-- Entries of an I/O table: tensor and DVA, with the reserved bytes. -/
def ioEntries (l : List Byte) : List (Nat × Nat × Nat) :=
  (chunks 16 l.length l).map fun e => (ofLe (slice e 0 2), ofLe (slice e 8 8), ofLe (slice e 2 6))

/-- Read the I/O table of an item: a fault gives DVA and cause. -/
def readIo (s : State) (r : Nat) (w : BitVec 512) : Except (Nat × Nat) (List (Nat × Nat × Nat)) × State :=
  if wdArg1 w = 0 then (.ok [], s)
  else
    let q := readDva s (s.workRing r).ptRoot.toNat [] (2 * wdArg2 w) (wdArg1 w)
    match q.1 with
    | .error e => (.error e, q.2)
    | .ok l => (.ok (ioEntries l), q.2)

/-- An entry that fails the item: reserved bytes, a DVA that is too high or not a multiple of 8, no such tensor. -/
def ioBad (n : Nat) (l : List (Nat × Nat × Nat)) : Bool :=
  l.any fun e => decide (e.2.2 ≠ 0) || decide (2 ^ 52 ≤ e.2.1) || decide (e.2.1 % 8 ≠ 0) || decide (n ≤ e.1)

def ioMap (l : List (Nat × Nat × Nat)) : List (Nat × Nat) := l.map fun e => (e.1, e.2.1)

/-- A host tensor of some templates has no entry. -/
def ioMissing (p : Package) (templates : List Nat) (io : List (Nat × Nat)) : Bool :=
  templates.any fun j =>
    let m := nth 0 p.dmas j
    decide (dmSpace m = 2) && !(io.any fun e => decide (e.1 = dmTens m))

/-- Templates that the steps of the bake's instances use, and those that fill its tensors. -/
def stepTemplates (p : Package) : List Nat := (p.binds.filter fun w => decide (bnCls w = 4)).map bnObj
def fillTemplates (p : Package) : List Nat := (p.tensors.map tnLdma).filter fun j => decide (j ≠ 0xFFFF)

/-- End an item whose table or package could not be read: DVA and cause (R286). -/
def endFault (s : State) (r : Nat) (i : U32) (e : Nat × Nat) : State := endItem s r i 6 (BitVec.ofNat 128 (e.1 + 2 ^ 64 * e.2))

/-! ### LOAD (R232, R243) -/

/-- Lowest free slot. -/
def freeSlot (s : State) : Option Nat := ((List.range 64).map (· + 1)).find? fun b => decide ((s.bake b).state = 0)

/-- The rectangle is undefined or holds a bake. -/
def rectBusy (s : State) (t : Nat) : Bool :=
  (rectOf s t).isNone || s.baker.slots.any fun e => decide (e.2.state ≠ 0) && decide (e.2.tenant.toNat = t)

/-- A reject before any slot is taken. -/
def rejectEarly (s : State) (r : Nat) (i : U32) (x : Reject) : State :=
  endItem { s with baker := { s.baker with reject := x.bits } } r i 4 x.bits

/-- The defaults of 0x3101 as a bake reads them, once (R129). -/
def defaultsNow (s : State) : Nat × Nat × Nat × Bool :=
  (setting s 0x3101 1, setting s 0x3101 2, setting s 0x3101 3, decide (setting s 0x3101 4 ≠ 0))

/-- A load in a slot taken for it: checks of the package, then its I/O table, then placing; the defaults are read here, before the
checks that use them (R129). -/
def takeLoad (s : State) (r : Nat) (i : U32) (w : BitVec 512) (b : Nat) (h : W256) : State :=
  let s := s.modBake b fun _ => { state := 1, ring := r, loadIdx := i, tenant := BitVec.ofNat 8 (phTnt h), defaults := defaultsNow s }
  let s := modItem s r i fun x => { x with slot := b }
  match headerFault h with
  | some c => rejectLoad s b (pkgReject c 0 0xFFFFFF)
  | none =>
    let q := readDva s (s.workRing r).ptRoot.toNat [] (ceilDiv (phBytes h) 8) (wdArg0 w)
    match q.1 with
    | .error e => endFault (q.2.modBake b fun _ => {}) r i e
    | .ok l =>
      let l := l.take (phBytes h)
      match packageReject q.2 l with
      | some x => rejectLoad q.2 b x
      | none =>
        let p := readPackage l
        let io := readIo q.2 r w
        match io.1 with
        | .error e => endFault (io.2.modBake b fun _ => {}) r i e
        | .ok t =>
          if ioBad p.tensors.length t || ioMissing p (fillTemplates p) (ioMap t) then
            endInvalid (io.2.modBake b fun _ => {}) r i 319
          else io.2.modBake b fun k => { k with pkg := p, digest := sha384 l, io := ioMap t, loadIo := ioMap t }

/-- LOAD: the package is read, checked and given to the Baker cores for placement. -/
def execLoad (r : Fin 64) (i : U32) (host : List Host.Cell) (s : State) : Out :=
  .next (startItem (mergeHost s host) r i 1 fun t x =>
    let q := readDva t (t.workRing r).ptRoot.toNat [] 4 (wdArg0 x.desc)
    match q.1 with
    | .error e => endFault q.2 r i e
    | .ok l =>
      let h : W256 := BitVec.ofNat 256 (ofLe l)
      if rectBusy q.2 (phTnt h) then rejectEarly q.2 r i (pkgReject 7 0 0xFFFFFF)
      else match freeSlot q.2 with
        | none => rejectEarly q.2 r i (pkgReject 7 0 0xFFFFFF)
        | some b => takeLoad q.2 r i x.desc b h)

/-! ### RUN, SIGNAL, MIGRATE, UNLOAD -/

/-- RUN: its I/O table, then one step of the bake starts (R277, R278). -/
def execRun (r : Fin 64) (i : U32) (host : List Host.Cell) (s : State) : Out :=
  .next (startItem (mergeHost s host) r i 2 fun t x => onBake t r x fun t b =>
    let k := t.bake b
    let q := readIo t r x.desc
    match q.1 with
    | .error e => endFault q.2 r i e
    | .ok l =>
      if ioBad k.pkg.tensors.length l || ioMissing k.pkg (stepTemplates k.pkg) (ioMap l) then endInvalid q.2 r i 319
      else
        let u := writeBounds (q.2.modBake b fun k => { k with item := some i, io := ioMap l, reason := 0 }) b
        startStep u b)

/-- SIGNAL: SIG_SET or SIG_ADD on a global object of the bake, with its epoch (R297). -/
def execSignal (r : Fin 64) (i : U32) (s : State) : Out :=
  .next (startItem s r i 5 fun t x => onBake t r x fun t b =>
    let k := t.bake b
    let e := wdArg2 x.desc
    if k.pkg.syncs.length ≤ e ∨ soScope (nth 0 k.pkg.syncs e) ≠ 1 then endInvalid t r i 255
    else
      let a := wdArg1 x.desc
      endItem (signalObj t ⟨hwSync k e, decide (2 ^ 63 ≤ a), BitVec.ofNat 32 (a % 2 ^ 32), k.epoch⟩) r i 0 0)

/-- MIGRATE: the migration starts; the item completes with its switch (R263). -/
def execMigrate (r : Fin 64) (i : U32) (s : State) : Out :=
  .next (startItem s r i 4 fun t x => onBake t r x fun t b =>
    match startMigration t b (wdTgt x.desc) (wdArg2 x.desc) with
    | some u => u
    | none => endInvalid t r i 495)

/-- Empty a slot: nothing of its bake is left on the die (R287). -/
def emptySlot (s : State) (b : Nat) : State :=
  let k := s.bake b
  let t := clearCores s b
  let t := (tenantRouters t k.tenant.toNat).foldl
    (fun u p => u.modRouter p fun q => { q with sched := { q.sched with period := 0, epoch := 0 }, staged := none }) t
  let t := t.modDmas fun l => l.filter fun d => decide (d.slot ≠ b)
  clearTable (t.modBake b fun _ => {}) b

/-- UNLOAD of a bake whose LOAD has not taken a slot yet: the LOAD and the items between end UNLOADED, and it completes (R287). -/
def unloadWaiting (s : State) (r : Nat) (t : Item) : State :=
  let mine (x : Item) : Bool :=
    decide (t.lref = some x.index) || (decide (wdBake x.desc = 0) && decide (x.lref = t.lref) && decide (2 ≤ wdOp x.desc) && decide (wdOp x.desc ≤ 5))
  let u := (((earlier (s.workRing r) t).filter mine).map (·.index)).foldl (fun u j => endItem u r j 7 0) s
  endItem u r t.index 0 0

/-- UNLOAD: a step in progress is fenced, earlier items of the bake end UNLOADED, and the slot is emptied; it waits for the
epoch counter where a fence is due (R252, R287). -/
def execUnload (r : Fin 64) (i : U32) (s : State) : Out :=
  .next (match getItem s r i with
    | none => s
    | some x =>
      let busy : Bool := match namedSlot s r (wdBake x.desc) x.lref with
        | .slot b => (s.bake b).item.isSome && !(s.bake b).absorbed
        | _ => false
      if busy && !epochFree s then s
      else startItem s r i 3 fun t x =>
        if namedSlot t r (wdBake x.desc) x.lref = .waiting then unloadWaiting t r x
        else onBake t r x fun t b =>
          let t := if (t.bake b).item.isSome && !(t.bake b).absorbed then fence t b 0 true else t
          let before := (earlier (t.workRing r) x).map (·.index)
          let t := endItems t b (fun j => before.contains j) 7 0
          endItem (emptySlot t b) r i 0 0)

/-! ### Completion records (R275, R285, R286) -/

/-- The 32 bytes of a completion record. -/
def completionBytes (g : Ring) (t : Item) (status : U8) (detail : BitVec 128) : List Byte :=
  let p := (t.index.toNat / 2 ^ rcLg g.ctl + 1) % 2
  leBytes 16 detail.toNat ++ leBytes 2 (2 ^ 11 * p + 2 ^ 12 * min 15 t.fences) ++ [BitVec.ofNat 8 t.slot, status] ++
    leBytes 4 t.index.toNat ++ leBytes 8 (wdToken t.desc).toNat

/-- COMPLETION_RECORD_WRITE: the item at the head of the ring's order has ended: its record is written, and its interrupt
raised under moderation. -/
def execCompletionRecordWrite (r : Fin 64) (s : State) : Out :=
  .next
    (let g := s.workRing r
     match g.ledger with
     | [] => s
     | t :: rest =>
       match t.status with
       | none => s
       | some (st, d) =>
         let u := hostStore s (g.cmplBase.toNat + 32 * (t.index.toNat % ringSize g)) (completionBytes g t st d)
         let u := u.modRing r fun g => { g with ledger := rest, complete := t.index + 1 }
         if !rcIe g.ctl then u
         else if imodPassed u g then raiseRing u r
         else u.modRing r fun g => { g with irqDue := true })

end Sys2Proof.Machine
end

