-- ==== Sys2Proof/Machine/Stacks.lean ====
section
/-! DEFINITION. The memory stacks: retraining, retirement of channels and stacks, and the two copies of the ledger (R317,
R320, R321). -/

namespace Sys2Proof.Machine

/-- Longest wait of a request at a retrain in Flue cycles: 1.5 µs (R317). -/
def retrainMax : Nat := 2400

/-- CHANNEL_RETRAIN: the channel's requests wait; skipped on a retired channel and in self-refresh (R317). -/
def execChannelRetrain (ch waitCycles : Nat) (s : State) : Out :=
  onUnit 640 ch
    (if chanServes s ch = true ∧ mget 0 s.hbm.state (ch / 32) = 0 then
      s.modChan ch fun c => { c with waits := c.waits + BitVec.ofNat 64 (min waitCycles retrainMax) }
    else s)

/-! ### What lies on a channel -/

/-- Tensors of home 0x0 whose bytes lie in the phase area at present (R266). -/
def inPhaseArea (k : Bake) (e : Nat × W256) : Bool :=
  homePad e.2 && decide (1 < phasesOf k) && decide (instPhase k (tnOwner e.2) ≠ k.phase)

/-- Tensors of a bake with bytes on a channel. -/
def tensorsOn (k : Bake) (ch : Nat) : List (Nat × W256) :=
  let area := ((k.place.map (·.areaCh)).getD []).any fun c => decide (c.1 = ch)
  (tensorsOf k).filter fun e => ((tensorChans k e.1).any fun c => decide (c.1 = ch)) || (area && inPhaseArea k e)

/-- Leaves of stack pages on a channel that map the host tensors of a bake: bus address, shift and entry. -/
def pagesOn (s : State) (b ch : Nat) : List (Nat × Nat × U64) :=
  let k := s.bake b
  (((tensorsOf k).filter fun e => decide (tnHome e.2 = 2)).flatMap fun e =>
    (List.range (tnSize e.2 / 4096 + 2)).filterMap fun i =>
      match leafOf s (ioAddr k e.1 / 4096 * 4096 + 4096 * i) ptLevels (bakeRoot s b) with
      | some l => if fld l.2.2 63 62 = 1 ∧ fld l.2.2 56 12 * 4096 / 2 ^ 31 = ch then some l else none
      | none => none).dedup

/-- A page the firmware brought in, by its leaf. -/
def backedPage (s : State) (leaf : Nat) : Option (Nat × Nat × Nat) := s.ring.backed.find? fun e => decide (e.2.1 = leaf)

/-! ### Planned retirement: the granules move first (R321) -/

/-- Bytes of the stacks moved from one place to another. -/
def moveBytes (s : State) (src dst n : Nat) : State :=
  let l := mwithin s.hbm.words (src / 8) (ceilDiv n 8)
  let rest := mwithout (mwithout s.hbm.words (src / 8) (ceilDiv n 8)) (dst / 8) (ceilDiv n 8)
  let new := l.foldl (fun m e => mset none m (e.1 - src / 8 + dst / 8) e.2) rest
  { s with hbm := { s.hbm with words := new } }

/-- Replace a channel of a list. -/
def swapChan {α : Type} (ch : Nat) (new : Nat × α) (l : List (Nat × α)) : List (Nat × α) :=
  l.map fun c => if c.1 = ch then new else c

/-- Carry out one move: of a tensor (slot, tensor, channel, bases), of a bake's areas (slot, 0xFFFF, channel, offset), or
with slot 0 of the page a leaf maps (0, leaf, channel, offset). -/
def moveGranules (s : State) (ch : Nat) (m : Nat × Nat × Nat × Nat × Nat) : State :=
  let b := m.1
  let j := m.2.1
  let dst := m.2.2.1
  let x := m.2.2.2.1
  let y := m.2.2.2.2
  let k := s.bake b
  if b = 0 then
    let e : U64 := BitVec.ofNat 64 (hostNum s j 8)
    let t := moveBytes s (fld e 56 12 * 4096) (2 ^ 31 * dst + x) 4096
    let t := hostStore t j (leBytes 8 (putFld e 56 12 ((2 ^ 31 * dst + x) / 4096)).toNat)
    let tlb := t.ring.tlb.filter fun q => decide (q.leaf ≠ e)
    let backed := t.ring.backed.map fun q => if q.2.1 = j then (2 ^ 31 * dst + x, q.2) else q
    { t with ring := { t.ring with tlb := tlb, backed := backed } }
  else if j = 0xFFFF then
    let l := (k.place.map (·.areaCh)).getD []
    let t := l.zipIdx.foldl
      (fun t e => if e.1.1 = ch then
          (areasOf k).foldl
            (fun t a => moveBytes t (2 ^ 31 * ch + e.1.2 + a.1) (2 ^ 31 * dst + x + a.1) (shareOf a.2 l.length e.2)) t
        else t) s
    let swap (p : Placement) : Placement := { p with areaCh := swapChan ch (dst, x) p.areaCh }
    t.modBake b fun q => { q with place := q.place.map swap }
  else
    let l := tensorChans k j
    let n := tnSize (tensorRow k j)
    let t := l.zipIdx.foldl
      (fun t e => if e.1.1 = ch then
          let u := moveBytes t (2 ^ 31 * ch + e.1.2.1) (2 ^ 31 * dst + x) (shareOf n l.length e.2)
          if isState (tensorRow k j) then
            moveBytes u (2 ^ 31 * ch + e.1.2.2) (2 ^ 31 * dst + y) (shareOf n l.length e.2) else u
        else t) s
    let swap (p : Placement) : Placement :=
      { p with stackCh := p.stackCh.map fun c => if c.1 = j then (c.1, swapChan ch (dst, x, y) c.2) else c }
    t.modBake b fun q => { q with place := q.place.map swap }

/-- Slots with a placement. -/
def placedSlots (s : State) : List Nat := (s.baker.slots.filter fun e => e.2.place.isSome).map (·.1)

/-- Everything placed lies where R245 allows it, and nothing of it on a channel. -/
def placedOff (s : State) (ch : Nat) : Bool :=
  (placedSlots s).all fun b => roomOk s b (s.bake b) && (extents (s.bake b)).all fun e => decide (e.1 / 2 ^ 31 ≠ ch)

/-- The moves reach every granule of the channel and go to free space of channels in service not yet in the list they enter. -/
def movesOk (s : State) (ch : Nat) (moves : List (Nat × Nat × Nat × Nat × Nat)) : Bool :=
  let has (b j : Nat) : Bool := moves.any fun m => decide (m.1 = b) && decide (m.2.1 = j)
  (moves.all fun m => decide (m.2.2.1 ≠ ch) && chanServes s m.2.2.1 && decide (m.2.2.2.1 % 8 = 0) &&
    decide (m.2.2.2.2 % 8 = 0) &&
    (decide (m.1 = 0) || !((tensorChans (s.bake m.1) m.2.1).any fun c => decide (c.1 = m.2.2.1)))) &&
    (placedSlots s).all fun b =>
      let k := s.bake b
      ((tensorsOf k).all fun e => !((tensorChans k e.1).any fun c => decide (c.1 = ch)) || has b e.1) &&
        (!(((k.place.map (·.areaCh)).getD []).any fun c => decide (c.1 = ch)) || has b 0xFFFF) &&
        (pagesOn s b ch).all fun l => has 0 l.1

/-! ### Loss of what lay there (R260, R320, R321) -/

/-- Pages that the firmware brought in to a lost channel are not resident again, with their backing IOVA. -/
def unbackPages (s : State) (ch : Nat) : State :=
  let l := s.ring.backed.filter fun e => decide (e.1 / 2 ^ 31 = ch)
  l.foldl
    (fun t e =>
      let old : U64 := BitVec.ofNat 64 (hostNum t e.2.1 8)
      let t := hostStore t e.2.1 (leBytes 8 (putFld (putFld old 63 62 2) 56 12 (e.2.2 / 4096)).toNat)
      let tlb := t.ring.tlb.filter fun q => decide (q.leaf ≠ old)
      let backed := t.ring.backed.filter fun q => decide (q.2.1 ≠ e.2.1)
      { t with ring := { t.ring with tlb := tlb, backed := backed } }) s

/-- A bake with a tensor on a lost channel is fenced and placed again; one whose STATE view, or whose stack page without a
backing IOVA, lay there is paused, and its open items end with status 0x05 and fence reason 6. -/
def loseBake (s : State) (ch : Nat) (t : State) (b : Nat) : State :=
  let k := s.bake b
  let on := tensorsOn k ch
  let pages := (pagesOn s b ch).any fun l => (backedPage s l.1).isNone
  if (on.any fun e => isState e.2) || pages then endItems (pauseBake t b 6) b (fun _ => true) 5 6
  else if on.isEmpty then t else trigger t b 6

/-- Stacks of an edge that keep channel 31 in service: M0 to M9, or M10 to M19 with `south`. -/
def ledgerStacks (s : State) (south : Bool) : Nat :=
  ((List.range 10).filter fun i => chanServes s (32 * (i + if south then 10 else 0) + 31)).length

/-- A ledger copy loses its stripe in a stack: the ledger runs on one copy, until a rebuild or, where fewer than three
stacks of the edge are left, until the next start (R320). -/
def loseStripe (s : State) (stack : Nat) : State :=
  let south := decide (10 ≤ stack)
  let t : State := { s with hbm := { s.hbm with copyA := s.hbm.copyA && south, copyB := s.hbm.copyB && !south } }
  let t := raiseS t 0x4011 1 1 0
  if ledgerStacks t south < 3 then raiseS { t with hbm := { t.hbm with oneCopy := true } } 0x4011 1 3 0 else t

/-- Placement-cache entries in a retired stack or channel 31 are dropped, by their places in the cache. -/
def dropCached (s : State) (places : List Nat) : State :=
  let keep := (s.baker.cache.zipIdx.filter fun e => !places.contains e.2).map (·.1)
  { s with baker := { s.baker with cache := keep } }

/-- Retire a channel: its record, the persistent record, the event, and channel 31's share of the kept region. -/
def retireChannel (s : State) (ch : Nat) (planned : Bool) (cached : List Nat) : State :=
  let t := s.modChan ch fun c => { c with state := if planned then 1 else 2 }
  let t := t.modRec fun r => { r with retired := r.retired ++ [ch] }
  let t := raiseS t (0x4020 + ch / 32) (ch % 32 + 1) 3 ch
  if ch % 32 = 31 then dropCached (loseStripe t (ch / 32)) cached else t

/-- Channel bytes are lost. -/
def loseContents (s : State) (ch : Nat) : State :=
  let t := (placedSlots s).foldl (loseBake s ch) s
  let t := unbackPages t ch
  { t with hbm := { t.hbm with words := mwithout t.hbm.words (2 ^ 28 * ch) (2 ^ 28) } }

/-- CHANNEL_RETIREMENT: planned once its granules have moved, or with the loss of its bytes. Where the granules go, and
which cache entries lay in the kept region there, are operands (log entry 11). -/
def execChannelRetirement (ch : Nat) (planned : Bool) (moves : List (Nat × Nat × Nat × Nat × Nat)) (cached : List Nat)
    (s : State) : Out :=
  onUnit 640 ch
    (if !chanServes s ch then s
     else if planned then
       let t := moves.foldl (fun t m => moveGranules t ch m) s
       if movesOk s ch moves && placedOff t ch then retireChannel t ch true cached else s
     else loseContents (retireChannel s ch false cached) ch)

/-- STACK_RETIREMENT: every channel of the stack that still serves is lost with it (R321). -/
def execStackRetirement (stack : Fin 20) (cached : List Nat) (s : State) : Out :=
  let n := stack.val
  if mget 0 s.hbm.state n = 1 then .next s
  else
    let on := (List.range 32).filter fun c => chanServes s (32 * n + c)
    let t : State := { s with hbm := { s.hbm with state := mset 0 s.hbm.state n 1 } }
    let t := on.foldl (fun t c => t.modChan (32 * n + c) fun q => { q with state := 2 }) t
    let t := t.modRec fun r => { r with retired := r.retired ++ [640 + n] }
    let t := raiseS t 0x4001 (n + 1) 3 n
    let t := if on.contains 31 then loseStripe t n else t
    .next (on.foldl (fun t c => loseContents t (32 * n + c)) (dropCached t cached))

/-- LEDGER_COPY_REBUILD: the copy is whole again where its edge keeps three stacks. An entry whose surviving copy reads
poisoned, an operand, is lost in both copies: its item ends with status 0x08 (R320). -/
def execLedgerCopyRebuild (south : Bool) (poisoned : List (Fin 64 × U32)) (s : State) : Out :=
  let whole := if south then s.hbm.copyB else s.hbm.copyA
  .next
    (if whole || s.hbm.oneCopy || decide (ledgerStacks s south < 3) then s
     else
       let t : State := { s with hbm := { s.hbm with copyA := s.hbm.copyA || !south, copyB := s.hbm.copyB || south } }
       let t := poisoned.foldl
         (fun t e =>
           match getItem t e.1.val e.2 with
           | some i => if i.status.isNone then endItem t e.1.val e.2 8 (BitVec.ofNat 128 i.reason.toNat) else t
           | none => t) t
       raiseS t 0x4011 1 0 0)

end Sys2Proof.Machine
end

