-- ==== Sys2Proof/Machine/Steps.lean ====
section
/-! DEFINITION. The sequencer's own steps (R140, R152 to R155, R183, R184) and the finish of a step instance (R137). -/

namespace Sys2Proof.Machine

/-- NOP: waits and signals only (R140). -/
def execNop (c : CoreId) (s : State) : Out := onCore s c (atHead s c (isOp opNop) (issueNow s c))

/-- LOOP: opens a loop level (R152). -/
def execLoop (c : CoreId) (s : State) : Out := onCore s c (atHead s c (isOp opLoop) (issueNow s c))

/-- ENDLOOP: advances the innermost level, or closes it (R152). -/
def execEndloop (c : CoreId) (s : State) : Out := onCore s c (atHead s c (isOp opEndloop) (issueNow s c))

/-! ### SYNC and FENCE -/

/-- FENCE entries of the step at the head. -/
def fenceEntries (k : Core) : List U64 := (k.recipe.waits k.seq.step).filter fun e => decide (syOp e = 2)

/-- FenceWaits that belong to the step at the head. -/
def headFences (k : Core) : List FenceWait :=
  k.sync.fence.filter fun f => decide (f.step = k.seq.step) && decide (f.loops = k.seq.vars)

/-- A held crumb that one of the head's FENCEs reports: same object and the FENCE's own count (R187). -/
def claimed (k : Core) (r : Crumb) : Bool :=
  (headFences k).any fun f => decide (r.sobj.toNat = f.sobj) && decide (r.fcount = f.count)

/-- Drop the FenceWaits of the step at the head. -/
def dropFences (k : Core) : Core :=
  k.modSync fun y =>
    { y with fence := y.fence.filter fun f => !(decide (f.step = k.seq.step) && decide (f.loops = k.seq.vars)) }

/-- A FENCE that collected a crumb: the SYNC finishes without its signals, issue stops, and the bake treats the recipe
fault as a failed step (R155, R260). -/
def recipeFault (s : State) (c : CoreId) (r : Crumb) : State :=
  let k := s.core c
  let t := s.modCore c fun k =>
    let f := dropFences k
    let f := f.modSync fun y => { y with held := y.held.filter fun x => !claimed k x }
    let q := f.seq.atYield (f.recipe.yieldAt f.seq.step)
    f.walk { q with order := q.order + 1, state := .stopped, fault := some (k.seq.step, k.seq.vars, r) }
  trigger t (bakeOf k) 5

/-- SYNC at the head with every wait satisfied. -/
def doSync (s : State) (c : CoreId) : State :=
  match (s.core c).sync.held.find? (claimed (s.core c)) with
  | some r => recipeFault s c r
  | none =>
    match fireSignals s c (s.core c).seq.step (s.core c).seq.vars with
    | none => countStall s
    | some _ => issueNow (s.modCore c dropFences) c

/-- SYNC (R140, R155). -/
def execSync (c : CoreId) (s : State) : Out := onCore s c (atHead s c (isOp opSync) (doSync s c))

/-- Probe of a FENCE (R184, R225). -/
def probeFlit (s : State) (c : CoreId) (k : Core) (obj : Nat) (count : U32) (target : CoreId) : Draught :=
  { mtype := 2, dst := (siteOf s target).getD 0, src := (siteOf s c).getD 0, tnt := k.island.tenant, rot := 0,
    epoch := k.island.epoch, fcount := count, step := k.seq.step, att := k.seq.attempt, lst := false,
    loops := k.seq.vars, taddr := 0, sobj := BitVec.ofNat 16 obj, data := [], crumb := none }

/-- Issue one FENCE on an object: a probe to every target of the PUTs that carry its count, and the count advances
(R183, R184). -/
def issueFence (s : State) (c : CoreId) (obj : Nat) : State :=
  s.modCore c fun k =>
    let count := mget 0 k.sync.counts obj
    let covers (p : Nat × U32 × CoreId) : Bool := decide (p.1 = obj) && decide (p.2.1 = count)
    let targets := ((k.sync.puts.filter covers).map fun p => p.2.2).dedup
    let k := k.modSync fun y =>
      { y with
        counts := mset 0 y.counts obj (count + 1),
        puts := y.puts.filter fun p => !covers p,
        fence := y.fence ++ [⟨k.seq.step, k.seq.vars, obj, count, targets⟩] }
    k.modIsland fun r =>
      { r with outbox := r.outbox ++ targets.map fun t => (nextOrder k, probeFlit s c k obj count t) }

/-- FENCE: the FENCE entries of the SYNC at the head issue, once each (R154, R184). -/
def execFence (c : CoreId) (s : State) : Out :=
  onCore s c
    (let k := s.core c
    if !seqRuns s c || !isOp opSync (headStep k) || skips k || (k.recipe.barrierAt k.seq.step && !k.seq.flight.isEmpty) then s
    else
      ((fenceEntries k).map fun e => symObj k (sySym e)).dedup.foldl
        (fun t obj => if (headFences (t.core c)).any fun f => decide (f.sobj = obj) then t else issueFence t c obj) s)

/-! ### END and the finish of a step -/

/-- END: issued behind every earlier step; it finishes when every unit is idle (R137). -/
def execEndStep (c : CoreId) (s : State) : Out :=
  onCore s c (atHead s c (isOp opEnd) (s.modCore c fun k => issueFlight k false))

/-- The step instance has done its work: its unit says so, for SEND and PUT with no flit of theirs left to inject; END when it is
the only instance left (R137). -/
def instDone (k : Core) (i : StepInst) : Bool :=
  match i.unit with
  | .s => decide (k.seq.flight.length = 1)
  | .x =>
    i.ready && !(k.island.egress.any fun e => decide (e.1 = i.order)) &&
      !(k.island.toEgress.any fun e => decide (e.2.1 = i.order)) && !(k.island.outbox.any fun e => decide (e.1 = i.order))
  | _ => i.ready

/-- Send-stream number of a SEND instance. -/
def sendStream (k : Core) (w : W256) : Option Nat :=
  if stOp w = opSend then some (mget ⟨0, none, 0, 0⟩ k.bind.streams (mvTgt w)).sendNo else none

/-- Remove a finished instance: done set, the sender's sequence number, and the end of the instance (R137, R138, R157,
R212). -/
def retire (k : Core) (i : StepInst) : Core :=
  let w := k.recipe.step i.step
  let k := match sendStream k w with
    | some n => k.modIsland fun r => { r with sendSeq := mmod 0 r.sendSeq n (· + 1) }
    | none => k
  k.modSeq fun q =>
    let q := { q with flight := q.flight.filter fun x => decide (x.order ≠ i.order) }
    let q := q.addDone i.step i.loops (stOp w)
    if stOp w = opEnd then { q with state := .ended } else q

/-- The vector unit, the memory engine and the transfer unit execute their steps one after another (R136). -/
def unitTurn (k : Core) (i : StepInst) : Bool :=
  match i.unit with
  | .v | .m | .x => !(k.seq.flight.any fun x => decide (x.unit = i.unit) && decide (x.order < i.order))
  | _ => true

/-- Finish the instance `order`: its signals fire in list order (R137). -/
def finish (s : State) (c : CoreId) (order : Nat) : State :=
  match (s.core c).seq.flight.find? fun i => decide (i.order = order) with
  | none => s
  | some i =>
    if !instDone (s.core c) i || !unitTurn (s.core c) i then s
    else
      match fireSignals s c i.step i.loops with
      | none => countStall s
      | some t => t.modCore c fun k => retire k i

/-- STEP_FINISH (R137, R156, R157). -/
def execStepFinish (c : CoreId) (order : Nat) (s : State) : Out :=
  onCore s c (if (s.core c).power = .on ∧ (s.hearth (hearthOf s c)).frozen = false then finish s c order else s)

end Sys2Proof.Machine
end

