-- ==== Sys2Proof/Machine/Vector.lean ====
section
/-! DEFINITION. The vector unit (R85, R119, R125 to R128, R149, R150, R480): for each part of a VECTOR step, which is a row or
a block of rows, the words it reads, the arithmetic of its opcode, and the words it writes. -/

namespace Sys2Proof.Machine

/-- An element as read: its value in the working format and the poison mark of its word. -/
structure VElem where
  val    : FVal
  poison : Bool
  deriving DecidableEq, Repr

/-- An element as converted: its code and counts, the value it had before, and its poison mark. -/
structure VRes where
  conv   : Conv
  val    : FVal
  poison : Bool
  deriving DecidableEq, Repr

/-- What a part of a step makes: the words to write, and the elements that count in dd's slot. -/
structure VOut where
  writes : List (Nat × U64 × Bool) := []
  counts : List VRes := []
  deriving DecidableEq, Repr

/-- What a VECTOR step instance works with: core, step word, descriptors, loop variables, working format, E5M2 mode, and the
scale in force of dd. -/
structure VCtx where
  k     : Core
  w     : W256
  dx    : W256
  dz    : W256
  dd    : W256
  hasZ  : Bool
  vars  : List Nat
  wide  : Bool
  nonsat : Bool
  sOut  : F32
  deriving DecidableEq, Repr

/-- Operations with a second source (R150). -/
def twoSources (op : Nat) : Bool := [0x01, 0x02, 0x03, 0x04, 0x05, 0x07, 0x08, 0x09].contains op

/-- The context of a VECTOR step instance; it works in binary64 when a source or the destination is binary64 (R149). Under
delayed scaling dd's scale is the slot's, as for a drain (R113, R114; DESIGN CHOICE for QUANT, log entry 131). -/
def vctx (s : State) (k : Core) (step : Nat) (vars : List Nat) : VCtx :=
  let w := k.recipe.step step
  let dx := k.recipe.desc (vcDx w)
  let dz := k.recipe.desc (vcDz w)
  let dd := k.recipe.desc (vcDd w)
  let hasZ := decide (vcDz w ≠ 0x3FF) && twoSources (vcOp w)
  { k := k, w := w, dx := dx, dz := dz, dd := dd, hasZ := hasZ, vars := vars,
    wide := decide (dFmt dx = 9) || decide (dFmt dd = 9) || (hasZ && decide (dFmt dz = 9)), nonsat := nonsatOf s k dd,
    sOut := if dDsc dd then (mget {} k.live.slots (dSlot dd)).scale else dScale dd }

/-- Rounding to the working format. -/
def VCtx.rnd (x : VCtx) (v : FVal) : FVal := if x.wide then r64 v else r32 v

/-- Words one row of `n` elements of a format takes. -/
def rowWordCount (fmt n : Nat) : Nat := ceilDiv (n * fmtBits fmt) 64

/-- Words of row `r` of a source. -/
def VCtx.srcWords (x : VCtx) (d : W256) (r : Nat) : List Nat :=
  wordRange (rowAddr x.k.bind d x.vars r) (rowWordCount (dFmt d) (vcLen x.w))

/-- Elements of a source row in the working format (R149). -/
def VCtx.elems (x : VCtx) (d : W256) (l : List (U64 × Bool)) : List VElem :=
  (unpackWords (fmtBits (dFmt d)) (vcLen x.w) l).map fun e => ⟨x.rnd (codeValue (dFmt d) e.1), e.2⟩

/-- Words of codes from an address on. -/
def writesAt (addr bits : Nat) (l : List (Nat × Bool)) : List (Nat × U64 × Bool) :=
  (packWords bits l).zipIdx.map fun e => (addr / 8 + e.2, e.1.1, e.1.2)

/-- Results converted to dd's format as row `r` (R92, R93, R149). -/
def VCtx.put (x : VCtx) (r : Nat) (l : List VRes) : VOut :=
  { writes := writesAt (rowAddr x.k.bind x.dd x.vars r) (fmtBits (dFmt x.dd)) (l.map fun e => (e.conv.code, e.poison)), counts := l }

/-- Conversion of a result to dd's format, as a plain integer or a float. An overflow is counted here, in the conversion to dd's
format, and not in the operation's own rounding to the working format (DESIGN CHOICE where the two formats are the same, log
entry 132). -/
def VCtx.conv (x : VCtx) (v : FVal) : Conv := convTo (dFmt x.dd) 0 x.nonsat v

/-- A result with its conversion. -/
def VCtx.res (x : VCtx) (v : FVal) (poison : Bool) : VRes := ⟨x.conv v, v, poison⟩

/-! ### Elementwise steps -/

/-- One source: `f` gives the result of an element, and its conversion. -/
def VCtx.map1 (x : VCtx) (f : FVal → Conv × FVal) (r : Nat) (l : List (U64 × Bool)) : VOut :=
  x.put r ((x.elems x.dx l).map fun e => ⟨(f e.val).1, (f e.val).2, e.poison⟩)

/-- Two sources, the words of x before those of z; with no second source its elements count as +0. -/
def VCtx.map2 (x : VCtx) (f : FVal → FVal → FVal) (r : Nat) (l : List (U64 × Bool)) : VOut :=
  let n := rowWordCount (dFmt x.dx) (vcLen x.w)
  let a := x.elems x.dx (l.take n)
  let b := if x.hasZ then x.elems x.dz (l.drop n) else a.map fun _ => ⟨ofInt 0, false⟩
  x.put r ((a.zip b).map fun e => x.res (f e.1.val e.2.val) (e.1.poison || e.2.poison))

/-- A plain result: its value, converted. -/
def VCtx.plain (x : VCtx) (v : FVal) : Conv × FVal := (x.conv v, v)

/-- The immediate as a binary32 value. -/
def VCtx.imm (x : VCtx) : FVal := fv32 (vcImm x.w)

/-- An approximation; a binary64 operand is first rounded to binary32, counting an overflow, and the binary32 result
widened exactly (R126). -/
def VCtx.approx (x : VCtx) (o : Approx) (v : FVal) : Conv × FVal :=
  let a := b32.conv false v
  let y := fv32 (o.eval (BitVec.ofNat 32 a.code))
  let cv := x.conv y
  ({ cv with sat := cv.sat + (if x.wide then a.sat else 0) }, y)

/-- DEQUANT: (x − zp of dx) × scale of dx, rounded to binary32; a zero point applies to integer codes only (R98, R150). -/
def VCtx.dequant (x : VCtx) (v : FVal) : FVal :=
  r32 ((v.sub (ofInt (if (qrange (dFmt x.dx)).isSome then dZp x.dx else 0))).mul (fv32 (dScale x.dx)))

/-- QUANT: quantising conversion with dd's scale and zero point (R97). A binary64 operand is multiplied by the reciprocal exactly
and rounded once to binary32 (DESIGN CHOICE, log entry 133). -/
def VCtx.quant (x : VCtx) (v : FVal) : Conv × FVal := (quantConv (dFmt x.dd) x.sOut (dZp x.dd) x.nonsat v, v)

/-- Row `r` of ADD from the words read for it: x + z. The arithmetic of every elementwise opcode follows (R125, R126, R150). -/
def rowVadd (x : VCtx) (r : Nat) (l : List (U64 × Bool)) : VOut := x.map2 (fun a b => x.rnd (a.add b)) r l
def rowVsub (x : VCtx) (r : Nat) (l : List (U64 × Bool)) : VOut := x.map2 (fun a b => x.rnd (a.sub b)) r l
def rowVmul (x : VCtx) (r : Nat) (l : List (U64 × Bool)) : VOut := x.map2 (fun a b => x.rnd (a.mul b)) r l
/-- FMAI: x × imm + z in one rounding. -/
def rowVfmai (x : VCtx) (r : Nat) (l : List (U64 × Bool)) : VOut := x.map2 (fun a b => x.rnd ((a.mul x.imm).add b)) r l
def rowVdiv (x : VCtx) (r : Nat) (l : List (U64 × Bool)) : VOut := x.map2 (fun a b => x.rnd (a.div b)) r l
def rowVsqrt (x : VCtx) (r : Nat) (l : List (U64 × Bool)) : VOut := x.map1 (fun a => x.plain (x.rnd a.sqrt)) r l
def rowVmin (x : VCtx) (r : Nat) (l : List (U64 × Bool)) : VOut := x.map2 FVal.minNum r l
def rowVmax (x : VCtx) (r : Nat) (l : List (U64 × Bool)) : VOut := x.map2 FVal.maxNum r l
/-- CMPLT: 1.0 where x < z, else 0.0. -/
def rowVcmplt (x : VCtx) (r : Nat) (l : List (U64 × Bool)) : VOut := x.map2 (fun a b => ofInt (if a.lt b then 1 else 0)) r l
def rowVrcp (x : VCtx) (r : Nat) (l : List (U64 × Bool)) : VOut := x.map1 (x.approx .rcp) r l
def rowVrsqrt (x : VCtx) (r : Nat) (l : List (U64 × Bool)) : VOut := x.map1 (x.approx .rsqrt) r l
def rowVexp2 (x : VCtx) (r : Nat) (l : List (U64 × Bool)) : VOut := x.map1 (x.approx .exp2) r l
def rowVexp (x : VCtx) (r : Nat) (l : List (U64 × Bool)) : VOut := x.map1 (x.approx .exp) r l
def rowVcvt (x : VCtx) (r : Nat) (l : List (U64 × Bool)) : VOut := x.map1 x.plain r l
def rowVquant (x : VCtx) (r : Nat) (l : List (U64 × Bool)) : VOut := x.map1 x.quant r l
def rowVdequant (x : VCtx) (r : Nat) (l : List (U64 × Bool)) : VOut := x.map1 (fun a => x.plain (x.dequant a)) r l

/-! ### Reductions and top-k -/

/-- Lanes of a cycle (R85). -/
def VCtx.lanes (x : VCtx) : Nat := if x.wide then 32 else 64

/-- One result per row, poisoned where any element of the row is. -/
def VCtx.reduceRow (x : VCtx) (f : FVal → FVal → FVal) (r : Nat) (l : List (U64 × Bool)) : VOut :=
  let a := x.elems x.dx l
  x.put r [x.res (reduce f x.lanes (a.map (·.val))) (a.any (·.poison))]

/-- RSUM: row sum, each addition rounded (R127). -/
def rowVrsum (x : VCtx) (r : Nat) (l : List (U64 × Bool)) : VOut := x.reduceRow (fun a b => x.rnd (a.add b)) r l

/-- RMAX: row maximum (R127). -/
def rowVrmax (x : VCtx) (r : Nat) (l : List (U64 × Bool)) : VOut := x.reduceRow FVal.maxNum r l

/-- Position of a value in totalOrder, NaN as the produced NaN; binary64 codes order binary32 values alike (R128). -/
def totalKey64 (v : FVal) : Nat :=
  let c := (b64.conv false v).code
  if 2 ^ 63 ≤ c then 2 ^ 64 - 1 - c else c + 2 ^ 63

/-- Insert an element with its index behind every element of at least its key. -/
def insertTop (e : FVal × Nat) : List (FVal × Nat) → List (FVal × Nat)
  | [] => [e]
  | x :: t => if totalKey64 x.1 < totalKey64 e.1 then e :: x :: t else x :: insertTop e t

/-- The elements in descending order, equal values in ascending index order. -/
def sortTop (l : List FVal) : List (FVal × Nat) := l.zipIdx.foldl (fun a e => insertTop e a) []

/-- Values and indices TOPK writes for one row: `imm` places, filled with −infinity and 0xFFFF beyond `len`. -/
def topPlaces (imm : Nat) (l : List FVal) : List (Option (FVal × Nat)) :=
  let t := (sortTop l).take imm
  t.map some ++ List.replicate (imm - t.length) none

/-- TOPK: the values to dd, their indices to dz; the −infinity of a place beyond `len` does not count (R128, R150). -/
def rowVtopk (x : VCtx) (r : Nat) (l : List (U64 × Bool)) : VOut :=
  let a := x.elems x.dx l
  let p := a.any (·.poison)
  let pl := topPlaces (vcImm x.w).toNat (a.map (·.val))
  let vals := pl.map fun e => match e with
    | some v => x.res v.1 p
    | none => ⟨{ code := (x.conv (.inf true)).code }, .inf true, p⟩
  let idx := pl.map fun e => match e with
    | some v => (v.2, p)
    | none => (0xFFFF, p)
  let o := x.put r vals
  { o with writes := o.writes ++ writesAt (rowAddr x.k.bind x.dz x.vars r) 16 idx }

/-! ### SLICE (R119, R480) -/

/-- Slices and width of a slice code (R118). -/
def sliceCount (code : Nat) : Nat := if code = 1 then 6 else 7
def sliceP (code : Nat) : Nat := 8 * sliceCount code - 2

/-- `floor(log2 |x|)` of a finite nonzero value. -/
def FVal.ilog : FVal → Int
  | .fin _ m e => (Nat.log2 m : Int) + e
  | _ => 0

/-- X_k = x_k · 2^(p − E) rounded to an integer, ties to even. -/
def alignTo (p : Nat) (e : Int) : FVal → Int
  | .fin n m x => roundInt n m (x + p - e)
  | _ => 0

/-- Exponent and aligned integers of one block; E rises until every |X_k| is below 2^(p+1). -/
def alignGo (p : Nat) (l : List FVal) : Nat → Int → Int × List Int
  | 0, e => (e, l.map (alignTo p e))
  | n + 1, e =>
    let x := l.map (alignTo p e)
    if x.all fun i => decide (i.natAbs < 2 ^ (p + 1)) then (e, x) else alignGo p l n (e + 1)

/-- Exponent E of a block and its aligned integers (R119). -/
def sliceBlock (code : Nat) (l : List FVal) : Int × List Int :=
  if l.any fun v => !v.isFin then (32767, l.map fun _ => 0)
  else
    match (l.filter fun v => !v.isZero).map FVal.ilog with
    | [] => (-32768, l.map fun _ => 0)
    | i :: t => alignGo (sliceP code) l 3 (t.foldl max i)

/-- Slice `i` of an aligned integer: byte `n − 1 − i` of its `8n`-bit two's complement. -/
def sliceByte (n : Nat) (x : Int) (i : Nat) : Nat := toCode (8 * n) x / 256 ^ (n - 1 - i) % 256

/-- Plane stride Q (R480). -/
def VCtx.planeStride (x : VCtx) : Int := dPitch x.dd * (vcRows x.w : Int)

def VCtx.planeAddr (x : VCtx) (r i : Nat) : Nat :=
  ((rowAddr x.k.bind x.dd x.vars r : Int) + (i : Int) * x.planeStride).toNat

/-- A block's slices: exponent, aligned integers and poison. -/
structure SBlock where
  e      : Int
  xs     : List Int
  poison : Bool
  deriving DecidableEq, Repr

def mkBlock (code : Nat) (l : List VElem) : SBlock :=
  let b := sliceBlock code (l.map (·.val))
  ⟨b.1, b.2, l.any (·.poison)⟩

/-- Row orientation: blocks of 128 elements of the row. -/
def VCtx.sliceRow (x : VCtx) (code : Nat) (r : Nat) (l : List (U64 × Bool)) : VOut :=
  let n := sliceCount code
  let a := x.elems x.dx l
  let bl := (chunks 128 a.length a).map (mkBlock code)
  { writes := ((List.range n).flatMap fun i =>
        writesAt (x.planeAddr r i) 8 (bl.flatMap fun b => b.xs.map fun v => (sliceByte n v i, b.poison))) ++
      writesAt (x.planeAddr r n) 16 (bl.map fun b => (toCode 16 b.e, b.poison)) }

/-- Column `j` of a block of rows. -/
def column (l : List (List VElem)) (j : Nat) : List VElem := l.map fun row => nth ⟨ofInt 0, false⟩ row j

/-- Column orientation: block `b` of 128 rows, the last one shorter. -/
def VCtx.sliceCol (x : VCtx) (code : Nat) (b : Nat) (l : List (U64 × Bool)) : VOut :=
  let n := sliceCount code
  let per := rowWordCount (dFmt x.dx) (vcLen x.w)
  let rows := (chunks per l.length l).map (x.elems x.dx)
  let cols := (List.range (vcLen x.w)).map fun j => mkBlock code (column rows j)
  { writes := ((List.range rows.length).flatMap fun i => (List.range n).flatMap fun pl =>
        writesAt (x.planeAddr (128 * b + i) pl) 8 (cols.map fun c => (sliceByte n (nth 0 c.xs i) pl, c.poison))) ++
      writesAt (x.planeAddr (2 * b) n) 16 (cols.map fun c => (toCode 16 c.e, c.poison)) }

/-- SLICE in column orientation: imm bit 8 (R480). -/
def VCtx.byColumn (x : VCtx) : Bool := decide (vcOp x.w = 0x40) && bitAt (vcImm x.w) 8

/-- SLICE: slice code in imm bits 3–0; its codes are no converted elements (R480). -/
def rowVslice (x : VCtx) (r : Nat) (l : List (U64 × Bool)) : VOut :=
  let code := fld (vcImm x.w) 3 0
  if x.byColumn then x.sliceCol code r l else x.sliceRow code r l

/-! ### A step's parts -/

/-- Parts of a step: rows, or blocks of 128 rows. -/
def VCtx.parts (x : VCtx) : Nat := if x.byColumn then ceilDiv (vcRows x.w) 128 else vcRows x.w

/-- Words a part reads: the rows of x, then the row of z. -/
def VCtx.reads (x : VCtx) (p : Nat) : List Nat :=
  if x.byColumn then (List.range (min 128 (vcRows x.w - 128 * p))).flatMap fun i => x.srcWords x.dx (128 * p + i)
  else x.srcWords x.dx p ++ (if x.hasZ then x.srcWords x.dz p else [])

/-- What the opcode makes of the words of a part (R150). -/
def vecPart (x : VCtx) (p : Nat) (l : List (U64 × Bool)) : VOut :=
  match vcOp x.w with
  | 0x01 => rowVadd x p l
  | 0x02 => rowVsub x p l
  | 0x03 => rowVmul x p l
  | 0x04 => rowVfmai x p l
  | 0x05 => rowVdiv x p l
  | 0x06 => rowVsqrt x p l
  | 0x07 => rowVmin x p l
  | 0x08 => rowVmax x p l
  | 0x09 => rowVcmplt x p l
  | 0x10 => rowVrcp x p l
  | 0x11 => rowVrsqrt x p l
  | 0x12 => rowVexp2 x p l
  | 0x13 => rowVexp x p l
  | 0x20 => rowVcvt x p l
  | 0x21 => rowVquant x p l
  | 0x22 => rowVdequant x p l
  | 0x30 => rowVrsum x p l
  | 0x31 => rowVrmax x p l
  | 0x32 => rowVtopk x p l
  | 0x40 => rowVslice x p l
  | _ => {}

/-- The statistics of one element: its overflow and NaN counts, and its value before conversion, rounded to binary32, in the amax
register (R113, R116). An element that a poisoned word decides is not counted (log entry 21). -/
def VRes.note (t : StatSlot) (e : VRes) : StatSlot := if e.poison then t else (t.count e.conv).peak (rn32 e.val)

/-- Count the elements of a part in dd's slot. -/
def VCtx.noteAll (x : VCtx) (k : Core) (l : List VRes) : Core :=
  if l.isEmpty then k else k.modLive fun v => v.modSlot (dSlot x.dd) fun t => l.foldl VRes.note t

/-- Words the unit asks for in a cycle: those of 64 lanes, or of 32 binary64 lanes, of each source (R85). -/
def VCtx.cap (x : VCtx) : Nat := 2 * ceilDiv (x.lanes * max (fmtBits (dFmt x.dx)) (fmtBits (dFmt x.dd))) 64

/-! ### The commands -/

/-- A VECTOR step issues: it takes a place in the vector unit's queue, whose parts run in the bank cycles (R85, R135, R137). -/
def vecIssue (s : State) (c : CoreId) : State := s.modCore c fun k => issueFlight k false

/-- ADD: its rows are `rowVadd`'s. -/
def execVadd (c : CoreId) (s : State) : Out := onCore s c (atHead s c (isVec 0x01) (vecIssue s c))
/-- SUB: its rows are `rowVsub`'s. -/
def execVsub (c : CoreId) (s : State) : Out := onCore s c (atHead s c (isVec 0x02) (vecIssue s c))
/-- MUL: its rows are `rowVmul`'s. -/
def execVmul (c : CoreId) (s : State) : Out := onCore s c (atHead s c (isVec 0x03) (vecIssue s c))
/-- FMAI: its rows are `rowVfmai`'s. -/
def execVfmai (c : CoreId) (s : State) : Out := onCore s c (atHead s c (isVec 0x04) (vecIssue s c))
/-- DIV: its rows are `rowVdiv`'s. -/
def execVdiv (c : CoreId) (s : State) : Out := onCore s c (atHead s c (isVec 0x05) (vecIssue s c))
/-- SQRT: its rows are `rowVsqrt`'s. -/
def execVsqrt (c : CoreId) (s : State) : Out := onCore s c (atHead s c (isVec 0x06) (vecIssue s c))
/-- MIN: its rows are `rowVmin`'s. -/
def execVmin (c : CoreId) (s : State) : Out := onCore s c (atHead s c (isVec 0x07) (vecIssue s c))
/-- MAX: its rows are `rowVmax`'s. -/
def execVmax (c : CoreId) (s : State) : Out := onCore s c (atHead s c (isVec 0x08) (vecIssue s c))
/-- CMPLT: its rows are `rowVcmplt`'s. -/
def execVcmplt (c : CoreId) (s : State) : Out := onCore s c (atHead s c (isVec 0x09) (vecIssue s c))
/-- RCP: its rows are `rowVrcp`'s. -/
def execVrcp (c : CoreId) (s : State) : Out := onCore s c (atHead s c (isVec 0x10) (vecIssue s c))
/-- RSQRT: its rows are `rowVrsqrt`'s. -/
def execVrsqrt (c : CoreId) (s : State) : Out := onCore s c (atHead s c (isVec 0x11) (vecIssue s c))
/-- EXP2: its rows are `rowVexp2`'s. -/
def execVexp2 (c : CoreId) (s : State) : Out := onCore s c (atHead s c (isVec 0x12) (vecIssue s c))
/-- EXP: its rows are `rowVexp`'s. -/
def execVexp (c : CoreId) (s : State) : Out := onCore s c (atHead s c (isVec 0x13) (vecIssue s c))
/-- CVT: its rows are `rowVcvt`'s. -/
def execVcvt (c : CoreId) (s : State) : Out := onCore s c (atHead s c (isVec 0x20) (vecIssue s c))
/-- QUANT: its rows are `rowVquant`'s. -/
def execVquant (c : CoreId) (s : State) : Out := onCore s c (atHead s c (isVec 0x21) (vecIssue s c))
/-- DEQUANT: its rows are `rowVdequant`'s. -/
def execVdequant (c : CoreId) (s : State) : Out := onCore s c (atHead s c (isVec 0x22) (vecIssue s c))
/-- RSUM: its rows are `rowVrsum`'s. -/
def execVrsum (c : CoreId) (s : State) : Out := onCore s c (atHead s c (isVec 0x30) (vecIssue s c))
/-- RMAX: its rows are `rowVrmax`'s. -/
def execVrmax (c : CoreId) (s : State) : Out := onCore s c (atHead s c (isVec 0x31) (vecIssue s c))
/-- TOPK: its rows are `rowVtopk`'s. -/
def execVtopk (c : CoreId) (s : State) : Out := onCore s c (atHead s c (isVec 0x32) (vecIssue s c))
/-- SLICE: its rows are `rowVslice`'s. -/
def execVslice (c : CoreId) (s : State) : Out := onCore s c (atHead s c (isVec 0x40) (vecIssue s c))

end Sys2Proof.Machine
end

