-- ==== Sys2Proof/Machine/Units.lean ====
section
/-! DEFINITION. The units of a core at its scratchpad (R71, R85, R136, R177, R178, R180, R210, R298): what each asks for, makes of
the words it reads and writes in a bank cycle, and SCRATCHPAD_BANK_CYCLE with power gating and wake. -/

namespace Sys2Proof.Machine

/-! ### Parts of a step instance -/

/-- Job number of a unit that works through the bank cycles; 0 for the others. -/
def unitNo : UnitKind → Nat
  | .v => 4
  | .m => 5
  | .x => 6
  | _ => 0

/-- The instance a unit works on: its oldest in flight, until that has done its work (R136). -/
def unitHead (k : Core) (u : UnitKind) : Option StepInst := (k.seq.flight.find? fun i => decide (i.unit = u)).filter fun i => !i.ready

/-- Words of a flit: 16 for SEND, 12 for PUT (R180, R210, R225). -/
def flitWords (w : W256) : Nat := if stOp w = opSend then 16 else 12

/-- Parts of an instance: rows or blocks of rows in V, rows in M, flits in X (R85, R177, R178, R180, R210). -/
def partCount (s : State) (k : Core) (i : StepInst) : Nat :=
  let w := k.recipe.step i.step
  match i.unit with
  | .v => (vctx s k i.step i.loops).parts
  | .m => mvRows w
  | .x => ceilDiv (moveWords k w i.loops).length (flitWords w)
  | _ => 0

/-- Words part `p` reads. -/
def partReads (s : State) (k : Core) (i : StepInst) (p : Nat) : List Nat :=
  let w := k.recipe.step i.step
  match i.unit with
  | .v => (vctx s k i.step i.loops).reads p
  | .m => if stOp w = opCopy then moveRow k (mvSrc k w) i.loops w p else []
  | .x => slice (moveWords k w i.loops) (flitWords w * p) (flitWords w)
  | _ => []

/-- The writes of part `p`, and what else it leaves: the elements V counts, the flits X queues. -/
def partMakes (s : State) (c : CoreId) (k : Core) (i : StepInst) (p : Nat) (l : List (U64 × Bool)) :
    List (Nat × U64 × Bool) × Core :=
  let w := k.recipe.step i.step
  match i.unit with
  | .v =>
    let x := vctx s k i.step i.loops
    let o := vecPart x p l
    (o.writes, x.noteAll k o.counts)
  | .m => (if stOp w = opCopy then copyRow k w i.loops p l else fillRow k w i.loops p, k)
  | .x =>
    let n := partCount s k i
    ([], k.modIsland fun r =>
      if stOp w = opSend then
        { r with toEgress := r.toEgress ++
            [(s.flue.cycle + (crossingOf s c).1, i.order, (sendBind k w).sendNo, sendFlit k i p n l)] }
      else { r with outbox := r.outbox ++ [(i.order, putFlit s c k i p n l)] })
  | _ => ([], k)

/-- Words a unit asks for in a cycle: R85, R177, R178, R210. A SEND asks for none while its egress queue of 32 flits is full. -/
def unitCap (s : State) (k : Core) (i : StepInst) : Nat :=
  let w := k.recipe.step i.step
  match i.unit with
  | .v => (vctx s k i.step i.loops).cap
  | .m => if stOp w = opCopy then 32 else 64
  | .x => if stOp w = opSend ∧ 32 ≤ k.island.egress.length + k.island.toEgress.length then 0 else 16
  | _ => 0

/-- A step instance has done its work. -/
def markReady (k : Core) (order : Nat) : Core :=
  k.modSeq fun q => { q with flight := q.flight.map fun i => if i.order = order then { i with ready := true } else i }

/-! ### A unit's cycle -/

/-- The unit takes up its next instance at its first part. -/
def startPart (s : State) (k : Core) (u : UnitKind) : Core :=
  match unitHead k u with
  | none => k
  | some i =>
    if !(k.pad.jobs (unitNo u)).isEmpty then k
    else if partCount s k i = 0 then markReady k i.order
    else k.modPad fun p => p.setJobs (unitNo u) [Work.reading i.order 0 (partReads s k i 0)]

/-- A part whose words have all come is made. -/
def makePart (s : State) (c : CoreId) (k : Core) (u : UnitKind) : Core :=
  match unitHead k u, k.pad.jobs (unitNo u) with
  | some i, j :: _ =>
    if j.made || !j.hasRead then k
    else
      let m := partMakes s c k i j.part j.words
      m.2.modPad fun p => p.modJob (unitNo u) j.order j.part fun j => { j with made := true, writes := m.1 }
  | _, _ => k

/-- A unit begins its cycle: a part is taken up, made where it reads nothing, and its words are asked for. -/
def postUnit (s : State) (c : CoreId) (k : Core) (u : UnitKind) : Core :=
  let k := makePart s c (startPart s k u) u
  match unitHead k u with
  | none => k
  | some i => k.modPad fun p => p.askUnit (unitNo u) k.arrays.cycle (unitCap s k i)

/-- A unit ends its cycle: the next part follows one whose last word has been written, so that each row of a COPY is written
before the next is read (R178); behind the last part the instance has done its work (R137). -/
def settleUnit (s : State) (c : CoreId) (k : Core) (u : UnitKind) : Core :=
  let k := makePart s c k u
  match unitHead k u, k.pad.jobs (unitNo u) with
  | some i, j :: _ =>
    if !k.pad.jobDone (unitNo u) j then k
    else if j.part + 1 < partCount s k i then
      k.modPad fun p => p.setJobs (unitNo u) [Work.reading i.order (j.part + 1) (partReads s k i (j.part + 1))]
    else markReady (k.modPad fun p => p.setJobs (unitNo u) []) i.order
  | _, _ => k

/-- The units that work through the bank cycles beside the arrays and the DMA unit. -/
def padUnits : List UnitKind := [.v, .m, .x]

/-- A drain begins its cycle: a row whose old words have come is made, and its words are asked for (R71, R123). -/
def postDrain (s : State) (k : Core) (n : Nat) : Core :=
  (drainMake s k n).modPad fun p => p.askUnit n k.arrays.cycle 32

/-- The DMA unit asks for its words; of a freed descriptor only its pending writes are left, which the bank finds stale (R298,
R301). -/
def postDma (s : State) (k : Core) : Core :=
  let live (j : Work) : Bool := s.ring.dmas.any fun d => decide (d.id = j.order)
  k.modPad fun p =>
    let l := (p.jobs 7).map fun j => if live j then j else { j with reads := [] }
    (p.setJobs 7 (l.filter fun j => live j || !p.jobDone 7 j)).askUnit 7 k.arrays.cycle 32

/-- The digest unit asks for its words, up to 128 a cycle (R461). -/
def postDigest (k : Core) : Core := k.modPad fun p => p.askUnit 8 k.arrays.cycle 128

/-- Every unit of a core begins its cycle. -/
def postUnits (s : State) (c : CoreId) (k : Core) : Core :=
  postDigest <| postDma s (padUnits.foldl (postUnit s c) ((List.range 4).foldl (postDrain s) k))

/-- Every unit of a core ends its cycle. -/
def settleUnits (s : State) (c : CoreId) (k : Core) : Core := (List.range 4).foldl (drainSettle s) (padUnits.foldl (settleUnit s c) k)

/-- A word of an arrived flit has been written: the last of a transfer signals its entry (R212, R213). -/
def ingressServed (c : CoreId) (s : State) (r : BankReq) : State :=
  match r.tag with
  | .ingress (some n) => streamDone s c n
  | _ => s

/-- One bank cycle of a core: its units ask, the banks serve, its units take what was served. -/
def padCycle (s : State) (c : CoreId) (reqs : List BankReq) (ups : List (Nat × Check)) : State :=
  let t := s.modCore c fun k => postUnits s c (k.modPad fun p => upsetWords p ups)
  let b := bankCycle t c (dmaStale t c) reqs
  let u := b.2.foldl (ingressServed c) b.1
  u.modCore c (settleUnits u c)

/-- SCRATCHPAD_BANK_CYCLE: each bank serves one request (R163 to R169); upsets are operands (log entry 9). -/
def execScratchpadBankCycle (c : CoreId) (reqs : List BankReq) (ups : List (Nat × Check)) (s : State) : Out :=
  onCore s c (if padRuns s c then padCycle s c reqs ups else s)

/-! ### Power gating and wake (R190, R399) -/

/-- CORE_POWER_GATING: an idle core is gated, with retention where 0x3240.s selects it (R190, R192). -/
def execCorePowerGating (c : CoreId) (s : State) : Out :=
  onCore s c
    (if (s.core c).power = .on ∧ (s.core c).seq.state ≠ .running then
      s.modCore c fun k =>
        { k with
          power := if setting s 0x3240 (c + 1) = 1 then .gatedKeep else .gatedLost,
          recipe := {}, seq := {}, arrays := {},
          pad := { k.pad with waiting := [], out := [], backs := [], work := [] } }
    else s)

/-- CORE_WAKE: contents kept or marked invalid, a full scrub pass started, image written again, and the core's objects
at the epoch of its bake (R130, R188, R190, R294, R455). -/
def execCoreWake (c : CoreId) (s : State) : Out :=
  onCore s c
    (if (s.core c).power = .on then s
    else
      let lost := decide ((s.core c).power = .gatedLost)
      let t := s.modCore c fun k =>
        ({ k with power := .on }).modPad fun p =>
          { (if lost then p.invalidate else p) with scrubRow := [], scrubEnd := [] }
      match (s.core c).inst with
      | none => t
      | some (b, i) =>
        let k := s.bake b
        let u := installCore t b i c
        k.pkg.syncs.zipIdx.foldl
          (fun v e => if hwSync k e.2 / 256 = c then setSyncObj v (hwSync k e.2) ⟨soInit e.1, k.epoch⟩ else v) u)

end Sys2Proof.Machine
end

