-- ==== Sys2Proof/Machine/Dispatch.lean ====
section
/-! DEFINITION. The dispatch: one arm per command. -/

namespace Sys2Proof.Machine

def exec (i : Instr) (s : State) : Host.Outcome State Fault Refusal :=
  match i with
  | .vaonInTolerance badA badB nodeLow => Sys2Proof.Machine.execVaonInTolerance badA badB nodeLow s
  | .coldStart obs => Sys2Proof.Machine.execColdStart obs s
  | .railSequencingFault rail => Sys2Proof.Machine.execRailSequencingFault rail s
  | .thermalTrip hearth => Sys2Proof.Machine.execThermalTrip hearth s
  | .junctionAverageSample t => Sys2Proof.Machine.execJunctionAverageSample t s
  | .hardRstN pin allBelow95 => Sys2Proof.Machine.execHardRstN pin allBelow95 s
  | .pcieHotReset flr => Sys2Proof.Machine.execPcieHotReset flr s
  | .presenceNChange asserted => Sys2Proof.Machine.execPresenceNChange asserted s
  | .alwaysOnSourceSwitch vaonMv held10ms nodeMv => Sys2Proof.Machine.execAlwaysOnSourceSwitch vaonMv held10ms nodeMv s
  | .vbakRead v => Sys2Proof.Machine.execVbakRead v s
  | .refclkLoss => Sys2Proof.Machine.execRefclkLoss s
  | .refclkReturn => Sys2Proof.Machine.execRefclkReturn s
  | .oscillatorFailure site => Sys2Proof.Machine.execOscillatorFailure site s
  | .couplingLineFailure siteA siteB line => Sys2Proof.Machine.execCouplingLineFailure siteA siteB line s
  | .ppsInEdge => Sys2Proof.Machine.execPpsInEdge s
  | .coreFailure core => Sys2Proof.Machine.execCoreFailure core s
  | .mapChangeEffect core => Sys2Proof.Machine.execMapChangeEffect core s
  | .issueSequencerCycle core => Sys2Proof.Machine.execIssueSequencerCycle core s
  | .loaderRowInjection core => Sys2Proof.Machine.execLoaderRowInjection core s
  | .accumulatorAdd core upset => Sys2Proof.Machine.execAccumulatorAdd core upset s
  | .drainRow core arr upset => Sys2Proof.Machine.execDrainRow core arr upset s
  | .counterPublication core => Sys2Proof.Machine.execCounterPublication core s
  | .nop core => Sys2Proof.Machine.execNop core s
  | .loop core => Sys2Proof.Machine.execLoop core s
  | .endloop core => Sys2Proof.Machine.execEndloop core s
  | .sync core => Sys2Proof.Machine.execSync core s
  | .fence core => Sys2Proof.Machine.execFence core s
  | .endStep core => Sys2Proof.Machine.execEndStep core s
  | .matmul core => Sys2Proof.Machine.execMatmul core s
  | .dma core => Sys2Proof.Machine.execDma core s
  | .send core => Sys2Proof.Machine.execSend core s
  | .put core => Sys2Proof.Machine.execPut core s
  | .fill core => Sys2Proof.Machine.execFill core s
  | .copy core => Sys2Proof.Machine.execCopy core s
  | .vadd core => Sys2Proof.Machine.execVadd core s
  | .vsub core => Sys2Proof.Machine.execVsub core s
  | .vmul core => Sys2Proof.Machine.execVmul core s
  | .vfmai core => Sys2Proof.Machine.execVfmai core s
  | .vdiv core => Sys2Proof.Machine.execVdiv core s
  | .vsqrt core => Sys2Proof.Machine.execVsqrt core s
  | .vmin core => Sys2Proof.Machine.execVmin core s
  | .vmax core => Sys2Proof.Machine.execVmax core s
  | .vcmplt core => Sys2Proof.Machine.execVcmplt core s
  | .vrcp core => Sys2Proof.Machine.execVrcp core s
  | .vrsqrt core => Sys2Proof.Machine.execVrsqrt core s
  | .vexp2 core => Sys2Proof.Machine.execVexp2 core s
  | .vexp core => Sys2Proof.Machine.execVexp core s
  | .vcvt core => Sys2Proof.Machine.execVcvt core s
  | .vquant core => Sys2Proof.Machine.execVquant core s
  | .vdequant core => Sys2Proof.Machine.execVdequant core s
  | .vrsum core => Sys2Proof.Machine.execVrsum core s
  | .vrmax core => Sys2Proof.Machine.execVrmax core s
  | .vtopk core => Sys2Proof.Machine.execVtopk core s
  | .vslice core => Sys2Proof.Machine.execVslice core s
  | .stepFinish core order => Sys2Proof.Machine.execStepFinish core order s
  | .resumption slot => Sys2Proof.Machine.execResumption slot s
  | .scratchpadBankCycle core reqs upsets => Sys2Proof.Machine.execScratchpadBankCycle core reqs upsets s
  | .correctionWriteBack core => Sys2Proof.Machine.execCorrectionWriteBack core s
  | .poisonWriteBack core => Sys2Proof.Machine.execPoisonWriteBack core s
  | .scrubRead core bank upset => Sys2Proof.Machine.execScrubRead core bank upset s
  | .corePowerGating core => Sys2Proof.Machine.execCorePowerGating core s
  | .coreWake core => Sys2Proof.Machine.execCoreWake core s
  | .putWordArrival core => Sys2Proof.Machine.execPutWordArrival core s
  | .crumb core => Sys2Proof.Machine.execCrumb core s
  | .fenceProbe core => Sys2Proof.Machine.execFenceProbe core s
  | .probeAnswer core => Sys2Proof.Machine.execProbeAnswer core s
  | .routerSlot crcBad => Sys2Proof.Machine.execRouterSlot crcBad s
  | .streamFlitArrival core => Sys2Proof.Machine.execStreamFlitArrival core s
  | .draughtFlitArrival core => Sys2Proof.Machine.execDraughtFlitArrival core s
  | .scheduleCommit site base period c0 tenant mask density epoch => Sys2Proof.Machine.execScheduleCommit site base period c0 tenant mask density epoch s
  | .scheduleSwitch site => Sys2Proof.Machine.execScheduleSwitch site s
  | .stopMaskApply => Sys2Proof.Machine.execStopMaskApply s
  | .streamStopWord site stream stop => Sys2Proof.Machine.execStreamStopWord site stream stop s
  | .streamStopApply => Sys2Proof.Machine.execStreamStopApply s
  | .draughtCompile plan => Sys2Proof.Machine.execDraughtCompile plan s
  | .syncNetworkTurn core => Sys2Proof.Machine.execSyncNetworkTurn core s
  | .remoteSignalApply => Sys2Proof.Machine.execRemoteSignalApply s
  | .registerWrite reg val => Sys2Proof.Machine.execRegisterWrite reg val s
  | .ringEnable ring val => Sys2Proof.Machine.execRingEnable ring val s
  | .ringDisable ring val => Sys2Proof.Machine.execRingDisable ring val s
  | .tail ring val => Sys2Proof.Machine.execTail ring val s
  | .chead ring val => Sys2Proof.Machine.execChead ring val s
  | .descriptorAccept ring host => Sys2Proof.Machine.execDescriptorAccept ring host s
  | .cancel ring index => Sys2Proof.Machine.execCancel ring index s
  | .readinessPass => Sys2Proof.Machine.execReadinessPass s
  | .nopItem ring index => Sys2Proof.Machine.execNopItem ring index s
  | .load ring index host => Sys2Proof.Machine.execLoad ring index host s
  | .placementComplete slot p => Sys2Proof.Machine.execPlacementComplete slot p s
  | .run ring index host => Sys2Proof.Machine.execRun ring index host s
  | .unload ring index => Sys2Proof.Machine.execUnload ring index s
  | .migrate ring index => Sys2Proof.Machine.execMigrate ring index s
  | .signal ring index => Sys2Proof.Machine.execSignal ring index s
  | .stepCommit slot => Sys2Proof.Machine.execStepCommit slot s
  | .copyOutComplete slot => Sys2Proof.Machine.execCopyOutComplete slot s
  | .completionRecordWrite ring => Sys2Proof.Machine.execCompletionRecordWrite ring s
  | .epochFence slot reason => Sys2Proof.Machine.execEpochFence slot reason s
  | .rePlacement slot trigger canComplete => Sys2Proof.Machine.execRePlacement slot trigger canComplete s
  | .bakeTimeout slot => Sys2Proof.Machine.execBakeTimeout slot s
  | .migrationTarget master slot tenant => Sys2Proof.Machine.execMigrationTarget master slot tenant s
  | .migrationSwitch slot p => Sys2Proof.Machine.execMigrationSwitch slot p s
  | .phaseChange slot phase => Sys2Proof.Machine.execPhaseChange slot phase s
  | .invAddr val => Sys2Proof.Machine.execInvAddr val s
  | .invalidationComplete => Sys2Proof.Machine.execInvalidationComplete s
  | .dmaDescriptorStart host atsDenied upsets => Sys2Proof.Machine.execDmaDescriptorStart host atsDenied upsets s
  | .dmaDescriptorComplete id => Sys2Proof.Machine.execDmaDescriptorComplete id s
  | .translationFault id dva cause => Sys2Proof.Machine.execTranslationFault id dva cause s
  | .priResponse seq success => Sys2Proof.Machine.execPriResponse seq success s
  | .retry seq host atsDenied => Sys2Proof.Machine.execRetry seq host atsDenied s
  | .faultPaging slot => Sys2Proof.Machine.execFaultPaging slot s
  | .faultHoldExpiry slot => Sys2Proof.Machine.execFaultHoldExpiry slot s
  | .channelRetrain ch waitCycles => Sys2Proof.Machine.execChannelRetrain ch waitCycles s
  | .channelRetirement ch planned moves cached => Sys2Proof.Machine.execChannelRetirement ch planned moves cached s
  | .stackRetirement stack cached => Sys2Proof.Machine.execStackRetirement stack cached s
  | .ledgerCopyRebuild south poisoned => Sys2Proof.Machine.execLedgerCopyRebuild south poisoned s
  | .portTraining port goodLanes => Sys2Proof.Machine.execPortTraining port goodLanes s
  | .train port info => Sys2Proof.Machine.execTrain port info s
  | .sequencedFrameReceive port f => Sys2Proof.Machine.execSequencedFrameReceive port f s
  | .ack port f => Sys2Proof.Machine.execAck port f s
  | .frameTransmit port => Sys2Proof.Machine.execFrameTransmit port s
  | .replayTimerExpiry port => Sys2Proof.Machine.execReplayTimerExpiry port s
  | .ackDeadlineInterval port => Sys2Proof.Machine.execAckDeadlineInterval port s
  | .portDown port => Sys2Proof.Machine.execPortDown port s
  | .pmaLockLoss port lanes => Sys2Proof.Machine.execPmaLockLoss port lanes s
  | .laneFailure port lane => Sys2Proof.Machine.execLaneFailure port lane s
  | .portEnable master port en => Sys2Proof.Machine.execPortEnable master port en s
  | .frameForward port => Sys2Proof.Machine.execFrameForward port s
  | .bridgeFlitArrival chiplet f chan => Sys2Proof.Machine.execBridgeFlitArrival chiplet f chan s
  | .data port => Sys2Proof.Machine.execData port s
  | .heldFrameTimeout port => Sys2Proof.Machine.execHeldFrameTimeout port s
  | .reinc port => Sys2Proof.Machine.execReinc port s
  | .channelTableWrite n val => Sys2Proof.Machine.execChannelTableWrite n val s
  | .brokerInterval k slack => Sys2Proof.Machine.execBrokerInterval k slack s
  | .broker port micros => Sys2Proof.Machine.execBroker port micros s
  | .brokerAllocation => Sys2Proof.Machine.execBrokerAllocation s
  | .digestSend => Sys2Proof.Machine.execDigestSend s
  | .digest port => Sys2Proof.Machine.execDigest port s
  | .digestMismatchHold port => Sys2Proof.Machine.execDigestMismatchHold port s
  | .managementFrame port frame => Sys2Proof.Machine.execManagementFrame port frame s
  | .dictDb => Sys2Proof.Machine.execDictDb s
  | .semaphoreAcquire master id => Sys2Proof.Machine.execSemaphoreAcquire master id s
  | .semaphoreRelease master => Sys2Proof.Machine.execSemaphoreRelease master s
  | .leaseExpiry => Sys2Proof.Machine.execLeaseExpiry s
  | .windowOpen master => Sys2Proof.Machine.execWindowOpen master s
  | .windowClose master => Sys2Proof.Machine.execWindowClose master s
  | .windowExpiry => Sys2Proof.Machine.execWindowExpiry s
  | .commit master set => Sys2Proof.Machine.execCommit master set s
  | .discard master set => Sys2Proof.Machine.execDiscard master set s
  | .commitApplication set => Sys2Proof.Machine.execCommitApplication set s
  | .firmwareMessage port m => Sys2Proof.Machine.execFirmwareMessage port m s
  | .messageResend srcm dstm mseq => Sys2Proof.Machine.execMessageResend srcm dstm mseq s
  | .go chan master val => Sys2Proof.Machine.execGo chan master val s
  | .done chan master => Sys2Proof.Machine.execDone chan master s
  | .mailboxRegisterWrite chan reg master val => Sys2Proof.Machine.execMailboxRegisterWrite chan reg master val s
  | .ptpSyncMessage port offset utcNs => Sys2Proof.Machine.execPtpSyncMessage port offset utcNs s
  | .ptpStateChange port sinceSyncMs lockedForMs => Sys2Proof.Machine.execPtpStateChange port sinceSyncMs lockedForMs s
  | .leapSecond => Sys2Proof.Machine.execLeapSecond s
  | .calendarWrite master d => Sys2Proof.Machine.execCalendarWrite master d s
  | .calendarEnd => Sys2Proof.Machine.execCalendarEnd s
  | .copyBWrite => Sys2Proof.Machine.execCopyBWrite s
  | .rescueFrame port frame => Sys2Proof.Machine.execRescueFrame port frame s
  | .stepUp hearth mhz => Sys2Proof.Machine.execStepUp hearth mhz s
  | .stepDown hearth mhz => Sys2Proof.Machine.execStepDown hearth mhz s
  | .voltageSettleTimeout hearth => Sys2Proof.Machine.execVoltageSettleTimeout hearth s
  | .hearthFreeze hearth => Sys2Proof.Machine.execHearthFreeze hearth s
  | .generatorLock hearth => Sys2Proof.Machine.execGeneratorLock hearth s
  | .clockStretch hearth reason on => Sys2Proof.Machine.execClockStretch hearth reason on s
  | .marginWindow hearth codes => Sys2Proof.Machine.execMarginWindow hearth codes s
  | .marginEmergency hearth code aboveLoFor1us => Sys2Proof.Machine.execMarginEmergency hearth code aboveLoFor1us s
  | .capControllerRun avg est belowFor100us aboveFor10ms aboveUs => Sys2Proof.Machine.execCapControllerRun avg est belowFor100us aboveFor10ms aboveUs s
  | .railCurrentLimit hearth avgA estA below1050for1ms => Sys2Proof.Machine.execRailCurrentLimit hearth avgA estA below1050for1ms s
  | .junctionSensorRead hearth hottest at100us => Sys2Proof.Machine.execJunctionSensorRead hearth hottest at100us s
  | .avsbusTelemetryRead rail r => Sys2Proof.Machine.execAvsbusTelemetryRead rail r s
  | .statusWord rail word => Sys2Proof.Machine.execStatusWord rail word s
  | .boost hearth amps overrun => Sys2Proof.Machine.execBoost hearth amps overrun s
  | .shunt hearth overrun => Sys2Proof.Machine.execShunt hearth overrun s
  | .switchOff master hearth => Sys2Proof.Machine.execSwitchOff master hearth s
  | .switchOn master hearth => Sys2Proof.Machine.execSwitchOn master hearth s
  | .undervoltageTrip hearth => Sys2Proof.Machine.execUndervoltageTrip hearth s
  | .overvoltage hearth => Sys2Proof.Machine.execOvervoltage hearth s
  | .hearthLossDeclaration hearth => Sys2Proof.Machine.execHearthLossDeclaration hearth s
  | .fixedRailFault rail => Sys2Proof.Machine.execFixedRailFault rail s
  | .pmbusLoss bus => Sys2Proof.Machine.execPmbusLoss bus s
  | .safeHold hearth => Sys2Proof.Machine.execSafeHold hearth s
  | .safeHoldEnd hearth => Sys2Proof.Machine.execSafeHoldEnd hearth s
  | .railUnmanaged hearth => Sys2Proof.Machine.execRailUnmanaged hearth s
  | .returnToManaged master hearth => Sys2Proof.Machine.execReturnToManaged master hearth s
  | .fwWinWrite off bytes => Sys2Proof.Machine.execFwWinWrite off bytes s
  | .fwCtlGo test plan bindings => Sys2Proof.Machine.execFwCtlGo test plan bindings s
  | .coreReset core test => Sys2Proof.Machine.execCoreReset core test s
  | .hearthReset hearth test => Sys2Proof.Machine.execHearthReset hearth test s
  | .rectangleReset t test => Sys2Proof.Machine.execRectangleReset t test s
  | .warmReset test romW romE => Sys2Proof.Machine.execWarmReset test romW romE s
  | .wholeDeviceReset obs => Sys2Proof.Machine.execWholeDeviceReset obs s
  | .resetBoundary scope b => Sys2Proof.Machine.execResetBoundary scope b s
  | .emberTimerExpiry m crash recent => Sys2Proof.Machine.execEmberTimerExpiry m crash recent s
  | .stokerTakeover => Sys2Proof.Machine.execStokerTakeover s
  | .journalCopy => Sys2Proof.Machine.execJournalCopy s
  | .rescueEntry => Sys2Proof.Machine.execRescueEntry s
  | .rescueReset level => Sys2Proof.Machine.execRescueReset level s
  | .firmwareReload => Sys2Proof.Machine.execFirmwareReload s
  | .digestComplete slot => Sys2Proof.Machine.execDigestComplete slot s
  | .replicaReport slot member r => Sys2Proof.Machine.execReplicaReport slot member r s
  | .checkResolution slot windowRan => Sys2Proof.Machine.execCheckResolution slot windowRan s
  | .bankWhole slot => Sys2Proof.Machine.execBankWhole slot s
  | .bankHostCopyComplete slot ok => Sys2Proof.Machine.execBankHostCopyComplete slot ok s
  | .restore master slot area => Sys2Proof.Machine.execRestore master slot area s
  | .eventRaise index sub sev src arg => Sys2Proof.Machine.execEventRaise index sub sev src arg s
  | .eventLogMove => Sys2Proof.Machine.execEventLogMove s
  | .acknowledged master seq => Sys2Proof.Machine.execAcknowledged master seq s
  | .arm index sub => Sys2Proof.Machine.execArm index sub s
  | .freeze index sub => Sys2Proof.Machine.execFreeze index sub s
  | .clear index sub => Sys2Proof.Machine.execClear index sub s
  | .clearAndArm index sub => Sys2Proof.Machine.execClearAndArm index sub s
  | .monitorSample index sub q => Sys2Proof.Machine.execMonitorSample index sub q s
  | .processorRestart m => Sys2Proof.Machine.execProcessorRestart m s
  | .atsInvalidation iova size => Sys2Proof.Machine.execAtsInvalidation iova size s
  | .failedControllerEvent m => Sys2Proof.Machine.execFailedControllerEvent m s

end Sys2Proof.Machine
end

