-- ==== Sys2Proof/Safety.lean ====
section
/-! DEFINITION. What a safe step is, in the terms claims use: it ends in neither a fault nor a refusal; and the shapes of
effect that claims name: what an event leaves behind, and which part of the state a command may touch. -/

namespace Sys2Proof.Machine

/-- A command completes in a state: `exec` answers a next state. -/
def Completes (i : Instr) (s : State) : Prop := ∃ t, exec i s = .next t

/-- A step of the block stops for no reason. -/
def SafeStep (s : State) : Prop := ∃ t, step s = .next t

/-- An event raised on the way from `s` to `t`: one record more in the queue, stamped with the time of `s` and standing behind the
records of earlier cycles, among those of its own by source; or one more counted lost when 64 records are waiting (R471, R473). -/
def EventRaised (s t : State) (index sub sev : Nat) (src : U8) (arg : Nat) : Prop :=
  if s.aon.queue.length < 64 then
    t.aon.queue = s.aon.queue.take (s.aon.queue.length - eventsNow s) ++
      insertBySrc ⟨0, eventTime s, BitVec.ofNat 16 index, BitVec.ofNat 8 sub, BitVec.ofNat 8 sev, src, BitVec.ofNat 64 arg⟩
        (s.aon.queue.drop (s.aon.queue.length - eventsNow s)) ∧
    t.aon.lost = s.aon.lost
  else t.aon.queue = s.aon.queue ∧ t.aon.lost = s.aon.lost + 1

/-- The event queue is as it was. -/
def NoEvent (s t : State) : Prop := t.aon.queue = s.aon.queue ∧ t.aon.lost = s.aon.lost

/-- The always-on block but for its event queue. -/
def AonKept (s t : State) : Prop :=
  t.aon = { s.aon with queue := t.aon.queue, queuedAt := t.aon.queuedAt, queuedNew := t.aon.queuedNew, lost := t.aon.lost }

/-- The end of a reset below warm level: its record is that of the reset that ran, and none runs any more (R446, R456). -/
def LowResetDone (s t : State) : Prop :=
  t.recov.running = none ∧ t.recov.last.level = s.recov.cur.level ∧ t.recov.last.cause = s.recov.cur.cause ∧
    t.fuse = s.fuse ∧ t.pending = s.pending

/-- The core a step command names and the test its step must pass at the head of the sequencer; SYNC's FENCE entries have a
command of their own with conditions of its own. -/
def stepOf : Instr → Option (CoreId × (W256 → Bool))
  | .nop c => some (c, isOp opNop)
  | .loop c => some (c, isOp opLoop)
  | .endloop c => some (c, isOp opEndloop)
  | .sync c => some (c, isOp opSync)
  | .endStep c => some (c, isOp opEnd)
  | .matmul c => some (c, isOp opMatmul)
  | .dma c => some (c, isOp opDma)
  | .send c => some (c, isOp opSend)
  | .put c => some (c, isOp opPut)
  | .fill c => some (c, isOp opFill)
  | .copy c => some (c, isOp opCopy)
  | .vadd c => some (c, isVec 0x01)
  | .vsub c => some (c, isVec 0x02)
  | .vmul c => some (c, isVec 0x03)
  | .vfmai c => some (c, isVec 0x04)
  | .vdiv c => some (c, isVec 0x05)
  | .vsqrt c => some (c, isVec 0x06)
  | .vmin c => some (c, isVec 0x07)
  | .vmax c => some (c, isVec 0x08)
  | .vcmplt c => some (c, isVec 0x09)
  | .vrcp c => some (c, isVec 0x10)
  | .vrsqrt c => some (c, isVec 0x11)
  | .vexp2 c => some (c, isVec 0x12)
  | .vexp c => some (c, isVec 0x13)
  | .vcvt c => some (c, isVec 0x20)
  | .vquant c => some (c, isVec 0x21)
  | .vdequant c => some (c, isVec 0x22)
  | .vrsum c => some (c, isVec 0x30)
  | .vrmax c => some (c, isVec 0x31)
  | .vtopk c => some (c, isVec 0x32)
  | .vslice c => some (c, isVec 0x40)
  | _ => none

/-- The step at the head of core `c` passes the test `q` and may issue now (R54, R135, R138, R158). -/
def MayIssue (s : State) (c : CoreId) (q : W256 → Bool) : Prop :=
  coreExists s c = true ∧ seqRuns s c = true ∧ q (headStep (s.core c)) = true ∧ skips (s.core c) = false ∧ canIssue s c = true

/-- The step at the head has entered a unit's queue as the newest instance, and the sequencer has moved past it. -/
def EntersUnit (s t : State) (c : CoreId) (u : UnitKind) (ready : Bool) : Prop :=
  (∃ failed n, (t.core c).seq.flight.getLast? =
    some ⟨(s.core c).seq.order + 1, (s.core c).seq.step, (s.core c).seq.vars, u, ready, failed, n⟩) ∧
  (t.core c).seq.flight.length = (s.core c).seq.flight.length + 1 ∧ (t.core c).seq.step = (s.core c).seq.step + 1 ∧
  (t.core c).seq.order = (s.core c).seq.order + 1 ∧ (t.core c).seq.loops = (s.core c).seq.loops ∧
  (t.core c).recipe = (s.core c).recipe ∧ (t.core c).bind = (s.core c).bind

/-- No unit of the core wants its scratchpad: nothing waits for a bank, no write-back is queued, no unit has work, and no step is in
flight. -/
def PadQuiet (k : Core) : Prop := k.pad.waiting = [] ∧ k.pad.backs = [] ∧ k.pad.work = [] ∧ k.seq.flight = []

/-- Item `i` of ring `r` may start and nothing of its descriptor stops it: it is startable, no cancel of it waits for the next pass, its
operation is `op`, and it passes the checks of R277, R278 and R290. -/
def ItemRuns (s : State) (r : Nat) (i : U32) (op : Nat) (x : Item) : Prop :=
  getItem s r i = some x ∧ x.startable = true ∧ x.started = false ∧ x.status = none ∧ wdOp x.desc = op ∧
    i ∉ (s.workRing r).cancels ∧ descBad x.desc = none ∧ waitBad s r x = none ∧ wdRpl x.desc = false

/-- Every item but item `i` of ring `r` is as it was. -/
def OtherItemsKept (s t : State) (r : Nat) (i : U32) : Prop :=
  (∀ j, j ≠ i → getItem t r j = getItem s r j) ∧ ∀ q, q ≠ r → t.workRing q = s.workRing q

/-- Host memory is as it was outside `n` bytes from address `a`. -/
def HostKept (s t : State) (a n : Nat) : Prop := ∀ x, (x < a ∨ a + n ≤ x) → mget 0 t.host x = mget 0 s.host x

/-- A firmware message is on its way on the die: the newest draught flit that waits for its agent's turn, the newest message of the
agent switch where one port serves both agents, or on the control chains (R196, R197). -/
def OnItsWay (s t : State) (m : FwMsg) : Prop :=
  match agentOf m.srcm.toNat, agentOf m.dstm.toNat with
  | some a, some b =>
    t.ctl.onDie = s.ctl.onDie ∧
      (if boundPort s a = boundPort s b then t.flue.ring = s.flue.ring ++ [(b, msgFlit m)] ∧ t.flue.ringOut = s.flue.ringOut
       else t.flue.ringOut = s.flue.ringOut ++ [(a, msgFlit m)] ∧ t.flue.ring = s.flue.ring)
  | _, _ => t.ctl.onDie = m :: s.ctl.onDie ∧ t.flue.ring = s.flue.ring ∧ t.flue.ringOut = s.flue.ringOut

/-- A message on the die has been taken, and its acknowledgment with a status is on its way back (R381). -/
def AnswerSent (s t : State) (m : FwMsg) (status : U32) : Prop :=
  OnItsWay (takeOnDie s m) t { dstm := m.srcm, srcm := m.dstm, mclass := 2, mseq := 0, mack := m.mseq, status := status, body := [] }

/-- A management master writes the dictionary now: it is served, and the master is MGMT-A or MGMT-B (R359 checks 1 to 3). -/
def MasterWrites (s : State) (m : U8) : Prop := served s = true ∧ (m = 1 ∨ m = 2)

/-- A management master that holds the semaphore writes the dictionary now (R359, R371). -/
def HolderWrites (s : State) (m : U8) : Prop := MasterWrites s m ∧ s.aon.holder = m

/-- Every core but `c` is as it was. -/
def OtherCoresKept (s t : State) (c : CoreId) : Prop := ∀ d, d ≠ c → t.core d = s.core d

/-- The unit a command names exists (R5, R32): a core of the grid, a bake slot, a site with a router, a stack channel, a channel of the
links, a processor. A command that names no numbered unit needs none. -/
def unitExists (i : Instr) (s : State) : Bool :=
  match i with
  | .oscillatorFailure p => decide (p < 256)
  | .couplingLineFailure p q _ => decide (p < 256) && decide (q < 256)
  | .coreFailure c => coreExists s c
  | .mapChangeEffect c => coreExists s c
  | .issueSequencerCycle c => coreExists s c
  | .loaderRowInjection c => coreExists s c
  | .accumulatorAdd c _ => coreExists s c
  | .drainRow c _ _ => coreExists s c
  | .counterPublication c => coreExists s c
  | .nop c => coreExists s c
  | .loop c => coreExists s c
  | .endloop c => coreExists s c
  | .sync c => coreExists s c
  | .fence c => coreExists s c
  | .endStep c => coreExists s c
  | .matmul c => coreExists s c
  | .dma c => coreExists s c
  | .send c => coreExists s c
  | .put c => coreExists s c
  | .fill c => coreExists s c
  | .copy c => coreExists s c
  | .vadd c => coreExists s c
  | .vsub c => coreExists s c
  | .vmul c => coreExists s c
  | .vfmai c => coreExists s c
  | .vdiv c => coreExists s c
  | .vsqrt c => coreExists s c
  | .vmin c => coreExists s c
  | .vmax c => coreExists s c
  | .vcmplt c => coreExists s c
  | .vrcp c => coreExists s c
  | .vrsqrt c => coreExists s c
  | .vexp2 c => coreExists s c
  | .vexp c => coreExists s c
  | .vcvt c => coreExists s c
  | .vquant c => coreExists s c
  | .vdequant c => coreExists s c
  | .vrsum c => coreExists s c
  | .vrmax c => coreExists s c
  | .vtopk c => coreExists s c
  | .vslice c => coreExists s c
  | .stepFinish c _ => coreExists s c
  | .resumption b => decide (1 ≤ b) && decide (b ≤ 64)
  | .scratchpadBankCycle c _ _ => coreExists s c
  | .correctionWriteBack c => coreExists s c
  | .poisonWriteBack c => coreExists s c
  | .scrubRead c _ _ => coreExists s c
  | .corePowerGating c => coreExists s c
  | .coreWake c => coreExists s c
  | .putWordArrival c => coreExists s c
  | .crumb c => coreExists s c
  | .fenceProbe c => coreExists s c
  | .probeAnswer c => coreExists s c
  | .streamFlitArrival c => coreExists s c
  | .draughtFlitArrival c => coreExists s c
  | .scheduleCommit p _ _ _ _ _ _ _ => hasRouter s p
  | .scheduleSwitch p => hasRouter s p
  | .syncNetworkTurn c => coreExists s c
  | .placementComplete b _ => decide (1 ≤ b) && decide (b ≤ 64)
  | .stepCommit b => decide (1 ≤ b) && decide (b ≤ 64)
  | .copyOutComplete b => decide (1 ≤ b) && decide (b ≤ 64)
  | .epochFence b _ => decide (1 ≤ b) && decide (b ≤ 64)
  | .rePlacement b _ _ => decide (1 ≤ b) && decide (b ≤ 64)
  | .bakeTimeout b => decide (1 ≤ b) && decide (b ≤ 64)
  | .migrationTarget _ b _ => decide (1 ≤ b) && decide (b ≤ 64)
  | .migrationSwitch b _ => decide (1 ≤ b) && decide (b ≤ 64)
  | .phaseChange b _ => decide (1 ≤ b) && decide (b ≤ 64)
  | .faultPaging b => decide (1 ≤ b) && decide (b ≤ 64)
  | .faultHoldExpiry b => decide (1 ≤ b) && decide (b ≤ 64)
  | .channelRetrain n _ => decide (n < 640)
  | .channelRetirement n _ _ _ => decide (n < 640)
  | .coreReset c _ => coreExists s c
  | .rectangleReset b _ => decide (1 ≤ b) && decide (b ≤ 64)
  | .emberTimerExpiry m _ _ => decide (1 ≤ m) && decide (m ≤ 30)
  | .digestComplete b => decide (1 ≤ b) && decide (b ≤ 64)
  | .replicaReport b _ _ => decide (1 ≤ b) && decide (b ≤ 64)
  | .checkResolution b _ => decide (1 ≤ b) && decide (b ≤ 64)
  | .bankWhole b => decide (1 ≤ b) && decide (b ≤ 64)
  | .bankHostCopyComplete b _ => decide (1 ≤ b) && decide (b ≤ 64)
  | .restore _ b _ => decide (1 ≤ b) && decide (b ≤ 64)
  | .processorRestart m => decide (1 ≤ m) && decide (m ≤ 30)
  | .failedControllerEvent m => decide (1 ≤ m) && decide (m ≤ 30)
  | _ => true

/-- What only grows in the fuses: keys once revoked stay revoked, the minimum security version never falls, and all that
the tester burned stays as it is (R31, R440). -/
def FuseGrown (a b : Fuse) : Prop :=
  b.grade = a.grade ∧ b.defective = a.defective ∧ b.tracks = a.tracks ∧ b.columns = a.columns ∧ b.spareRows = a.spareRows ∧ b.keyHash = a.keyHash ∧
    b.serial = a.serial ∧ b.mac = a.mac ∧ b.vf = a.vf ∧ a.revoked &&& b.revoked = a.revoked ∧ a.minSvn ≤ b.minSvn

/-- The canonical form of host memory as the device knows it: addresses strictly rising, no byte listed that reads 0 anyway. -/
def HostWf (m : List Host.Cell) : Prop := smWf (fun _ => 0) m = true

/-- The canonical form of the stacks: word addresses strictly rising, no word listed that was never written. -/
def StacksWf (m : SMap (Option U64)) : Prop := smWf (fun _ => none) m = true

/-- Both addressed memories outside the cores are in their canonical form. -/
def Memory.wf (s : State) : Bool := smWf (fun _ => 0) s.host && smWf (fun _ => none) s.hbm.words

end Sys2Proof.Machine
end

