-- ==== Sys2Proof/Certificates/Slice0/Obligations.lean ====
section
/-! DEFINITION. What is claimed of the block, from the rules of spec/: one `Prop` for each obligation of OBLIGATIONS.json. -/

open Sys2Proof Sys2Proof.Machine

/-- One step takes the command at the front of the queue and runs it with the queue's rest; on an empty queue the block idles, which is the model's
choice (log entry 2). A word spells no command, since the table gives no row any bits (log entry 17). -/
def Obligations.StepRunsTheFrontCommand : Prop :=
  (∀ s c rest, s.pending = c :: rest → step s = exec c { s with pending := rest }) ∧ (∀ s, s.pending = [] → step s = .next s) ∧
  (∀ (s : State) n w, s.withFetchWord n w = s)

/-- R5, R32: a command completes exactly where the unit it names exists; on any other unit it is the fault of the model's log entry 14. No state
and no operand makes any other fault, and none a refusal. -/
def Obligations.CommandsCompleteOnExistingUnits : Prop :=
  ∀ i s, (unitExists i s = true → ∃ t, exec i s = .next t) ∧ (unitExists i s = false → exec i s = .fault .noSuchUnit)

/-- Every step keeps host memory and the stacks in their canonical form. -/
def Obligations.EveryStepKeepsMemoryCanonical : Prop :=
  ∀ s t, Memory.wf s = true → step s = .next t → Memory.wf t = true

/-- R31, R440: no command touches the queue of waiting commands, and none takes anything back from the fuses: what the tester burned stays, a revoked
key stays revoked, and the minimum security version never falls. -/
def Obligations.EveryCommandKeepsQueueAndFuses : Prop :=
  ∀ i s t, exec i s = .next t → t.pending = s.pending ∧ FuseGrown s.fuse t.fuse

/-- The state after reset: both memories are in their canonical form and list nothing, nothing waits, the dictionary holds its reset values, and no
hearth, port, bake or ring is at work. -/
def Obligations.ResetStateIsAtRest : Prop :=
  Memory.wf State.reset = true ∧ State.reset.pending = [] ∧ State.reset.host = [] ∧ State.reset.hbm.words = [] ∧
  State.reset.aon.rescue = 0 ∧ State.reset.recov.dev = 0 ∧ State.reset.recov.running = none ∧ State.reset.aon.queue = [] ∧
  setting State.reset 0x4101 1 = 800 ∧ setting State.reset 0x7002 1 = 3 ∧ (∀ b, (State.reset.bake b).state = 0) ∧
  (∀ p, (State.reset.port p).state = 0) ∧ (∀ r, rcEn (State.reset.workRing r).ctl = false) ∧ (∀ n, (State.reset.hearth n).target ≤ 2000)

/-- R282: a descriptor whose nonzero token equals the token of an item of the same ring that is accepted and not yet completed fails with status 0x09;
it does not run. The engine finds it at its second pass over the item. -/
def Obligations.DuplicateTokenFailsUnrun : Prop :=
  (∀ s r x y, getItem s r y.index = some y → y.status = none → y.started = false → y.ready = false → x ∈ earlier (s.workRing r) y →
    wdToken y.desc ≠ 0 → wdToken x.desc = wdToken y.desc → ∃ z d, getItem (readyItem s r y) r y.index = some z ∧ d ∈ earlier (s.workRing r) y ∧
      wdToken d.desc = wdToken y.desc ∧ z = { y with state := 4, status := some (9, BitVec.ofNat 128 d.index.toNat) } ∧
      OtherItemsKept s (readyItem s r y) r y.index) ∧
  (∀ s r x y, r < 64 → (s.workRing r).ledger = [x, y] → x.index ≠ y.index → (s.workRing r).cancels = [] → x.status = none → x.started = true →
    y.status = none → y.started = false → y.ready = false → wdToken y.desc ≠ 0 → wdToken x.desc = wdToken y.desc → ∃ t,
      exec .readinessPass s = .next t ∧
      (t.workRing r).ledger = [x, { y with state := 4, status := some (9, BitVec.ofNat 128 x.index.toNat) }])

/-- R418: each hearth's current is limited: a 1 ms average above 1,100 A lowers its rail-current limit by one step per 25 µs, an estimate above 1,300 A
stretches it with reason 0x6, and the limit rises again after 1 ms below 1,050 A. A step is 25 MHz and the limit stays from 600 to 2,000 MHz; a hearth
at 600 MHz is not stretched. -/
def Obligations.RailCurrentLimitsTheHearth : Prop :=
  ∀ s (n : Fin 16) avg est b, ∃ t, exec (.railCurrentLimit n avg est b) s = .next t ∧
    (1100 < avg → (t.hearth n).railLim = max 600 ((s.hearth n).railLim - 25)) ∧
    (avg ≤ 1100 → b = true → (t.hearth n).railLim = min 2000 ((s.hearth n).railLim + 25)) ∧
    (avg ≤ 1100 → b = false → (t.hearth n).railLim = (s.hearth n).railLim) ∧
    (est ≤ 1300 → 6 ∉ (t.hearth n).stretch) ∧ (1300 < est → (s.hearth n).freq ≠ 600 → 6 ∈ (t.hearth n).stretch) ∧
    (∀ m, m ≠ n.val → t.hearth m = s.hearth m) ∧ t = { s with hearths := t.hearths }

/-- R39, R372, R391, R371: the presence pin, and the always-on supply. Deassertion of PRESENCE_N closes the window; below
2.90 V the supply is VBAK and the semaphore is released; after 10 ms at or above 3.05 V it is VAON again. Nothing outside the
always-on block changes, but for the staging that a loss of VAON discards.

R391: VBAK is read every second; the event is raised on the way below 0x1401.03 alone. -/
def Obligations.PresenceAndSupplySwitch : Prop :=
  ((∀ s, exec (.presenceNChange true) s = .next { s with aon := { s.aon with presence := true } }) ∧
   (∀ s, exec (.presenceNChange false) s =
     .next { s with aon := { s.aon with presence := false, window := false, windowLeft := 0 } }) ∧
   (∀ s t, exec (.presenceNChange false) s = .next t → testPortBypass t = true) ∧
   (∀ s mv held node, s.aon.onVbak = false → mv < 2900 → ∃ t, exec (.alwaysOnSourceSwitch mv held node) s = .next t ∧
     t.aon = { s.aon with
       onVbak := true, latch := s.aon.latch || decide (node < 1800), holder := 0, leaseLeft := 0, window := false, windowLeft := 0 } ∧
     t.ctl.dict = { s.ctl.dict with staging := [] } ∧ t = { s with aon := t.aon, ctl := { s.ctl with dict := t.ctl.dict } }) ∧
   (∀ s mv node, s.aon.onVbak = true → 3050 ≤ mv → exec (.alwaysOnSourceSwitch mv true node) s =
     .next { s with aon := { s.aon with onVbak := false, latch := s.aon.latch || decide (node < 1800) } }) ∧
   (∀ s mv held node, s.aon.onVbak = true → (mv < 3050 ∨ held = false) → exec (.alwaysOnSourceSwitch mv held node) s =
     .next { s with aon := { s.aon with latch := s.aon.latch || decide (node < 1800) } })) ∧
  (∀ s v, ∃ t, exec (.vbakRead v) s = .next t ∧ t.aon.vbak = v ∧
     t.aon.vbakLow = (fv32 v).lt (fv32 (BitVec.ofNat 32 (setting s 0x1401 3))) ∧
     (if t.aon.vbakLow = true ∧ s.aon.vbakLow = false then EventRaised s t 0x1401 1 1 0xFF 0 else NoEvent s t) ∧
     t = { s with aon := { s.aon with
       vbak := v, vbakLow := t.aon.vbakLow, queue := t.aon.queue, queuedAt := t.aon.queuedAt, queuedNew := t.aon.queuedNew
       lost := t.aon.lost } })

/-- R388, R389, R390: time. A PPS edge is timestamped and steers nothing; a SYNC message sets the calendar only in state
locked; a leap second repeats one second; the calendar stops at its last instant with an event.

R388: PTP is locked after the offset has stayed within 100 ns for 10 s of messages at most 2 s old; without a master it is
off; 2 s without a message put it in holdover and 12 s off. The calendar is valid from the first lock on. -/
def Obligations.TimeFollowsItsSources : Prop :=
  ((∀ s, exec .ppsInEdge s = .next { s with ctl := { s.ctl with pps := s.aon.calendar, ppsSeen := true } }) ∧
   (∀ s p off utc, s.ctl.ptpState = 2 → ∃ t, exec (.ptpSyncMessage p off utc) s = .next t ∧
     t.aon = { s.aon with calendar := min (8 * utc) (calendarMax - 1), calValid := true } ∧
     t.ctl = { s.ctl with ptpOff := off, ptpPort := BitVec.ofNat 8 (p.val + 1), ptpUtc := utc } ∧ t = { s with aon := t.aon, ctl := t.ctl }) ∧
   (∀ s p off utc, s.ctl.ptpState ≠ 2 → ∃ t, exec (.ptpSyncMessage p off utc) s = .next t ∧
     t.ctl = { s.ctl with ptpOff := off, ptpPort := BitVec.ofNat 8 (p.val + 1), ptpUtc := utc } ∧ t = { s with ctl := t.ctl }) ∧
   (∀ s, s.ctl.ptpState = 2 → exec .leapSecond s = .next { s with aon := { s.aon with calendar := s.aon.calendar - 8000000000 } }) ∧
   (∀ s, calendarMax - 8 ≤ s.aon.calendar → s.aon.calStopped = false → ∃ t, exec .calendarEnd s = .next t ∧
     t.aon.calendar = calendarMax - 8 ∧ t.aon.calStopped = true ∧ EventRaised s t 0x1400 1 0 0xFF 0 ∧
     t = { s with aon := { s.aon with
       calendar := t.aon.calendar, calStopped := true, queue := t.aon.queue, queuedAt := t.aon.queuedAt
       queuedNew := t.aon.queuedNew, lost := t.aon.lost } })) ∧
  ((∀ s p since lck, p ≠ 0 → since < 2000 → s.ctl.ptpOff.natAbs ≤ 100 → 10000 ≤ lck →
     ∃ t, exec (.ptpStateChange p since lck) s = .next t ∧ t.ctl = { s.ctl with ptpState := 2, ptpPort := p } ∧
       t.aon = { s.aon with calValid := true } ∧ t = { s with ctl := t.ctl, aon := t.aon }) ∧
   (∀ s since lck, exec (.ptpStateChange 0 since lck) s = .next { s with ctl := { s.ctl with ptpState := 0, ptpPort := 0 } }) ∧
   (∀ s p since lck, p ≠ 0 → s.ctl.ptpState ≠ 0 → s.ctl.ptpState ≠ 3 → 2000 ≤ since →
     exec (.ptpStateChange p since lck) s = .next { s with ctl := { s.ctl with ptpState := 3, ptpPort := p } }) ∧
   (∀ s p since lck, s.ctl.ptpState = 3 → 12000 ≤ since →
     exec (.ptpStateChange p since lck) s = .next { s with ctl := { s.ctl with ptpState := 0, ptpPort := 0 } }))

/-- R43, R45, R392, R430, R442: a thermal trip stops every hearth clock, asserts THERMTRIP_N and is recorded in both copies of the
persistent records; a rail sequencing fault and a fault of a fixed rail hold the device in rescue state 0x2 with causes 0x3 and 0x4.

R47, R48: swings of the junction average. The first sample starts the tracking; a fall of more than 15 K below the peak, after a
rise, closes a swing, which counts as large from 40 K on and as medium from 15 K on.

R392: copy B of the persistent records follows copy A. -/
def Obligations.TripsSwingsAndPersistentCopies : Prop :=
  ((∀ s n, ∃ t, exec (.thermalTrip n) s = .next t ∧ (∀ i < 16, (t.hearth i).frozen = true) ∧ t.aon.thermTrip = true ∧
     t.aon.recA.thermTrips = s.aon.recA.thermTrips + 1 ∧ t.aon.recB = t.aon.recA ∧ EventRaised s t 0x2200 (n.val + 1) 3 0xFF 0 ∧
     t = { s with hearths := t.hearths, aon := t.aon }) ∧
   (∀ s r, ∃ t, exec (.railSequencingFault r) s = .next t ∧ t.aon.rescue = 2 ∧ t.aon.cause = 3 ∧ t.recov.active = 0 ∧
     t.aon.recA.seqFaults = s.aon.recA.seqFaults ++ [r] ∧ t.cores = [] ∧ t.baker = {} ∧ t.ring = {} ∧ t.hbm = {} ∧
     t.fuse = s.fuse ∧ t.host = s.host) ∧
   (∀ s (r : Fin 22), 16 ≤ r.val → ∃ t, exec (.fixedRailFault r) s = .next t ∧ t.aon.rescue = 2 ∧ t.aon.cause = 4 ∧
     t.recov.active = 0 ∧ EventRaised s t 0x7110 1 3 0xFF 4 ∧ t.cores = [] ∧ t.baker = {} ∧ t.ring = {} ∧ t.hbm = {} ∧
     t.fuse = s.fuse ∧ t.host = s.host)) ∧
  ((∀ s x, s.aon.recA.swing = none → ∃ t, exec (.junctionAverageSample x) s = .next t ∧ t.aon.recA.swing = some (x, x) ∧
     t.aon.recA.large = s.aon.recA.large ∧ t.aon.recA.medium = s.aon.recA.medium ∧ NoEvent s t ∧
     t = { s with aon := { s.aon with recA := t.aon.recA } }) ∧
   (∀ s x p q, s.aon.recA.swing = some (p, q) → s.aon.recA.rising = true → x < p - 15000 →
     ∃ t, exec (.junctionAverageSample x) s = .next t ∧ t.aon.recA.rising = false ∧ t.aon.recA.swing = some (p, x) ∧
       t.aon.recA.large = (if 40000 ≤ p - q then s.aon.recA.large + 1 else s.aon.recA.large) ∧
       t.aon.recA.medium = (if 15000 ≤ p - q ∧ p - q < 40000 then s.aon.recA.medium + 1 else s.aon.recA.medium)) ∧
   (∀ s x p q, s.aon.recA.swing = some (p, q) → s.aon.recA.rising = true → p - 15000 ≤ x →
     ∃ t, exec (.junctionAverageSample x) s = .next t ∧ t.aon.recA.swing = some (max p x, q) ∧ t.aon.recA.rising = true ∧
       t.aon.recA.large = s.aon.recA.large ∧ t.aon.recA.medium = s.aon.recA.medium ∧ NoEvent s t)) ∧
  (∀ s, exec .copyBWrite s = .next { s with aon := { s.aon with recB := s.aon.recA } })

/-- R31, R391, R393, R434: at VAON_IN_TOLERANCE everything outside the always-on block, the fuses and host memory is held in reset,
the crash records and the record of the last reset apart; the retention latch, set or just found set, makes the calendar invalid and
the records fall back to copy B; a fuse word bad in both copies holds the device in rescue state 0x2 with cause 0x5.

R43, R45, R371, R372, R441, R442, R454: a whole-device reset holds everything outside the always-on block, the fuses and host memory,
releases the semaphore and closes the window. HARD_RST_N ends a held reset, but not one for a rail sequencing fault; THERMTRIP_N goes
only with every sensor below 95 °C, and until then every hearth clock stands still. A whole-device reset that is asked for while the
device is held leaves it held. -/
def Obligations.VaonAndWholeDeviceResetHoldTheRest : Prop :=
  ((∀ s badA badB low, ∃ t, exec (.vaonInTolerance badA badB low) s = .next t ∧
     t.fuse = { s.fuse with badA := badA, badB := badB } ∧
     t = { State.reset with fuse := t.fuse, aon := t.aon, host := s.host, pending := s.pending, recov := t.recov } ∧
     (∀ e ∈ t.recov.procs, e.2 = { crash := e.2.crash }) ∧ t.recov.last = s.recov.last ∧
     t.aon.window = false ∧ t.aon.holder = 0 ∧ t.aon.onVbak = false ∧ t.aon.thermTrip = false) ∧
   (∀ s badA badB low, (s.aon.latch = true ∨ low = true) → ∃ t, exec (.vaonInTolerance badA badB low) s = .next t ∧
     t.aon.latch = false ∧ t.aon.calValid = false ∧ t.aon.calendar = 0 ∧
     t.aon.recA = { s.aon.recB with fallbacks := s.aon.recB.fallbacks + 1, swing := none, rising := true } ∧
     t.aon.recB = t.aon.recA) ∧
   (∀ s badA badB, s.aon.latch = false → ∃ t, exec (.vaonInTolerance badA badB false) s = .next t ∧
     t.aon.calValid = s.aon.calValid ∧ t.aon.calendar = s.aon.calendar ∧ t.aon.recA = s.aon.recA ∧ t.aon.recB = s.aon.recB) ∧
   (∀ s badA badB low w, w ∈ badA → w ∈ badB → ∃ t, exec (.vaonInTolerance badA badB low) s = .next t ∧
     t.aon.rescue = 2 ∧ t.aon.cause = 5 ∧ t.recov.dev = 5 ∧ t.recov.active = 0) ∧
   (∀ s badA badB low, (∀ w ∈ badA, w ∉ badB) → ∃ t, exec (.vaonInTolerance badA badB low) s = .next t ∧
     t.aon.rescue = 0 ∧ t.aon.cause = 0 ∧ t.recov.dev = 0 ∧ t.aon.queue = s.aon.queue)) ∧
  ((∀ s cool, heldByRails s = false → (s.aon.thermTrip = false ∨ cool = true) → ∃ t, exec (.hardRstN .hardRst cool) s = .next t ∧
     t.aon.rescue = 0 ∧ t.aon.cause = 0 ∧ t.aon.thermTrip = false ∧ t.aon.holder = 0 ∧ t.aon.window = false ∧
     t.aon.calendar = s.aon.calendar ∧ t.aon.recA = { s.aon.recA with resets := mmod 0 s.aon.recA.resets 5 (· + 1) } ∧
     t.recov.running = some .whole ∧ t.recov.cur = { level := 5, cause := 4, start := 0 } ∧
     t = { State.reset with fuse := s.fuse, aon := t.aon, host := s.host, pending := s.pending, recov := t.recov }) ∧
   (∀ s pin cool, s.aon.thermTrip = true → (pin ≠ .hardRst ∨ cool = false) → ∃ t, exec (.hardRstN pin cool) s = .next t ∧
     t.aon.thermTrip = true ∧ ∀ i < 16, (t.hearth i).frozen = true) ∧
   (∀ s pin cool, heldByRails s = true → ∃ t, exec (.hardRstN pin cool) s = .next t ∧ t.aon.rescue = 2 ∧ t.aon.cause = 3 ∧
     t.recov.running = none ∧ t.recov.dev = 5) ∧
   (∀ s pin cool, pin ≠ .hardRst → s.aon.rescue = 2 → ∃ t, exec (.hardRstN pin cool) s = .next t ∧ t.aon.rescue = 2 ∧
     t.recov.running = none ∧ t.recov.dev = 5 ∧ t.aon.thermTrip = s.aon.thermTrip) ∧
   (∀ s pin cool, pin ≠ .hardRst → s.aon.rescue ≠ 2 → ∃ t, exec (.hardRstN pin cool) s = .next t ∧ t.aon.rescue = 0 ∧
     t.recov.running = some .whole ∧ t.recov.cur.cause = 3) ∧
   (∀ s o, s.recov.running ≠ some .whole → (∀ r ∈ s.recov.requests, r.1 ≠ .whole) → exec (.wholeDeviceReset o) s = .next s) ∧
   (∀ s o, s.recov.running = some .whole → s.aon.rescue = 2 → ∃ t, exec (.wholeDeviceReset o) s = .next t ∧ t.aon.rescue = 2 ∧
     t.aon.cause = s.aon.cause ∧ t.recov.running = none ∧ t.recov.dev = 5 ∧ t.fuse = s.fuse ∧ t.host = s.host ∧ t.pending = s.pending) ∧
   (∀ s o, s.recov.running = some .whole → s.aon.rescue ≠ 2 → ∃ t, exec (.wholeDeviceReset o) s = .next t ∧ t.recov.last = s.recov.cur ∧
     t.fuse = { s.fuse with badA := o.badA, badB := o.badB } ∧ t.host = s.host ∧ t.pending = s.pending ∧
     ((∃ w ∈ o.badA, w ∈ o.badB) → t.aon.rescue = 2 ∧ t.aon.cause = 5) ∧
     ((∀ w ∈ o.badA, w ∉ o.badB) → o.romW = false → o.romE = false → t.aon.rescue = 1 ∧ t.aon.cause = 1) ∧
     (t.aon.rescue = 0 → t.recov.running = none ∧ t.recov.dev = 1 ∧ t.recov.fwState = 1)))

/-- R31, R45, R401, R402, R435, R436, R453, R454: a cold start runs only from the ROM stage, or from a held reset once the board has
repeated its sequence. A fuse word bad in both copies holds the device in reset. With the west Stoker's self-test passed it is the
active one, else the east one with an event; with both failed the device enters rescue mode with cause 0x1. The record of the last
reset becomes level 0x5, cause 0x7, and the fuses but for what this read found of their copies, and host memory, are untouched.

R441, R447, R453: a warm reset runs at its boundary. With neither Stoker's ROM self-test passed it is rescue mode with cause 0x1;
a bad image is rejected; else it ends in device state 0x3 with no reset running, rescue mode left. -/
def Obligations.StartsRunTheRomStage : Prop :=
  ((∀ s o, (s.recov.dev ≠ 0 ∨ s.aon.rescue ≠ 0) → (s.aon.rescue ≠ 2 ∨ o.repeated = false) → exec (.coldStart o) s = .next s) ∧
   (∀ s o w, (s.recov.dev = 0 ∧ s.aon.rescue = 0) ∨ (s.aon.rescue = 2 ∧ o.repeated = true) → w ∈ o.badA → w ∈ o.badB →
     ∃ t, exec (.coldStart o) s = .next t ∧ t.aon.rescue = 2 ∧ t.aon.cause = 5 ∧ t.recov.dev = 5 ∧ t.recov.active = 0) ∧
   (∀ s o, s.recov.dev = 0 → s.aon.rescue = 0 → (∀ w ∈ o.badA, w ∉ o.badB) → o.romW = false → o.romE = false →
     ∃ t, exec (.coldStart o) s = .next t ∧
     t.aon.rescue = 1 ∧ t.aon.cause = 1 ∧ t.recov.active = 0 ∧ t.recov.last = { level := 5, cause := 7 } ∧
     EventRaised s t 0x7110 1 3 0xFF 1 ∧ t = { s with fuse := { s.fuse with badA := o.badA, badB := o.badB }, aon := t.aon, recov := t.recov }) ∧
   (∀ s o, (s.recov.dev = 0 ∧ s.aon.rescue = 0) ∨ (s.aon.rescue = 2 ∧ o.repeated = true) → (∀ w ∈ o.badA, w ∉ o.badB) →
     o.romW = true ∨ o.romE = true → ∃ t, exec (.coldStart o) s = .next t ∧
     t.recov.last = { level := 5, cause := 7 } ∧ t.fuse = { s.fuse with badA := o.badA, badB := o.badB } ∧ t.host = s.host ∧ t.pending = s.pending ∧
     (t.aon.rescue = 0 → t.recov.dev = 1 ∧ t.recov.fwState = 1 ∧ t.recov.active = (if o.romW then 8 else 9) ∧
       t.links.inc = incarnation o.trng ∧ t.flue.cycle = 0 ∧ t.hbm.words = []) ∧
     (t.aon.rescue ≠ 0 → t.aon.rescue = 2 ∧ t.aon.cause = 2 ∧ t.recov.active = 0))) ∧
  ((∀ s test w e, (s.recov.running ≠ some .warm ∨ atBoundary s .warm = false ∨ s.recov.fwState = 1) →
     exec (.warmReset test w e) s = .next s) ∧
   (∀ s test, s.recov.running = some .warm → atBoundary s .warm = true → s.recov.fwState ≠ 1 →
     ∃ t, exec (.warmReset test false false) s = .next t ∧ t.aon.rescue = 1 ∧ t.aon.cause = 1 ∧ t.recov.active = 0 ∧
       EventRaised s t 0x7110 1 3 0xFF 1 ∧ t = { s with aon := t.aon, recov := t.recov }) ∧
   (∀ s test w e, s.recov.running = some .warm → atBoundary s .warm = true → s.recov.fwState ≠ 1 → w = true ∨ e = true →
     ∃ t, exec (.warmReset test w e) s = .next t ∧ t.fuse = s.fuse ∧ t.pending = s.pending ∧
       (if imageReason s = 0 then t.recov.dev = 3 ∧ t.recov.running = none ∧ t.aon.rescue = 0 ∧ t.aon.cause = 0 ∧
           t.recov.last.level = s.recov.cur.level ∧ t.recov.last.cause = s.recov.cur.cause
         else t.recov.fwState = 1 ∧ t.recov.sram = [] ∧ t.recov.fwReason = BitVec.ofNat 8 (imageReason s))))

/-- R437: firmware SRAM takes writes in firmware state 0x1 alone; every other write is dropped and counted.

R439: outside firmware state 0x1 GO does nothing; an image that fails a check is rejected with the reason of its first failing
check, the SRAM cleared and an event; a good one runs, and the cold start that waited for it ends in device state 0x3.

R442, R454: the reload entry in rescue state 0x1 clears firmware SRAM, waits for a new image and asks for a warm reset; in any other
state it does nothing. -/
def Obligations.FirmwareIsLoadedAndChecked : Prop :=
  ((∀ s off bytes, s.recov.fwState = 1 → off + bytes.length ≤ 4194304 → ∃ t, exec (.fwWinWrite off bytes) s = .next t ∧
     t.recov.dropped = s.recov.dropped ∧
     (∀ i, (h : i < bytes.length) → mget 0 t.recov.sram (off + i) = bytes[i]) ∧
     (∀ a, (a < off ∨ off + bytes.length ≤ a) → mget 0 t.recov.sram a = mget 0 s.recov.sram a) ∧
     t = { s with recov := { s.recov with sram := t.recov.sram } }) ∧
   (∀ s off bytes, (s.recov.fwState ≠ 1 ∨ 4194304 < off + bytes.length) →
     exec (.fwWinWrite off bytes) s = .next { s with recov := { s.recov with dropped := s.recov.dropped + 1 } })) ∧
  ((∀ s test plan l, s.recov.fwState ≠ 1 → exec (.fwCtlGo test plan l) s = .next s) ∧
   (∀ s test plan l, s.recov.fwState = 1 → imageReason s ≠ 0 → ∃ t, exec (.fwCtlGo test plan l) s = .next t ∧
     t.recov = { s.recov with
       fwState := 1, fwReason := BitVec.ofNat 8 (imageReason s), fwRej := satInc s.recov.fwRej 1, sram := [],
       rejects := s.recov.rejects + 1 } ∧
     EventRaised s t 0x7011 1 0 (stokerId s) (imageReason s) ∧ t = { s with aon := t.aon, recov := t.recov }) ∧
   (∀ s test plan l, s.recov.fwState = 1 → s.recov.running = none → ∃ t, exec (.fwCtlGo test plan l) s = .next t ∧
     t.fuse = s.fuse ∧ t.host = s.host ∧ t.hbm = s.hbm ∧ t.pending = s.pending ∧
     (if imageReason s = 0 then t.recov.dev = 3 ∧ t.recov.fwState = 3 ∧
         t.recov.fwSvn = BitVec.ofNat 32 (fld (imageHeader s) 1983 1952) ∧ t.ctl.dict.locked = true
       else t.recov.fwState = 1 ∧ t.recov.sram = [] ∧ t.recov.dev = s.recov.dev ∧ t.ctl = s.ctl))) ∧
  ((∀ s, s.aon.rescue = 1 → s.recov.running = none → ∃ t, exec .firmwareReload s = .next t ∧
     t.recov.sram = [] ∧ t.recov.fwState = 1 ∧ t.recov.fwRej = 0 ∧ t.recov.fwReason = 0 ∧ t.recov.fwSvn = 0 ∧
     t.recov.running = some .warm ∧ t.recov.dev = 4 ∧ t.recov.cur.cause = 5 ∧ t.recov.cur.bnd = 2 ∧
     t.fuse = s.fuse ∧ t.hbm = s.hbm ∧ t.pending = s.pending ∧ t.aon.rescue = 1) ∧
   (∀ s, s.aon.rescue ≠ 1 → exec .firmwareReload s = .next s))

/-- R444, R446: a request begins at its boundary, with its record; a request contained in a running reset is merged; a wider one takes
over as absorb; any other waits. A hot reset is a warm reset, absorb, and the rescue entry's resets are levels 0x4 and 0x5.

R441, R444, R446, R456: a reset below warm level runs once every bake in its scope has reached the boundary. It ends with its
record, one more reset of its level counted, and no reset running; the fuses and host memory are as before. -/
def Obligations.ResetRequestsRunAtTheirBoundary : Prop :=
  ((∀ s flr, s.recov.running = none → exec (.pcieHotReset flr) s = .next { s with recov := { s.recov with
     requests := s.recov.requests ++ [(.warm, .absorb)], cur := { s.recov.cur with cause := 2 } } }) ∧
   (∀ s flr r, s.recov.running = some r → (r = .warm ∨ r = .whole) → exec (.pcieHotReset flr) s = .next s) ∧
   (∀ s flr r, s.recov.running = some r → scopeLevel r < 4 → ∃ t, exec (.pcieHotReset flr) s = .next t ∧
     t.recov.running = some .warm ∧ t.recov.dev = 4 ∧ t.recov.cur.level = 4 ∧ t.recov.cur.bnd = 2 ∧ t.recov.cur.cause = 2 ∧
     t.recov.requests = s.recov.requests ∧ t.hbm = s.hbm ∧ t.fuse = s.fuse ∧ t.pending = s.pending) ∧
   (∀ s, s.aon.rescue = 1 → exec (.rescueReset 4) s = .next (requestReset s .warm .absorb 5)) ∧
   (∀ s, s.aon.rescue ≠ 0 → exec (.rescueReset 5) s = .next (requestReset s .whole .absorb 5)) ∧
   (∀ s l, (l ≠ 4 ∧ l ≠ 5) ∨ s.aon.rescue = 0 → exec (.rescueReset l) s = .next s) ∧
   (∀ s a b, s.recov.running = none → (a, b) ∈ s.recov.requests → a ≠ .whole → ∃ t, exec (.resetBoundary a b) s = .next t ∧
     t.recov.running = some a ∧ t.recov.cur.level = BitVec.ofNat 8 (scopeLevel a) ∧ t.recov.cur.cause = s.recov.cur.cause ∧
     t.recov.cur.target = BitVec.ofNat 16 (scopeTarget a) ∧ t.recov.requests = eraseFirst (a, b) s.recov.requests ∧
     t.recov.dev = (if 4 ≤ scopeLevel a then 4 else s.recov.dev) ∧ t.hbm = s.hbm ∧ t.fuse = s.fuse ∧ t.pending = s.pending)) ∧
  ((∀ s c test, coreExists s c = true → s.recov.running = some (.core c) → atBoundary s (.core c) = true →
     ∃ t, exec (.coreReset c test) s = .next t ∧ LowResetDone s t) ∧
   (∀ s n test, s.recov.running = some (.hearth n) → atBoundary s (.hearth n) = true →
     ∃ t, exec (.hearthReset n test) s = .next t ∧ LowResetDone s t) ∧
   (∀ s r test, 1 ≤ r → r ≤ 64 → s.recov.running = some (.rect r) → atBoundary s (.rect r) = true →
     ∃ t, exec (.rectangleReset r test) s = .next t ∧ LowResetDone s t) ∧
   (∀ s n test, (s.recov.running ≠ some (.hearth n) ∨ atBoundary s (.hearth n) = false) → exec (.hearthReset n test) s = .next s) ∧
   (∀ s c test, scopeBakes s (.core c) = [] → coreExists s c = true → s.recov.running = some (.core c) →
     ∃ t, exec (.coreReset c test) s = .next t ∧ t.cores = (selfTestCores (resetCore s c) test [c]).cores))

/-- R448, R449, R450: an Ember timer stops a running or standby processor, with its crash record, an event of severity 0x0 and a restart
to come; at the restart limit it is declared failed with severity 0x3. A restarted processor runs again; a failed memory-side
controller is reported again.

R451, R452, R453, R455: the journal is copied to the standby; when the active Stoker is down and the other stands by, that one takes
over from the last copy; with both down the device enters rescue mode. -/
def Obligations.ProcessorsAndStokersRecover : Prop :=
  ((∀ s m crash recent, 1 ≤ m → m ≤ 30 → ((s.proc m).state = 0 ∨ (s.proc m).state = 3) → processorPowered s m = true → recent < setting s 0x7002 1 →
     ∃ t, exec (.emberTimerExpiry m crash recent) s = .next t ∧
       t = { s.modProc m (fun p => { p with
           state := 1, expiries := p.expiries + 1, crash := padTo 0 256 crash, restarts := p.restarts + 1,
           recent := BitVec.ofNat 32 (recent + 1), last := micros s }) with aon := t.aon } ∧
       EventRaised s t 0x7000 m 0 0xFF 0 ∧ AonKept s t) ∧
   (∀ s m crash recent, 1 ≤ m → m ≤ 8 → ((s.proc m).state = 0 ∨ (s.proc m).state = 3) → setting s 0x7002 1 ≤ recent →
     ∃ t, exec (.emberTimerExpiry m crash recent) s = .next t ∧
       t = { s.modProc m (fun p => { p with
           state := 2, expiries := p.expiries + 1, crash := padTo 0 256 crash, recent := BitVec.ofNat 32 recent }) with aon := t.aon } ∧
       EventRaised s t 0x7000 m 3 0xFF 0 ∧ AonKept s t) ∧
   (∀ s m crash recent, 1 ≤ m → m ≤ 30 → ((s.proc m).state ≠ 0 ∧ (s.proc m).state ≠ 3 ∨ processorPowered s m = false) →
     exec (.emberTimerExpiry m crash recent) s = .next s) ∧
   (∀ s m, 3 ≤ m → m ≤ 30 → (s.proc m).state = 1 →
     exec (.processorRestart m) s = .next (forgetNumbers (s.modProc m fun p => { p with state := 0 }) (masterOf m))) ∧
   (∀ s m, 1 ≤ m → m ≤ 2 → (s.proc m).state = 1 → s.recov.active = 0 → s.aon.rescue = 1 →
     ∃ t, exec (.processorRestart m) s = .next t ∧ t.recov.active = BitVec.ofNat 8 (masterOf m) ∧ t.recov.dev = 3 ∧
       t.aon.rescue = 0 ∧ t.aon.cause = 0 ∧ t.ctl.dict.staging = s.ctl.journal.staging) ∧
   (∀ s m, 29 ≤ m → m ≤ 30 → (s.proc m).state = 2 → ∃ t, exec (.failedControllerEvent m) s = .next t ∧
     EventRaised s t 0x7000 m 3 0xFF 0 ∧ AonKept s t ∧ t = { s with aon := t.aon }) ∧
   (∀ s m, 1 ≤ m → m ≤ 30 → (m < 29 ∨ (s.proc m).state ≠ 2) → exec (.failedControllerEvent m) s = .next s)) ∧
  ((∀ s, s.recov.active = 8 → (s.proc 1).state = 0 → ((s.proc 2).state = 0 ∨ (s.proc 2).state = 3) → ∃ t, exec .journalCopy s = .next t ∧
     t.ctl.journal.staging = s.ctl.dict.staging ∧ t.ctl.journal.portA = s.ctl.portA ∧ t.ctl.journal.portB = s.ctl.portB ∧
     t.ctl.journal.logTail = s.integ.nextSeq ∧
     t.recov = { (s.modProc 2 fun p => { p with state := 3 }).recov with journalAt := s.flue.cycle } ∧
     t = { s with ctl := { s.ctl with journal := t.ctl.journal }, recov := t.recov }) ∧
   (∀ s, s.recov.active = 8 → (s.proc 1).state ≠ 0 → (s.proc 2).state = 3 → ∃ t, exec .stokerTakeover s = .next t ∧
     t.recov = { (s.modProc 2 fun p => { p with state := 0 }).recov with active := 9 } ∧
     t.ctl.dict.staging = s.ctl.journal.staging ∧ t.ctl.portA = s.ctl.journal.portA ∧ t.ctl.portB = s.ctl.journal.portB ∧
     (∀ e ∈ t.integ.log, e ∈ s.integ.log ∧ e.2.seq.toNat < s.ctl.journal.logTail.toNat) ∧
     t = { s with ctl := t.ctl, integ := t.integ, recov := t.recov }) ∧
   (∀ s, s.recov.active = 8 → (s.proc 1).state = 0 → exec .stokerTakeover s = .next s) ∧
   (∀ s, s.aon.rescue = 0 → s.recov.fwState = 3 → (∀ m, 1 ≤ m → m ≤ 2 → (s.proc m).state = 1 ∨ (s.proc m).state = 2 ∨ (s.proc m).state = 4) →
     ∃ t, exec .rescueEntry s = .next t ∧ t.aon.rescue = 1 ∧ t.aon.cause = 1 ∧ t.recov = { s.recov with dev := 5, active := 0 } ∧
       EventRaised s t 0x7110 1 3 0xFF 1 ∧ t = { s with aon := t.aon, recov := t.recov }) ∧
   (∀ s, (s.proc 1).state = 0 → exec .rescueEntry s = .next s))

/-- R397, R398: the mesh runs on coupled without its reference and locks again when it returns, each with one event; a failed oscillator
is switched off once; a coupling line that fails leaves the crossing to the other, and with both gone the oscillators on both sides
count as failed. Nothing but the mesh and the event queue changes. -/
def Obligations.MeshSurvivesLossOfReferenceAndLines : Prop :=
  (∀ s, s.mesh.state ≠ 1 → ∃ t, exec .refclkLoss s = .next t ∧ t.mesh = { s.mesh with state := 1 } ∧
    EventRaised s t 0x2000 1 1 (stokerId s) 0 ∧ AonKept s t ∧ t = { s with mesh := t.mesh, aon := t.aon }) ∧
  (∀ s, s.mesh.state ≠ 0 → ∃ t, exec .refclkReturn s = .next t ∧ t.mesh = { s.mesh with state := 0 } ∧
    EventRaised s t 0x2000 1 0 (stokerId s) 0 ∧ AonKept s t ∧ t = { s with mesh := t.mesh, aon := t.aon }) ∧
  (∀ s, s.mesh.state = 1 → exec .refclkLoss s = .next s) ∧ (∀ s, s.mesh.state = 0 → exec .refclkReturn s = .next s) ∧
  (∀ s p, p < 256 → p ∉ s.mesh.failed → ∃ t, exec (.oscillatorFailure p) s = .next t ∧
    t.mesh = { s.mesh with failed := s.mesh.failed ++ [p] } ∧ EventRaised s t 0x2001 1 3 (stokerId s) p ∧ AonKept s t ∧
    t = { s with mesh := t.mesh, aon := t.aon }) ∧
  (∀ s p, p < 256 → p ∈ s.mesh.failed → exec (.oscillatorFailure p) s = .next s) ∧
  (∀ s p q l, p < 256 → q < 256 → acrossSeam p q = true → (256 * min p q + max p q, l.val) ∉ s.mesh.badLines →
    ∃ t, exec (.couplingLineFailure p q l) s = .next t ∧
      t.mesh.badLines = s.mesh.badLines ++ [(256 * min p q + max p q, l.val)] ∧ AonKept s t ∧
      t = { s with mesh := t.mesh, aon := t.aon } ∧
      ((256 * min p q + max p q, 1 - l.val) ∈ s.mesh.badLines → p ∈ t.mesh.failed ∧ q ∈ t.mesh.failed) ∧
      ((256 * min p q + max p q, 1 - l.val) ∉ s.mesh.badLines → t.mesh.failed = s.mesh.failed ∧ NoEvent s t)) ∧
  (∀ s p q l, p < 256 → q < 256 → (acrossSeam p q = false ∨ (256 * min p q + max p q, l.val) ∈ s.mesh.badLines) →
    exec (.couplingLineFailure p q l) s = .next s)

/-- R407, R422, R423: whatever changes a hearth, its target afterwards is the least of its limits and its reason the governing one; no
other hearth and nothing else of the block changes. -/
def Obligations.HearthTargetIsTheLowestLimit : Prop :=
  ∀ s n f, (∀ m, m ≠ n → (withHearth s n f).hearth m = s.hearth m) ∧
    ((withHearth s n f).hearth n).target = targetOf (withHearth s n f) n ∧
    (∀ l ∈ limits (withHearth s n f) n, ((withHearth s n f).hearth n).target ≤ l.2) ∧ ((withHearth s n f).hearth n).target ≤ 2000 ∧
    ((withHearth s n f).hearth n).reason = BitVec.ofNat 8 (governing (withHearth s n f) n) ∧
    withHearth s n f = { s with hearths := (withHearth s n f).hearths }

/-- R408, R409, R432: a step up writes the higher voltage first and waits; a step down stops the hearth first; a voltage that does not
settle leaves the hearth at its frequency, with an event.

R408, R409: a stopped hearth freezes 32 cycles, the longest route and 8 after its stop bit and not before; its generator then locks at
the new frequency, and its rows restart up to 48 cycles later; a step down writes the lower voltage only then. -/
def Obligations.FrequencyChangesInOrder : Prop :=
  ((∀ s (n : Fin 16) f, mayChange s n = true → (s.hearth n).state = 0 → usableFreq s n f = true → (s.hearth n).freq < f → f ≤ targetOf s n →
     ∃ t, exec (.stepUp n f) s = .next t ∧ (t.hearth n).stepTo = some f ∧ (t.hearth n).setMv = voltOf s n f ∧
       (t.hearth n).freq = (s.hearth n).freq ∧ t.rail (n.val + 1) = { s.rail (n.val + 1) with setMv := voltOf s n f } ∧
       t = { s with hearths := t.hearths, rails := t.rails }) ∧
   (∀ s (n : Fin 16) f, (mayChange s n = false ∨ (s.hearth n).state ≠ 0 ∨ usableFreq s n f = false ∨ f ≤ (s.hearth n).freq ∨
     targetOf s n < f) → exec (.stepUp n f) s = .next s) ∧
   (∀ s (n : Fin 16) f, mayChange s n = true → usableFreq s n f = true → f < (s.hearth n).freq → targetOf s n ≤ f →
     ∃ t, exec (.stepDown n f) s = .next t ∧ (t.hearth n).stopTo = some (f, s.flue.cycle) ∧
       (t.hearth n).stops = (s.hearth n).stops + 1 ∧ (t.hearth n).freq = (s.hearth n).freq ∧ (t.hearth n).setMv = (s.hearth n).setMv ∧
       t = { s with hearths := t.hearths, flue := t.flue }) ∧
   (∀ s (n : Fin 16) f, (mayChange s n = false ∨ usableFreq s n f = false ∨ (s.hearth n).freq ≤ f ∨ f < targetOf s n) →
     exec (.stepDown n f) s = .next s) ∧
   (∀ s (n : Fin 16) f, (s.hearth n).stepTo = some f → ∃ t, exec (.voltageSettleTimeout n) s = .next t ∧
     (t.hearth n).stepTo = none ∧ (t.hearth n).unsettled = true ∧ (t.hearth n).freq = (s.hearth n).freq ∧
     EventRaised s t 0x2011 (n.val + 1) 1 (stokerId s) (s.hearth n).freq ∧ AonKept s t ∧ t = { s with hearths := t.hearths, aon := t.aon }) ∧
   (∀ s (n : Fin 16), (s.hearth n).stepTo = none → exec (.voltageSettleTimeout n) s = .next s)) ∧
  ((∀ s (n : Fin 16) f c, (s.hearth n).stopTo = some (f, c) → (s.hearth n).restartAt = none →
     c + 32 + s.flue.maxRoute + 8 ≤ s.flue.cycle → exec (.hearthFreeze n) s = .next (s.modHearth n fun h => { h with frozen := true })) ∧
   (∀ s (n : Fin 16) f c, (s.hearth n).stopTo = some (f, c) → s.flue.cycle < c + 32 + s.flue.maxRoute + 8 →
     exec (.hearthFreeze n) s = .next s) ∧
   (∀ s (n : Fin 16), (s.hearth n).stopTo = none → exec (.hearthFreeze n) s = .next s ∧ exec (.generatorLock n) s = .next s) ∧
   (∀ s (n : Fin 16) f c, (s.hearth n).stopTo = some (f, c) → (s.hearth n).frozen = true → (s.hearth n).restartAt = none →
     ∃ t, exec (.generatorLock n) s = .next t ∧ (t.hearth n).freq = f ∧ (t.hearth n).restartAt = some (s.flue.cycle + 48) ∧
       (t.hearth n).unsettled = false ∧
       (t.hearth n).setMv = (if f < (s.hearth n).freq ∧ (s.hearth n).state ≠ 4 ∧ (s.hearth n).state ≠ 5 then voltOf s n f
         else (s.hearth n).setMv) ∧
       (t.rail (n.val + 1)).setMv = (t.hearth n).setMv ∧ t = { s with hearths := t.hearths, rails := t.rails }) ∧
   (∀ s (n : Fin 16), (s.hearth n).frozen = false → exec (.generatorLock n) s = .next s))

/-- R400, R404, R405, R419: margin windows, emergencies and temperature move their limits by 25 MHz steps between 600 and
2,000 MHz, and stretch the clock only above 600 MHz.

R416, R417, R421, R453: the cap controller records the power it read, stretches every hearth above 18,000 W, and moves ceilings only
with an active Stoker: down above the cap or in an excursion, up when it has stayed below. -/
def Obligations.MarginsHeatAndCapMoveLimits : Prop :=
  ((∀ s (n : Fin 16) r, (r = 2 ∨ r = 4 ∨ r = 6 ∨ r = 0xC) →
     exec (.clockStretch n r true) s = .next (withHearth s n fun h =>
       { h with stretch := if h.freq = 600 then h.stretch else if h.stretch.contains r then h.stretch else h.stretch ++ [r] }) ∧
     exec (.clockStretch n r false) s = .next (withHearth s n fun h => { h with stretch := h.stretch.filter fun x => decide (x ≠ r) })) ∧
   (∀ s (n : Fin 16) r on, r ≠ 2 → r ≠ 4 → r ≠ 6 → r ≠ 0xC → exec (.clockStretch n r on) s = .next s) ∧
   (∀ s (n : Fin 16) code b, code ≤ setting s 0x2030 1 → exec (.marginEmergency n code b) s = .next (stretch s n 2 true)) ∧
   (∀ s (n : Fin 16) code, setting s 0x2030 1 < code → setting s 0x2030 2 < code →
     exec (.marginEmergency n code true) s = .next (stretch s n 2 false)) ∧
   (∀ s (n : Fin 16) code, setting s 0x2030 1 < code → exec (.marginEmergency n code false) s = .next s) ∧
   (∀ s (n : Fin 16) x at100, ∃ t, exec (.junctionSensorRead n x at100) s = .next t ∧ (t.hearth n).junction = x ∧
     ((fv32 x).lt (ofInt 100) = false → (t.hearth n).thermal = 600) ∧
     ((fv32 x).lt (ofInt 100) = true → at100 = false → (t.hearth n).thermal = (s.hearth n).thermal) ∧
     ((fv32 x).lt (ofInt 100) = true → at100 = true → (fv32 (BitVec.ofNat 32 (setting s 0x2201 1))).lt (fv32 x) = true →
       (t.hearth n).thermal = max 600 ((s.hearth n).thermal - 25)) ∧ t = { s with hearths := t.hearths }) ∧
   (∀ s (n : Fin 16) codes, ∃ t, exec (.marginWindow n codes) s = .next t ∧
     (t.hearth n).mH = ((codes.filter fun e => decide (hearthOfSite e.1 = n.val)).flatMap (·.2)).foldl min 63 ∧
     (setting s 0x2012 (n.val + 1) = 0 → (t.hearth n).mH < setting s 0x2030 2 →
       (t.hearth n).margin = max 600 ((s.hearth n).margin - 25)) ∧
     (setting s 0x2012 (n.val + 1) ≠ 0 → (t.hearth n).margin = (s.hearth n).margin) ∧ t = { s with hearths := t.hearths })) ∧
  (∀ s avg est b1 b2 us, ∃ t, exec (.capControllerRun avg est b1 b2 us) s = .next t ∧ t.power.power = avg ∧ t.power.aboveUs = us ∧
     (s.recov.active = 0 → t.power = { s.power with power := avg, aboveUs := us } ∧ ∀ n < 16, (t.hearth n).ceiling = (s.hearth n).ceiling) ∧
     (s.recov.active ≠ 0 → t.power.excursion = (b2 || decide (10000 ≤ us.toNat) || (s.power.excursion && decide (ratOf (capInForce s) * 95 / 100 < ratOf avg)))) ∧
     (18000 < ratOf est → ∀ n < 16, (s.hearth n).freq ≠ 600 → 4 ∈ (t.hearth n).stretch) ∧
     (s.recov.active ≠ 0 → ratOf (capInForce s) < ratOf avg → setting s 0x2131 1 = 1 →
       ∀ n < 16, (t.hearth n).ceiling = max 600 ((s.hearth n).ceiling - 25)) ∧
     t = { s with hearths := t.hearths, power := t.power })

/-- R411, R412, R414, R415, R428, R431: the damper counts its actions while it works; status words and supply telemetry are kept; a lost
PMBus is reported once; an overvoltage switches the rail's regulator off.

R432, R433: safe hold, its end, the declaration of an unmanaged rail, and the return to managed operation. -/
def Obligations.RailsAreReadAndHeld : Prop :=
  ((∀ s (n : Fin 16) a o, (s.hearth n).damper = true → exec (.boost n a o) s = .next (s.modHearth n fun h => { h with
     boosts := h.boosts + 1, overruns := if o then h.overruns + 1 else h.overruns, maxBoost := rn32 ((fv32 h.maxBoost).maxNum (fv32 a)) })) ∧
   (∀ s (n : Fin 16) o, (s.hearth n).damper = true → exec (.shunt n o) s = .next (s.modHearth n fun h => { h with
     shunts := h.shunts + 1, overruns := if o then h.overruns + 1 else h.overruns })) ∧
   (∀ s (n : Fin 16) a o, (s.hearth n).damper = false → exec (.boost n a o) s = .next s ∧ exec (.shunt n o) s = .next s) ∧
   (∀ s (r : Fin 22) w, exec (.statusWord r w) s = .next (s.modRail (r.val + 1) fun x =>
     { x with status := w, state := if outputFault w then 2 else x.state })) ∧
   (∀ s (b : Fin 2), b.val ∉ s.power.pmbusLost → ∃ t, exec (.pmbusLoss b) s = .next t ∧
     t.power = { s.power with pmbusLost := s.power.pmbusLost ++ [b.val] } ∧ EventRaised s t 0x2102 1 1 (stokerId s) b.val ∧
     AonKept s t ∧ t = { s with power := t.power, aon := t.aon }) ∧
   (∀ s (b : Fin 2), b.val ∈ s.power.pmbusLost → exec (.pmbusLoss b) s = .next s) ∧
   (∀ s (n : Fin 16), exec (.overvoltage n) s = .next ((s.modHearth n fun h => { h with power := false }).modRail (n.val + 1)
     fun r => { r with state := 1 })) ∧
   (∀ s (r : Fin 22) v a, (16 ≤ r.val ∨ (s.hearth r.val).stepTo = none) → exec (.avsbusTelemetryRead r (some (v, a))) s =
     .next (s.modRail (r.val + 1) fun x => { x with volts := v, amps := a, readAt := s.flue.cycle, fails := 0, valid := true })) ∧
   (∀ s (r : Fin 22), (s.rail (r.val + 1)).fails + 1 ≠ 3 → exec (.avsbusTelemetryRead r none) s =
     .next (s.modRail (r.val + 1) fun x => { x with fails := x.fails + 1, valid := x.valid && decide (x.fails < 2) }))) ∧
  ((∀ s (n : Fin 16), ((s.hearth n).state = 0 ∨ (s.hearth n).state = 1) → ∃ t, exec (.safeHold n) s = .next t ∧
     (t.hearth n).state = 4 ∧ (t.hearth n).stepTo = none ∧ (t.rail (n.val + 1)).state = 3 ∧ (t.rail (n.val + 1)).valid = false) ∧
   (∀ s (n : Fin 16), (s.hearth n).state = 0 → (s.hearth n).stepTo = none → (s.hearth n).stopTo = none → ∃ t,
     exec (.safeHold n) s = .next t ∧ (t.hearth n).state = 4 ∧ (t.hearth n).safeLim = (s.hearth n).freq ∧
     EventRaised s t 0x2011 (n.val + 1) 1 (stokerId s) 8 ∧ AonKept s t ∧ t = { s with hearths := t.hearths, rails := t.rails, aon := t.aon }) ∧
   (∀ s (n : Fin 16), (s.hearth n).state ≠ 0 → (s.hearth n).state ≠ 1 → exec (.safeHold n) s = .next s) ∧
   (∀ s (n : Fin 16), (s.hearth n).state = 4 → (s.rail (n.val + 1)).valid = true → ∃ t, exec (.safeHoldEnd n) s = .next t ∧
     (t.hearth n).state = (if (s.hearth n).stopTo.isSome then 1 else 0) ∧ (t.hearth n).safeLim = 2000 ∧ (t.rail (n.val + 1)).state = 0 ∧
     EventRaised s t 0x2011 (n.val + 1) 0 (stokerId s) 0 ∧ AonKept s t ∧ t = { s with hearths := t.hearths, rails := t.rails, aon := t.aon }) ∧
   (∀ s (n : Fin 16), (s.hearth n).state = 4 → s.recov.active ≠ 0 → ∃ t, exec (.railUnmanaged n) s = .next t ∧
     (t.hearth n).state = 5 ∧ (t.rail (n.val + 1)).state = 4 ∧ EventRaised s t 0x2100 (n.val + 1) 3 (stokerId s) 9 ∧ AonKept s t ∧
     t = { s with hearths := t.hearths, rails := t.rails, aon := t.aon }) ∧
   (∀ s (n : Fin 16), ((s.hearth n).state ≠ 4 ∨ s.recov.active = 0) → exec (.railUnmanaged n) s = .next s))

/-- R28, R428, R429, R453: a trip clamps the hearth, sets its stop bit and loses the flits on their way into it, once; the active Stoker
then declares the hearth lost: its cores read width 0, its number is recorded, the map generation rises and an event is raised.

R23, R24, R479: a core that fails in service hands over to the nearest in-service spare of its column as a pending change, or is
retired as a hole; the failed site is recorded and the map generation rises. A core with a grown bypass set pending fails like any
other. The pending change takes effect, with a second increment, once every bake concerned is fenced, and at once where none is. -/
def Obligations.LossesChangeTheMap : Prop :=
  ((∀ s (n : Fin 16), (s.hearth n).tripped = false → (s.hearth n).state ≠ 3 → (s.hearth n).state ≠ 2 → ∃ t, exec (.undervoltageTrip n) s = .next t ∧
     t.hearth n = { s.hearth n with tripped := true, clamped := true, damper := false, stopBit := true } ∧
     t.flue.moving = s.flue.moving.filter (fun m => decide (hearthOfSite m.site ≠ n.val)) ∧ NoEvent s t ∧
     t = { s with hearths := t.hearths, flue := t.flue }) ∧
   (∀ s (n : Fin 16), ((s.hearth n).tripped = true ∨ (s.hearth n).state = 3 ∨ (s.hearth n).state = 2) → exec (.undervoltageTrip n) s = .next s) ∧
   (∀ s (n : Fin 16), (s.hearth n).tripped = true → (s.hearth n).state ≠ 3 → s.recov.active ≠ 0 → ∃ t,
     exec (.hearthLossDeclaration n) s = .next t ∧ (t.hearth n).state = 3 ∧ (t.hearth n).clamped = true ∧ (t.hearth n).power = false ∧
     t.aon.recA.lostHearths = s.aon.recA.lostHearths ++ [n.val] ∧ (t.rail (n.val + 1)).state = 1 ∧
     (∀ c ∈ hearthCores s n, mget 512 t.map.width c = 0 ∧ (t.core c).pad.words = [] ∧ (t.core c).pad.valid = [] ∧
       ∀ e ∈ t.map.pending, e.1 ≠ c) ∧ (s.map.pending = [] → t.map.gen = s.map.gen + 1) ∧ t.flue.compiling = true ∧
     t.fuse = s.fuse ∧ t.host = s.host ∧ t.hbm = s.hbm ∧ t.pending = s.pending) ∧
   (∀ s (n : Fin 16), ((s.hearth n).tripped = false ∨ (s.hearth n).state = 3 ∨ s.recov.active = 0) →
     exec (.hearthLossDeclaration n) s = .next s)) ∧
  ((∀ s c r q, coreExists s c = true → coreWorks s c = true → rowOf s c = some r →
     nearestRow r (spareRows (s.modRec fun x => { x with failedSites := x.failedSites ++ [16 * r + c % 16] }) (c % 16)) = some q →
     ∃ t, exec (.coreFailure c) s = .next t ∧ t.aon.recA.failedSites = s.aon.recA.failedSites ++ [16 * r + c % 16] ∧
       (mayTakeEffect (pend s c (.substitute q)) c = false → t.map = (pend s c (.substitute q)).map) ∧
       (s.baker.slots = [] → mget 255 t.map.subRow c = q ∧ t.map.gen = s.map.gen + 2 ∧ ∀ e ∈ t.map.pending, e.1 ≠ c) ∧
       t.fuse = s.fuse ∧ t.host = s.host ∧ t.hbm = s.hbm ∧ t.pending = s.pending) ∧
   (∀ s c r, coreExists s c = true → coreWorks s c = true → rowOf s c = some r →
     nearestRow r (spareRows (s.modRec fun x => { x with failedSites := x.failedSites ++ [16 * r + c % 16] }) (c % 16)) = none →
     ∃ t, exec (.coreFailure c) s = .next t ∧ t.aon.recA.failedSites = s.aon.recA.failedSites ++ [16 * r + c % 16] ∧
       t.map = { s.map with
         width := mset 512 s.map.width c 0, gen := s.map.gen + 1,
         pending := s.map.pending.filter fun e => decide (e.1 ≠ c) } ∧ t.hbm = s.hbm ∧ t.pending = s.pending) ∧
   (∀ s c, coreExists s c = true → coreWorks s c = false → exec (.coreFailure c) s = .next s) ∧
   (∀ s c, coreExists s c = true → mayTakeEffect s c = false → exec (.mapChangeEffect c) s = .next s) ∧
   (∀ s c r, coreExists s c = true → mayTakeEffect s c = true → (s.map.pending.find? fun e => decide (e.1 = c)) = some (c, .substitute r) →
     ∃ t, exec (.mapChangeEffect c) s = .next t ∧ t.map.gen = s.map.gen + 1 ∧ mget 255 t.map.subRow c = r ∧
       t.core c = { live := (s.core c).live, pub := (s.core c).pub, pubs := (s.core c).pubs } ∧
       (∀ e ∈ t.map.pending, e.1 ≠ c) ∧ t = { s with map := t.map, cores := t.cores }) ∧
   (∀ s c, coreExists s c = true → mayTakeEffect s c = true → (s.map.pending.find? fun e => decide (e.1 = c)) = some (c, .bypass) →
     ∃ t, exec (.mapChangeEffect c) s = .next t ∧ t.map.gen = s.map.gen + 1 ∧ mget 512 t.map.width c = fullWidth s c ∧
       (∀ e ∈ t.map.pending, e.1 ≠ c) ∧ t = { s with map := t.map }))

/-- R54, R135, R138, R158: a step command does nothing unless its step stands at the head of a running sequencer; the walk of a replay
skips a step that is done; one that may not issue yet waits, nothing changing. -/
def Obligations.StepsWaitAtTheHead : Prop :=
  ∀ s i c q, stepOf i = some (c, q) → coreExists s c = true →
    ((seqRuns s c = false ∨ q (headStep (s.core c)) = false) → exec i s = .next s) ∧
    (seqRuns s c = true → q (headStep (s.core c)) = true → skips (s.core c) = true →
      exec i s = .next (s.modCore c fun k => k.walk k.seq)) ∧
    (seqRuns s c = true → q (headStep (s.core c)) = true → skips (s.core c) = false → canIssue s c = false → exec i s = .next s)

/-- R137, R154, R156, R296: firing a step's signals changes sync objects, their mirrors, the count of refused signals and the sync queue,
and nothing else; it fails only when a remote signal finds the queue of 64 full. -/
def Obligations.SignalsTouchSyncStateAlone : Prop :=
  (∀ s c st v u, fireSignals s c st v = some u → u = { s with cores := u.cores, ring := u.ring } ∧
    (∀ d, u.core d = { s.core d with sync := (u.core d).sync }) ∧
    u.ring = { s.ring with globals := u.ring.globals, mirrors := u.ring.mirrors, stale := u.ring.stale }) ∧
  (∀ s c st v, fireSignals s c st v = none ↔
    (∃ g ∈ stepSignals (s.core c) st v, localSig c g = false) ∧ 64 ≤ (s.core c).sync.queue.length)

/-- R140, R152, R157: NOP, LOOP and ENDLOOP finish as they issue, once their signals can fire: NOP moves on, LOOP opens a level, ENDLOOP
goes back to the first step of its level or closes it. None of them enters the done set or a unit's queue.

R140, R155, R183, R184, R187, R260: FENCE entries send their probes once; SYNC then finishes with its signals, unless one of its FENCEs
reports a crumb: then it finishes without them, the sequencer stops with a recipe fault, and the bake has a failed step. -/
def Obligations.SequencerStepsAndSync : Prop :=
  ((∀ s c, MayIssue s c (isOp opNop) → ∀ u, fireSignals s c (s.core c).seq.step (s.core c).seq.vars = some u →
     ∃ t, exec (.nop c) s = .next t ∧ (t.core c).seq.step = (s.core c).seq.step + 1 ∧ (t.core c).seq.loops = (s.core c).seq.loops ∧
       (t.core c).seq.order = (s.core c).seq.order + 1 ∧ (t.core c).seq.flight = (s.core c).seq.flight ∧
       (t.core c).sync = (u.core c).sync ∧ OtherCoresKept u t c ∧ t = { u with cores := t.cores }) ∧
   (∀ s c, MayIssue s c (isOp opLoop) → ∀ u, fireSignals s c (s.core c).seq.step (s.core c).seq.vars = some u →
     ∃ t, exec (.loop c) s = .next t ∧ (t.core c).seq.step = (s.core c).seq.step + 1 ∧
       (t.core c).seq.loops = (s.core c).seq.loops ++ [⟨(s.core c).seq.step + 1, 0, loopCount (s.core c).bind (headStep (s.core c))⟩] ∧
       OtherCoresKept u t c ∧ t = { u with cores := t.cores }) ∧
   (∀ s c l, MayIssue s c (isOp opEndloop) → (s.core c).seq.loops.getLast? = some l → ∀ u,
     fireSignals s c (s.core c).seq.step (s.core c).seq.vars = some u →
     ∃ t, exec (.endloop c) s = .next t ∧
       (if l.v + 1 < l.count then (t.core c).seq.step = l.start ∧
           (t.core c).seq.loops = (s.core c).seq.loops.dropLast ++ [{ l with v := l.v + 1 }]
         else (t.core c).seq.step = (s.core c).seq.step + 1 ∧ (t.core c).seq.loops = (s.core c).seq.loops.dropLast) ∧
       OtherCoresKept u t c ∧ t = { u with cores := t.cores }) ∧
   (∀ s c i q, (i, q) ∈ [(Instr.nop c, isOp opNop), (.loop c, isOp opLoop), (.endloop c, isOp opEndloop)] → MayIssue s c q →
     fireSignals s c (s.core c).seq.step (s.core c).seq.vars = none → exec i s = .next (countStall s))) ∧
  ((∀ s c, coreExists s c = true → seqRuns s c = true → isOp opSync (headStep (s.core c)) = true → skips (s.core c) = false →
     ((s.core c).recipe.barrierAt (s.core c).seq.step = false ∨ (s.core c).seq.flight = []) →
     ∃ t, exec (.fence c) s = .next t ∧
       (∀ e ∈ fenceEntries (s.core c), ∃ f ∈ (t.core c).sync.fence, f.step = (s.core c).seq.step ∧ f.loops = (s.core c).seq.vars ∧
         f.sobj = symObj (s.core c) (sySym e)) ∧
       (t.core c).seq = (s.core c).seq ∧ OtherCoresKept s t c ∧ t = { s with cores := t.cores }) ∧
   (∀ s c r, MayIssue s c (isOp opSync) → (s.core c).sync.held.find? (claimed (s.core c)) = some r →
     ∃ t, exec (.sync c) s = .next t ∧ (t.core c).seq.state = .stopped ∧
       (t.core c).seq.fault = some ((s.core c).seq.step, (s.core c).seq.vars, r) ∧ (t.core c).seq.step = (s.core c).seq.step + 1 ∧
       5 ∈ (t.bake (bakeOf (s.core c))).triggers ∧ OtherCoresKept s t c ∧ t = { s with cores := t.cores, baker := t.baker }) ∧
   (∀ s c u, MayIssue s c (isOp opSync) → (s.core c).sync.held.find? (claimed (s.core c)) = none →
     fireSignals s c (s.core c).seq.step (s.core c).seq.vars = some u →
     ∃ t, exec (.sync c) s = .next t ∧ (t.core c).seq.step = (s.core c).seq.step + 1 ∧
       (t.core c).seq.order = (s.core c).seq.order + 1 ∧ (t.core c).seq.state = (s.core c).seq.state ∧
       t = { s with cores := t.cores, ring := t.ring }))

/-- R136, R137, R144, R151, R177, R178, R180, R209: a step that a unit executes enters its queue as the newest instance, its work still to
be done; a SEND to a later phase alone is done as it issues (R266), and a SEND on a link stream without an active channel waits while its
bake is paused (R343).

R71, R85, R177, R178, R180, R210: the unit takes up its oldest instance part by part. FILL writes its value into both halves of every word
of a row and COPY each word read at its place in the destination row; a SEND's flits hold 16 words each, a PUT's up to 12. The next part
follows the last write of the one before; behind the last part the instance's work is done.

R137, R138, R156, R157, R296: a step instance whose work is done finishes in its unit's turn once its signals can fire: it leaves the
units, its step joins the done set, and END ends the recipe. An instance that does not exist or is not done changes nothing. -/
def Obligations.UnitStepsEnterAndFinish : Prop :=
  ((∀ s c i q u, (i, q, u) ∈ [(Instr.matmul c, isOp opMatmul, UnitKind.a), (.endStep c, isOp opEnd, .s), (.fill c, isOp opFill, .m),
       (.copy c, isOp opCopy, .m), (.put c, isOp opPut, .x)] → MayIssue s c q →
     ∃ t, exec i s = .next t ∧ EntersUnit s t c u false ∧ (t.core c).pad = (s.core c).pad ∧ (t.core c).island = (s.core c).island ∧
       OtherCoresKept s t c ∧ t = { s with cores := t.cores }) ∧
   (∀ s c, MayIssue s c (isOp opPut) → ∃ t, exec (.put c) s = .next t ∧
     (putObj (s.core c) (headStep (s.core c)), mget 0 (s.core c).sync.counts (putObj (s.core c) (headStep (s.core c))),
       putTarget (s.core c) (headStep (s.core c))) ∈ (t.core c).sync.puts ∧
     ((t.core c).seq.flight.getLast?.map fun i => i.fcount) =
       some (mget 0 (s.core c).sync.counts (putObj (s.core c) (headStep (s.core c))))) ∧
   (∀ s c, MayIssue s c (isOp opDma) → ∃ t, exec (.dma c) s = .next t ∧ EntersUnit s t c .d false ∧
     (t.core c).pad = (s.core c).pad ∧ OtherCoresKept s t c ∧ t = { s with cores := t.cores, ring := t.ring }) ∧
   (∀ s c, MayIssue s c (isOp opDma) → s.ring.dmas = [] → ∃ t, exec (.dma c) s = .next t ∧ t.ring.nextDma = s.ring.nextDma + 1 ∧
     ∃ d, t.ring.dmas = [d] ∧ d.id = s.ring.nextDma ∧ d.slot = bakeOf (s.core c) ∧ d.running = false ∧
       d.use = .step c ((s.core c).seq.order + 1) (s.core c).seq.step (s.core c).seq.vars) ∧
   (∀ s c, MayIssue s c (isOp opSend) →
     linkStream (s.bake (bakeOf (s.core c))) (((s.core c).inst.map (·.2)).getD 0) (sendBind (s.core c) (headStep (s.core c))).sendNo = none →
     (∀ e, streamOf (s.bake (bakeOf (s.core c))) (((s.core c).inst.map (·.2)).getD 0) (mvTgt (headStep (s.core c))) = some e →
       crossesPhase (s.bake (bakeOf (s.core c))) e = false) →
     ∃ t, exec (.send c) s = .next t ∧ EntersUnit s t c .x false ∧ (t.core c).pad = (s.core c).pad ∧
       (t.core c).island = (s.core c).island ∧ OtherCoresKept s t c ∧ t = { s with cores := t.cores }) ∧
   (∀ s c e, MayIssue s c (isOp opSend) →
     linkStream (s.bake (bakeOf (s.core c))) (((s.core c).inst.map (·.2)).getD 0) (sendBind (s.core c) (headStep (s.core c))).sendNo = none →
     streamOf (s.bake (bakeOf (s.core c))) (((s.core c).inst.map (·.2)).getD 0) (mvTgt (headStep (s.core c))) = some e →
     crossesPhase (s.bake (bakeOf (s.core c))) e = true →
     ∃ t, exec (.send c) s = .next t ∧
       mget 0 (t.bake (bakeOf (s.core c))).carried e = mget 0 (s.bake (bakeOf (s.core c))).carried e + 1 ∧
       (t.core c).island = (s.core c).island ∧ t.fuse = s.fuse ∧ t.host = s.host ∧ t.ring = s.ring ∧ t.pending = s.pending) ∧
   (∀ s c e, MayIssue s c (isOp opSend) →
     linkStream (s.bake (bakeOf (s.core c))) (((s.core c).inst.map (·.2)).getD 0) (sendBind (s.core c) (headStep (s.core c))).sendNo = some e →
     (channelReady s (bakeOf (s.core c)) e = false → exec (.send c) s = .next (pauseNoRoute s (bakeOf (s.core c)))) ∧
     (channelReady s (bakeOf (s.core c)) e = true → ∃ t, exec (.send c) s = .next t ∧ EntersUnit s t c .x false ∧
       (t.core c).pad = (s.core c).pad ∧ OtherCoresKept s t c ∧ t = { s with cores := t.cores, baker := t.baker }))) ∧
  ((∀ s c k i p l, i.unit = .m → stOp (k.recipe.step i.step) = opFill → partReads s k i p = [] ∧
     partMakes s c k i p l = ((moveRow k (mvSrc k (k.recipe.step i.step)) i.loops (k.recipe.step i.step) p).map fun a =>
       (a, fillWord (mvVal (k.recipe.step i.step)), false), k)) ∧
   (∀ s c k i p l, i.unit = .m → stOp (k.recipe.step i.step) = opCopy →
     partReads s k i p = moveRow k (mvSrc k (k.recipe.step i.step)) i.loops (k.recipe.step i.step) p ∧
     partMakes s c k i p l = ((moveRow k (mvDst k (k.recipe.step i.step)) i.loops (k.recipe.step i.step) p).zip l, k)) ∧
   (∀ s c k i p l, i.unit = .x → stOp (k.recipe.step i.step) = opSend →
     partReads s k i p = slice (moveWords k (k.recipe.step i.step) i.loops) (16 * p) 16 ∧ (partMakes s c k i p l).1 = [] ∧
     (partMakes s c k i p l).2.island.toEgress = k.island.toEgress ++ [(s.flue.cycle + (crossingOf s c).1, i.order,
       (sendBind k (k.recipe.step i.step)).sendNo, sendFlit k i p (partCount s k i) l)] ∧
     (l.length = 16 → (sendFlit k i p (partCount s k i) l).data = l.map (·.1))) ∧
   (∀ s c k i p l, i.unit = .x → stOp (k.recipe.step i.step) = opPut →
     partReads s k i p = slice (moveWords k (k.recipe.step i.step) i.loops) (12 * p) 12 ∧ (partMakes s c k i p l).1 = [] ∧
     (partMakes s c k i p l).2.island.outbox = k.island.outbox ++ [(i.order, putFlit s c k i p (partCount s k i) l)]) ∧
   (∀ s k u i, unitHead k u = some i → k.pad.jobs (unitNo u) = [] → 0 < partCount s k i →
     (startPart s k u).pad.jobs (unitNo u) = [Work.reading i.order 0 (partReads s k i 0)]) ∧
   (∀ s c k u i j, unitHead k u = some i → k.pad.jobs (unitNo u) = [j] → k.pad.jobDone (unitNo u) j = true →
     (j.part + 1 < partCount s k i → (settleUnit s c k u).pad.jobs (unitNo u) = [Work.reading i.order (j.part + 1) (partReads s k i (j.part + 1))]) ∧
     (partCount s k i ≤ j.part + 1 → (settleUnit s c k u).pad.jobs (unitNo u) = [] ∧
       ∀ x ∈ (settleUnit s c k u).seq.flight, x.order = i.order → x.ready = true))) ∧
  ((∀ s c o i u, coreExists s c = true → (s.core c).power = .on → (s.hearth (hearthOf s c)).frozen = false →
     ((s.core c).seq.flight.find? fun x => decide (x.order = o)) = some i → instDone (s.core c) i = true → unitTurn (s.core c) i = true →
     fireSignals s c i.step i.loops = some u → ∃ t, exec (.stepFinish c o) s = .next t ∧
       (∀ x, x ∈ (t.core c).seq.flight ↔ x ∈ (s.core c).seq.flight ∧ x.order ≠ i.order) ∧
       (entersDone (stOp ((s.core c).recipe.step i.step)) = true → (i.step, i.loops) ∈ (t.core c).seq.done) ∧
       (stOp ((s.core c).recipe.step i.step) = opEnd → (t.core c).seq.state = .ended) ∧
       (stOp ((s.core c).recipe.step i.step) ≠ opEnd → (t.core c).seq.state = (s.core c).seq.state) ∧
       (t.core c).pad = (s.core c).pad ∧ OtherCoresKept u t c ∧ t = { u with cores := t.cores }) ∧
   (∀ s c o i, coreExists s c = true → (s.core c).power = .on → (s.hearth (hearthOf s c)).frozen = false →
     ((s.core c).seq.flight.find? fun x => decide (x.order = o)) = some i → instDone (s.core c) i = true → unitTurn (s.core c) i = true →
     fireSignals s c i.step i.loops = none → exec (.stepFinish c o) s = .next (countStall s)) ∧
   (∀ s c o, coreExists s c = true → (∀ x ∈ (s.core c).seq.flight, x.order ≠ o) → exec (.stepFinish c o) s = .next s))

/-- R85, R126, R127, R128, R135, R137, R149, R150, R97, R119, R480: every VECTOR step enters the vector unit's queue as the newest instance.

The unit reads the words of a part, computes the results of its opcode in the working format, and writes them; each opcode's arithmetic is
named here.

R92, R149, R162, R173: a row of an elementwise step is the packed codes of the converted results, each word poisoned where an element of it
is. -/
def Obligations.VectorStepsComputeTheirRows : Prop :=
  (∀ s c i q, (i, q) ∈ [(Instr.vadd c, isVec 0x01), (.vsub c, isVec 0x02), (.vmul c, isVec 0x03), (.vfmai c, isVec 0x04), (.vdiv c, isVec 0x05),
       (.vsqrt c, isVec 0x06), (.vmin c, isVec 0x07), (.vmax c, isVec 0x08), (.vcmplt c, isVec 0x09), (.vrcp c, isVec 0x10),
       (.vrsqrt c, isVec 0x11), (.vexp2 c, isVec 0x12), (.vexp c, isVec 0x13), (.vcvt c, isVec 0x20), (.vquant c, isVec 0x21),
       (.vdequant c, isVec 0x22), (.vrsum c, isVec 0x30), (.vrmax c, isVec 0x31), (.vtopk c, isVec 0x32), (.vslice c, isVec 0x40)] →
     MayIssue s c q → ∃ t, exec i s = .next t ∧ EntersUnit s t c .v false ∧ (t.core c).pad = (s.core c).pad ∧
       (t.core c).live = (s.core c).live ∧ OtherCoresKept s t c ∧ t = { s with cores := t.cores }) ∧
  ((∀ s c k i p l, i.unit = .v → partReads s k i p = (vctx s k i.step i.loops).reads p ∧
     (partMakes s c k i p l).1 = (vecPart (vctx s k i.step i.loops) p l).writes ∧
     (partMakes s c k i p l).2 = (vctx s k i.step i.loops).noteAll k (vecPart (vctx s k i.step i.loops) p l).counts) ∧
   (∀ x p l, (vcOp x.w = 0x01 → vecPart x p l = x.map2 (fun a b => x.rnd (a.add b)) p l) ∧
     (vcOp x.w = 0x02 → vecPart x p l = x.map2 (fun a b => x.rnd (a.sub b)) p l) ∧
     (vcOp x.w = 0x03 → vecPart x p l = x.map2 (fun a b => x.rnd (a.mul b)) p l) ∧
     (vcOp x.w = 0x04 → vecPart x p l = x.map2 (fun a b => x.rnd ((a.mul (fv32 (vcImm x.w))).add b)) p l) ∧
     (vcOp x.w = 0x05 → vecPart x p l = x.map2 (fun a b => x.rnd (a.div b)) p l) ∧
     (vcOp x.w = 0x06 → vecPart x p l = x.map1 (fun a => (x.conv (x.rnd a.sqrt), x.rnd a.sqrt)) p l) ∧
     (vcOp x.w = 0x07 → vecPart x p l = x.map2 FVal.minNum p l) ∧ (vcOp x.w = 0x08 → vecPart x p l = x.map2 FVal.maxNum p l) ∧
     (vcOp x.w = 0x09 → vecPart x p l = x.map2 (fun a b => ofInt (if a.lt b then 1 else 0)) p l)) ∧
   (∀ x p l, (vcOp x.w = 0x10 → vecPart x p l = x.map1 (x.approx .rcp) p l) ∧ (vcOp x.w = 0x11 → vecPart x p l = x.map1 (x.approx .rsqrt) p l) ∧
     (vcOp x.w = 0x12 → vecPart x p l = x.map1 (x.approx .exp2) p l) ∧ (vcOp x.w = 0x13 → vecPart x p l = x.map1 (x.approx .exp) p l) ∧
     (vcOp x.w = 0x20 → vecPart x p l = x.map1 (fun a => (x.conv a, a)) p l) ∧ (vcOp x.w = 0x21 → vecPart x p l = x.map1 x.quant p l) ∧
     (vcOp x.w = 0x22 → vecPart x p l = x.map1 (fun a => (x.conv (x.dequant a), x.dequant a)) p l) ∧
     (vcOp x.w = 0x30 → vecPart x p l = x.reduceRow (fun a b => x.rnd (a.add b)) p l) ∧
     (vcOp x.w = 0x31 → vecPart x p l = x.reduceRow FVal.maxNum p l) ∧ (vcOp x.w = 0x32 → vecPart x p l = rowVtopk x p l) ∧
     (vcOp x.w = 0x40 → vecPart x p l = rowVslice x p l))) ∧
  ((∀ (x : VCtx) f r l i e, (packWords (fmtBits (dFmt x.dd)) ((unpackWords (fmtBits (dFmt x.dx)) (vcLen x.w) l).map fun c =>
       ((f (x.rnd (codeValue (dFmt x.dx) c.1))).1.code, c.2)))[i]? = some e →
     (x.map1 f r l).writes[i]? = some (rowAddr x.k.bind x.dd x.vars r / 8 + i, e.1, e.2)) ∧
   (∀ (x : VCtx) f r l, x.hasZ = true → (x.map2 f r l).counts = (((unpackWords (fmtBits (dFmt x.dx)) (vcLen x.w)
       (l.take (rowWordCount (dFmt x.dx) (vcLen x.w)))).zip (unpackWords (fmtBits (dFmt x.dz)) (vcLen x.w)
         (l.drop (rowWordCount (dFmt x.dx) (vcLen x.w))))).map fun c =>
     x.res (f (x.rnd (codeValue (dFmt x.dx) c.1.1)) (x.rnd (codeValue (dFmt x.dz) c.2.1))) (c.1.2 || c.2.2))) ∧
   (∀ (x : VCtx) r l, (x.put r l).writes = writesAt (rowAddr x.k.bind x.dd x.vars r) (fmtBits (dFmt x.dd))
     (l.map fun e => (e.conv.code, e.poison))))

/-- R52, R57, R61, R67, R83, R84: array commands work on their core alone. An issue cycle advances the array clock by one and writes no word; the
loader injects at most one row; the adds write no word; publication copies every counter together.

R70, R71: a free drain takes the oldest complete row of its array, which leaves the ready list as its words are asked for; no row, one completed
in this cycle, a frozen hearth or a busy drain changes nothing.

R70, R72: when the last word of a row is written, its complete and poison bits are cleared. -/
def Obligations.ArraysDrainTheirRows : Prop :=
  ((∀ s c, coreExists s c = true → (s.core c).power = .on → (s.hearth (hearthOf s c)).frozen = false →
     ∃ t, exec (.issueSequencerCycle c) s = .next t ∧ (t.core c).arrays.cycle = (s.core c).arrays.cycle + 1 ∧
       (t.core c).pad.words = (s.core c).pad.words ∧ (t.core c).recipe = (s.core c).recipe ∧ OtherCoresKept s t c ∧
       t = { s with cores := t.cores }) ∧
   (∀ s c, coreExists s c = true → (s.core c).power = .on → (s.hearth (hearthOf s c)).frozen = false →
     ∃ t, exec (.loaderRowInjection c) s = .next t ∧
       ((t.core c).arrays.shadow = (s.core c).arrays.shadow ∨ ∃ r, (t.core c).arrays.shadow = (s.core c).arrays.shadow ++ [r]) ∧
       (t.core c).arrays.cycle = (s.core c).arrays.cycle ∧ (t.core c).pad = (s.core c).pad ∧ (t.core c).seq = (s.core c).seq ∧
       OtherCoresKept s t c ∧ t = { s with cores := t.cores }) ∧
   (∀ s c ups, coreExists s c = true → (s.core c).power = .on → (s.hearth (hearthOf s c)).frozen = false →
     ∃ t, exec (.accumulatorAdd c ups) s = .next t ∧ (t.core c).arrays.cycle = (s.core c).arrays.cycle ∧ (t.core c).pad = (s.core c).pad ∧
       (t.core c).seq.step = (s.core c).seq.step ∧ OtherCoresKept s t c ∧ t = { s with cores := t.cores }) ∧
   (∀ s c, coreExists s c = true → exec (.counterPublication c) s =
     .next (s.modCore c fun k => { k with pub := k.live, pubs := k.pubs + 1 }))) ∧
  ((∀ s c (n : Fin 4) ups row cyc rest, coreExists s c = true → (s.core c).power = .on → (s.hearth (hearthOf s c)).frozen = false →
     ((s.core c).arrays.array n).ready = (row, cyc) :: rest → drainFree (s.core c) n = true → cyc < (s.core c).arrays.cycle →
     ∃ t, exec (.drainRow c n ups) s = .next t ∧ ((t.core c).arrays.array n).ready = rest ∧
       (∀ m, m ≠ n.val → (t.core c).arrays.array m = (s.core c).arrays.array m ∧ (t.core c).pad.jobs m = (s.core c).pad.jobs m) ∧
       ((orderCtx s (s.core c) (mget {} ((s.core c).arrays.array n).acc row).order).isSome = true → ∃ j,
         (t.core c).pad.jobs n = (s.core c).pad.jobs n ++ [j] ∧ j.part = row ∧
         j.order = (mget {} ((s.core c).arrays.array n).acc row).order ∧ j.since = (s.core c).arrays.cycle + 7 + ceilDiv j.want 32 ∧
         (s.core c).arrays.cycle < ((t.core c).arrays.array n).busy) ∧
       (t.core c).pad.words = (s.core c).pad.words ∧ OtherCoresKept s t c ∧ t = { s with cores := t.cores, aon := t.aon }) ∧
   (∀ s c (n : Fin 4) ups, coreExists s c = true → (((s.core c).arrays.array n).ready = [] ∨ (s.core c).power ≠ .on ∨
     (s.hearth (hearthOf s c)).frozen = true ∨ drainFree (s.core c) n = false ∨
     (∃ row cyc rest, ((s.core c).arrays.array n).ready = (row, cyc) :: rest ∧ (s.core c).arrays.cycle ≤ cyc)) →
     exec (.drainRow c n ups) s = .next s)) ∧
  (∀ s k n j, k.pad.jobs n = [j] → k.pad.jobDone n j = true →
     (drainSettle s k n).pad.jobs n = [] ∧ (drainSettle s k n).pad.words = k.pad.words ∧
     ∀ r ∈ (match orderCtx s k j.order with | some x => (x.drainRows j.part).flatMap (rowSpan x.wide) | none => [j.part]),
       (mget {} ((drainSettle s k n).arrays.array n).acc r).complete = false ∧ (mget {} ((drainSettle s k n).arrays.array n).acc r).poisoned = false)

/-- R66, R67, R69, R173: an item that reaches its accumulator row: the first item of a sum replaces the row, every other adds to it, plain
integers saturating at 32 bits; the last completes the row; poison is kept until a first item replaces it. -/
def Obligations.AccumulateReplacesAddsAndSaturates : Prop :=
  (∀ (r : AccRow) (w : Wave) ups (i : Nat) new, w.wide = false → w.fp = false → w.sums[i]? = some new → ∃ v, (accumulate r w ups).1.vals[i]? = some v ∧
    v = max (-(2 ^ 31)) (min (2 ^ 31 - 1) ((if w.first then 0 else (padTo 0 w.sums.length r.vals)[i]?.getD 0) + new))) ∧
  (∀ (r : AccRow) (w : Wave) ups, (accumulate r w ups).1.complete = w.last ∧ (accumulate r w ups).1.vals.length = w.sums.length ∧
    (w.first = true → (accumulate r w ups).1.poisoned = w.poison ∧ (accumulate r w ups).1.rowsum = w.rowsum) ∧
    (w.first = false → (accumulate r w ups).1.poisoned = (r.poisoned || w.poison || decide (ups = .double)) ∧
      (accumulate r w ups).1.rowsum = r.rowsum + w.rowsum)) ∧
  (∀ (r : AccRow) (w : Wave) ups, w.wide = false → w.fp = false → ((accumulate r w ups).2 = 0 ↔
    ∀ (i : Nat) new, w.sums[i]? = some new → -(2 ^ 31) ≤ (if w.first then 0 else (padTo 0 w.sums.length r.vals)[i]?.getD 0) + new ∧
      (if w.first then 0 else (padTo 0 w.sums.length r.vals)[i]?.getD 0) + new ≤ 2 ^ 31 - 1))

/-- R164: word address and (bank, bank row) name the same words: the mapping is one to one, over 128 banks.

R167, R189: in one cycle no two requests to one bank are served, whoever waits; a request to a bank that nobody else wants is served
unless a block initialisation takes every bank. -/
def Obligations.BanksServeOneRequestACycle : Prop :=
  ((∀ w, bankOf w < 128 ∧ bankWord (bankOf w) (bankRow w) = w) ∧
   (∀ b r, b < 128 → bankOf (bankWord b r) = b ∧ bankRow (bankWord b r) = r)) ∧
  ((∀ interval p (l : List Waiting),
     ((l.zipIdx.filter fun e => (grantCycle interval p l.zipIdx).won.contains e.2).map fun e => bankOf e.1.req.word).Nodup) ∧
   (∀ interval p (l : List Waiting), l ≠ [] → (grantCycle interval p l.zipIdx).won ≠ []) ∧
   (∀ interval p (w : Waiting), (grantCycle interval p [w].zipIdx).won = [0]))

/-- R164, R166, R171, R172, R188, R189: the scratchpad serves reads and whole-word writes. A lone write makes its word good and its block
valid; a lone read of a good word delivers it, of an invalid block a poisoned zero. A bank cycle changes the other cores only by the signals
of arrived transfers.

R54, R167, R170, R171, R172, R175, R176: a write-back serves the oldest of its kind in a free cycle of its bank: the corrected word, or the
exact poison mark; the scrubber corrects a single error by a queued write-back, marks and reports an uncorrectable one, and waits where
another class wants the bank. Nothing of it happens in a frozen hearth or a gated core.

R130, R188, R190, R294: a core that runs no recipe is gated, keeping its scratchpad where 0x3240.s says so; a woken core is on again, its
contents kept or lost, a new scrub pass begun, and its instance's recipe written again. -/
def Obligations.ScratchpadKeepsItsWords : Prop :=
  ((∀ s c reqs ups, coreExists s c = true → padRuns s c = false → exec (.scratchpadBankCycle c reqs ups) s = .next s) ∧
   (∀ s c reqs ups, coreExists s c = true → padRuns s c = true → ∃ t, exec (.scratchpadBankCycle c reqs ups) s = .next t ∧
     (t.core c).recipe = (s.core c).recipe ∧ (t.core c).inst = (s.core c).inst ∧
     (∀ d, d ≠ c → t.core d = { s.core d with sync := (t.core d).sync }) ∧
     t = { s with cores := t.cores, aon := t.aon, baker := t.baker, ring := t.ring }) ∧
   (∀ s c r d, coreExists s c = true → padRuns s c = true → PadQuiet (s.core c) → r.wr = some (d, false) →
     (r.tag = .ingress none ∨ ∃ n, r.tag = .other n) →
     ∃ t, exec (.scratchpadBankCycle c [r] []) s = .next t ∧ (t.core c).pad.cell r.word = ⟨d, .good⟩ ∧
       (t.core c).pad.blockValid r.word = true ∧ (∀ w, w ≠ r.word → (t.core c).pad.cell w = (s.core c).pad.cell w) ∧
       (t.core c).pad.waiting = [] ∧ t = { s with cores := t.cores }) ∧
   (∀ s c r n, coreExists s c = true → padRuns s c = true → PadQuiet (s.core c) → r.wr = none → r.tag = .other n →
     (s.core c).pad.blockValid r.word = true → ((s.core c).pad.cell r.word).chk = .good →
     ∃ t, exec (.scratchpadBankCycle c [r] []) s = .next t ∧ (t.core c).pad.out = [(r, ((s.core c).pad.cell r.word).data, false)] ∧
       (t.core c).pad.words = (s.core c).pad.words ∧ t = { s with cores := t.cores }) ∧
   (∀ s c r n, coreExists s c = true → padRuns s c = true → PadQuiet (s.core c) → r.wr = none → r.tag = .other n →
     (s.core c).pad.blockValid r.word = false →
     ∃ t, exec (.scratchpadBankCycle c [r] []) s = .next t ∧ (t.core c).pad.out = [(r, 0, true)] ∧ t = { s with cores := t.cores })) ∧
  ((∀ s c w a, coreExists s c = true → padRuns s c = true →
     ((s.core c).pad.backs.find? fun b => decide (b.2.1 = false)) = some (w, false, a) → bankFree (s.core c).pad (bankOf w) = true →
     ∃ t, exec (.correctionWriteBack c) s = .next t ∧ (t.core c).pad.cell w = { (s.core c).pad.cell w with chk := .good } ∧
       (∀ b ∈ (t.core c).pad.backs, ¬(b.1 = w ∧ b.2.1 = false)) ∧ (∀ x, x ≠ w → (t.core c).pad.cell x = (s.core c).pad.cell x) ∧
       OtherCoresKept s t c ∧ t = { s with cores := t.cores }) ∧
   (∀ s c w a, coreExists s c = true → padRuns s c = true →
     ((s.core c).pad.backs.find? fun b => decide (b.2.1 = true)) = some (w, true, a) → bankFree (s.core c).pad (bankOf w) = true →
     ∃ t, exec (.poisonWriteBack c) s = .next t ∧ (t.core c).pad.cell w = ⟨0, .poison⟩ ∧
       (∀ b ∈ (t.core c).pad.backs, ¬(b.1 = w ∧ b.2.1 = true)) ∧ (∀ x, x ≠ w → (t.core c).pad.cell x = (s.core c).pad.cell x) ∧
       OtherCoresKept s t c ∧ t = { s with cores := t.cores }) ∧
   (∀ s c, coreExists s c = true → (padRuns s c = false ∨ ∀ b ∈ (s.core c).pad.backs, b.2.1 = true) →
     exec (.correctionWriteBack c) s = .next s) ∧
   (∀ s c, coreExists s c = true → (padRuns s c = false ∨ ∀ b ∈ (s.core c).pad.backs, b.2.1 = false) →
     exec (.poisonWriteBack c) s = .next s) ∧
   (∀ s c w p a, coreExists s c = true → ((s.core c).pad.backs.find? fun b => decide (b.2.1 = p)) = some (w, p, a) →
     bankFree (s.core c).pad (bankOf w) = false → exec (if p then .poisonWriteBack c else .correctionWriteBack c) s = .next s) ∧
   (∀ s c (b : Fin 128) u, coreExists s c = true → (setting s 0x3230 2 ≠ 1 ∨ padRuns s c = false ∨ scrubWaits (s.core c).pad b = true) →
     exec (.scrubRead c b u) s = .next s) ∧
   (∀ s c (b : Fin 128) r, coreExists s c = true → setting s 0x3230 2 = 1 → padRuns s c = true → scrubWaits (s.core c).pad b = false →
     bankFree (s.core c).pad b = true → nextValid (s.core c).pad (mget 0 (s.core c).pad.scrubRow b) = some r →
     (s.core c).pad.blockValid (bankWord b r) = true → ((s.core c).pad.cell (bankWord b r)).chk = .single →
     ∃ t, exec (.scrubRead c b .good) s = .next t ∧ (t.core c).live.corrected = (s.core c).live.corrected + 1 ∧
       (∃ x ∈ (t.core c).pad.backs, x.1 = bankWord b r ∧ x.2.1 = false) ∧
       (t.core c).pad.words = (s.core c).pad.words ∧ OtherCoresKept s t c ∧ t = { s with cores := t.cores }) ∧
   (∀ s c (b : Fin 128) r, coreExists s c = true → setting s 0x3230 2 = 1 → padRuns s c = true → scrubWaits (s.core c).pad b = false →
     bankFree (s.core c).pad b = true → nextValid (s.core c).pad (mget 0 (s.core c).pad.scrubRow b) = some r →
     (s.core c).pad.blockValid (bankWord b r) = true → ((s.core c).pad.cell (bankWord b r)).chk = .uncorrectable →
     ∃ t, exec (.scrubRead c b .good) s = .next t ∧ (t.core c).live.uncorr = (s.core c).live.uncorr + 1 ∧
       (∃ x ∈ (t.core c).pad.backs, x.1 = bankWord b r ∧ x.2.1 = true) ∧
       EventRaised s t 0x3221 (c + 1) 2 (BitVec.ofNat 8 (0x20 + hearthOf s c)) (8 * bankWord b r) ∧ AonKept s t ∧
       OtherCoresKept s t c ∧ t = { s with cores := t.cores, aon := t.aon }) ∧
   (∀ s c (b : Fin 128) r, coreExists s c = true → setting s 0x3230 2 = 1 → padRuns s c = true → scrubWaits (s.core c).pad b = false →
     bankFree (s.core c).pad b = false → nextValid (s.core c).pad (mget 0 (s.core c).pad.scrubRow b) = some r →
     exec (.scrubRead c b .good) s = .next (s.modCore c fun k => k.modPad fun p =>
       { p with waiting := p.waiting ++ [⟨⟨7, false, 0, bankWord b r, none, .scrub⟩, 0⟩] })) ∧
   (∀ s c (b : Fin 128) u, coreExists s c = true → setting s 0x3230 2 = 1 → padRuns s c = true → scrubWaits (s.core c).pad b = false →
     nextValid (s.core c).pad (mget 0 (s.core c).pad.scrubRow b) = none →
     exec (.scrubRead c b u) s = .next (s.modCore c fun k => k.modPad fun p => endPass p b))) ∧
  ((∀ s c, coreExists s c = true → (s.core c).power = .on → (s.core c).seq.state ≠ .running →
     ∃ t, exec (.corePowerGating c) s = .next t ∧
       (t.core c).power = (if setting s 0x3240 (c + 1) = 1 then .gatedKeep else .gatedLost) ∧ (t.core c).recipe = {} ∧
       (t.core c).seq = {} ∧ (t.core c).arrays = {} ∧ (t.core c).pad.words = (s.core c).pad.words ∧ (t.core c).island = (s.core c).island ∧
       (t.core c).inst = (s.core c).inst ∧ OtherCoresKept s t c ∧ t = { s with cores := t.cores }) ∧
   (∀ s c, coreExists s c = true → ((s.core c).power ≠ .on ∨ (s.core c).seq.state = .running) →
     exec (.corePowerGating c) s = .next s) ∧
   (∀ s c, coreExists s c = true → (s.core c).power = .on → exec (.coreWake c) s = .next s) ∧
   (∀ s c, coreExists s c = true → (s.core c).power = .gatedLost → ∃ t, exec (.coreWake c) s = .next t ∧ (t.core c).power = .on ∧
     (t.core c).pad.words = [] ∧ (t.core c).pad.valid = [] ∧ (t.core c).pad.scrubRow = [] ∧ t.hbm = s.hbm ∧ t.host = s.host) ∧
   (∀ s c, coreExists s c = true → (s.core c).power = .gatedKeep → ∃ t, exec (.coreWake c) s = .next t ∧ (t.core c).power = .on ∧
     (t.core c).pad.words = (s.core c).pad.words ∧ (t.core c).pad.valid = (s.core c).pad.valid ∧ (t.core c).pad.scrubRow = [] ∧
     t.hbm = s.hbm ∧ t.host = s.host) ∧
   (∀ s c b i, coreExists s c = true → (s.core c).power ≠ .on → (s.core c).inst = some (b, i) → ∃ t, exec (.coreWake c) s = .next t ∧
     (t.core c).inst = some (b, i) ∧ (t.core c).recipe = instRecipe (s.bake b) i ∧ (t.core c).seq.state = .idle ∧
     (t.core c).seq.step = 0 ∧ (t.core c).seq.flight = [] ∧ (t.core c).seq.attempt = (s.core c).seq.attempt))

/-- R166, R181, R185, R186, R226: a PUT flit at the head of the draught share leaves it; a word of the right tenant, epoch and window asks for
its bank in class 0x0, one outside every window opens a crumb of reason 0x1 and writes nothing, one of a past epoch is only counted.

R184, R185, R187, R226, R259: a probe is answered after every crumb owed to its initiator; an answer ends the waiting of the FENCEs it
belongs to; a crumb is counted, reported, and held while its epoch and attempt are current and fewer than 16 are held. -/
def Obligations.RemoteWritesAreCheckedAndProbed : Prop :=
  ((∀ s c d, coreExists s c = true → headDraught s c 1 = some d → hearthWrites s c = true → ∃ t, exec (.putWordArrival c) s = .next t ∧
     (t.core c).island.inDraught = (s.core c).island.inDraught.drop 1 ∧ (t.core c).seq = (s.core c).seq ∧ OtherCoresKept s t c ∧
     t = { s with cores := t.cores }) ∧
   (∀ s c, coreExists s c = true → (headDraught s c 1 = none ∨ hearthWrites s c = false) → exec (.putWordArrival c) s = .next s) ∧
   (∀ s c d w, coreExists s c = true → headDraught s c 1 = some d → hearthWrites s c = true → d.data = [(w, false)] → d.lst = false →
     d.tnt = (s.core c).island.tenant → d.epoch = (s.core c).island.epoch → (s.core c).power = .on → (s.core c).inst ≠ none →
     inWindow (s.core c).island.windows d.taddr = true → ∃ t, exec (.putWordArrival c) s = .next t ∧
       (t.core c).pad = { (s.core c).pad with
         waiting := (s.core c).pad.waiting ++ [⟨⟨0, true, 0, d.taddr / 8, some (w, false), .ingress none⟩, 0⟩] } ∧
       (t.core c).sync = (s.core c).sync) ∧
   (∀ s c d w, coreExists s c = true → headDraught s c 1 = some d → hearthWrites s c = true → d.data = [w] → d.lst = false →
     d.tnt = (s.core c).island.tenant → d.epoch = (s.core c).island.epoch → (s.core c).power = .on → (s.core c).inst ≠ none →
     inWindow (s.core c).island.windows d.taddr = false → (s.core c).sync.opened = [] → ∃ t, exec (.putWordArrival c) s = .next t ∧
       (t.core c).pad = (s.core c).pad ∧
       (t.core c).sync.opened = [⟨d.epoch, d.fcount, d.sobj, 1, d.att, srcCore s d, c, d.step, d.loops, d.taddr, 1⟩]) ∧
   (∀ s c d w, coreExists s c = true → headDraught s c 1 = some d → hearthWrites s c = true → d.data = [w] → d.lst = false →
     d.tnt = (s.core c).island.tenant → d.epoch ≠ (s.core c).island.epoch → ∃ t, exec (.putWordArrival c) s = .next t ∧
       (t.core c).pad = (s.core c).pad ∧ (t.core c).sync = (s.core c).sync ∧
       (t.core c).live.staleWords = (s.core c).live.staleWords + 1)) ∧
  ((∀ s c d, coreExists s c = true → headDraught s c 2 = some d → hearthWrites s c = true → ∃ t, exec (.fenceProbe c) s = .next t ∧
     (t.core c).island.inDraught = (s.core c).island.inDraught.drop 1 ∧
     (t.core c).island.outbox.getLast? = some (0, replyTo s c d 3 none) ∧
     (∀ r ∈ (t.core c).sync.opened, r.init ≠ srcCore s d) ∧ (t.core c).pad = (s.core c).pad ∧ OtherCoresKept s t c ∧
     t = { s with cores := t.cores }) ∧
   (∀ s c d, coreExists s c = true → headDraught s c 3 = some d → d.epoch = (s.core c).island.epoch → ∃ t,
     exec (.probeAnswer c) s = .next t ∧ (t.core c).island.inDraught = (s.core c).island.inDraught.drop 1 ∧
     (∀ f ∈ (t.core c).sync.fence, f.sobj = d.sobj.toNat → f.count = d.fcount → srcCore s d ∉ f.waiting) ∧
     (t.core c).sync.fence.length = (s.core c).sync.fence.length ∧ (t.core c).pad = (s.core c).pad ∧ OtherCoresKept s t c ∧
     t = { s with cores := t.cores }) ∧
   (∀ s c d, coreExists s c = true → headDraught s c 3 = some d → d.epoch ≠ (s.core c).island.epoch →
     exec (.probeAnswer c) s = .next (dropDraught s c)) ∧
   (∀ s c d r, coreExists s c = true → headDraught s c 4 = some d → d.crumb = some r → ∃ t, exec (.crumb c) s = .next t ∧
     (t.core c).island.inDraught = (s.core c).island.inDraught.drop 1 ∧
     (t.core c).live.crumbsRecv = (s.core c).live.crumbsRecv + 1 ∧
     (t.core c).sync.held = (if r.epoch = (s.core c).island.epoch ∧ r.att = (s.core c).seq.attempt ∧ (s.core c).sync.held.length < 16 then
       (s.core c).sync.held ++ [r] else (s.core c).sync.held) ∧
     EventRaised s t 0x3250 (c + 1) 2 (BitVec.ofNat 8 (0x20 + hearthOf s c)) r.taddr ∧ AonKept s t ∧ OtherCoresKept s t c ∧
     t = { s with cores := t.cores, aon := t.aon }) ∧
   (∀ s c, coreExists s c = true → (headDraught s c 2 = none ∨ hearthWrites s c = false → exec (.fenceProbe c) s = .next s) ∧
     (headDraught s c 3 = none → exec (.probeAnswer c) s = .next s) ∧ (headDraught s c 4 = none → exec (.crumb c) s = .next s)))

/-- R54, R193, R197, R374, R409: a router slot is one Flue cycle: time advances by one, hearths whose last row restarts in it run again, and the
rings, stacks, host memory, links and control plane are untouched, but for the generation of a commit set whose last router switches. -/
def Obligations.RouterSlotIsOneFlueCycle : Prop :=
  ∀ s bad, ∃ t, exec (.routerSlot bad) s = .next t ∧ t.flue.cycle = s.flue.cycle + 1 ∧
    (∀ n < 16, ∀ c, (s.hearth n).restartAt = some c → c ≤ s.flue.cycle →
      (t.hearth n).frozen = false ∧ (t.hearth n).restartAt = none ∧ (t.hearth n).stopTo = none ∧ (t.hearth n).stopBit = false) ∧
    (∀ n < 16, (∀ c, (s.hearth n).restartAt = some c → s.flue.cycle < c) → t.hearth n = s.hearth n) ∧
    t = { s with
      aon := t.aon, hearths := t.hearths, map := t.map, cores := t.cores, flue := t.flue, baker := t.baker,
      ctl := { s.ctl with dict := { s.ctl.dict with gens := t.ctl.dict.gens } } }

/-- R166, R211, R212, R213: the stream flit at the head is checked in order. The words of a whole transfer in sequence ask for their banks at its
place; with the last of them written the entry signals its object and moves on. A flit without an entry is counted with an event, one of a past
epoch only counted.

R226: the tenant check of draught flits: a flit of the core's own tenant waits for the command of its type; a firmware message is taken from
tenant 0xFF only; a PUT of another tenant writes nothing and opens a crumb of reason 0x2. -/
def Obligations.FlueTransfersAreChecked : Prop :=
  ((∀ s c, coreExists s c = true → ((s.core c).island.inStream = [] ∨ hearthWrites s c = false) →
     exec (.streamFlitArrival c) s = .next s) ∧
   (∀ s c f rest n r, coreExists s c = true → (s.core c).island.inStream = f :: rest → hearthWrites s c = true →
     ((s.core c).island.recv.find? fun e => decide (e.1 = f.strm.toNat)) = some (n, r) → r.epoch = (s.core c).island.epoch →
     f.epl.toNat = r.epoch.toNat % 256 → f.first = true → f.seq.toNat = r.num % 1024 → r.size / 8 ≤ 16 → r.size / 8 ≤ f.data.length →
     ∃ t, exec (.streamFlitArrival c) s = .next t ∧ (t.core c).island.inStream = rest ∧
       ((t.core c).island.recv.find? fun e => decide (e.1 = f.strm.toNat)) = some (n, { r with got := some (r.size / 8, false) }) ∧
       (t.core c).pad = { (s.core c).pad with
         waiting := (s.core c).pad.waiting ++ ((f.data.take (r.size / 8)).zipIdx.map fun e =>
           ⟨⟨0, true, 0, (r.base + r.num % max 1 r.depth * r.size) / 8 + e.2, some (e.1, bitAt f.pmask e.2),
             .ingress (if e.2 + 1 = r.size / 8 then some n else none)⟩, 0⟩) } ∧
       OtherCoresKept s t c ∧ t = { s with cores := t.cores }) ∧
   (∀ s c q d n r, coreExists s c = true → padRuns s c = true → PadQuiet (s.core c) → q.wr = some d → q.tag = .ingress (some n) →
     ((s.core c).island.recv.find? fun e => decide (e.1 = n)) = some (n, r) → (syncObj s r.sobj).epoch = r.epoch →
     ∃ t, exec (.scratchpadBankCycle c [q] []) s = .next t ∧
       syncObj t r.sobj = { syncObj s r.sobj with value := (syncObj s r.sobj).value + r.amt } ∧
       ((t.core c).island.recv.find? fun e => decide (e.1 = n)) = some (n, { r with got := none, num := r.num + 1 }) ∧
       t = { s with cores := t.cores, ring := t.ring }) ∧
   (∀ s c f rest, coreExists s c = true → (s.core c).island.inStream = f :: rest → hearthWrites s c = true →
     ((s.core c).island.recv.find? fun e => decide (e.1 = f.strm.toNat)) = none → ∃ t, exec (.streamFlitArrival c) s = .next t ∧
       (t.core c).island.inStream = rest ∧ mget 0 (t.core c).live.flue 2 = mget 0 (s.core c).live.flue 2 + 1 ∧
       (t.core c).pad = (s.core c).pad ∧ EventRaised s t 0x3330 (c + 1) 0 (BitVec.ofNat 8 (0x20 + hearthOf s c)) 0 ∧
       t = { s with cores := t.cores, aon := t.aon }) ∧
   (∀ s c f rest n r, coreExists s c = true → (s.core c).island.inStream = f :: rest → hearthWrites s c = true →
     ((s.core c).island.recv.find? fun e => decide (e.1 = f.strm.toNat)) = some (n, r) → r.epoch = (s.core c).island.epoch →
     f.epl.toNat ≠ r.epoch.toNat % 256 → ∃ t, exec (.streamFlitArrival c) s = .next t ∧ (t.core c).island.inStream = rest ∧
       mget 0 (t.core c).live.flue 1 = mget 0 (s.core c).live.flue 1 + 1 ∧ (t.core c).pad = (s.core c).pad ∧
       t = { s with cores := t.cores })) ∧
  ((∀ s c, coreExists s c = true → (s.core c).island.inDraught = [] → exec (.draughtFlitArrival c) s = .next s) ∧
   (∀ s c d rest, coreExists s c = true → (s.core c).island.inDraught = d :: rest → d.mtype ≠ 5 → d.tnt ≠ 0xFF →
     d.tnt = (s.core c).island.tenant → exec (.draughtFlitArrival c) s = .next s) ∧
   (∀ s c d rest, coreExists s c = true → (s.core c).island.inDraught = d :: rest → d.tnt = 0xFF →
     exec (.draughtFlitArrival c) s = .next (dropDraught s c)) ∧
   (∀ s c d rest, coreExists s c = true → (s.core c).island.inDraught = d :: rest → d.mtype = 5 → d.tnt ≠ 0xFF →
     exec (.draughtFlitArrival c) s = .next ((dropDraught s c).modCore c fun k => k.modLive fun l => l.flueInc 5)) ∧
   (∀ s c d rest w, coreExists s c = true → (s.core c).island.inDraught = d :: rest → d.mtype = 1 → d.tnt ≠ 0xFF →
     d.tnt ≠ (s.core c).island.tenant → d.lst = false → d.data = [w] → (s.core c).sync.opened = [] → ∃ t,
     exec (.draughtFlitArrival c) s = .next t ∧ (t.core c).island.inDraught = rest ∧ (t.core c).pad = (s.core c).pad ∧
       (t.core c).sync.opened = [⟨d.epoch, d.fcount, d.sobj, 2, d.att, srcCore s d, c, d.step, d.loops, d.taddr, 1⟩] ∧
       OtherCoresKept s t c ∧ t = { s with cores := t.cores }))

/-- R206, R207, R229: a schedule that obeys the rules is staged at its router, any other refused with an event; at its start cycle the router
changes to it and the core's island takes its tenant and epoch. Where the table had to be rewritten, the schedule starts at the first multiple
of 64 after the rewrite.

R215, R217: a change of a stop bit reaches the islands 32 cycles after it is made and not before; a bridge sends its oldest stop bit's new value
as a stream-stop word, one in a cycle, which takes effect 32 cycles later.

R196, R220, R222, R228: a draught compile puts its routes and offsets in force, finds the longest shortest route, counts itself and ends the
compile under way; a plan that breaks the rules of a compile changes nothing. -/
def Obligations.SchedulesAndStopsTakeEffect : Prop :=
  ((∀ s p b n c0 tnt m den ep, hasRouter s p = true →
     scheduleOk s p ⟨n, b, c0, BitVec.ofNat 8 tnt, BitVec.ofNat 5 m, den, BitVec.ofNat 32 ep⟩ = true →
     exec (.scheduleCommit p b n c0 tnt m den ep) s = .next (s.modRouter p fun r =>
       { r with staged := some ⟨n, b, c0, BitVec.ofNat 8 tnt, BitVec.ofNat 5 m, den, BitVec.ofNat 32 ep⟩ })) ∧
   (∀ s p b n c0 tnt m den ep, hasRouter s p = true →
     scheduleOk s p ⟨n, b, c0, BitVec.ofNat 8 tnt, BitVec.ofNat 5 m, den, BitVec.ofNat 32 ep⟩ = false →
     ∃ t, exec (.scheduleCommit p b n c0 tnt m den ep) s = .next t ∧
       EventRaised s t 0x3301 (((coreAt s p).map (· + 1)).getD 0) 0 (BitVec.ofNat 8 (0x20 + hearthOfSite p)) p ∧ AonKept s t ∧
       t = { s with aon := t.aon }) ∧
   (∀ s p h, hasRouter s p = true → (s.router p).staged = some h → (s.router p).rewrite = [] → h.c0 ≤ s.flue.cycle →
     ∃ t, exec (.scheduleSwitch p) s = .next t ∧
     t.router p = { s.router p with sched := h, staged := none, hold := false } ∧ (∀ q, q ≠ p → t.router q = s.router q) ∧
     (∀ c, coreAt s p = some c → (t.core c).island.tenant = h.tenant ∧ (t.core c).island.epoch = h.epoch ∧
       (t.core c).pad = (s.core c).pad ∧ OtherCoresKept s t c) ∧
     t = { s with flue := t.flue, cores := t.cores, ctl := t.ctl }) ∧
   (∀ s p h, hasRouter s p = true → (s.router p).staged = some h → (s.router p).rewrite ≠ [] → h.c0 ≤ s.flue.cycle →
     ∃ t, exec (.scheduleSwitch p) s = .next t ∧
     t.router p = { s.router p with
       sched := { h with c0 := (s.flue.cycle / 64 + 1) * 64 }, staged := none, rewrite := [], hold := false,
       table := (s.router p).rewrite.foldl (fun m e => mset idleEntry m e.1 e.2) (s.router p).table } ∧
     t = { s with flue := t.flue, cores := t.cores, ctl := t.ctl }) ∧
   (∀ s p, hasRouter s p = true → ((s.router p).staged = none ∨ ∃ h, (s.router p).staged = some h ∧ s.flue.cycle < h.c0) →
     exec (.scheduleSwitch p) s = .next s)) ∧
  ((∀ s, ∃ t, exec .stopMaskApply s = .next t ∧ (∀ e ∈ t.flue.maskQ, e ∈ s.flue.maskQ ∧ s.flue.cycle < e.1) ∧
     ((∀ e ∈ s.flue.maskQ, s.flue.cycle < e.1) → t = s) ∧
     (∀ c n b, s.flue.maskQ = [(c, n, b)] → n < 16 → c ≤ s.flue.cycle → bitAt t.flue.mask n = b) ∧
     t = { s with flue := { s.flue with mask := t.flue.mask, maskQ := t.flue.maskQ } }) ∧
   (∀ s n p k b, (s.flue.stopOut.find? fun x => decide (x.2 = (p, k, b))) = some (n, p, k, b) →
     (s.flue.stopOut.find? fun x => decide (x.1 = n)) = some (n, p, k, b) → mget 0 s.flue.stopAt n ≤ s.flue.cycle →
     ∃ t, exec (.streamStopWord p k b) s = .next t ∧ t.flue.stopQ = s.flue.stopQ ++ [(s.flue.cycle + 32, p, k, b)] ∧
       t.flue.stopOut = eraseFirst (n, p, k, b) s.flue.stopOut ∧ mget 0 t.flue.stopAt n = s.flue.cycle + 1 ∧
       t = { s with flue := { s.flue with stopQ := t.flue.stopQ, stopOut := t.flue.stopOut, stopAt := t.flue.stopAt } }) ∧
   (∀ s p k b, (∀ x ∈ s.flue.stopOut, x.2 = (p, k, b) →
       (∃ e, (s.flue.stopOut.find? fun y => decide (y.1 = x.1)) = some e ∧ e ≠ x) ∨ s.flue.cycle < mget 0 s.flue.stopAt x.1) →
     exec (.streamStopWord p k b) s = .next s) ∧
   (∀ s, ∃ t, exec .streamStopApply s = .next t ∧ (∀ e ∈ t.flue.stopQ, e ∈ s.flue.stopQ ∧ s.flue.cycle < e.1) ∧
     (∀ c p n b k, s.flue.stopQ = [(c, p, n, b)] → c ≤ s.flue.cycle → coreAt s p = some k →
       mget false (t.core k).island.stop n = b ∧ OtherCoresKept s t k) ∧
     t = { s with flue := { s.flue with stopQ := t.flue.stopQ }, cores := t.cores })) ∧
  ((∀ s plan, planOk s plan = false → exec (.draughtCompile plan) s = .next s) ∧
   (∀ s plan, planOk s plan = true → ∃ t, exec (.draughtCompile plan) s = .next t ∧ t.flue.routes = plan.routes ∧
     t.flue.offsets = plan.offsets ∧ t.flue.maxRoute = longestShortest t ∧ t.flue.compiles = s.flue.compiles + 1 ∧ t.flue.compiling = false ∧
     (∀ h ∈ t.flue.held, h ∈ s.flue.held) ∧ (∀ e ∈ t.ring.sigs, e ∈ s.ring.sigs) ∧ t.cores = s.cores ∧
     t = { s with aon := t.aon, map := t.map, flue := t.flue, baker := t.baker, ring := t.ring }))

/-- R294, R296: a core sends the remote signals of its oldest finished step, but not during a compile nor while unusable; the oldest signal in flight
then reaches its object: it sets or adds where the epochs agree, and is refused and counted where they do not. -/
def Obligations.RemoteSignalsTravelInOrder : Prop :=
  (∀ s c g rest, coreExists s c = true → (s.core c).sync.queue = g :: rest → s.flue.compiling = false → usable s c = true →
    ∃ t, exec (.syncNetworkTurn c) s = .next t ∧ (t.core c).sync.queue = rest ∧ t.ring.sigs = s.ring.sigs ++ g.map (fun x => (c, x)) ∧
      OtherCoresKept s t c ∧ t = { s with cores := t.cores, ring := { s.ring with sigs := t.ring.sigs } }) ∧
  (∀ s c, coreExists s c = true → ((s.core c).sync.queue = [] ∨ s.flue.compiling = true ∨ usable s c = false) →
    exec (.syncNetworkTurn c) s = .next s) ∧
  (∀ s, s.ring.sigs = [] → exec .remoteSignalApply s = .next s) ∧
  (∀ s c g rest, s.ring.sigs = (c, g) :: rest → (syncObj s g.obj).epoch = g.epoch → ∃ t, exec .remoteSignalApply s = .next t ∧
    syncObj t g.obj = { syncObj s g.obj with value := if g.set then g.val else (syncObj s g.obj).value + g.val } ∧
    t.ring.sigs = rest ∧ t.ring.stale = s.ring.stale ∧ t = { s with cores := t.cores, ring := t.ring }) ∧
  (∀ s c g rest, s.ring.sigs = (c, g) :: rest → (syncObj s g.obj).epoch ≠ g.epoch →
    exec .remoteSignalApply s = .next { s with ring := { s.ring with sigs := rest, stale := s.ring.stale + 1 } })

/-- R272, R273, R274, R275, R345: the host registers of the rings. A base register of a disabled ring takes its value; one of an enabled
ring keeps it, and the write is counted with an event. RING_ENABLE sets en only where lg and the three areas allow it; RING_DISABLE stops
acceptance and clears err, which en written 0 clears on a disabled ring too; a TAIL that leaves more than 2^lg outstanding freezes the ring. -/
def Obligations.RingRegistersTakeHostWrites : Prop :=
  (∀ s (r : Fin 64) v, rcEn (s.workRing r).ctl = false →
    exec (.registerWrite (.descBase r) v) s = .next (s.modRing r fun g => { g with descBase := v }) ∧
    exec (.registerWrite (.alogBase r) v) s = .next (s.modRing r fun g => { g with alogBase := v }) ∧
    exec (.registerWrite (.cmplBase r) v) s = .next (s.modRing r fun g => { g with cmplBase := v }) ∧
    exec (.registerWrite (.ptRoot r) v) s = .next (s.modRing r fun g => { g with ptRoot := v })) ∧
  (∀ s (r : Fin 64) v reg, rcEn (s.workRing r).ctl = true → reg ∈ [BarReg.descBase r, .alogBase r, .cmplBase r, .ptRoot r] →
    ∃ t, exec (.registerWrite reg v) s = .next t ∧ t.ring = { s.ring with ignored := s.ring.ignored + 1 } ∧
      EventRaised s t 0x5000 5 0 (stokerId s) r.val ∧ AonKept s t ∧ t = { s with ring := t.ring, aon := t.aon }) ∧
  (∀ s v, exec (.registerWrite .invRoot v) s = .next { s with ring := { s.ring with invRoot := v } } ∧
    exec (.registerWrite .fqBase v) s = .next { s with ring := { s.ring with fqBase := v } } ∧
    exec (.registerWrite .fqHead v) s = .next { s with ring := { s.ring with fqHead := v } }) ∧
  (∀ s (n : Fin 4096) (p : Fin 3) v, ∃ t, exec (.registerWrite (.channel n p) v) s = .next t ∧
    fld (t.channel n).stage (64 * p.val + 63) (64 * p.val) = v.toNat ∧ (t.channel n).ent = (s.channel n).ent ∧
    (∀ m, m ≠ n.val → t.channel m = s.channel m) ∧ t = { s with links := { s.links with chans := t.links.chans } }) ∧
  (∀ s (r : Fin 64) v, rcEn (s.workRing r).ctl = false → rcEn v = true → 4 ≤ rcLg v → rcLg v ≤ 16 →
    (∀ a ∈ [(s.workRing r).descBase, (s.workRing r).alogBase, (s.workRing r).cmplBase], fld a 11 0 = 0) →
    ∃ t, exec (.ringEnable r v) s = .next t ∧ rcEn (t.workRing r).ctl = true ∧ rcLg (t.workRing r).ctl = rcLg v ∧
      bitAt (t.workRing r).ctl 30 = bitAt (s.workRing r).ctl 30 ∧ (t.workRing r).ledger = (s.workRing r).ledger ∧
      t = { s with ring := { s.ring with rings := t.ring.rings } }) ∧
  (∀ s (r : Fin 64) v, rcEn (s.workRing r).ctl = false → rcEn v = true → (rcLg v < 4 ∨ 16 < rcLg v ∨
    ∃ a ∈ [(s.workRing r).descBase, (s.workRing r).alogBase, (s.workRing r).cmplBase], fld a 11 0 ≠ 0) → ∃ t,
    exec (.ringEnable r v) s = .next t ∧ rcEn (t.workRing r).ctl = false ∧ EventRaised s t 0x5001 (r.val + 1) 0 (stokerId s) r.val) ∧
  (∀ s (r : Fin 64) v, rcEn (s.workRing r).ctl = true → rcEn v = false → ∃ t, exec (.ringDisable r v) s = .next t ∧
    rcEn (t.workRing r).ctl = false ∧ bitAt (t.workRing r).ctl 30 = false ∧ rcLg (t.workRing r).ctl = rcLg (s.workRing r).ctl ∧
    (t.workRing r).ledger = (s.workRing r).ledger ∧ (t.workRing r).head = (s.workRing r).head) ∧
  (∀ s (r : Fin 64) v, rcEn (s.workRing r).ctl = false → rcEn v = false → ∃ t, exec (.registerWrite (.ringCtl r) v) s = .next t ∧
    rcEn (t.workRing r).ctl = false ∧ bitAt (t.workRing r).ctl 30 = false ∧ (∀ q, q ≠ r.val → t.workRing q = s.workRing q) ∧
    t = { s with ring := { s.ring with rings := t.ring.rings } }) ∧
  (∀ s (r : Fin 64) v, ∃ t, exec (.tail r v) s = .next t ∧
    t = s.modRing r (fun g => { g with tail := v, ctl := (t.workRing r).ctl }) ∧
    bitAt (t.workRing r).ctl 30 = (decide (2 ^ rcLg (s.workRing r).ctl < (v - (s.workRing r).chead).toNat) || bitAt (s.workRing r).ctl 30)) ∧
  (∀ s (r : Fin 64) v, exec (.chead r v) s = .next (s.modRing r fun g => { g with chead := v }))

/-- R274, R275, R280, R281: the engine reads the descriptor at HEAD of an enabled ring that is not frozen, holds one and has room: it takes
its place in the ledger, HEAD advances, and its acceptance record is written, nothing else in host memory. Any other ring accepts nothing.

R276, R277, R291, R292: a cancel waits for the next pass. The pass marks an item that waits for nothing ready, makes one that was
ready before it startable, fails a reserved operation, and ends a cancelled item that has not started CANCELLED; a pass touches the rings and
host memory alone.

R275, R285, R286: the completion record of the item at the head of the ring's order, once it has ended, is written at its position and
the item leaves the ledger; the ring's interrupt is raised at once, or held back inside the moderation interval. -/
def Obligations.ItemsAreAcceptedAndCompletedInOrder : Prop :=
  ((∀ s (r : Fin 64) host, mayAccept (s.workRing r) = true → getItem s r (s.workRing r).head = none → ∃ t x,
     exec (.descriptorAccept r host) s = .next t ∧ (t.workRing r).head = (s.workRing r).head + 1 ∧
     (t.workRing r).ledger = (s.workRing r).ledger ++ [x] ∧ x.index = (s.workRing r).head ∧ x.status = none ∧ x.state = 1 ∧
     x.startable = false ∧ x.started = false ∧
     x.desc = BitVec.ofNat 512 (hostNum (mergeHost s host)
       ((s.workRing r).descBase.toNat + 64 * ((s.workRing r).head.toNat % ringSize (s.workRing r))) 64) ∧
     t.ring.accepted = s.ring.accepted + 1 ∧ (∀ q, q ≠ r.val → t.workRing q = s.workRing q) ∧
     hostBytes t ((s.workRing r).alogBase.toNat + 32 * ((s.workRing r).head.toNat % ringSize (s.workRing r))) 32 = acceptBytes s x ∧
     HostKept (mergeHost s host) t ((s.workRing r).alogBase.toNat + 32 * ((s.workRing r).head.toNat % ringSize (s.workRing r))) 32 ∧
     t = { s with ring := t.ring, host := t.host }) ∧
   (∀ s (r : Fin 64) host, mayAccept (s.workRing r) = false → exec (.descriptorAccept r host) s = .next (mergeHost s host))) ∧
  ((∀ s (r : Fin 64) i, exec (.cancel r i) s = .next (s.modRing r fun g => { g with cancels := g.cancels ++ [i] })) ∧
   (∀ s, ∃ t, exec .readinessPass s = .next t ∧ (∀ r < 64, (t.workRing r).cancels = [] ∧ (t.workRing r).head = (s.workRing r).head ∧
     (t.workRing r).ledger.map (·.index) = (s.workRing r).ledger.map (·.index)) ∧ t = { s with ring := t.ring, host := t.host }) ∧
   (∀ s r x, r < 64 → (s.workRing r).ledger = [x] → (∀ q < 64, (s.workRing q).cancels = []) → x.status = none → x.started = false →
     x.ready = false → wdWen x.desc = false → ∃ t, exec .readinessPass s = .next t ∧
       (t.workRing r).ledger = [{ x with ready := true }]) ∧
   (∀ s r x, r < 64 → (s.workRing r).ledger = [x] → (∀ q < 64, (s.workRing q).cancels = []) → x.status = none → x.started = false →
     x.ready = true → (wdOp x.desc = 0 ∨ wdOp x.desc = 1) → ∃ t, exec .readinessPass s = .next t ∧
       (t.workRing r).ledger = [{ x with startable := true }]) ∧
   (∀ s r x, r < 64 → (s.workRing r).ledger = [x] → (∀ q < 64, (s.workRing q).cancels = []) → x.status = none → x.started = false →
     x.ready = true → 6 ≤ wdOp x.desc → ∃ t, exec .readinessPass s = .next t ∧
       (t.workRing r).ledger = [{ x with started := true, status := some (3, 511), state := 4 }]) ∧
   (∀ s r x, r < 64 → (s.workRing r).ledger = [x] → (s.workRing r).cancels = [x.index] → x.status = none → x.started = false →
     2 ^ 31 ≤ (x.index - (s.workRing r).head).toNat → ∃ t, exec .readinessPass s = .next t ∧
       (t.workRing r).ledger = [{ x with status := some (2, 0), state := 4 }] ∧ (t.workRing r).cstat = 0 ∧
       (t.workRing r).cancelIx = x.index)) ∧
  ((∀ s (r : Fin 64), (s.workRing r).ledger = [] → exec (.completionRecordWrite r) s = .next s) ∧
   (∀ s (r : Fin 64) x rest, (s.workRing r).ledger = x :: rest → x.status = none → exec (.completionRecordWrite r) s = .next s) ∧
   (∀ s (r : Fin 64) x rest st d, (s.workRing r).ledger = x :: rest → x.status = some (st, d) → ∃ t,
     exec (.completionRecordWrite r) s = .next t ∧ (t.workRing r).ledger = rest ∧ (t.workRing r).complete = x.index + 1 ∧
     hostBytes t ((s.workRing r).cmplBase.toNat + 32 * (x.index.toNat % ringSize (s.workRing r))) 32 =
       completionBytes (s.workRing r) x st d ∧
     HostKept s t ((s.workRing r).cmplBase.toNat + 32 * (x.index.toNat % ringSize (s.workRing r))) 32 ∧
     t.ring.msix = (if rcIe (s.workRing r).ctl && imodPassed s (s.workRing r) then r.val :: s.ring.msix else s.ring.msix) ∧
     (t.workRing r).irqDue = (if rcIe (s.workRing r).ctl then !imodPassed s (s.workRing r) else (s.workRing r).irqDue) ∧
     t.baker = s.baker ∧ t = { s with ring := t.ring, host := t.host }))

/-- R277, R278, R279, R290, R297: items that complete at once. NOP ends with status 0x00; SIGNAL sets or adds to the global object it names
under the bake's epoch; a RUN without an I/O table starts one step of its bake; what an earlier attempt has committed ends 0x01.

R263, R264, R287: MIGRATE gives the bake its new rectangle and leaves the item open until the switch, or ends INVALID where it may not
move; UNLOAD of a bake with no step in progress empties its slot, ends its earlier open items and completes. -/
def Obligations.ItemsRunOnTheBakesTheyName : Prop :=
  ((∀ s (r : Fin 64) i x, ItemRuns s r i 0 x → ∃ t, exec (.nopItem r i) s = .next t ∧
     getItem t r i = some { x with started := true, status := some (0, 0) } ∧ OtherItemsKept s t r i ∧
     t = { s with ring := { s.ring with rings := t.ring.rings } }) ∧
   (∀ s (r : Fin 64) i, getItem s r i = none → exec (.nopItem r i) s = .next s ∧ exec (.signal r i) s = .next s ∧
     exec (.migrate r i) s = .next s ∧ exec (.unload r i) s = .next s) ∧
   (∀ s (r : Fin 64) i x, getItem s r i = some x → x.startable = true → x.started = false → x.status = none → wdOp x.desc = 0 →
     i ∉ (s.workRing r).cancels → descBad x.desc = none → waitBad s r x = none → wdRpl x.desc = true →
       fld (BitVec.ofNat 256 (hostNum s (wdPlog x.desc) 32)) 63 56 = 3 →
     fld (BitVec.ofNat 256 (hostNum s (wdPlog x.desc) 32)) 255 192 = (wdToken x.desc).toNat → ∃ t, exec (.nopItem r i) s = .next t ∧
       getItem t r i = some { x with started := true, status := some (1,
         BitVec.ofNat 128 (fld (BitVec.ofNat 256 (hostNum s (wdPlog x.desc) 32)) 159 128)) }) ∧
   (∀ s (r : Fin 64) i x b, ItemRuns s r i 5 x → namedSlot s r (wdBake x.desc) x.lref = .slot b →
     wdArg2 x.desc < (s.bake b).pkg.syncs.length → soScope (nth 0 (s.bake b).pkg.syncs (wdArg2 x.desc)) = 1 → ∃ t,
       exec (.signal r i) s = .next t ∧ getItem t r i = some { x with started := true, slot := b, status := some (0, 0) } ∧
       OtherItemsKept s t r i ∧
       syncObj t (hwSync (s.bake b) (wdArg2 x.desc)) =
         (if (syncObj s (hwSync (s.bake b) (wdArg2 x.desc))).epoch = (s.bake b).epoch then
           { syncObj s (hwSync (s.bake b) (wdArg2 x.desc)) with
             value := if 2 ^ 63 ≤ wdArg1 x.desc then BitVec.ofNat 32 (wdArg1 x.desc % 2 ^ 32)
               else (syncObj s (hwSync (s.bake b) (wdArg2 x.desc))).value + BitVec.ofNat 32 (wdArg1 x.desc % 2 ^ 32) }
         else syncObj s (hwSync (s.bake b) (wdArg2 x.desc))) ∧ t = { s with ring := t.ring, cores := t.cores }) ∧
   (∀ s (r : Fin 64) i x b host, ItemRuns s r i 2 x → namedSlot s r (wdBake x.desc) x.lref = .slot b →
     (s.bake b).ring = r.val → wdArg1 x.desc = 0 → ioMissing (s.bake b).pkg (stepTemplates (s.bake b).pkg) [] = false → ∃ t,
       exec (.run r i host) s = .next t ∧ (t.bake b).state = 3 ∧ (t.bake b).item = some i ∧ (t.bake b).committing = false ∧
       (t.bake b).io = [] ∧ (t.bake b).epoch = (s.bake b).epoch ∧
       getItem t r i = some { x with started := true, slot := b, attempts := x.attempts + 1 } ∧ OtherItemsKept s t r i ∧
       t.host = (mergeHost s host).host ∧ t = { s with cores := t.cores, baker := t.baker, ring := t.ring, host := t.host })) ∧
  ((∀ s (r : Fin 64) i x b, ItemRuns s r i 4 x → namedSlot s r (wdBake x.desc) x.lref = .slot b → (s.bake b).state ≠ 0 →
     (s.bake b).state ≠ 1 → (s.bake b).migTo = 0 → targetOk s b (wdTgt x.desc) = true → ∃ t, exec (.migrate r i) s = .next t ∧
       t.bake b = { s.bake b with
         migTo := BitVec.ofNat 8 (wdTgt x.desc), migDrain := decide (boundaryOf s b (wdArg2 x.desc) = 1)
         state := if (s.bake b).state = 2 then 6 else (s.bake b).state } ∧
       (∀ d, d ≠ b → t.bake d = s.bake d) ∧ getItem t r i = some { x with started := true, slot := b } ∧ OtherItemsKept s t r i ∧
       t = { s with baker := t.baker, ring := { s.ring with rings := t.ring.rings } }) ∧
   (∀ s (r : Fin 64) i x b, ItemRuns s r i 4 x → namedSlot s r (wdBake x.desc) x.lref = .slot b →
     ((s.bake b).state = 1 ∨ (s.bake b).migTo ≠ 0 ∨ targetOk s b (wdTgt x.desc) = false) → ∃ t, exec (.migrate r i) s = .next t ∧
       getItem t r i = some { x with started := true, slot := b, status := some (3, 495), state := 4 } ∧ t.baker = s.baker ∧
       t = { s with ring := t.ring, host := t.host }) ∧
   (∀ s (r : Fin 64) i x b, ItemRuns s r i 3 x → namedSlot s r (wdBake x.desc) x.lref = .slot b → (s.bake b).ring = r.val →
     (s.bake b).item = none → ∃ t, exec (.unload r i) s = .next t ∧ t.bake b = {} ∧ (∀ d, d ≠ b → t.bake d = s.bake d) ∧
     (∀ d ∈ t.ring.dmas, d.slot ≠ b) ∧
     (∀ c ∈ bakeCores (s.bake b), ∀ n, (t.core c).inst ≠ some (b, n)) ∧
     getItem t r i = some { x with started := true, slot := b, status := some (0, 0) } ∧ (∀ q, q ≠ r.val → t.workRing q = s.workRing q) ∧
     t = { s with cores := t.cores, flue := t.flue, baker := t.baker, ring := t.ring, host := t.host, ctl := t.ctl }))

/-- R129, R232, R243, R286: a LOAD whose package is read, passes every check and needs no I/O table takes the lowest free slot, with the
defaults of 0x3101 as they stand, and is placing;
with no free slot, or its rectangle in use, it ends REJECTED, with the reason in its completion and at 0x3403.01. -/
def Obligations.LoadTakesTheLowestFreeSlot : Prop :=
  (∀ s (r : Fin 64) i x host l0 b l, ItemRuns (mergeHost s host) r i 1 x →
    let u := modItem (mergeHost s host) r i fun y => { y with started := true }
    let root := (s.workRing r).ptRoot.toNat
    (readDva u root [] 4 (wdArg0 x.desc)).1 = .ok l0 →
    let h : W256 := BitVec.ofNat 256 (ofLe l0)
    rectBusy s (phTnt h) = false → freeSlot s = some b → headerFault h = none →
    let v := modItem ((readDva u root [] 4 (wdArg0 x.desc)).2.modBake b fun _ =>
      { state := 1, ring := r.val, loadIdx := i, tenant := BitVec.ofNat 8 (phTnt h), defaults := defaultsNow s }) r i fun y => { y with slot := b }
    (readDva v root [] (ceilDiv (phBytes h) 8) (wdArg0 x.desc)).1 = .ok l →
    packageReject (readDva v root [] (ceilDiv (phBytes h) 8) (wdArg0 x.desc)).2 (l.take (phBytes h)) = none → wdArg1 x.desc = 0 →
    ioMissing (readPackage (l.take (phBytes h))) (fillTemplates (readPackage (l.take (phBytes h)))) [] = false →
    ∃ t, exec (.load r i host) s = .next t ∧
      t.bake b = { state := 1, ring := r.val, loadIdx := i, tenant := BitVec.ofNat 8 (phTnt h), pkg := readPackage (l.take (phBytes h)),
                   digest := sha384 (l.take (phBytes h)), defaults := defaultsNow s } ∧ (∀ d, d ≠ b → t.bake d = s.bake d) ∧
      getItem t r i = some { x with started := true, slot := b } ∧ OtherItemsKept s t r i ∧ t.host = (mergeHost s host).host ∧
      t = { s with baker := t.baker, ring := t.ring, host := t.host }) ∧
  (∀ s (r : Fin 64) i x host l0, ItemRuns (mergeHost s host) r i 1 x →
    (readDva (modItem (mergeHost s host) r i fun y => { y with started := true }) (s.workRing r).ptRoot.toNat [] 4 (wdArg0 x.desc)).1 = .ok l0 →
    rectBusy s (phTnt (BitVec.ofNat 256 (ofLe l0))) = true ∨ freeSlot s = none →
    ∃ t, exec (.load r i host) s = .next t ∧
      getItem t r i = some { x with started := true, state := 4, status := some (4, (pkgReject 7 0 0xFFFFFF).bits) } ∧
      t.baker = { s.baker with reject := (pkgReject 7 0 0xFFFFFF).bits } ∧ OtherItemsKept s t r i)

/-- R117, R196, R243, R245, R252, R260, R286: a placement that fits puts the bake on its cores under the next epoch; with no tensor to fill the LOAD
completes with epoch and phases and the bake is ready, otherwise it waits for its fills. A placement found impossible rejects the load and
frees the slot. A re-placement keeps the epoch that its fence took.

R247, R250: of equal inputs the placement found before is taken, with the start cycle and time of this one, as long as it fits; the model holds what
it has found in a field of its own (log entry 146). A cache that is in use counts its hits and misses. -/
def Obligations.PlacementPutsABakeOnItsCores : Prop :=
  (∀ s b p, 1 ≤ b → b ≤ 64 → (s.bake b).state = 1 → (s.bake b).filling = false → notPlaced s b (phMaxph (s.bake b).pkg.hdr) p = false →
    epochFree s = true → s.flue.cutOff = false → ∀ q, (cachedPlace s b (phMaxph (s.bake b).pkg.hdr) p).1 = q →
    placementOk s b (s.bake b).tenant.toNat (phMaxph (s.bake b).pkg.hdr) (s.bake b).pkg q = true → ∃ t,
      exec (.placementComplete b p) s = .next t ∧ (t.bake b).place = some q ∧ (t.bake b).epoch = nextEpoch s.baker.epoch ∧
      t.baker.epoch = nextEpoch s.baker.epoch ∧ (t.bake b).phase = 1 ∧
      (∀ e ∈ phaseInsts (t.bake b) 1, (t.core e.2).inst = some (b, e.1) ∧ (t.core e.2).recipe = instRecipe (t.bake b) e.1 ∧
        (t.core e.2).island.epoch = nextEpoch s.baker.epoch) ∧
      ((∃ w ∈ (s.bake b).pkg.tensors, tnLdma w ≠ 0xFFFF) → (t.bake b).state = 1 ∧ (t.bake b).filling = true ∧
        t.ring.dmas.length = s.ring.dmas.length + ((s.bake b).pkg.tensors.filter fun w => decide (tnLdma w ≠ 0xFFFF)).length) ∧
      ((∀ w ∈ (s.bake b).pkg.tensors, tnLdma w = 0xFFFF) → (t.bake b).state = idleState (s.bake b) ∧ (t.bake b).filling = false ∧
        ∀ x, getItem s (s.bake b).ring (s.bake b).loadIdx = some x → x.status = none →
          getItem t (s.bake b).ring (s.bake b).loadIdx =
            some { x with status := some (0, BitVec.ofNat 128 ((nextEpoch s.baker.epoch).toNat + 2 ^ 32 * max 1 q.phases)) }) ∧
      t = { s with cores := t.cores, flue := t.flue, baker := t.baker, ring := t.ring, host := t.host }) ∧
  (∀ s b p x, 1 ≤ b → b ≤ 64 → (s.bake b).state = 1 → (s.bake b).filling = false → notPlaced s b (phMaxph (s.bake b).pkg.hdr) p = true →
    getItem s (s.bake b).ring (s.bake b).loadIdx = some x → x.status = none → ∃ t, exec (.placementComplete b p) s = .next t ∧
      t.bake b = { reject := (pkgReject p.reject 0 0xFFFFFF).bits } ∧ t.baker.reject = (pkgReject p.reject 0 0xFFFFFF).bits ∧
      getItem t (s.bake b).ring (s.bake b).loadIdx =
        some { x with state := 4, status := some (4, (pkgReject p.reject 0 0xFFFFFF).bits) } ∧ t.cores = s.cores ∧ t.flue = s.flue) ∧
  (∀ s b p, 1 ≤ b → b ≤ 64 → (s.bake b).state = 5 → (s.bake b).filling = false → notPlaced s b 8 p = false → s.flue.cutOff = false →
    mapWaits s (s.bake b) = false → ∀ q, (cachedPlace s b 8 p).1 = q →
    placementOk s b (s.bake b).tenant.toNat 8 (s.bake b).pkg q = true → ∃ t, exec (.placementComplete b p) s = .next t ∧
      (t.bake b).place = some q ∧ (t.bake b).epoch = (s.bake b).epoch ∧ (t.bake b).committed = (s.bake b).committed ∧
      (t.bake b).triggers = (s.bake b).triggers.filter (fun r => decide (r = 8)) ∧
      t = { s with cores := t.cores, flue := t.flue, baker := t.baker, ring := t.ring, hbm := t.hbm, host := t.host }) ∧
  (∀ s b p, 1 ≤ b → b ≤ 64 → (s.bake b).filling = true → exec (.placementComplete b p) s = .next s) ∧
  (∀ s b m p, (cachedPlace s b m p).1 = (settled s b (s.bake b).tenant.toNat m p).1 ∧
    (setting s 0x3402 3 = 0 ∨ phNocache (s.bake b).pkg.hdr = true → (cachedPlace s b m p).2.baker.hits = s.baker.hits ∧
      (cachedPlace s b m p).2.baker.misses = s.baker.misses) ∧
    (setting s 0x3402 3 ≠ 0 → phNocache (s.bake b).pkg.hdr = false →
      ((cacheFind s (s.bake b).digest (placeInputs s (s.bake b).tenant.toNat m)).isSome = true →
        (cachedPlace s b m p).2.baker.hits = s.baker.hits + 1 ∧ (cachedPlace s b m p).2.baker.misses = s.baker.misses) ∧
      (cacheFind s (s.bake b).digest (placeInputs s (s.bake b).tenant.toNat m) = none →
        (cachedPlace s b m p).2.baker.misses = s.baker.misses + 1 ∧ (cachedPlace s b m p).2.baker.hits = s.baker.hits))) ∧
  (∀ s b t m p, ((∀ e ∈ s.baker.made, e.1 = (s.bake b).digest → e.2.1 ≠ placeInputs s t m) →
      (settled s b t m p).1 = p ∧ (settled s b t m p).2.baker.made = s.baker.made ++ [((s.bake b).digest, placeInputs s t m, p)]) ∧
    (∀ e, (s.baker.made.find? fun e => decide (e.1 = (s.bake b).digest) && decide (e.2.1 = placeInputs s t m)) = some e →
      placementOk s b t m (s.bake b).pkg { e.2.2 with c0 := p.c0, micros := p.micros } = true →
      settled s b t m p = ({ e.2.2 with c0 := p.c0, micros := p.micros }, s)))

/-- R253, R280, R284, R461, R466: at the end of a step the item turns COMMITTING and its OUTPUT tensors are copied out, after any digest or bank
copy that a commit must wait for; when the copy-out has ended it is COMMITTED, the views are exchanged, one more step counts, and the item
completes with epoch and step number. -/
def Obligations.CommitsExchangeTheViews : Prop :=
  (∀ s b, 1 ≤ b → b ≤ 64 → stepEnded s b = false → exec (.stepCommit b) s = .next s) ∧
  (∀ s b, 1 ≤ b → b ≤ 64 → stepEnded s b = true → commitWaits (s.bake b) = true → exec (.stepCommit b) s =
    .next (s.modBake b fun k => { k with waitFrom := some (k.waitFrom.getD s.flue.cycle) })) ∧
  (∀ s b i x, 1 ≤ b → b ≤ 64 → stepEnded s b = true → commitWaits (s.bake b) = false →
    (checkEntries s b).filter (entryTrips s b) = [] → (s.bake b).item = some i → getItem s (s.bake b).ring i = some x → ∃ t,
      exec (.stepCommit b) s = .next t ∧ (t.bake b).committing = true ∧ (t.bake b).state = 3 ∧ (t.bake b).item = some i ∧
      (t.bake b).swapped = (s.bake b).swapped ∧ (t.bake b).committed = (s.bake b).committed ∧
      getItem t (s.bake b).ring i = some { x with state := 2, epoch := (s.bake b).epoch } ∧
      t.ring.dmas.length = s.ring.dmas.length +
        ((s.bake b).io.filter fun e => decide (tnCls (tensorRow (s.bake b) e.1) = 4)).length ∧
      (∀ d ∈ s.ring.dmas, d ∈ t.ring.dmas) ∧ NoEvent s t ∧ t = { s with baker := t.baker, ring := t.ring, host := t.host }) ∧
  (∀ s b w, 1 ≤ b → b ≤ 64 → stepEnded s b = true → commitWaits (s.bake b) = false → w ∈ checkEntries s b → entryTrips s b w = true →
    ckAction w = 2 → ∃ t, exec (.stepCommit b) s = .next t ∧ 5 ∈ (t.bake b).triggers ∧ (t.bake b).committing = false ∧
      t.ring = s.ring ∧ t.host = s.host) ∧
  (∀ s b i x, 1 ≤ b → b ≤ 64 → (s.bake b).item = some i → getItem s (s.bake b).ring i = some x → x.status = none →
    (s.bake b).committing = true → copyingOut s b = false → fenceRows (s.bake b) = [] → (s.bake b).nextPlace = none → ∃ t,
      exec (.copyOutComplete b) s = .next t ∧ (t.bake b).item = none ∧ (t.bake b).committing = false ∧
      (t.bake b).swapped = !(s.bake b).swapped ∧ (t.bake b).committed = (s.bake b).committed + 1 ∧ (t.bake b).epoch = (s.bake b).epoch ∧
      (t.bake b).state = (if (s.bake b).draining then 7 else if (s.bake b).migTo ≠ 0 then 6 else 2) ∧
      getItem t (s.bake b).ring i = some { x with
        state := 3, status := some (0, BitVec.ofNat 128 ((s.bake b).epoch.toNat + 2 ^ 32 * ((s.bake b).committed + 1).toNat)) } ∧
      (∀ n, (t.channel n).xseq = (s.channel n).xseq) ∧
      t = { s with cores := t.cores, baker := t.baker, ring := t.ring, host := t.host, links := { s.links with chans := t.links.chans } }) ∧
  (∀ s b, 1 ≤ b → b ≤ 64 → ((s.bake b).item = none ∨ (s.bake b).committing = false ∨ copyingOut s b = true ∨
    fenceRows (s.bake b) ≠ []) → exec (.copyOutComplete b) s = .next s)

/-- R252, R254, R259, R260, R261, R262, R263, R280, R289: an epoch fence for a trigger seen abandons the step, also one that stands still paused,
under the next epoch, with its counts and event; the item is re-run, ends FENCED OUT beyond its limit, waits for the switch of a migration, or waits
for a re-placement where a core was lost. A re-placement follows, and starts again where a loss is seen while its fills run; or the bake pauses,
with an event whose severity 0x1 is the model's reading (log entry 64), and after a second loss its open items end UNCOVERED. -/
def Obligations.FencesTakeANewEpoch : Prop :=
  (∀ s b r, 1 ≤ b → b ≤ 64 → ((s.bake b).state = 2 ∨ (s.bake b).state = 3 ∨ (s.bake b).state = 6 ∨ heldStep (s.bake b) = true) →
    r ∈ (s.bake b).triggers → r ≠ 4 → r ≠ 8 → r < 256 → epochFree s = true → ∃ t, exec (.epochFence b r) s = .next t ∧
      (t.bake b).epoch = nextEpoch s.baker.epoch ∧ t.baker.epoch = nextEpoch s.baker.epoch ∧ t.baker.epochAt = some s.flue.cycle ∧
      (t.bake b).committing = false ∧ (t.bake b).migDrain = false ∧ (t.bake b).committed = (s.bake b).committed ∧
      (t.bake b).swapped = (s.bake b).swapped ∧ EventRaised s t 0x3416 b 2 (stokerId s) r ∧ AonKept s t ∧
      (∀ d ∈ t.ring.dmas, d.slot = b → keptDma d = true) ∧
      (needsPlace s (s.bake b) = true → (t.bake b).state = 4 ∧ (t.bake b).triggers = (s.bake b).triggers) ∧
      (needsPlace s (s.bake b) = false → (s.bake b).draining = true → (t.bake b).state = 7) ∧
      (∀ i x, (s.bake b).item = some i → getItem s (s.bake b).ring i = some x → x.status = none → needsPlace s (s.bake b) = false →
        (s.bake b).draining = false → (s.bake b).migTo = 0 → (t.bake b).fenced = (s.bake b).fenced + 1 ∧
        (x.fences + 1 - x.uncounted ≤ setting s 0x3402 4 → (t.bake b).state = 3 ∧ (t.bake b).item = some i ∧
          getItem t (s.bake b).ring i = some { x with
            fences := x.fences + 1, reason := BitVec.ofNat 8 r, epoch := 0, state := 1, attempts := x.attempts + 1 }) ∧
        (setting s 0x3402 4 < x.fences + 1 - x.uncounted → (t.bake b).state = 2 ∧ (t.bake b).item = none ∧
          getItem t (s.bake b).ring i = some { x with
            fences := x.fences + 1, reason := BitVec.ofNat 8 r, epoch := 0, state := 4, status := some (5, BitVec.ofNat 128 r) })) ∧
      (∀ i x, (s.bake b).item = some i → getItem s (s.bake b).ring i = some x → x.status = none → needsPlace s (s.bake b) = false →
        (s.bake b).draining = false → (s.bake b).migTo ≠ 0 → x.fences + 1 - x.uncounted ≤ setting s 0x3402 4 → (t.bake b).state = 6 ∧
        (t.bake b).absorbed = true ∧ (t.bake b).item = some i ∧ getItem t (s.bake b).ring i = some { x with
          fences := x.fences + 1, reason := BitVec.ofNat 8 r, epoch := 0, state := 1 }) ∧
      t = { s with aon := t.aon, cores := t.cores, flue := t.flue, baker := t.baker, ring := t.ring, host := t.host, links := t.links }) ∧
  (∀ s b r, 1 ≤ b → b ≤ 64 → (r ∉ (s.bake b).triggers ∨ r = 4 ∨ r = 8 ∨ epochFree s = false ∨ (s.bake b).state = 0 ∨ (s.bake b).state = 1 ∨
    (s.bake b).state = 4 ∨ (s.bake b).state = 5 ∨ ((s.bake b).state = 7 ∧ heldStep (s.bake b) = false)) → exec (.epochFence b r) s = .next s) ∧
  (∀ s b r, 1 ≤ b → b ≤ 64 → r ∈ (s.bake b).triggers → ((s.bake b).state = 4 ∨ (s.bake b).state = 5) →
    ((s.bake b).filling = false ∨ needsPlace s (s.bake b) = false) →
    exec (.rePlacement b r true) s = .next (s.modBake b fun q => { q with state := 5 })) ∧
  (∀ s b r, 1 ≤ b → b ≤ 64 → r ∈ (s.bake b).triggers → ((s.bake b).state = 4 ∨ (s.bake b).state = 5) → (s.bake b).filling = true →
    needsPlace s (s.bake b) = true → exec (.rePlacement b r true) s = .next ((dropDmas s b).modBake b fun q => { q with filling := false })) ∧
  (∀ s b r, 1 ≤ b → b ≤ 64 → r ∈ (s.bake b).triggers → ((s.bake b).state = 4 ∨ (s.bake b).state = 5) → r < 256 → (s.bake b).losses < 2 → ∃ t,
    exec (.rePlacement b r false) s = .next t ∧
    t.bake b = { s.bake b with filling := false, losses := 0, state := 7, reason := BitVec.ofNat 8 r } ∧
    (∀ d ∈ t.ring.dmas, d.slot = b → keptDma d = true) ∧ EventRaised s t 0x3410 b 1 (stokerId s) r ∧ AonKept s t ∧
    t = { s with aon := t.aon, baker := t.baker, ring := { s.ring with dmas := t.ring.dmas } }) ∧
  (∀ s b r, 1 ≤ b → b ≤ 64 → r ∈ (s.bake b).triggers → ((s.bake b).state = 4 ∨ (s.bake b).state = 5) → 2 ≤ (s.bake b).losses → ∃ t,
    exec (.rePlacement b r false) s = .next t ∧ (t.bake b).state = 7 ∧
    ∀ i ∈ bakeItems s b, ∀ x, getItem s (s.bake b).ring i = some x → x.status = none → getItem t (s.bake b).ring i =
      some { x with state := 4, status := some (8, BitVec.ofNat 128 (s.bake b).reason.toNat) }) ∧
  (∀ s b, 1 ≤ b → b ≤ 64 → 4 ∈ (s.bake b).triggers → ((s.bake b).state = 2 ∨ (s.bake b).state = 3) →
    exec (.rePlacement b 4 false) s = .next (pauseBake s b 4)) ∧
  (∀ s b r ok, 1 ≤ b → b ≤ 64 → r ∉ (s.bake b).triggers → exec (.rePlacement b r ok) s = .next s)

/-- R158, R262, R307, R308, R309, R310: a timeout pre-empts a step with a DMA fault pending and is a trigger of row 7 for any other and
for one that a reset's drain waits for; a pre-empted bake goes on from its cores' resume records once every fault is resolved and no fence is due; an I/O page
request is sent again; a fault unresolved at the end of
the hold ends the item 0x06 after a fence. -/
def Obligations.TimeoutsPreemptOrFence : Prop :=
  (∀ s b i, 1 ≤ b → b ≤ 64 → ((s.bake b).state = 3 ∨ (heldStep (s.bake b) = true ∧ (s.bake b).draining = true)) → (s.bake b).item = some i →
    (faultPending s b = false ∨ (s.bake b).draining = true) → ∃ t,
    exec (.bakeTimeout b) s = .next t ∧ 7 ∈ (t.bake b).triggers ∧ (t.bake b).state = (s.bake b).state ∧ (t.bake b).migDrain = false ∧
    (∀ d, d ≠ b → t.bake d = s.bake d) ∧ t = { s with baker := t.baker }) ∧
  (∀ s b i, 1 ≤ b → b ≤ 64 → (s.bake b).state = 3 → (s.bake b).item = some i → faultPending s b = true → (s.bake b).draining = false → ∃ t,
    exec (.bakeTimeout b) s = .next t ∧ t.bake b = { s.bake b with state := 7, preempted := true, migDrain := false } ∧
    (∀ e ∈ phaseInsts (s.bake b) (s.bake b).phase, (t.core e.2).seq.flight = [] ∧ (t.core e.2).seq.resume = (s.core e.2).seq.resume) ∧
    (∀ d ∈ t.ring.dmas, d.slot = b → (d.saved = true ∨ (∀ c o n v, d.use ≠ .step c o n v))) ∧
    t = { s with cores := t.cores, baker := t.baker, ring := { s.ring with dmas := t.ring.dmas } }) ∧
  (∀ s b, 1 ≤ b → b ≤ 64 → ((s.bake b).item = none ∨ ((s.bake b).state ≠ 3 ∧
    (heldStep (s.bake b) = false ∨ (s.bake b).draining = false))) → exec (.bakeTimeout b) s = .next s) ∧
  (∀ s b, 1 ≤ b → b ≤ 64 → (s.bake b).state = 7 → (s.bake b).preempted = true → faultPending s b = false → fenceRows (s.bake b) = [] →
    s.flue.cutOff = false → ∃ t,
    exec (.resumption b) s = .next t ∧ t.bake b = { s.bake b with state := 3, preempted := false } ∧
    (∀ e ∈ phaseInsts (s.bake b) (s.bake b).phase, (s.core e.2).seq.state ≠ .ended → (t.core e.2).seq.state = .running ∧
      (t.core e.2).seq.step = (s.core e.2).seq.resume.step ∧ (t.core e.2).seq.loops = (s.core e.2).seq.resume.loops ∧
      (t.core e.2).seq.replay = true) ∧ t = { s with cores := t.cores, baker := t.baker }) ∧
  (∀ s b, 1 ≤ b → b ≤ 64 → ((s.bake b).state ≠ 7 ∨ (s.bake b).preempted = false ∨ faultPending s b = true ∨ fenceRows (s.bake b) ≠ [] ∨
    s.flue.cutOff = true) → exec (.resumption b) s = .next s) ∧
  (∀ s b d v q, 1 ≤ b → b ≤ 64 → (s.bake b).preempted = true → s.ring.dmas.filter (fun d => decide (d.slot = b)) = [d] →
    d.parked = some (v, 4, q) → s.ring.pri.contains q = false →
    exec (.faultPaging b) s = .next { s with ring := { s.ring with pri := s.ring.pri ++ [q] } }) ∧
  (∀ s b d v q a e, 1 ≤ b → b ≤ 64 → (s.bake b).preempted = true → s.ring.dmas.filter (fun d => decide (d.slot = b)) = [d] →
    d.parked = some (v, 3, q) → leafOf s v ptLevels (bakeRoot s d.slot) = some (a, 12, e) → fld e 63 62 = 2 →
    s.ring.frames < setting s 0x5102 3 → chanServes s ((setting s 0x5102 2 + 4096 * s.ring.frames) / 2 ^ 31) = true → ∃ t,
      exec (.faultPaging b) s = .next t ∧ t.ring.frames = s.ring.frames + 1 ∧
      t.ring.backed = s.ring.backed ++ [(setting s 0x5102 2 + 4096 * s.ring.frames, a, fld e 56 12 * 4096)]) ∧
  (∀ s b, 1 ≤ b → b ≤ 64 → (s.bake b).preempted = false → exec (.faultPaging b) s = .next s ∧ exec (.faultHoldExpiry b) s = .next s) ∧
  (∀ s b d i x p, 1 ≤ b → b ≤ 64 → (s.bake b).preempted = true → epochFree s = true →
    s.ring.dmas.filter (fun d => decide (d.slot = b)) = [d] → d.parked = some p → (s.bake b).item = some i →
    getItem s (s.bake b).ring i = some x → x.status = none → ∃ t, exec (.faultHoldExpiry b) s = .next t ∧
      t.ring.unresolved = s.ring.unresolved + 1 ∧ (t.bake b).item = none ∧ (t.bake b).preempted = false ∧
      (t.bake b).epoch = nextEpoch s.baker.epoch ∧
      (t.bake b).state = (if (s.bake b).draining then 7 else if (s.bake b).migTo ≠ 0 then 6 else 2) ∧
      getItem t (s.bake b).ring i = some { x with
        fences := x.fences + 1, reason := 7, epoch := 0, state := 4, status := some (6, BitVec.ofNat 128 (p.1 + 2 ^ 64 * p.2.1)) } ∧
      EventRaised s t 0x3416 b 2 (stokerId s) 7 ∧ AonKept s t)

/-- R252, R263, R264, R266: a migration switches a bake that is not running to its new rectangle under the next epoch, keeping its counts, and its
MIGRATE item completes; a change of phase starts the next phase's cores once every instance of the one before has ended, or asks first for the fills
that its ldma templates name. -/
def Obligations.BakesMoveAndChangePhase : Prop :=
  (∀ s b p q, 1 ≤ b → b ≤ 64 → (s.bake b).migTo ≠ 0 → (s.bake b).item = none → ((s.bake b).state = 2 ∨ (s.bake b).state = 6) →
    (s.bake b).absorbed = false → needsPlace s (s.bake b) = false → epochFree s = true → s.flue.cutOff = false →
    rectOf s (s.bake b).migTo.toNat ≠ none → (settled s b (s.bake b).migTo.toNat (phMaxph (s.bake b).pkg.hdr) p).1 = q →
    placementOk s b (s.bake b).migTo.toNat (phMaxph (s.bake b).pkg.hdr) (s.bake b).pkg q = true → ∃ t,
      exec (.migrationSwitch b p) s = .next t ∧ (t.bake b).tenant = (s.bake b).migTo ∧ (t.bake b).migTo = 0 ∧ (t.bake b).place = some q ∧
      (t.bake b).epoch = nextEpoch s.baker.epoch ∧ (t.bake b).committed = (s.bake b).committed ∧ (t.bake b).digest = (s.bake b).digest ∧
      (t.bake b).swapped = (s.bake b).swapped ∧ (t.bake b).state = (if (s.bake b).draining then 7 else 2) ∧
      (∀ x, migrateItem s b = some x → getItem s (s.bake b).ring x.index = some x →
        getItem t (s.bake b).ring x.index = some { x with status := some (0, 0) }) ∧
      t = { s with cores := t.cores, flue := t.flue, baker := t.baker, ring := t.ring, hbm := t.hbm, host := t.host }) ∧
  (∀ s b p, 1 ≤ b → b ≤ 64 → ((s.bake b).migTo = 0 ∨ mayMigrate (s.bake b) = false ∨ needsPlace s (s.bake b) = true ∨
    ((s.bake b).absorbed = false ∧ epochFree s = false) ∨ s.flue.cutOff = true) → exec (.migrationSwitch b p) s = .next s) ∧
  (∀ s b ph i, 1 ≤ b → b ≤ 64 → (s.bake b).state = 3 → (s.bake b).item = some i → (s.bake b).committing = false → fenceRows (s.bake b) = [] →
    ph ≤ phasesOf (s.bake b) → (s.bake b).begun = true → ph = (s.bake b).phase + 1 →
    (∀ e ∈ phaseInsts (s.bake b) (s.bake b).phase, (s.core e.2).seq.state = .ended) → ∃ t, exec (.phaseChange b ph) s = .next t ∧
      (t.bake b).phase = ph ∧ (t.bake b).begun = true ∧ (t.bake b).state = 3 ∧ (t.bake b).epoch = (s.bake b).epoch ∧
      ((∀ e ∈ tensorsOf (s.bake b), refilled (s.bake b) ph e.1 = false) → ∀ e ∈ phaseInsts (s.bake b) ph, (t.core e.2).seq =
        { order := (s.core e.2).seq.order, attempt := (s.core e.2).seq.attempt, state := .running }) ∧
      (∀ e ∈ tensorsOf (s.bake b), refilled (s.bake b) ph e.1 = true → (t.bake b).filling = true) ∧
      t = { s with aon := t.aon, cores := t.cores, flue := t.flue, baker := t.baker, ring := t.ring, hbm := t.hbm }) ∧
  (∀ s b ph, 1 ≤ b → b ≤ 64 → ((s.bake b).state ≠ 3 ∨ (s.bake b).item = none ∨ (s.bake b).committing = true ∨
    fenceRows (s.bake b) ≠ [] ∨ ph = 0 ∨ phasesOf (s.bake b) < ph ∨ ((s.bake b).begun = true ∧ ph ≠ (s.bake b).phase + 1)) → exec (.phaseChange b ph) s = .next s)

/-- R461, R462, R463, R464: a device digest is whole and kept for its check once its reads are done; a report of another group,
interval or graph is counted foreign and one of an
earlier check late, each with an event; a check resolves by the majority, and a device outside it is expelled and its bake paused.

R466, R468: a bank copy that has ended is whole, with its time and digest, and its host copies follow; when they have ended the bank is done,
and when one has failed it is failed with an event. -/
def Obligations.ReplicasAndBanksGuardABake : Prop :=
  ((∀ s b, 1 ≤ b → b ≤ 64 → (s.bake b).replica.open_ = true → (s.bake b).replica.whole = false → digestRead s b = true → ∃ t,
     exec (.digestComplete b) s = .next t ∧ (t.bake b).replica = { (s.bake b).replica with
       whole := true, own := (digestOf s b (groupSeed s b) (coveredTensors s b)).1.1
       poison := (digestOf s b (groupSeed s b) (coveredTensors s b)).1.2 } ∧ (∀ d, d ≠ b → t.bake d = s.bake d) ∧
     t.hbm = s.hbm ∧ t.ring = s.ring ∧ ((s.bake b).replica.expelled = true → t = { s with cores := t.cores, baker := t.baker })) ∧
   (∀ s b, 1 ≤ b → b ≤ 64 → ((s.bake b).replica.open_ = false ∨ (s.bake b).replica.whole = true ∨ digestRead s b = false) → exec (.digestComplete b) s = .next s) ∧
   (∀ s b m r, 1 ≤ b → b ≤ 64 → m < 8 → r.group.toNat = groupId s b → r.k.toNat = groupK s b → r.gpfx = graphPrefix (s.bake b) →
     ((s.bake b).replica.j.toNat < r.j.toNat ∨ r.j = (s.bake b).replica.j ∧ (s.bake b).replica.open_ = true) → ∃ t,
       exec (.replicaReport b m r) s = .next t ∧ (m, r) ∈ (t.bake b).replica.reports ∧
       (∀ e ∈ (t.bake b).replica.reports, e.1 = m → e.2 = r) ∧ NoEvent s t ∧ t = { s with baker := t.baker }) ∧
   (∀ s b m r, 1 ≤ b → b ≤ 64 → (r.group.toNat ≠ groupId s b ∨ r.k.toNat ≠ groupK s b ∨ r.gpfx ≠ graphPrefix (s.bake b)) → ∃ t,
     exec (.replicaReport b m r) s = .next t ∧ (t.bake b).replica = { (s.bake b).replica with foreign := (s.bake b).replica.foreign + 1 } ∧
     EventRaised s t 0x6002 b 1 (stokerId s) m ∧ AonKept s t ∧ t = { s with baker := t.baker, aon := t.aon }) ∧
   (∀ s b m r, 1 ≤ b → b ≤ 64 → m < 8 → r.group.toNat = groupId s b → r.k.toNat = groupK s b → r.gpfx = graphPrefix (s.bake b) →
     r.j.toNat < (s.bake b).replica.j.toNat → ∃ t, exec (.replicaReport b m r) s = .next t ∧
       (t.bake b).replica = { (s.bake b).replica with late := (s.bake b).replica.late + 1 } ∧
       EventRaised s t 0x6002 b 1 (stokerId s) m ∧ t = { s with baker := t.baker, aon := t.aon }) ∧
   (∀ s b w, 1 ≤ b → b ≤ 64 → ((s.bake b).replica.open_ = false ∨ (s.bake b).replica.whole = false) →
     exec (.checkResolution b w) s = .next s) ∧
   (∀ s b w v, 1 ≤ b → b ≤ 64 → (s.bake b).replica.open_ = true → (s.bake b).replica.whole = true →
     (w = true ∨ ∀ i ∈ activeMembers s b, ∃ e ∈ countedValues s b, e.1 = i) →
     majorityOf (activeMembers s b).length (countedValues s b) = v → ∃ t, exec (.checkResolution b w) s = .next t ∧
       (t.bake b).replica.open_ = false ∧ (t.bake b).replica.checks = (s.bake b).replica.checks + 1 ∧
       (t.bake b).replica.counted = BitVec.ofNat 8 (countedValues s b).length ∧
       (v = none → (t.bake b).replica.result = 4 ∧ (t.bake b).state = (s.bake b).state ∧
         (t.bake b).replica.expelled = (s.bake b).replica.expelled) ∧
       (∀ d, v = some d → (∀ e ∈ countedValues s b, e.2 = some d) → (t.bake b).replica.result = 1 ∧ (t.bake b).replica.odd = 0 ∧
         (t.bake b).state = (s.bake b).state ∧ (t.bake b).replica.dropped = (s.bake b).replica.dropped ∧
         (t.bake b).replica.majority = d) ∧
       (∀ d i, v = some d → (activeMembers s b).find? (fun i => decide (nth 0xFFFF (groupMembers s b) i = deviceId s)) = some i →
         (∃ e ∈ countedValues s b, e.1 = i ∧ e.2 ≠ some d) → (t.bake b).replica.result = 3 ∧ (t.bake b).replica.expelled = true ∧
           (t.bake b).state = 7) ∧ t.hbm = s.hbm ∧ t.fuse = s.fuse ∧ t.pending = s.pending)) ∧
  ((∀ s b, 1 ≤ b → b ≤ 64 → (s.bake b).bankA.state = 1 → bankCopying s b false false = false → ∃ t, exec (.bankWhole b) s = .next t ∧
     (t.bake b).bankA = { (s.bake b).bankA with
       state := if (s.bake b).bankA.io.isEmpty then 2 else 3, at_ := micros s, digest := (bankDigest s b false).1 } ∧
     (t.bake b).bankB = (s.bake b).bankB ∧ t.ring.dmas.length = s.ring.dmas.length + (s.bake b).bankA.io.length ∧
     t = { s with baker := t.baker, ring := t.ring }) ∧
   (∀ s b, 1 ≤ b → b ≤ 64 → (s.bake b).bankA.state ≠ 1 → (s.bake b).bankB.state = 1 → bankCopying s b true false = false → ∃ t,
     exec (.bankWhole b) s = .next t ∧ (t.bake b).bankB = { (s.bake b).bankB with
       state := if (s.bake b).bankB.io.isEmpty then 2 else 3, at_ := micros s, digest := (bankDigest s b true).1 } ∧
     (t.bake b).bankA = (s.bake b).bankA ∧ t = { s with baker := t.baker, ring := t.ring }) ∧
   (∀ s b, 1 ≤ b → b ≤ 64 → (s.bake b).bankA.state ≠ 1 → (s.bake b).bankB.state ≠ 1 → exec (.bankWhole b) s = .next s) ∧
   (∀ s b, 1 ≤ b → b ≤ 64 → (s.bake b).bankA.state = 3 → bankCopying s b false true = false → (s.bake b).bankDue = none →
     exec (.bankHostCopyComplete b true) s = .next (s.modBake b fun k => { k with bankA := { k.bankA with state := 4 } })) ∧
   (∀ s b, 1 ≤ b → b ≤ 64 → (s.bake b).bankA.state = 3 → bankCopying s b false true = true →
     exec (.bankHostCopyComplete b true) s = .next s) ∧
   (∀ s b, 1 ≤ b → b ≤ 64 → (s.bake b).bankA.state ≠ 3 → (s.bake b).bankB.state = 3 → bankStuck s b true = true →
     (s.bake b).bankDue = none → ∃ t, exec (.bankHostCopyComplete b false) s = .next t ∧ t.bake b = { s.bake b with bankB := { (s.bake b).bankB with state := 5 } } ∧
     (∀ d ∈ t.ring.dmas, d.slot = b → d.use ≠ .hostCopy true) ∧ EventRaised s t 0x6021 b 2 (stokerId s) 2 ∧ AonKept s t ∧
     t = { s with baker := t.baker, aon := t.aon, ring := { s.ring with dmas := t.ring.dmas } }) ∧
   (∀ s b, 1 ≤ b → b ≤ 64 → (s.bake b).bankA.state ≠ 3 → bankStuck s b true = false → exec (.bankHostCopyComplete b false) s = .next s) ∧
   (∀ s b ok, 1 ≤ b → b ≤ 64 → (s.bake b).bankA.state ≠ 3 → (s.bake b).bankB.state ≠ 3 → exec (.bankHostCopyComplete b ok) s = .next s))

/-- R299, R301: the oldest request that can go on takes a descriptor; it asks for its rows in a scratchpad, and once they have come moves its rows until
it is whole, parked on a fault, or stopped; a copy between two stack areas moves the word and touches no other; a transfer whose last write has
been performed frees its descriptor and finishes the DMA of its step.

R272, R305, R306: INV_ADDR drops the translations under its root that it covers and keeps those of other roots, one at a time; its completion ends
it; an ATS invalidation drops the host translations of its range alone. -/
def Obligations.DescriptorsMoveTheirRows : Prop :=
  ((∀ s h den ups, s.ring.dmas.find? (startable s) = none → exec (.dmaDescriptorStart h den ups) s = .next (mergeHost s h)) ∧
   (∀ s h den ups d, s.ring.dmas.find? (startable s) = some d → (inFlight s < 4096 ∨ d.running = true) → getDma s d.id = some d → ∃ t e,
     exec (.dmaDescriptorStart h den ups) s = .next t ∧ getDma t d.id = some e ∧ e.running = true ∧ e.src = d.src ∧ e.dst = d.dst ∧
     e.use = d.use ∧ d.moved ≤ e.moved ∧
     (padServed s d = true → e.total ≤ e.moved ∨ e.parked.isSome = true ∨ e.dead = true) ∧
     (padServed s d = false → e.moved = d.moved ∧ padAsked t d = true) ∧
     (∀ j, j ≠ d.id → getDma t j = getDma s j) ∧ t.ring.rings = s.ring.rings ∧
     t = { s with aon := t.aon, cores := t.cores, baker := t.baker, ring := t.ring, hbm := t.hbm, host := t.host }) ∧
   (∀ s h den d b1 o1 b2 o2, s.ring.dmas.find? (startable s) = some d → (inFlight s < 4096 ∨ d.running = true) → getDma s d.id = some d →
     d.src = [.area b1 o1] → d.dst = [.area b2 o2] → d.bytes = 8 → d.moved = 0 →
     stackHas s (areaAddr (s.bake d.slot) b1 o1) = true → stackHas s (areaAddr (s.bake d.slot) b2 o2) = true → ∃ t,
       exec (.dmaDescriptorStart h den []) s = .next t ∧
       mget none t.hbm.words (areaAddr (s.bake d.slot) b2 o2 / 8) = mget none s.hbm.words (areaAddr (s.bake d.slot) b1 o1 / 8) ∧
       (∀ a, a ≠ areaAddr (s.bake d.slot) b2 o2 / 8 → mget none t.hbm.words a = mget none s.hbm.words a) ∧
       getDma t d.id = some { d with running := true, moved := 8, parked := none } ∧ t.host = (mergeHost s h).host) ∧
   (∀ s d id, getDma s id = some d → (d.running = false ∨ d.moved < d.total ∨ padWritten s d = false) →
     exec (.dmaDescriptorComplete id) s = .next s) ∧
   (∀ s d id c o n v, getDma s id = some d → d.running = true → d.total ≤ d.moved → padWritten s d = true → d.use = .step c o n v → ∃ t,
     exec (.dmaDescriptorComplete id) s = .next t ∧ getDma t id = none ∧
     (∀ x ∈ (t.core c).seq.flight, x.order = o → x.ready = true) ∧ (t.core c).seq.flight.length = (s.core c).seq.flight.length ∧
     (∀ j, j ≠ id → getDma t j = getDma s j) ∧ (∀ e, e ≠ c → e ∉ padCores d → t.core e = s.core e) ∧
     t = { s with cores := t.cores, ring := { s.ring with dmas := t.ring.dmas } }) ∧
   (∀ s d id j, getDma s id = some d → d.running = true → d.total ≤ d.moved → padWritten s d = true → d.use = .load j →
     (∀ x ∈ s.ring.dmas, x.slot = d.slot → x.id ≠ id → ∀ k, x.use ≠ .load k) → (s.bake d.slot).filling = true →
     (s.bake d.slot).state = 1 → ∃ t, exec (.dmaDescriptorComplete id) s = .next t ∧ getDma t id = none ∧
       (t.bake d.slot).state = idleState (s.bake d.slot) ∧ (t.bake d.slot).filling = false ∧
       t = { s with cores := t.cores, baker := t.baker, ring := t.ring, host := t.host })) ∧
  ((∀ s v, s.ring.invBusy = false → ∃ t, exec (.invAddr v) s = .next t ∧ t.ring.invBusy = true ∧ t.ring.invAddr = v ∧
     (∀ e ∈ t.ring.tlb, e ∈ s.ring.tlb ∧ invCovers s.ring.invRoot.toNat v e.root e.base = false) ∧
     (∀ e ∈ s.ring.tlb, e.root ≠ s.ring.invRoot.toNat → e ∈ t.ring.tlb) ∧
     t = { s with ring := { s.ring with invBusy := true, invAddr := v, tlb := t.ring.tlb } }) ∧
   (∀ s v, s.ring.invBusy = true → ∃ t, exec (.invAddr v) s = .next t ∧ EventRaised s t 0x5000 5 1 (stokerId s) 0 ∧ AonKept s t ∧
     t = { s with aon := t.aon }) ∧
   (∀ s, s.ring.invBusy = false → exec .invalidationComplete s = .next s) ∧
   (∀ s, s.ring.invBusy = true → ∃ t, exec .invalidationComplete s = .next t ∧ t.ring.invBusy = false ∧ t.ring.rings = s.ring.rings ∧
     ((∀ d ∈ s.ring.dmas, d.parked = none) → t = { s with ring := { s.ring with invBusy := false } })) ∧
   (∀ s a n, ∃ t, exec (.atsInvalidation a n) s = .next t ∧ t.ring.atsInv = s.ring.atsInv + 1 ∧
     (∀ e ∈ t.ring.ats, e ∈ s.ring.ats ∧ (e.2 < a / 4096 ∨ a + n ≤ e.2 * 4096)) ∧
     (∀ e ∈ s.ring.ats, (e.2 < a / 4096 ∨ a + n ≤ e.2 * 4096) → e ∈ t.ring.ats) ∧
     t = { s with ring := { s.ring with ats := t.ring.ats, atsInv := s.ring.atsInv + 1 } }))

/-- R305, R306, R307, R308: a faulting descriptor is parked with a record in the fault queue and MSI-X vector 64, or one counted lost while the queue is
full; Success or a RETRY moves it on and counts it resolved, and any other PRI response adds a record of cause 0x6. -/
def Obligations.FaultsParkAndRetry : Prop :=
  (∀ s id d v c, getDma s id = some d → d.id = id → d.parked = some (v, c, 0) → s.ring.fqTail.toNat - s.ring.fqHead.toNat < 256 → ∃ t r,
    exec (.translationFault id v c) s = .next t ∧ t.ring.faultSeq = s.ring.faultSeq + 1 ∧ t.ring.parked = s.ring.parked + 1 ∧
    t.ring.fqTail = s.ring.fqTail + 1 ∧ t.ring.msix = 64 :: s.ring.msix ∧ getDma t id = some { d with parked := some (v, c, s.ring.faultSeq + 1) } ∧
    r ∈ t.ring.recent ∧ r.dva = BitVec.ofNat 64 v ∧ r.cause = BitVec.ofNat 8 c ∧ r.slot = BitVec.ofNat 8 d.slot ∧
    r.seq = s.ring.faultSeq + 1 ∧ hostBytes t (s.ring.fqBase.toNat + 32 * (s.ring.fqTail.toNat % 256)) 32 = r.bytes ∧
    HostKept s t (s.ring.fqBase.toNat + 32 * (s.ring.fqTail.toNat % 256)) 32 ∧
    t.ring.pri = (if c = 4 then s.ring.pri ++ [s.ring.faultSeq + 1] else s.ring.pri) ∧ t = { s with ring := t.ring, host := t.host }) ∧
  (∀ s id d v c, getDma s id = some d → d.id = id → d.parked = some (v, c, 0) → 256 ≤ s.ring.fqTail.toNat - s.ring.fqHead.toNat → ∃ t,
    exec (.translationFault id v c) s = .next t ∧ t.ring.recLost = s.ring.recLost + 1 ∧ t.ring.fqTail = s.ring.fqTail ∧
    getDma t id = some { d with parked := some (v, c, s.ring.faultSeq + 1) } ∧ t = { s with ring := t.ring }) ∧
  (∀ s id v c, (getDma s id = none ∨ ∃ d, getDma s id = some d ∧ d.parked ≠ some (v, c, 0)) → exec (.translationFault id v c) s = .next s) ∧
  (∀ s q ok, s.ring.pri.contains q = false → exec (.priResponse q ok) s = .next s) ∧
  (∀ s q d p, s.ring.pri.contains q = true → parkedBy s q = some d → d.parked = some p → getDma s d.id = some d → ∃ t,
    exec (.priResponse q false) s = .next t ∧ getDma t d.id = some { d with parked := some (p.1, 6, s.ring.faultSeq + 1) } ∧
    (∀ x ∈ t.ring.pri, x ≠ q) ∧ t.ring.faultSeq = s.ring.faultSeq + 1 ∧ t = { s with ring := t.ring, host := t.host }) ∧
  (∀ s q d p, s.ring.pri.contains q = true → parkedBy s q = some d → d.parked = some p → getDma s d.id = some d → d.saved = false →
    (d.run { s with ring := { s.ring with pri := s.ring.pri.filter fun x => decide (x ≠ q) } } [] []).2.parked = none → ∃ t e,
      exec (.priResponse q true) s = .next t ∧ getDma t d.id = some e ∧ e.parked = none ∧ d.moved ≤ e.moved ∧
      (if (s.bake d.slot).preempted then t.ring.late = s.ring.late + 1 else t.ring.resolved = s.ring.resolved + 1) ∧
      t.ring.faultSeq = s.ring.faultSeq) ∧
  (∀ s q h den, parkedBy s q = none → exec (.retry q h den) s = .next (mergeHost s h)) ∧
  (∀ s q h den d p, parkedBy s q = some d → d.parked = some p → getDma s d.id = some d → d.saved = false →
    (d.run { mergeHost s h with ring := { s.ring with pri := s.ring.pri.filter fun x => decide (x ≠ p.2.2) } } den []).2.parked = none → ∃ t e,
      exec (.retry q h den) s = .next t ∧ getDma t d.id = some e ∧ e.parked = none ∧ d.moved ≤ e.moved ∧
      (if (s.bake d.slot).preempted then t.ring.late = s.ring.late + 1 else t.ring.resolved = s.ring.resolved + 1))

/-- R260, R317, R320, R321: a retrain makes the requests of a channel in service wait at most 1.5 µs; an unplanned retirement records the channel and
loses its bytes, and a bake whose STATE lay there is paused; a planned one takes a channel out of service with nothing lost; a lost stack takes all its
channels; a ledger copy is whole again where its edge keeps three stacks. -/
def Obligations.ChannelsAndStacksRetire : Prop :=
  (∀ s ch w, ch < 640 → chanServes s ch = true → mget 0 s.hbm.state (ch / 32) = 0 → exec (.channelRetrain ch w) s =
    .next (s.modChan ch fun c => { c with waits := c.waits + BitVec.ofNat 64 (min w 2400) })) ∧
  (∀ s ch w, ch < 640 → (chanServes s ch = false ∨ mget 0 s.hbm.state (ch / 32) ≠ 0) → exec (.channelRetrain ch w) s = .next s) ∧
  (∀ s ch moves cached, ch < 640 → chanServes s ch = true → ∃ t, exec (.channelRetirement ch false moves cached) s = .next t ∧
    (t.chan ch).state = 2 ∧ t.aon.recA.retired = s.aon.recA.retired ++ [ch] ∧
    (∀ a, 2 ^ 28 * ch ≤ a → a < 2 ^ 28 * (ch + 1) → mget none t.hbm.words a = none) ∧
    (∀ a, (a < 2 ^ 28 * ch ∨ 2 ^ 28 * (ch + 1) ≤ a) → mget none t.hbm.words a = mget none s.hbm.words a) ∧
    (∀ c, c ≠ ch → t.chan c = s.chan c) ∧ (ch % 32 ≠ 31 → t.hbm.copyA = s.hbm.copyA ∧ t.hbm.copyB = s.hbm.copyB) ∧
    (ch % 32 ≠ 31 → placedSlots s = [] → EventRaised s t (0x4020 + ch / 32) (ch % 32 + 1) 3 (stokerId s) ch) ∧
    t = { s with aon := t.aon, baker := t.baker, ring := t.ring, hbm := t.hbm, host := t.host }) ∧
  (∀ s ch b moves cached, ch < 640 → chanServes s ch = true → placedSlots s = [b] →
    (tensorsOn (s.bake b) ch).any (fun e => isState e.2) = true → ∃ t, exec (.channelRetirement ch false moves cached) s = .next t ∧
      (t.bake b).state = 7 ∧ (t.bake b).reason = 6) ∧
  (∀ s ch b e moves cached, ch < 640 → ch % 32 ≠ 31 → chanServes s ch = true → placedSlots s = [b] → tensorsOn (s.bake b) ch = [e] →
    isState e.2 = false → (∀ l ∈ pagesOn s b ch, (backedPage s l.1).isSome = true) → ∃ t,
      exec (.channelRetirement ch false moves cached) s = .next t ∧ 6 ∈ (t.bake b).triggers ∧ (t.bake b).state = (s.bake b).state) ∧
  (∀ s ch cached, ch < 640 → ch % 32 ≠ 31 → chanServes s ch = true → movesOk s ch [] = true → placedOff s ch = true → ∃ t,
    exec (.channelRetirement ch true [] cached) s = .next t ∧ (t.chan ch).state = 1 ∧ t.hbm.words = s.hbm.words ∧
    t.aon.recA.retired = s.aon.recA.retired ++ [ch] ∧ EventRaised s t (0x4020 + ch / 32) (ch % 32 + 1) 3 (stokerId s) ch ∧
    t = { s with aon := t.aon, hbm := t.hbm }) ∧
  (∀ s ch p moves cached, ch < 640 → (chanServes s ch = false ∨ (p = true ∧ movesOk s ch moves = false)) →
    exec (.channelRetirement ch p moves cached) s = .next s) ∧
  (∀ s (n : Fin 20) cached, mget 0 s.hbm.state n.val ≠ 1 → ∃ t, exec (.stackRetirement n cached) s = .next t ∧
    mget 0 t.hbm.state n.val = 1 ∧ (∀ c < 32, chanServes t (32 * n.val + c) = false) ∧
    (∀ c, (c < 32 * n.val ∨ 32 * n.val + 32 ≤ c) → t.chan c = s.chan c) ∧
    t.aon.recA.retired = s.aon.recA.retired ++ [640 + n.val] ∧
    t = { s with aon := t.aon, baker := t.baker, ring := t.ring, hbm := t.hbm, host := t.host }) ∧
  (∀ s (n : Fin 20) cached, mget 0 s.hbm.state n.val = 1 → exec (.stackRetirement n cached) s = .next s) ∧
  (∀ s, s.hbm.copyA = false → s.hbm.oneCopy = false → 3 ≤ ledgerStacks s false → ∃ t, exec (.ledgerCopyRebuild false []) s = .next t ∧
    t.hbm = { s.hbm with copyA := true } ∧ EventRaised s t 0x4011 1 0 (stokerId s) 0 ∧ t = { s with aon := t.aon, hbm := t.hbm }) ∧
  (∀ s (r : Fin 64) i x, s.hbm.copyB = false → s.hbm.oneCopy = false → 3 ≤ ledgerStacks s true → getItem s r i = some x → x.status = none → ∃ t,
    exec (.ledgerCopyRebuild true [(r, i)]) s = .next t ∧ t.hbm = { s.hbm with copyB := true } ∧
    getItem t r i = some { x with state := 4, status := some (8, BitVec.ofNat 128 x.reason.toNat) }) ∧
  (∀ s south l, ((if south then s.hbm.copyB else s.hbm.copyA) = true ∨ s.hbm.oneCopy = true ∨ ledgerStacks s south < 3) →
    exec (.ledgerCopyRebuild south l) s = .next s)

/-- R325, R334, R335, R336, R338, R342, R354: an enabled port whose link controller runs, 100 ms after an attempt that failed, trains over at least four
good lanes and starts the TRAIN exchange; the second frame with
unchanged values brings it up, resumed with its held frames renumbered where the peer's incarnation is the known one, or fresh with full credits and its
held frames dropped; a peer without the version, or of another system, leaves it in state 4 or 5. -/
def Obligations.PortsTrainByTheTrainExchange : Prop :=
  (∀ s (p : Fin 12) l, setting s 0x4104 (p.val + 1) ≠ 0 → ((s.port p).state = 0 ∨ (s.port p).state = 1 ∨ (s.port p).state = 3) →
    controllerDown s p = false → mayRetry s (s.port p) = true → ∃ t, exec (.portTraining p l) s = .next t ∧
      (t.port p).lanes = (List.range 13).filter (fun i => l.contains i) ∧
      (4 ≤ (t.port p).lanes.length → (t.port p).state = 1 ∧ (t.port p).width = BitVec.ofNat 8 (widthOf (t.port p).lanes.length) ∧
        (t.port p).trainOk = 0 ∧ (t.port p).retrains = (if (s.port p).known then (s.port p).retrains + 1 else (s.port p).retrains)) ∧
      ((t.port p).lanes.length < 4 → (t.port p).state = 0 ∧ (t.port p).width = 0 ∧ (t.port p).failedAt = some s.flue.cycle) ∧ (t.port p).replay = (s.port p).replay ∧
      (∀ q, q ≠ p.val → t.port q = s.port q) ∧ t = { s with links := { s.links with ports := t.links.ports } }) ∧
  (∀ s (p : Fin 12) l, (setting s 0x4104 (p.val + 1) = 0 ∨ (s.port p).state = 2 ∨ (s.port p).state = 6 ∨
    controllerDown s p = true ∨ mayRetry s (s.port p) = false) → exec (.portTraining p l) s = .next s) ∧
  (∀ s (p : Fin 12) i, (s.port p).state ≠ 1 → exec (.train p i) s = .next s) ∧
  (∀ s (p : Fin 12) i, (s.port p).state = 1 → (s.port p).lastTrain ≠ some i →
    exec (.train p i) s = .next (s.modPort p fun q => { q with lastTrain := some i, trainOk := 1 })) ∧
  (∀ s (p : Fin 12) i, (s.port p).state = 1 → (s.port p).lastTrain = some i → bitAt i.vmap 0 = true → i.sysId.toNat = setting s 0x4100 2 →
    (s.port p).known = true → (s.port p).peerInc = i.inc → ∃ t, exec (.train p i) s = .next t ∧ (t.port p).state = 2 ∧
      (t.port p).version = 0x0100 ∧ (t.port p).peerDev = i.devId ∧ (t.port p).lastRx = i.nextSeq - 1 ∧
      (t.port p).replay.map (·.data) = (afterAck (s.port p).acked i.lastSeq (s.port p).replay).map (·.data) ∧
      (t.port p).resend = (t.port p).replay ∧ (∀ f, (t.port p).replay.head? = some f → f.seq = (s.port p).nextSeq) ∧
      (t.port p).rx = (s.port p).rx ∧ NoEvent s t ∧ t = { s with links := t.links, baker := t.baker }) ∧
  (∀ s (p : Fin 12) i, (s.port p).state = 1 → (s.port p).lastTrain = some i → bitAt i.vmap 0 = true → i.sysId.toNat = setting s 0x4100 2 →
    ((s.port p).known = false ∨ (s.port p).peerInc ≠ i.inc) → ∃ t, exec (.train p i) s = .next t ∧ (t.port p).state = 2 ∧
      (t.port p).known = true ∧ (t.port p).peerInc = i.inc ∧ (t.port p).replay = [] ∧ (t.port p).rx = [] ∧ (t.port p).crd0 = 8192 ∧
      (t.port p).crd1 = 32 ∧ (t.port p).crd2 = 32 ∧ (t.port p).fresh = (s.port p).fresh + 1 ∧
      (t.port p).dropped = (s.port p).dropped + BitVec.ofNat 64 (s.port p).replay.length ∧
      EventRaised s t 0x4103 (p.val + 1) 2 (stokerId s) i.inc.toNat ∧ t = { s with links := t.links, baker := t.baker, aon := t.aon }) ∧
  (∀ s (p : Fin 12) i, (s.port p).state = 1 → (s.port p).lastTrain = some i → (bitAt i.vmap 0 = false ∨ i.sysId.toNat ≠ setting s 0x4100 2) → ∃ t,
    exec (.train p i) s = .next t ∧ (t.port p).state = (if bitAt i.vmap 0 then 5 else 4) ∧ (t.port p).replay = (s.port p).replay ∧
    EventRaised s t 0x4103 (p.val + 1) 2 (stokerId s) i.devId.toNat ∧ t = { s with links := t.links, aon := t.aon })

/-- R328, R329, R332, R338: a frame with a good CRC and the next sequence number is accepted; one with a bad CRC or another number is discarded with one
nak for the gap; a reserved type is counted; the acknowledgment and the credits that a good frame carries are taken, and the replay timer sends again
all that is unacknowledged.

R326, R329, R332, R335, R338: a port in training sends its TRAIN frame. An up port sends what is due again before anything new; a new frame goes with the
next sequence number when the window, the replay buffer and its class's credits allow; otherwise, and without a device ID, the port sends an ACK
frame. Every frame carries the CRC of its contents, whose details are the model's (log entry 148). -/
def Obligations.FramesAreAcceptedAndReplayed : Prop :=
  ((∀ s (p : Fin 12) f, (s.port p).state = 2 → crcGood f = true → 1 ≤ f.ftype → f.ftype ≤ 5 → deviceId s ≠ 0xFFFF →
     f.seq = (s.port p).lastRx + 1 → ∃ t, exec (.sequencedFrameReceive p f) s = .next t ∧ (t.port p).rx = (s.port p).rx ++ [f] ∧
       (t.port p).lastRx = f.seq ∧ (t.port p).nakSent = false ∧
       (t.port p).replay = (if f.av = true ∧ seqFrom (s.port p).acked f.ack ≤ (s.port p).replay.length then
         afterAck (s.port p).acked f.ack (s.port p).replay else (s.port p).replay) ∧
       (t.port p).crd0 = min 8192 ((s.port p).crd0 + f.crd0) ∧ (∀ q, q ≠ p.val → t.port q = s.port q) ∧
       t = { s with links := { s.links with ports := t.links.ports } }) ∧
   (∀ s (p : Fin 12) f, (s.port p).state = 2 → crcGood f = false → exec (.sequencedFrameReceive p f) s =
     .next (s.modPort p fun q => if q.nakSent then q else { q with nakSent := true, nakDue := true })) ∧
   (∀ s (p : Fin 12) f, (s.port p).state = 2 → crcGood f = true → 1 ≤ f.ftype → f.ftype ≤ 5 → deviceId s ≠ 0xFFFF →
     f.seq ≠ (s.port p).lastRx + 1 → ∃ t, exec (.sequencedFrameReceive p f) s = .next t ∧ (t.port p).rx = (s.port p).rx ∧
       (t.port p).lastRx = (s.port p).lastRx ∧ (t.port p).nakSent = true ∧
       (t.port p).nakDue = (if (s.port p).nakSent then (s.port p).nakDue else true)) ∧
   (∀ s (p : Fin 12) f, (s.port p).state = 2 → crcGood f = true → 7 ≤ f.ftype → ∃ t, exec (.sequencedFrameReceive p f) s = .next t ∧
     (t.port p).badTypes = (s.port p).badTypes + 1 ∧ (t.port p).rx = (s.port p).rx ∧ (t.port p).lastRx = (s.port p).lastRx) ∧
   (∀ s (p : Fin 12) f, (s.port p).state ≠ 2 → exec (.sequencedFrameReceive p f) s = .next s ∧ exec (.ack p f) s = .next s ∧
     exec (.replayTimerExpiry p) s = .next s ∧ ((s.port p).state ≠ 1 → exec (.frameTransmit p) s = .next s)) ∧
   (∀ s (p : Fin 12) f, (s.port p).state = 2 → crcGood f = true → f.ftype = 0 → ∃ t, exec (.ack p f) s = .next t ∧
     (t.port p).replay = (if f.av = true ∧ seqFrom (s.port p).acked f.ack ≤ (s.port p).replay.length then
       afterAck (s.port p).acked f.ack (s.port p).replay else (s.port p).replay) ∧
     (f.nak = true → (t.port p).resend = (t.port p).replay) ∧ (t.port p).crd0 = min 8192 ((s.port p).crd0 + f.crd0) ∧
     (t.port p).crd1 = min 32 ((s.port p).crd1 + f.crd1) ∧ (t.port p).crd2 = min 32 ((s.port p).crd2 + f.crd2) ∧
     (t.port p).rx = (s.port p).rx ∧ (t.port p).out = (s.port p).out ∧ (∀ q, q ≠ p.val → t.port q = s.port q) ∧
     t = { s with links := { s.links with ports := t.links.ports } }) ∧
   (∀ s (p : Fin 12), (s.port p).state = 2 → exec (.replayTimerExpiry p) s = .next (s.modPort p fun q => { q with resend := q.replay }))) ∧
  ((∀ s (p : Fin 12), (s.port p).state = 1 → exec (.frameTransmit p) s =
     .next (s.modPort p fun q => { q with wire := some (sealFrame (trainFrame s p)), sent := q.sent + 1 })) ∧
   (∀ s (p : Fin 12) f rest, (s.port p).state = 2 → deviceId s ≠ 0xFFFF → (s.port p).resend = f :: rest → ∃ t w,
     exec (.frameTransmit p) s = .next t ∧ (t.port p).wire = some w ∧ crcGood w = true ∧ w.seq = f.seq ∧ w.data = f.data ∧ w.ack = (s.port p).lastRx ∧
       w.nak = (s.port p).nakDue ∧
     (t.port p).resend = rest ∧ (t.port p).replay = (s.port p).replay ∧ (t.port p).replayed = (s.port p).replayed + 1 ∧
     (t.port p).out = (s.port p).out ∧ (t.port p).sent = (s.port p).sent + 1 ∧ t = { s with links := { s.links with ports := t.links.ports } }) ∧
   (∀ s (p : Fin 12) f, (s.port p).state = 2 → (s.port p).resend = [] → deviceId s ≠ 0xFFFF → nextNew (s.port p) = some f →
     windowRoom (s.port p) f = true → ∃ t w, exec (.frameTransmit p) s = .next t ∧ (t.port p).wire = some w ∧ crcGood w = true ∧ w.seq = (s.port p).nextSeq ∧
       w.data = f.data ∧ w.ack = (s.port p).lastRx ∧ (t.port p).nextSeq = (s.port p).nextSeq + 1 ∧
       (t.port p).replay = (s.port p).replay ++ [{ f with seq := (s.port p).nextSeq }] ∧ (t.port p).out = eraseFirst f (s.port p).out ∧
       (f.cls = 0 → (t.port p).crd0 = (s.port p).crd0 - f.nblk) ∧ (f.cls = 1 → (t.port p).crd1 = (s.port p).crd1 - 1) ∧
       (∀ q, q ≠ p.val → t.port q = s.port q) ∧ t = { s with links := t.links, flue := t.flue }) ∧
   (∀ s (p : Fin 12), (s.port p).state = 2 → (deviceId s = 0xFFFF ∨ (s.port p).resend = [] ∧ (nextNew (s.port p) = none ∨
     ∃ f, nextNew (s.port p) = some f ∧ windowRoom (s.port p) f = false)) → ∃ t w, exec (.frameTransmit p) s = .next t ∧
       (t.port p).wire = some w ∧ crcGood w = true ∧ w.ftype = 0 ∧ w.ack = (s.port p).lastRx ∧ w.nblk = 0 ∧ (t.port p).nextSeq = (s.port p).nextSeq ∧
       (t.port p).replay = (s.port p).replay ∧ (t.port p).out = (s.port p).out ∧ t = { s with links := { s.links with ports := t.links.ports } }))

/-- R325, R330, R342, R343: a port goes down for its own reasons, for as many missed acknowledgment intervals as 0x4101.03 allowed when the interval
began, or for lanes lost beyond its spares; it starts training again with an event, and its frames stay or move to an up alternate. -/
def Obligations.PortsGoDownAndRetrain : Prop :=
  (∀ s (p : Fin 12), (s.port p).state = 2 → ∃ t, exec (.portDown p) s = .next t ∧ (t.port p).state = 3 ∧ (t.port p).trainOk = 0 ∧
    (t.port p).resend = [] ∧ (∀ f ∈ (t.port p).replay, f ∈ (s.port p).replay) ∧
    ((∀ f ∈ (s.port p).replay, movable s p f.dst = none) → (t.port p).replay = (s.port p).replay) ∧
    EventRaised s t 0x4103 (p.val + 1) 2 (stokerId s) p.val ∧ AonKept s t ∧ t = { s with links := t.links, aon := t.aon }) ∧
  (∀ s (p : Fin 12), (s.port p).state ≠ 2 → exec (.portDown p) s = .next s ∧
    exec (.ackDeadlineInterval p) s = .next (s.modPort p fun q => { q with limit := setting s 0x4101 3 }) ∧
    (∀ n, exec (.pmaLockLoss p n) s = .next s) ∧ ∀ n, exec (.laneFailure p n) s = .next s) ∧
  (∀ s (p : Fin 12), (s.port p).state = 2 → ((s.port p).replay = [] ∨ (s.port p).ackMoved = true) → exec (.ackDeadlineInterval p) s =
    .next (s.modPort p fun q => { q with missedRun := 0, ackMoved := false, limit := setting s 0x4101 3 })) ∧
  (∀ s (p : Fin 12), (s.port p).state = 2 → (s.port p).replay ≠ [] → (s.port p).ackMoved = false →
    (s.port p).missedRun + 1 < (s.port p).limit → exec (.ackDeadlineInterval p) s =
    .next (s.modPort p fun q => { q with missed := q.missed + 1, missedRun := q.missedRun + 1, limit := setting s 0x4101 3 })) ∧
  (∀ s (p : Fin 12), (s.port p).state = 2 → (s.port p).replay ≠ [] → (s.port p).ackMoved = false →
    (s.port p).limit ≤ (s.port p).missedRun + 1 → ∃ t, exec (.ackDeadlineInterval p) s = .next t ∧ (t.port p).state = 3 ∧
      (t.port p).missed = (s.port p).missed + 1 ∧ EventRaised s t 0x4103 (p.val + 1) 2 (stokerId s) p.val) ∧
  (∀ s (p : Fin 12) n, (s.port p).state = 2 → spareLanes (s.port p) < n → ∃ t, exec (.pmaLockLoss p n) s = .next t ∧ (t.port p).state = 3 ∧
    EventRaised s t 0x4103 (p.val + 1) 2 (stokerId s) p.val) ∧
  (∀ s (p : Fin 12) n, (s.port p).state = 2 → n ≤ spareLanes (s.port p) → exec (.pmaLockLoss p n) s = .next s) ∧
  (∀ s (p : Fin 12) (l : Fin 13), (s.port p).state = 2 → l.val ∈ (s.port p).lanes → controllerDown s p = false → ∃ t, exec (.laneFailure p l) s = .next t ∧
    (t.port p).state = 3 ∧ (t.port p).lanes = (s.port p).lanes.filter (fun x => decide (x ≠ l.val)) ∧
    (t.port p).replay = (s.port p).replay ∧ (t.port p).out = (s.port p).out ∧ EventRaised s t 0x4103 (p.val + 1) 1 (stokerId s) l.val ∧
    AonKept s t ∧ t = { s with links := { s.links with ports := t.links.ports }, aon := t.aon })

/-- R340, R341, R343, R345, R349, R350: a frame in transit goes on with one hop fewer, is discarded with none left, or waits for a route; a frame held for
a bake that does not run is reported; a REINC frame turns the send channels to its sender to state 2. -/
def Obligations.TransitAndHeldFrames : Prop :=
  (∀ s (p : Fin 12), transit s (s.port p).stuck (fun f => (portFor s f.dst).isSome) = none → transit s (s.port p).rx (fun _ => true) = none →
    exec (.frameForward p) s = .next s) ∧
  (∀ s (p : Fin 12) f o, transit s (s.port p).stuck (fun f => (portFor s f.dst).isSome) = none →
    transit s (s.port p).rx (fun _ => true) = some f → f.hops ≠ 0 → portFor s f.dst = some o → f ∉ (s.port p).stuck → ∃ t,
      exec (.frameForward p) s = .next t ∧ (t.port o).out = (s.port o).out ++ [{ f with hops := f.hops - 1 }] ∧
      (t.port p).rx = eraseFirst f (s.port p).rx ∧ NoEvent s t ∧ t = { s with links := { s.links with ports := t.links.ports } }) ∧
  (∀ s (p : Fin 12) f, transit s (s.port p).stuck (fun f => (portFor s f.dst).isSome) = none →
    transit s (s.port p).rx (fun _ => true) = some f → f.hops = 0 → f ∉ (s.port p).stuck → ∃ t, exec (.frameForward p) s = .next t ∧
      (t.port p).rx = eraseFirst f (s.port p).rx ∧ t.links.hopDrop = s.links.hopDrop + 1 ∧ (t.port p).out = (s.port p).out ∧
      EventRaised s t 0x4112 1 0 (stokerId s) f.src ∧ t = { s with links := t.links, aon := t.aon }) ∧
  (∀ s (p : Fin 12) f, transit s (s.port p).stuck (fun f => (portFor s f.dst).isSome) = none →
    transit s (s.port p).rx (fun _ => true) = some f → f.hops ≠ 0 → portFor s f.dst = none → f ∉ (s.port p).stuck → ∃ t,
      exec (.frameForward p) s = .next t ∧ (t.port p).rx = eraseFirst f (s.port p).rx ∧ (t.port p).stuck = (s.port p).stuck ++ [f] ∧
      t.links.noRoute = s.links.noRoute + 1 ∧ t = { s with links := t.links }) ∧
  (∀ s (p : Fin 12) f, (s.port p).rx.find? (fun f => decide (f.ftype = 1) && decide (f.dst = deviceId s) && heldData s f) = some f → ∃ t,
    exec (.heldFrameTimeout p) s = .next t ∧ EventRaised s t 0x4103 (p.val + 1) 1 (stokerId s) f.chan ∧ AonKept s t ∧ t = { s with aon := t.aon }) ∧
  (∀ s (p : Fin 12), (∀ f ∈ (s.port p).rx, f.ftype ≠ 1 ∨ f.dst ≠ deviceId s) → exec (.heldFrameTimeout p) s = .next s ∧
    exec (.data p) s = .next s) ∧
  (∀ s (p : Fin 12), (∀ f ∈ (s.port p).rx, f.ftype ≠ 5 ∨ f.dst ≠ deviceId s) → exec (.reinc p) s = .next s) ∧
  (∀ s (p : Fin 12) f, (s.port p).rx.find? (fun f => decide (f.ftype = 5) && decide (f.dst = deviceId s)) = some f → ∃ t,
    exec (.reinc p) s = .next t ∧ (∀ n, ceDir (s.channel n).ent = 1 → cePeer (s.channel n).ent = (nth 0 f.data 0).toNat % 32768 →
      ceSt (t.channel n).ent = 2) ∧
    (∀ n, (ceDir (s.channel n).ent ≠ 1 ∨ cePeer (s.channel n).ent ≠ (nth 0 f.data 0).toNat % 32768) → t.channel n = s.channel n) ∧
    EventRaised s t 0x4103 (p.val + 1) 2 (stokerId s) (nth 0 f.data 1).toNat ∧ t = { s with links := t.links, aon := t.aon })

/-- R213, R344, R345, R346, R347, R350: the oldest flit at a bridge joins its channel's transfer, and four of them, or the last, make a DATA frame; a flit
that no channel claims is discarded, which is the model's choice (log entry 143); a DATA frame in its turn is written into
the channel's transfer and a whole transfer signals its object; one of another incarnation is answered with REINC; a channel entry that fails its check
has direction 0. -/
def Obligations.LinkStreamsFillTheirChannels : Prop :=
  (∀ s (c : Fin 4) f n, (∀ e, s.flue.bridge.find? (fun e => decide (bridgeOf e.1 = some c.val)) = some e →
    e.2 ≠ f ∨ flitChannel s c e.1 f ≠ n) → exec (.bridgeFlitArrival c f n) s = .next s) ∧
  (∀ s (c : Fin 4) e, s.flue.bridge.find? (fun e => decide (bridgeOf e.1 = some c.val)) = some e →
    (flitChannel s c e.1 e.2 = none ∨ e.2.v = false) →
    exec (.bridgeFlitArrival c e.2 (flitChannel s c e.1 e.2)) s =
      .next { s with flue := { s.flue with bridge := eraseFirst e s.flue.bridge } }) ∧
  (∀ s (c : Fin 4) e n, s.flue.bridge.find? (fun e => decide (bridgeOf e.1 = some c.val)) = some e → flitChannel s c e.1 e.2 = some n →
    e.2.v = true → ceSt (s.channel n).ent = 1 → e.2.first = true → e.2.last = true → e.2.data.length = 16 →
    (s.channel n).held + 128 < 262144 → ∃ t, exec (.bridgeFlitArrival c e.2 (some n)) s = .next t ∧
      (t.channel n).xseq = (s.channel n).xseq + 1 ∧ (t.channel n).held = (s.channel n).held + 128 ∧ (t.channel n).pack = [] ∧
      (∀ o, portFor s (cePeer (s.channel n).ent) = some o → ∃ g, (t.port o).out = (s.port o).out ++ [g] ∧ g.ftype = 1 ∧
        g.dst = cePeer (s.channel n).ent ∧ g.chan = cePch (s.channel n).ent ∧ g.xseq = (s.channel n).xseq ∧ g.boff = 0 ∧ g.data = e.2.data) ∧
      (portFor s (cePeer (s.channel n).ent) = none → t.links.waiting.length = s.links.waiting.length + 1 ∧
        t.links.noRoute = s.links.noRoute + 1) ∧
      t = { s with links := t.links, flue := { s.flue with bridge := eraseFirst e s.flue.bridge } }) ∧
  (∀ s (c : Fin 4) e n, s.flue.bridge.find? (fun e => decide (bridgeOf e.1 = some c.val)) = some e → flitChannel s c e.1 e.2 = some n →
    e.2.v = true → ceSt (s.channel n).ent = 1 → e.2.first = true → e.2.last = false → e.2.data.length = 16 →
    (s.channel n).held + 128 < 262144 → ∃ t, exec (.bridgeFlitArrival c e.2 (some n)) s = .next t ∧
      (t.channel n).xseq = (s.channel n).xseq ∧ (t.channel n).pack = e.2.data ∧ t = { s with
        links := { s.links with chans := t.links.chans }, flue := { s.flue with bridge := eraseFirst e s.flue.bridge } }) ∧
  (∀ s (p : Fin 12) f, (s.port p).rx.find? (fun f => decide (f.ftype = 1) && decide (f.dst = deviceId s) && !heldData s f) = some f →
    f.itag.toNat = s.links.inc.toNat % 65536 → f ∉ (s.port p).stuck → ceDir (s.channel f.chan).ent = 2 →
    f.xseq = (s.channel f.chan).expect → 128 * f.boff ≤ (s.channel f.chan).wrote →
    ceXsize (s.channel f.chan).ent ≤ max (s.channel f.chan).wrote (min (ceXsize (s.channel f.chan).ent) (128 * f.boff + 128 * f.nblk)) → ∃ t,
      exec (.data p) s = .next t ∧ (t.port p).rx = eraseFirst f (s.port p).rx ∧
      (t.channel f.chan).expect = (s.channel f.chan).expect + 1 ∧ (t.channel f.chan).wrote = 0 ∧
      mget 0 (t.bake (ceBake (s.channel f.chan).ent)).linkRecv f.chan = mget 0 (s.bake (ceBake (s.channel f.chan).ent)).linkRecv f.chan + 1 ∧
      t.host = s.host ∧ t.aon = s.aon ∧ t = { s with cores := t.cores, baker := t.baker, ring := t.ring, hbm := t.hbm, links := t.links }) ∧
  (∀ s (p : Fin 12) f, (s.port p).rx.find? (fun f => decide (f.ftype = 1) && decide (f.dst = deviceId s) && !heldData s f) = some f →
    f.itag.toNat ≠ s.links.inc.toNat % 65536 → f ∉ (s.port p).stuck → ∃ t, exec (.data p) s = .next t ∧
      (t.port p).rx = eraseFirst f (s.port p).rx ∧ t.links.stale = s.links.stale + 1 ∧ t.links.chans = s.links.chans ∧
      (∀ o, portFor s f.src = some o → ∃ g, g ∈ (t.port o).out ∧ g.ftype = 5 ∧ g.dst = f.src ∧
        nth 0 g.data 0 = BitVec.ofNat 64 (deviceId s) ∧ nth 0 g.data 1 = s.links.inc) ∧ t = { s with links := t.links }) ∧
  (∀ s (n : Fin 4096) v, fld v 63 62 = 0 → ∃ t, exec (.channelTableWrite n v) s = .next t ∧ ceDir (t.channel n).ent = 0 ∧
    (t.channel n).stage = (s.channel n).stage ∧ (t.channel n).expect = 0 ∧ (t.channel n).xseq = 0 ∧
    (∀ m, m ≠ n.val → t.channel m = s.channel m) ∧ t = { s with links := { s.links with chans := t.links.chans } }) ∧
  (∀ s (n : Fin 4096) v,
    let w : W256 := putFld (putFld (putFld (BitVec.ofNat 256 ((s.channel n).stage.toNat + 2 ^ 192 * v.toNat)) 253 252 0) 163 128 0) 31 0 0
    (fld v 63 62 = 1 ∨ fld v 63 62 = 2) → chanEntryOk s w = true → ∃ t, exec (.channelTableWrite n v) s = .next t ∧
      t.channel n = { ent := putFld w 253 252 1, stage := (s.channel n).stage } ∧ ceSt (t.channel n).ent = 1 ∧ NoEvent s t ∧
      t = { s with links := t.links, baker := t.baker }) ∧
  (∀ s (n : Fin 4096) v, fld v 63 62 = 3 → ∃ t, exec (.channelTableWrite n v) s = .next t ∧ ceDir (t.channel n).ent = 0 ∧
    EventRaised s t 0x4140 (n.val / 64 + 1) 0 (stokerId s) n.val ∧ t = { s with links := { s.links with chans := t.links.chans }, aon := t.aon })

/-- R351, R352, R424, R425, R426: an interval of the power broker starts with this device's report and the cap allocated for it; a report of the same
group and member list in time counts, a late one is counted late and a foreign one raises an event; the allocation keeps the own cap of the next interval.

R353, R378, R379: a device with an ID sends a DIGEST frame to each up port; a received one is compared, and a mismatch that has lasted is reported once. -/
def Obligations.BrokerAndDigestsAgree : Prop :=
  ((∀ s k x, (brokered s = false ∨ deviceId s = 0xFFFF) → exec (.brokerInterval k x) s = .next s) ∧
   (∀ s k x, brokered s = true → deviceId s ≠ 0xFFFF → ∃ t r, exec (.brokerInterval k x) s = .next t ∧ t.links.brokerK = k ∧
     t.links.reports = [(deviceId s % 65536, r)] ∧ r.k = k ∧ r.dev = BitVec.ofNat 16 (deviceId s) ∧ r.base = baseCap s ∧
     ((s.baker.slots.any fun e => decide (e.2.state = 3)) = false → r.slack = 50000) ∧
     (s.power.lastK + 1 = k → s.links.quiet < 4 → t.power = { s.power with alloc := some s.power.lastOwn }) ∧
     (4 ≤ s.links.quiet → t.power = { s.power with alloc := none }) ∧ t = { s with links := t.links, power := t.power }) ∧
   (∀ s (p : Fin 12) us, (∀ f ∈ (s.port p).rx, f.ftype ≠ 3 ∨ f.dst ≠ deviceId s) → exec (.broker p us) s = .next s) ∧
   (∀ s (p : Fin 12) us f, (s.port p).rx.find? (fun f => decide (f.ftype = 3) && decide (f.dst = deviceId s)) = some f → f ∉ (s.port p).stuck →
     let r := reportOf (wordsBytes f.data)
     let taken (t : State) : Prop := (t.port p).rx = eraseFirst f (s.port p).rx
     (r.group.toNat = setting s 0x4120 1 → r.pfx = memberPrefix s → r.k = s.links.brokerK → us ≤ 25 →
       s.links.reports.find? (fun e => decide (e.1 = r.dev.toNat)) = none → ∃ t, exec (.broker p us) s = .next t ∧ taken t ∧
         t.links.reports = s.links.reports ++ [(r.dev.toNat, r)] ∧ t.links.counted = s.links.counted + 1 ∧
         mget 0 t.links.lastCap r.dev.toNat = r.cap ∧ t = { s with links := t.links }) ∧
     (r.group.toNat = setting s 0x4120 1 → r.pfx = memberPrefix s → (r.k ≠ s.links.brokerK ∨ 25 < us) → ∃ t,
       exec (.broker p us) s = .next t ∧ taken t ∧ t.links.late = s.links.late + 1 ∧ t.links.reports = s.links.reports ∧
       t = { s with links := t.links }) ∧
     ((r.group.toNat ≠ setting s 0x4120 1 ∨ r.pfx ≠ memberPrefix s) → ∃ t, exec (.broker p us) s = .next t ∧ taken t ∧
       t.links.late = s.links.late + 1 ∧ t.links.reports = s.links.reports ∧ EventRaised s t 0x4121 2 1 (stokerId s) f.src)) ∧
   (∀ s, (brokered s = false ∨ ∀ e ∈ s.links.reports, e.1 ≠ deviceId s) → exec .brokerAllocation s = .next s) ∧
   (∀ s own, brokered s = true → s.links.reports.find? (fun e => decide (e.1 = deviceId s)) = some own →
     let missing := (members s).filter fun d => !(s.links.reports.any fun e => decide (e.1 = d))
     let a := allocate (ratOf (BitVec.ofNat 32 (setting s 0x4120 3))) (s.links.reports.map (·.2))
       (missing.map fun d => ratOf (mget 0 s.links.lastCap d)) own.2
     ∃ t, exec .brokerAllocation s = .next t ∧ t.power.lastK = s.links.brokerK ∧ t.power.lastOwn = f32Of a.own ∧
       t.power.lastLambda = f32Of a.lam ∧ t.power.missing = BitVec.ofNat 16 missing.length ∧
       t.links = { s.links with quiet := if s.links.reports.length ≤ 1 then s.links.quiet + 1 else 0 } ∧
       (a.short = true → t.power.shortfalls = s.power.shortfalls + 1 ∧ EventRaised s t 0x2132 2 1 (stokerId s) 0) ∧
       (a.short = false → t.power.shortfalls = s.power.shortfalls ∧ NoEvent s t) ∧ t = { s with power := t.power, links := t.links, aon := t.aon })) ∧
  ((∀ s, deviceId s = 0xFFFF → exec .digestSend s = .next s) ∧
   (∀ s, deviceId s ≠ 0xFFFF → ∃ t, exec .digestSend s = .next t ∧
     (∀ p < 12, portUp s p = true → ∃ g, (t.port p).out = (s.port p).out ++ [g] ∧ g.ftype = 4 ∧ g.cls = 1 ∧ g.data = blockWords (digestPayload s)) ∧
     (∀ p, portUp s p = false → t.port p = s.port p) ∧ t = { s with links := { s.links with ports := t.links.ports } }) ∧
   (∀ s (p : Fin 12), (∀ f ∈ (s.port p).rx, f.ftype ≠ 4) → exec (.digest p) s = .next s) ∧
   (∀ s (p : Fin 12) f, (s.port p).rx.find? (fun f => decide (f.ftype = 4)) = some f → f ∉ (s.port p).stuck → ∃ t,
     exec (.digest p) s = .next t ∧ (t.port p).rx = eraseFirst f (s.port p).rx ∧
     (slice (wordsBytes f.data) 16 16 ≠ sharedDigest s → (t.port p).mismatch = true) ∧
     (slice (wordsBytes f.data) 16 16 = sharedDigest s → expectedDiffers s 4 (slice (wordsBytes f.data) 32 16) = false →
       expectedDiffers s 5 (slice (wordsBytes f.data) 48 16) = false → (t.port p).mismatch = false ∧ (t.port p).reported = false) ∧
     (∀ q, q ≠ p.val → t.port q = s.port q) ∧ t = { s with links := { s.links with ports := t.links.ports } }) ∧
   (∀ s (p : Fin 12), (s.port p).mismatch = true → (s.port p).reported = false → ∃ t, exec (.digestMismatchHold p) s = .next t ∧
     t.port p = { s.port p with reported := true } ∧ t.links.mismatches = s.links.mismatches + 1 ∧
     EventRaised s t 0x1130 6 2 (stokerId s) (p.val + (s.port p).peerBad.toNat * 2 ^ 16) ∧ AonKept s t ∧
     t = { s with links := t.links, aon := t.aon }) ∧
   (∀ s (p : Fin 12), ((s.port p).mismatch = false ∨ (s.port p).reported = true) → exec (.digestMismatchHold p) s = .next s))

/-- R371, R372: the semaphore and the presence window. A free semaphore is taken by the management master that writes its own ID, with a full
lease; its release, or the end of the lease, discards all staging and closes the window. The window opens only under presence, for the holder,
and an open one is not restarted. -/
def Obligations.SemaphoreAndWindowGuardConfiguration : Prop :=
  (∀ s m, MasterWrites s m → (s.aon.holder = 0 ∨ s.aon.holder = m) → exec (.semaphoreAcquire m m) s =
    .next { s with aon := { s.aon with holder := m, leaseLeft := setting s 0x1100 3 * Config.cyclesPerSecond } }) ∧
  (∀ s m i, (served s = false ∨ (m ≠ 1 ∧ m ≠ 2) ∨ (s.aon.holder ≠ 0 ∧ s.aon.holder ≠ m)) →
    exec (.semaphoreAcquire m i) s = .next s ∧ exec (.semaphoreRelease m) s = .next s) ∧
  (∀ s m, HolderWrites s m → exec (.semaphoreRelease m) s = .next { s with
    aon := { s.aon with holder := 0, leaseLeft := 0, window := false, windowLeft := 0 }
    ctl := { s.ctl with dict := { s.ctl.dict with staging := [] } } }) ∧
  (∀ s, s.aon.holder ≠ 0 → s.aon.leaseLeft = 0 → exec .leaseExpiry s = .next { s with
    aon := { s.aon with holder := 0, leaseLeft := 0, window := false, windowLeft := 0 }
    ctl := { s.ctl with dict := { s.ctl.dict with staging := [] } } }) ∧
  (∀ s, (s.aon.holder = 0 ∨ s.aon.leaseLeft ≠ 0) → exec .leaseExpiry s = .next s) ∧
  (∀ s m, HolderWrites s m → s.aon.presence = true → exec (.windowOpen m) s = .next { s with aon := { s.aon with
    window := true, leaseLeft := setting s 0x1100 3 * Config.cyclesPerSecond
    windowLeft := if s.aon.window then s.aon.windowLeft else setting s 0x1101 3 * Config.cyclesPerSecond } }) ∧
  (∀ s m, (s.aon.presence = false ∨ ¬ HolderWrites s m) → exec (.windowOpen m) s = .next s) ∧
  (∀ s m, HolderWrites s m → exec (.windowClose m) s = .next { s with aon := { s.aon with
    window := false, windowLeft := 0, leaseLeft := setting s 0x1100 3 * Config.cyclesPerSecond } }) ∧
  (∀ s, s.aon.window = true → s.aon.windowLeft = 0 → exec .windowExpiry s = .next { s with aon := { s.aon with window := false, windowLeft := 0 } }) ∧
  (∀ s, (s.aon.window = false ∨ s.aon.windowLeft ≠ 0) → exec .windowExpiry s = .next s)

/-- R371, R373, R374, R375, R440: the holder's commit of a staged set at its current generation that passes its checks leaves it due, and any other
commit is refused, with the staging gone either way; at its boundary the set's members take their values and its generation rises, unless presence
has gone; a burned signing policy only grows. -/
def Obligations.CommitSetsApplyAtTheirBoundary : Prop :=
  (∀ s m n, HolderWrites s m → setNumber n.toNat = true → (stagingOf s n.toNat).vals ≠ [] →
    (stagingOf s n.toNat).gen = mget 0 s.ctl.dict.gens n.toNat → checkPresence s n.toNat = 0 →
    checkSet s n.toNat (stagingOf s n.toNat).vals = 0 → ∃ t, exec (.commit m n) s = .next t ∧ stagingOf t n.toNat = {} ∧
      (∀ e ∈ (stagingOf s n.toNat).vals, e ∈ (mget {} t.ctl.dict.due n.toNat).vals) ∧
      t.ctl.dict.gens = s.ctl.dict.gens ∧ t.ctl.dict.scalar = s.ctl.dict.scalar ∧ t.ctl.dict.domain = s.ctl.dict.domain ∧
      t = { s with
        aon := { s.aon with leaseLeft := setting s 0x1100 3 * Config.cyclesPerSecond }, ctl := { s.ctl with dict := t.ctl.dict } }) ∧
  (∀ s m n, HolderWrites s m → setNumber n.toNat = true → ((stagingOf s n.toNat).vals = [] ∨
    (stagingOf s n.toNat).gen ≠ mget 0 s.ctl.dict.gens n.toNat) → exec (.commit m n) s = .next (dropStaging s n.toNat)) ∧
  (∀ s m n, HolderWrites s m → setNumber n.toNat = true → exec (.discard m n) s = .next (renewLease (dropStaging s n.toNat))) ∧
  (∀ s m n, (¬ HolderWrites s m ∨ setNumber n.toNat = false) → exec (.commit m n) s = .next s ∧ exec (.discard m n) s = .next s) ∧
  (∀ s (n : U8), (mget {} s.ctl.dict.due n.toNat).vals ≠ [] →
    atSetBoundary s n.toNat (mget {} s.ctl.dict.due n.toNat).vals = true → checkPresence s n.toNat = 0 → ∃ t,
      exec (.commitApplication n) s = .next t ∧ mget {} t.ctl.dict.due n.toNat = {} ∧
      mget 0 t.ctl.dict.gens n.toNat = mget 0 s.ctl.dict.gens n.toNat + 1 ∧ t.ctl.dict.staging = s.ctl.dict.staging ∧
      FuseGrown s.fuse t.fuse ∧ (n ≠ 0x13 → t.fuse = s.fuse) ∧ t.host = s.host ∧ t.hbm = s.hbm ∧ t.pending = s.pending) ∧
  (∀ s v, (mget {} s.ctl.dict.due 3).vals = [(dkey 0x4101 1, leBytes 4 v)] → v < 2 ^ 32 → ∃ t, exec (.commitApplication 3) s = .next t ∧
    setting t 0x4101 1 = v ∧ setting t 0x4101 2 = setting s 0x4101 2 ∧ t = { s with ctl := { s.ctl with dict := t.ctl.dict } }) ∧
  (∀ s (n : U8), (mget {} s.ctl.dict.due n.toNat).vals ≠ [] →
    atSetBoundary s n.toNat (mget {} s.ctl.dict.due n.toNat).vals = true → checkPresence s n.toNat ≠ 0 →
    exec (.commitApplication n) s = .next (s.modDict fun d => { d with due := mset {} d.due n.toNat {} })) ∧
  (∀ s (n : U8), ((mget {} s.ctl.dict.due n.toNat).vals = [] ∨
    atSetBoundary s n.toNat (mget {} s.ctl.dict.due n.toNat).vals = false) → exec (.commitApplication n) s = .next s)

/-- R359, R363, R364, R366, R367, R394: a request frame is executed once and its response held, a repeated one is answered from what is held and a stale
one not at all; a frame that does not parse is counted; while the dictionary is not served every request is aborted. The host window and the rescue
sequencer answer without sessions. -/
def Obligations.FramesAreExecutedOnce : Prop :=
  (∀ s p l, s.aon.rescue = 0 → parseFrame portFrame l = none → ∃ t, exec (.managementFrame p l) s = .next t ∧
    mgmtPort t p = { mgmtPort s p with malformed := (mgmtPort s p).malformed + 1, response := [] } ∧ t.ctl.dict = s.ctl.dict ∧
    t = { s with ctl := { s.ctl with portA := t.ctl.portA, portB := t.ctl.portB } }) ∧
  (∀ s p l f, s.aon.rescue = 0 → parseFrame portFrame l = some f → served s = false → ∃ t, exec (.managementFrame p l) s = .next t ∧
    (mgmtPort t p).response = (answer s portFrame (abortAll 0x08000028) f).1 ∧ (mgmtPort t p).executed = (mgmtPort s p).executed ∧
    t = { s with ctl := { s.ctl with portA := t.ctl.portA, portB := t.ctl.portB } }) ∧
  (∀ s p l f x e, s.aon.rescue = 0 → parseFrame portFrame l = some f → served s = true →
    (mgmtPort s p).sessions.find? (fun e => decide (e.id = BitVec.ofNat 32 f.2.1)) = some x →
    x.held.find? (fun e => decide (e.1 = BitVec.ofNat 32 f.2.2.1)) = some e → ∃ t, exec (.managementFrame p l) s = .next t ∧
      (mgmtPort t p).response = e.2 ∧ (mgmtPort t p).repeated = (mgmtPort s p).repeated + 1 ∧
      (mgmtPort t p).executed = (mgmtPort s p).executed ∧
      t = { s with ctl := { s.ctl with portA := t.ctl.portA, portB := t.ctl.portB } }) ∧
  (∀ s p l f x, s.aon.rescue = 0 → parseFrame portFrame l = some f → served s = true →
    (mgmtPort s p).sessions.find? (fun e => decide (e.id = BitVec.ofNat 32 f.2.1)) = some x →
    x.held.find? (fun e => decide (e.1 = BitVec.ofNat 32 f.2.2.1)) = none → staleSeq x (BitVec.ofNat 32 f.2.2.1) = true → ∃ t,
      exec (.managementFrame p l) s = .next t ∧ (mgmtPort t p).response = [] ∧ (mgmtPort t p).stale = (mgmtPort s p).stale + 1 ∧
      (mgmtPort t p).executed = (mgmtPort s p).executed) ∧
  (∀ s p l f, s.aon.rescue = 0 → parseFrame portFrame l = some f → served s = true →
    (mgmtPort s p).sessions.find? (fun e => decide (e.id = BitVec.ofNat 32 f.2.1)) = none → (∀ r ∈ f.2.2.2, r.op ≠ opWrite) → ∃ t,
      exec (.managementFrame p l) s = .next t ∧
      (mgmtPort t p).response = (answer s portFrame (fun u room r => runRequest u (p.val + 1) f.1 room r) f).1 ∧
      (mgmtPort t p).executed = (mgmtPort s p).executed + 1 ∧
      (∃ x ∈ (mgmtPort t p).sessions, x.id = BitVec.ofNat 32 f.2.1 ∧ (BitVec.ofNat 32 f.2.2.1, (mgmtPort t p).response) ∈ x.held) ∧
      t = { s with ctl := { s.ctl with portA := t.ctl.portA, portB := t.ctl.portB } }) ∧
  (∀ s p l f r, s.aon.rescue = 0 → parseFrame portFrame l = some f → served s = true →
    (mgmtPort s p).sessions.find? (fun e => decide (e.id = BitVec.ofNat 32 f.2.1)) = none → f.2.2.2 = [r] → r.op = opWrite →
    f.1 = selectedVersion s (p.val + 1) → ∃ t, exec (.managementFrame p l) s = .next t ∧
      (mgmtPort t p).response = responseHeader f.1 1 f.2.1 f.2.2.1 ++
        responseBytes r (writeEntry s (p.val + 1) r.index r.sub r.code r.off r.data r.rsv).1 [] ∧
      t = { (writeEntry s (p.val + 1) r.index r.sub r.code r.off r.data r.rsv).2 with ctl := t.ctl } ∧
      t.ctl.dict = (writeEntry s (p.val + 1) r.index r.sub r.code r.off r.data r.rsv).2.ctl.dict) ∧
  (∀ s, parseFrame hostFrame ((List.range hostFrame).map fun i => mget 0 s.ctl.dictReq i) = none →
    exec .dictDb s = .next { s with ctl := { s.ctl with dictRsp := [], dictBusy := false } }) ∧
  (∀ s f, parseFrame hostFrame ((List.range hostFrame).map fun i => mget 0 s.ctl.dictReq i) = some f → served s = true →
    s.aon.rescue = 0 → (∀ r ∈ f.2.2.2, r.op ≠ opWrite) → exec .dictDb s = .next { s with ctl := { s.ctl with
      dictRsp := (answer s hostFrame (fun u room r => runRequest u 0 f.1 room r) f).1, dictBusy := false } }) ∧
  (∀ s p l, s.aon.rescue = 0 → exec (.rescueFrame p l) s = .next s) ∧
  (∀ s p l, s.aon.rescue ≠ 0 → exec (.managementFrame p l) s = .next s) ∧
  (∀ s p l f, s.aon.rescue ≠ 0 → parseFrame portFrame l = some f → (∀ r ∈ f.2.2.2, r.op ≠ opWrite ∨ r.index ≠ 0x7110) → ∃ t,
    exec (.rescueFrame p l) s = .next t ∧
    (mgmtPort t p).response = (answer s portFrame (fun u room r => rescueRequest u (p.val + 1) room r) f).1 ∧
    t = { s with ctl := { s.ctl with portA := t.ctl.portA, portB := t.ctl.portB } })

/-- R263, R354, R389, R390, R427, R433, R469, R472: the entries a holder writes to act on the machine, each renewing its lease: the date, a migration's
target, a port's enable, a hearth's power, the return of a rail to management, and the restore of a paused bake; the acknowledged sequence number
needs no semaphore. -/
def Obligations.EntryWritesActOnTheMachine : Prop :=
  (∀ s m d, HolderWrites s m → s.ctl.ptpState ≠ 2 → dateOk d = true → dateOfBytes (dateBytes d) = d → exec (.calendarWrite m d) s =
    .next (renewLease { s with aon := { s.aon with calendar := 8 * dateNs d, calValid := true, calStopped := false } })) ∧
  (∀ s m d, (s.ctl.ptpState = 2 ∨ dateOk d = false ∨ ¬ HolderWrites s m) → exec (.calendarWrite m d) s = .next s) ∧
  (∀ s m b n, 1 ≤ b → b ≤ 64 → HolderWrites s m → (s.bake b).state ≠ 0 → (s.bake b).state ≠ 1 → (s.bake b).migTo = 0 → n < 256 →
    targetOk s b n = true → ∃ t, exec (.migrationTarget m b n) s = .next t ∧ t.bake b = { s.bake b with
      migTo := BitVec.ofNat 8 n, migDrain := decide (boundaryOf s b 0 = 1)
      state := if (s.bake b).state = 2 then 6 else (s.bake b).state } ∧
      t = renewLease { s with baker := t.baker }) ∧
  (∀ s m b n, 1 ≤ b → b ≤ 64 → (¬ HolderWrites s m ∨ targetOk s b n = false ∨ (s.bake b).migTo ≠ 0) →
    exec (.migrationTarget m b n) s = .next s) ∧
  (∀ s m (p : Fin 12), HolderWrites s m → (s.port p).state = 6 → ∃ t, exec (.portEnable m p true) s = .next t ∧
    t.port p = { s.port p with state := 0 } ∧ setting t 0x4104 (p.val + 1) = 1 ∧ t = renewLease { s with links := t.links, ctl := t.ctl }) ∧
  (∀ s m (p : Fin 12), HolderWrites s m → (s.port p).state ≠ 2 → ∃ t, exec (.portEnable m p false) s = .next t ∧
    (t.port p).state = 6 ∧ setting t 0x4104 (p.val + 1) = 0 ∧ t = renewLease { s with links := t.links, ctl := t.ctl }) ∧
  (∀ s m (p : Fin 12), HolderWrites s m → (s.port p).state = 2 → ∃ t, exec (.portEnable m p false) s = .next t ∧
    (t.port p).state = 6 ∧ setting t 0x4104 (p.val + 1) = 0 ∧ EventRaised s t 0x4103 (p.val + 1) 2 (stokerId s) p.val) ∧
  (∀ s m (n : Fin 16), HolderWrites s m → (s.hearth n).state ≠ 2 → (s.hearth n).state ≠ 3 → transitFree s n = true → ∃ t,
    exec (.switchOff m n) s = .next t ∧ (t.hearth n).state = 2 ∧ (t.hearth n).clamped = true ∧ (t.hearth n).power = false ∧
    (t.hearth n).damper = false ∧ (t.hearth n).stopBit = true ∧ (t.rail (n.val + 1)).state = 1 ∧ setting t 0x2014 (n.val + 1) = 1 ∧
    t = renewLease { s with hearths := t.hearths, rails := t.rails, cores := t.cores, flue := t.flue, ctl := t.ctl }) ∧
  (∀ s m (n : Fin 16), (¬ HolderWrites s m ∨ (s.hearth n).state = 3 ∨ (transitFree s n = false ∧ (s.hearth n).state ≠ 2)) →
    exec (.switchOff m n) s = .next s) ∧
  (∀ s m (n : Fin 16), HolderWrites s m → (s.hearth n).state = 2 → ∃ t, exec (.switchOn m n) s = .next t ∧ (t.hearth n).state = 0 ∧
    (t.hearth n).freq = 600 ∧ (t.hearth n).clamped = false ∧ (t.hearth n).power = true ∧ (t.hearth n).stopBit = false ∧
    t.rail (n.val + 1) = { s.rail (n.val + 1) with state := 0, setMv := voltOf s n 600 } ∧ setting t 0x2014 (n.val + 1) = 0 ∧
    t = renewLease { s with hearths := t.hearths, rails := t.rails, cores := t.cores, flue := t.flue, ctl := t.ctl }) ∧
  (∀ s m (n : Fin 16), HolderWrites s m → (s.rail (n.val + 1)).valid = true → (s.hearth n).state = 5 → ∃ t,
    exec (.returnToManaged m n) s = .next t ∧ (t.hearth n).state = 0 ∧ (t.hearth n).safeLim = 2000 ∧
    t.rail (n.val + 1) = { s.rail (n.val + 1) with state := 0 } ∧ t = renewLease { s with hearths := t.hearths, rails := t.rails }) ∧
  (∀ s m (n : Fin 16), (¬ HolderWrites s m ∨ (s.rail (n.val + 1)).valid = false) → exec (.returnToManaged m n) s = .next s) ∧
  (∀ s m b a, 1 ≤ b → b ≤ 64 → HolderWrites s m → (a = 1 ∨ a = 2) → (s.bake b).state = 7 → bakeItems s b = [] →
    2 ≤ (bankOf' (s.bake b) (decide (a = 2))).state.toNat → ∃ t, exec (.restore m b a) s = .next t ∧
      (t.bake b).state = 2 ∧ (t.bake b).committed = (bankOf' (s.bake b) (decide (a = 2))).steps ∧
      (t.bake b).epoch = nextEpoch s.baker.epoch ∧ (t.bake b).triggers = [] ∧ (t.bake b).losses = 0 ∧ (t.bake b).noRoute = false ∧
        (t.bake b).swapped = (s.bake b).swapped ∧
      t.host = s.host ∧ t.links = s.links ∧ t.ctl = s.ctl) ∧
  (∀ s m b a, 1 ≤ b → b ≤ 64 → (¬ HolderWrites s m ∨ (a ≠ 1 ∧ a ≠ 2) ∨ (s.bake b).state ≠ 7 ∨ bakeItems s b ≠ []) →
    exec (.restore m b a) s = .next s) ∧
  (∀ s m q, MasterWrites s m → q.toNat < s.integ.nextSeq.toNat → exec (.acknowledged m q) s =
    .next { s with integ := { s.integ with acked := q } }) ∧
  (∀ s m q, (¬ MasterWrites s m ∨ s.integ.nextSeq.toNat ≤ q.toNat) → exec (.acknowledged m q) s = .next s)

/-- R382, R383, R385: a mailbox's bound writer stores its registers and makes the channel FULL with GO; its bound reader empties it with DONE; a write to
a FULL channel, or by another master, is refused and counted, and one of the host's is dropped with an event.

R196, R197, R380, R381, R451: a message of class 0x3 for a processor that runs is delivered once and acknowledged, as a draught flit between the agents
of the ring and on the control chains otherwise, and a second copy only acknowledged again;
an acknowledgment ends the waiting of the message it names; an unanswered message is sent again seven times and then given up with an event. -/
def Obligations.MailboxesAndMessages : Prop :=
  ((∀ s (k : Fin 256) (j : Fin 16) m v, isWriter s k m.toNat = true → (s.box k).full = false → j.val ≠ 15 →
     exec (.mailboxRegisterWrite k j m v) s = .next (s.modBox k fun x => { x with regs := mset 0 x.regs j.val v })) ∧
   (∀ s (k : Fin 256) m v, isWriter s k m.toNat = true → (s.box k).full = false → ∃ t, exec (.go k m v) s = .next t ∧
     (t.box k).full = true ∧ mget 0 (t.box k).regs 15 = (v &&& 0x000FFFFF) ∧ (t.box k).goneAt = s.flue.cycle ∧
     (∀ j < 15, mget 0 (t.box k).regs j = mget 0 (s.box k).regs j) ∧ (∀ n, n ≠ k.val → t.box n = s.box n) ∧
     t = { s with ctl := t.ctl }) ∧
   (∀ s (k : Fin 256) m, isReader s k m.toNat = true →
     exec (.done k m) s = .next (s.modBox k fun x => { x with full := false, drop := false })) ∧
   (∀ s (k : Fin 256) (j : Fin 16) m v, m ≠ 0 → (isWriter s k m.toNat = false ∨ (s.box k).full = true) → j.val ≠ 15 →
     exec (.mailboxRegisterWrite k j m v) s = .next (s.modBox k fun x => { x with refused := x.refused + 1 }) ∧
     exec (.go k m v) s = .next (s.modBox k fun x => { x with refused := x.refused + 1 })) ∧
   (∀ s (k : Fin 256) m, m ≠ 0 → isReader s k m.toNat = false →
     exec (.done k m) s = .next (s.modBox k fun x => { x with refused := x.refused + 1 })) ∧
   (∀ s (k : Fin 256) v, (isWriter s k 0 = false ∨ (s.box k).full = true) → ∃ t, exec (.go k 0 v) s = .next t ∧
     t.box k = { s.box k with refused := (s.box k).refused + 1, drop := true } ∧
     EventRaised s t 0x1210 (k.val + 1) 0 (stokerId s) k.val ∧ AonKept s t ∧ t = { s with ctl := t.ctl, aon := t.aon })) ∧
  ((∀ s m, m.mclass = 3 → (seenOf s m).find? (fun e => decide (e.1 = m.mseq)) = none →
     processorRuns s (receiverOf s m.dstm) = true → ∃ t, exec (.firmwareMessage none m) s = .next t ∧
       t.ctl.delivered = { m with dstm := receiverOf s m.dstm } :: s.ctl.delivered ∧ (m.mseq, 0) ∈ seenOf t m ∧
       AnswerSent s t m 0 ∧ t.ctl.unacked = s.ctl.unacked ∧ t = { s with ctl := t.ctl, flue := t.flue }) ∧
   (∀ s m e, m.mclass = 3 → (seenOf s m).find? (fun e => decide (e.1 = m.mseq)) = some e → ∃ t, exec (.firmwareMessage none m) s = .next t ∧
     t.ctl.delivered = s.ctl.delivered ∧ AnswerSent s t m e.2 ∧ t = { s with ctl := t.ctl, flue := t.flue }) ∧
   (∀ s m, m.mclass = 2 → ∃ t, exec (.firmwareMessage none m) s = .next t ∧
     (∀ u ∈ t.ctl.unacked, u ∈ s.ctl.unacked ∧ ¬ (u.msg.srcm = m.dstm ∧ u.msg.dstm = m.srcm ∧ u.msg.mseq = m.mack)) ∧
     t.ctl.delivered = s.ctl.delivered ∧ t = { s with ctl := t.ctl, flue := t.flue }) ∧
   (∀ s m, m.mclass ≠ 1 → m.mclass ≠ 2 → m.mclass ≠ 3 → exec (.firmwareMessage none m) s =
     .next { takeOnDie s m with ctl := { (takeOnDie s m).ctl with msgDrops := s.ctl.msgDrops + 1 } }) ∧
   (∀ s (p : Fin 12) m, (∀ f ∈ (s.port p).rx, f.ftype ≠ 2 ∨ f.dst ≠ deviceId s) → exec (.firmwareMessage (some p) m) s = .next s) ∧
   (∀ s a b n, (∀ u ∈ s.ctl.unacked, u.msg.srcm ≠ a ∨ u.msg.dstm ≠ b ∨ u.msg.mseq ≠ n) → exec (.messageResend a b n) s = .next s) ∧
   (∀ s a b n u, s.ctl.unacked.find? (fun u => decide (u.msg.srcm = a) && decide (u.msg.dstm = b) && decide (u.msg.mseq = n)) = some u →
     8 ≤ u.sends → ∃ t, exec (.messageResend a b n) s = .next t ∧ t.ctl = { s.ctl with unacked := eraseFirst u s.ctl.unacked } ∧
       EventRaised s t 0x7000 (processorOf b) 1 (stokerId s) b.toNat ∧ AonKept s t ∧ t = { s with ctl := t.ctl, aon := t.aon }) ∧
   (∀ s a b n u, s.ctl.unacked.find? (fun u => decide (u.msg.srcm = a) && decide (u.msg.dstm = b) && decide (u.msg.mseq = n)) = some u →
     u.sends < 8 → u.dev = none → ∃ t, exec (.messageResend a b n) s = .next t ∧ OnItsWay s t u.msg ∧
       t.ctl.unacked.length = s.ctl.unacked.length ∧ { u with sends := u.sends + 1 } ∈ t.ctl.unacked ∧
       t = { s with ctl := t.ctl, flue := t.flue }))

/-- R471, R472, R473: a unit's event joins the queue of the always-on block, or is counted lost when it is full; the active Stoker moves the oldest
record into the log under the next sequence number.

R475, R476: the four monitor commands on one instance, and a sample: an armed record counts it, with its least and greatest value and the bin of
its size; a frozen one keeps what it holds. -/
def Obligations.EventsAndMonitorsRecord : Prop :=
  ((∀ s ix sub sev src arg, sev.toNat ≤ 3 → ∃ t, exec (.eventRaise ix sub sev src arg) s = .next t ∧
     EventRaised s t ix.toNat sub.toNat sev.toNat src arg.toNat ∧ AonKept s t ∧ t = { s with aon := t.aon }) ∧
   (∀ s ix sub sev src arg, 3 < sev.toNat → exec (.eventRaise ix sub sev src arg) s = .next s) ∧
   (∀ s e rest, s.aon.queue = e :: rest → s.recov.active ≠ 0 → ∃ t, exec .eventLogMove s = .next t ∧ t.aon = { s.aon with queue := rest } ∧
     t.integ.nextSeq = s.integ.nextSeq + 1 ∧
     mget ⟨0, 0, 0, 0, 0, 0, 0⟩ t.integ.log (s.integ.nextSeq.toNat % 1024) = { e with seq := s.integ.nextSeq } ∧
     (∀ n, n ≠ s.integ.nextSeq.toNat % 1024 → mget ⟨0, 0, 0, 0, 0, 0, 0⟩ t.integ.log n = mget ⟨0, 0, 0, 0, 0, 0, 0⟩ s.integ.log n) ∧
     t.integ.acked = s.integ.acked ∧ t = { s with aon := t.aon, integ := t.integ }) ∧
   (∀ s, (s.aon.queue = [] ∨ s.recov.active = 0) → exec .eventLogMove s = .next s)) ∧
  (∀ s (ix : U16) (sub : U8), 1 ≤ sub.toNat → sub.toNat ≤ monitorCount s ix.toNat →
     let key := 256 * ix.toNat + sub.toNat
     let m := mget {} s.integ.monitors key
     let kept (t : State) : Prop := (∀ k, k ≠ key → mget {} t.integ.monitors k = mget {} s.integ.monitors k) ∧
       t = { s with integ := { s.integ with monitors := t.integ.monitors, command := t.integ.command } }
     (∃ t, exec (.arm ix sub) s = .next t ∧ mget {} t.integ.monitors key = { m with armed := true } ∧ kept t ∧
       t.integ.command = BitVec.ofNat 32 (2 ^ 28 + ix.toNat * 2 ^ 8 + sub.toNat)) ∧
     (∃ t, exec (.freeze ix sub) s = .next t ∧ mget {} t.integ.monitors key = { m with armed := false } ∧ kept t ∧
       t.integ.command = BitVec.ofNat 32 (2 * 2 ^ 28 + ix.toNat * 2 ^ 8 + sub.toNat)) ∧
     (∃ t, exec (.clear ix sub) s = .next t ∧ mget {} t.integ.monitors key = { armed := m.armed } ∧ kept t ∧
       t.integ.command = BitVec.ofNat 32 (3 * 2 ^ 28 + ix.toNat * 2 ^ 8 + sub.toNat)) ∧
     (∃ t, exec (.clearAndArm ix sub) s = .next t ∧ mget {} t.integ.monitors key = {} ∧ kept t ∧
       t.integ.command = BitVec.ofNat 32 (4 * 2 ^ 28 + ix.toNat * 2 ^ 8 + sub.toNat)) ∧
     (∀ q, q < 2 ^ 64 → m.armed = true → ∃ t, exec (.monitorSample ix sub q) s = .next t ∧
       (mget {} t.integ.monitors key).samples = m.samples + 1 ∧ (mget {} t.integ.monitors key).minQ.toNat = min m.minQ.toNat q ∧
       (mget {} t.integ.monitors key).maxQ.toNat = max m.maxQ.toNat q ∧
       mget 0 (mget {} t.integ.monitors key).bins (if q = 0 then 0 else min 31 (Nat.log2 q + 1)) =
         satInc (mget 0 m.bins (if q = 0 then 0 else min 31 (Nat.log2 q + 1))) 1 ∧
       (mget {} t.integ.monitors key).armed = true ∧ kept t ∧ t.integ.command = s.integ.command) ∧
     (∀ q, m.armed = false → ∃ t, exec (.monitorSample ix sub q) s = .next t ∧ mget {} t.integ.monitors key = m ∧ kept t))
end

