-- ==== Sys2Proof/Laws/Maps.lean ====
section
/-! SUPPORT. The laws of the sparse maps every memory and unit table of the state is kept in: what a read after a write
gives, and that a write keeps the canonical form. -/

namespace Sys2Proof.Machine

variable {α : Type} {d : Nat → α}

/-! ### Reads -/

/-- A key below every listed one reads its default. -/
theorem smGet_below : ∀ {m : SMap α} {k : Nat}, (∀ e ∈ m, k < e.1) → smGet d m k = d k
  | [], _, _ => rfl
  | (j, v) :: m, k, h => by
    have hj : k < j := h (j, v) (by simp)
    simp only [smGet, if_neg (Nat.ne_of_gt hj)]
    exact smGet_below fun e he => h e (List.mem_cons_of_mem _ he)

/-- What holds of the default and of every listed value holds of what is read. -/
theorem smGet_prop {p : α → Prop} (hd : ∀ k, p (d k)) : ∀ {m : SMap α} {k : Nat}, (∀ e ∈ m, p e.2) → p (smGet d m k)
  | [], k, _ => hd k
  | (j, v) :: m, k, h => by
    simp only [smGet]
    split
    · exact h (j, v) (by simp)
    · exact smGet_prop hd fun e he => h e (List.mem_cons_of_mem _ he)

theorem smGet_smDrop_same (k : Nat) : ∀ m : SMap α, smGet d (smDrop m k) k = d k
  | [] => rfl
  | (j, v) :: m => by
    have ih := smGet_smDrop_same k m
    by_cases h : j = k <;> simp_all [smDrop, smGet]

theorem smGet_smDrop_other {k i : Nat} (hi : i ≠ k) : ∀ m : SMap α, smGet d (smDrop m k) i = smGet d m i
  | [] => rfl
  | (j, v) :: m => by
    have ih := smGet_smDrop_other hi m
    by_cases h : j = k
    · subst h; simp_all [smDrop, smGet, hi.symm]
    · simp_all [smDrop, smGet]

theorem smGet_smPut_same (k : Nat) (v : α) : ∀ m : SMap α, smGet d (smPut m k v) k = v
  | [] => by simp [smPut, smGet]
  | (j, w) :: m => by
    have ih := smGet_smPut_same k v m
    unfold smPut
    split
    · simp [smGet]
    · split
      · simp [smGet]
      · rename_i h1 h2
        simp [smGet, Ne.symm h2, ih]

theorem smGet_smPut_other {k i : Nat} (hi : i ≠ k) (v : α) : ∀ m : SMap α, smGet d (smPut m k v) i = smGet d m i
  | [] => by simp [smPut, smGet, hi.symm]
  | (j, w) :: m => by
    have ih := smGet_smPut_other hi v m
    unfold smPut
    split
    · simp [smGet, hi.symm]
    · split
      · rename_i h1 h2
        subst h2
        simp [smGet, hi.symm]
      · simp [smGet, ih]

variable [DecidableEq α]

/-- The key just written reads the value written. -/
@[simp] theorem smGet_smSet_same (m : SMap α) (k : Nat) (v : α) : smGet d (smSet d m k v) k = v := by
  unfold smSet
  split
  · rename_i h; rw [smGet_smDrop_same, h]
  · exact smGet_smPut_same k v m

/-- Every other key reads as before. -/
theorem smGet_smSet_other {k i : Nat} (hi : i ≠ k) (m : SMap α) (v : α) : smGet d (smSet d m k v) i = smGet d m i := by
  unfold smSet
  split
  · exact smGet_smDrop_other hi m
  · exact smGet_smPut_other hi v m

/-- A read after a write, in one. -/
theorem smGet_smSet (m : SMap α) (k i : Nat) (v : α) : smGet d (smSet d m k v) i = if i = k then v else smGet d m i := by
  split
  · rename_i h; subst h; simp
  · rename_i h; exact smGet_smSet_other h m v

@[simp] theorem mget_mset_same (e : α) (m : SMap α) (k : Nat) (v : α) : mget e (mset e m k v) k = v := smGet_smSet_same m k v

theorem mget_mset_other (e : α) (m : SMap α) {k i : Nat} (hi : i ≠ k) (v : α) : mget e (mset e m k v) i = mget e m i :=
  smGet_smSet_other hi m v

theorem mget_mset (e : α) (m : SMap α) (k i : Nat) (v : α) : mget e (mset e m k v) i = if i = k then v else mget e m i :=
  smGet_smSet m k i v

theorem mget_mmod (e : α) (m : SMap α) (k i : Nat) (f : α → α) : mget e (mmod e m k f) i = if i = k then f (mget e m k) else mget e m i :=
  mget_mset e m k i _

/-- The canonical form in words: keys strictly rising, and no entry equal to its default. -/
theorem smWf_iff : ∀ (m : SMap α), smWf d m = true ↔ (m.Pairwise (fun a b => a.1 < b.1) ∧ ∀ e ∈ m, e.2 ≠ d e.1) := by
  intro m
  induction m with
  | nil => simp [smWf]
  | cons e m ih =>
    obtain ⟨j, v⟩ := e
    cases m with
    | nil => simp [smWf]
    | cons e' m =>
      obtain ⟨k, w⟩ := e'
      simp only [smWf, Bool.and_eq_true, ih, decide_eq_true_eq, bne_iff_ne, List.pairwise_cons, List.mem_cons, forall_eq_or_imp]
      constructor
      · rintro ⟨⟨a, b⟩, ⟨c1, c2⟩, c3, c4⟩
        exact ⟨⟨⟨b, fun x hx => lt_trans b (c1 x hx)⟩, c1, c2⟩, a, c3, c4⟩
      · rintro ⟨⟨⟨b, _⟩, c1, c2⟩, a, c3, c4⟩
        exact ⟨⟨a, b⟩, ⟨c1, c2⟩, c3, c4⟩

/-! ### Writes -/

theorem mem_smPut : ∀ {m : SMap α} {k : Nat} {v : α} {e : Nat × α}, e ∈ smPut m k v → e ∈ m ∨ e = (k, v)
  | [], k, v, e, h => by simp_all [smPut]
  | (j, w) :: m, k, v, e, h => by
    have ih := @mem_smPut m k v e
    unfold smPut at h
    split at h
    · simp only [List.mem_cons] at h ⊢; tauto
    · split at h <;> simp only [List.mem_cons] at h ⊢ <;> tauto

/-- An entry of a written map is one of the old entries or the one written. -/
theorem mem_smSet {m : SMap α} {k : Nat} {v : α} {e : Nat × α} (h : e ∈ smSet d m k v) : e ∈ m ∨ e = (k, v) := by
  unfold smSet at h
  split at h
  · exact .inl (List.mem_of_mem_filter h)
  · exact mem_smPut h

/-- What holds of every entry and of the one written holds of every entry of the written map. -/
theorem forall_smSet {p : Nat × α → Prop} {m : SMap α} {k : Nat} {v : α} (h : ∀ e ∈ m, p e) (hv : p (k, v)) :
    ∀ e ∈ smSet d m k v, p e := by
  intro e he
  rcases mem_smSet he with he | rfl
  · exact h e he
  · exact hv

theorem smPut_rising : ∀ {m : SMap α} {k : Nat} {v : α}, m.Pairwise (fun a b => a.1 < b.1) →
    (smPut m k v).Pairwise (fun a b => a.1 < b.1)
  | [], k, v, _ => by simp [smPut]
  | (j, w) :: m, k, v, h => by
    obtain ⟨h1, h2⟩ := List.pairwise_cons.1 h
    unfold smPut
    split
    · rename_i hk
      refine List.pairwise_cons.2 ⟨fun e he => ?_, h⟩
      rcases List.mem_cons.1 he with rfl | he
      · exact hk
      · exact lt_trans hk (h1 e he)
    · split
      · rename_i h3 h4
        subst h4
        exact List.pairwise_cons.2 ⟨h1, h2⟩
      · rename_i h3 h4
        refine List.pairwise_cons.2 ⟨fun e he => ?_, smPut_rising h2⟩
        rcases mem_smPut he with he | rfl
        · exact h1 e he
        · show j < k
          omega

/-- A write keeps the canonical form. -/
theorem smSet_wf {m : SMap α} {k : Nat} {v : α} (h : smWf d m = true) : smWf d (smSet d m k v) = true := by
  rw [smWf_iff] at h ⊢
  by_cases hv : v = d k
  · rw [smSet, if_pos hv]
    exact ⟨h.1.filter _, fun e he => h.2 e (List.mem_of_mem_filter he)⟩
  · refine ⟨?_, forall_smSet h.2 hv⟩
    rw [smSet, if_neg hv]
    exact smPut_rising h.1

/-- A filtered canonical map is canonical. -/
theorem smWf_filter {m : SMap α} (p : Nat × α → Bool) (h : smWf d m = true) : smWf d (m.filter p) = true := by
  rw [smWf_iff] at h ⊢
  exact ⟨h.1.filter p, fun e he => h.2 e (List.mem_of_mem_filter he)⟩

/-! ### Folds -/

/-- A property every step of a fold keeps holds at its end. -/
theorem foldl_prop {β γ : Type} {p : β → Prop} {f : β → γ → β} (hf : ∀ b x, p b → p (f b x)) : ∀ (l : List γ) {b : β}, p b → p (l.foldl f b)
  | [], _, h => h
  | x :: l, _, h => foldl_prop hf l (hf _ x h)

/-- A part that every step of a fold leaves alone is as it was at its end. -/
theorem foldl_keeps {β γ δ : Type} {f : β → γ → β} (p : β → δ) (h : ∀ u x, p (f u x) = p u) : ∀ (l : List γ) (s : β), p (l.foldl f s) = p s
  | [], _ => rfl
  | x :: l, s => (foldl_keeps p h l (f s x)).trans (h s x)

end Sys2Proof.Machine
end

