-- ==== Sys2Proof/Laws/OuterCores.lean ====
section
/-! SUPPORT. What the shared operations of the cores, the ring engine and the DMA engine leave alone: for each, that the fuses, the
queue of waiting commands, host memory and the stacks are as they were, as far as it does not write them. -/

namespace Sys2Proof.Machine

variable {s : State}

@[simp] theorem foldl_fuse {α : Type} {f : State → α → State} (h : ∀ u x, (f u x).fuse = u.fuse) (l : List α) (s : State) : (l.foldl f s).fuse = s.fuse := foldl_keeps _ h l s
@[simp] theorem foldl_pending {α : Type} {f : State → α → State} (h : ∀ u x, (f u x).pending = u.pending) (l : List α) (s : State) : (l.foldl f s).pending = s.pending := foldl_keeps _ h l s
@[simp] theorem foldl_host {α : Type} {f : State → α → State} (h : ∀ u x, (f u x).host = u.host) (l : List α) (s : State) : (l.foldl f s).host = s.host := foldl_keeps _ h l s
@[simp] theorem foldl_hbm {α : Type} {f : State → α → State} (h : ∀ u x, (f u x).hbm = u.hbm) (l : List α) (s : State) : (l.foldl f s).hbm = s.hbm := foldl_keeps _ h l s
@[simp] theorem ite_fuse {c : Prop} [Decidable c] {a b : State} : (if c then a else b).fuse = if c then a.fuse else b.fuse := apply_ite _ _ _ _
@[simp] theorem ite_pending {c : Prop} [Decidable c] {a b : State} : (if c then a else b).pending = if c then a.pending else b.pending := apply_ite _ _ _ _
@[simp] theorem ite_host {c : Prop} [Decidable c] {a b : State} : (if c then a else b).host = if c then a.host else b.host := apply_ite _ _ _ _
@[simp] theorem ite_hbm {c : Prop} [Decidable c] {a b : State} : (if c then a else b).hbm = if c then a.hbm else b.hbm := apply_ite _ _ _ _
/-! ### Ops -/

@[simp] theorem State_modCore_outer (c : CoreId) (f : Core → Core) :
    (State.modCore s c f).fuse = s.fuse ∧ (State.modCore s c f).pending = s.pending ∧ (State.modCore s c f).host = s.host ∧ (State.modCore s c f).hbm = s.hbm := by
  unfold State.modCore
  (repeat' split) <;> simp

@[simp] theorem State_modHearth_outer (n : Nat) (f : Hearth → Hearth) :
    (State.modHearth s n f).fuse = s.fuse ∧ (State.modHearth s n f).pending = s.pending ∧ (State.modHearth s n f).host = s.host ∧ (State.modHearth s n f).hbm = s.hbm := by
  unfold State.modHearth
  (repeat' split) <;> simp

@[simp] theorem State_modRail_outer (r : Nat) (f : Rail → Rail) :
    (State.modRail s r f).fuse = s.fuse ∧ (State.modRail s r f).pending = s.pending ∧ (State.modRail s r f).host = s.host ∧ (State.modRail s r f).hbm = s.hbm := by
  unfold State.modRail
  (repeat' split) <;> simp

@[simp] theorem State_modBake_outer (b : Nat) (f : Bake → Bake) :
    (State.modBake s b f).fuse = s.fuse ∧ (State.modBake s b f).pending = s.pending ∧ (State.modBake s b f).host = s.host ∧ (State.modBake s b f).hbm = s.hbm := by
  unfold State.modBake
  (repeat' split) <;> simp

@[simp] theorem State_modRing_outer (r : Nat) (f : Ring → Ring) :
    (State.modRing s r f).fuse = s.fuse ∧ (State.modRing s r f).pending = s.pending ∧ (State.modRing s r f).host = s.host ∧ (State.modRing s r f).hbm = s.hbm := by
  unfold State.modRing
  (repeat' split) <;> simp

@[simp] theorem State_modPort_outer (p : Nat) (f : Port → Port) :
    (State.modPort s p f).fuse = s.fuse ∧ (State.modPort s p f).pending = s.pending ∧ (State.modPort s p f).host = s.host ∧ (State.modPort s p f).hbm = s.hbm := by
  unfold State.modPort
  (repeat' split) <;> simp

@[simp] theorem State_modRouter_outer (p : Site) (f : Router → Router) :
    (State.modRouter s p f).fuse = s.fuse ∧ (State.modRouter s p f).pending = s.pending ∧ (State.modRouter s p f).host = s.host ∧ (State.modRouter s p f).hbm = s.hbm := by
  unfold State.modRouter
  (repeat' split) <;> simp

@[simp] theorem State_modChan_outer (c : Nat) (f : Channel → Channel) :
    (State.modChan s c f).fuse = s.fuse ∧ (State.modChan s c f).pending = s.pending ∧ (State.modChan s c f).host = s.host := by
  unfold State.modChan
  (repeat' split) <;> simp

@[simp] theorem State_modProc_outer (m : Nat) (f : Processor → Processor) :
    (State.modProc s m f).fuse = s.fuse ∧ (State.modProc s m f).pending = s.pending ∧ (State.modProc s m f).host = s.host ∧ (State.modProc s m f).hbm = s.hbm := by
  unfold State.modProc
  (repeat' split) <;> simp

@[simp] theorem State_modBox_outer (k : Nat) (f : Mailbox → Mailbox) :
    (State.modBox s k f).fuse = s.fuse ∧ (State.modBox s k f).pending = s.pending ∧ (State.modBox s k f).host = s.host ∧ (State.modBox s k f).hbm = s.hbm := by
  unfold State.modBox
  (repeat' split) <;> simp

@[simp] theorem State_modChannel_outer (k : Nat) (f : Channel5 → Channel5) :
    (State.modChannel s k f).fuse = s.fuse ∧ (State.modChannel s k f).pending = s.pending ∧ (State.modChannel s k f).host = s.host ∧ (State.modChannel s k f).hbm = s.hbm := by
  unfold State.modChannel
  (repeat' split) <;> simp

@[simp] theorem raise_outer (index : U16) (sub : U8) (sev : U8) (src : U8) (arg : U64) :
    (raise s index sub sev src arg).fuse = s.fuse ∧ (raise s index sub sev src arg).pending = s.pending ∧ (raise s index sub sev src arg).host = s.host ∧ (raise s index sub sev src arg).hbm = s.hbm := by
  unfold raise
  (repeat' split) <;> simp

@[simp] theorem raiseS_outer (index : Nat) (sub : Nat) (sev : Nat) (arg : Nat) :
    (raiseS s index sub sev arg).fuse = s.fuse ∧ (raiseS s index sub sev arg).pending = s.pending ∧ (raiseS s index sub sev arg).host = s.host ∧ (raiseS s index sub sev arg).hbm = s.hbm := by
  unfold raiseS
  (repeat' split) <;> simp

@[simp] theorem State_modRec_outer (f : Records → Records) :
    (State.modRec s f).fuse = s.fuse ∧ (State.modRec s f).pending = s.pending ∧ (State.modRec s f).host = s.host ∧ (State.modRec s f).hbm = s.hbm := by
  unfold State.modRec
  (repeat' split) <;> simp

@[simp] theorem State_modDict_outer (f : Dict → Dict) :
    (State.modDict s f).fuse = s.fuse ∧ (State.modDict s f).pending = s.pending ∧ (State.modDict s f).host = s.host ∧ (State.modDict s f).hbm = s.hbm := by
  unfold State.modDict
  (repeat' split) <;> simp

@[simp] theorem putSetting_outer (index : Nat) (sub : Nat) (v : Nat) :
    (putSetting s index sub v).fuse = s.fuse ∧ (putSetting s index sub v).pending = s.pending ∧ (putSetting s index sub v).host = s.host ∧ (putSetting s index sub v).hbm = s.hbm := by
  unfold putSetting
  (repeat' split) <;> simp

@[simp] theorem setSyncObj_outer (n : Nat) (o : SyncObj) :
    (setSyncObj s n o).fuse = s.fuse ∧ (setSyncObj s n o).pending = s.pending ∧ (setSyncObj s n o).host = s.host ∧ (setSyncObj s n o).hbm = s.hbm := by
  unfold setSyncObj
  (repeat' split) <;> simp

@[simp] theorem signalObj_outer (g : Sig) :
    (signalObj s g).fuse = s.fuse ∧ (signalObj s g).pending = s.pending ∧ (signalObj s g).host = s.host ∧ (signalObj s g).hbm = s.hbm := by
  unfold signalObj
  (repeat' split) <;> simp

@[simp] theorem takeEpoch_outer  :
    (takeEpoch s).2.fuse = s.fuse ∧ (takeEpoch s).2.pending = s.pending ∧ (takeEpoch s).2.host = s.host ∧ (takeEpoch s).2.hbm = s.hbm := by
  unfold takeEpoch
  (repeat' split) <;> simp

/-! ### Flags -/

@[simp] theorem trigger_outer (b : Nat) (row : Nat) :
    (trigger s b row).fuse = s.fuse ∧ (trigger s b row).pending = s.pending ∧ (trigger s b row).host = s.host ∧ (trigger s b row).hbm = s.hbm := by
  unfold trigger
  (repeat' split) <;> simp

@[simp] theorem reportReads_outer (c : CoreId) (order : Nat) (evs : List ReadEvent) :
    (reportReads s c order evs).fuse = s.fuse ∧ (reportReads s c order evs).pending = s.pending ∧ (reportReads s c order evs).host = s.host ∧ (reportReads s c order evs).hbm = s.hbm := by
  have h : ∀ (p : State → State) (l : List ReadEvent) (f : State × Bool → ReadEvent → State × Bool) (a : State × Bool), True := fun _ _ _ _ => trivial
  have k : ∀ {γ : Type} (p : State → γ) (hp : ∀ u i b v r x, p (raise u i b v r x) = p u) (f : Bool),
      p (evs.foldl (fun (a : State × Bool) e => match e with
        | .uncorrectable w => (raise a.1 0x3221 (BitVec.ofNat 8 (c + 1)) 2 (BitVec.ofNat 8 (0x20 + hearthOf s c)) (BitVec.ofNat 64 (8 * w)), true)
        | .poison w => if a.2 then a else
          (raise a.1 0x3222 (BitVec.ofNat 8 (c + 1)) 2 (BitVec.ofNat 8 (0x20 + hearthOf s c))
            (BitVec.ofNat 64 (stepOfOrder (s.core c) order * 2 ^ 32 + w)), true)) (s, f)).1 = p s := by
    intro γ p hp f
    refine (foldl_keeps (fun a : State × Bool => p a.1) ?_ evs (s, f))
    rintro u (w | w)
    · exact hp ..
    · dsimp only
      split
      · rfl
      · exact hp ..
  unfold reportReads
  dsimp only
  split
  · simp
  · refine ⟨?_, ?_, ?_, ?_⟩ <;> simp only [trigger_outer, State_modCore_outer] <;> exact k _ (by simp) _

/-! ### Placed -/

@[simp] theorem installCore_outer (b : Nat) (i : Nat) (c : CoreId) :
    (installCore s b i c).fuse = s.fuse ∧ (installCore s b i c).pending = s.pending ∧ (installCore s b i c).host = s.host ∧ (installCore s b i c).hbm = s.hbm := by
  unfold installCore
  (repeat' split) <;> simp

@[simp] theorem initSyncs_outer (b : Nat) :
    (initSyncs s b).fuse = s.fuse ∧ (initSyncs s b).pending = s.pending ∧ (initSyncs s b).host = s.host ∧ (initSyncs s b).hbm = s.hbm := by
  unfold initSyncs
  (repeat' split) <;> simp

@[simp] theorem installPhase_outer (b : Nat) (ph : Nat) :
    (installPhase s b ph).fuse = s.fuse ∧ (installPhase s b ph).pending = s.pending ∧ (installPhase s b ph).host = s.host ∧ (installPhase s b ph).hbm = s.hbm := by
  unfold installPhase
  (repeat' split) <;> simp

@[simp] theorem clearCores_outer (b : Nat) :
    (clearCores s b).fuse = s.fuse ∧ (clearCores s b).pending = s.pending ∧ (clearCores s b).host = s.host ∧ (clearCores s b).hbm = s.hbm := by
  unfold clearCores
  (repeat' split) <;> simp

@[simp] theorem startPhase_outer (b : Nat) (ph : Nat) :
    (startPhase s b ph).fuse = s.fuse ∧ (startPhase s b ph).pending = s.pending ∧ (startPhase s b ph).host = s.host ∧ (startPhase s b ph).hbm = s.hbm := by
  unfold startPhase
  (repeat' split) <;> simp

@[simp] theorem rebind_outer (b : Nat) :
    (rebind s b).fuse = s.fuse ∧ (rebind s b).pending = s.pending ∧ (rebind s b).host = s.host ∧ (rebind s b).hbm = s.hbm := by
  unfold rebind
  (repeat' split) <;> simp

/-! ### Issue -/

theorem fireSignals_outer {t : State} {c : CoreId} {step : Nat} {vars : List Nat} (h : fireSignals s c step vars = some t) :
    t.fuse = s.fuse ∧ t.pending = s.pending ∧ t.host = s.host ∧ t.hbm = s.hbm := by
  unfold fireSignals at h
  dsimp only at h
  split at h
  · cases h
  · simp only [Option.some.injEq] at h
    subst h
    split <;> simp

@[simp] theorem countStall_outer  :
    (countStall s).fuse = s.fuse ∧ (countStall s).pending = s.pending ∧ (countStall s).host = s.host ∧ (countStall s).hbm = s.hbm := by
  unfold countStall
  (repeat' split) <;> simp

@[simp] theorem issueNow_outer (c : CoreId) :
    (issueNow s c).fuse = s.fuse ∧ (issueNow s c).pending = s.pending ∧ (issueNow s c).host = s.host ∧ (issueNow s c).hbm = s.hbm := by
  unfold issueNow
  dsimp only
  split
  · simp
  · rename_i h
    simpa using fireSignals_outer h

theorem atHead_outer {γ : Type} (p : State → γ) (hp : ∀ (u : State) (c : CoreId) (f : Core → Core), p (u.modCore c f) = p u)
    (c : CoreId) (fits : W256 → Bool) {go : State} (h : p go = p s) : p (atHead s c fits go) = p s := by
  unfold atHead
  dsimp only
  repeat' split
  all_goals first | rfl | exact hp .. | exact h

/-! ### LinkBase -/

@[simp] theorem pauseNoRoute_outer (slot : Nat) :
    (pauseNoRoute s slot).fuse = s.fuse ∧ (pauseNoRoute s slot).pending = s.pending ∧ (pauseNoRoute s slot).host = s.host ∧ (pauseNoRoute s slot).hbm = s.hbm := by
  unfold pauseNoRoute
  (repeat' split) <;> simp

@[simp] theorem resumeRouted_outer (slot : Nat) :
    (resumeRouted s slot).fuse = s.fuse ∧ (resumeRouted s slot).pending = s.pending ∧ (resumeRouted s slot).host = s.host ∧ (resumeRouted s slot).hbm = s.hbm := by
  unfold resumeRouted
  (repeat' split) <;> simp

@[simp] theorem resumeAllRouted_outer  :
    (resumeAllRouted s).fuse = s.fuse ∧ (resumeAllRouted s).pending = s.pending ∧ (resumeAllRouted s).host = s.host ∧ (resumeAllRouted s).hbm = s.hbm := by
  unfold resumeAllRouted
  (repeat' split) <;> simp

@[simp] theorem queueOut_outer (p : Nat) (f : Frame) :
    (queueOut s p f).fuse = s.fuse ∧ (queueOut s p f).pending = s.pending ∧ (queueOut s p f).host = s.host ∧ (queueOut s p f).hbm = s.hbm := by
  unfold queueOut
  (repeat' split) <;> simp

@[simp] theorem sendFrame_outer (f : Frame) :
    (sendFrame s f).fuse = s.fuse ∧ (sendFrame s f).pending = s.pending ∧ (sendFrame s f).host = s.host ∧ (sendFrame s f).hbm = s.hbm := by
  unfold sendFrame
  (repeat' split) <;> simp

/-! ### Ledger -/

@[simp] theorem mergeHost_outer (l : List Host.Cell) :
    (mergeHost s l).fuse = s.fuse ∧ (mergeHost s l).pending = s.pending ∧ (mergeHost s l).hbm = s.hbm := by
  unfold mergeHost
  (repeat' split) <;> simp

@[simp] theorem hostStore_outer (a : Nat) (l : List Byte) :
    (hostStore s a l).fuse = s.fuse ∧ (hostStore s a l).pending = s.pending ∧ (hostStore s a l).hbm = s.hbm := by
  unfold hostStore
  (repeat' split) <;> simp

@[simp] theorem raiseMsix_outer (v : Nat) :
    (raiseMsix s v).fuse = s.fuse ∧ (raiseMsix s v).pending = s.pending ∧ (raiseMsix s v).host = s.host ∧ (raiseMsix s v).hbm = s.hbm := by
  unfold raiseMsix
  (repeat' split) <;> simp

@[simp] theorem modItem_outer (r : Nat) (i : U32) (f : Item → Item) :
    (modItem s r i f).fuse = s.fuse ∧ (modItem s r i f).pending = s.pending ∧ (modItem s r i f).host = s.host ∧ (modItem s r i f).hbm = s.hbm := by
  unfold modItem
  (repeat' split) <;> simp

@[simp] theorem writeAccept_outer (r : Nat) (i : U32) :
    (writeAccept s r i).fuse = s.fuse ∧ (writeAccept s r i).pending = s.pending ∧ (writeAccept s r i).hbm = s.hbm := by
  unfold writeAccept
  (repeat' split) <;> simp

@[simp] theorem endItem_outer (r : Nat) (i : U32) (status : U8) (detail : BitVec 128) :
    (endItem s r i status detail).fuse = s.fuse ∧ (endItem s r i status detail).pending = s.pending ∧ (endItem s r i status detail).hbm = s.hbm := by
  unfold endItem
  (repeat' split) <;> simp

@[simp] theorem endInvalid_outer (r : Nat) (i : U32) (bit : Nat) :
    (endInvalid s r i bit).fuse = s.fuse ∧ (endInvalid s r i bit).pending = s.pending ∧ (endInvalid s r i bit).hbm = s.hbm := by
  unfold endInvalid
  (repeat' split) <;> simp

@[simp] theorem startStep_outer (b : Nat) :
    (startStep s b).fuse = s.fuse ∧ (startStep s b).pending = s.pending ∧ (startStep s b).host = s.host ∧ (startStep s b).hbm = s.hbm := by
  unfold startStep
  simp
  (repeat' split) <;> simp_all

@[simp] theorem resumeItem_outer (b : Nat) :
    (resumeItem s b).fuse = s.fuse ∧ (resumeItem s b).pending = s.pending ∧ (resumeItem s b).hbm = s.hbm := by
  unfold resumeItem
  simp
  (repeat' split) <;> simp_all

@[simp] theorem fillsDone_outer (b : Nat) :
    (fillsDone s b).fuse = s.fuse ∧ (fillsDone s b).pending = s.pending ∧ (fillsDone s b).hbm = s.hbm := by
  unfold fillsDone
  (repeat' split) <;> simp

/-! ### Dma -/

@[simp] theorem useLeaf_outer (south : Bool) (dva : Nat) (sh : Nat) (e : U64) (write : Bool) (denied : List Nat) :
    (useLeaf s south dva sh e write denied).2.fuse = s.fuse ∧ (useLeaf s south dva sh e write denied).2.pending = s.pending ∧ (useLeaf s south dva sh e write denied).2.host = s.host ∧ (useLeaf s south dva sh e write denied).2.hbm = s.hbm := by
  unfold useLeaf
  simp
  (repeat' split) <;> simp_all

@[simp] theorem translate_outer (south : Bool) (root : Nat) (dva : Nat) (write : Bool) (denied : List Nat) :
    (translate s south root dva write denied).2.fuse = s.fuse ∧ (translate s south root dva write denied).2.pending = s.pending ∧ (translate s south root dva write denied).2.host = s.host ∧ (translate s south root dva write denied).2.hbm = s.hbm := by
  unfold translate
  (repeat' split) <;> simp

theorem readDva_outer (root : Nat) (denied : List Nat) : ∀ (n : Nat) (s : State) (dva : Nat),
    (readDva s root denied n dva).2.fuse = s.fuse ∧ (readDva s root denied n dva).2.pending = s.pending ∧
      (readDva s root denied n dva).2.host = s.host ∧ (readDva s root denied n dva).2.hbm = s.hbm
  | 0, s, dva => ⟨rfl, rfl, rfl, rfl⟩
  | n + 1, s, dva => by
    unfold readDva
    have ht := translate_outer (s := s) false root dva false denied
    split
    · rename_i c t h
      rw [h] at ht
      exact ht
    · rename_i p t h
      rw [h] at ht
      have ih := readDva_outer root denied n t (dva + 8)
      dsimp only
      split <;> (rename_i e u hu; rw [hu] at ih; exact ⟨ih.1.trans ht.1, ih.2.1.trans ht.2.1, ih.2.2.1.trans ht.2.2.1, ih.2.2.2.trans ht.2.2.2⟩)

@[simp] theorem stackRead_outer (a : Nat) (ups : List (Nat × StackUpset)) :
    (stackRead s a ups).2.fuse = s.fuse ∧ (stackRead s a ups).2.pending = s.pending ∧ (stackRead s a ups).2.host = s.host := by
  unfold stackRead
  simp
  (repeat' split) <;> simp_all

@[simp] theorem stackWrite_outer (a : Nat) (w : U64 × Bool) :
    (stackWrite s a w).fuse = s.fuse ∧ (stackWrite s a w).pending = s.pending ∧ (stackWrite s a w).host = s.host := by
  unfold stackWrite
  (repeat' split) <;> simp

@[simp] theorem askPad_outer (d : DmaDesc) :
    (askPad s d).fuse = s.fuse ∧ (askPad s d).pending = s.pending ∧ (askPad s d).host = s.host ∧ (askPad s d).hbm = s.hbm := by
  unfold askPad
  simp

@[simp] theorem endPadJobs_outer (d : DmaDesc) :
    (endPadJobs s d).fuse = s.fuse ∧ (endPadJobs s d).pending = s.pending ∧ (endPadJobs s d).host = s.host ∧ (endPadJobs s d).hbm = s.hbm := by
  unfold endPadJobs
  simp

@[simp] theorem stopPoisoned_outer (d : DmaDesc) :
    (stopPoisoned s d).fuse = s.fuse ∧ (stopPoisoned s d).pending = s.pending ∧ (stopPoisoned s d).host = s.host ∧ (stopPoisoned s d).hbm = s.hbm := by
  unfold stopPoisoned
  (repeat' split) <;> simp

@[simp] theorem readSide_outer (d : DmaDesc) (south : Bool) (denied : List Nat) (ups : List (Nat × StackUpset)) (n : Nat) (x : Side) :
    (readSide s d south denied ups n x).2.fuse = s.fuse ∧ (readSide s d south denied ups n x).2.pending = s.pending ∧ (readSide s d south denied ups n x).2.host = s.host := by
  cases x with
  | host dva =>
    unfold readSide
    dsimp only
    split
    · rename_i t h; have := translate_outer (s := s) south (bakeRoot s d.slot) dva false denied; simp_all
    · rename_i t h; have := translate_outer (s := s) south (bakeRoot s d.slot) dva false denied; simp_all
    · rename_i t h; have := translate_outer (s := s) south (bakeRoot s d.slot) dva false denied; simp_all
  | pad c a => simp [readSide]
  | tens j v o => simp [readSide]
  | area b o => simp [readSide]

@[simp] theorem padWrite_outer (d : DmaDesc) (c : CoreId) (a : Nat) (w : U64 × Bool) :
    (padWrite s d c a w).fuse = s.fuse ∧ (padWrite s d c a w).pending = s.pending ∧ (padWrite s d c a w).host = s.host ∧ (padWrite s d c a w).hbm = s.hbm := by
  unfold padWrite
  (repeat' split) <;> simp

/-- The state a move of one word ends in. -/
def Moved.after : Moved → State
  | .done s => s
  | .fault _ _ s => s
  | .stop s => s

theorem writeSide_outer (d : DmaDesc) (south : Bool) (denied : List Nat) (x : Side) (w : U64 × Bool) :
    (writeSide s d south denied x w).after.fuse = s.fuse ∧ (writeSide s d south denied x w).after.pending = s.pending := by
  cases x with
  | host dva =>
    unfold writeSide
    dsimp only
    have := translate_outer (s := s) south (bakeRoot s d.slot) dva true denied
    repeat' split
    all_goals simp_all [Moved.after]
  | pad c a => simp [writeSide, Moved.after]
  | tens j v o => simp [writeSide, Moved.after]
  | area b o => simp [writeSide, Moved.after]

theorem moveWord_outer (d : DmaDesc) (denied : List Nat) (ups : List (Nat × StackUpset)) (n : Nat) :
    (moveWord s d denied ups n).after.fuse = s.fuse ∧ (moveWord s d denied ups n).after.pending = s.pending := by
  have core : ∀ (t : State) (a b : Bool) (x y : Side), t.fuse = s.fuse → t.pending = s.pending →
      (match readSide t d a denied ups (n / 8) x with
        | (.error e, u) => Moved.fault e.1 e.2 u
        | (.ok w, u) => writeSide u d b denied y w).after.fuse = s.fuse ∧
      (match readSide t d a denied ups (n / 8) x with
        | (.error e, u) => Moved.fault e.1 e.2 u
        | (.ok w, u) => writeSide u d b denied y w).after.pending = s.pending := by
    intro t a b x y h1 h2
    have hr := readSide_outer (s := t) d a denied ups (n / 8) x
    split
    · rename_i e u he
      rw [he] at hr
      exact ⟨hr.1.trans h1, hr.2.1.trans h2⟩
    · rename_i w u he
      rw [he] at hr
      have hw := writeSide_outer (s := u) d b denied y w
      exact ⟨hw.1.trans (hr.1.trans h1), hw.2.trans (hr.2.1.trans h2)⟩
  unfold moveWord
  dsimp only
  split
  · rename_i t h
    refine core t _ _ _ _ ?_ ?_
    all_goals
      split at h
      · rename_i dva _
        have ht := translate_outer (s := s) (southSide s ((nth (Side.area 0 0) d.src (n / max 8 d.bytes)).plus (n % max 8 d.bytes)) || southSide s ((nth (Side.area 0 0) d.dst (n / max 8 d.bytes)).plus (n % max 8 d.bytes))) (bakeRoot s d.slot) dva true denied
        split at h
        · cases h
        · rename_i p u hp
          rw [hp] at ht
          injection h with h
          subst h
          first | exact ht.1 | exact ht.2.1
      · cases h; rfl
  · rename_i m h
    split at h
    · rename_i dva _
      have ht := translate_outer (s := s) (southSide s ((nth (Side.area 0 0) d.src (n / max 8 d.bytes)).plus (n % max 8 d.bytes)) || southSide s ((nth (Side.area 0 0) d.dst (n / max 8 d.bytes)).plus (n % max 8 d.bytes))) (bakeRoot s d.slot) dva true denied
      split
      · rename_i c u hp
        rw [hp] at ht
        exact ⟨ht.1, ht.2.1⟩
      · rename_i p u hp
        exact absurd (by rw [hp]) (h u)
    · exact absurd rfl (h s)

theorem moveGo_outer (denied : List Nat) (ups : List (Nat × StackUpset)) : ∀ (f : Nat) (s : State) (d : DmaDesc),
    (moveGo f s d denied ups).1.fuse = s.fuse ∧ (moveGo f s d denied ups).1.pending = s.pending
  | 0, s, d => ⟨rfl, rfl⟩
  | f + 1, s, d => by
    unfold moveGo
    split
    · exact ⟨rfl, rfl⟩
    · have h := moveWord_outer (s := s) d denied ups d.moved
      split
      · rename_i t ht
        rw [ht] at h
        have ih := moveGo_outer denied ups f t { d with moved := d.moved + 8 }
        exact ⟨ih.1.trans h.1, ih.2.trans h.2⟩
      · rename_i a c t ht
        rw [ht] at h
        exact h
      · rename_i t ht
        rw [ht] at h
        exact h

@[simp] theorem DmaDesc_run_outer (d : DmaDesc) (denied : List Nat) (ups : List (Nat × StackUpset)) :
    (DmaDesc.run s d denied ups).1.fuse = s.fuse ∧ (DmaDesc.run s d denied ups).1.pending = s.pending := by
  unfold DmaDesc.run
  exact moveGo_outer ..

@[simp] theorem advanceDma_outer (d : DmaDesc) (denied : List Nat) (ups : List (Nat × StackUpset)) :
    (advanceDma s d denied ups).1.fuse = s.fuse ∧ (advanceDma s d denied ups).1.pending = s.pending := by
  unfold advanceDma
  (repeat' split) <;> simp

@[simp] theorem State_modDmas_outer (f : List DmaDesc → List DmaDesc) :
    (State.modDmas s f).fuse = s.fuse ∧ (State.modDmas s f).pending = s.pending ∧ (State.modDmas s f).host = s.host ∧ (State.modDmas s f).hbm = s.hbm := by
  unfold State.modDmas
  (repeat' split) <;> simp

@[simp] theorem putDma_outer (d : DmaDesc) :
    (putDma s d).fuse = s.fuse ∧ (putDma s d).pending = s.pending ∧ (putDma s d).host = s.host ∧ (putDma s d).hbm = s.hbm := by
  unfold putDma
  (repeat' split) <;> simp

@[simp] theorem requestDma_outer (use : DmaUse) (slot : Nat) (src : List Side) (dst : List Side) (bytes : Nat) :
    (requestDma s use slot src dst bytes).fuse = s.fuse ∧ (requestDma s use slot src dst bytes).pending = s.pending ∧ (requestDma s use slot src dst bytes).host = s.host ∧ (requestDma s use slot src dst bytes).hbm = s.hbm := by
  unfold requestDma
  (repeat' split) <;> simp

@[simp] theorem freeDma_outer (id : Nat) :
    (freeDma s id).fuse = s.fuse ∧ (freeDma s id).pending = s.pending ∧ (freeDma s id).host = s.host ∧ (freeDma s id).hbm = s.hbm := by
  unfold freeDma
  (repeat' split) <;> simp

@[simp] theorem dmaDone_outer (d : DmaDesc) :
    (dmaDone s d).fuse = s.fuse ∧ (dmaDone s d).pending = s.pending ∧ (dmaDone s d).host = s.host ∧ (dmaDone s d).hbm = s.hbm := by
  unfold dmaDone
  (repeat' split) <;> simp

@[simp] theorem afterFree_outer (d : DmaDesc) :
    (afterFree s d).fuse = s.fuse ∧ (afterFree s d).pending = s.pending ∧ (afterFree s d).hbm = s.hbm := by
  unfold afterFree
  (repeat' split) <;> simp

@[simp] theorem doDma_outer (c : CoreId) :
    (doDma s c).fuse = s.fuse ∧ (doDma s c).pending = s.pending ∧ (doDma s c).host = s.host ∧ (doDma s c).hbm = s.hbm := by
  unfold doDma
  simp
  (repeat' split) <;> simp_all

@[simp] theorem writeFault_outer (d : DmaDesc) (dva : Nat) (cause : Nat) :
    (writeFault s d dva cause).fuse = s.fuse ∧ (writeFault s d dva cause).pending = s.pending ∧ (writeFault s d dva cause).hbm = s.hbm := by
  unfold writeFault
  (repeat' split) <;> simp

@[simp] theorem countResolved_outer (slot : Nat) :
    (countResolved s slot).fuse = s.fuse ∧ (countResolved s slot).pending = s.pending ∧ (countResolved s slot).host = s.host ∧ (countResolved s slot).hbm = s.hbm := by
  unfold countResolved
  (repeat' split) <;> simp

@[simp] theorem dropPri_outer (d : DmaDesc) :
    (dropPri s d).fuse = s.fuse ∧ (dropPri s d).pending = s.pending ∧ (dropPri s d).host = s.host ∧ (dropPri s d).hbm = s.hbm := by
  unfold dropPri
  (repeat' split) <;> simp

@[simp] theorem retryDma_outer (d : DmaDesc) (atsDenied : List Nat) :
    (retryDma s d atsDenied).fuse = s.fuse ∧ (retryDma s d atsDenied).pending = s.pending := by
  unfold retryDma
  dsimp only
  split
  · split
    · rename_i a c u h
      have := moveWord_outer (s := dropPri s d) d atsDenied [] d.moved
      rw [h] at this
      simpa [Moved.after] using this
    · simp
  · repeat' split
    all_goals simp

@[simp] theorem retryAll_outer (pick : DmaDesc → Bool) :
    (retryAll s pick).fuse = s.fuse ∧ (retryAll s pick).pending = s.pending := by
  unfold retryAll
  refine ⟨?_, ?_⟩ <;> refine foldl_keeps _ (fun u x => ?_) _ _ <;> split <;> simp

/-! ### Areas -/

@[simp] theorem copyRead_outer (b : Nat) (x : Side) :
    (copyRead s b x).2.fuse = s.fuse ∧ (copyRead s b x).2.pending = s.pending ∧ (copyRead s b x).2.host = s.host := by
  unfold copyRead
  (repeat' split) <;> simp

@[simp] theorem copyWrite_outer (b : Nat) (x : Side) (w : U64 × Bool) :
    (copyWrite s b x w).fuse = s.fuse ∧ (copyWrite s b x w).pending = s.pending ∧ (copyWrite s b x w).host = s.host := by
  unfold copyWrite
  (repeat' split) <;> simp

@[simp] theorem copyBytes_outer (b : Nat) (n : Nat) (src : Nat → Side) (dst : Nat → Side) :
    (copyBytes s b n src dst).fuse = s.fuse ∧ (copyBytes s b n src dst).pending = s.pending ∧ (copyBytes s b n src dst).host = s.host := by
  unfold copyBytes
  (repeat' split) <;> simp

@[simp] theorem readGo_outer (b : Nat) (side : Nat → Side) (n : Nat) :
    (readGo b side s n).2.fuse = s.fuse ∧ (readGo b side s n).2.pending = s.pending ∧ (readGo b side s n).2.host = s.host := by
  unfold readGo
  refine ⟨?_, ?_, ?_⟩
  · exact foldl_keeps (fun a : List (U64 × Bool) × State => a.2.fuse) (fun u x => by simp) _ _
  · exact foldl_keeps (fun a : List (U64 × Bool) × State => a.2.pending) (fun u x => by simp) _ _
  · exact foldl_keeps (fun a : List (U64 × Bool) × State => a.2.host) (fun u x => by simp) _ _

@[simp] theorem viewWords_outer (b j : Nat) (next : Bool) :
    (viewWords s b j next).2.fuse = s.fuse ∧ (viewWords s b j next).2.pending = s.pending ∧ (viewWords s b j next).2.host = s.host := by
  unfold viewWords
  simp

@[simp] theorem requestWhole_outer (use : DmaUse) (b : Nat) (n : Nat) (src : Side) (dst : Side) :
    (requestWhole s use b n src dst).fuse = s.fuse ∧ (requestWhole s use b n src dst).pending = s.pending ∧ (requestWhole s use b n src dst).host = s.host ∧ (requestWhole s use b n src dst).hbm = s.hbm := by
  unfold requestWhole
  (repeat' split) <;> simp

/-! ### Moves -/

@[simp] theorem doSend_outer (c : CoreId) :
    (doSend s c).fuse = s.fuse ∧ (doSend s c).pending = s.pending ∧ (doSend s c).host = s.host ∧ (doSend s c).hbm = s.hbm := by
  unfold doSend
  (repeat' split) <;> simp

@[simp] theorem carrySend_outer (c : CoreId) (slot : Nat) (ent : Nat) :
    (carrySend s c slot ent).fuse = s.fuse ∧ (carrySend s c slot ent).pending = s.pending ∧ (carrySend s c slot ent).host = s.host := by
  unfold carrySend
  (repeat' split) <;> simp

@[simp] theorem sendOrHold_outer (c : CoreId) :
    (sendOrHold s c).fuse = s.fuse ∧ (sendOrHold s c).pending = s.pending ∧ (sendOrHold s c).host = s.host := by
  unfold sendOrHold
  simp
  (repeat' split) <;> simp_all

@[simp] theorem doPut_outer (c : CoreId) :
    (doPut s c).fuse = s.fuse ∧ (doPut s c).pending = s.pending ∧ (doPut s c).host = s.host ∧ (doPut s c).hbm = s.hbm := by
  unfold doPut
  (repeat' split) <;> simp

@[simp] theorem sendCrumbs_outer (c : CoreId) (pick : Crumb → Bool) (d : Draught) :
    (sendCrumbs s c pick d).fuse = s.fuse ∧ (sendCrumbs s c pick d).pending = s.pending ∧ (sendCrumbs s c pick d).host = s.host ∧ (sendCrumbs s c pick d).hbm = s.hbm := by
  unfold sendCrumbs
  (repeat' split) <;> simp

@[simp] theorem dropDraught_outer (c : CoreId) :
    (dropDraught s c).fuse = s.fuse ∧ (dropDraught s c).pending = s.pending ∧ (dropDraught s c).host = s.host ∧ (dropDraught s c).hbm = s.hbm := by
  unfold dropDraught
  (repeat' split) <;> simp

@[simp] theorem takeCrumb_outer (c : CoreId) (r : Crumb) :
    (takeCrumb s c r).fuse = s.fuse ∧ (takeCrumb s c r).pending = s.pending ∧ (takeCrumb s c r).host = s.host ∧ (takeCrumb s c r).hbm = s.hbm := by
  unfold takeCrumb
  (repeat' split) <;> simp

/-! ### Arrays -/

@[simp] theorem raiseUpset_outer (c : CoreId) :
    (raiseUpset s c).fuse = s.fuse ∧ (raiseUpset s c).pending = s.pending ∧ (raiseUpset s c).host = s.host ∧ (raiseUpset s c).hbm = s.hbm := by
  unfold raiseUpset
  simp

@[simp] theorem drainOne_outer (c : CoreId) (n : Nat) (row : Nat) (ups : List AccUpset) :
    (drainOne s c n row ups).fuse = s.fuse ∧ (drainOne s c n row ups).pending = s.pending ∧ (drainOne s c n row ups).host = s.host ∧ (drainOne s c n row ups).hbm = s.hbm := by
  unfold drainOne
  dsimp only
  (repeat' split) <;> simp

/-! ### Scratchpad -/

@[simp] theorem scrubReport_outer (c : CoreId) (evs : List ReadEvent) :
    (scrubReport s c evs).fuse = s.fuse ∧ (scrubReport s c evs).pending = s.pending ∧ (scrubReport s c evs).host = s.host ∧ (scrubReport s c evs).hbm = s.hbm := by
  have k : ∀ {γ : Type} (p : State → γ) (_ : ∀ u i b v r x, p (raise u i b v r x) = p u), p (scrubReport s c evs) = p s := by
    intro γ p hp
    unfold scrubReport
    refine foldl_keeps p ?_ evs s
    rintro u (w | w)
    · exact hp ..
    · rfl
  exact ⟨k _ (by simp), k _ (by simp), k _ (by simp), k _ (by simp)⟩

@[simp] theorem bankCycle_outer (c : CoreId) (stale : BankReq → Bool) (reqs : List BankReq) :
    (bankCycle s c stale reqs).1.fuse = s.fuse ∧ (bankCycle s c stale reqs).1.pending = s.pending ∧ (bankCycle s c stale reqs).1.host = s.host ∧ (bankCycle s c stale reqs).1.hbm = s.hbm := by
  unfold bankCycle
  dsimp only
  refine ⟨?_, ?_, ?_, ?_⟩ <;> refine (foldl_keeps _ (fun u x => ?_) _ _).trans (by simp) <;> split <;> simp

@[simp] theorem writeBack_outer (c : CoreId) (poison : Bool) :
    (writeBack s c poison).fuse = s.fuse ∧ (writeBack s c poison).pending = s.pending ∧ (writeBack s c poison).host = s.host ∧ (writeBack s c poison).hbm = s.hbm := by
  unfold writeBack
  (repeat' split) <;> simp

@[simp] theorem scrub_outer (c : CoreId) (bank : Nat) (upset : Check) :
    (scrub s c bank upset).fuse = s.fuse ∧ (scrub s c bank upset).pending = s.pending ∧ (scrub s c bank upset).host = s.host ∧ (scrub s c bank upset).hbm = s.hbm := by
  unfold scrub
  dsimp only
  (repeat' split) <;> simp

/-! ### Steps -/

@[simp] theorem recipeFault_outer (c : CoreId) (r : Crumb) :
    (recipeFault s c r).fuse = s.fuse ∧ (recipeFault s c r).pending = s.pending ∧ (recipeFault s c r).host = s.host ∧ (recipeFault s c r).hbm = s.hbm := by
  unfold recipeFault
  (repeat' split) <;> simp

@[simp] theorem doSync_outer (c : CoreId) :
    (doSync s c).fuse = s.fuse ∧ (doSync s c).pending = s.pending ∧ (doSync s c).host = s.host ∧ (doSync s c).hbm = s.hbm := by
  unfold doSync
  (repeat' split) <;> simp

@[simp] theorem issueFence_outer (c : CoreId) (obj : Nat) :
    (issueFence s c obj).fuse = s.fuse ∧ (issueFence s c obj).pending = s.pending ∧ (issueFence s c obj).host = s.host ∧ (issueFence s c obj).hbm = s.hbm := by
  unfold issueFence
  (repeat' split) <;> simp

@[simp] theorem finish_outer (c : CoreId) (order : Nat) :
    (finish s c order).fuse = s.fuse ∧ (finish s c order).pending = s.pending ∧ (finish s c order).host = s.host ∧ (finish s c order).hbm = s.hbm := by
  unfold finish
  repeat' split
  all_goals first | exact ⟨rfl, rfl, rfl, rfl⟩ | simp
  rename_i h
  exact fireSignals_outer h

/-! ### Vector -/

@[simp] theorem vecIssue_outer (c : CoreId) :
    (vecIssue s c).fuse = s.fuse ∧ (vecIssue s c).pending = s.pending ∧ (vecIssue s c).host = s.host ∧ (vecIssue s c).hbm = s.hbm := by
  unfold vecIssue
  (repeat' split) <;> simp

end Sys2Proof.Machine
end

