-- ==== Sys2Proof/Laws/OuterFabric.lean ====
section
/-! SUPPORT. The same for the shared operations of the Flue, the clocks and rails, and the bakes. -/

namespace Sys2Proof.Machine

variable {s : State}

/-! ### FlueOps -/

@[simp] theorem addMoving_outer (l : List Moving) :
    (addMoving s l).fuse = s.fuse ∧ (addMoving s l).pending = s.pending ∧ (addMoving s l).host = s.host ∧ (addMoving s l).hbm = s.hbm := by
  unfold addMoving
  (repeat' split) <;> simp

@[simp] theorem countSwitch_outer (h : Schedule) :
    (countSwitch s h).fuse = s.fuse ∧ (countSwitch s h).pending = s.pending ∧ (countSwitch s h).host = s.host ∧ (countSwitch s h).hbm = s.hbm := by
  unfold countSwitch
  (repeat' split) <;> simp

@[simp] theorem switchSchedule_outer (p : Site) :
    (switchSchedule s p).fuse = s.fuse ∧ (switchSchedule s p).pending = s.pending ∧ (switchSchedule s p).host = s.host ∧ (switchSchedule s p).hbm = s.hbm := by
  unfold switchSchedule
  simp
  (repeat' split) <;> simp_all

@[simp] theorem takeSwitch_outer (p : Site) :
    (takeSwitch s p).fuse = s.fuse ∧ (takeSwitch s p).pending = s.pending ∧ (takeSwitch s p).host = s.host ∧ (takeSwitch s p).hbm = s.hbm := by
  unfold takeSwitch
  (repeat' split) <;> simp

@[simp] theorem applySwitches_outer  :
    (applySwitches s).fuse = s.fuse ∧ (applySwitches s).pending = s.pending ∧ (applySwitches s).host = s.host ∧ (applySwitches s).hbm = s.hbm := by
  unfold applySwitches
  simp

@[simp] theorem endCrossings_outer  :
    (endCrossings s).fuse = s.fuse ∧ (endCrossings s).pending = s.pending ∧ (endCrossings s).host = s.host ∧ (endCrossings s).hbm = s.hbm := by
  unfold endCrossings
  dsimp only
  refine ⟨?_, ?_, ?_, ?_⟩ <;> (refine (foldl_keeps _ (fun u x => ?_) _ _).trans ?_ <;> (repeat' split) <;> simp)

@[simp] theorem countIsland_outer (p : Site) (place : Nat) :
    (countIsland s p place).fuse = s.fuse ∧ (countIsland s p place).pending = s.pending ∧ (countIsland s p place).host = s.host ∧ (countIsland s p place).hbm = s.hbm := by
  unfold countIsland
  (repeat' split) <;> simp

@[simp] theorem raiseIsland_outer (p : Site) (index : Nat) (sev : Nat) (arg : Nat) :
    (raiseIsland s p index sev arg).fuse = s.fuse ∧ (raiseIsland s p index sev arg).pending = s.pending ∧ (raiseIsland s p index sev arg).host = s.host ∧ (raiseIsland s p index sev arg).hbm = s.hbm := by
  unfold raiseIsland
  (repeat' split) <;> simp

@[simp] theorem triggerAll_outer (row : Nat) (pick : Bake → Bool) :
    (triggerAll s row pick).fuse = s.fuse ∧ (triggerAll s row pick).pending = s.pending ∧ (triggerAll s row pick).host = s.host ∧ (triggerAll s row pick).hbm = s.hbm := by
  unfold triggerAll
  (repeat' split) <;> simp

@[simp] theorem loseDirection_outer (p : Site) (d : Dir) :
    (loseDirection s p d).fuse = s.fuse ∧ (loseDirection s p d).pending = s.pending ∧ (loseDirection s p d).host = s.host ∧ (loseDirection s p d).hbm = s.hbm := by
  unfold loseDirection
  (repeat' split) <;> simp

@[simp] theorem crcError_outer (p : Site) (d : Dir) :
    (crcError s p d).fuse = s.fuse ∧ (crcError s p d).pending = s.pending ∧ (crcError s p d).host = s.host ∧ (crcError s p d).hbm = s.hbm := by
  unfold crcError
  (repeat' split) <;> simp

@[simp] theorem arriveFlit_outer (bad : List (Site × Dir)) (m : Moving) :
    (arriveFlit bad s m).fuse = s.fuse ∧ (arriveFlit bad s m).pending = s.pending ∧ (arriveFlit bad s m).host = s.host ∧ (arriveFlit bad s m).hbm = s.hbm := by
  unfold arriveFlit
  (repeat' split) <;> simp

@[simp] theorem arrivals_outer (bad : List (Site × Dir))  :
    (arrivals bad s).fuse = s.fuse ∧ (arrivals bad s).pending = s.pending ∧ (arrivals bad s).host = s.host ∧ (arrivals bad s).hbm = s.hbm := by
  unfold arrivals
  dsimp only
  refine ⟨?_, ?_, ?_, ?_⟩ <;> (refine (foldl_keeps _ (fun u x => ?_) _ _).trans ?_ <;> (repeat' split) <;> simp)

@[simp] theorem injectSlot_outer (p : Site) :
    (injectSlot s p).fuse = s.fuse ∧ (injectSlot s p).pending = s.pending ∧ (injectSlot s p).host = s.host ∧ (injectSlot s p).hbm = s.hbm := by
  unfold injectSlot
  simp
  (repeat' split) <;> simp_all

@[simp] theorem enterRouter_outer (bad : List (Site × Dir)) (h : Held) (q : Site) (inp : Dir) (path : List Dir) :
    (enterRouter bad s h q inp path).1.fuse = s.fuse ∧ (enterRouter bad s h q inp path).1.pending = s.pending ∧ (enterRouter bad s h q inp path).1.host = s.host ∧ (enterRouter bad s h q inp path).1.hbm = s.hbm := by
  unfold enterRouter
  (repeat' split) <;> simp

@[simp] theorem deliverRing_outer (d : Draught) :
    (deliverRing s d).fuse = s.fuse ∧ (deliverRing s d).pending = s.pending ∧ (deliverRing s d).host = s.host ∧ (deliverRing s d).hbm = s.hbm := by
  unfold deliverRing
  (repeat' split) <;> simp

@[simp] theorem hop_outer (bad : List (Site × Dir)) (h : Held) :
    (hop bad s h).1.fuse = s.fuse ∧ (hop bad s h).1.pending = s.pending ∧ (hop bad s h).1.host = s.host ∧ (hop bad s h).1.hbm = s.hbm := by
  unfold hop
  dsimp only
  (repeat' split) <;> simp

@[simp] theorem hops_outer (bad : List (Site × Dir))  :
    (hops bad s).fuse = s.fuse ∧ (hops bad s).pending = s.pending ∧ (hops bad s).host = s.host ∧ (hops bad s).hbm = s.hbm := by
  have k : ∀ {γ : Type} (p : State → γ) (_ : ∀ u h, p (hop bad u h).1 = p u),
      p (s.flue.held.foldl (fun (a : State × List Held) h => if hopDue a.1 h then let q := hop bad a.1 h; (q.1, a.2 ++ q.2) else (a.1, a.2 ++ [h])) (s, [])).1 = p s := by
    intro γ p hp
    refine foldl_keeps (fun a : State × List Held => p a.1) (fun u x => ?_) _ _
    dsimp only
    split
    · exact hp ..
    · rfl
  unfold hops
  exact ⟨k (·.fuse) (fun u h => (hop_outer ..).1), k (·.pending) (fun u h => (hop_outer ..).2.1), k (·.host) (fun u h => (hop_outer ..).2.2.1),
    k (·.hbm) (fun u h => (hop_outer ..).2.2.2)⟩

@[simp] theorem intoIngress_outer (c : CoreId) (d : Draught) :
    (intoIngress s c d).fuse = s.fuse ∧ (intoIngress s c d).pending = s.pending ∧ (intoIngress s c d).host = s.host ∧ (intoIngress s c d).hbm = s.hbm := by
  unfold intoIngress
  (repeat' split) <;> simp

@[simp] theorem ejections_outer  :
    (ejections s).fuse = s.fuse ∧ (ejections s).pending = s.pending ∧ (ejections s).host = s.host ∧ (ejections s).hbm = s.hbm := by
  unfold ejections
  dsimp only
  refine ⟨?_, ?_, ?_, ?_⟩ <;> (refine (foldl_keeps _ (fun u x => ?_) _ _).trans ?_ <;> (repeat' split) <;> simp)

@[simp] theorem injectDraught_outer (p : Site) (rot : Nat) (turn : Nat) :
    (injectDraught s p rot turn).fuse = s.fuse ∧ (injectDraught s p rot turn).pending = s.pending ∧ (injectDraught s p rot turn).host = s.host ∧ (injectDraught s p rot turn).hbm = s.hbm := by
  unfold injectDraught
  (repeat' split) <;> simp

@[simp] theorem injectSelf_outer (p : Site) :
    (injectSelf s p).fuse = s.fuse ∧ (injectSelf s p).pending = s.pending ∧ (injectSelf s p).host = s.host ∧ (injectSelf s p).hbm = s.hbm := by
  unfold injectSelf
  (repeat' split) <;> simp

@[simp] theorem injectRing_outer (m : Nat) (turn : Nat) :
    (injectRing s m turn).fuse = s.fuse ∧ (injectRing s m turn).pending = s.pending ∧ (injectRing s m turn).host = s.host ∧ (injectRing s m turn).hbm = s.hbm := by
  unfold injectRing
  dsimp only
  (repeat' split) <;> simp

@[simp] theorem draughtTurns_outer  :
    (draughtTurns s).fuse = s.fuse ∧ (draughtTurns s).pending = s.pending ∧ (draughtTurns s).host = s.host ∧ (draughtTurns s).hbm = s.hbm := by
  unfold draughtTurns
  dsimp only
  split
  · simp
  · refine ⟨?_, ?_, ?_, ?_⟩ <;> (refine (foldl_keeps _ (fun u x => ?_) _ _).trans ?_ <;> (repeat' split) <;> simp)

@[simp] theorem highWater_outer  :
    (highWater s).fuse = s.fuse ∧ (highWater s).pending = s.pending ∧ (highWater s).host = s.host ∧ (highWater s).hbm = s.hbm := by
  unfold highWater
  dsimp only
  refine ⟨?_, ?_, ?_, ?_⟩ <;> (refine (foldl_keeps _ (fun u x => ?_) _ _).trans ?_ <;> (repeat' split) <;> simp)

@[simp] theorem applyStops_outer  :
    (applyStops s).fuse = s.fuse ∧ (applyStops s).pending = s.pending ∧ (applyStops s).host = s.host ∧ (applyStops s).hbm = s.hbm := by
  unfold applyStops
  (repeat' split) <;> simp

@[simp] theorem applyStreamStops_outer  :
    (applyStreamStops s).fuse = s.fuse ∧ (applyStreamStops s).pending = s.pending ∧ (applyStreamStops s).host = s.host ∧ (applyStreamStops s).hbm = s.hbm := by
  unfold applyStreamStops
  dsimp only
  refine ⟨?_, ?_, ?_, ?_⟩ <;> (refine (foldl_keeps _ (fun u x => ?_) _ _).trans ?_ <;> (repeat' split) <;> simp)

@[simp] theorem countBelow_outer  :
    (countBelow s).fuse = s.fuse ∧ (countBelow s).pending = s.pending ∧ (countBelow s).host = s.host ∧ (countBelow s).hbm = s.hbm := by
  unfold countBelow
  (repeat' split) <;> simp

@[simp] theorem countTime_outer  :
    (countTime s).fuse = s.fuse ∧ (countTime s).pending = s.pending ∧ (countTime s).host = s.host ∧ (countTime s).hbm = s.hbm := by
  unfold countTime
  (repeat' split) <;> simp

@[simp] theorem setStop_outer (n : Nat) (b : Bool) :
    (setStop s n b).fuse = s.fuse ∧ (setStop s n b).pending = s.pending ∧ (setStop s n b).host = s.host ∧ (setStop s n b).hbm = s.hbm := by
  unfold setStop
  (repeat' split) <;> simp

@[simp] theorem endStops_outer  :
    (endStops s).fuse = s.fuse ∧ (endStops s).pending = s.pending ∧ (endStops s).host = s.host ∧ (endStops s).hbm = s.hbm := by
  unfold endStops
  refine ⟨?_, ?_, ?_, ?_⟩ <;> (refine foldl_keeps _ (fun u x => ?_) _ _; (repeat' split) <;> simp)

theorem injectSlots_outer (l : List Nat) : (l.foldl injectSlot s).fuse = s.fuse ∧ (l.foldl injectSlot s).pending = s.pending ∧
    (l.foldl injectSlot s).host = s.host ∧ (l.foldl injectSlot s).hbm = s.hbm := by
  refine ⟨?_, ?_, ?_, ?_⟩ <;> exact foldl_keeps _ (fun u x => by simp) l s

theorem injectSelves_outer (l : List Nat) : (l.foldl injectSelf s).fuse = s.fuse ∧ (l.foldl injectSelf s).pending = s.pending ∧
    (l.foldl injectSelf s).host = s.host ∧ (l.foldl injectSelf s).hbm = s.hbm := by
  refine ⟨?_, ?_, ?_, ?_⟩ <;> exact foldl_keeps _ (fun u x => by simp) l s

@[simp] theorem flueCycle_outer (bad : List (Site × Dir)) : (flueCycle bad s).fuse = s.fuse ∧ (flueCycle bad s).pending = s.pending ∧
    (flueCycle bad s).host = s.host ∧ (flueCycle bad s).hbm = s.hbm := by
  refine ⟨?_, ?_, ?_, ?_⟩ <;>
    simp only [flueCycle, endStops_outer, countTime_outer, countBelow_outer, highWater_outer, draughtTurns_outer, injectSelves_outer,
      injectSlots_outer, ejections_outer, hops_outer, arrivals_outer, endCrossings_outer, applySwitches_outer, applyStreamStops_outer,
      applyStops_outer]

/-! ### Clocks -/

@[simp] theorem raiseMesh_outer (index : Nat) (sub : Nat) (sev : Nat) (arg : Nat) :
    (raiseMesh s index sub sev arg).fuse = s.fuse ∧ (raiseMesh s index sub sev arg).pending = s.pending ∧ (raiseMesh s index sub sev arg).host = s.host ∧ (raiseMesh s index sub sev arg).hbm = s.hbm := by
  unfold raiseMesh
  (repeat' split) <;> simp

@[simp] theorem failOscillator_outer (p : Site) :
    (failOscillator s p).fuse = s.fuse ∧ (failOscillator s p).pending = s.pending ∧ (failOscillator s p).host = s.host ∧ (failOscillator s p).hbm = s.hbm := by
  unfold failOscillator
  (repeat' split) <;> simp

@[simp] theorem regovern_outer (n : Nat) :
    (regovern s n).fuse = s.fuse ∧ (regovern s n).pending = s.pending ∧ (regovern s n).host = s.host ∧ (regovern s n).hbm = s.hbm := by
  unfold regovern
  (repeat' split) <;> simp

@[simp] theorem withHearth_outer (n : Nat) (f : Hearth → Hearth) :
    (withHearth s n f).fuse = s.fuse ∧ (withHearth s n f).pending = s.pending ∧ (withHearth s n f).host = s.host ∧ (withHearth s n f).hbm = s.hbm := by
  unfold withHearth
  (repeat' split) <;> simp

@[simp] theorem beginStop_outer (n : Nat) (f : Nat) :
    (beginStop s n f).fuse = s.fuse ∧ (beginStop s n f).pending = s.pending ∧ (beginStop s n f).host = s.host ∧ (beginStop s n f).hbm = s.hbm := by
  unfold beginStop
  (repeat' split) <;> simp

@[simp] theorem stretch_outer (n : Nat) (r : Nat) (on : Bool) :
    (stretch s n r on).fuse = s.fuse ∧ (stretch s n r on).pending = s.pending ∧ (stretch s n r on).host = s.host ∧ (stretch s n r on).hbm = s.hbm := by
  unfold stretch
  (repeat' split) <;> simp

/-! ### Flue -/

@[simp] theorem seqError_outer (c : CoreId) :
    (seqError s c).fuse = s.fuse ∧ (seqError s c).pending = s.pending ∧ (seqError s c).host = s.host ∧ (seqError s c).hbm = s.hbm := by
  unfold seqError
  (repeat' split) <;> simp

@[simp] theorem setRecv_outer (c : CoreId) (n : Nat) (r : RecvEntry) :
    (setRecv s c n r).fuse = s.fuse ∧ (setRecv s c n r).pending = s.pending ∧ (setRecv s c n r).host = s.host ∧ (setRecv s c n r).hbm = s.hbm := by
  unfold setRecv
  (repeat' split) <;> simp

@[simp] theorem streamDone_outer (c : CoreId) (n : Nat) :
    (streamDone s c n).fuse = s.fuse ∧ (streamDone s c n).pending = s.pending ∧ (streamDone s c n).host = s.host ∧ (streamDone s c n).hbm = s.hbm := by
  unfold streamDone
  (repeat' split) <;> simp

@[simp] theorem takeFlit_outer (c : CoreId) (n : Nat) (r : RecvEntry) (w : Nat) (again : Bool) (f : Flit) :
    (takeFlit s c n r w again f).fuse = s.fuse ∧ (takeFlit s c n r w again f).pending = s.pending ∧ (takeFlit s c n r w again f).host = s.host ∧ (takeFlit s c n r w again f).hbm = s.hbm := by
  unfold takeFlit
  (repeat' split) <;> simp

@[simp] theorem streamFlit_outer (c : CoreId) (f : Flit) :
    (streamFlit s c f).fuse = s.fuse ∧ (streamFlit s c f).pending = s.pending ∧ (streamFlit s c f).host = s.host ∧ (streamFlit s c f).hbm = s.hbm := by
  unfold streamFlit
  simp
  (repeat' split) <;> simp_all

@[simp] theorem commitSchedule_outer (p : Site) (h : Schedule) :
    (commitSchedule s p h).fuse = s.fuse ∧ (commitSchedule s p h).pending = s.pending ∧ (commitSchedule s p h).host = s.host ∧ (commitSchedule s p h).hbm = s.hbm := by
  unfold commitSchedule
  (repeat' split) <;> simp

@[simp] theorem pauseAll_outer  :
    (pauseAll s).fuse = s.fuse ∧ (pauseAll s).pending = s.pending ∧ (pauseAll s).host = s.host ∧ (pauseAll s).hbm = s.hbm := by
  unfold pauseAll
  (repeat' split) <;> simp

@[simp] theorem compileDraught_outer (plan : DraughtPlan) :
    (compileDraught s plan).fuse = s.fuse ∧ (compileDraught s plan).pending = s.pending ∧ (compileDraught s plan).host = s.host ∧ (compileDraught s plan).hbm = s.hbm := by
  unfold compileDraught
  (repeat' split) <;> simp

/-! ### BakeOps -/

@[simp] theorem newBaseline_outer (b : Nat) :
    (newBaseline s b).fuse = s.fuse ∧ (newBaseline s b).pending = s.pending ∧ (newBaseline s b).host = s.host ∧ (newBaseline s b).hbm = s.hbm := by
  unfold newBaseline
  (repeat' split) <;> simp

@[simp] theorem takeGains_outer (b : Nat) (committed : Bool) :
    (takeGains s b committed).fuse = s.fuse ∧ (takeGains s b committed).pending = s.pending ∧ (takeGains s b committed).host = s.host ∧ (takeGains s b committed).hbm = s.hbm := by
  unfold takeGains
  (repeat' split) <;> simp

@[simp] theorem clearAmax_outer (b : Nat) :
    (clearAmax s b).fuse = s.fuse ∧ (clearAmax s b).pending = s.pending ∧ (clearAmax s b).host = s.host ∧ (clearAmax s b).hbm = s.hbm := by
  unfold clearAmax
  (repeat' split) <;> simp

@[simp] theorem delayedScaling_outer (b : Nat) :
    (delayedScaling s b).fuse = s.fuse ∧ (delayedScaling s b).pending = s.pending ∧ (delayedScaling s b).host = s.host ∧ (delayedScaling s b).hbm = s.hbm := by
  unfold delayedScaling
  dsimp only
  refine ⟨?_, ?_, ?_, ?_⟩ <;> (simp only [clearAmax_outer]; refine (foldl_keeps _ (fun u x => ?_) _ _); split <;> simp)

@[simp] theorem putSlots_outer (b : Nat) (f : Nat → CoreId → W256 → Option StatSlot) :
    (putSlots s b f).fuse = s.fuse ∧ (putSlots s b f).pending = s.pending ∧ (putSlots s b f).host = s.host ∧ (putSlots s b f).hbm = s.hbm := by
  unfold putSlots
  refine ⟨?_, ?_, ?_, ?_⟩ <;> refine foldl_keeps _ (fun u x => ?_) _ _ <;> refine foldl_keeps _ (fun v y => ?_) _ _ <;> split <;> simp

@[simp] theorem refillSlots_outer (b : Nat) (l : List CoreId) :
    (refillSlots s b l).fuse = s.fuse ∧ (refillSlots s b l).pending = s.pending ∧ (refillSlots s b l).host = s.host ∧ (refillSlots s b l).hbm = s.hbm := by
  unfold refillSlots
  simp

@[simp] theorem clearSlots_outer (b : Nat) :
    (clearSlots s b).fuse = s.fuse ∧ (clearSlots s b).pending = s.pending ∧ (clearSlots s b).host = s.host ∧ (clearSlots s b).hbm = s.hbm := by
  unfold clearSlots
  refine ⟨?_, ?_, ?_, ?_⟩ <;> exact foldl_keeps _ (fun u x => foldl_keeps _ (fun v y => by simp) _ _) _ _

@[simp] theorem clearTable_outer (b : Nat) :
    (clearTable s b).fuse = s.fuse ∧ (clearTable s b).pending = s.pending ∧ (clearTable s b).host = s.host ∧ (clearTable s b).hbm = s.hbm := by
  unfold clearTable
  (repeat' split) <;> simp

@[simp] theorem writeBounds_outer (b : Nat) :
    (writeBounds s b).fuse = s.fuse ∧ (writeBounds s b).pending = s.pending ∧ (writeBounds s b).host = s.host ∧ (writeBounds s b).hbm = s.hbm := by
  unfold writeBounds
  (repeat' split) <;> simp

@[simp] theorem writeEpoch_outer (t : Nat) (e : U32) :
    (writeEpoch s t e).fuse = s.fuse ∧ (writeEpoch s t e).pending = s.pending ∧ (writeEpoch s t e).host = s.host ∧ (writeEpoch s t e).hbm = s.hbm := by
  unfold writeEpoch
  dsimp only
  refine ⟨?_, ?_, ?_, ?_⟩ <;> (refine (foldl_keeps _ (fun u x => ?_) _ _).trans ?_ <;> (repeat' split) <;> simp)

@[simp] theorem dropCrumbs_outer (b : Nat) :
    (dropCrumbs s b).fuse = s.fuse ∧ (dropCrumbs s b).pending = s.pending ∧ (dropCrumbs s b).host = s.host ∧ (dropCrumbs s b).hbm = s.hbm := by
  unfold dropCrumbs
  (repeat' split) <;> simp

@[simp] theorem dropDmas_outer (b : Nat) :
    (dropDmas s b).fuse = s.fuse ∧ (dropDmas s b).pending = s.pending ∧ (dropDmas s b).host = s.host ∧ (dropDmas s b).hbm = s.hbm := by
  unfold dropDmas
  (repeat' split) <;> simp

@[simp] theorem fenceLinks_outer (b : Nat) :
    (fenceLinks s b).fuse = s.fuse ∧ (fenceLinks s b).pending = s.pending ∧ (fenceLinks s b).host = s.host ∧ (fenceLinks s b).hbm = s.hbm := by
  unfold fenceLinks
  (repeat' split) <;> simp

@[simp] theorem abandon_outer (b : Nat) :
    (abandon s b).fuse = s.fuse ∧ (abandon s b).pending = s.pending ∧ (abandon s b).host = s.host ∧ (abandon s b).hbm = s.hbm := by
  unfold abandon
  simp [takeEpoch_outer]

@[simp] theorem fence_outer (b : Nat) (reason : Nat) (counts : Bool) :
    (fence s b reason counts).fuse = s.fuse ∧ (fence s b reason counts).pending = s.pending ∧ (fence s b reason counts).hbm = s.hbm := by
  unfold fence
  simp
  (repeat' split) <;> simp_all

@[simp] theorem gather_outer (b : Nat) (refill : Bool) :
    (gather s b refill).2.fuse = s.fuse ∧ (gather s b refill).2.pending = s.pending ∧ (gather s b refill).2.host = s.host := by
  unfold gather
  dsimp only
  refine ⟨?_, ?_, ?_⟩
  · exact foldl_keeps (fun a : List (Nat × Bool × List (U64 × Bool)) × State => a.2.fuse) (fun u x => by simp) _ _
  · exact foldl_keeps (fun a : List (Nat × Bool × List (U64 × Bool)) × State => a.2.pending) (fun u x => by simp) _ _
  · exact foldl_keeps (fun a : List (Nat × Bool × List (U64 × Bool)) × State => a.2.host) (fun u x => by simp) _ _

@[simp] theorem scatter_outer (b : Nat) (l : List (Nat × Bool × List (U64 × Bool))) :
    (scatter s b l).fuse = s.fuse ∧ (scatter s b l).pending = s.pending ∧ (scatter s b l).host = s.host := by
  unfold scatter
  (repeat' split) <;> simp

@[simp] theorem copyView_outer (b : Nat) (j : Nat) (src : Nat → Side) (dst : Nat → Side) :
    (copyView s b j src dst).fuse = s.fuse ∧ (copyView s b j src dst).pending = s.pending ∧ (copyView s b j src dst).host = s.host := by
  unfold copyView
  (repeat' split) <;> simp

@[simp] theorem scatterSlots_outer (b : Nat) (l : List (Nat × Nat × StatSlot)) :
    (scatterSlots s b l).fuse = s.fuse ∧ (scatterSlots s b l).pending = s.pending ∧ (scatterSlots s b l).host = s.host ∧ (scatterSlots s b l).hbm = s.hbm := by
  unfold scatterSlots
  (repeat' split) <;> simp

@[simp] theorem putSchedule_outer (t : Nat) (e : U32) (p : Placement) (ph : Nat) (c0 : Nat) (now : Bool) :
    (putSchedule s t e p ph c0 now).fuse = s.fuse ∧ (putSchedule s t e p ph c0 now).pending = s.pending ∧ (putSchedule s t e p ph c0 now).host = s.host ∧ (putSchedule s t e p ph c0 now).hbm = s.hbm := by
  unfold putSchedule
  (repeat' split) <;> simp

@[simp] theorem requestFills_outer (b : Nat) (pick : Nat → Bool) :
    (requestFills s b pick).fuse = s.fuse ∧ (requestFills s b pick).pending = s.pending ∧ (requestFills s b pick).host = s.host ∧ (requestFills s b pick).hbm = s.hbm := by
  unfold requestFills
  (repeat' split) <;> simp

@[simp] theorem install_outer (b : Nat) (p : Placement) :
    (install s b p).fuse = s.fuse ∧ (install s b p).pending = s.pending ∧ (install s b p).host = s.host ∧ (install s b p).hbm = s.hbm := by
  unfold install
  (repeat' split) <;> simp

@[simp] theorem beginFills_outer (b : Nat) (pick : W256 → Bool) :
    (beginFills s b pick).fuse = s.fuse ∧ (beginFills s b pick).pending = s.pending ∧ (beginFills s b pick).hbm = s.hbm := by
  unfold beginFills
  (repeat' split) <;> simp

@[simp] theorem cachePut_outer (d : BitVec 384) (n : Nat) (p : Placement) :
    (cachePut s d n p).fuse = s.fuse ∧ (cachePut s d n p).pending = s.pending ∧ (cachePut s d n p).host = s.host ∧ (cachePut s d n p).hbm = s.hbm := by
  unfold cachePut
  (repeat' split) <;> simp

@[simp] theorem settled_outer (b t maxph : Nat) (p : Placement) :
    (settled s b t maxph p).2.fuse = s.fuse ∧ (settled s b t maxph p).2.pending = s.pending ∧ (settled s b t maxph p).2.host = s.host ∧ (settled s b t maxph p).2.hbm = s.hbm := by
  unfold settled
  dsimp only
  split <;> simp

@[simp] theorem cachedPlace_outer (b maxph : Nat) (p : Placement) :
    (cachedPlace s b maxph p).2.fuse = s.fuse ∧ (cachedPlace s b maxph p).2.pending = s.pending ∧ (cachedPlace s b maxph p).2.host = s.host ∧ (cachedPlace s b maxph p).2.hbm = s.hbm := by
  unfold cachedPlace
  dsimp only
  split <;> simp

@[simp] theorem swapPhase_outer (b : Nat) (ph : Nat) (out : Bool) :
    (swapPhase s b ph out).fuse = s.fuse ∧ (swapPhase s b ph out).pending = s.pending ∧ (swapPhase s b ph out).host = s.host := by
  unfold swapPhase
  (repeat' split) <;> simp

@[simp] theorem deliverCarried_outer (b : Nat) (ph : Nat) :
    (deliverCarried s b ph).fuse = s.fuse ∧ (deliverCarried s b ph).pending = s.pending ∧ (deliverCarried s b ph).host = s.host ∧ (deliverCarried s b ph).hbm = s.hbm := by
  unfold deliverCarried
  (repeat' split) <;> simp

@[simp] theorem initShared_outer (b ph : Nat) :
    (initShared s b ph).fuse = s.fuse ∧ (initShared s b ph).pending = s.pending ∧ (initShared s b ph).host = s.host ∧ (initShared s b ph).hbm = s.hbm := by
  unfold initShared
  dsimp only
  refine ⟨?_, ?_, ?_, ?_⟩ <;> refine foldl_keeps _ (fun u x => ?_) _ _ <;> split <;> simp

@[simp] theorem changePhase_outer (b ph : Nat) :
    (changePhase s b ph).fuse = s.fuse ∧ (changePhase s b ph).pending = s.pending ∧ (changePhase s b ph).host = s.host := by
  unfold changePhase
  dsimp only
  (repeat' split) <;> simp

@[simp] theorem startDigest_outer (b : Nat) :
    (startDigest s b).fuse = s.fuse ∧ (startDigest s b).pending = s.pending ∧ (startDigest s b).host = s.host ∧ (startDigest s b).hbm = s.hbm := by
  unfold startDigest
  refine ⟨?_, ?_, ?_, ?_⟩ <;> refine foldl_keeps _ (fun u x => ?_) _ _ <;> split <;> simp

@[simp] theorem startCheck_outer (b : Nat) :
    (startCheck s b).fuse = s.fuse ∧ (startCheck s b).pending = s.pending ∧ (startCheck s b).host = s.host ∧ (startCheck s b).hbm = s.hbm := by
  unfold startCheck
  dsimp only
  split <;> simp

@[simp] theorem modBank_outer (b : Nat) (areaB : Bool) (f : Bank → Bank) :
    (modBank s b areaB f).fuse = s.fuse ∧ (modBank s b areaB f).pending = s.pending ∧ (modBank s b areaB f).host = s.host ∧ (modBank s b areaB f).hbm = s.hbm := by
  unfold modBank
  (repeat' split) <;> simp

@[simp] theorem startBank_outer (b : Nat) (areaB : Bool) :
    (startBank s b areaB).fuse = s.fuse ∧ (startBank s b areaB).pending = s.pending ∧ (startBank s b areaB).host = s.host ∧ (startBank s b areaB).hbm = s.hbm := by
  unfold startBank
  (repeat' split) <;> simp

/-! ### Bakes -/

@[simp] theorem endItems_outer (b : Nat) (pick : U32 → Bool) (status : U8) (detail : BitVec 128) :
    (endItems s b pick status detail).fuse = s.fuse ∧ (endItems s b pick status detail).pending = s.pending ∧ (endItems s b pick status detail).hbm = s.hbm := by
  unfold endItems
  (repeat' split) <;> simp

@[simp] theorem rejectLoad_outer (b : Nat) (r : Reject) :
    (rejectLoad s b r).fuse = s.fuse ∧ (rejectLoad s b r).pending = s.pending ∧ (rejectLoad s b r).hbm = s.hbm := by
  unfold rejectLoad
  (repeat' split) <;> simp

@[simp] theorem placeLoad_outer (b : Nat) (p : Placement) :
    (placeLoad s b p).fuse = s.fuse ∧ (placeLoad s b p).pending = s.pending ∧ (placeLoad s b p).hbm = s.hbm := by
  unfold placeLoad
  dsimp only
  split <;> simp [takeEpoch_outer]

@[simp] theorem moveBake_outer (b : Nat) (p : Placement) (refill : Bool) :
    (moveBake s b p refill).fuse = s.fuse ∧ (moveBake s b p refill).pending = s.pending ∧ (moveBake s b p refill).host = s.host := by
  unfold moveBake
  simp

@[simp] theorem pauseBake_outer (b : Nat) (reason : Nat) :
    (pauseBake s b reason).fuse = s.fuse ∧ (pauseBake s b reason).pending = s.pending ∧ (pauseBake s b reason).host = s.host ∧ (pauseBake s b reason).hbm = s.hbm := by
  unfold pauseBake
  (repeat' split) <;> simp

@[simp] theorem cannotPlace_outer (b row : Nat) :
    (cannotPlace s b row).fuse = s.fuse ∧ (cannotPlace s b row).pending = s.pending ∧ (cannotPlace s b row).hbm = s.hbm := by
  unfold cannotPlace
  dsimp only
  split <;> simp

@[simp] theorem placeAgain_outer (b : Nat) (p : Placement) :
    (placeAgain s b p).fuse = s.fuse ∧ (placeAgain s b p).pending = s.pending := by
  unfold placeAgain
  (repeat' split) <;> simp

@[simp] theorem switchNext_outer (b : Nat) :
    (switchNext s b).fuse = s.fuse ∧ (switchNext s b).pending = s.pending ∧ (switchNext s b).host = s.host := by
  unfold switchNext
  (repeat' split) <;> simp

@[simp] theorem countWait_outer (b : Nat) :
    (countWait s b).fuse = s.fuse ∧ (countWait s b).pending = s.pending ∧ (countWait s b).host = s.host ∧ (countWait s b).hbm = s.hbm := by
  unfold countWait
  (repeat' split) <;> simp

@[simp] theorem requestCopyOut_outer (b : Nat) :
    (requestCopyOut s b).fuse = s.fuse ∧ (requestCopyOut s b).pending = s.pending ∧ (requestCopyOut s b).host = s.host ∧ (requestCopyOut s b).hbm = s.hbm := by
  unfold requestCopyOut
  simp

@[simp] theorem resumeCopies_outer  :
    (resumeCopies s).fuse = s.fuse ∧ (resumeCopies s).pending = s.pending ∧ (resumeCopies s).host = s.host ∧ (resumeCopies s).hbm = s.hbm := by
  unfold resumeCopies
  simp

@[simp] theorem beginCommit_outer (b : Nat) :
    (beginCommit s b).fuse = s.fuse ∧ (beginCommit s b).pending = s.pending ∧ (beginCommit s b).hbm = s.hbm := by
  unfold beginCommit
  dsimp only
  split <;> simp

@[simp] theorem turnOver_outer (b : Nat) :
    (turnOver s b).fuse = s.fuse ∧ (turnOver s b).pending = s.pending ∧ (turnOver s b).host = s.host ∧ (turnOver s b).hbm = s.hbm := by
  unfold turnOver
  (repeat' split) <;> simp

@[simp] theorem afterFence_outer (b : Nat) :
    (afterFence s b).fuse = s.fuse ∧ (afterFence s b).pending = s.pending ∧ (afterFence s b).hbm = s.hbm := by
  unfold afterFence
  (repeat' split) <;> simp

@[simp] theorem saveDmas_outer (b : Nat) :
    (saveDmas s b).fuse = s.fuse ∧ (saveDmas s b).pending = s.pending ∧ (saveDmas s b).host = s.host ∧ (saveDmas s b).hbm = s.hbm := by
  unfold saveDmas
  (repeat' split) <;> simp

@[simp] theorem preempt_outer (b : Nat) :
    (preempt s b).fuse = s.fuse ∧ (preempt s b).pending = s.pending ∧ (preempt s b).host = s.host ∧ (preempt s b).hbm = s.hbm := by
  unfold preempt
  (repeat' split) <;> simp

@[simp] theorem copyPage_outer (frame from_ : Nat) : (copyPage s frame from_).fuse = s.fuse ∧
    (copyPage s frame from_).pending = s.pending ∧ (copyPage s frame from_).host = s.host := by
  unfold copyPage
  refine ⟨?_, ?_, ?_⟩ <;> exact foldl_keeps _ (fun u x => by simp) _ s

@[simp] theorem pageIn_outer (d : DmaDesc) (dva : Nat) :
    (pageIn s d dva).fuse = s.fuse ∧ (pageIn s d dva).pending = s.pending := by
  unfold pageIn
  simp
  (repeat' split) <;> simp_all

theorem startMigration_outer {t : State} {b n choice : Nat} (h : startMigration s b n choice = some t) :
    t.fuse = s.fuse ∧ t.pending = s.pending ∧ t.host = s.host ∧ t.hbm = s.hbm := by
  unfold startMigration at h
  dsimp only at h
  split at h
  · cases h
  · simp only [Option.some.injEq] at h
    subst h
    simp

@[simp] theorem switchBake_outer (b : Nat) (p : Placement) :
    (switchBake s b p).fuse = s.fuse ∧ (switchBake s b p).pending = s.pending := by
  unfold switchBake
  dsimp only
  repeat' split
  all_goals simp [takeEpoch_outer]

/-! ### Rails -/

@[simp] theorem moveCeilings_outer (pick : Nat → Bool) (f : Nat → Nat → Nat) :
    (moveCeilings s pick f).fuse = s.fuse ∧ (moveCeilings s pick f).pending = s.pending ∧ (moveCeilings s pick f).host = s.host ∧ (moveCeilings s pick f).hbm = s.hbm := by
  unfold moveCeilings
  (repeat' split) <;> simp

@[simp] theorem lowerCeiling_outer  :
    (lowerCeiling s).fuse = s.fuse ∧ (lowerCeiling s).pending = s.pending ∧ (lowerCeiling s).host = s.host ∧ (lowerCeiling s).hbm = s.hbm := by
  unfold lowerCeiling
  (repeat' split) <;> simp

@[simp] theorem raiseCeiling_outer  :
    (raiseCeiling s).fuse = s.fuse ∧ (raiseCeiling s).pending = s.pending ∧ (raiseCeiling s).host = s.host ∧ (raiseCeiling s).hbm = s.hbm := by
  unfold raiseCeiling
  (repeat' split) <;> simp

@[simp] theorem safeHold_outer (n : Nat) :
    (safeHold s n).fuse = s.fuse ∧ (safeHold s n).pending = s.pending ∧ (safeHold s n).host = s.host ∧ (safeHold s n).hbm = s.hbm := by
  unfold safeHold
  (repeat' split) <;> simp

@[simp] theorem returnManaged_outer (n : Nat) :
    (returnManaged s n).2.fuse = s.fuse ∧ (returnManaged s n).2.pending = s.pending ∧ (returnManaged s n).2.host = s.host ∧ (returnManaged s n).2.hbm = s.hbm := by
  unfold returnManaged
  (repeat' split) <;> simp

@[simp] theorem loseScratch_outer (l : List CoreId) :
    (loseScratch s l).fuse = s.fuse ∧ (loseScratch s l).pending = s.pending ∧ (loseScratch s l).host = s.host ∧ (loseScratch s l).hbm = s.hbm := by
  unfold loseScratch
  (repeat' split) <;> simp

@[simp] theorem setPower_outer (n : Nat) (v : Nat) :
    (setPower s n v).2.fuse = s.fuse ∧ (setPower s n v).2.pending = s.pending ∧ (setPower s n v).2.host = s.host ∧ (setPower s n v).2.hbm = s.hbm := by
  unfold setPower
  simp
  (repeat' split) <;> simp_all

@[simp] theorem releaseRouters_outer (l : List Site) :
    (releaseRouters s l).fuse = s.fuse ∧ (releaseRouters s l).pending = s.pending ∧ (releaseRouters s l).host = s.host ∧ (releaseRouters s l).hbm = s.hbm := by
  unfold releaseRouters
  refine ⟨?_, ?_, ?_, ?_⟩ <;> (refine foldl_keeps _ (fun u x => ?_) _ _ ; dsimp only ; (repeat' split) <;> simp)

@[simp] theorem reduceRect_outer (n : Nat) (t : Nat) :
    (reduceRect s n t).fuse = s.fuse ∧ (reduceRect s n t).pending = s.pending ∧ (reduceRect s n t).host = s.host ∧ (reduceRect s n t).hbm = s.hbm := by
  unfold reduceRect
  (repeat' split) <;> simp

/-! ### CoreMap -/

@[simp] theorem pend_outer (c : CoreId) (p : Pending) :
    (pend s c p).fuse = s.fuse ∧ (pend s c p).pending = s.pending ∧ (pend s c p).host = s.host ∧ (pend s c p).hbm = s.hbm := by
  unfold pend
  (repeat' split) <;> simp

@[simp] theorem retireCore_outer (c : CoreId) :
    (retireCore s c).fuse = s.fuse ∧ (retireCore s c).pending = s.pending ∧ (retireCore s c).host = s.host ∧ (retireCore s c).hbm = s.hbm := by
  unfold retireCore
  (repeat' split) <;> simp

@[simp] theorem takeEffect_outer (c : CoreId) :
    (takeEffect s c).fuse = s.fuse ∧ (takeEffect s c).pending = s.pending ∧ (takeEffect s c).host = s.host ∧ (takeEffect s c).hbm = s.hbm := by
  unfold takeEffect
  (repeat' split) <;> simp

@[simp] theorem settleChange_outer (c : CoreId) :
    (settleChange s c).fuse = s.fuse ∧ (settleChange s c).pending = s.pending ∧ (settleChange s c).host = s.host ∧ (settleChange s c).hbm = s.hbm := by
  unfold settleChange
  (repeat' split) <;> simp

@[simp] theorem rechoose_outer (c : CoreId) :
    (rechoose s c).fuse = s.fuse ∧ (rechoose s c).pending = s.pending ∧ (rechoose s c).host = s.host ∧ (rechoose s c).hbm = s.hbm := by
  unfold rechoose
  split
  · simp
  · dsimp only
    split <;> simp

@[simp] theorem dropPending_outer (n : Nat) (cores : List CoreId) :
    (dropPending s n cores).fuse = s.fuse ∧ (dropPending s n cores).pending = s.pending ∧ (dropPending s n cores).host = s.host ∧ (dropPending s n cores).hbm = s.hbm := by
  unfold dropPending
  (repeat' split) <;> simp

@[simp] theorem loseHearth_outer (n : Nat) :
    (loseHearth s n).fuse = s.fuse ∧ (loseHearth s n).pending = s.pending ∧ (loseHearth s n).host = s.host ∧ (loseHearth s n).hbm = s.hbm := by
  unfold loseHearth
  (repeat' split) <;> simp

@[simp] theorem failCore_outer (c : CoreId) :
    (failCore s c).fuse = s.fuse ∧ (failCore s c).pending = s.pending ∧ (failCore s c).host = s.host ∧ (failCore s c).hbm = s.hbm := by
  unfold failCore
  split
  · simp
  · dsimp only
    split <;> simp

@[simp] theorem selfTestCore_outer (test : SelfTest) (c : CoreId) :
    (selfTestCore s test c).fuse = s.fuse ∧ (selfTestCore s test c).pending = s.pending ∧ (selfTestCore s test c).host = s.host ∧ (selfTestCore s test c).hbm = s.hbm := by
  unfold selfTestCore
  (repeat' split) <;> simp

@[simp] theorem selfTestCores_outer (test : SelfTest) (l : List CoreId) :
    (selfTestCores s test l).fuse = s.fuse ∧ (selfTestCores s test l).pending = s.pending ∧ (selfTestCores s test l).host = s.host ∧ (selfTestCores s test l).hbm = s.hbm := by
  unfold selfTestCores
  (repeat' split) <;> simp

end Sys2Proof.Machine
end

