-- ==== Sys2Proof/Laws/OuterDevice.lean ====
section
/-! SUPPORT. The same for the shared operations of the links, start-up and resets, the rings, the dictionary and the control plane. -/

namespace Sys2Proof.Machine

variable {s : State}

/-! ### AlwaysOn -/

@[simp] theorem enterRescue_outer (st : U8) (cause : U8) :
    (enterRescue s st cause).fuse = s.fuse ∧ (enterRescue s st cause).pending = s.pending ∧ (enterRescue s st cause).host = s.host ∧ (enterRescue s st cause).hbm = s.hbm := by
  unfold enterRescue
  (repeat' split) <;> simp

@[simp] theorem heldInReset_outer : (heldInReset s).fuse = s.fuse ∧ (heldInReset s).pending = s.pending ∧ (heldInReset s).host = s.host :=
  ⟨rfl, rfl, rfl⟩

@[simp] theorem writeCopyB_outer  :
    (writeCopyB s).fuse = s.fuse ∧ (writeCopyB s).pending = s.pending ∧ (writeCopyB s).host = s.host ∧ (writeCopyB s).hbm = s.hbm := by
  unfold writeCopyB
  (repeat' split) <;> simp

@[simp] theorem fallBack_outer  :
    (fallBack s).fuse = s.fuse ∧ (fallBack s).pending = s.pending ∧ (fallBack s).host = s.host ∧ (fallBack s).hbm = s.hbm := by
  unfold fallBack
  (repeat' split) <;> simp

@[simp] theorem classify_outer (swing : Int) :
    (classify s swing).fuse = s.fuse ∧ (classify s swing).pending = s.pending ∧ (classify s swing).host = s.host ∧ (classify s swing).hbm = s.hbm := by
  unfold classify
  (repeat' split) <;> simp

@[simp] theorem setCalendar_outer (d : Date) :
    (setCalendar s d).2.fuse = s.fuse ∧ (setCalendar s d).2.pending = s.pending ∧ (setCalendar s d).2.host = s.host ∧ (setCalendar s d).2.hbm = s.hbm := by
  unfold setCalendar
  split
  · simp
  · generalize dateOk d = x
    generalize dateNs d = y
    cases x <;> simp

/-! ### Links -/

@[simp] theorem raisePort_outer (p : Nat) (sev : Nat) (arg : Nat) :
    (raisePort s p sev arg).fuse = s.fuse ∧ (raisePort s p sev arg).pending = s.pending ∧ (raisePort s p sev arg).host = s.host ∧ (raisePort s p sev arg).hbm = s.hbm := by
  unfold raisePort
  (repeat' split) <;> simp

@[simp] theorem sendStop_outer (n : Nat) (stop : Bool) :
    (sendStop s n stop).fuse = s.fuse ∧ (sendStop s n stop).pending = s.pending ∧ (sendStop s n stop).host = s.host ∧ (sendStop s n stop).hbm = s.hbm := by
  unfold sendStop
  simp
  (repeat' split) <;> simp_all

@[simp] theorem leaveBridge_outer (f : Frame) :
    (leaveBridge s f).fuse = s.fuse ∧ (leaveBridge s f).pending = s.pending ∧ (leaveBridge s f).host = s.host ∧ (leaveBridge s f).hbm = s.hbm := by
  unfold leaveBridge
  (repeat' split) <;> simp

@[simp] theorem moveFrames_outer (p : Nat) :
    (moveFrames s p).fuse = s.fuse ∧ (moveFrames s p).pending = s.pending ∧ (moveFrames s p).host = s.host ∧ (moveFrames s p).hbm = s.hbm := by
  unfold moveFrames
  dsimp only
  refine ⟨?_, ?_, ?_, ?_⟩ <;> simp only [State_modPort_outer] <;>
    refine (foldl_keeps _ (fun u x => ?_) _ _).trans (foldl_keeps _ (fun u x => ?_) _ _) <;> split <;> simp

@[simp] theorem takeDown_outer (p : Nat) (st : U8) :
    (takeDown s p st).fuse = s.fuse ∧ (takeDown s p st).pending = s.pending ∧ (takeDown s p st).host = s.host ∧ (takeDown s p st).hbm = s.hbm := by
  unfold takeDown
  (repeat' split) <;> simp

@[simp] theorem routesChanged_outer  :
    (routesChanged s).fuse = s.fuse ∧ (routesChanged s).pending = s.pending ∧ (routesChanged s).host = s.host ∧ (routesChanged s).hbm = s.hbm := by
  unfold routesChanged
  dsimp only
  refine ⟨?_, ?_, ?_, ?_⟩ <;> simp only [resumeAllRouted_outer] <;> refine (foldl_keeps _ (fun u x => ?_) _ _).trans ?_ <;>
    (repeat' split) <;> simp

@[simp] theorem trained_outer (p : Nat) (i : TrainInfo) :
    (trained s p i).fuse = s.fuse ∧ (trained s p i).pending = s.pending ∧ (trained s p i).host = s.host ∧ (trained s p i).hbm = s.hbm := by
  unfold trained
  (repeat' split) <;> simp

@[simp] theorem setPortEnable_outer (p : Nat) (en : Bool) :
    (setPortEnable s p en).fuse = s.fuse ∧ (setPortEnable s p en).pending = s.pending ∧ (setPortEnable s p en).host = s.host ∧ (setPortEnable s p en).hbm = s.hbm := by
  unfold setPortEnable
  (repeat' split) <;> simp

@[simp] theorem takeRx_outer (p : Nat) (f : Frame) (free : Bool) :
    (takeRx s p f free).fuse = s.fuse ∧ (takeRx s p f free).pending = s.pending ∧ (takeRx s p f free).host = s.host ∧ (takeRx s p f free).hbm = s.hbm := by
  unfold takeRx
  (repeat' split) <;> simp

@[simp] theorem writeTransfer_outer (n : Nat) (f : Frame) :
    (writeTransfer s n f).fuse = s.fuse ∧ (writeTransfer s n f).pending = s.pending ∧ (writeTransfer s n f).host = s.host := by
  unfold writeTransfer
  (repeat' split) <;> simp

@[simp] theorem completeTransfer_outer (n : Nat) :
    (completeTransfer s n).fuse = s.fuse ∧ (completeTransfer s n).pending = s.pending ∧ (completeTransfer s n).host = s.host ∧ (completeTransfer s n).hbm = s.hbm := by
  unfold completeTransfer
  (repeat' split) <;> simp

@[simp] theorem receiveData_outer (f : Frame) :
    (receiveData s f).fuse = s.fuse ∧ (receiveData s f).pending = s.pending ∧ (receiveData s f).host = s.host := by
  unfold receiveData
  (repeat' split) <;> simp

/-! ### Broker -/

@[simp] theorem countReport_outer (r : BrokerReport) (own : Bool) :
    (countReport s r own).fuse = s.fuse ∧ (countReport s r own).pending = s.pending ∧ (countReport s r own).host = s.host ∧ (countReport s r own).hbm = s.hbm := by
  unfold countReport
  (repeat' split) <;> simp

/-! ### Messages -/

@[simp] theorem dispatchMsg_outer (dev : Option Nat) (m : FwMsg) :
    (dispatchMsg s dev m).fuse = s.fuse ∧ (dispatchMsg s dev m).pending = s.pending ∧ (dispatchMsg s dev m).host = s.host ∧ (dispatchMsg s dev m).hbm = s.hbm := by
  unfold dispatchMsg
  (repeat' split) <;> simp

@[simp] theorem sendMsg_outer (dev : Option Nat) (m : FwMsg) :
    (sendMsg s dev m).fuse = s.fuse ∧ (sendMsg s dev m).pending = s.pending ∧ (sendMsg s dev m).host = s.host ∧ (sendMsg s dev m).hbm = s.hbm := by
  unfold sendMsg
  (repeat' split) <;> simp

/-! ### Integrity -/

@[simp] theorem startDue_outer (b : Nat) :
    (startDue s b).fuse = s.fuse ∧ (startDue s b).pending = s.pending ∧ (startDue s b).host = s.host ∧ (startDue s b).hbm = s.hbm := by
  unfold startDue
  (repeat' split) <;> simp

@[simp] theorem restoreBank_outer (b : Nat) (area : Nat) :
    (restoreBank s b area).2.fuse = s.fuse ∧ (restoreBank s b area).2.pending = s.pending ∧ (restoreBank s b area).2.host = s.host := by
  unfold restoreBank
  simp
  (repeat' split) <;> simp_all

@[simp] theorem acknowledge_outer (seq : U64) :
    (acknowledge s seq).2.fuse = s.fuse ∧ (acknowledge s seq).2.pending = s.pending ∧ (acknowledge s seq).2.host = s.host ∧ (acknowledge s seq).2.hbm = s.hbm := by
  unfold acknowledge
  (repeat' split) <;> simp

@[simp] theorem modMonitors_outer (index : Nat) (sub : Nat) (f : Monitor → Monitor) :
    (modMonitors s index sub f).fuse = s.fuse ∧ (modMonitors s index sub f).pending = s.pending ∧ (modMonitors s index sub f).host = s.host ∧ (modMonitors s index sub f).hbm = s.hbm := by
  unfold modMonitors
  (repeat' split) <;> simp

@[simp] theorem monitorCommand_outer (cmd : Nat) (index : Nat) (sub : Nat) (f : Monitor → Monitor) :
    (monitorCommand s cmd index sub f).fuse = s.fuse ∧ (monitorCommand s cmd index sub f).pending = s.pending ∧ (monitorCommand s cmd index sub f).host = s.host ∧ (monitorCommand s cmd index sub f).hbm = s.hbm := by
  unfold monitorCommand
  (repeat' split) <;> simp

/-! ### Startup -/

@[simp] theorem seamTest_outer (found : List (Nat × Nat × Nat)) :
    (seamTest s found).fuse = s.fuse ∧ (seamTest s found).pending = s.pending ∧ (seamTest s found).host = s.host ∧ (seamTest s found).hbm = s.hbm := by
  unfold seamTest
  (repeat' split) <;> simp

@[simp] theorem spareMaps_outer (bad : List Site) :
    (spareMaps s bad).fuse = s.fuse ∧ (spareMaps s bad).pending = s.pending ∧ (spareMaps s bad).host = s.host ∧ (spareMaps s bad).hbm = s.hbm := by
  unfold spareMaps
  (repeat' split) <;> simp

@[simp] theorem prove_outer (l : List (Site × Nat × Nat)) :
    (prove s l).fuse = s.fuse ∧ (prove s l).pending = s.pending ∧ (prove s l).host = s.host ∧ (prove s l).hbm = s.hbm := by
  unfold prove
  (repeat' split) <;> simp

@[simp] theorem haltClocks_outer  :
    (haltClocks s).fuse = s.fuse ∧ (haltClocks s).pending = s.pending ∧ (haltClocks s).host = s.host ∧ (haltClocks s).hbm = s.hbm := by
  unfold haltClocks
  (repeat' split) <;> simp

@[simp] theorem trainStacks_outer (bad : List Nat) (lanes : List (Nat × Nat)) :
    (trainStacks s bad lanes).fuse = s.fuse ∧ (trainStacks s bad lanes).pending = s.pending ∧ (trainStacks s bad lanes).host = s.host := by
  unfold trainStacks
  (repeat' split) <;> simp

@[simp] theorem startSequence_outer (o : BootObs) :
    (startSequence s o).fuse = { s.fuse with badA := o.badA, badB := o.badB } ∧ (startSequence s o).pending = s.pending ∧ (startSequence s o).host = s.host := by
  unfold startSequence
  dsimp only
  (repeat' split) <;> simp

@[simp] theorem rejectImage_outer (r : Nat) :
    (rejectImage s r).fuse = s.fuse ∧ (rejectImage s r).pending = s.pending ∧ (rejectImage s r).host = s.host ∧ (rejectImage s r).hbm = s.hbm := by
  unfold rejectImage
  (repeat' split) <;> simp

@[simp] theorem startProcessors_outer (heldStoker : Bool) :
    (startProcessors s heldStoker).fuse = s.fuse ∧ (startProcessors s heldStoker).pending = s.pending ∧ (startProcessors s heldStoker).host = s.host ∧ (startProcessors s heldStoker).hbm = s.hbm := by
  unfold startProcessors
  (repeat' split) <;> simp

@[simp] theorem imageRuns_outer  :
    (imageRuns s).fuse = s.fuse ∧ (imageRuns s).pending = s.pending ∧ (imageRuns s).host = s.host ∧ (imageRuns s).hbm = s.hbm := by
  unfold imageRuns
  (repeat' split) <;> simp

@[simp] theorem lockBindings_outer (l : List (Fin 256 × U32)) :
    (lockBindings s l).fuse = s.fuse ∧ (lockBindings s l).pending = s.pending ∧ (lockBindings s l).host = s.host ∧ (lockBindings s l).hbm = s.hbm := by
  unfold lockBindings
  (repeat' split) <;> simp

@[simp] theorem bringUpCores_outer (test : SelfTest) :
    (bringUpCores s test).fuse = s.fuse ∧ (bringUpCores s test).pending = s.pending ∧ (bringUpCores s test).host = s.host ∧ (bringUpCores s test).hbm = s.hbm := by
  unfold bringUpCores
  (repeat' split) <;> simp

@[simp] theorem finishStart_outer (test : SelfTest) (plan : DraughtPlan) (l : List (Fin 256 × U32)) :
    (finishStart s test plan l).fuse = s.fuse ∧ (finishStart s test plan l).pending = s.pending ∧ (finishStart s test plan l).host = s.host ∧ (finishStart s test plan l).hbm = s.hbm := by
  unfold finishStart
  (repeat' split) <;> simp

/-! ### Resets -/

@[simp] theorem absorbBake_outer (b : Nat) :
    (absorbBake s b).fuse = s.fuse ∧ (absorbBake s b).pending = s.pending ∧ (absorbBake s b).hbm = s.hbm := by
  unfold absorbBake
  (repeat' split) <;> simp

@[simp] theorem drainBake_outer (b : Nat) :
    (drainBake s b).fuse = s.fuse ∧ (drainBake s b).pending = s.pending ∧ (drainBake s b).host = s.host ∧ (drainBake s b).hbm = s.hbm := by
  unfold drainBake
  (repeat' split) <;> simp

@[simp] theorem beginReset_outer (a : ResetScope) (b : Boundary) (cause : U8) :
    (beginReset s a b cause).fuse = s.fuse ∧ (beginReset s a b cause).pending = s.pending ∧ (beginReset s a b cause).hbm = s.hbm := by
  unfold beginReset
  (repeat' split) <;> simp

@[simp] theorem requestReset_outer (a : ResetScope) (b : Boundary) (cause : U8) :
    (requestReset s a b cause).fuse = s.fuse ∧ (requestReset s a b cause).pending = s.pending ∧ (requestReset s a b cause).hbm = s.hbm := by
  unfold requestReset
  (repeat' split) <;> simp

@[simp] theorem spill_outer (l : List CoreId) (b : Nat) :
    (spill s l b).fuse = s.fuse ∧ (spill s l b).pending = s.pending ∧ (spill s l b).host = s.host := by
  unfold spill
  (repeat' split) <;> simp

@[simp] theorem unspill_outer (l : List CoreId) (b : Nat) :
    (unspill s l b).fuse = s.fuse ∧ (unspill s l b).pending = s.pending ∧ (unspill s l b).host = s.host := by
  unfold unspill
  (repeat' split) <;> simp

@[simp] theorem spillOrPause_outer (l : List CoreId) (b : Nat) :
    (spillOrPause s l b).fuse = s.fuse ∧ (spillOrPause s l b).pending = s.pending := by
  unfold spillOrPause
  (repeat' split) <;> simp

@[simp] theorem resetCore_outer (c : CoreId) :
    (resetCore s c).fuse = s.fuse ∧ (resetCore s c).pending = s.pending ∧ (resetCore s c).host = s.host ∧ (resetCore s c).hbm = s.hbm := by
  unfold resetCore
  (repeat' split) <;> simp

@[simp] theorem restoreBake_outer (l : List CoreId) (gen : U32) (b : Nat) :
    (restoreBake s l gen b).fuse = s.fuse ∧ (restoreBake s l gen b).pending = s.pending := by
  unfold restoreBake
  dsimp only
  repeat' split
  all_goals simp

@[simp] theorem resetScope_outer (a : ResetScope) (test : SelfTest) :
    (resetScope s a test).fuse = s.fuse ∧ (resetScope s a test).pending = s.pending := by
  unfold resetScope
  (repeat' split) <;> simp

@[simp] theorem endReset_outer  :
    (endReset s).fuse = s.fuse ∧ (endReset s).pending = s.pending ∧ (endReset s).host = s.host ∧ (endReset s).hbm = s.hbm := by
  unfold endReset
  (repeat' split) <;> simp

@[simp] theorem lowReset_outer (a : ResetScope) (test : SelfTest) :
    (lowReset s a test).fuse = s.fuse ∧ (lowReset s a test).pending = s.pending := by
  unfold lowReset
  (repeat' split) <;> simp

@[simp] theorem rebuildLedger_outer  :
    (rebuildLedger s).fuse = s.fuse ∧ (rebuildLedger s).pending = s.pending ∧ (rebuildLedger s).host = s.host ∧ (rebuildLedger s).hbm = s.hbm := by
  unfold rebuildLedger
  (repeat' split) <;> simp

@[simp] theorem restoreJournal_outer  :
    (restoreJournal s).fuse = s.fuse ∧ (restoreJournal s).pending = s.pending ∧ (restoreJournal s).host = s.host ∧ (restoreJournal s).hbm = s.hbm := by
  unfold restoreJournal
  (repeat' split) <;> simp

@[simp] theorem forgetNumbers_outer (src : Nat) :
    (forgetNumbers s src).fuse = s.fuse ∧ (forgetNumbers s src).pending = s.pending ∧ (forgetNumbers s src).host = s.host ∧ (forgetNumbers s src).hbm = s.hbm := by
  unfold forgetNumbers
  (repeat' split) <;> simp

@[simp] theorem restartController_outer (n : Nat) :
    (restartController s n).fuse = s.fuse ∧ (restartController s n).pending = s.pending ∧ (restartController s n).host = s.host ∧ (restartController s n).hbm = s.hbm := by
  unfold restartController
  (repeat' split) <;> simp

@[simp] theorem restartAll_outer  :
    (restartAll s).fuse = s.fuse ∧ (restartAll s).pending = s.pending ∧ (restartAll s).host = s.host ∧ (restartAll s).hbm = s.hbm := by
  unfold restartAll
  (repeat' split) <;> simp

@[simp] theorem dropEngine_outer : (dropEngine s).fuse = s.fuse ∧ (dropEngine s).pending = s.pending ∧ (dropEngine s).host = s.host ∧ (dropEngine s).hbm = s.hbm := ⟨rfl, rfl, rfl, rfl⟩

@[simp] theorem finishWarm_outer (test : SelfTest) :
    (finishWarm s test).fuse = s.fuse ∧ (finishWarm s test).pending = s.pending := by
  unfold finishWarm
  (repeat' split) <;> simp

@[simp] theorem countWhole_outer  :
    (countWhole s).fuse = s.fuse ∧ (countWhole s).pending = s.pending ∧ (countWhole s).host = s.host ∧ (countWhole s).hbm = s.hbm := by
  unfold countWhole
  (repeat' split) <;> simp

@[simp] theorem wholeHeld_outer (cause : U8) :
    (wholeHeld s cause).fuse = s.fuse ∧ (wholeHeld s cause).pending = s.pending ∧ (wholeHeld s cause).host = s.host := by
  unfold wholeHeld
  (repeat' split) <;> simp

/-! ### Recovery -/

@[simp] theorem raiseProc_outer (m : Nat) (sev : Nat) :
    (raiseProc s m sev).fuse = s.fuse ∧ (raiseProc s m sev).pending = s.pending ∧ (raiseProc s m sev).host = s.host ∧ (raiseProc s m sev).hbm = s.hbm := by
  unfold raiseProc
  (repeat' split) <;> simp

@[simp] theorem failedEffect_outer (m : Nat) :
    (failedEffect s m).fuse = s.fuse ∧ (failedEffect s m).pending = s.pending ∧ (failedEffect s m).host = s.host ∧ (failedEffect s m).hbm = s.hbm := by
  unfold failedEffect
  (repeat' split) <;> simp

@[simp] theorem startRescueReset_outer (level : Nat) :
    (startRescueReset s level).2.fuse = s.fuse ∧ (startRescueReset s level).2.pending = s.pending ∧ (startRescueReset s level).2.hbm = s.hbm := by
  unfold startRescueReset
  (repeat' split) <;> simp

@[simp] theorem startReload_outer  :
    (startReload s).fuse = s.fuse ∧ (startReload s).pending = s.pending ∧ (startReload s).hbm = s.hbm := by
  unfold startReload
  (repeat' split) <;> simp

/-! ### DictWrite -/

@[simp] theorem renewLease_outer  :
    (renewLease s).fuse = s.fuse ∧ (renewLease s).pending = s.pending ∧ (renewLease s).host = s.host ∧ (renewLease s).hbm = s.hbm := by
  unfold renewLease
  (repeat' split) <;> simp

@[simp] theorem closeWindow_outer  :
    (closeWindow s).fuse = s.fuse ∧ (closeWindow s).pending = s.pending ∧ (closeWindow s).host = s.host ∧ (closeWindow s).hbm = s.hbm := by
  unfold closeWindow
  (repeat' split) <;> simp

@[simp] theorem releaseSem_outer  :
    (releaseSem s).fuse = s.fuse ∧ (releaseSem s).pending = s.pending ∧ (releaseSem s).host = s.host ∧ (releaseSem s).hbm = s.hbm := by
  unfold releaseSem
  (repeat' split) <;> simp

@[simp] theorem writeAcquire_outer (master : Nat) (v : Nat) :
    (writeAcquire s master v).2.fuse = s.fuse ∧ (writeAcquire s master v).2.pending = s.pending ∧ (writeAcquire s master v).2.host = s.host ∧ (writeAcquire s master v).2.hbm = s.hbm := by
  unfold writeAcquire
  simp
  (repeat' split) <;> simp_all

@[simp] theorem writeWindow_outer (v : Nat) :
    (writeWindow s v).2.fuse = s.fuse ∧ (writeWindow s v).2.pending = s.pending ∧ (writeWindow s v).2.host = s.host ∧ (writeWindow s v).2.hbm = s.hbm := by
  unfold writeWindow
  (repeat' split) <;> simp

@[simp] theorem stageValue_outer (n : Nat) (index : Nat) (sub : Nat) (v : List Byte) :
    (stageValue s n index sub v).fuse = s.fuse ∧ (stageValue s n index sub v).pending = s.pending ∧ (stageValue s n index sub v).host = s.host ∧ (stageValue s n index sub v).hbm = s.hbm := by
  unfold stageValue
  (repeat' split) <;> simp

@[simp] theorem dropStaging_outer (n : Nat) :
    (dropStaging s n).fuse = s.fuse ∧ (dropStaging s n).pending = s.pending ∧ (dropStaging s n).host = s.host ∧ (dropStaging s n).hbm = s.hbm := by
  unfold dropStaging
  (repeat' split) <;> simp

@[simp] theorem commitSet_outer (n : Nat) :
    (commitSet s n).2.fuse = s.fuse ∧ (commitSet s n).2.pending = s.pending ∧ (commitSet s n).2.host = s.host ∧ (commitSet s n).2.hbm = s.hbm := by
  unfold commitSet
  simp
  (repeat' split) <;> simp_all

@[simp] theorem storeMember_outer (e : Nat × List Byte) :
    (storeMember s e).fuse = s.fuse ∧ (storeMember s e).pending = s.pending ∧ (storeMember s e).host = s.host ∧ (storeMember s e).hbm = s.hbm := by
  unfold storeMember
  simp
  (repeat' split) <;> simp_all

@[simp] theorem storeMembers_outer (l : List (Nat × List Byte)) :
    (storeMembers s l).fuse = s.fuse ∧ (storeMembers s l).pending = s.pending ∧ (storeMembers s l).host = s.host ∧ (storeMembers s l).hbm = s.hbm := by
  unfold storeMembers
  (repeat' split) <;> simp

@[simp] theorem wakePaused_outer (b : Nat) :
    (wakePaused s b).fuse = s.fuse ∧ (wakePaused s b).pending = s.pending ∧ (wakePaused s b).host = s.host ∧ (wakePaused s b).hbm = s.hbm := by
  unfold wakePaused
  (repeat' split) <;> simp

@[simp] theorem applyRects_outer (l : List (Nat × List Byte)) :
    (applyRects s l).fuse = s.fuse ∧ (applyRects s l).pending = s.pending ∧ (applyRects s l).host = s.host ∧ (applyRects s l).hbm = s.hbm := by
  unfold applyRects
  (repeat' split) <;> simp

@[simp] theorem applyIds_outer (l : List (Nat × List Byte)) :
    (applyIds s l).fuse = s.fuse ∧ (applyIds s l).pending = s.pending ∧ (applyIds s l).host = s.host ∧ (applyIds s l).hbm = s.hbm := by
  unfold applyIds
  (repeat' split) <;> simp

@[simp] theorem applyBindings_outer (l : List (Nat × List Byte)) :
    (applyBindings s l).fuse = s.fuse ∧ (applyBindings s l).pending = s.pending ∧ (applyBindings s l).host = s.host ∧ (applyBindings s l).hbm = s.hbm := by
  unfold applyBindings
  (repeat' split) <;> simp

@[simp] theorem applyPool_outer (l : List (Nat × List Byte)) :
    (applyPool s l).fuse = s.fuse ∧ (applyPool s l).pending = s.pending ∧ (applyPool s l).host = s.host ∧ (applyPool s l).hbm = s.hbm := by
  unfold applyPool
  (repeat' split) <;> simp

@[simp] theorem applyPolicy_outer (l : List (Nat × List Byte)) :
    (applyPolicy s l).pending = s.pending ∧ (applyPolicy s l).host = s.host ∧ (applyPolicy s l).hbm = s.hbm :=
  ⟨rfl, rfl, rfl⟩

@[simp] theorem applyGroups_outer (l : List (Nat × List Byte)) :
    (applyGroups s l).fuse = s.fuse ∧ (applyGroups s l).pending = s.pending ∧ (applyGroups s l).host = s.host ∧ (applyGroups s l).hbm = s.hbm := by
  unfold applyGroups
  (repeat' split) <;> simp

@[simp] theorem applySet_outer (n : Nat) (l : List (Nat × List Byte)) :
    (applySet s n l).pending = s.pending ∧ (applySet s n l).host = s.host ∧ (applySet s n l).hbm = s.hbm := by
  unfold applySet
  (repeat' split) <;> simp

@[simp] theorem applyDue_outer (n : Nat) :
    (applyDue s n).pending = s.pending ∧ (applyDue s n).host = s.host ∧ (applyDue s n).hbm = s.hbm := by
  unfold applyDue
  (repeat' split) <;> simp

@[simp] theorem writeReset_outer (v : Nat) :
    (writeReset s v).2.fuse = s.fuse ∧ (writeReset s v).2.pending = s.pending ∧ (writeReset s v).2.hbm = s.hbm := by
  unfold writeReset
  simp
  (repeat' split) <;> simp_all

@[simp] theorem writeMonitor_outer (v : Nat) :
    (writeMonitor s v).2.fuse = s.fuse ∧ (writeMonitor s v).2.pending = s.pending ∧ (writeMonitor s v).2.host = s.host ∧ (writeMonitor s v).2.hbm = s.hbm := by
  unfold writeMonitor
  simp
  (repeat' split) <;> simp_all

@[simp] theorem writeTarget_outer (b t : Nat) :
    (writeTarget s b t).2.fuse = s.fuse ∧ (writeTarget s b t).2.pending = s.pending ∧ (writeTarget s b t).2.host = s.host ∧ (writeTarget s b t).2.hbm = s.hbm := by
  unfold writeTarget
  split
  · rename_i h; exact startMigration_outer h
  · simp

@[simp] theorem writeScalar_outer (master : Nat) (index : Nat) (sub : Nat) (v : Nat) :
    (writeScalar s master index sub v).2.fuse = s.fuse ∧ (writeScalar s master index sub v).2.pending = s.pending := by
  unfold writeScalar
  (repeat' split) <;> simp

@[simp] theorem doWrite_outer (e : Entry) (master : Nat) (sub : Nat) (off : Nat) (data : List Byte) :
    (doWrite s e master sub off data).2.fuse = s.fuse ∧ (doWrite s e master sub off data).2.pending = s.pending := by
  unfold doWrite
  (repeat' split) <;> simp

@[simp] theorem writeEntry_outer (master : Nat) (index : Nat) (sub : Nat) (code : Nat) (off : Nat) (data : List Byte) (rsv : Bool) :
    (writeEntry s master index sub code off data rsv).2.fuse = s.fuse ∧ (writeEntry s master index sub code off data rsv).2.pending = s.pending := by
  unfold writeEntry
  simp
  (repeat' split) <;> simp_all

/-! ### Frames -/

@[simp] theorem runRequest_outer (master : Nat) (ver : Nat) (room : Nat) (r : Request) :
    (runRequest s master ver room r).2.2.fuse = s.fuse ∧ (runRequest s master ver room r).2.2.pending = s.pending := by
  unfold runRequest
  (repeat' split) <;> simp

theorem runRequests_keeps {γ : Type} (p : State → γ) (run : State → Nat → Request → Nat × List Byte × State)
    (hp : ∀ u n r, p (run u n r).2.2 = p u) : ∀ (l : List Request) (s : State) (left : Nat), p (runRequests run s left l).2 = p s
  | [], _, _ => rfl
  | r :: t, s, left => (runRequests_keeps p run hp t _ _).trans (hp ..)

@[simp] theorem abortAll_outer (code : Nat) (_room : Nat) (_r : Request) :
    (abortAll code s _room _r).2.2.fuse = s.fuse ∧ (abortAll code s _room _r).2.2.pending = s.pending ∧ (abortAll code s _room _r).2.2.host = s.host ∧ (abortAll code s _room _r).2.2.hbm = s.hbm := by
  unfold abortAll
  (repeat' split) <;> simp

theorem answer_keeps {γ : Type} (p : State → γ) (limit : Nat) (run : State → Nat → Request → Nat × List Byte × State)
    (hp : ∀ u n r, p (run u n r).2.2 = p u) (f : Nat × Nat × Nat × List Request) : p (answer s limit run f).2 = p s :=
  runRequests_keeps p run hp _ _ _

@[simp] theorem modMgmt_outer (p : Fin 2) (f : MgmtPort → MgmtPort) :
    (modMgmt s p f).fuse = s.fuse ∧ (modMgmt s p f).pending = s.pending ∧ (modMgmt s p f).host = s.host ∧ (modMgmt s p f).hbm = s.hbm := by
  unfold modMgmt
  (repeat' split) <;> simp

@[simp] theorem handleFrame_outer (p : Fin 2) (f : Nat × Nat × Nat × List Request) :
    (handleFrame s p f).fuse = s.fuse ∧ (handleFrame s p f).pending = s.pending := by
  unfold handleFrame
  dsimp only
  split
  · simp
  · split
    · simp
    · refine ⟨?_, ?_⟩ <;> simp only [modMgmt_outer] <;> exact answer_keeps _ _ _ (by simp) _

@[simp] theorem rescueRequest_outer (master : Nat) (room : Nat) (r : Request) :
    (rescueRequest s master room r).2.2.fuse = s.fuse ∧ (rescueRequest s master room r).2.2.pending = s.pending := by
  unfold rescueRequest
  (repeat' split) <;> simp

/-! ### Control -/

@[simp] theorem masterWrite_outer (master : U8) (index : Nat) (sub : Nat) (code : Nat) (size : Nat) (v : Nat) :
    (masterWrite s master index sub code size v).fuse = s.fuse ∧ (masterWrite s master index sub code size v).pending = s.pending := by
  unfold masterWrite
  (repeat' split) <;> simp

@[simp] theorem refuseWrite_outer (k : Nat) (master : Nat) (code : Nat) :
    (refuseWrite s k master code).2.fuse = s.fuse ∧ (refuseWrite s k master code).2.pending = s.pending ∧ (refuseWrite s k master code).2.host = s.host ∧ (refuseWrite s k master code).2.hbm = s.hbm := by
  unfold refuseWrite
  (repeat' split) <;> simp

@[simp] theorem storeRegister_outer (k : Nat) (j : Nat) (v : U32) :
    (storeRegister s k j v).fuse = s.fuse ∧ (storeRegister s k j v).pending = s.pending ∧ (storeRegister s k j v).host = s.host ∧ (storeRegister s k j v).hbm = s.hbm := by
  unfold storeRegister
  (repeat' split) <;> simp

@[simp] theorem endMessage_outer (k : Nat) :
    (endMessage s k).fuse = s.fuse ∧ (endMessage s k).pending = s.pending ∧ (endMessage s k).host = s.host ∧ (endMessage s k).hbm = s.hbm := by
  unfold endMessage
  (repeat' split) <;> simp

@[simp] theorem mailboxWrite_outer (k : Nat) (j : Nat) (master : Nat) (v : U32) :
    (mailboxWrite s k j master v).2.fuse = s.fuse ∧ (mailboxWrite s k j master v).2.pending = s.pending ∧ (mailboxWrite s k j master v).2.host = s.host ∧ (mailboxWrite s k j master v).2.hbm = s.hbm := by
  unfold mailboxWrite
  simp
  (repeat' split) <;> simp_all

@[simp] theorem mailboxMessage_outer (m : FwMsg) :
    (mailboxMessage s m).2.fuse = s.fuse ∧ (mailboxMessage s m).2.pending = s.pending ∧ (mailboxMessage s m).2.host = s.host ∧ (mailboxMessage s m).2.hbm = s.hbm := by
  unfold mailboxMessage
  simp
  (repeat' split) <;> simp_all

@[simp] theorem keepSeen_outer (m : FwMsg) (status : U32) :
    (keepSeen s m status).fuse = s.fuse ∧ (keepSeen s m status).pending = s.pending ∧ (keepSeen s m status).host = s.host ∧ (keepSeen s m status).hbm = s.hbm := by
  unfold keepSeen
  (repeat' split) <;> simp

@[simp] theorem acknowledgeMsg_outer (dev : Option Nat) (m : FwMsg) (status : U32) :
    (acknowledgeMsg s dev m status).fuse = s.fuse ∧ (acknowledgeMsg s dev m status).pending = s.pending ∧ (acknowledgeMsg s dev m status).host = s.host ∧ (acknowledgeMsg s dev m status).hbm = s.hbm := by
  unfold acknowledgeMsg
  (repeat' split) <;> simp

@[simp] theorem takeMessage_outer (dev : Option Nat) (m : FwMsg) :
    (takeMessage s dev m).fuse = s.fuse ∧ (takeMessage s dev m).pending = s.pending ∧ (takeMessage s dev m).host = s.host ∧ (takeMessage s dev m).hbm = s.hbm := by
  unfold takeMessage
  (repeat' split) <;> simp

@[simp] theorem receiveMessage_outer (dev : Option Nat) (m : FwMsg) :
    (receiveMessage s dev m).fuse = s.fuse ∧ (receiveMessage s dev m).pending = s.pending ∧ (receiveMessage s dev m).host = s.host ∧ (receiveMessage s dev m).hbm = s.hbm := by
  unfold receiveMessage
  (repeat' split) <;> simp

@[simp] theorem takeOnDie_outer (m : FwMsg) :
    (takeOnDie s m).fuse = s.fuse ∧ (takeOnDie s m).pending = s.pending ∧ (takeOnDie s m).host = s.host ∧ (takeOnDie s m).hbm = s.hbm := by
  unfold takeOnDie
  (repeat' split) <;> simp

/-! ### Rings -/

@[simp] theorem ignoreWrite_outer (r : Nat) :
    (ignoreWrite s r).fuse = s.fuse ∧ (ignoreWrite s r).pending = s.pending ∧ (ignoreWrite s r).host = s.host ∧ (ignoreWrite s r).hbm = s.hbm := by
  unfold ignoreWrite
  (repeat' split) <;> simp

@[simp] theorem writeCtl_outer (r : Nat) (val : U64) :
    (writeCtl s r val).fuse = s.fuse ∧ (writeCtl s r val).pending = s.pending ∧ (writeCtl s r val).host = s.host ∧ (writeCtl s r val).hbm = s.hbm := by
  unfold writeCtl
  (repeat' split) <;> simp

@[simp] theorem writeBase_outer (r : Nat) (f : Ring → Ring) :
    (writeBase s r f).fuse = s.fuse ∧ (writeBase s r f).pending = s.pending ∧ (writeBase s r f).host = s.host ∧ (writeBase s r f).hbm = s.hbm := by
  unfold writeBase
  (repeat' split) <;> simp

@[simp] theorem stageChannel_outer (n : Nat) (part : Nat) (val : U64) :
    (stageChannel s n part val).fuse = s.fuse ∧ (stageChannel s n part val).pending = s.pending ∧ (stageChannel s n part val).host = s.host ∧ (stageChannel s n part val).hbm = s.hbm := by
  unfold stageChannel
  (repeat' split) <;> simp

@[simp] theorem applyCancel_outer (r : Nat) (i : U32) :
    (applyCancel s r i).fuse = s.fuse ∧ (applyCancel s r i).pending = s.pending ∧ (applyCancel s r i).hbm = s.hbm := by
  unfold applyCancel
  (repeat' split) <;> simp

@[simp] theorem raiseRing_outer (r : Nat) :
    (raiseRing s r).fuse = s.fuse ∧ (raiseRing s r).pending = s.pending ∧ (raiseRing s r).host = s.host ∧ (raiseRing s r).hbm = s.hbm := by
  unfold raiseRing
  (repeat' split) <;> simp

@[simp] theorem readyItem_outer (r : Nat) (t : Item) :
    (readyItem s r t).fuse = s.fuse ∧ (readyItem s r t).pending = s.pending ∧ (readyItem s r t).hbm = s.hbm := by
  unfold readyItem
  (repeat' split) <;> simp

@[simp] theorem letStart_outer (r : Nat) (t : Item) :
    (letStart s r t).fuse = s.fuse ∧ (letStart s r t).pending = s.pending ∧ (letStart s r t).hbm = s.hbm := by
  unfold letStart
  (repeat' split) <;> simp

@[simp] theorem cancelRing_outer (r : Nat) :
    (cancelRing s r).fuse = s.fuse ∧ (cancelRing s r).pending = s.pending ∧ (cancelRing s r).hbm = s.hbm := by
  unfold cancelRing
  simp

/-- What an action on one item keeps, a pass over a ring keeps. -/
theorem passRing_keeps {γ : Type} (p : State → γ) (act : State → Nat → Item → State) (h : ∀ u r t, p (act u r t) = p u)
    (e : Nat × List U32) : p (passRing act s e) = p s := by
  unfold passRing
  refine foldl_keeps p (fun u x => ?_) _ _
  split
  · exact h ..
  · rfl

@[simp] theorem passReady_outer (e : Nat × List U32) :
    (passRing readyItem s e).fuse = s.fuse ∧ (passRing readyItem s e).pending = s.pending ∧ (passRing readyItem s e).hbm = s.hbm :=
  ⟨passRing_keeps _ _ (by simp) e, passRing_keeps _ _ (by simp) e, passRing_keeps _ _ (by simp) e⟩

@[simp] theorem passStart_outer (e : Nat × List U32) :
    (passRing letStart s e).fuse = s.fuse ∧ (passRing letStart s e).pending = s.pending ∧ (passRing letStart s e).hbm = s.hbm :=
  ⟨passRing_keeps _ _ (by simp) e, passRing_keeps _ _ (by simp) e, passRing_keeps _ _ (by simp) e⟩

@[simp] theorem raiseDue_outer (r : Nat) :
    (raiseDue s r).fuse = s.fuse ∧ (raiseDue s r).pending = s.pending ∧ (raiseDue s r).host = s.host ∧ (raiseDue s r).hbm = s.hbm := by
  unfold raiseDue
  dsimp only
  split <;> simp

@[simp] theorem unloadWaiting_outer (r : Nat) (t : Item) :
    (unloadWaiting s r t).fuse = s.fuse ∧ (unloadWaiting s r t).pending = s.pending ∧ (unloadWaiting s r t).hbm = s.hbm := by
  unfold unloadWaiting
  simp

theorem startItem_outer {γ : Type} (p : State → γ) (hm : ∀ u r i f, p (modItem u r i f) = p u)
    (he : ∀ u r i c d, p (endItem u r i c d) = p u) (hi : ∀ u r i b, p (endInvalid u r i b) = p u)
    (r : Nat) (i : U32) (op : Nat) {go : State → Item → State} (h : ∀ u t, p (go u t) = p u) : p (startItem s r i op go) = p s := by
  unfold startItem
  dsimp only
  repeat' split
  all_goals simp only [hm, he, hi, h]

theorem onBake_outer {γ : Type} (p : State → γ) (hm : ∀ u r i f, p (modItem u r i f) = p u)
    (hi : ∀ u r i b, p (endInvalid u r i b) = p u) (r : Nat) (t : Item) {go : State → Nat → State} (h : ∀ u b, p (go u b) = p u) :
    p (onBake s r t go) = p s := by
  unfold onBake
  split
  · simp only [hm, h]
  · simp only [hi]

@[simp] theorem readIo_outer (r : Nat) (w : BitVec 512) :
    (readIo s r w).2.fuse = s.fuse ∧ (readIo s r w).2.pending = s.pending ∧ (readIo s r w).2.host = s.host ∧ (readIo s r w).2.hbm = s.hbm := by
  unfold readIo
  dsimp only
  have := readDva_outer (s := s)
  repeat' split
  all_goals simp [readDva_outer]

@[simp] theorem endFault_outer (r : Nat) (i : U32) (e : Nat × Nat) :
    (endFault s r i e).fuse = s.fuse ∧ (endFault s r i e).pending = s.pending ∧ (endFault s r i e).hbm = s.hbm := by
  unfold endFault
  (repeat' split) <;> simp

@[simp] theorem rejectEarly_outer (r : Nat) (i : U32) (x : Reject) :
    (rejectEarly s r i x).fuse = s.fuse ∧ (rejectEarly s r i x).pending = s.pending ∧ (rejectEarly s r i x).hbm = s.hbm := by
  unfold rejectEarly
  (repeat' split) <;> simp

@[simp] theorem takeLoad_outer (r : Nat) (i : U32) (w : BitVec 512) (b : Nat) (h : W256) :
    (takeLoad s r i w b h).fuse = s.fuse ∧ (takeLoad s r i w b h).pending = s.pending ∧ (takeLoad s r i w b h).hbm = s.hbm := by
  unfold takeLoad
  dsimp only
  repeat' split
  all_goals simp [readDva_outer]

@[simp] theorem emptySlot_outer (b : Nat) :
    (emptySlot s b).fuse = s.fuse ∧ (emptySlot s b).pending = s.pending ∧ (emptySlot s b).host = s.host ∧ (emptySlot s b).hbm = s.hbm := by
  unfold emptySlot
  (repeat' split) <;> simp

/-! ### Stacks -/

@[simp] theorem moveBytes_outer (src : Nat) (dst : Nat) (n : Nat) :
    (moveBytes s src dst n).fuse = s.fuse ∧ (moveBytes s src dst n).pending = s.pending ∧ (moveBytes s src dst n).host = s.host := by
  unfold moveBytes
  (repeat' split) <;> simp

@[simp] theorem moveGranules_outer (ch : Nat) (m : Nat × Nat × Nat × Nat × Nat) :
    (moveGranules s ch m).fuse = s.fuse ∧ (moveGranules s ch m).pending = s.pending := by
  unfold moveGranules
  (repeat' split) <;> simp

@[simp] theorem unbackPages_outer (ch : Nat) :
    (unbackPages s ch).fuse = s.fuse ∧ (unbackPages s ch).pending = s.pending ∧ (unbackPages s ch).hbm = s.hbm := by
  unfold unbackPages
  (repeat' split) <;> simp

@[simp] theorem loseBake_outer (ch : Nat) (t : State) (b : Nat) :
    (loseBake s ch t b).fuse = t.fuse ∧ (loseBake s ch t b).pending = t.pending ∧ (loseBake s ch t b).hbm = t.hbm := by
  unfold loseBake
  dsimp only
  (repeat' split) <;> simp

@[simp] theorem loseStripe_outer (stack : Nat) :
    (loseStripe s stack).fuse = s.fuse ∧ (loseStripe s stack).pending = s.pending ∧ (loseStripe s stack).host = s.host := by
  unfold loseStripe
  (repeat' split) <;> simp

@[simp] theorem dropCached_outer (places : List Nat) :
    (dropCached s places).fuse = s.fuse ∧ (dropCached s places).pending = s.pending ∧ (dropCached s places).host = s.host ∧ (dropCached s places).hbm = s.hbm := by
  unfold dropCached
  (repeat' split) <;> simp

@[simp] theorem retireChannel_outer (ch : Nat) (planned : Bool) (cached : List Nat) :
    (retireChannel s ch planned cached).fuse = s.fuse ∧ (retireChannel s ch planned cached).pending = s.pending ∧ (retireChannel s ch planned cached).host = s.host := by
  unfold retireChannel
  (repeat' split) <;> simp

@[simp] theorem loseContents_outer (ch : Nat) :
    (loseContents s ch).fuse = s.fuse ∧ (loseContents s ch).pending = s.pending := by
  unfold loseContents
  simp

/-! ### Integrity -/

@[simp] theorem digestWords_outer (b j : Nat) :
    (digestWords s b j).2.fuse = s.fuse ∧ (digestWords s b j).2.pending = s.pending ∧ (digestWords s b j).2.host = s.host := by
  unfold digestWords
  split <;> simp

@[simp] theorem digestOf_outer (b : Nat) (seed : U64) (l : List Nat) :
    (digestOf s b seed l).2.fuse = s.fuse ∧ (digestOf s b seed l).2.pending = s.pending ∧ (digestOf s b seed l).2.host = s.host := by
  unfold digestOf
  refine ⟨?_, ?_, ?_⟩
  · exact foldl_keeps (fun a : (BitVec 128 × Bool) × State => a.2.fuse) (fun u x => by simp) _ _
  · exact foldl_keeps (fun a : (BitVec 128 × Bool) × State => a.2.pending) (fun u x => by simp) _ _
  · exact foldl_keeps (fun a : (BitVec 128 × Bool) × State => a.2.host) (fun u x => by simp) _ _

@[simp] theorem bankDigest_outer (b : Nat) (areaB : Bool) :
    (bankDigest s b areaB).2.fuse = s.fuse ∧ (bankDigest s b areaB).2.pending = s.pending ∧ (bankDigest s b areaB).2.host = s.host := by
  unfold bankDigest
  refine ⟨?_, ?_, ?_⟩
  · exact foldl_keeps (fun a : BitVec 128 × State => a.2.fuse) (fun u x => by simp) _ _
  · exact foldl_keeps (fun a : BitVec 128 × State => a.2.pending) (fun u x => by simp) _ _
  · exact foldl_keeps (fun a : BitVec 128 × State => a.2.host) (fun u x => by simp) _ _

/-! ### Units -/

@[simp] theorem ingressServed_outer (c : CoreId) (r : BankReq) :
    (ingressServed c s r).fuse = s.fuse ∧ (ingressServed c s r).pending = s.pending ∧ (ingressServed c s r).host = s.host ∧ (ingressServed c s r).hbm = s.hbm := by
  unfold ingressServed
  (repeat' split) <;> simp

@[simp] theorem padCycle_outer (c : CoreId) (reqs : List BankReq) (ups : List (Nat × Check)) :
    (padCycle s c reqs ups).fuse = s.fuse ∧ (padCycle s c reqs ups).pending = s.pending ∧ (padCycle s c reqs ups).host = s.host ∧ (padCycle s c reqs ups).hbm = s.hbm := by
  unfold padCycle
  simp

end Sys2Proof.Machine
end

