-- ==== Sys2Proof/Laws/Fuses.lean ====
section
/-! SUPPORT. The fuses only grow: the one operation that burns them, and the two that lead to it. -/

namespace Sys2Proof.Machine

variable {s : State}

theorem fuseGrown_refl (a : Fuse) : FuseGrown a a := by simp [FuseGrown]

theorem fuseGrown_of_eq {a b : Fuse} (h : b = a) : FuseGrown a b := h ▸ fuseGrown_refl a

theorem fuseGrown_trans {a b c : Fuse} (h : FuseGrown a b) (k : FuseGrown b c) : FuseGrown a c := by
  obtain ⟨h1, h2, h3, h4, h5, h6, h7, h8, h8b, h9, h10⟩ := h
  obtain ⟨k1, k2, k3, k4, k5, k6, k7, k8, k8b, k9, k10⟩ := k
  refine ⟨k1.trans h1, k2.trans h2, k3.trans h3, k4.trans h4, k5.trans h5, k6.trans h6, k7.trans h7, k8.trans h8, k8b.trans h8b, ?_, ?_⟩
  · rw [← h9, BitVec.and_assoc, k9]
  · exact BitVec.le_trans h10 k10

theorem and_or_absorb (a b : BitVec 4) : a &&& (a ||| b) = a := by
  apply BitVec.eq_of_getElem_eq
  intro i hi
  simp only [BitVec.getElem_and, BitVec.getElem_or]
  cases a[i] <;> simp

/-- The signing policy is burned into the fuses and never unburned. -/
theorem applyPolicy_grown (l : List (Nat × List Byte)) : FuseGrown s.fuse (applyPolicy s l).fuse := by
  refine ⟨rfl, rfl, rfl, rfl, rfl, rfl, rfl, rfl, rfl, and_or_absorb _ _, ?_⟩
  have h1 := s.fuse.minSvn.isLt
  have h2 : wouldBe s l 0x7010 3 % 2 ^ 32 < 2 ^ 32 := Nat.mod_lt _ (by decide)
  show s.fuse.minSvn ≤ BitVec.ofNat 32 (max s.fuse.minSvn.toNat (wouldBe s l 0x7010 3 % 2 ^ 32))
  rw [BitVec.le_def, BitVec.toNat_ofNat, Nat.mod_eq_of_lt (by omega)]
  omega

theorem applySet_grown (n : Nat) (l : List (Nat × List Byte)) : FuseGrown s.fuse (applySet s n l).fuse := by
  unfold applySet
  split
  case h_7 => exact applyPolicy_grown l
  case h_5 =>
    generalize List.range 16 = r
    exact fuseGrown_of_eq (by simp)
  case h_9 =>
    have k : ∀ m : List (Nat × List Byte), ∀ u : State,
        (m.foldl (fun t e => if (t.bake e.1).place.isSome then writeBounds t e.1 else t) u).fuse = u.fuse :=
      fun m u => foldl_keeps _ (fun v x => by split <;> simp) m u
    exact fuseGrown_of_eq ((k _ _).trans (by simp))
  all_goals exact fuseGrown_of_eq (by simp)

/-- Applying a set that is due burns no fuse back. -/
theorem applyDue_grown (n : Nat) : FuseGrown s.fuse (applyDue s n).fuse := by
  unfold applyDue
  dsimp only
  split
  · exact fuseGrown_refl _
  · split
    · exact fuseGrown_of_eq (by simp)
    · have h := applySet_grown (s := s.modDict fun d => { d with due := mset {} d.due n {} }) n (mget {} s.ctl.dict.due n).vals
      simpa using h

end Sys2Proof.Machine
end

