-- ==== Sys2Proof/Laws/State.lean ====
section
/-! SUPPORT. One lemma per field per update of the state: what a change of one unit, one record or the event queue leaves alone,
and what is read of the unit afterwards. -/

namespace Sys2Proof.Machine

variable (s : State)

/-! ### modCore -/

@[simp] theorem State.modCore_fuse (c : CoreId) (f : Core → Core) : (s.modCore c f).fuse = s.fuse := rfl
@[simp] theorem State.modCore_aon (c : CoreId) (f : Core → Core) : (s.modCore c f).aon = s.aon := rfl
@[simp] theorem State.modCore_mesh (c : CoreId) (f : Core → Core) : (s.modCore c f).mesh = s.mesh := rfl
@[simp] theorem State.modCore_hearths (c : CoreId) (f : Core → Core) : (s.modCore c f).hearths = s.hearths := rfl
@[simp] theorem State.modCore_rails (c : CoreId) (f : Core → Core) : (s.modCore c f).rails = s.rails := rfl
@[simp] theorem State.modCore_power (c : CoreId) (f : Core → Core) : (s.modCore c f).power = s.power := rfl
@[simp] theorem State.modCore_map (c : CoreId) (f : Core → Core) : (s.modCore c f).map = s.map := rfl
@[simp] theorem State.modCore_flue (c : CoreId) (f : Core → Core) : (s.modCore c f).flue = s.flue := rfl
@[simp] theorem State.modCore_baker (c : CoreId) (f : Core → Core) : (s.modCore c f).baker = s.baker := rfl
@[simp] theorem State.modCore_ring (c : CoreId) (f : Core → Core) : (s.modCore c f).ring = s.ring := rfl
@[simp] theorem State.modCore_hbm (c : CoreId) (f : Core → Core) : (s.modCore c f).hbm = s.hbm := rfl
@[simp] theorem State.modCore_host (c : CoreId) (f : Core → Core) : (s.modCore c f).host = s.host := rfl
@[simp] theorem State.modCore_links (c : CoreId) (f : Core → Core) : (s.modCore c f).links = s.links := rfl
@[simp] theorem State.modCore_ctl (c : CoreId) (f : Core → Core) : (s.modCore c f).ctl = s.ctl := rfl
@[simp] theorem State.modCore_recov (c : CoreId) (f : Core → Core) : (s.modCore c f).recov = s.recov := rfl
@[simp] theorem State.modCore_integ (c : CoreId) (f : Core → Core) : (s.modCore c f).integ = s.integ := rfl
@[simp] theorem State.modCore_pending (c : CoreId) (f : Core → Core) : (s.modCore c f).pending = s.pending := rfl
theorem State.modCore_cores (c : CoreId) (f : Core → Core) : (s.modCore c f).cores = mmod {} s.cores c f := rfl
@[simp] theorem State.modCore_hearth (c : CoreId) (f : Core → Core) (i : Nat) : (s.modCore c f).hearth i = s.hearth i := rfl
@[simp] theorem State.modCore_rail (c : CoreId) (f : Core → Core) (i : Nat) : (s.modCore c f).rail i = s.rail i := rfl
@[simp] theorem State.modCore_bake (c : CoreId) (f : Core → Core) (i : Nat) : (s.modCore c f).bake i = s.bake i := rfl
@[simp] theorem State.modCore_workRing (c : CoreId) (f : Core → Core) (i : Nat) : (s.modCore c f).workRing i = s.workRing i := rfl
@[simp] theorem State.modCore_port (c : CoreId) (f : Core → Core) (i : Nat) : (s.modCore c f).port i = s.port i := rfl
@[simp] theorem State.modCore_router (c : CoreId) (f : Core → Core) (i : Nat) : (s.modCore c f).router i = s.router i := rfl
@[simp] theorem State.modCore_chan (c : CoreId) (f : Core → Core) (i : Nat) : (s.modCore c f).chan i = s.chan i := rfl
@[simp] theorem State.modCore_proc (c : CoreId) (f : Core → Core) (i : Nat) : (s.modCore c f).proc i = s.proc i := rfl
@[simp] theorem State.modCore_box (c : CoreId) (f : Core → Core) (i : Nat) : (s.modCore c f).box i = s.box i := rfl
@[simp] theorem State.modCore_channel (c : CoreId) (f : Core → Core) (i : Nat) : (s.modCore c f).channel i = s.channel i := rfl
theorem State.modCore_core (c i : CoreId) (f : Core → Core) : (s.modCore c f).core i = if i = c then f (s.core c) else s.core i :=
  mget_mmod _ _ _ _ _
@[simp] theorem State.modCore_core_same (c : CoreId) (f : Core → Core) : (s.modCore c f).core c = f (s.core c) := by
  rw [State.modCore_core, if_pos rfl]

/-! ### modHearth -/

@[simp] theorem State.modHearth_fuse (n : Nat) (f : Hearth → Hearth) : (s.modHearth n f).fuse = s.fuse := rfl
@[simp] theorem State.modHearth_aon (n : Nat) (f : Hearth → Hearth) : (s.modHearth n f).aon = s.aon := rfl
@[simp] theorem State.modHearth_mesh (n : Nat) (f : Hearth → Hearth) : (s.modHearth n f).mesh = s.mesh := rfl
@[simp] theorem State.modHearth_rails (n : Nat) (f : Hearth → Hearth) : (s.modHearth n f).rails = s.rails := rfl
@[simp] theorem State.modHearth_power (n : Nat) (f : Hearth → Hearth) : (s.modHearth n f).power = s.power := rfl
@[simp] theorem State.modHearth_map (n : Nat) (f : Hearth → Hearth) : (s.modHearth n f).map = s.map := rfl
@[simp] theorem State.modHearth_cores (n : Nat) (f : Hearth → Hearth) : (s.modHearth n f).cores = s.cores := rfl
@[simp] theorem State.modHearth_flue (n : Nat) (f : Hearth → Hearth) : (s.modHearth n f).flue = s.flue := rfl
@[simp] theorem State.modHearth_baker (n : Nat) (f : Hearth → Hearth) : (s.modHearth n f).baker = s.baker := rfl
@[simp] theorem State.modHearth_ring (n : Nat) (f : Hearth → Hearth) : (s.modHearth n f).ring = s.ring := rfl
@[simp] theorem State.modHearth_hbm (n : Nat) (f : Hearth → Hearth) : (s.modHearth n f).hbm = s.hbm := rfl
@[simp] theorem State.modHearth_host (n : Nat) (f : Hearth → Hearth) : (s.modHearth n f).host = s.host := rfl
@[simp] theorem State.modHearth_links (n : Nat) (f : Hearth → Hearth) : (s.modHearth n f).links = s.links := rfl
@[simp] theorem State.modHearth_ctl (n : Nat) (f : Hearth → Hearth) : (s.modHearth n f).ctl = s.ctl := rfl
@[simp] theorem State.modHearth_recov (n : Nat) (f : Hearth → Hearth) : (s.modHearth n f).recov = s.recov := rfl
@[simp] theorem State.modHearth_integ (n : Nat) (f : Hearth → Hearth) : (s.modHearth n f).integ = s.integ := rfl
@[simp] theorem State.modHearth_pending (n : Nat) (f : Hearth → Hearth) : (s.modHearth n f).pending = s.pending := rfl
theorem State.modHearth_hearths (n : Nat) (f : Hearth → Hearth) : (s.modHearth n f).hearths = mmod {} s.hearths n f := rfl
@[simp] theorem State.modHearth_core (n : Nat) (f : Hearth → Hearth) (i : Nat) : (s.modHearth n f).core i = s.core i := rfl
@[simp] theorem State.modHearth_rail (n : Nat) (f : Hearth → Hearth) (i : Nat) : (s.modHearth n f).rail i = s.rail i := rfl
@[simp] theorem State.modHearth_bake (n : Nat) (f : Hearth → Hearth) (i : Nat) : (s.modHearth n f).bake i = s.bake i := rfl
@[simp] theorem State.modHearth_workRing (n : Nat) (f : Hearth → Hearth) (i : Nat) : (s.modHearth n f).workRing i = s.workRing i := rfl
@[simp] theorem State.modHearth_port (n : Nat) (f : Hearth → Hearth) (i : Nat) : (s.modHearth n f).port i = s.port i := rfl
@[simp] theorem State.modHearth_router (n : Nat) (f : Hearth → Hearth) (i : Nat) : (s.modHearth n f).router i = s.router i := rfl
@[simp] theorem State.modHearth_chan (n : Nat) (f : Hearth → Hearth) (i : Nat) : (s.modHearth n f).chan i = s.chan i := rfl
@[simp] theorem State.modHearth_proc (n : Nat) (f : Hearth → Hearth) (i : Nat) : (s.modHearth n f).proc i = s.proc i := rfl
@[simp] theorem State.modHearth_box (n : Nat) (f : Hearth → Hearth) (i : Nat) : (s.modHearth n f).box i = s.box i := rfl
@[simp] theorem State.modHearth_channel (n : Nat) (f : Hearth → Hearth) (i : Nat) : (s.modHearth n f).channel i = s.channel i := rfl
theorem State.modHearth_hearth (n i : Nat) (f : Hearth → Hearth) : (s.modHearth n f).hearth i = if i = n then f (s.hearth n) else s.hearth i :=
  mget_mmod _ _ _ _ _
@[simp] theorem State.modHearth_hearth_same (n : Nat) (f : Hearth → Hearth) : (s.modHearth n f).hearth n = f (s.hearth n) := by
  rw [State.modHearth_hearth, if_pos rfl]

/-! ### modRail -/

@[simp] theorem State.modRail_fuse (r : Nat) (f : Rail → Rail) : (s.modRail r f).fuse = s.fuse := rfl
@[simp] theorem State.modRail_aon (r : Nat) (f : Rail → Rail) : (s.modRail r f).aon = s.aon := rfl
@[simp] theorem State.modRail_mesh (r : Nat) (f : Rail → Rail) : (s.modRail r f).mesh = s.mesh := rfl
@[simp] theorem State.modRail_hearths (r : Nat) (f : Rail → Rail) : (s.modRail r f).hearths = s.hearths := rfl
@[simp] theorem State.modRail_power (r : Nat) (f : Rail → Rail) : (s.modRail r f).power = s.power := rfl
@[simp] theorem State.modRail_map (r : Nat) (f : Rail → Rail) : (s.modRail r f).map = s.map := rfl
@[simp] theorem State.modRail_cores (r : Nat) (f : Rail → Rail) : (s.modRail r f).cores = s.cores := rfl
@[simp] theorem State.modRail_flue (r : Nat) (f : Rail → Rail) : (s.modRail r f).flue = s.flue := rfl
@[simp] theorem State.modRail_baker (r : Nat) (f : Rail → Rail) : (s.modRail r f).baker = s.baker := rfl
@[simp] theorem State.modRail_ring (r : Nat) (f : Rail → Rail) : (s.modRail r f).ring = s.ring := rfl
@[simp] theorem State.modRail_hbm (r : Nat) (f : Rail → Rail) : (s.modRail r f).hbm = s.hbm := rfl
@[simp] theorem State.modRail_host (r : Nat) (f : Rail → Rail) : (s.modRail r f).host = s.host := rfl
@[simp] theorem State.modRail_links (r : Nat) (f : Rail → Rail) : (s.modRail r f).links = s.links := rfl
@[simp] theorem State.modRail_ctl (r : Nat) (f : Rail → Rail) : (s.modRail r f).ctl = s.ctl := rfl
@[simp] theorem State.modRail_recov (r : Nat) (f : Rail → Rail) : (s.modRail r f).recov = s.recov := rfl
@[simp] theorem State.modRail_integ (r : Nat) (f : Rail → Rail) : (s.modRail r f).integ = s.integ := rfl
@[simp] theorem State.modRail_pending (r : Nat) (f : Rail → Rail) : (s.modRail r f).pending = s.pending := rfl
theorem State.modRail_rails (r : Nat) (f : Rail → Rail) : (s.modRail r f).rails = mmod {} s.rails r f := rfl
@[simp] theorem State.modRail_core (r : Nat) (f : Rail → Rail) (i : Nat) : (s.modRail r f).core i = s.core i := rfl
@[simp] theorem State.modRail_hearth (r : Nat) (f : Rail → Rail) (i : Nat) : (s.modRail r f).hearth i = s.hearth i := rfl
@[simp] theorem State.modRail_bake (r : Nat) (f : Rail → Rail) (i : Nat) : (s.modRail r f).bake i = s.bake i := rfl
@[simp] theorem State.modRail_workRing (r : Nat) (f : Rail → Rail) (i : Nat) : (s.modRail r f).workRing i = s.workRing i := rfl
@[simp] theorem State.modRail_port (r : Nat) (f : Rail → Rail) (i : Nat) : (s.modRail r f).port i = s.port i := rfl
@[simp] theorem State.modRail_router (r : Nat) (f : Rail → Rail) (i : Nat) : (s.modRail r f).router i = s.router i := rfl
@[simp] theorem State.modRail_chan (r : Nat) (f : Rail → Rail) (i : Nat) : (s.modRail r f).chan i = s.chan i := rfl
@[simp] theorem State.modRail_proc (r : Nat) (f : Rail → Rail) (i : Nat) : (s.modRail r f).proc i = s.proc i := rfl
@[simp] theorem State.modRail_box (r : Nat) (f : Rail → Rail) (i : Nat) : (s.modRail r f).box i = s.box i := rfl
@[simp] theorem State.modRail_channel (r : Nat) (f : Rail → Rail) (i : Nat) : (s.modRail r f).channel i = s.channel i := rfl
theorem State.modRail_rail (r i : Nat) (f : Rail → Rail) : (s.modRail r f).rail i = if i = r then f (s.rail r) else s.rail i :=
  mget_mmod _ _ _ _ _
@[simp] theorem State.modRail_rail_same (r : Nat) (f : Rail → Rail) : (s.modRail r f).rail r = f (s.rail r) := by
  rw [State.modRail_rail, if_pos rfl]

/-! ### modBake -/

@[simp] theorem State.modBake_fuse (b : Nat) (f : Bake → Bake) : (s.modBake b f).fuse = s.fuse := rfl
@[simp] theorem State.modBake_aon (b : Nat) (f : Bake → Bake) : (s.modBake b f).aon = s.aon := rfl
@[simp] theorem State.modBake_mesh (b : Nat) (f : Bake → Bake) : (s.modBake b f).mesh = s.mesh := rfl
@[simp] theorem State.modBake_hearths (b : Nat) (f : Bake → Bake) : (s.modBake b f).hearths = s.hearths := rfl
@[simp] theorem State.modBake_rails (b : Nat) (f : Bake → Bake) : (s.modBake b f).rails = s.rails := rfl
@[simp] theorem State.modBake_power (b : Nat) (f : Bake → Bake) : (s.modBake b f).power = s.power := rfl
@[simp] theorem State.modBake_map (b : Nat) (f : Bake → Bake) : (s.modBake b f).map = s.map := rfl
@[simp] theorem State.modBake_cores (b : Nat) (f : Bake → Bake) : (s.modBake b f).cores = s.cores := rfl
@[simp] theorem State.modBake_flue (b : Nat) (f : Bake → Bake) : (s.modBake b f).flue = s.flue := rfl
@[simp] theorem State.modBake_ring (b : Nat) (f : Bake → Bake) : (s.modBake b f).ring = s.ring := rfl
@[simp] theorem State.modBake_hbm (b : Nat) (f : Bake → Bake) : (s.modBake b f).hbm = s.hbm := rfl
@[simp] theorem State.modBake_host (b : Nat) (f : Bake → Bake) : (s.modBake b f).host = s.host := rfl
@[simp] theorem State.modBake_links (b : Nat) (f : Bake → Bake) : (s.modBake b f).links = s.links := rfl
@[simp] theorem State.modBake_ctl (b : Nat) (f : Bake → Bake) : (s.modBake b f).ctl = s.ctl := rfl
@[simp] theorem State.modBake_recov (b : Nat) (f : Bake → Bake) : (s.modBake b f).recov = s.recov := rfl
@[simp] theorem State.modBake_integ (b : Nat) (f : Bake → Bake) : (s.modBake b f).integ = s.integ := rfl
@[simp] theorem State.modBake_pending (b : Nat) (f : Bake → Bake) : (s.modBake b f).pending = s.pending := rfl
theorem State.modBake_baker (b : Nat) (f : Bake → Bake) : (s.modBake b f).baker = { s.baker with slots := mmod {} s.baker.slots b f } := rfl
@[simp] theorem State.modBake_core (b : Nat) (f : Bake → Bake) (i : Nat) : (s.modBake b f).core i = s.core i := rfl
@[simp] theorem State.modBake_hearth (b : Nat) (f : Bake → Bake) (i : Nat) : (s.modBake b f).hearth i = s.hearth i := rfl
@[simp] theorem State.modBake_rail (b : Nat) (f : Bake → Bake) (i : Nat) : (s.modBake b f).rail i = s.rail i := rfl
@[simp] theorem State.modBake_workRing (b : Nat) (f : Bake → Bake) (i : Nat) : (s.modBake b f).workRing i = s.workRing i := rfl
@[simp] theorem State.modBake_port (b : Nat) (f : Bake → Bake) (i : Nat) : (s.modBake b f).port i = s.port i := rfl
@[simp] theorem State.modBake_router (b : Nat) (f : Bake → Bake) (i : Nat) : (s.modBake b f).router i = s.router i := rfl
@[simp] theorem State.modBake_chan (b : Nat) (f : Bake → Bake) (i : Nat) : (s.modBake b f).chan i = s.chan i := rfl
@[simp] theorem State.modBake_proc (b : Nat) (f : Bake → Bake) (i : Nat) : (s.modBake b f).proc i = s.proc i := rfl
@[simp] theorem State.modBake_box (b : Nat) (f : Bake → Bake) (i : Nat) : (s.modBake b f).box i = s.box i := rfl
@[simp] theorem State.modBake_channel (b : Nat) (f : Bake → Bake) (i : Nat) : (s.modBake b f).channel i = s.channel i := rfl
theorem State.modBake_bake (b i : Nat) (f : Bake → Bake) : (s.modBake b f).bake i = if i = b then f (s.bake b) else s.bake i :=
  mget_mmod _ _ _ _ _
@[simp] theorem State.modBake_bake_same (b : Nat) (f : Bake → Bake) : (s.modBake b f).bake b = f (s.bake b) := by
  rw [State.modBake_bake, if_pos rfl]

/-! ### modRing -/

@[simp] theorem State.modRing_fuse (r : Nat) (f : Ring → Ring) : (s.modRing r f).fuse = s.fuse := rfl
@[simp] theorem State.modRing_aon (r : Nat) (f : Ring → Ring) : (s.modRing r f).aon = s.aon := rfl
@[simp] theorem State.modRing_mesh (r : Nat) (f : Ring → Ring) : (s.modRing r f).mesh = s.mesh := rfl
@[simp] theorem State.modRing_hearths (r : Nat) (f : Ring → Ring) : (s.modRing r f).hearths = s.hearths := rfl
@[simp] theorem State.modRing_rails (r : Nat) (f : Ring → Ring) : (s.modRing r f).rails = s.rails := rfl
@[simp] theorem State.modRing_power (r : Nat) (f : Ring → Ring) : (s.modRing r f).power = s.power := rfl
@[simp] theorem State.modRing_map (r : Nat) (f : Ring → Ring) : (s.modRing r f).map = s.map := rfl
@[simp] theorem State.modRing_cores (r : Nat) (f : Ring → Ring) : (s.modRing r f).cores = s.cores := rfl
@[simp] theorem State.modRing_flue (r : Nat) (f : Ring → Ring) : (s.modRing r f).flue = s.flue := rfl
@[simp] theorem State.modRing_baker (r : Nat) (f : Ring → Ring) : (s.modRing r f).baker = s.baker := rfl
@[simp] theorem State.modRing_hbm (r : Nat) (f : Ring → Ring) : (s.modRing r f).hbm = s.hbm := rfl
@[simp] theorem State.modRing_host (r : Nat) (f : Ring → Ring) : (s.modRing r f).host = s.host := rfl
@[simp] theorem State.modRing_links (r : Nat) (f : Ring → Ring) : (s.modRing r f).links = s.links := rfl
@[simp] theorem State.modRing_ctl (r : Nat) (f : Ring → Ring) : (s.modRing r f).ctl = s.ctl := rfl
@[simp] theorem State.modRing_recov (r : Nat) (f : Ring → Ring) : (s.modRing r f).recov = s.recov := rfl
@[simp] theorem State.modRing_integ (r : Nat) (f : Ring → Ring) : (s.modRing r f).integ = s.integ := rfl
@[simp] theorem State.modRing_pending (r : Nat) (f : Ring → Ring) : (s.modRing r f).pending = s.pending := rfl
theorem State.modRing_ring (r : Nat) (f : Ring → Ring) : (s.modRing r f).ring = { s.ring with rings := mmod {} s.ring.rings r f } := rfl
@[simp] theorem State.modRing_core (r : Nat) (f : Ring → Ring) (i : Nat) : (s.modRing r f).core i = s.core i := rfl
@[simp] theorem State.modRing_hearth (r : Nat) (f : Ring → Ring) (i : Nat) : (s.modRing r f).hearth i = s.hearth i := rfl
@[simp] theorem State.modRing_rail (r : Nat) (f : Ring → Ring) (i : Nat) : (s.modRing r f).rail i = s.rail i := rfl
@[simp] theorem State.modRing_bake (r : Nat) (f : Ring → Ring) (i : Nat) : (s.modRing r f).bake i = s.bake i := rfl
@[simp] theorem State.modRing_port (r : Nat) (f : Ring → Ring) (i : Nat) : (s.modRing r f).port i = s.port i := rfl
@[simp] theorem State.modRing_router (r : Nat) (f : Ring → Ring) (i : Nat) : (s.modRing r f).router i = s.router i := rfl
@[simp] theorem State.modRing_chan (r : Nat) (f : Ring → Ring) (i : Nat) : (s.modRing r f).chan i = s.chan i := rfl
@[simp] theorem State.modRing_proc (r : Nat) (f : Ring → Ring) (i : Nat) : (s.modRing r f).proc i = s.proc i := rfl
@[simp] theorem State.modRing_box (r : Nat) (f : Ring → Ring) (i : Nat) : (s.modRing r f).box i = s.box i := rfl
@[simp] theorem State.modRing_channel (r : Nat) (f : Ring → Ring) (i : Nat) : (s.modRing r f).channel i = s.channel i := rfl
theorem State.modRing_workRing (r i : Nat) (f : Ring → Ring) : (s.modRing r f).workRing i = if i = r then f (s.workRing r) else s.workRing i :=
  mget_mmod _ _ _ _ _
@[simp] theorem State.modRing_workRing_same (r : Nat) (f : Ring → Ring) : (s.modRing r f).workRing r = f (s.workRing r) := by
  rw [State.modRing_workRing, if_pos rfl]

/-! ### modPort -/

@[simp] theorem State.modPort_fuse (p : Nat) (f : Port → Port) : (s.modPort p f).fuse = s.fuse := rfl
@[simp] theorem State.modPort_aon (p : Nat) (f : Port → Port) : (s.modPort p f).aon = s.aon := rfl
@[simp] theorem State.modPort_mesh (p : Nat) (f : Port → Port) : (s.modPort p f).mesh = s.mesh := rfl
@[simp] theorem State.modPort_hearths (p : Nat) (f : Port → Port) : (s.modPort p f).hearths = s.hearths := rfl
@[simp] theorem State.modPort_rails (p : Nat) (f : Port → Port) : (s.modPort p f).rails = s.rails := rfl
@[simp] theorem State.modPort_power (p : Nat) (f : Port → Port) : (s.modPort p f).power = s.power := rfl
@[simp] theorem State.modPort_map (p : Nat) (f : Port → Port) : (s.modPort p f).map = s.map := rfl
@[simp] theorem State.modPort_cores (p : Nat) (f : Port → Port) : (s.modPort p f).cores = s.cores := rfl
@[simp] theorem State.modPort_flue (p : Nat) (f : Port → Port) : (s.modPort p f).flue = s.flue := rfl
@[simp] theorem State.modPort_baker (p : Nat) (f : Port → Port) : (s.modPort p f).baker = s.baker := rfl
@[simp] theorem State.modPort_ring (p : Nat) (f : Port → Port) : (s.modPort p f).ring = s.ring := rfl
@[simp] theorem State.modPort_hbm (p : Nat) (f : Port → Port) : (s.modPort p f).hbm = s.hbm := rfl
@[simp] theorem State.modPort_host (p : Nat) (f : Port → Port) : (s.modPort p f).host = s.host := rfl
@[simp] theorem State.modPort_ctl (p : Nat) (f : Port → Port) : (s.modPort p f).ctl = s.ctl := rfl
@[simp] theorem State.modPort_recov (p : Nat) (f : Port → Port) : (s.modPort p f).recov = s.recov := rfl
@[simp] theorem State.modPort_integ (p : Nat) (f : Port → Port) : (s.modPort p f).integ = s.integ := rfl
@[simp] theorem State.modPort_pending (p : Nat) (f : Port → Port) : (s.modPort p f).pending = s.pending := rfl
theorem State.modPort_links (p : Nat) (f : Port → Port) : (s.modPort p f).links = { s.links with ports := mmod {} s.links.ports p f } := rfl
@[simp] theorem State.modPort_core (p : Nat) (f : Port → Port) (i : Nat) : (s.modPort p f).core i = s.core i := rfl
@[simp] theorem State.modPort_hearth (p : Nat) (f : Port → Port) (i : Nat) : (s.modPort p f).hearth i = s.hearth i := rfl
@[simp] theorem State.modPort_rail (p : Nat) (f : Port → Port) (i : Nat) : (s.modPort p f).rail i = s.rail i := rfl
@[simp] theorem State.modPort_bake (p : Nat) (f : Port → Port) (i : Nat) : (s.modPort p f).bake i = s.bake i := rfl
@[simp] theorem State.modPort_workRing (p : Nat) (f : Port → Port) (i : Nat) : (s.modPort p f).workRing i = s.workRing i := rfl
@[simp] theorem State.modPort_router (p : Nat) (f : Port → Port) (i : Nat) : (s.modPort p f).router i = s.router i := rfl
@[simp] theorem State.modPort_chan (p : Nat) (f : Port → Port) (i : Nat) : (s.modPort p f).chan i = s.chan i := rfl
@[simp] theorem State.modPort_proc (p : Nat) (f : Port → Port) (i : Nat) : (s.modPort p f).proc i = s.proc i := rfl
@[simp] theorem State.modPort_box (p : Nat) (f : Port → Port) (i : Nat) : (s.modPort p f).box i = s.box i := rfl
@[simp] theorem State.modPort_channel (p : Nat) (f : Port → Port) (i : Nat) : (s.modPort p f).channel i = s.channel i := rfl
theorem State.modPort_port (p i : Nat) (f : Port → Port) : (s.modPort p f).port i = if i = p then f (s.port p) else s.port i :=
  mget_mmod _ _ _ _ _
@[simp] theorem State.modPort_port_same (p : Nat) (f : Port → Port) : (s.modPort p f).port p = f (s.port p) := by
  rw [State.modPort_port, if_pos rfl]

/-! ### modRouter -/

@[simp] theorem State.modRouter_fuse (p : Site) (f : Router → Router) : (s.modRouter p f).fuse = s.fuse := rfl
@[simp] theorem State.modRouter_aon (p : Site) (f : Router → Router) : (s.modRouter p f).aon = s.aon := rfl
@[simp] theorem State.modRouter_mesh (p : Site) (f : Router → Router) : (s.modRouter p f).mesh = s.mesh := rfl
@[simp] theorem State.modRouter_hearths (p : Site) (f : Router → Router) : (s.modRouter p f).hearths = s.hearths := rfl
@[simp] theorem State.modRouter_rails (p : Site) (f : Router → Router) : (s.modRouter p f).rails = s.rails := rfl
@[simp] theorem State.modRouter_power (p : Site) (f : Router → Router) : (s.modRouter p f).power = s.power := rfl
@[simp] theorem State.modRouter_map (p : Site) (f : Router → Router) : (s.modRouter p f).map = s.map := rfl
@[simp] theorem State.modRouter_cores (p : Site) (f : Router → Router) : (s.modRouter p f).cores = s.cores := rfl
@[simp] theorem State.modRouter_baker (p : Site) (f : Router → Router) : (s.modRouter p f).baker = s.baker := rfl
@[simp] theorem State.modRouter_ring (p : Site) (f : Router → Router) : (s.modRouter p f).ring = s.ring := rfl
@[simp] theorem State.modRouter_hbm (p : Site) (f : Router → Router) : (s.modRouter p f).hbm = s.hbm := rfl
@[simp] theorem State.modRouter_host (p : Site) (f : Router → Router) : (s.modRouter p f).host = s.host := rfl
@[simp] theorem State.modRouter_links (p : Site) (f : Router → Router) : (s.modRouter p f).links = s.links := rfl
@[simp] theorem State.modRouter_ctl (p : Site) (f : Router → Router) : (s.modRouter p f).ctl = s.ctl := rfl
@[simp] theorem State.modRouter_recov (p : Site) (f : Router → Router) : (s.modRouter p f).recov = s.recov := rfl
@[simp] theorem State.modRouter_integ (p : Site) (f : Router → Router) : (s.modRouter p f).integ = s.integ := rfl
@[simp] theorem State.modRouter_pending (p : Site) (f : Router → Router) : (s.modRouter p f).pending = s.pending := rfl
theorem State.modRouter_flue (p : Site) (f : Router → Router) : (s.modRouter p f).flue = { s.flue with routers := mmod {} s.flue.routers p f } := rfl
@[simp] theorem State.modRouter_core (p : Site) (f : Router → Router) (i : Nat) : (s.modRouter p f).core i = s.core i := rfl
@[simp] theorem State.modRouter_hearth (p : Site) (f : Router → Router) (i : Nat) : (s.modRouter p f).hearth i = s.hearth i := rfl
@[simp] theorem State.modRouter_rail (p : Site) (f : Router → Router) (i : Nat) : (s.modRouter p f).rail i = s.rail i := rfl
@[simp] theorem State.modRouter_bake (p : Site) (f : Router → Router) (i : Nat) : (s.modRouter p f).bake i = s.bake i := rfl
@[simp] theorem State.modRouter_workRing (p : Site) (f : Router → Router) (i : Nat) : (s.modRouter p f).workRing i = s.workRing i := rfl
@[simp] theorem State.modRouter_port (p : Site) (f : Router → Router) (i : Nat) : (s.modRouter p f).port i = s.port i := rfl
@[simp] theorem State.modRouter_chan (p : Site) (f : Router → Router) (i : Nat) : (s.modRouter p f).chan i = s.chan i := rfl
@[simp] theorem State.modRouter_proc (p : Site) (f : Router → Router) (i : Nat) : (s.modRouter p f).proc i = s.proc i := rfl
@[simp] theorem State.modRouter_box (p : Site) (f : Router → Router) (i : Nat) : (s.modRouter p f).box i = s.box i := rfl
@[simp] theorem State.modRouter_channel (p : Site) (f : Router → Router) (i : Nat) : (s.modRouter p f).channel i = s.channel i := rfl
theorem State.modRouter_router (p i : Site) (f : Router → Router) : (s.modRouter p f).router i = if i = p then f (s.router p) else s.router i :=
  mget_mmod _ _ _ _ _
@[simp] theorem State.modRouter_router_same (p : Site) (f : Router → Router) : (s.modRouter p f).router p = f (s.router p) := by
  rw [State.modRouter_router, if_pos rfl]

/-! ### modChan -/

@[simp] theorem State.modChan_fuse (c : Nat) (f : Channel → Channel) : (s.modChan c f).fuse = s.fuse := rfl
@[simp] theorem State.modChan_aon (c : Nat) (f : Channel → Channel) : (s.modChan c f).aon = s.aon := rfl
@[simp] theorem State.modChan_mesh (c : Nat) (f : Channel → Channel) : (s.modChan c f).mesh = s.mesh := rfl
@[simp] theorem State.modChan_hearths (c : Nat) (f : Channel → Channel) : (s.modChan c f).hearths = s.hearths := rfl
@[simp] theorem State.modChan_rails (c : Nat) (f : Channel → Channel) : (s.modChan c f).rails = s.rails := rfl
@[simp] theorem State.modChan_power (c : Nat) (f : Channel → Channel) : (s.modChan c f).power = s.power := rfl
@[simp] theorem State.modChan_map (c : Nat) (f : Channel → Channel) : (s.modChan c f).map = s.map := rfl
@[simp] theorem State.modChan_cores (c : Nat) (f : Channel → Channel) : (s.modChan c f).cores = s.cores := rfl
@[simp] theorem State.modChan_flue (c : Nat) (f : Channel → Channel) : (s.modChan c f).flue = s.flue := rfl
@[simp] theorem State.modChan_baker (c : Nat) (f : Channel → Channel) : (s.modChan c f).baker = s.baker := rfl
@[simp] theorem State.modChan_ring (c : Nat) (f : Channel → Channel) : (s.modChan c f).ring = s.ring := rfl
@[simp] theorem State.modChan_host (c : Nat) (f : Channel → Channel) : (s.modChan c f).host = s.host := rfl
@[simp] theorem State.modChan_links (c : Nat) (f : Channel → Channel) : (s.modChan c f).links = s.links := rfl
@[simp] theorem State.modChan_ctl (c : Nat) (f : Channel → Channel) : (s.modChan c f).ctl = s.ctl := rfl
@[simp] theorem State.modChan_recov (c : Nat) (f : Channel → Channel) : (s.modChan c f).recov = s.recov := rfl
@[simp] theorem State.modChan_integ (c : Nat) (f : Channel → Channel) : (s.modChan c f).integ = s.integ := rfl
@[simp] theorem State.modChan_pending (c : Nat) (f : Channel → Channel) : (s.modChan c f).pending = s.pending := rfl
theorem State.modChan_hbm (c : Nat) (f : Channel → Channel) : (s.modChan c f).hbm = { s.hbm with chans := mmod {} s.hbm.chans c f } := rfl
@[simp] theorem State.modChan_core (c : Nat) (f : Channel → Channel) (i : Nat) : (s.modChan c f).core i = s.core i := rfl
@[simp] theorem State.modChan_hearth (c : Nat) (f : Channel → Channel) (i : Nat) : (s.modChan c f).hearth i = s.hearth i := rfl
@[simp] theorem State.modChan_rail (c : Nat) (f : Channel → Channel) (i : Nat) : (s.modChan c f).rail i = s.rail i := rfl
@[simp] theorem State.modChan_bake (c : Nat) (f : Channel → Channel) (i : Nat) : (s.modChan c f).bake i = s.bake i := rfl
@[simp] theorem State.modChan_workRing (c : Nat) (f : Channel → Channel) (i : Nat) : (s.modChan c f).workRing i = s.workRing i := rfl
@[simp] theorem State.modChan_port (c : Nat) (f : Channel → Channel) (i : Nat) : (s.modChan c f).port i = s.port i := rfl
@[simp] theorem State.modChan_router (c : Nat) (f : Channel → Channel) (i : Nat) : (s.modChan c f).router i = s.router i := rfl
@[simp] theorem State.modChan_proc (c : Nat) (f : Channel → Channel) (i : Nat) : (s.modChan c f).proc i = s.proc i := rfl
@[simp] theorem State.modChan_box (c : Nat) (f : Channel → Channel) (i : Nat) : (s.modChan c f).box i = s.box i := rfl
@[simp] theorem State.modChan_channel (c : Nat) (f : Channel → Channel) (i : Nat) : (s.modChan c f).channel i = s.channel i := rfl
theorem State.modChan_chan (c i : Nat) (f : Channel → Channel) : (s.modChan c f).chan i = if i = c then f (s.chan c) else s.chan i :=
  mget_mmod _ _ _ _ _
@[simp] theorem State.modChan_chan_same (c : Nat) (f : Channel → Channel) : (s.modChan c f).chan c = f (s.chan c) := by
  rw [State.modChan_chan, if_pos rfl]

/-! ### modProc -/

@[simp] theorem State.modProc_fuse (m : Nat) (f : Processor → Processor) : (s.modProc m f).fuse = s.fuse := rfl
@[simp] theorem State.modProc_aon (m : Nat) (f : Processor → Processor) : (s.modProc m f).aon = s.aon := rfl
@[simp] theorem State.modProc_mesh (m : Nat) (f : Processor → Processor) : (s.modProc m f).mesh = s.mesh := rfl
@[simp] theorem State.modProc_hearths (m : Nat) (f : Processor → Processor) : (s.modProc m f).hearths = s.hearths := rfl
@[simp] theorem State.modProc_rails (m : Nat) (f : Processor → Processor) : (s.modProc m f).rails = s.rails := rfl
@[simp] theorem State.modProc_power (m : Nat) (f : Processor → Processor) : (s.modProc m f).power = s.power := rfl
@[simp] theorem State.modProc_map (m : Nat) (f : Processor → Processor) : (s.modProc m f).map = s.map := rfl
@[simp] theorem State.modProc_cores (m : Nat) (f : Processor → Processor) : (s.modProc m f).cores = s.cores := rfl
@[simp] theorem State.modProc_flue (m : Nat) (f : Processor → Processor) : (s.modProc m f).flue = s.flue := rfl
@[simp] theorem State.modProc_baker (m : Nat) (f : Processor → Processor) : (s.modProc m f).baker = s.baker := rfl
@[simp] theorem State.modProc_ring (m : Nat) (f : Processor → Processor) : (s.modProc m f).ring = s.ring := rfl
@[simp] theorem State.modProc_hbm (m : Nat) (f : Processor → Processor) : (s.modProc m f).hbm = s.hbm := rfl
@[simp] theorem State.modProc_host (m : Nat) (f : Processor → Processor) : (s.modProc m f).host = s.host := rfl
@[simp] theorem State.modProc_links (m : Nat) (f : Processor → Processor) : (s.modProc m f).links = s.links := rfl
@[simp] theorem State.modProc_ctl (m : Nat) (f : Processor → Processor) : (s.modProc m f).ctl = s.ctl := rfl
@[simp] theorem State.modProc_integ (m : Nat) (f : Processor → Processor) : (s.modProc m f).integ = s.integ := rfl
@[simp] theorem State.modProc_pending (m : Nat) (f : Processor → Processor) : (s.modProc m f).pending = s.pending := rfl
theorem State.modProc_recov (m : Nat) (f : Processor → Processor) : (s.modProc m f).recov = { s.recov with procs := mmod {} s.recov.procs m f } := rfl
@[simp] theorem State.modProc_core (m : Nat) (f : Processor → Processor) (i : Nat) : (s.modProc m f).core i = s.core i := rfl
@[simp] theorem State.modProc_hearth (m : Nat) (f : Processor → Processor) (i : Nat) : (s.modProc m f).hearth i = s.hearth i := rfl
@[simp] theorem State.modProc_rail (m : Nat) (f : Processor → Processor) (i : Nat) : (s.modProc m f).rail i = s.rail i := rfl
@[simp] theorem State.modProc_bake (m : Nat) (f : Processor → Processor) (i : Nat) : (s.modProc m f).bake i = s.bake i := rfl
@[simp] theorem State.modProc_workRing (m : Nat) (f : Processor → Processor) (i : Nat) : (s.modProc m f).workRing i = s.workRing i := rfl
@[simp] theorem State.modProc_port (m : Nat) (f : Processor → Processor) (i : Nat) : (s.modProc m f).port i = s.port i := rfl
@[simp] theorem State.modProc_router (m : Nat) (f : Processor → Processor) (i : Nat) : (s.modProc m f).router i = s.router i := rfl
@[simp] theorem State.modProc_chan (m : Nat) (f : Processor → Processor) (i : Nat) : (s.modProc m f).chan i = s.chan i := rfl
@[simp] theorem State.modProc_box (m : Nat) (f : Processor → Processor) (i : Nat) : (s.modProc m f).box i = s.box i := rfl
@[simp] theorem State.modProc_channel (m : Nat) (f : Processor → Processor) (i : Nat) : (s.modProc m f).channel i = s.channel i := rfl
theorem State.modProc_proc (m i : Nat) (f : Processor → Processor) : (s.modProc m f).proc i = if i = m then f (s.proc m) else s.proc i :=
  mget_mmod _ _ _ _ _
@[simp] theorem State.modProc_proc_same (m : Nat) (f : Processor → Processor) : (s.modProc m f).proc m = f (s.proc m) := by
  rw [State.modProc_proc, if_pos rfl]

/-! ### modBox -/

@[simp] theorem State.modBox_fuse (k : Nat) (f : Mailbox → Mailbox) : (s.modBox k f).fuse = s.fuse := rfl
@[simp] theorem State.modBox_aon (k : Nat) (f : Mailbox → Mailbox) : (s.modBox k f).aon = s.aon := rfl
@[simp] theorem State.modBox_mesh (k : Nat) (f : Mailbox → Mailbox) : (s.modBox k f).mesh = s.mesh := rfl
@[simp] theorem State.modBox_hearths (k : Nat) (f : Mailbox → Mailbox) : (s.modBox k f).hearths = s.hearths := rfl
@[simp] theorem State.modBox_rails (k : Nat) (f : Mailbox → Mailbox) : (s.modBox k f).rails = s.rails := rfl
@[simp] theorem State.modBox_power (k : Nat) (f : Mailbox → Mailbox) : (s.modBox k f).power = s.power := rfl
@[simp] theorem State.modBox_map (k : Nat) (f : Mailbox → Mailbox) : (s.modBox k f).map = s.map := rfl
@[simp] theorem State.modBox_cores (k : Nat) (f : Mailbox → Mailbox) : (s.modBox k f).cores = s.cores := rfl
@[simp] theorem State.modBox_flue (k : Nat) (f : Mailbox → Mailbox) : (s.modBox k f).flue = s.flue := rfl
@[simp] theorem State.modBox_baker (k : Nat) (f : Mailbox → Mailbox) : (s.modBox k f).baker = s.baker := rfl
@[simp] theorem State.modBox_ring (k : Nat) (f : Mailbox → Mailbox) : (s.modBox k f).ring = s.ring := rfl
@[simp] theorem State.modBox_hbm (k : Nat) (f : Mailbox → Mailbox) : (s.modBox k f).hbm = s.hbm := rfl
@[simp] theorem State.modBox_host (k : Nat) (f : Mailbox → Mailbox) : (s.modBox k f).host = s.host := rfl
@[simp] theorem State.modBox_links (k : Nat) (f : Mailbox → Mailbox) : (s.modBox k f).links = s.links := rfl
@[simp] theorem State.modBox_recov (k : Nat) (f : Mailbox → Mailbox) : (s.modBox k f).recov = s.recov := rfl
@[simp] theorem State.modBox_integ (k : Nat) (f : Mailbox → Mailbox) : (s.modBox k f).integ = s.integ := rfl
@[simp] theorem State.modBox_pending (k : Nat) (f : Mailbox → Mailbox) : (s.modBox k f).pending = s.pending := rfl
theorem State.modBox_ctl (k : Nat) (f : Mailbox → Mailbox) : (s.modBox k f).ctl = { s.ctl with boxes := mmod {} s.ctl.boxes k f } := rfl
@[simp] theorem State.modBox_core (k : Nat) (f : Mailbox → Mailbox) (i : Nat) : (s.modBox k f).core i = s.core i := rfl
@[simp] theorem State.modBox_hearth (k : Nat) (f : Mailbox → Mailbox) (i : Nat) : (s.modBox k f).hearth i = s.hearth i := rfl
@[simp] theorem State.modBox_rail (k : Nat) (f : Mailbox → Mailbox) (i : Nat) : (s.modBox k f).rail i = s.rail i := rfl
@[simp] theorem State.modBox_bake (k : Nat) (f : Mailbox → Mailbox) (i : Nat) : (s.modBox k f).bake i = s.bake i := rfl
@[simp] theorem State.modBox_workRing (k : Nat) (f : Mailbox → Mailbox) (i : Nat) : (s.modBox k f).workRing i = s.workRing i := rfl
@[simp] theorem State.modBox_port (k : Nat) (f : Mailbox → Mailbox) (i : Nat) : (s.modBox k f).port i = s.port i := rfl
@[simp] theorem State.modBox_router (k : Nat) (f : Mailbox → Mailbox) (i : Nat) : (s.modBox k f).router i = s.router i := rfl
@[simp] theorem State.modBox_chan (k : Nat) (f : Mailbox → Mailbox) (i : Nat) : (s.modBox k f).chan i = s.chan i := rfl
@[simp] theorem State.modBox_proc (k : Nat) (f : Mailbox → Mailbox) (i : Nat) : (s.modBox k f).proc i = s.proc i := rfl
@[simp] theorem State.modBox_channel (k : Nat) (f : Mailbox → Mailbox) (i : Nat) : (s.modBox k f).channel i = s.channel i := rfl
theorem State.modBox_box (k i : Nat) (f : Mailbox → Mailbox) : (s.modBox k f).box i = if i = k then f (s.box k) else s.box i :=
  mget_mmod _ _ _ _ _
@[simp] theorem State.modBox_box_same (k : Nat) (f : Mailbox → Mailbox) : (s.modBox k f).box k = f (s.box k) := by
  rw [State.modBox_box, if_pos rfl]

/-! ### modChannel -/

@[simp] theorem State.modChannel_fuse (k : Nat) (f : Channel5 → Channel5) : (s.modChannel k f).fuse = s.fuse := rfl
@[simp] theorem State.modChannel_aon (k : Nat) (f : Channel5 → Channel5) : (s.modChannel k f).aon = s.aon := rfl
@[simp] theorem State.modChannel_mesh (k : Nat) (f : Channel5 → Channel5) : (s.modChannel k f).mesh = s.mesh := rfl
@[simp] theorem State.modChannel_hearths (k : Nat) (f : Channel5 → Channel5) : (s.modChannel k f).hearths = s.hearths := rfl
@[simp] theorem State.modChannel_rails (k : Nat) (f : Channel5 → Channel5) : (s.modChannel k f).rails = s.rails := rfl
@[simp] theorem State.modChannel_power (k : Nat) (f : Channel5 → Channel5) : (s.modChannel k f).power = s.power := rfl
@[simp] theorem State.modChannel_map (k : Nat) (f : Channel5 → Channel5) : (s.modChannel k f).map = s.map := rfl
@[simp] theorem State.modChannel_cores (k : Nat) (f : Channel5 → Channel5) : (s.modChannel k f).cores = s.cores := rfl
@[simp] theorem State.modChannel_flue (k : Nat) (f : Channel5 → Channel5) : (s.modChannel k f).flue = s.flue := rfl
@[simp] theorem State.modChannel_baker (k : Nat) (f : Channel5 → Channel5) : (s.modChannel k f).baker = s.baker := rfl
@[simp] theorem State.modChannel_ring (k : Nat) (f : Channel5 → Channel5) : (s.modChannel k f).ring = s.ring := rfl
@[simp] theorem State.modChannel_hbm (k : Nat) (f : Channel5 → Channel5) : (s.modChannel k f).hbm = s.hbm := rfl
@[simp] theorem State.modChannel_host (k : Nat) (f : Channel5 → Channel5) : (s.modChannel k f).host = s.host := rfl
@[simp] theorem State.modChannel_ctl (k : Nat) (f : Channel5 → Channel5) : (s.modChannel k f).ctl = s.ctl := rfl
@[simp] theorem State.modChannel_recov (k : Nat) (f : Channel5 → Channel5) : (s.modChannel k f).recov = s.recov := rfl
@[simp] theorem State.modChannel_integ (k : Nat) (f : Channel5 → Channel5) : (s.modChannel k f).integ = s.integ := rfl
@[simp] theorem State.modChannel_pending (k : Nat) (f : Channel5 → Channel5) : (s.modChannel k f).pending = s.pending := rfl
theorem State.modChannel_links (k : Nat) (f : Channel5 → Channel5) : (s.modChannel k f).links = { s.links with chans := mmod {} s.links.chans k f } := rfl
@[simp] theorem State.modChannel_core (k : Nat) (f : Channel5 → Channel5) (i : Nat) : (s.modChannel k f).core i = s.core i := rfl
@[simp] theorem State.modChannel_hearth (k : Nat) (f : Channel5 → Channel5) (i : Nat) : (s.modChannel k f).hearth i = s.hearth i := rfl
@[simp] theorem State.modChannel_rail (k : Nat) (f : Channel5 → Channel5) (i : Nat) : (s.modChannel k f).rail i = s.rail i := rfl
@[simp] theorem State.modChannel_bake (k : Nat) (f : Channel5 → Channel5) (i : Nat) : (s.modChannel k f).bake i = s.bake i := rfl
@[simp] theorem State.modChannel_workRing (k : Nat) (f : Channel5 → Channel5) (i : Nat) : (s.modChannel k f).workRing i = s.workRing i := rfl
@[simp] theorem State.modChannel_port (k : Nat) (f : Channel5 → Channel5) (i : Nat) : (s.modChannel k f).port i = s.port i := rfl
@[simp] theorem State.modChannel_router (k : Nat) (f : Channel5 → Channel5) (i : Nat) : (s.modChannel k f).router i = s.router i := rfl
@[simp] theorem State.modChannel_chan (k : Nat) (f : Channel5 → Channel5) (i : Nat) : (s.modChannel k f).chan i = s.chan i := rfl
@[simp] theorem State.modChannel_proc (k : Nat) (f : Channel5 → Channel5) (i : Nat) : (s.modChannel k f).proc i = s.proc i := rfl
@[simp] theorem State.modChannel_box (k : Nat) (f : Channel5 → Channel5) (i : Nat) : (s.modChannel k f).box i = s.box i := rfl
theorem State.modChannel_channel (k i : Nat) (f : Channel5 → Channel5) : (s.modChannel k f).channel i = if i = k then f (s.channel k) else s.channel i :=
  mget_mmod _ _ _ _ _
@[simp] theorem State.modChannel_channel_same (k : Nat) (f : Channel5 → Channel5) : (s.modChannel k f).channel k = f (s.channel k) := by
  rw [State.modChannel_channel, if_pos rfl]

/-! ### modRec and modDict -/

@[simp] theorem State.modRec_fuse (f : Records → Records) : (s.modRec f).fuse = s.fuse := rfl
@[simp] theorem State.modRec_mesh (f : Records → Records) : (s.modRec f).mesh = s.mesh := rfl
@[simp] theorem State.modRec_hearths (f : Records → Records) : (s.modRec f).hearths = s.hearths := rfl
@[simp] theorem State.modRec_rails (f : Records → Records) : (s.modRec f).rails = s.rails := rfl
@[simp] theorem State.modRec_power (f : Records → Records) : (s.modRec f).power = s.power := rfl
@[simp] theorem State.modRec_map (f : Records → Records) : (s.modRec f).map = s.map := rfl
@[simp] theorem State.modRec_cores (f : Records → Records) : (s.modRec f).cores = s.cores := rfl
@[simp] theorem State.modRec_flue (f : Records → Records) : (s.modRec f).flue = s.flue := rfl
@[simp] theorem State.modRec_baker (f : Records → Records) : (s.modRec f).baker = s.baker := rfl
@[simp] theorem State.modRec_ring (f : Records → Records) : (s.modRec f).ring = s.ring := rfl
@[simp] theorem State.modRec_hbm (f : Records → Records) : (s.modRec f).hbm = s.hbm := rfl
@[simp] theorem State.modRec_host (f : Records → Records) : (s.modRec f).host = s.host := rfl
@[simp] theorem State.modRec_links (f : Records → Records) : (s.modRec f).links = s.links := rfl
@[simp] theorem State.modRec_ctl (f : Records → Records) : (s.modRec f).ctl = s.ctl := rfl
@[simp] theorem State.modRec_recov (f : Records → Records) : (s.modRec f).recov = s.recov := rfl
@[simp] theorem State.modRec_integ (f : Records → Records) : (s.modRec f).integ = s.integ := rfl
@[simp] theorem State.modRec_pending (f : Records → Records) : (s.modRec f).pending = s.pending := rfl
theorem State.modRec_aon (f : Records → Records) : (s.modRec f).aon = { s.aon with recA := f s.aon.recA } := rfl
@[simp] theorem State.modDict_fuse (f : Dict → Dict) : (s.modDict f).fuse = s.fuse := rfl
@[simp] theorem State.modDict_aon (f : Dict → Dict) : (s.modDict f).aon = s.aon := rfl
@[simp] theorem State.modDict_mesh (f : Dict → Dict) : (s.modDict f).mesh = s.mesh := rfl
@[simp] theorem State.modDict_hearths (f : Dict → Dict) : (s.modDict f).hearths = s.hearths := rfl
@[simp] theorem State.modDict_rails (f : Dict → Dict) : (s.modDict f).rails = s.rails := rfl
@[simp] theorem State.modDict_power (f : Dict → Dict) : (s.modDict f).power = s.power := rfl
@[simp] theorem State.modDict_map (f : Dict → Dict) : (s.modDict f).map = s.map := rfl
@[simp] theorem State.modDict_cores (f : Dict → Dict) : (s.modDict f).cores = s.cores := rfl
@[simp] theorem State.modDict_flue (f : Dict → Dict) : (s.modDict f).flue = s.flue := rfl
@[simp] theorem State.modDict_baker (f : Dict → Dict) : (s.modDict f).baker = s.baker := rfl
@[simp] theorem State.modDict_ring (f : Dict → Dict) : (s.modDict f).ring = s.ring := rfl
@[simp] theorem State.modDict_hbm (f : Dict → Dict) : (s.modDict f).hbm = s.hbm := rfl
@[simp] theorem State.modDict_host (f : Dict → Dict) : (s.modDict f).host = s.host := rfl
@[simp] theorem State.modDict_links (f : Dict → Dict) : (s.modDict f).links = s.links := rfl
@[simp] theorem State.modDict_recov (f : Dict → Dict) : (s.modDict f).recov = s.recov := rfl
@[simp] theorem State.modDict_integ (f : Dict → Dict) : (s.modDict f).integ = s.integ := rfl
@[simp] theorem State.modDict_pending (f : Dict → Dict) : (s.modDict f).pending = s.pending := rfl
theorem State.modDict_ctl (f : Dict → Dict) : (s.modDict f).ctl = { s.ctl with dict := f s.ctl.dict } := rfl

/-! ### The event queue -/

/-- Raising an event touches the always-on block alone. -/
theorem raise_eq (i : U16) (b v src : U8) (x : U64) : raise s i b v src x = { s with aon := (raise s i b v src x).aon } := by
  unfold raise
  split <;> rfl

@[simp] theorem raise_fuse (i : U16) (b v src : U8) (x : U64) : (raise s i b v src x).fuse = s.fuse := by rw [raise_eq]
@[simp] theorem raise_mesh (i : U16) (b v src : U8) (x : U64) : (raise s i b v src x).mesh = s.mesh := by rw [raise_eq]
@[simp] theorem raise_hearths (i : U16) (b v src : U8) (x : U64) : (raise s i b v src x).hearths = s.hearths := by rw [raise_eq]
@[simp] theorem raise_rails (i : U16) (b v src : U8) (x : U64) : (raise s i b v src x).rails = s.rails := by rw [raise_eq]
@[simp] theorem raise_power (i : U16) (b v src : U8) (x : U64) : (raise s i b v src x).power = s.power := by rw [raise_eq]
@[simp] theorem raise_map (i : U16) (b v src : U8) (x : U64) : (raise s i b v src x).map = s.map := by rw [raise_eq]
@[simp] theorem raise_cores (i : U16) (b v src : U8) (x : U64) : (raise s i b v src x).cores = s.cores := by rw [raise_eq]
@[simp] theorem raise_flue (i : U16) (b v src : U8) (x : U64) : (raise s i b v src x).flue = s.flue := by rw [raise_eq]
@[simp] theorem raise_baker (i : U16) (b v src : U8) (x : U64) : (raise s i b v src x).baker = s.baker := by rw [raise_eq]
@[simp] theorem raise_ring (i : U16) (b v src : U8) (x : U64) : (raise s i b v src x).ring = s.ring := by rw [raise_eq]
@[simp] theorem raise_hbm (i : U16) (b v src : U8) (x : U64) : (raise s i b v src x).hbm = s.hbm := by rw [raise_eq]
@[simp] theorem raise_host (i : U16) (b v src : U8) (x : U64) : (raise s i b v src x).host = s.host := by rw [raise_eq]
@[simp] theorem raise_links (i : U16) (b v src : U8) (x : U64) : (raise s i b v src x).links = s.links := by rw [raise_eq]
@[simp] theorem raise_ctl (i : U16) (b v src : U8) (x : U64) : (raise s i b v src x).ctl = s.ctl := by rw [raise_eq]
@[simp] theorem raise_recov (i : U16) (b v src : U8) (x : U64) : (raise s i b v src x).recov = s.recov := by rw [raise_eq]
@[simp] theorem raise_integ (i : U16) (b v src : U8) (x : U64) : (raise s i b v src x).integ = s.integ := by rw [raise_eq]
@[simp] theorem raise_pending (i : U16) (b v src : U8) (x : U64) : (raise s i b v src x).pending = s.pending := by rw [raise_eq]
@[simp] theorem raiseS_fuse (i b v x : Nat) : (raiseS s i b v x).fuse = s.fuse := by simp [raiseS]
@[simp] theorem raiseS_mesh (i b v x : Nat) : (raiseS s i b v x).mesh = s.mesh := by simp [raiseS]
@[simp] theorem raiseS_hearths (i b v x : Nat) : (raiseS s i b v x).hearths = s.hearths := by simp [raiseS]
@[simp] theorem raiseS_rails (i b v x : Nat) : (raiseS s i b v x).rails = s.rails := by simp [raiseS]
@[simp] theorem raiseS_power (i b v x : Nat) : (raiseS s i b v x).power = s.power := by simp [raiseS]
@[simp] theorem raiseS_map (i b v x : Nat) : (raiseS s i b v x).map = s.map := by simp [raiseS]
@[simp] theorem raiseS_cores (i b v x : Nat) : (raiseS s i b v x).cores = s.cores := by simp [raiseS]
@[simp] theorem raiseS_flue (i b v x : Nat) : (raiseS s i b v x).flue = s.flue := by simp [raiseS]
@[simp] theorem raiseS_baker (i b v x : Nat) : (raiseS s i b v x).baker = s.baker := by simp [raiseS]
@[simp] theorem raiseS_ring (i b v x : Nat) : (raiseS s i b v x).ring = s.ring := by simp [raiseS]
@[simp] theorem raiseS_hbm (i b v x : Nat) : (raiseS s i b v x).hbm = s.hbm := by simp [raiseS]
@[simp] theorem raiseS_host (i b v x : Nat) : (raiseS s i b v x).host = s.host := by simp [raiseS]
@[simp] theorem raiseS_links (i b v x : Nat) : (raiseS s i b v x).links = s.links := by simp [raiseS]
@[simp] theorem raiseS_ctl (i b v x : Nat) : (raiseS s i b v x).ctl = s.ctl := by simp [raiseS]
@[simp] theorem raiseS_recov (i b v x : Nat) : (raiseS s i b v x).recov = s.recov := by simp [raiseS]
@[simp] theorem raiseS_integ (i b v x : Nat) : (raiseS s i b v x).integ = s.integ := by simp [raiseS]
@[simp] theorem raiseS_pending (i b v x : Nat) : (raiseS s i b v x).pending = s.pending := by simp [raiseS]
@[simp] theorem raise_unit_core (i : U16) (b v src : U8) (x : U64) (k : Nat) : (raise s i b v src x).core k = s.core k := by simp [State.core]
@[simp] theorem raiseS_unit_core (i b v x k : Nat) : (raiseS s i b v x).core k = s.core k := by simp [State.core]
@[simp] theorem raise_unit_hearth (i : U16) (b v src : U8) (x : U64) (k : Nat) : (raise s i b v src x).hearth k = s.hearth k := by simp [State.hearth]
@[simp] theorem raiseS_unit_hearth (i b v x k : Nat) : (raiseS s i b v x).hearth k = s.hearth k := by simp [State.hearth]
@[simp] theorem raise_unit_rail (i : U16) (b v src : U8) (x : U64) (k : Nat) : (raise s i b v src x).rail k = s.rail k := by simp [State.rail]
@[simp] theorem raiseS_unit_rail (i b v x k : Nat) : (raiseS s i b v x).rail k = s.rail k := by simp [State.rail]
@[simp] theorem raise_unit_bake (i : U16) (b v src : U8) (x : U64) (k : Nat) : (raise s i b v src x).bake k = s.bake k := by simp [State.bake]
@[simp] theorem raiseS_unit_bake (i b v x k : Nat) : (raiseS s i b v x).bake k = s.bake k := by simp [State.bake]
@[simp] theorem raise_unit_workRing (i : U16) (b v src : U8) (x : U64) (k : Nat) : (raise s i b v src x).workRing k = s.workRing k := by simp [State.workRing]
@[simp] theorem raiseS_unit_workRing (i b v x k : Nat) : (raiseS s i b v x).workRing k = s.workRing k := by simp [State.workRing]
@[simp] theorem raise_unit_port (i : U16) (b v src : U8) (x : U64) (k : Nat) : (raise s i b v src x).port k = s.port k := by simp [State.port]
@[simp] theorem raiseS_unit_port (i b v x k : Nat) : (raiseS s i b v x).port k = s.port k := by simp [State.port]
@[simp] theorem raise_unit_router (i : U16) (b v src : U8) (x : U64) (k : Nat) : (raise s i b v src x).router k = s.router k := by simp [State.router]
@[simp] theorem raiseS_unit_router (i b v x k : Nat) : (raiseS s i b v x).router k = s.router k := by simp [State.router]
@[simp] theorem raise_unit_chan (i : U16) (b v src : U8) (x : U64) (k : Nat) : (raise s i b v src x).chan k = s.chan k := by simp [State.chan]
@[simp] theorem raiseS_unit_chan (i b v x k : Nat) : (raiseS s i b v x).chan k = s.chan k := by simp [State.chan]
@[simp] theorem raise_unit_proc (i : U16) (b v src : U8) (x : U64) (k : Nat) : (raise s i b v src x).proc k = s.proc k := by simp [State.proc]
@[simp] theorem raiseS_unit_proc (i b v x k : Nat) : (raiseS s i b v x).proc k = s.proc k := by simp [State.proc]
@[simp] theorem raise_unit_box (i : U16) (b v src : U8) (x : U64) (k : Nat) : (raise s i b v src x).box k = s.box k := by simp [State.box]
@[simp] theorem raiseS_unit_box (i b v x k : Nat) : (raiseS s i b v x).box k = s.box k := by simp [State.box]
@[simp] theorem raise_unit_channel (i : U16) (b v src : U8) (x : U64) (k : Nat) : (raise s i b v src x).channel k = s.channel k := by simp [State.channel]
@[simp] theorem raiseS_unit_channel (i b v x k : Nat) : (raiseS s i b v x).channel k = s.channel k := by simp [State.channel]
@[simp] theorem raise_aon_onVbak (i : U16) (b v src : U8) (x : U64) : (raise s i b v src x).aon.onVbak = s.aon.onVbak := by
  unfold raise
  split <;> rfl
@[simp] theorem raiseS_aon_onVbak (i b v x : Nat) : (raiseS s i b v x).aon.onVbak = s.aon.onVbak := raise_aon_onVbak s _ _ _ _ _
@[simp] theorem raise_aon_latch (i : U16) (b v src : U8) (x : U64) : (raise s i b v src x).aon.latch = s.aon.latch := by
  unfold raise
  split <;> rfl
@[simp] theorem raiseS_aon_latch (i b v x : Nat) : (raiseS s i b v x).aon.latch = s.aon.latch := raise_aon_latch s _ _ _ _ _
@[simp] theorem raise_aon_vbak (i : U16) (b v src : U8) (x : U64) : (raise s i b v src x).aon.vbak = s.aon.vbak := by
  unfold raise
  split <;> rfl
@[simp] theorem raiseS_aon_vbak (i b v x : Nat) : (raiseS s i b v x).aon.vbak = s.aon.vbak := raise_aon_vbak s _ _ _ _ _
@[simp] theorem raise_aon_vbakLow (i : U16) (b v src : U8) (x : U64) : (raise s i b v src x).aon.vbakLow = s.aon.vbakLow := by
  unfold raise
  split <;> rfl
@[simp] theorem raiseS_aon_vbakLow (i b v x : Nat) : (raiseS s i b v x).aon.vbakLow = s.aon.vbakLow := raise_aon_vbakLow s _ _ _ _ _
@[simp] theorem raise_aon_presence (i : U16) (b v src : U8) (x : U64) : (raise s i b v src x).aon.presence = s.aon.presence := by
  unfold raise
  split <;> rfl
@[simp] theorem raiseS_aon_presence (i b v x : Nat) : (raiseS s i b v x).aon.presence = s.aon.presence := raise_aon_presence s _ _ _ _ _
@[simp] theorem raise_aon_thermTrip (i : U16) (b v src : U8) (x : U64) : (raise s i b v src x).aon.thermTrip = s.aon.thermTrip := by
  unfold raise
  split <;> rfl
@[simp] theorem raiseS_aon_thermTrip (i b v x : Nat) : (raiseS s i b v x).aon.thermTrip = s.aon.thermTrip := raise_aon_thermTrip s _ _ _ _ _
@[simp] theorem raise_aon_calendar (i : U16) (b v src : U8) (x : U64) : (raise s i b v src x).aon.calendar = s.aon.calendar := by
  unfold raise
  split <;> rfl
@[simp] theorem raiseS_aon_calendar (i b v x : Nat) : (raiseS s i b v x).aon.calendar = s.aon.calendar := raise_aon_calendar s _ _ _ _ _
@[simp] theorem raise_aon_calValid (i : U16) (b v src : U8) (x : U64) : (raise s i b v src x).aon.calValid = s.aon.calValid := by
  unfold raise
  split <;> rfl
@[simp] theorem raiseS_aon_calValid (i b v x : Nat) : (raiseS s i b v x).aon.calValid = s.aon.calValid := raise_aon_calValid s _ _ _ _ _
@[simp] theorem raise_aon_calStopped (i : U16) (b v src : U8) (x : U64) : (raise s i b v src x).aon.calStopped = s.aon.calStopped := by
  unfold raise
  split <;> rfl
@[simp] theorem raiseS_aon_calStopped (i b v x : Nat) : (raiseS s i b v x).aon.calStopped = s.aon.calStopped := raise_aon_calStopped s _ _ _ _ _
@[simp] theorem raise_aon_holder (i : U16) (b v src : U8) (x : U64) : (raise s i b v src x).aon.holder = s.aon.holder := by
  unfold raise
  split <;> rfl
@[simp] theorem raiseS_aon_holder (i b v x : Nat) : (raiseS s i b v x).aon.holder = s.aon.holder := raise_aon_holder s _ _ _ _ _
@[simp] theorem raise_aon_leaseLeft (i : U16) (b v src : U8) (x : U64) : (raise s i b v src x).aon.leaseLeft = s.aon.leaseLeft := by
  unfold raise
  split <;> rfl
@[simp] theorem raiseS_aon_leaseLeft (i b v x : Nat) : (raiseS s i b v x).aon.leaseLeft = s.aon.leaseLeft := raise_aon_leaseLeft s _ _ _ _ _
@[simp] theorem raise_aon_window (i : U16) (b v src : U8) (x : U64) : (raise s i b v src x).aon.window = s.aon.window := by
  unfold raise
  split <;> rfl
@[simp] theorem raiseS_aon_window (i b v x : Nat) : (raiseS s i b v x).aon.window = s.aon.window := raise_aon_window s _ _ _ _ _
@[simp] theorem raise_aon_windowLeft (i : U16) (b v src : U8) (x : U64) : (raise s i b v src x).aon.windowLeft = s.aon.windowLeft := by
  unfold raise
  split <;> rfl
@[simp] theorem raiseS_aon_windowLeft (i b v x : Nat) : (raiseS s i b v x).aon.windowLeft = s.aon.windowLeft := raise_aon_windowLeft s _ _ _ _ _
@[simp] theorem raise_aon_rescue (i : U16) (b v src : U8) (x : U64) : (raise s i b v src x).aon.rescue = s.aon.rescue := by
  unfold raise
  split <;> rfl
@[simp] theorem raiseS_aon_rescue (i b v x : Nat) : (raiseS s i b v x).aon.rescue = s.aon.rescue := raise_aon_rescue s _ _ _ _ _
@[simp] theorem raise_aon_cause (i : U16) (b v src : U8) (x : U64) : (raise s i b v src x).aon.cause = s.aon.cause := by
  unfold raise
  split <;> rfl
@[simp] theorem raiseS_aon_cause (i b v x : Nat) : (raiseS s i b v x).aon.cause = s.aon.cause := raise_aon_cause s _ _ _ _ _
@[simp] theorem raise_aon_recA (i : U16) (b v src : U8) (x : U64) : (raise s i b v src x).aon.recA = s.aon.recA := by
  unfold raise
  split <;> rfl
@[simp] theorem raiseS_aon_recA (i b v x : Nat) : (raiseS s i b v x).aon.recA = s.aon.recA := raise_aon_recA s _ _ _ _ _
@[simp] theorem raise_aon_recB (i : U16) (b v src : U8) (x : U64) : (raise s i b v src x).aon.recB = s.aon.recB := by
  unfold raise
  split <;> rfl
@[simp] theorem raiseS_aon_recB (i b v x : Nat) : (raiseS s i b v x).aon.recB = s.aon.recB := raise_aon_recB s _ _ _ _ _
@[simp] theorem raise_aon_recSel (i : U16) (b v src : U8) (x : U64) : (raise s i b v src x).aon.recSel = s.aon.recSel := by
  unfold raise
  split <;> rfl
@[simp] theorem raiseS_aon_recSel (i b v x : Nat) : (raiseS s i b v x).aon.recSel = s.aon.recSel := raise_aon_recSel s _ _ _ _ _

/-- A raised event is one record more, or one more counted lost (R471, R473). -/
theorem raise_event (i b v x : Nat) (src : U8) :
    EventRaised s (raise s (BitVec.ofNat 16 i) (BitVec.ofNat 8 b) (BitVec.ofNat 8 v) src (BitVec.ofNat 64 x)) i b v src x := by
  unfold EventRaised raise
  split <;> simp

theorem raiseS_event (i b v x : Nat) : EventRaised s (raiseS s i b v x) i b v (stokerId s) x := raise_event s i b v x _

/-- The same where the event is raised on the way, the always-on block and the Stoker being those of before. -/
theorem raiseS_event_of {t : State} (h : t.aon = s.aon) (hr : t.recov = s.recov) (hc : t.flue.cycle = s.flue.cycle) (i b v x : Nat) :
    EventRaised s (raiseS t i b v x) i b v (stokerId s) x := by
  have k := raiseS_event t i b v x
  unfold EventRaised eventTime eventsNow stokerId at *
  rw [h, hr, hc] at k
  exact k

theorem raiseS_kept_of {t : State} (h : t.aon = s.aon) (i b v x : Nat) : AonKept s (raiseS t i b v x) := by
  have k : AonKept t (raiseS t i b v x) := by
    unfold AonKept raiseS raise
    split <;> rfl
  unfold AonKept at *
  rw [h] at k
  exact k

theorem raiseS_eq (i b v x : Nat) : raiseS s i b v x = { s with aon := (raiseS s i b v x).aon } := raise_eq s _ _ _ _ _

theorem raise_kept (i : U16) (b v src : U8) (x : U64) : AonKept s (raise s i b v src x) := by
  unfold AonKept raise
  split <;> rfl

theorem raiseS_kept (i b v x : Nat) : AonKept s (raiseS s i b v x) := raise_kept s _ _ _ _ _

end Sys2Proof.Machine
end

