-- ==== Sys2Proof/Laws/Hearths.lean ====
section
/-! SUPPORT. What a change of a hearth does, once: `withHearth` writes the change, then the target, the governing reason and the
throttle record, and leaves everything else of the block alone. -/

namespace Sys2Proof.Machine

variable (s : State)

theorem modHearth_eta (n : Nat) (f : Hearth → Hearth) {u : State} (h : u = { s with hearths := u.hearths }) :
    u.modHearth n f = { s with hearths := (u.modHearth n f).hearths } := by
  rw [h]
  rfl
theorem regovern_eq (n : Nat) : regovern s n = { s with hearths := (regovern s n).hearths } := by
  unfold regovern
  exact modHearth_eta s n _ rfl
/-- A change of a hearth touches the hearths alone. -/
theorem withHearth_eq (n : Nat) (f : Hearth → Hearth) : withHearth s n f = { s with hearths := (withHearth s n f).hearths } := by
  unfold withHearth
  exact modHearth_eta s n _ (modHearth_eta s n _ (modHearth_eta s n f (regovern_eq s n)))
theorem regovern_hearth_other {n m : Nat} (h : m ≠ n) : (regovern s n).hearth m = s.hearth m := by
  unfold regovern
  rw [State.modHearth_hearth, if_neg h]
theorem withHearth_hearth_other {n m : Nat} (h : m ≠ n) (f : Hearth → Hearth) : (withHearth s n f).hearth m = s.hearth m := by
  unfold withHearth
  simp [State.modHearth_hearth, h, regovern_hearth_other]

@[simp] theorem withHearth_fuse (n : Nat) (f : Hearth → Hearth) : (withHearth s n f).fuse = s.fuse := by rw [withHearth_eq]
@[simp] theorem withHearth_aon (n : Nat) (f : Hearth → Hearth) : (withHearth s n f).aon = s.aon := by rw [withHearth_eq]
@[simp] theorem withHearth_mesh (n : Nat) (f : Hearth → Hearth) : (withHearth s n f).mesh = s.mesh := by rw [withHearth_eq]
@[simp] theorem withHearth_rails (n : Nat) (f : Hearth → Hearth) : (withHearth s n f).rails = s.rails := by rw [withHearth_eq]
@[simp] theorem withHearth_power (n : Nat) (f : Hearth → Hearth) : (withHearth s n f).power = s.power := by rw [withHearth_eq]
@[simp] theorem withHearth_map (n : Nat) (f : Hearth → Hearth) : (withHearth s n f).map = s.map := by rw [withHearth_eq]
@[simp] theorem withHearth_cores (n : Nat) (f : Hearth → Hearth) : (withHearth s n f).cores = s.cores := by rw [withHearth_eq]
@[simp] theorem withHearth_flue (n : Nat) (f : Hearth → Hearth) : (withHearth s n f).flue = s.flue := by rw [withHearth_eq]
@[simp] theorem withHearth_baker (n : Nat) (f : Hearth → Hearth) : (withHearth s n f).baker = s.baker := by rw [withHearth_eq]
@[simp] theorem withHearth_ring (n : Nat) (f : Hearth → Hearth) : (withHearth s n f).ring = s.ring := by rw [withHearth_eq]
@[simp] theorem withHearth_hbm (n : Nat) (f : Hearth → Hearth) : (withHearth s n f).hbm = s.hbm := by rw [withHearth_eq]
@[simp] theorem withHearth_host (n : Nat) (f : Hearth → Hearth) : (withHearth s n f).host = s.host := by rw [withHearth_eq]
@[simp] theorem withHearth_links (n : Nat) (f : Hearth → Hearth) : (withHearth s n f).links = s.links := by rw [withHearth_eq]
@[simp] theorem withHearth_ctl (n : Nat) (f : Hearth → Hearth) : (withHearth s n f).ctl = s.ctl := by rw [withHearth_eq]
@[simp] theorem withHearth_recov (n : Nat) (f : Hearth → Hearth) : (withHearth s n f).recov = s.recov := by rw [withHearth_eq]
@[simp] theorem withHearth_integ (n : Nat) (f : Hearth → Hearth) : (withHearth s n f).integ = s.integ := by rw [withHearth_eq]
@[simp] theorem withHearth_pending (n : Nat) (f : Hearth → Hearth) : (withHearth s n f).pending = s.pending := by rw [withHearth_eq]

/-- A part of a hearth that the throttle record does not touch is kept by bringing that record up to date. -/
theorem regovern_keeps {α : Type} (p : Hearth → α) (hp : ∀ h r m c, p { h with throttle := m, reason := r, since := c } = p h) (n : Nat) :
    p ((regovern s n).hearth n) = p (s.hearth n) := by
  unfold regovern
  rw [State.modHearth_hearth_same]
  exact hp _ _ _ _

/-- A part of a hearth other than target, reason and throttle record is what the change made it. -/
theorem withHearth_keeps {α : Type} (p : Hearth → α) (ht : ∀ h g, p { h with target := g } = p h)
    (hr : ∀ h r m, p { h with reason := r, throttle := m } = p h) (n : Nat) (f : Hearth → Hearth) :
    p ((withHearth s n f).hearth n) = p (f ((regovern s n).hearth n)) := by
  unfold withHearth
  rw [State.modHearth_hearth_same, hr, State.modHearth_hearth_same, ht, State.modHearth_hearth_same]

@[simp] theorem regovern_hearth_state (n : Nat) : ((regovern s n).hearth n).state = (s.hearth n).state :=
  regovern_keeps s (·.state) (fun _ _ _ _ => rfl) n
theorem withHearth_hearth_state (n : Nat) (f : Hearth → Hearth) : ((withHearth s n f).hearth n).state = (f ((regovern s n).hearth n)).state :=
  withHearth_keeps s (·.state) (fun _ _ => rfl) (fun _ _ _ => rfl) n f
@[simp] theorem regovern_hearth_freq (n : Nat) : ((regovern s n).hearth n).freq = (s.hearth n).freq :=
  regovern_keeps s (·.freq) (fun _ _ _ _ => rfl) n
theorem withHearth_hearth_freq (n : Nat) (f : Hearth → Hearth) : ((withHearth s n f).hearth n).freq = (f ((regovern s n).hearth n)).freq :=
  withHearth_keeps s (·.freq) (fun _ _ => rfl) (fun _ _ _ => rfl) n f
@[simp] theorem regovern_hearth_setMv (n : Nat) : ((regovern s n).hearth n).setMv = (s.hearth n).setMv :=
  regovern_keeps s (·.setMv) (fun _ _ _ _ => rfl) n
theorem withHearth_hearth_setMv (n : Nat) (f : Hearth → Hearth) : ((withHearth s n f).hearth n).setMv = (f ((regovern s n).hearth n)).setMv :=
  withHearth_keeps s (·.setMv) (fun _ _ => rfl) (fun _ _ _ => rfl) n f
@[simp] theorem regovern_hearth_stepTo (n : Nat) : ((regovern s n).hearth n).stepTo = (s.hearth n).stepTo :=
  regovern_keeps s (·.stepTo) (fun _ _ _ _ => rfl) n
theorem withHearth_hearth_stepTo (n : Nat) (f : Hearth → Hearth) : ((withHearth s n f).hearth n).stepTo = (f ((regovern s n).hearth n)).stepTo :=
  withHearth_keeps s (·.stepTo) (fun _ _ => rfl) (fun _ _ _ => rfl) n f
@[simp] theorem regovern_hearth_stopTo (n : Nat) : ((regovern s n).hearth n).stopTo = (s.hearth n).stopTo :=
  regovern_keeps s (·.stopTo) (fun _ _ _ _ => rfl) n
theorem withHearth_hearth_stopTo (n : Nat) (f : Hearth → Hearth) : ((withHearth s n f).hearth n).stopTo = (f ((regovern s n).hearth n)).stopTo :=
  withHearth_keeps s (·.stopTo) (fun _ _ => rfl) (fun _ _ _ => rfl) n f
@[simp] theorem regovern_hearth_stopBit (n : Nat) : ((regovern s n).hearth n).stopBit = (s.hearth n).stopBit :=
  regovern_keeps s (·.stopBit) (fun _ _ _ _ => rfl) n
theorem withHearth_hearth_stopBit (n : Nat) (f : Hearth → Hearth) : ((withHearth s n f).hearth n).stopBit = (f ((regovern s n).hearth n)).stopBit :=
  withHearth_keeps s (·.stopBit) (fun _ _ => rfl) (fun _ _ _ => rfl) n f
@[simp] theorem regovern_hearth_frozen (n : Nat) : ((regovern s n).hearth n).frozen = (s.hearth n).frozen :=
  regovern_keeps s (·.frozen) (fun _ _ _ _ => rfl) n
theorem withHearth_hearth_frozen (n : Nat) (f : Hearth → Hearth) : ((withHearth s n f).hearth n).frozen = (f ((regovern s n).hearth n)).frozen :=
  withHearth_keeps s (·.frozen) (fun _ _ => rfl) (fun _ _ _ => rfl) n f
@[simp] theorem regovern_hearth_restartAt (n : Nat) : ((regovern s n).hearth n).restartAt = (s.hearth n).restartAt :=
  regovern_keeps s (·.restartAt) (fun _ _ _ _ => rfl) n
theorem withHearth_hearth_restartAt (n : Nat) (f : Hearth → Hearth) : ((withHearth s n f).hearth n).restartAt = (f ((regovern s n).hearth n)).restartAt :=
  withHearth_keeps s (·.restartAt) (fun _ _ => rfl) (fun _ _ _ => rfl) n f
@[simp] theorem regovern_hearth_margin (n : Nat) : ((regovern s n).hearth n).margin = (s.hearth n).margin :=
  regovern_keeps s (·.margin) (fun _ _ _ _ => rfl) n
theorem withHearth_hearth_margin (n : Nat) (f : Hearth → Hearth) : ((withHearth s n f).hearth n).margin = (f ((regovern s n).hearth n)).margin :=
  withHearth_keeps s (·.margin) (fun _ _ => rfl) (fun _ _ _ => rfl) n f
@[simp] theorem regovern_hearth_ceiling (n : Nat) : ((regovern s n).hearth n).ceiling = (s.hearth n).ceiling :=
  regovern_keeps s (·.ceiling) (fun _ _ _ _ => rfl) n
theorem withHearth_hearth_ceiling (n : Nat) (f : Hearth → Hearth) : ((withHearth s n f).hearth n).ceiling = (f ((regovern s n).hearth n)).ceiling :=
  withHearth_keeps s (·.ceiling) (fun _ _ => rfl) (fun _ _ _ => rfl) n f
@[simp] theorem regovern_hearth_thermal (n : Nat) : ((regovern s n).hearth n).thermal = (s.hearth n).thermal :=
  regovern_keeps s (·.thermal) (fun _ _ _ _ => rfl) n
theorem withHearth_hearth_thermal (n : Nat) (f : Hearth → Hearth) : ((withHearth s n f).hearth n).thermal = (f ((regovern s n).hearth n)).thermal :=
  withHearth_keeps s (·.thermal) (fun _ _ => rfl) (fun _ _ _ => rfl) n f
@[simp] theorem regovern_hearth_railLim (n : Nat) : ((regovern s n).hearth n).railLim = (s.hearth n).railLim :=
  regovern_keeps s (·.railLim) (fun _ _ _ _ => rfl) n
theorem withHearth_hearth_railLim (n : Nat) (f : Hearth → Hearth) : ((withHearth s n f).hearth n).railLim = (f ((regovern s n).hearth n)).railLim :=
  withHearth_keeps s (·.railLim) (fun _ _ => rfl) (fun _ _ _ => rfl) n f
@[simp] theorem regovern_hearth_safeLim (n : Nat) : ((regovern s n).hearth n).safeLim = (s.hearth n).safeLim :=
  regovern_keeps s (·.safeLim) (fun _ _ _ _ => rfl) n
theorem withHearth_hearth_safeLim (n : Nat) (f : Hearth → Hearth) : ((withHearth s n f).hearth n).safeLim = (f ((regovern s n).hearth n)).safeLim :=
  withHearth_keeps s (·.safeLim) (fun _ _ => rfl) (fun _ _ _ => rfl) n f
@[simp] theorem regovern_hearth_fixedRun (n : Nat) : ((regovern s n).hearth n).fixedRun = (s.hearth n).fixedRun :=
  regovern_keeps s (·.fixedRun) (fun _ _ _ _ => rfl) n
theorem withHearth_hearth_fixedRun (n : Nat) (f : Hearth → Hearth) : ((withHearth s n f).hearth n).fixedRun = (f ((regovern s n).hearth n)).fixedRun :=
  withHearth_keeps s (·.fixedRun) (fun _ _ => rfl) (fun _ _ _ => rfl) n f
@[simp] theorem regovern_hearth_unsettled (n : Nat) : ((regovern s n).hearth n).unsettled = (s.hearth n).unsettled :=
  regovern_keeps s (·.unsettled) (fun _ _ _ _ => rfl) n
theorem withHearth_hearth_unsettled (n : Nat) (f : Hearth → Hearth) : ((withHearth s n f).hearth n).unsettled = (f ((regovern s n).hearth n)).unsettled :=
  withHearth_keeps s (·.unsettled) (fun _ _ => rfl) (fun _ _ _ => rfl) n f
@[simp] theorem regovern_hearth_stretch (n : Nat) : ((regovern s n).hearth n).stretch = (s.hearth n).stretch :=
  regovern_keeps s (·.stretch) (fun _ _ _ _ => rfl) n
theorem withHearth_hearth_stretch (n : Nat) (f : Hearth → Hearth) : ((withHearth s n f).hearth n).stretch = (f ((regovern s n).hearth n)).stretch :=
  withHearth_keeps s (·.stretch) (fun _ _ => rfl) (fun _ _ _ => rfl) n f
@[simp] theorem regovern_hearth_mH (n : Nat) : ((regovern s n).hearth n).mH = (s.hearth n).mH :=
  regovern_keeps s (·.mH) (fun _ _ _ _ => rfl) n
theorem withHearth_hearth_mH (n : Nat) (f : Hearth → Hearth) : ((withHearth s n f).hearth n).mH = (f ((regovern s n).hearth n)).mH :=
  withHearth_keeps s (·.mH) (fun _ _ => rfl) (fun _ _ _ => rfl) n f
@[simp] theorem regovern_hearth_above (n : Nat) : ((regovern s n).hearth n).above = (s.hearth n).above :=
  regovern_keeps s (·.above) (fun _ _ _ _ => rfl) n
theorem withHearth_hearth_above (n : Nat) (f : Hearth → Hearth) : ((withHearth s n f).hearth n).above = (f ((regovern s n).hearth n)).above :=
  withHearth_keeps s (·.above) (fun _ _ => rfl) (fun _ _ _ => rfl) n f
@[simp] theorem regovern_hearth_minima (n : Nat) : ((regovern s n).hearth n).minima = (s.hearth n).minima :=
  regovern_keeps s (·.minima) (fun _ _ _ _ => rfl) n
theorem withHearth_hearth_minima (n : Nat) (f : Hearth → Hearth) : ((withHearth s n f).hearth n).minima = (f ((regovern s n).hearth n)).minima :=
  withHearth_keeps s (·.minima) (fun _ _ => rfl) (fun _ _ _ => rfl) n f
@[simp] theorem regovern_hearth_stops (n : Nat) : ((regovern s n).hearth n).stops = (s.hearth n).stops :=
  regovern_keeps s (·.stops) (fun _ _ _ _ => rfl) n
theorem withHearth_hearth_stops (n : Nat) (f : Hearth → Hearth) : ((withHearth s n f).hearth n).stops = (f ((regovern s n).hearth n)).stops :=
  withHearth_keeps s (·.stops) (fun _ _ => rfl) (fun _ _ _ => rfl) n f
@[simp] theorem regovern_hearth_power (n : Nat) : ((regovern s n).hearth n).power = (s.hearth n).power :=
  regovern_keeps s (·.power) (fun _ _ _ _ => rfl) n
theorem withHearth_hearth_power (n : Nat) (f : Hearth → Hearth) : ((withHearth s n f).hearth n).power = (f ((regovern s n).hearth n)).power :=
  withHearth_keeps s (·.power) (fun _ _ => rfl) (fun _ _ _ => rfl) n f
@[simp] theorem regovern_hearth_clamped (n : Nat) : ((regovern s n).hearth n).clamped = (s.hearth n).clamped :=
  regovern_keeps s (·.clamped) (fun _ _ _ _ => rfl) n
theorem withHearth_hearth_clamped (n : Nat) (f : Hearth → Hearth) : ((withHearth s n f).hearth n).clamped = (f ((regovern s n).hearth n)).clamped :=
  withHearth_keeps s (·.clamped) (fun _ _ => rfl) (fun _ _ _ => rfl) n f
@[simp] theorem regovern_hearth_tripped (n : Nat) : ((regovern s n).hearth n).tripped = (s.hearth n).tripped :=
  regovern_keeps s (·.tripped) (fun _ _ _ _ => rfl) n
theorem withHearth_hearth_tripped (n : Nat) (f : Hearth → Hearth) : ((withHearth s n f).hearth n).tripped = (f ((regovern s n).hearth n)).tripped :=
  withHearth_keeps s (·.tripped) (fun _ _ => rfl) (fun _ _ _ => rfl) n f
@[simp] theorem regovern_hearth_damper (n : Nat) : ((regovern s n).hearth n).damper = (s.hearth n).damper :=
  regovern_keeps s (·.damper) (fun _ _ _ _ => rfl) n
theorem withHearth_hearth_damper (n : Nat) (f : Hearth → Hearth) : ((withHearth s n f).hearth n).damper = (f ((regovern s n).hearth n)).damper :=
  withHearth_keeps s (·.damper) (fun _ _ => rfl) (fun _ _ _ => rfl) n f
@[simp] theorem regovern_hearth_boosts (n : Nat) : ((regovern s n).hearth n).boosts = (s.hearth n).boosts :=
  regovern_keeps s (·.boosts) (fun _ _ _ _ => rfl) n
theorem withHearth_hearth_boosts (n : Nat) (f : Hearth → Hearth) : ((withHearth s n f).hearth n).boosts = (f ((regovern s n).hearth n)).boosts :=
  withHearth_keeps s (·.boosts) (fun _ _ => rfl) (fun _ _ _ => rfl) n f
@[simp] theorem regovern_hearth_shunts (n : Nat) : ((regovern s n).hearth n).shunts = (s.hearth n).shunts :=
  regovern_keeps s (·.shunts) (fun _ _ _ _ => rfl) n
theorem withHearth_hearth_shunts (n : Nat) (f : Hearth → Hearth) : ((withHearth s n f).hearth n).shunts = (f ((regovern s n).hearth n)).shunts :=
  withHearth_keeps s (·.shunts) (fun _ _ => rfl) (fun _ _ _ => rfl) n f
@[simp] theorem regovern_hearth_overruns (n : Nat) : ((regovern s n).hearth n).overruns = (s.hearth n).overruns :=
  regovern_keeps s (·.overruns) (fun _ _ _ _ => rfl) n
theorem withHearth_hearth_overruns (n : Nat) (f : Hearth → Hearth) : ((withHearth s n f).hearth n).overruns = (f ((regovern s n).hearth n)).overruns :=
  withHearth_keeps s (·.overruns) (fun _ _ => rfl) (fun _ _ _ => rfl) n f
@[simp] theorem regovern_hearth_maxBoost (n : Nat) : ((regovern s n).hearth n).maxBoost = (s.hearth n).maxBoost :=
  regovern_keeps s (·.maxBoost) (fun _ _ _ _ => rfl) n
theorem withHearth_hearth_maxBoost (n : Nat) (f : Hearth → Hearth) : ((withHearth s n f).hearth n).maxBoost = (f ((regovern s n).hearth n)).maxBoost :=
  withHearth_keeps s (·.maxBoost) (fun _ _ => rfl) (fun _ _ _ => rfl) n f
@[simp] theorem regovern_hearth_junction (n : Nat) : ((regovern s n).hearth n).junction = (s.hearth n).junction :=
  regovern_keeps s (·.junction) (fun _ _ _ _ => rfl) n
theorem withHearth_hearth_junction (n : Nat) (f : Hearth → Hearth) : ((withHearth s n f).hearth n).junction = (f ((regovern s n).hearth n)).junction :=
  withHearth_keeps s (·.junction) (fun _ _ => rfl) (fun _ _ _ => rfl) n f

/-- The limits of a hearth read the settings, the power record and these parts of the hearth. -/
theorem limits_congr {u v : State} (n : Nat) (hc : u.ctl = v.ctl) (hp : u.power = v.power) (hf : u.fuse = v.fuse)
    (h : (u.hearth n).margin = (v.hearth n).margin ∧ (u.hearth n).ceiling = (v.hearth n).ceiling ∧
      (u.hearth n).thermal = (v.hearth n).thermal ∧ (u.hearth n).railLim = (v.hearth n).railLim ∧
      (u.hearth n).safeLim = (v.hearth n).safeLim ∧ (u.hearth n).state = (v.hearth n).state ∧
      (u.hearth n).fixedRun = (v.hearth n).fixedRun) : limits u n = limits v n := by
  obtain ⟨h1, h2, h3, h4, h5, h6, h7⟩ := h
  unfold limits fixedMode setting
  simp only [hc, hp, hf, h1, h2, h3, h4, h5, h6, h7]

/-- The target is the least limit (R407). -/
theorem withHearth_target (n : Nat) (f : Hearth → Hearth) : ((withHearth s n f).hearth n).target = targetOf (withHearth s n f) n := by
  have k : ((withHearth s n f).hearth n).target = targetOf ((regovern s n).modHearth n f) n := by
    unfold withHearth
    rw [State.modHearth_hearth_same]
    show ((State.modHearth _ n _).hearth n).target = _
    rw [State.modHearth_hearth_same]
  rw [k]
  unfold targetOf
  rw [limits_congr n (u := (regovern s n).modHearth n f) (v := withHearth s n f)]
  · rw [withHearth_ctl, State.modHearth_ctl, regovern_eq]
  · rw [withHearth_power, State.modHearth_power, regovern_eq]
  · rw [withHearth_fuse, State.modHearth_fuse, regovern_eq]
  · simp only [State.modHearth_hearth_same, withHearth_hearth_margin, withHearth_hearth_ceiling, withHearth_hearth_thermal,
      withHearth_hearth_railLim, withHearth_hearth_safeLim, withHearth_hearth_state, withHearth_hearth_fixedRun, and_self]

@[simp] theorem setStop_hearth_same (n : Nat) (b : Bool) : (setStop s n b).hearth n = { s.hearth n with stopBit := b } :=
  State.modHearth_hearth_same s n fun h => { h with stopBit := b }

theorem setStop_hearth_other {n m : Nat} (h : m ≠ n) (b : Bool) : (setStop s n b).hearth m = s.hearth m := by
  have k := State.modHearth_hearth s n m fun h => { h with stopBit := b }
  rw [if_neg h] at k
  exact k

end Sys2Proof.Machine
end

