-- ==== Sys2Proof/Laws/Memory.lean ====
section
/-! SUPPORT. The two addressed memories outside the cores, host memory as the device knows it and the stacks, keep their canonical
form: for each shared operation that writes one of them, the form after it from the form before it. -/

namespace Sys2Proof.Machine

variable {s : State}


@[simp] theorem foldl_hostWf {α : Type} {f : State → α → State} (hf : ∀ u x, HostWf u.host → HostWf (f u x).host) (l : List α)
    (h : HostWf s.host) : HostWf (l.foldl f s).host := foldl_prop (p := fun u : State => HostWf u.host) hf l h
@[simp] theorem foldl_stacksWf {α : Type} {f : State → α → State} (hf : ∀ u x, StacksWf u.hbm.words → StacksWf (f u x).hbm.words) (l : List α)
    (h : StacksWf s.hbm.words) : StacksWf (l.foldl f s).hbm.words := foldl_prop (p := fun u : State => StacksWf u.hbm.words) hf l h
theorem hostWf_mset {m : List Host.Cell} (h : HostWf m) (k : Nat) (v : Byte) : HostWf (mset 0 m k v) := smSet_wf h
theorem stacksWf_mset {m : SMap (Option U64)} (h : StacksWf m) (k : Nat) (v : Option U64) : StacksWf (mset none m k v) := smSet_wf h
@[simp] theorem stacksWf_without {m : SMap (Option U64)} (h : StacksWf m) (a n : Nat) : StacksWf (mwithout m a n) := smWf_filter _ h
@[simp] theorem stacksWf_nil : StacksWf [] := rfl
@[simp] theorem hostWf_nil : HostWf [] := rfl
/-! ### Ops -/

@[simp] theorem State_modChan_words (h : StacksWf s.hbm.words) (c : Nat) (f : Channel → Channel) : StacksWf (State.modChan s c f).hbm.words := by
  unfold State.modChan
  (repeat' split) <;> simp [h]

/-! ### Ledger -/

@[simp] theorem mergeHost_host (h : HostWf s.host) (l : List Host.Cell) : HostWf (mergeHost s l).host := by
  have k : HostWf (l.foldl (fun m e => mset 0 m e.1 e.2) s.host) := foldl_prop (p := HostWf) (fun _ _ hb => hostWf_mset hb _ _) _ h
  unfold mergeHost
  split
  · exact h
  · exact k

@[simp] theorem hostStore_host (h : HostWf s.host) (a : Nat) (l : List Byte) : HostWf (hostStore s a l).host :=
  foldl_prop (p := HostWf) (fun _ _ hb => hostWf_mset hb _ _) l.zipIdx h

@[simp] theorem writeAccept_host (h : HostWf s.host) (r : Nat) (i : U32) : HostWf (writeAccept s r i).host := by
  unfold writeAccept
  (repeat' split) <;> simp [h]

@[simp] theorem endItem_host (h : HostWf s.host) (r : Nat) (i : U32) (status : U8) (detail : BitVec 128) : HostWf (endItem s r i status detail).host := by
  unfold endItem
  (repeat' split) <;> simp [h]

@[simp] theorem endInvalid_host (h : HostWf s.host) (r : Nat) (i : U32) (bit : Nat) : HostWf (endInvalid s r i bit).host := by
  unfold endInvalid
  (repeat' split) <;> simp [h]

@[simp] theorem resumeItem_host (h : HostWf s.host) (b : Nat) : HostWf (resumeItem s b).host := by
  unfold resumeItem
  dsimp only
  (repeat' split) <;> simp +contextual [h]

@[simp] theorem fillsDone_host (h : HostWf s.host) (b : Nat) : HostWf (fillsDone s b).host := by
  unfold fillsDone
  dsimp only
  (repeat' split) <;> simp +contextual [h]

/-! ### Dma -/

@[simp] theorem stackRead_words (h : StacksWf s.hbm.words) (a : Nat) (ups : List (Nat × StackUpset)) : StacksWf (stackRead s a ups).2.hbm.words := by
  unfold stackRead
  dsimp only
  (repeat' split) <;> simp +contextual [h]

@[simp] theorem stackWrite_words (h : StacksWf s.hbm.words) (a : Nat) (w : U64 × Bool) : StacksWf (stackWrite s a w).hbm.words := by
  unfold stackWrite
  split
  · exact h
  · exact stacksWf_mset h _ _

@[simp] theorem readSide_words (h : StacksWf s.hbm.words) (d : DmaDesc) (south : Bool) (denied : List Nat) (ups : List (Nat × StackUpset))
    (n : Nat) (x : Side) : StacksWf (readSide s d south denied ups n x).2.hbm.words := by
  cases x with
  | host dva =>
    unfold readSide
    dsimp only
    have ht := translate_outer (s := s) south (bakeRoot s d.slot) dva false denied
    split
    · rename_i c t he
      rw [he] at ht
      simp_all
    · rename_i a t he
      rw [he] at ht
      simp_all
    · rename_i a t he
      rw [he] at ht
      have : StacksWf t.hbm.words := by rw [ht.2.2.2]; exact h
      simp [this]
  | pad c a => simp [readSide, h]
  | tens j v o => simp [readSide, h]
  | area b o => simp [readSide, h]

theorem writeSide_host (h : HostWf s.host) (d : DmaDesc) (south : Bool) (denied : List Nat) (x : Side) (w : U64 × Bool) :
    HostWf (writeSide s d south denied x w).after.host := by
  cases x with
  | host dva =>
    unfold writeSide
    dsimp only
    have ht := translate_outer (s := s) south (bakeRoot s d.slot) dva true denied
    split
    · simp [Moved.after, h]
    · split
      · rename_i c t he
        rw [he] at ht
        simp_all [Moved.after]
      · rename_i a t he
        rw [he] at ht
        have : HostWf t.host := by rw [ht.2.2.1]; exact h
        simp [Moved.after, this]
      · rename_i a t he
        rw [he] at ht
        simp_all [Moved.after]
  | pad c a => simp [writeSide, Moved.after, h]
  | tens j v o => simp [writeSide, Moved.after, h]
  | area b o => simp [writeSide, Moved.after, h]

theorem writeSide_words (h : StacksWf s.hbm.words) (d : DmaDesc) (south : Bool) (denied : List Nat) (x : Side) (w : U64 × Bool) :
    StacksWf (writeSide s d south denied x w).after.hbm.words := by
  cases x with
  | host dva =>
    unfold writeSide
    dsimp only
    have ht := translate_outer (s := s) south (bakeRoot s d.slot) dva true denied
    split
    · simp [Moved.after, h]
    · split
      · rename_i c t he
        rw [he] at ht
        simp_all [Moved.after]
      · rename_i a t he
        rw [he] at ht
        simp_all [Moved.after]
      · rename_i a t he
        rw [he] at ht
        have : StacksWf t.hbm.words := by rw [ht.2.2.2]; exact h
        simp [Moved.after, this]
  | pad c a => simp [writeSide, Moved.after, h]
  | tens j v o => simp [writeSide, Moved.after, h]
  | area b o => simp [writeSide, Moved.after, h]

/-- What holds of every state that a translation, a read and a write of one word leave holds after the move of a word. -/
theorem moveWord_keeps {p : State → Prop} (ht : ∀ u a r dva w l, p u → p (translate u a r dva w l).2)
    (hr : ∀ u d a l ups n x, p u → p (readSide u d a l ups n x).2) (hw : ∀ u d a l x w, p u → p (writeSide u d a l x w).after)
    (d : DmaDesc) (denied : List Nat) (ups : List (Nat × StackUpset)) (n : Nat) (h : p s) : p (moveWord s d denied ups n).after := by
  have core : ∀ (t : State) (a b : Bool) (x y : Side), p t →
      p (match readSide t d a denied ups (n / 8) x with
        | (.error e, u) => Moved.fault e.1 e.2 u
        | (.ok w, u) => writeSide u d b denied y w).after := by
    intro t a b x y h1
    have h2 := hr t d a denied ups (n / 8) x h1
    split
    · rename_i e u he
      rw [he] at h2
      exact h2
    · rename_i w u he
      rw [he] at h2
      exact hw _ _ _ _ _ _ h2
  unfold moveWord
  dsimp only
  split
  · rename_i t he
    refine core t _ _ _ _ ?_
    split at he
    · rename_i dva _
      have h3 := ht s (southSide s ((nth (Side.area 0 0) d.src (n / max 8 d.bytes)).plus (n % max 8 d.bytes)) || southSide s ((nth (Side.area 0 0) d.dst (n / max 8 d.bytes)).plus (n % max 8 d.bytes))) (bakeRoot s d.slot) dva true denied h
      split at he
      · cases he
      · rename_i q u hp
        rw [hp] at h3
        injection he with he
        subst he
        exact h3
    · injection he with he
      subst he
      exact h
  · rename_i m hm
    split at hm
    · rename_i dva _
      have h3 := ht s (southSide s ((nth (Side.area 0 0) d.src (n / max 8 d.bytes)).plus (n % max 8 d.bytes)) || southSide s ((nth (Side.area 0 0) d.dst (n / max 8 d.bytes)).plus (n % max 8 d.bytes))) (bakeRoot s d.slot) dva true denied h
      split
      · rename_i c u hp
        rw [hp] at h3
        exact h3
      · rename_i q u hp
        exact absurd (by rw [hp]) (hm u)
    · exact absurd rfl (hm s)

theorem moveGo_keeps {p : State → Prop} (ht : ∀ u a r dva w l, p u → p (translate u a r dva w l).2)
    (hr : ∀ u d a l ups n x, p u → p (readSide u d a l ups n x).2) (hw : ∀ u d a l x w, p u → p (writeSide u d a l x w).after)
    (denied : List Nat) (ups : List (Nat × StackUpset)) : ∀ (f : Nat) (s : State) (d : DmaDesc), p s → p (moveGo f s d denied ups).1
  | 0, _, _, h => h
  | f + 1, s, d, h => by
    unfold moveGo
    split
    · exact h
    · have h1 := moveWord_keeps ht hr hw d denied ups d.moved h
      split
      · rename_i t he
        rw [he] at h1
        exact moveGo_keeps ht hr hw denied ups f t _ h1
      · rename_i a c t he
        rw [he] at h1
        exact h1
      · rename_i t he
        rw [he] at h1
        exact h1

theorem moveWord_host (h : HostWf s.host) (d : DmaDesc) (denied : List Nat) (ups : List (Nat × StackUpset)) (n : Nat) :
    HostWf (moveWord s d denied ups n).after.host :=
  moveWord_keeps (p := fun u => HostWf u.host) (fun u a r dva w l hu => by simp [hu]) (fun u d a l ups n x hu => by simp [hu])
    (fun u d a l x w hu => writeSide_host hu d a l x w) d denied ups n h

theorem moveWord_words (h : StacksWf s.hbm.words) (d : DmaDesc) (denied : List Nat) (ups : List (Nat × StackUpset)) (n : Nat) :
    StacksWf (moveWord s d denied ups n).after.hbm.words :=
  moveWord_keeps (p := fun u => StacksWf u.hbm.words) (fun u a r dva w l hu => by simp [hu]) (fun u d a l ups n x hu => by simp [hu])
    (fun u d a l x w hu => writeSide_words hu d a l x w) d denied ups n h

@[simp] theorem DmaDesc_run_host (h : HostWf s.host) (d : DmaDesc) (denied : List Nat) (ups : List (Nat × StackUpset)) :
    HostWf (DmaDesc.run s d denied ups).1.host :=
  moveGo_keeps (p := fun u => HostWf u.host) (fun u a r dva w l hu => by simp [hu]) (fun u d a l ups n x hu => by simp [hu])
    (fun u d a l x w hu => writeSide_host hu d a l x w) denied ups _ s _ h

@[simp] theorem DmaDesc_run_words (h : StacksWf s.hbm.words) (d : DmaDesc) (denied : List Nat) (ups : List (Nat × StackUpset)) :
    StacksWf (DmaDesc.run s d denied ups).1.hbm.words :=
  moveGo_keeps (p := fun u => StacksWf u.hbm.words) (fun u a r dva w l hu => by simp [hu]) (fun u d a l ups n x hu => by simp [hu])
    (fun u d a l x w hu => writeSide_words hu d a l x w) denied ups _ s _ h

@[simp] theorem afterFree_host (h : HostWf s.host) (d : DmaDesc) : HostWf (afterFree s d).host := by
  unfold afterFree
  dsimp only
  (repeat' split) <;> simp +contextual [h]

@[simp] theorem writeFault_host (h : HostWf s.host) (d : DmaDesc) (dva : Nat) (cause : Nat) : HostWf (writeFault s d dva cause).host := by
  unfold writeFault
  dsimp only
  (repeat' split) <;> simp +contextual [h]

@[simp] theorem retryDma_host (h : HostWf s.host) (d : DmaDesc) (atsDenied : List Nat) : HostWf (retryDma s d atsDenied).host := by
  unfold retryDma
  dsimp only
  have h1 : HostWf (dropPri s d).host := by simp [h]
  have h2 := DmaDesc_run_host h1 d atsDenied []
  split
  · split
    · rename_i a c u he
      have h3 := moveWord_host h1 d atsDenied [] d.moved
      rw [he] at h3
      have h4 : HostWf u.host := h3
      simp [h4]
    · simp [h]
  · repeat' split
    all_goals simp [h2]

@[simp] theorem retryDma_words (h : StacksWf s.hbm.words) (d : DmaDesc) (atsDenied : List Nat) : StacksWf (retryDma s d atsDenied).hbm.words := by
  unfold retryDma
  dsimp only
  have h1 : StacksWf (dropPri s d).hbm.words := by simp [h]
  have h2 := DmaDesc_run_words h1 d atsDenied []
  split
  · split
    · rename_i a c u he
      have h3 := moveWord_words h1 d atsDenied [] d.moved
      rw [he] at h3
      have h4 : StacksWf u.hbm.words := h3
      simp [h4]
    · simp [h]
  · repeat' split
    all_goals simp [h2]

@[simp] theorem retryAll_host (h : HostWf s.host) (pick : DmaDesc → Bool) : HostWf (retryAll s pick).host := by
  unfold retryAll
  refine foldl_prop (p := fun u : State => HostWf u.host) (fun u x hu => ?_) _ h
  split
  · exact retryDma_host hu _ _
  · exact hu

@[simp] theorem retryAll_words (h : StacksWf s.hbm.words) (pick : DmaDesc → Bool) : StacksWf (retryAll s pick).hbm.words := by
  unfold retryAll
  refine foldl_prop (p := fun u : State => StacksWf u.hbm.words) (fun u x hu => ?_) _ h
  split
  · exact retryDma_words hu _ _
  · exact hu

/-! ### Areas -/

@[simp] theorem copyRead_words (h : StacksWf s.hbm.words) (b : Nat) (x : Side) : StacksWf (copyRead s b x).2.hbm.words := by
  unfold copyRead
  (repeat' split) <;> simp [h]

@[simp] theorem copyWrite_words (h : StacksWf s.hbm.words) (b : Nat) (x : Side) (w : U64 × Bool) : StacksWf (copyWrite s b x w).hbm.words := by
  unfold copyWrite
  (repeat' split) <;> simp [h]

@[simp] theorem copyBytes_words (h : StacksWf s.hbm.words) (b n : Nat) (src dst : Nat → Side) : StacksWf (copyBytes s b n src dst).hbm.words :=
  foldl_prop (p := fun u : State => StacksWf u.hbm.words) (fun u x hu => copyWrite_words (copyRead_words hu _ _) _ _ _) _ h

/-! ### Moves -/

@[simp] theorem carrySend_words (h : StacksWf s.hbm.words) (c : CoreId) (slot : Nat) (ent : Nat) : StacksWf (carrySend s c slot ent).hbm.words := by
  unfold carrySend
  dsimp only
  (repeat' split) <;> simp +contextual [h]

@[simp] theorem sendOrHold_words (h : StacksWf s.hbm.words) (c : CoreId) : StacksWf (sendOrHold s c).hbm.words := by
  unfold sendOrHold
  dsimp only
  (repeat' split) <;> simp +contextual [h]

/-! ### BakeOps -/

@[simp] theorem fence_host (h : HostWf s.host) (b : Nat) (reason : Nat) (counts : Bool) : HostWf (fence s b reason counts).host := by
  unfold fence
  dsimp only
  (repeat' split) <;> simp +contextual [h]

@[simp] theorem readGo_words (h : StacksWf s.hbm.words) (b : Nat) (side : Nat → Side) (n : Nat) : StacksWf (readGo b side s n).2.hbm.words :=
  foldl_prop (p := fun a : List (U64 × Bool) × State => StacksWf a.2.hbm.words) (fun u x hu => copyRead_words hu _ _) _ h

@[simp] theorem viewWords_words (h : StacksWf s.hbm.words) (b j : Nat) (next : Bool) : StacksWf (viewWords s b j next).2.hbm.words :=
  readGo_words h _ _ _

@[simp] theorem gather_words (h : StacksWf s.hbm.words) (b : Nat) (refill : Bool) : StacksWf (gather s b refill).2.hbm.words :=
  foldl_prop (p := fun a : List (Nat × Bool × List (U64 × Bool)) × State => StacksWf a.2.hbm.words)
    (fun u x hu => viewWords_words hu _ _ _) _ h

@[simp] theorem digestWords_words (h : StacksWf s.hbm.words) (b j : Nat) : StacksWf (digestWords s b j).2.hbm.words := by
  unfold digestWords
  split <;> simp [h]

@[simp] theorem digestOf_words (h : StacksWf s.hbm.words) (b : Nat) (seed : U64) (l : List Nat) :
    StacksWf (digestOf s b seed l).2.hbm.words :=
  foldl_prop (p := fun a : (BitVec 128 × Bool) × State => StacksWf a.2.hbm.words) (fun u x hu => digestWords_words hu _ _) _ h

@[simp] theorem bankDigest_words (h : StacksWf s.hbm.words) (b : Nat) (areaB : Bool) : StacksWf (bankDigest s b areaB).2.hbm.words :=
  foldl_prop (p := fun a : BitVec 128 × State => StacksWf a.2.hbm.words) (fun u x hu => readGo_words hu _ _ _) _ h

@[simp] theorem scatter_words (h : StacksWf s.hbm.words) (b : Nat) (l : List (Nat × Bool × List (U64 × Bool))) :
    StacksWf (scatter s b l).hbm.words :=
  foldl_prop (p := fun u : State => StacksWf u.hbm.words) (fun u x hu =>
    foldl_prop (p := fun u : State => StacksWf u.hbm.words) (fun v y hv => copyWrite_words hv _ _ _) _ hu) _ h

@[simp] theorem copyView_words (h : StacksWf s.hbm.words) (b : Nat) (j : Nat) (src : Nat → Side) (dst : Nat → Side) : StacksWf (copyView s b j src dst).hbm.words := by
  unfold copyView
  (repeat' split) <;> simp [h]

@[simp] theorem beginFills_host (h : HostWf s.host) (b : Nat) (pick : W256 → Bool) : HostWf (beginFills s b pick).host := by
  unfold beginFills
  (repeat' split) <;> simp [h]

@[simp] theorem swapPhase_words (h : StacksWf s.hbm.words) (b ph : Nat) (out : Bool) : StacksWf (swapPhase s b ph out).hbm.words := by
  unfold swapPhase
  refine foldl_prop (p := fun u : State => StacksWf u.hbm.words) (fun u x hu => ?_) _ h
  dsimp only
  repeat' split
  all_goals simp [hu]

@[simp] theorem changePhase_words (h : StacksWf s.hbm.words) (b : Nat) (ph : Nat) : StacksWf (changePhase s b ph).hbm.words := by
  unfold changePhase
  dsimp only
  (repeat' split) <;> simp +contextual [h]

/-! ### Bakes -/

@[simp] theorem endItems_host (h : HostWf s.host) (b : Nat) (pick : U32 → Bool) (status : U8) (detail : BitVec 128) : HostWf (endItems s b pick status detail).host := by
  unfold endItems
  simp +contextual [h]

@[simp] theorem rejectLoad_host (h : HostWf s.host) (b : Nat) (r : Reject) : HostWf (rejectLoad s b r).host := by
  unfold rejectLoad
  (repeat' split) <;> simp [h]

@[simp] theorem placeLoad_host (h : HostWf s.host) (b : Nat) (p : Placement) : HostWf (placeLoad s b p).host := by
  unfold placeLoad
  dsimp only
  (repeat' split) <;> simp +contextual [h]

@[simp] theorem moveBake_words (h : StacksWf s.hbm.words) (b : Nat) (p : Placement) (refill : Bool) : StacksWf (moveBake s b p refill).hbm.words := by
  unfold moveBake
  (repeat' split) <;> simp [h]

@[simp] theorem placeAgain_host (h : HostWf s.host) (b : Nat) (p : Placement) : HostWf (placeAgain s b p).host := by
  unfold placeAgain
  dsimp only
  (repeat' split) <;> simp +contextual [h]

@[simp] theorem placeAgain_words (h : StacksWf s.hbm.words) (b : Nat) (p : Placement) : StacksWf (placeAgain s b p).hbm.words := by
  unfold placeAgain
  dsimp only
  (repeat' split) <;> simp +contextual [h]

@[simp] theorem switchNext_words (h : StacksWf s.hbm.words) (b : Nat) : StacksWf (switchNext s b).hbm.words := by
  unfold switchNext
  dsimp only
  (repeat' split) <;> simp [h]

@[simp] theorem cannotPlace_host (h : HostWf s.host) (b row : Nat) : HostWf (cannotPlace s b row).host := by
  unfold cannotPlace
  dsimp only
  split <;> simp [h]

@[simp] theorem beginCommit_host (h : HostWf s.host) (b : Nat) : HostWf (beginCommit s b).host := by
  unfold beginCommit
  dsimp only
  (repeat' split) <;> simp +contextual [h]

@[simp] theorem afterFence_host (h : HostWf s.host) (b : Nat) : HostWf (afterFence s b).host := by
  unfold afterFence
  dsimp only
  (repeat' split) <;> simp +contextual [h]

theorem copyWords_words (h : StacksWf s.hbm.words) (frame from_ : Nat) (l : List Nat) :
    StacksWf (l.foldl (fun t i => stackWrite t (frame + 8 * i) (BitVec.ofNat 64 (hostNum s (from_ + 8 * i) 8), false)) s).hbm.words :=
  foldl_prop (p := fun u : State => StacksWf u.hbm.words) (fun u x hu => stackWrite_words hu _ _) l h

@[simp] theorem copyPage_words (h : StacksWf s.hbm.words) (d f : Nat) : StacksWf (copyPage s d f).hbm.words := by
  unfold copyPage
  exact copyWords_words h d f _

theorem withRing_host (g : RingEngine) (h : HostWf s.host) : HostWf (State.host { s with ring := g }) := h

@[simp] theorem pageIn_host (h : HostWf s.host) (d : DmaDesc) (dva : Nat) : HostWf (pageIn s d dva).host := by
  have k : ∀ f g, HostWf (copyPage s f g).host := fun f g => by rw [(copyPage_outer f g).2.2]; exact h
  unfold pageIn
  generalize copyPage s = cp at *
  dsimp only
  split
  · exact h
  · split
    · exact h
    · split
      · exact h
      · exact retryDma_host (withRing_host _ (hostStore_host (k _ _) _ _)) _ _

theorem withRing_words (g : RingEngine) (h : StacksWf s.hbm.words) : StacksWf (Stacks.words (State.hbm { s with ring := g })) := h

@[simp] theorem pageIn_words (h : StacksWf s.hbm.words) (d : DmaDesc) (dva : Nat) : StacksWf (pageIn s d dva).hbm.words := by
  have k : ∀ f g, StacksWf (copyPage s f g).hbm.words := fun f g => copyPage_words h f g
  have k2 : ∀ f g a b, StacksWf (hostStore (copyPage s f g) a b).hbm.words := fun f g a b => by rw [(hostStore_outer a b).2.2]; exact k f g
  unfold pageIn
  generalize copyPage s = cp at *
  dsimp only
  split
  · exact h
  · split
    · exact h
    · split
      · exact h
      · exact retryDma_words (withRing_words _ (k2 _ _ _ _)) _ _

/-- What a migration begins from: the state itself, a fence of its step, or a new epoch. -/
theorem switchBake_keeps {p : State → Prop} (b : Nat) (q : Placement) (h : p s) (hf : p (fence s b ((fenceRows (s.bake b)).headD 0) true))
    (he : p (dropDmas ((takeEpoch s).2.modBake b fun q => { q with epoch := (takeEpoch s).1 }) b))
    (hm : ∀ u : State, p u → ∀ t i x, t = newBaseline (writeBounds (scatterSlots (scatter (install
        ((writeEpoch (clearCores (gather u b false).2 b) (s.bake b).tenant.toNat (u.bake b).epoch).modBake b x) b q) b (gather u b false).1) b
          (gatherSlots u b)) b) b →
      p t ∧ p (endItem t (s.bake b).ring i 0 0))
    (hr : ∀ u : State, p u → p (resumeItem u b) ∧ p (u.modBake b fun q => { q with state := idleState q })) : p (switchBake s b q) := by
  have main : ∀ u : State, p u → ∀ x, p (
      let t := newBaseline (writeBounds (scatterSlots (scatter (install
        ((writeEpoch (clearCores (gather u b false).2 b) (s.bake b).tenant.toNat (u.bake b).epoch).modBake b x) b q) b (gather u b false).1) b
          (gatherSlots u b)) b) b
      let t := match migrateItem u b with
        | some i => endItem t (s.bake b).ring i.index 0 0
        | none => t
      if (s.bake b).item.isSome then resumeItem t b else t.modBake b fun q => { q with state := idleState q }) := by
    intro u hu x
    dsimp only
    split
    · refine (hr _ ?_).1
      split
      · exact (hm u hu _ _ x rfl).2
      · exact (hm u hu _ 0 x rfl).1
    · refine (hr _ ?_).2
      split
      · exact (hm u hu _ _ x rfl).2
      · exact (hm u hu _ 0 x rfl).1
  unfold switchBake
  dsimp only
  refine main _ ?_ _
  split
  · exact h
  · split
    · exact hf
    · exact he

@[simp] theorem switchBake_host (h : HostWf s.host) (b : Nat) (p : Placement) : HostWf (switchBake s b p).host := by
  refine switchBake_keeps (p := fun u => HostWf u.host) b p h (by simp [h]) (by simp [takeEpoch_outer, h]) ?_ ?_
  · rintro u hu t i x rfl
    exact ⟨by simp [hu], endItem_host (by simp [hu]) ..⟩
  · exact fun u hu => ⟨resumeItem_host hu _, by simp [hu]⟩

@[simp] theorem switchBake_words (h : StacksWf s.hbm.words) (b : Nat) (p : Placement) : StacksWf (switchBake s b p).hbm.words := by
  refine switchBake_keeps (p := fun u => StacksWf u.hbm.words) b p h (by simp [h]) (by simp [takeEpoch_outer, h]) ?_ ?_
  · rintro u hu t i x rfl
    have k : StacksWf (newBaseline (writeBounds (scatterSlots (scatter (install
        ((writeEpoch (clearCores (gather u b false).2 b) (s.bake b).tenant.toNat (u.bake b).epoch).modBake b x) b p) b (gather u b false).1) b
          (gatherSlots u b)) b) b).hbm.words := by simp [hu]
    exact ⟨k, by simpa using k⟩
  · exact fun u hu => ⟨by simp [hu], by simp [hu]⟩

/-! ### AlwaysOn -/

@[simp] theorem heldInReset_words : StacksWf (heldInReset s).hbm.words := rfl

/-! ### Links -/

@[simp] theorem writeTransfer_words (h : StacksWf s.hbm.words) (n : Nat) (f : Frame) : StacksWf (writeTransfer s n f).hbm.words := by
  unfold writeTransfer
  refine foldl_prop (p := fun u : State => StacksWf u.hbm.words) (fun u x hu => ?_) _ h
  dsimp only
  split <;> simp [hu]

@[simp] theorem receiveData_words (h : StacksWf s.hbm.words) (f : Frame) : StacksWf (receiveData s f).hbm.words := by
  unfold receiveData
  dsimp only
  (repeat' split) <;> simp +contextual [h]

/-! ### Integrity -/

@[simp] theorem restoreBank_words (h : StacksWf s.hbm.words) (b : Nat) (area : Nat) : StacksWf (restoreBank s b area).2.hbm.words := by
  unfold restoreBank
  dsimp only
  (repeat' split) <;> simp +contextual [h]

/-! ### Startup -/

@[simp] theorem trainStacks_words (bad : List Nat) (lanes : List (Nat × Nat)) : StacksWf (trainStacks s bad lanes).hbm.words := by
  unfold trainStacks
  dsimp only
  refine foldl_prop (p := fun u : State => StacksWf u.hbm.words) (fun u x hu => by simp [hu]) _ ?_
  refine foldl_prop (p := fun u : State => StacksWf u.hbm.words) (fun u x hu => by simp [hu]) _ ?_
  simp

@[simp] theorem startSequence_words (h : StacksWf s.hbm.words) (o : BootObs) : StacksWf (startSequence s o).hbm.words := by
  unfold startSequence
  dsimp only
  (repeat' split) <;> simp +contextual [h]

/-! ### Resets -/

@[simp] theorem absorbBake_host (h : HostWf s.host) (b : Nat) : HostWf (absorbBake s b).host := by
  unfold absorbBake
  dsimp only
  (repeat' split) <;> simp +contextual [h]

@[simp] theorem beginReset_host (h : HostWf s.host) (a : ResetScope) (b : Boundary) (cause : U8) : HostWf (beginReset s a b cause).host := by
  unfold beginReset
  dsimp only
  (repeat' split) <;> simp +contextual [h]

@[simp] theorem requestReset_host (h : HostWf s.host) (a : ResetScope) (b : Boundary) (cause : U8) : HostWf (requestReset s a b cause).host := by
  unfold requestReset
  (repeat' split) <;> simp [h]

@[simp] theorem spill_words (h : StacksWf s.hbm.words) (l : List CoreId) (b : Nat) : StacksWf (spill s l b).hbm.words := by
  unfold spill
  dsimp only
  (repeat' split) <;> simp +contextual [h]

@[simp] theorem unspill_words (h : StacksWf s.hbm.words) (l : List CoreId) (b : Nat) : StacksWf (unspill s l b).hbm.words := by
  unfold unspill
  dsimp only
  (repeat' split) <;> simp +contextual [h]

@[simp] theorem spillOrPause_host (h : HostWf s.host) (l : List CoreId) (b : Nat) : HostWf (spillOrPause s l b).host := by
  unfold spillOrPause
  dsimp only
  (repeat' split) <;> simp +contextual [h]

@[simp] theorem spillOrPause_words (h : StacksWf s.hbm.words) (l : List CoreId) (b : Nat) : StacksWf (spillOrPause s l b).hbm.words := by
  unfold spillOrPause
  dsimp only
  (repeat' split) <;> simp +contextual [h]

@[simp] theorem restoreBake_host (h : HostWf s.host) (l : List CoreId) (gen : U32) (b : Nat) : HostWf (restoreBake s l gen b).host := by
  unfold restoreBake
  dsimp only
  (repeat' split) <;> simp +contextual [h]

@[simp] theorem restoreBake_words (h : StacksWf s.hbm.words) (l : List CoreId) (gen : U32) (b : Nat) : StacksWf (restoreBake s l gen b).hbm.words := by
  unfold restoreBake
  dsimp only
  (repeat' split) <;> simp +contextual [h]

@[simp] theorem resetScope_host (h : HostWf s.host) (a : ResetScope) (test : SelfTest) : HostWf (resetScope s a test).host := by
  unfold resetScope
  dsimp only
  refine foldl_prop (p := fun u : State => HostWf u.host) (fun u x hu => restoreBake_host hu ..) _ ?_
  simp only [selfTestCores_outer]
  refine foldl_prop (p := fun u : State => HostWf u.host) (fun u x hu => by simp [hu]) _ ?_
  exact foldl_prop (p := fun u : State => HostWf u.host) (fun u x hu => spillOrPause_host hu ..) _ h

@[simp] theorem resetScope_words (h : StacksWf s.hbm.words) (a : ResetScope) (test : SelfTest) : StacksWf (resetScope s a test).hbm.words := by
  unfold resetScope
  dsimp only
  refine foldl_prop (p := fun u : State => StacksWf u.hbm.words) (fun u x hu => restoreBake_words hu ..) _ ?_
  simp only [selfTestCores_outer]
  refine foldl_prop (p := fun u : State => StacksWf u.hbm.words) (fun u x hu => by simp [hu]) _ ?_
  exact foldl_prop (p := fun u : State => StacksWf u.hbm.words) (fun u x hu => spillOrPause_words hu ..) _ h

@[simp] theorem lowReset_host (h : HostWf s.host) (a : ResetScope) (test : SelfTest) : HostWf (lowReset s a test).host := by
  unfold lowReset
  (repeat' split) <;> simp [h]

@[simp] theorem lowReset_words (h : StacksWf s.hbm.words) (a : ResetScope) (test : SelfTest) : StacksWf (lowReset s a test).hbm.words := by
  unfold lowReset
  (repeat' split) <;> simp [h]

@[simp] theorem finishWarm_host (h : HostWf s.host) (test : SelfTest) : HostWf (finishWarm s test).host := by
  unfold finishWarm
  (repeat' split) <;> simp [h]

@[simp] theorem finishWarm_words (h : StacksWf s.hbm.words) (test : SelfTest) : StacksWf (finishWarm s test).hbm.words := by
  unfold finishWarm
  (repeat' split) <;> simp [h]

@[simp] theorem wholeHeld_words (h : StacksWf s.hbm.words) (cause : U8) : StacksWf (wholeHeld s cause).hbm.words := by
  unfold wholeHeld
  (repeat' split) <;> simp [h]

/-! ### Recovery -/

@[simp] theorem startRescueReset_host (h : HostWf s.host) (level : Nat) : HostWf (startRescueReset s level).2.host := by
  unfold startRescueReset
  (repeat' split) <;> simp [h]

@[simp] theorem startReload_host (h : HostWf s.host)  : HostWf (startReload s).host := by
  unfold startReload
  (repeat' split) <;> simp [h]

/-! ### DictWrite -/

@[simp] theorem writeReset_host (h : HostWf s.host) (v : Nat) : HostWf (writeReset s v).2.host := by
  unfold writeReset
  dsimp only
  (repeat' split) <;> simp +contextual [h]

@[simp] theorem writeScalar_host (h : HostWf s.host) (master : Nat) (index : Nat) (sub : Nat) (v : Nat) : HostWf (writeScalar s master index sub v).2.host := by
  unfold writeScalar
  (repeat' split) <;> simp [h]

@[simp] theorem writeScalar_words (h : StacksWf s.hbm.words) (master : Nat) (index : Nat) (sub : Nat) (v : Nat) : StacksWf (writeScalar s master index sub v).2.hbm.words := by
  unfold writeScalar
  (repeat' split) <;> simp [h]

@[simp] theorem doWrite_host (h : HostWf s.host) (e : Entry) (master : Nat) (sub : Nat) (off : Nat) (data : List Byte) : HostWf (doWrite s e master sub off data).2.host := by
  unfold doWrite
  (repeat' split) <;> simp [h]

@[simp] theorem doWrite_words (h : StacksWf s.hbm.words) (e : Entry) (master : Nat) (sub : Nat) (off : Nat) (data : List Byte) : StacksWf (doWrite s e master sub off data).2.hbm.words := by
  unfold doWrite
  (repeat' split) <;> simp [h]

@[simp] theorem writeEntry_host (h : HostWf s.host) (master : Nat) (index : Nat) (sub : Nat) (code : Nat) (off : Nat) (data : List Byte) (rsv : Bool) : HostWf (writeEntry s master index sub code off data rsv).2.host := by
  unfold writeEntry
  dsimp only
  (repeat' split) <;> simp +contextual [h]

@[simp] theorem writeEntry_words (h : StacksWf s.hbm.words) (master : Nat) (index : Nat) (sub : Nat) (code : Nat) (off : Nat) (data : List Byte) (rsv : Bool) : StacksWf (writeEntry s master index sub code off data rsv).2.hbm.words := by
  unfold writeEntry
  dsimp only
  (repeat' split) <;> simp +contextual [h]

/-! ### Frames -/

@[simp] theorem runRequest_host (h : HostWf s.host) (master : Nat) (ver : Nat) (room : Nat) (r : Request) : HostWf (runRequest s master ver room r).2.2.host := by
  unfold runRequest
  (repeat' split) <;> simp [h]

@[simp] theorem runRequest_words (h : StacksWf s.hbm.words) (master : Nat) (ver : Nat) (room : Nat) (r : Request) : StacksWf (runRequest s master ver room r).2.2.hbm.words := by
  unfold runRequest
  (repeat' split) <;> simp [h]

theorem runRequests_prop {p : State → Prop} (run : State → Nat → Request → Nat × List Byte × State)
    (hp : ∀ u n r, p u → p (run u n r).2.2) : ∀ (l : List Request) (s : State) (left : Nat), p s → p (runRequests run s left l).2
  | [], _, _, h => h
  | _ :: t, _, _, h => runRequests_prop run hp t _ _ (hp _ _ _ h)

theorem answer_prop {p : State → Prop} (limit : Nat) (run : State → Nat → Request → Nat × List Byte × State)
    (hp : ∀ u n r, p u → p (run u n r).2.2) (f : Nat × Nat × Nat × List Request) (h : p s) : p (answer s limit run f).2 :=
  runRequests_prop run hp _ _ _ h

@[simp] theorem handleFrame_host (h : HostWf s.host) (p : Fin 2) (f : Nat × Nat × Nat × List Request) :
    HostWf (handleFrame s p f).host := by
  unfold handleFrame
  dsimp only
  split
  · simp [h]
  · split
    · simp [h]
    · simp only [modMgmt_outer]
      exact answer_prop (p := fun u => HostWf u.host) _ _ (fun u n r hu => by simp [hu]) _ h

@[simp] theorem handleFrame_words (h : StacksWf s.hbm.words) (p : Fin 2) (f : Nat × Nat × Nat × List Request) :
    StacksWf (handleFrame s p f).hbm.words := by
  unfold handleFrame
  dsimp only
  split
  · simp [h]
  · split
    · simp [h]
    · simp only [modMgmt_outer]
      exact answer_prop (p := fun u => StacksWf u.hbm.words) _ _ (fun u n r hu => by simp [hu]) _ h

@[simp] theorem rescueRequest_host (h : HostWf s.host) (master : Nat) (room : Nat) (r : Request) : HostWf (rescueRequest s master room r).2.2.host := by
  unfold rescueRequest
  (repeat' split) <;> simp [h]

@[simp] theorem rescueRequest_words (h : StacksWf s.hbm.words) (master : Nat) (room : Nat) (r : Request) : StacksWf (rescueRequest s master room r).2.2.hbm.words := by
  unfold rescueRequest
  (repeat' split) <;> simp [h]

/-! ### Control -/

@[simp] theorem masterWrite_host (h : HostWf s.host) (master : U8) (index : Nat) (sub : Nat) (code : Nat) (size : Nat) (v : Nat) : HostWf (masterWrite s master index sub code size v).host := by
  unfold masterWrite
  (repeat' split) <;> simp [h]

@[simp] theorem masterWrite_words (h : StacksWf s.hbm.words) (master : U8) (index : Nat) (sub : Nat) (code : Nat) (size : Nat) (v : Nat) : StacksWf (masterWrite s master index sub code size v).hbm.words := by
  unfold masterWrite
  (repeat' split) <;> simp [h]

/-! ### Rings -/

@[simp] theorem applyCancel_host (h : HostWf s.host) (r : Nat) (i : U32) : HostWf (applyCancel s r i).host := by
  unfold applyCancel
  dsimp only
  (repeat' split) <;> simp +contextual [h]

@[simp] theorem readyItem_host (h : HostWf s.host) (r : Nat) (t : Item) : HostWf (readyItem s r t).host := by
  unfold readyItem
  (repeat' split) <;> simp [h]

@[simp] theorem letStart_host (h : HostWf s.host) (r : Nat) (t : Item) : HostWf (letStart s r t).host := by
  unfold letStart
  (repeat' split) <;> simp [h]

@[simp] theorem cancelRing_host (h : HostWf s.host) (r : Nat) : HostWf (cancelRing s r).host := by
  unfold cancelRing
  exact foldl_prop (p := fun u : State => HostWf u.host) (fun u x hu => by simp [hu]) _ (by simp [h])

theorem passRing_host (h : HostWf s.host) {act : State → Nat → Item → State} (ha : ∀ u r t, HostWf u.host → HostWf (act u r t).host)
    (e : Nat × List U32) : HostWf (passRing act s e).host := by
  unfold passRing
  refine foldl_prop (p := fun u : State => HostWf u.host) (fun u x hu => ?_) _ h
  split
  · exact ha _ _ _ hu
  · exact hu

@[simp] theorem unloadWaiting_host (h : HostWf s.host) (r : Nat) (t : Item) : HostWf (unloadWaiting s r t).host := by
  unfold unloadWaiting
  exact endItem_host (foldl_prop (p := fun u : State => HostWf u.host) (fun u x hu => endItem_host hu _ _ _ _) _ h) ..

theorem startItem_host (h : HostWf s.host) (r : Nat) (i : U32) (op : Nat) {go : State → Item → State}
    (hg : ∀ u t, HostWf u.host → HostWf (go u t).host) : HostWf (startItem s r i op go).host := by
  unfold startItem
  dsimp only
  repeat' split
  all_goals first | exact h | simp [h] | exact hg _ _ (by simp [h])

theorem onBake_host (h : HostWf s.host) (r : Nat) (t : Item) {go : State → Nat → State}
    (hg : ∀ u b, HostWf u.host → HostWf (go u b).host) : HostWf (onBake s r t go).host := by
  unfold onBake
  split
  · exact hg _ _ (by simp [h])
  · simp [h]

@[simp] theorem endFault_host (h : HostWf s.host) (r : Nat) (i : U32) (e : Nat × Nat) : HostWf (endFault s r i e).host := by
  unfold endFault
  (repeat' split) <;> simp [h]

@[simp] theorem rejectEarly_host (h : HostWf s.host) (r : Nat) (i : U32) (x : Reject) : HostWf (rejectEarly s r i x).host := by
  unfold rejectEarly
  (repeat' split) <;> simp [h]

@[simp] theorem takeLoad_host (h' : HostWf s.host) (r : Nat) (i : U32) (w : BitVec 512) (b : Nat) (h : W256) :
    HostWf (takeLoad s r i w b h).host := by
  unfold takeLoad
  dsimp only
  repeat' split
  all_goals simp [readDva_outer, h']

/-! ### Stacks -/

@[simp] theorem moveBytes_words (h : StacksWf s.hbm.words) (src dst n : Nat) : StacksWf (moveBytes s src dst n).hbm.words :=
  foldl_prop (p := StacksWf) (fun _ _ hb => stacksWf_mset hb _ _) (mwithin s.hbm.words (src / 8) (ceilDiv n 8))
    (stacksWf_without (stacksWf_without h _ _) _ _)

@[simp] theorem moveGranules_host (h : HostWf s.host) (ch : Nat) (m : Nat × Nat × Nat × Nat × Nat) : HostWf (moveGranules s ch m).host := by
  unfold moveGranules
  dsimp only
  split
  · exact hostStore_host (by simp [h]) _ _
  · split
    · simp only [State_modBake_outer]
      refine foldl_prop (p := fun u : State => HostWf u.host) (fun u x hu => ?_) _ h
      split
      · exact foldl_prop (p := fun u : State => HostWf u.host) (fun v y hv => by simp [hv]) _ hu
      · exact hu
    · simp only [State_modBake_outer]
      refine foldl_prop (p := fun u : State => HostWf u.host) (fun u x hu => ?_) _ h
      repeat' split
      all_goals simp [hu]

@[simp] theorem moveGranules_words (h : StacksWf s.hbm.words) (ch : Nat) (m : Nat × Nat × Nat × Nat × Nat) : StacksWf (moveGranules s ch m).hbm.words := by
  unfold moveGranules
  dsimp only
  split
  · simp [h]
  · split
    · simp only [State_modBake_outer]
      refine foldl_prop (p := fun u : State => StacksWf u.hbm.words) (fun u x hu => ?_) _ h
      split
      · exact foldl_prop (p := fun u : State => StacksWf u.hbm.words) (fun v y hv => by simp [hv]) _ hu
      · exact hu
    · simp only [State_modBake_outer]
      refine foldl_prop (p := fun u : State => StacksWf u.hbm.words) (fun u x hu => ?_) _ h
      repeat' split
      all_goals simp [hu]

@[simp] theorem unbackPages_host (h : HostWf s.host) (ch : Nat) : HostWf (unbackPages s ch).host := by
  unfold unbackPages
  refine foldl_prop (p := fun u : State => HostWf u.host) (fun u x hu => ?_) _ h
  simp [hu]

@[simp] theorem loseBake_host (ch : Nat) {t : State} (h : HostWf t.host) (b : Nat) : HostWf (loseBake s ch t b).host := by
  unfold loseBake
  dsimp only
  (repeat' split) <;> simp [h]

@[simp] theorem loseStripe_words (h : StacksWf s.hbm.words) (stack : Nat) : StacksWf (loseStripe s stack).hbm.words := by
  unfold loseStripe
  dsimp only
  (repeat' split) <;> simp +contextual [h]

@[simp] theorem retireChannel_words (h : StacksWf s.hbm.words) (ch : Nat) (planned : Bool) (cached : List Nat) : StacksWf (retireChannel s ch planned cached).hbm.words := by
  unfold retireChannel
  (repeat' split) <;> simp [h]

@[simp] theorem loseContents_host (h : HostWf s.host) (ch : Nat) : HostWf (loseContents s ch).host := by
  unfold loseContents
  refine unbackPages_host ?_ _
  exact foldl_prop (p := fun u : State => HostWf u.host) (fun u x hu => loseBake_host ch hu x) _ h

@[simp] theorem loseContents_words (h : StacksWf s.hbm.words) (ch : Nat) : StacksWf (loseContents s ch).hbm.words := by
  refine stacksWf_without ?_ _ _
  simp [h]

end Sys2Proof.Machine
end

