-- ==== Sys2Proof/WellFormed.lean ====
section
/-! DEFINITION. The check on a command's operands that does not depend on the state: every unit it names is one the
manual numbers (R5, R32, R268, R313, R380, R448). -/

namespace Sys2Proof

/-- Unit a command names by a plain number, with the least and greatest number the manual gives its kind. -/
def Instr.unitRange : Instr → Option (Nat × Nat × Nat)
  | .coreFailure c | .mapChangeEffect c | .issueSequencerCycle c | .loaderRowInjection c | .accumulatorAdd c _
  | .drainRow c _ _ | .counterPublication c | .nop c | .loop c | .endloop c | .sync c | .fence c | .endStep c
  | .matmul c | .dma c | .send c | .put c | .fill c | .copy c | .vadd c | .vsub c | .vmul c | .vfmai c | .vdiv c
  | .vsqrt c | .vmin c | .vmax c | .vcmplt c | .vrcp c | .vrsqrt c | .vexp2 c | .vexp c | .vcvt c | .vquant c
  | .vdequant c | .vrsum c | .vrmax c | .vtopk c | .vslice c | .stepFinish c _ | .scratchpadBankCycle c _ _
  | .correctionWriteBack c | .poisonWriteBack c | .scrubRead c _ _ | .corePowerGating c | .coreWake c
  | .putWordArrival c | .crumb c | .fenceProbe c | .probeAnswer c | .streamFlitArrival c | .draughtFlitArrival c
  | .syncNetworkTurn c | .coreReset c _ => some (c, 0, 239)
  | .oscillatorFailure p | .couplingLineFailure p _ _ | .scheduleCommit p _ _ _ _ _ _ _ | .scheduleSwitch p => some (p, 0, 255)
  | .resumption b | .placementComplete b _ | .stepCommit b | .copyOutComplete b | .epochFence b _
  | .rePlacement b _ _ | .bakeTimeout b | .migrationTarget _ b _ | .migrationSwitch b _ | .phaseChange b _
  | .faultPaging b | .faultHoldExpiry b | .digestComplete b | .replicaReport b _ _ | .checkResolution b _
  | .bankWhole b | .bankHostCopyComplete b _ | .restore _ b _ | .rectangleReset b _ => some (b, 1, 64)
  | .channelRetrain c _ | .channelRetirement c _ _ _ => some (c, 0, 639)
  | .emberTimerExpiry m _ _ | .processorRestart m | .failedControllerEvent m => some (m, 1, 30)
  | .railSequencingFault r => some (r, 0, 23)
  | _ => none

/-- Operands that carry data of a fixed size: the bytes of a message body (R380) or crash record (R456). -/
def Instr.sizesOk : Instr → Bool
  | .firmwareMessage _ m => decide (m.body.length ≤ 80)
  | .emberTimerExpiry _ crash _ => decide (crash.length ≤ 256)
  | .sequencedFrameReceive _ f | .ack _ f => decide (f.nblk ≤ 4) && decide (f.data.length = 16 * f.nblk)
  | _ => true

/-- Well-formed: the unit it names exists in the manual's numbering and its data have their sizes. -/
def Instr.wf (i : Instr) : Bool :=
  (match i.unitRange with
    | some (k, lo, hi) => decide (lo ≤ k) && decide (k ≤ hi)
    | none => true) && i.sizesOk

end Sys2Proof
end

