-- ==== Sys2Proof/Tests/Slice0.lean ====
section
/-! SUPPORT. Small tests of the model against the manual's own figures, and for each obligation the states and operands
that meet the hypotheses of its clauses. -/

namespace Sys2Proof.Tests

open Sys2Proof.Machine

set_option Elab.async false

/-! ### Helpers -/

/-- The state after reset, the start of every test. -/
abbrev rst : State := State.reset

/-- Reset with another always-on block, recovery record, bakes and so on. -/
def withAon (a : AlwaysOn) : State := { rst with aon := a }
def withRecov (r : Recovery) : State := { rst with recov := r }
def hearthIs (n : Nat) (h : Hearth) : State := { rst with hearths := [(n, h)] }
def withCore (c : Nat) (k : Core) : State := { rst with cores := [(c, k)] }
def withBake (b : Nat) (k : Bake) : State := { rst with baker := { rst.baker with slots := [(b, k)] } }
def withRing (r : Nat) (g : Ring) : State := { rst with ring := { rst.ring with rings := [(r, g)] } }
def withPort (p : Nat) (g : Port) : State := { rst with links := { rst.links with ports := [(p, g)] } }

def obs0 : BootObs := ⟨false, false, [], [], false, [], [], [], [], []⟩
def test0 : SelfTest := ⟨[], []⟩
/-- No link is used, so every link and ring port has the offset 0 (R222). -/
def plan0 : DraughtPlan := ⟨List.replicate 1344 0, []⟩

/-! ### Operands that name no unit (WellFormed) -/

theorem test_wf_core : (Instr.nop 239).wf = true ∧ (Instr.nop 240).wf = false := by decide +kernel
theorem test_wf_site : (Instr.oscillatorFailure 255).wf = true ∧ (Instr.oscillatorFailure 256).wf = false := by decide +kernel
theorem test_wf_slot : (Instr.resumption 1).wf = true ∧ (Instr.resumption 0).wf = false ∧ (Instr.resumption 65).wf = false := by decide +kernel
theorem test_wf_channel : (Instr.channelRetrain 639 0).wf = true ∧ (Instr.channelRetrain 640 0).wf = false := by decide +kernel
theorem test_wf_processor : (Instr.processorRestart 30).wf = true ∧ (Instr.processorRestart 0).wf = false := by decide +kernel
theorem test_wf_rail : (Instr.railSequencingFault 23).wf = true ∧ (Instr.railSequencingFault 24).wf = false := by decide +kernel
theorem test_wf_body : (Instr.firmwareMessage none ⟨8, 9, 1, 0, 0, 0, List.replicate 80 0⟩).wf = true ∧
    (Instr.firmwareMessage none ⟨8, 9, 1, 0, 0, 0, List.replicate 81 0⟩).wf = false := by decide +kernel
theorem test_wf_crash : (Instr.emberTimerExpiry 1 (List.replicate 257 0) 0).wf = false := by decide +kernel
theorem test_wf_frame : (Instr.ack 0 ⟨1, 0, 0, 0, true, false, 0, 0, 0, 0, 0, 0, 0, 0, 5, 0, 0, 0, [], 0⟩).wf = false := by decide +kernel

/-! ### A word spells no command -/

theorem test_no_word : decodeTableWord 8 0 = none ∧ rst.withFetchWord 8 0 = rst := ⟨rfl, rfl⟩

/-! ### O1 to O7 -/

def idleNop : State := { rst with pending := [.ppsInEdge, .refclkReturn] }

theorem witness_StepRunsTheFrontCommand : idleNop.pending = .ppsInEdge :: [.refclkReturn] ∧ rst.pending = [] := by decide +kernel

theorem witness_CommandsComplete :
    unitExists (.nop 239) rst = true ∧ unitExists (.nop 240) rst = false ∧ unitExists (.resumption 64) rst = true ∧
    unitExists (.resumption 65) rst = false ∧ unitExists (.channelRetrain 639 0) rst = true ∧
    unitExists (.channelRetrain 640 0) rst = false ∧ unitExists (.processorRestart 30) rst = true ∧
    unitExists (.processorRestart 31) rst = false := by decide +kernel

/-- A state whose two memories list something. -/
def someMemory : State :=
  { rst with host := [(5, 1)], hbm := { rst.hbm with words := [(0, some 7)] }, pending := [.ppsInEdge] }

theorem witness_EveryStepKeepsMemory : Memory.wf someMemory = true ∧
    (match step someMemory with | .next t => decide (t.host = [(5, 1)]) | _ => false) = true := by decide +kernel

theorem witness_EveryCommandKeeps : (match exec .ppsInEdge idleNop with | .next t => decide (t.pending = idleNop.pending) | _ => false) = true := by
  decide +kernel

/-- A descriptor with an operation, a bake, a token and the three arguments (R275). -/
def desc (op bake token a0 a1 a2 : Nat) : BitVec 512 :=
  BitVec.ofNat 512 (op * 2 ^ 504 + bake * 2 ^ 496 + token * 2 ^ 384 + a0 * 2 ^ 320 + a1 * 2 ^ 256 + a2 * 2 ^ 224)

/-- Two items of ring 63 with the token 9, the first of them running. -/
def itemX : Item := { index := 0, desc := desc 3 1 9 0 0 0, started := true }
def itemY : Item := { index := 1, desc := desc 3 1 9 0 0 0 }
def twoItems : State := withRing 63 { ledger := [itemX, itemY] }

theorem witness_DuplicateToken :
    (getItem twoItems 63 itemY.index = some itemY ∧ itemY.status = none ∧ itemY.started = false ∧ itemY.ready = false ∧
      itemX ∈ earlier (twoItems.workRing 63) itemY ∧ wdToken itemY.desc ≠ 0 ∧ wdToken itemX.desc = wdToken itemY.desc) ∧
    ((twoItems.workRing 63).ledger = [itemX, itemY] ∧ itemX.index ≠ itemY.index ∧ (twoItems.workRing 63).cancels = [] ∧
      itemX.status = none ∧ itemX.started = true) := by decide +kernel

theorem test_duplicate_token :
    (match exec .readinessPass twoItems with
      | .next t => decide ((getItem t 63 1).map (·.status) = some (some (9, 0)))
      | _ => false) = true := by decide +kernel

theorem witness_RailCurrent : (1100 < 1101) ∧ (1100 ≤ 1100) ∧ (1300 ≤ 1300) ∧ (1300 < 1301 ∧ (rst.hearth 15).freq ≠ 600) := by decide +kernel

/-! ### O8 to O16 -/

def onBattery : State := withAon { onVbak := true, vbakLow := false }

theorem witness_PresenceAndSupply : rst.aon.onVbak = false ∧ (2899 : Nat) < 2900 ∧ onBattery.aon.onVbak = true ∧ (3050 : Nat) ≤ 3050 ∧
    ((3049 : Nat) < 3050 ∨ true = false) ∧ ((3050 : Nat) < 3050 ∨ false = false) := by decide +kernel

def ptp (n : U8) (off : Int) : State := { rst with ctl := { rst.ctl with ptpState := n, ptpOff := off } }

theorem witness_Time : (ptp 2 0).ctl.ptpState = 2 ∧ (ptp 1 0).ctl.ptpState ≠ 2 ∧
    (calendarMax - 8 ≤ (withAon { calendar := calendarMax - 8 }).aon.calendar ∧
      (withAon { calendar := calendarMax - 8 }).aon.calStopped = false) ∧
    ((1 : U8) ≠ 0 ∧ 1999 < 2000 ∧ (ptp 1 (-100)).ctl.ptpOff.natAbs ≤ 100 ∧ 10000 ≤ 10000) ∧
    ((1 : U8) ≠ 0 ∧ (ptp 1 0).ctl.ptpState ≠ 0 ∧ (ptp 1 0).ctl.ptpState ≠ 3 ∧ 2000 ≤ 2000) ∧
    ((ptp 3 0).ctl.ptpState = 3 ∧ 12000 ≤ 12000) := by decide +kernel

def swinging : State := withAon { recA := { swing := some (90000, 40000), rising := true } }

theorem witness_TripsAndSwings : (16 ≤ (16 : Fin 22).val) ∧ rst.aon.recA.swing = none ∧
    (swinging.aon.recA.swing = some (90000, 40000) ∧ swinging.aon.recA.rising = true ∧ (74999 : Int) < 90000 - 15000 ∧
      (90000 : Int) - 15000 ≤ 75000) := by decide +kernel

def latched : State := withAon { latch := true }
def rescued (n : U8) : State := withAon { rescue := n }
def resetRuns (a : ResetScope) : State := withRecov { running := some a, fwState := 3, dev := 4 }
def heldWhole (cause : U8) : State := { resetRuns .whole with aon := { rescue := 2, cause := cause } }

theorem witness_VaonAndWhole : (latched.aon.latch = true ∨ false = true) ∧ (rst.aon.latch = true ∨ true = true) ∧ rst.aon.latch = false ∧
    (4 ∈ [4] ∧ 4 ∈ [4]) ∧ (∀ w ∈ [4], w ∉ [5]) ∧ (ResetPin.perst ≠ .hardRst ∧ (rescued 2).aon.rescue = 2) ∧
    (ResetPin.perst ≠ .hardRst ∧ rst.aon.rescue ≠ 2) ∧
    (rst.recov.running ≠ some .whole ∧ ∀ r ∈ rst.recov.requests, r.1 ≠ .whole) ∧
    ((resetRuns .whole).recov.running = some .whole ∧ (resetRuns .whole).aon.rescue ≠ 2) ∧
    (heldByRails rst = false ∧ (rst.aon.thermTrip = false ∨ false = true)) ∧
    ((withAon { thermTrip := true }).aon.thermTrip = true ∧ (ResetPin.perst ≠ .hardRst ∨ false = false)) ∧
    heldByRails (heldWhole 3) = true ∧ ((heldWhole 5).recov.running = some .whole ∧ (heldWhole 5).aon.rescue = 2) := by decide +kernel

theorem witness_Starts : (((resetRuns .warm).recov.dev ≠ 0 ∨ (resetRuns .warm).aon.rescue ≠ 0) ∧
      ((resetRuns .warm).aon.rescue ≠ 2 ∨ obs0.repeated = false)) ∧
    ((heldWhole 3).aon.rescue = 2 ∧ { obs0 with repeated := true }.repeated = true ∧ 4 ∈ { obs0 with badA := [4] }.badA) ∧
    (∀ w ∈ { obs0 with badA := [4], badB := [5] }.badA, w ∉ { obs0 with badA := [4], badB := [5] }.badB) ∧
    (rst.recov.dev = 0 ∧ rst.aon.rescue = 0 ∧ obs0.romW = false ∧ obs0.romE = false) ∧
    (obs0.romW = true ∨ { obs0 with romE := true }.romE = true) ∧ rst.recov.running ≠ some .warm ∧
    ((resetRuns .warm).recov.running = some .warm ∧ atBoundary (resetRuns .warm) .warm = true ∧ (resetRuns .warm).recov.fwState ≠ 1) := by
  decide +kernel

theorem witness_Firmware : ((withRecov { fwState := 1 }).recov.fwState = 1 ∧ 4194302 + [1, 2].length ≤ 4194304) ∧
    (rst.recov.fwState ≠ 1 ∨ 4194304 < 0 + [1, 2].length) ∧ 4194304 < 4194303 + [1, 2].length ∧
    imageReason (withRecov { fwState := 1 }) ≠ 0 ∧ (withRecov { fwState := 1 }).recov.running = none ∧
    ((rescued 1).aon.rescue = 1 ∧ (rescued 1).recov.running = none) ∧ rst.aon.rescue ≠ 1 := by decide +kernel

theorem witness_ResetRequests : rst.recov.running = none ∧ (resetRuns .warm).recov.running = some .warm ∧
    ((resetRuns (.core 0)).recov.running = some (.core 0) ∧ scopeLevel (.core 0) < 4) ∧ scopeLevel (.rect 64) < 4 ∧
    (rescued 1).aon.rescue = 1 ∧ (rescued 2).aon.rescue ≠ 0 ∧ rst.aon.rescue = 0 ∧ ((3 : Nat) ≠ 4 ∧ (3 : Nat) ≠ 5) ∧
    ((withRecov { requests := [(.warm, .drain)] }).recov.running = none ∧
      (ResetScope.warm, Boundary.drain) ∈ (withRecov { requests := [(.warm, .drain)] }).recov.requests ∧ ResetScope.warm ≠ .whole) ∧
    (coreExists (resetRuns (.core 239)) 239 = true ∧ atBoundary (resetRuns (.core 239)) (.core 239) = true) ∧
    atBoundary (resetRuns (.hearth 15)) (.hearth 15) = true ∧ atBoundary (resetRuns (.rect 64)) (.rect 64) = true ∧
    rst.recov.running ≠ some (.hearth 15) ∧ scopeBakes (resetRuns (.core 239)) (.core 239) = [] := by decide +kernel

/-- Processor `m` in state `n`. -/
def procIs (m : Nat) (n : U8) : State := rst.modProc m fun p => { p with state := n }

theorem witness_Processors :
    processorPowered (procIs 24 0) 24 = true ∧ processorPowered (hearthIs 15 { power := false }) 24 = false ∧
    (((procIs 30 0).proc 30).state = 0 ∧ processorPowered (procIs 30 0) 30 = true ∧ 2 < setting (procIs 30 0) 0x7002 1) ∧
    (((procIs 8 3).proc 8).state = 3 ∧ setting (procIs 8 3) 0x7002 1 ≤ 3) ∧
    ((rst.proc 1).state ≠ 0 ∧ (rst.proc 1).state ≠ 3) ∧ ((procIs 3 1).proc 3).state = 1 ∧
    (((procIs 2 1).proc 2).state = 1 ∧ (procIs 2 1).recov.active = 0) ∧ ((procIs 30 2).proc 30).state = 2 ∧
    ((28 : Nat) < 29 ∨ (rst.proc 29).state ≠ 2) ∧ (rst.proc 29).state ≠ 2 := by decide +kernel

def stokers (a b act : U8) (fw : BitVec 4) (resc : U8) : State :=
  { (rst.modProc 1 (fun p => { p with state := a })).modProc 2 (fun p => { p with state := b }) with
    aon := { rst.aon with rescue := resc }, recov := { ((rst.modProc 1 (fun p => { p with state := a })).modProc 2
      (fun p => { p with state := b })).recov with active := act, fwState := fw } }

theorem witness_Stokers :
    ((stokers 1 2 0 3 1).recov.active = 0 ∧ (stokers 1 2 0 3 1).aon.rescue = 1 ∧ ((stokers 1 2 0 3 1).proc 1).state = 1) ∧
    ((stokers 0 3 8 3 0).recov.active = 8 ∧ ((stokers 0 3 8 3 0).proc 1).state = 0 ∧ ((stokers 0 3 8 3 0).proc 2).state = 3) ∧
    ((stokers 2 3 8 3 0).recov.active = 8 ∧ ((stokers 2 3 8 3 0).proc 1).state ≠ 0 ∧ ((stokers 2 3 8 3 0).proc 2).state = 3) ∧
    ((stokers 1 2 0 3 0).aon.rescue = 0 ∧ (stokers 1 2 0 3 0).recov.fwState = 3 ∧ ((stokers 1 2 0 3 0).proc 1).state = 1 ∧
      ((stokers 1 2 0 3 0).proc 2).state = 2) := by decide +kernel

/-! ### O16 to O23 -/

def meshIs (n : U8) (f : List Site) (l : List (Nat × Nat)) : State := { rst with mesh := { state := n, failed := f, badLines := l } }

theorem witness_Mesh : (meshIs 0 [] []).mesh.state ≠ 1 ∧ (meshIs 1 [] []).mesh.state ≠ 0 ∧ (meshIs 1 [] []).mesh.state = 1 ∧
    (meshIs 0 [] []).mesh.state = 0 ∧ ((255 : Nat) < 256 ∧ 255 ∉ (meshIs 0 [] []).mesh.failed) ∧ 255 ∈ (meshIs 0 [255] []).mesh.failed ∧
    (acrossSeam 3 4 = true ∧ (256 * min 3 4 + max 3 4, 1) ∉ (meshIs 0 [] []).mesh.badLines ∧
      (256 * min 3 4 + max 3 4, 1 - 1) ∉ (meshIs 0 [] []).mesh.badLines) ∧
    ((256 * min 3 4 + max 3 4, 1) ∉ (meshIs 0 [] [(772, 0)]).mesh.badLines ∧
      (256 * min 3 4 + max 3 4, 1 - 1) ∈ (meshIs 0 [] [(772, 0)]).mesh.badLines) ∧
    acrossSeam 3 5 = false := by decide +kernel

theorem witness_HearthTarget : (1 : Nat) ≠ 0 ∧ (0, 2000) ∈ limits (Sys2Proof.Machine.withHearth rst 0 id) 0 := by decide +kernel

/-- Hearth 15 with an active Stoker. -/
def managed (h : Hearth) : State :=
  { hearthIs 15 h with recov := { (rst.modProc 24 fun p => { p with state := 0 }).recov with active := 8 } }

theorem witness_Frequency :
    (mayChange (managed {}) 15 = true ∧ ((managed {}).hearth 15).state = 0 ∧ usableFreq (managed {}) 15 1600 = true ∧
      mayChange (managed { freq := 1575 }) 15 = true ∧ usableFreq (managed { freq := 1575 }) 15 1600 = true ∧
      ((managed { freq := 1575 }).hearth 15).state = 0 ∧ ((managed { freq := 1575 }).hearth 15).freq < 1600 ∧
      1600 ≤ targetOf (managed { freq := 1575 }) 15) ∧
    (usableFreq (managed {}) 15 1590 = false) ∧ mayChange rst 15 = false ∧ (1600 : Nat) ≤ ((managed {}).hearth 15).freq ∧
    (1600 < ((managed { freq := 1625, thermal := 1600 }).hearth 15).freq ∧ mayChange (managed { freq := 1625, thermal := 1600 }) 15 = true ∧
      usableFreq (managed { freq := 1625, thermal := 1600 }) 15 1600 = true ∧
      targetOf (managed { freq := 1625, thermal := 1600 }) 15 ≤ 1600) ∧
    1575 < targetOf (managed {}) 15 ∧ targetOf (managed { thermal := 1575 }) 15 < 1600 ∧
    ((hearthIs 15 { stepTo := some 1625 }).hearth 15).stepTo = some 1625 ∧ (rst.hearth 15).stepTo = none ∧
    (let s := { hearthIs 15 { stopTo := some (1600, 0) } with flue := { rst.flue with cycle := 40 } };
      (s.hearth 15).stopTo = some (1600, 0) ∧ (s.hearth 15).restartAt = none ∧ 0 + 32 + s.flue.maxRoute + 8 ≤ s.flue.cycle) ∧
    (let s := { hearthIs 15 { stopTo := some (1600, 0) } with flue := { rst.flue with cycle := 39 } };
      (s.hearth 15).stopTo = some (1600, 0) ∧ s.flue.cycle < 0 + 32 + s.flue.maxRoute + 8) ∧ (rst.hearth 15).stopTo = none ∧
    (let s := hearthIs 15 { stopTo := some (1575, 0), frozen := true };
      (s.hearth 15).stopTo = some (1575, 0) ∧ (s.hearth 15).frozen = true ∧ (s.hearth 15).restartAt = none ∧
        1575 < (s.hearth 15).freq ∧ (s.hearth 15).state ≠ 4 ∧ (s.hearth 15).state ≠ 5) ∧
    (rst.hearth 15).frozen = false := by decide +kernel

theorem witness_Limits : ((0xC : Nat) = 2 ∨ 0xC = 4 ∨ 0xC = 6 ∨ 0xC = 0xC) ∧ ((3 : Nat) ≠ 2 ∧ 3 ≠ 4 ∧ 3 ≠ 6 ∧ 3 ≠ 0xC) ∧
    4 ≤ setting rst 0x2030 1 ∧ (setting rst 0x2030 1 < 11 ∧ setting rst 0x2030 2 < 11) ∧ setting rst 0x2030 1 < 5 ∧
    (fv32 0x42C80000).lt (ofInt 100) = false ∧ (fv32 0x42C60000).lt (ofInt 100) = true ∧
    (fv32 (BitVec.ofNat 32 (setting rst 0x2201 1))).lt (fv32 0x42C60000) = true ∧
    setting rst 0x2012 16 = 0 ∧ setting (putSetting rst 0x2012 16 1) 0x2012 16 ≠ 0 ∧
    ([((255 : Site), [9])].filter fun e => decide (hearthOfSite e.1 = 15)).flatMap (·.2) = [9] ∧ 9 < setting rst 0x2030 2 := by
  decide +kernel

/-- 15,500 W, 18,002 W. -/
theorem witness_Cap : rst.recov.active = 0 ∧ (managed {}).recov.active ≠ 0 ∧ 18000 < ratOf 0x468CA400 ∧
    (rst.hearth 15).freq ≠ 600 ∧ ratOf (capInForce (managed {})) < ratOf 0x467A0000 ∧
    setting (putSetting (managed {}) 0x2131 1 1) 0x2131 1 = 1 := by decide +kernel

def railIs (r : Nat) (x : Rail) : State := { rst with rails := [(r, x)] }

theorem witness_Rails : (rst.hearth 15).damper = true ∧ ((hearthIs 15 { damper := false }).hearth 15).damper = false ∧
    1 ∉ rst.power.pmbusLost ∧ 1 ∈ ({ rst with power := { rst.power with pmbusLost := [1] } } : State).power.pmbusLost ∧
    (16 ≤ 16 ∨ (rst.hearth 16).stepTo = none) ∧ (rst.hearth 15).stepTo = none ∧ ((railIs 22 { fails := 1 }).rail 22).fails + 1 ≠ 3 ∧
    ((hearthIs 15 { state := 1 }).hearth 15).state = 1 ∧
    ((rst.hearth 15).state = 0 ∧ (rst.hearth 15).stopTo = none) ∧
    (((hearthIs 15 { state := 4 }).hearth 15).state ≠ 0 ∧ ((hearthIs 15 { state := 4 }).hearth 15).state ≠ 1) ∧
    (((hearthIs 15 { state := 4 }).hearth 15).state = 4 ∧ ((hearthIs 15 { state := 4 }).rail 16).valid = true) ∧
    (((managed { state := 4 }).hearth 15).state = 4 ∧ (managed { state := 4 }).recov.active ≠ 0) ∧ (rst.hearth 15).state ≠ 4 := by
  decide +kernel

/-- A spare in the southmost row of column 0. -/
def oneSpare : State := { rst with map := { rst.map with spare := [(0, 0x8000)] } }

def pended (p : Pending) : State := { rst with map := { rst.map with pending := [(0, p)] } }

/-- A placed bake whose recipe runs on core 0. -/
def place0 : Placement := ⟨[(0, 0, false)], [], [], [], [], [], 0, 0, 0, 0, 0, 1, 0, 0, 0, 0, 0, [], 0⟩
def onCore0 : State := withBake 1 { state := 3, place := some place0 }

theorem witness_Losses : ((rst.hearth 15).tripped = false ∧ (rst.hearth 15).state ≠ 3 ∧ (rst.hearth 15).state ≠ 2) ∧
    ((hearthIs 15 { state := 2 }).hearth 15).state = 2 ∧ coreWorks oneSpare 0 = true ∧ coreWorks rst 239 = true ∧
    coreWorks (pended .bypass) 0 = true ∧ coreWorks (pended (.substitute 15)) 0 = false ∧ oneSpare.baker.slots = [] ∧
    mayTakeEffect (pend onCore0 0 (.substitute 15)) 0 = false ∧ rst.map.pending = [] ∧
    ((hearthIs 15 { tripped := true }).hearth 15).tripped = true ∧
    (((managed { tripped := true }).hearth 15).tripped = true ∧ ((managed { tripped := true }).hearth 15).state ≠ 3 ∧
      (managed { tripped := true }).recov.active ≠ 0) ∧ rst.recov.active = 0 ∧
    (coreExists oneSpare 0 = true ∧ width oneSpare 0 ≠ 0 ∧ rowOf oneSpare 0 = some 0 ∧
      nearestRow 0 (spareRows (oneSpare.modRec fun x => { x with failedSites := x.failedSites ++ [16 * 0 + 0 % 16] }) (0 % 16)) = some 15) ∧
    (coreExists rst 239 = true ∧ width rst 239 ≠ 0 ∧ rowOf rst 239 = some 14 ∧
      nearestRow 14 (spareRows (rst.modRec fun x => { x with failedSites := x.failedSites ++ [16 * 14 + 239 % 16] }) (239 % 16)) = none) ∧
    (coreExists onCore0 0 = true ∧ mayTakeEffect onCore0 0 = false) ∧
    (mayTakeEffect (pended (.substitute 15)) 0 = true ∧
      ((pended (.substitute 15)).map.pending.find? fun e => decide (e.1 = 0)) = some (0, .substitute 15)) ∧
    (mayTakeEffect (pended .bypass) 0 = true ∧
      ((pended .bypass).map.pending.find? fun e => decide (e.1 = 0)) = some (0, .bypass)) := by decide +kernel

/-- A step word: opcode, and further fields by their lowest bits. -/
def stepWord (op : Nat) (l : List (Nat × Nat)) : W256 := BitVec.ofNat 256 (op * 2 ^ 248 + (l.map fun e => e.2 * 2 ^ e.1).foldl (· + ·) 0)

/-- Core `c` runs these steps from the first one on, on instance 0 of bake 1. -/
def runsK (l : List W256) : Core := { inst := some (1, 0), recipe := { steps := l }, seq := { state := .running } }
def runs (c : Nat) (l : List W256) : State := withCore c (runsK l)

def nopWord : W256 := stepWord opNop []
def endWord : W256 := stepWord opEnd []

/-- NOP twice, the first of them in the done set of a replay. -/
def replaying : State := withCore 0 { runsK [nopWord, endWord] with seq := { state := .running, replay := true, done := [(0, [])] } }

/-- Two steps in a unit's queue behind a barrier. -/
def barred : State := withCore 0 { runsK [stepWord opNop [(246, 1)], endWord] with
  seq := { state := .running, flight := [⟨0, 0, [], .a, false, false, 0⟩] } }

theorem witness_StepsWait : stepOf (.nop 239) = some (239, isOp opNop) ∧
    (coreExists rst 239 = true ∧ seqRuns rst 239 = false) ∧ (isOp opNop (headStep ((runs 0 [endWord]).core 0)) = false) ∧
    (seqRuns replaying 0 = true ∧ isOp opNop (headStep (replaying.core 0)) = true ∧ skips (replaying.core 0) = true) ∧
    (seqRuns barred 0 = true ∧ isOp opNop (headStep (barred.core 0)) = true ∧ skips (barred.core 0) = false ∧
      canIssue barred 0 = false) := ⟨rfl, by decide +kernel⟩

/-! ### O23 to O28: steps, units, vectors and arrays -/

/-- A sync-list entry (R153). -/
def entry (op sym val : Nat) : U64 := BitVec.ofNat 64 (op * 2 ^ 60 + sym * 2 ^ 48 + val)

/-- A step word with one signal, and one with one wait. -/
def signals1 (op : Nat) : W256 := stepWord op [(216, 0), (212, 1)]
def waits1 (op : Nat) : W256 := stepWord op [(230, 0), (226, 1)]

/-- A core whose symbol 1 is the global object 0xF000 and whose step at the head signals it; its queue holds `n` entries. -/
def signallingK (op n : Nat) : Core :=
  { runsK [signals1 op, endWord] with
    recipe := { steps := [signals1 op, endWord], syncs := [entry 9 1 7] }, bind := { syncs := [(1, 0xF000)] },
    sync := { queue := List.replicate n [] } }
def signalling (op n : Nat) : State := withCore 0 (signallingK op n)

theorem witness_Signals : (fireSignals (signalling opNop 63) 0 0 []).isSome = true ∧ fireSignals (signalling opNop 64) 0 0 [] = none ∧
    (stepSignals ((signalling opNop 64).core 0) 0 []).any (fun g => !localSig 0 g) = true := by decide +kernel

/-- A loop that has run once of twice, and one at its end. -/
def looping (v : Nat) : State := withCore 0 { runsK [nopWord, stepWord opEndloop [], endWord] with
  seq := { state := .running, step := 1, loops := [⟨1, v, 2⟩] } }

/-- SYNC with one FENCE on symbol 1, whose probes are answered; `l` are the crumbs held. -/
def fencing (l : List Crumb) : State := withCore 0 { runsK [waits1 opSync, endWord] with
  recipe := { steps := [waits1 opSync, endWord], syncs := [entry 2 1 0] }, bind := { syncs := [(1, 3)] },
  sync := { fence := [⟨0, [], 3, 0, []⟩], held := l } }
def crumb3 : Crumb := ⟨0, 0, 3, 1, 0, 0, 1, 0, [], 0, 1⟩

theorem witness_SequencerSteps :
    (MayIssue (runs 0 [nopWord]) 0 (isOp opNop) ∧ (fireSignals (runs 0 [nopWord]) 0 0 []).isSome = true) ∧
    MayIssue (runs 239 [stepWord opLoop [(176, 0xFFFF)]]) 239 (isOp opLoop) ∧
    (MayIssue (looping 0) 0 (isOp opEndloop) ∧ ((looping 0).core 0).seq.loops.getLast? = some ⟨1, 0, 2⟩ ∧ 0 + 1 < 2) ∧
    (MayIssue (looping 1) 0 (isOp opEndloop) ∧ ((looping 1).core 0).seq.loops.getLast? = some ⟨1, 1, 2⟩ ∧ ¬ 1 + 1 < 2) ∧
    (∀ op ∈ [opNop, opLoop, opEndloop], MayIssue (signalling op 64) 0 (isOp op) ∧ fireSignals (signalling op 64) 0 0 [] = none) ∧
    (seqRuns (fencing []) 0 = true ∧ skips ((fencing []).core 0) = false ∧ ((fencing []).core 0).seq.flight = [] ∧
      fenceEntries ((fencing []).core 0) = [entry 2 1 0]) ∧
    (MayIssue (fencing [crumb3]) 0 (isOp opSync) ∧
      ((fencing [crumb3]).core 0).sync.held.find? (claimed ((fencing [crumb3]).core 0)) = some crumb3) ∧
    (MayIssue (fencing []) 0 (isOp opSync) ∧ ((fencing []).core 0).sync.held.find? (claimed ((fencing []).core 0)) = none ∧
      (fireSignals (fencing []) 0 0 []).isSome = true) := by unfold MayIssue; decide +kernel

/-- A bake whose instance 0 sends stream entry 0, and what symbol 0 of the instance is bound to. -/
def sendPkg (link crossing : Bool) : Bake :=
  { state := 3, place := some { place0 with insts := [(0, 1, false), (1, if crossing then 2 else 1, false)], streams := [⟨0, 0, 0, 0⟩], phases := 2 },
    phase := 1,
    pkg := { streams := [BitVec.ofNat 128 (1 * 2 ^ 108 + (if link then 2 ^ 107 else 0))], binds := [BitVec.ofNat 64 (2 * 2 ^ 51)] } }
def sending (link crossing : Bool) (l : Links) : State :=
  { runs 0 [stepWord opSend [], endWord] with baker := { rst.baker with slots := [(1, sendPkg link crossing)] }, links := l }

/-- An active send channel of bake 1, entry 0, to device 0, with a route by the primary port 0, which is up. -/
def sendReady : State :=
  { sending true false { chans := [(0, { ent := BitVec.ofNat 256 (2 ^ 254 + 2 ^ 252 + 2 ^ 244) })], ports := [(0, { state := 2 })] } with
    ctl := { rst.ctl with dict := { rst.ctl.dict with domain := [(dkey 0x4110 1, [0x00, 0x0F])] } } }

theorem witness_UnitSteps :
    (∀ op ∈ [opMatmul, opEnd, opDma, opFill, opCopy, opSend, opPut], MayIssue (runs 239 [stepWord op []]) 239 (isOp op)) ∧
    (runs 239 [stepWord opDma []]).ring.dmas = [] ∧
    (MayIssue (sending false false {}) 0 (isOp opSend) ∧ linkStream ((sending false false {}).bake 1) 0 0 = none ∧
      streamOf ((sending false false {}).bake 1) 0 0 = some 0 ∧ crossesPhase ((sending false false {}).bake 1) 0 = false) ∧
    (MayIssue (sending false true {}) 0 (isOp opSend) ∧ linkStream ((sending false true {}).bake 1) 0 0 = none ∧
      streamOf ((sending false true {}).bake 1) 0 0 = some 0 ∧ crossesPhase ((sending false true {}).bake 1) 0 = true) ∧
    (MayIssue (sending true false {}) 0 (isOp opSend) ∧ linkStream ((sending true false {}).bake 1) 0 0 = some 0 ∧
      channelReady (sending true false {}) 1 0 = false) ∧
    (MayIssue sendReady 0 (isOp opSend) ∧ linkStream (sendReady.bake 1) 0 0 = some 0 ∧ channelReady sendReady 1 0 = true) := by unfold MayIssue; decide +kernel

/-- FILL of one row of one word, and COPY of the same over a good word at address 0. -/
def oneWord (op : Nat) : Core :=
  { runsK [stepWord op [(130, 1), (114, 8), (104, 1)]] with
    recipe := { steps := [stepWord op [(130, 1), (114, 8), (104, 1)]], descs := [0, BitVec.ofNat 256 (1024 * 2 ^ 160)] },
    pad := { words := [(0, ⟨5, .good⟩)], valid := [(0, true)] } }

/-- Its only instance, in a unit. -/
def inst1 (u : UnitKind) : StepInst := ⟨1, 0, [], u, false, false, 0⟩

/-- The same core with that instance in flight and the unit's part, read and made or not. -/
def working (op : Nat) (u : UnitKind) (l : List Work) : Core :=
  { oneWord op with
    seq := { state := .running, step := 1, order := 1, flight := [inst1 u] }
    pad := { (oneWord op).pad with work := [(unitNo u, l)] } }
def madePart (p : Nat) : Work := { order := 1, part := p, reads := [], want := 0, made := true }

theorem witness_Parts :
    ((inst1 .m).unit = .m ∧ stOp ((oneWord opFill).recipe.step (inst1 .m).step) = opFill ∧
      stOp ((oneWord opCopy).recipe.step (inst1 .m).step) = opCopy) ∧
    ((inst1 .x).unit = .x ∧ stOp ((oneWord opSend).recipe.step (inst1 .x).step) = opSend ∧
      stOp ((oneWord opPut).recipe.step (inst1 .x).step) = opPut) ∧
    (let k := working opFill .m []; unitHead k .m = some (inst1 .m) ∧ k.pad.jobs (unitNo .m) = [] ∧ 0 < partCount rst k (inst1 .m)) ∧
    (let k := working opFill .m [madePart 0]; unitHead k .m = some (inst1 .m) ∧ k.pad.jobs (unitNo .m) = [madePart 0] ∧
      k.pad.jobDone (unitNo .m) (madePart 0) = true ∧ partCount rst k (inst1 .m) ≤ 0 + 1) ∧
    (let k := { working opFill .m [madePart 0] with recipe := { steps := [stepWord opFill [(130, 2), (114, 8)]] } };
      unitHead k .m = some (inst1 .m) ∧ k.pad.jobDone (unitNo .m) (madePart 0) = true ∧ 0 + 1 < partCount rst k (inst1 .m)) := by
  decide +kernel

/-- FILL puts its value into both halves of the word, COPY moves the word read to the destination. -/
theorem test_fill_and_copy :
    (partMakes rst 0 { oneWord opFill with recipe := { steps := [stepWord opFill [(130, 1), (114, 8), (72, 7)]] } } (inst1 .m) 0 []).1 =
      [(0, 0x0000000700000007, false)] ∧
    partReads rst (oneWord opCopy) (inst1 .m) 0 = [0] ∧
    (partMakes rst 0 (oneWord opCopy) (inst1 .m) 0 [(5, true)]).1 = [(128, 5, true)] := by decide +kernel

/-- END alone in flight, a NOP's FILL in flight, and one whose signal finds the queue full. -/
def finishing (op n : Nat) (u : UnitKind) : State := withCore 0 { signallingK op n with
  seq := { state := .running, step := 1, order := 1, flight := [⟨1, 0, [], u, true, false, 0⟩] } }

theorem witness_StepFinish :
    (∀ e ∈ [(opEnd, UnitKind.s), (opFill, .m), (opMatmul, .a)],
      (((finishing e.1 63 e.2).core 0).power = .on ∧ ((finishing e.1 63 e.2).hearth (hearthOf (finishing e.1 63 e.2) 0)).frozen = false ∧
        (((finishing e.1 63 e.2).core 0).seq.flight.find? fun x => decide (x.order = 1)) = some ⟨1, 0, [], e.2, true, false, 0⟩ ∧
        instDone ((finishing e.1 63 e.2).core 0) ⟨1, 0, [], e.2, true, false, 0⟩ = true ∧
        unitTurn ((finishing e.1 63 e.2).core 0) ⟨1, 0, [], e.2, true, false, 0⟩ = true ∧
        (fireSignals (finishing e.1 63 e.2) 0 0 []).isSome = true ∧ fireSignals (finishing e.1 64 e.2) 0 0 [] = none)) ∧
    (∀ x ∈ (rst.core 0).seq.flight, x.order ≠ 1) := by decide +kernel

theorem witness_VectorSteps :
    (∀ v ∈ [0x01, 0x02, 0x03, 0x04, 0x05, 0x06, 0x07, 0x08, 0x09, 0x10, 0x11, 0x12, 0x13, 0x20, 0x21, 0x22, 0x30, 0x31, 0x32, 0x40],
      MayIssue (runs 239 [stepWord opVector [(184, v)]]) 239 (isVec v)) := by unfold MayIssue; decide +kernel

/-- One row of two binary32 elements, 1.0 and 2.0, good, at address 0. -/
def vecRow : VCtx :=
  { k := { runsK [] with pad := { words := [(0, ⟨0x400000003F800000, .good⟩)], valid := [(0, true)] } },
    w := stepWord opVector [(138, 2), (122, 1)], dx := BitVec.ofNat 256 (8 * 2 ^ 252), dz := 0,
    dd := BitVec.ofNat 256 (8 * 2 ^ 252 + 1024 * 2 ^ 160), hasZ := false, vars := [], wide := false, nonsat := false, sOut := 0 }

theorem witness_ElementwiseRow : vcRows vecRow.w = 1 ∧
    (packWords (fmtBits (dFmt vecRow.dd)) ((unpackWords (fmtBits (dFmt vecRow.dx)) (vcLen vecRow.w) [(0x400000003F800000, true)]).map fun c =>
      ((vecRow.plain (vecRow.rnd (codeValue (dFmt vecRow.dx) c.1))).1.code, c.2)))[0]? = some (0x400000003F800000, true) ∧
    { vecRow with hasZ := true }.hasZ = true := by decide +kernel

/-- 1.0 + 1.0 and 2.0 + 2.0 in binary32 are 2.0 and 4.0. -/
theorem test_vector_row_adds :
    (vecRow.map1 (fun a => vecRow.plain (vecRow.rnd (a.add a))) 0 [(0x400000003F800000, false)]).writes = [(128, 0x4080000040000000, false)] := by
  decide +kernel

/-- Array 3 with a complete row 7 of the MATMUL that has order 1. -/
def draining : State := withCore 0 { runsK [stepWord opMatmul [], endWord] with
  seq := { state := .running, step := 1, order := 1, flight := [⟨1, 0, [], .a, false, false, 0⟩] },
  arrays := { cycle := 1, arr := [(3, { ready := [(7, 0)], acc := [(7, { vals := [1], complete := true, order := 1 })] })] } }

/-- A sum of two items: the second reads the accumulator row. -/
def waveOf (first last : Bool) (l : List Int) : Wave := ⟨0, 0, l, false, 0, first, last, false, 0, false, 0, 0, false, 1, []⟩
def adding : State := withCore 0 { runsK [] with arrays := { cycle := 194, arr := [(3, { waves := [waveOf false true [1]] })] } }

theorem witness_Arrays :
    (coreExists rst 239 = true ∧ (rst.core 239).power = .on ∧ (rst.hearth (hearthOf rst 239)).frozen = false ∧
      (rst.core 239).seq.state ≠ .stopped) ∧
    coreExists adding 0 = true ∧
    (((draining.core 0).arrays.array 3).ready = (7, 0) :: [] ∧ drainFree (draining.core 0) 3 = true ∧ 0 < (draining.core 0).arrays.cycle ∧
      (orderCtx draining (draining.core 0) (mget {} ((draining.core 0).arrays.array 3).acc 7).order).isSome = true ∧ (2 : Nat) ≠ 3) ∧
    ((rst.core 0).arrays.array 3).ready = [] ∧
    drainFree { arrays := { arr := [(3, { ready := [(7, 0)], busy := 1 })] } } 3 = false ∧
    ((withCore 0 { arrays := { arr := [(3, { ready := [(7, 0)] })] } }).core 0).arrays.cycle ≤ 0 ∧
    (let k := { draining.core 0 with pad := { work := [(3, [{ madePart 7 with order := 1 }])] } };
      k.pad.jobs 3 = [{ madePart 7 with order := 1 }] ∧ k.pad.jobDone 3 { madePart 7 with order := 1 } = true ∧
        (match orderCtx draining k 1 with | some x => (x.drainRows 7).flatMap (rowSpan x.wide) | none => [7]) = [7]) := by
  decide +kernel

/-- A row whose last word has been written is free again. -/
theorem test_drained_row_is_cleared :
    (let k := { draining.core 0 with pad := { work := [(3, [{ madePart 7 with order := 1 }])] } };
      decide (((draining.core 0).arrays.array 3 |>.acc.map fun e => e.2.complete) = [true] ∧
        ((drainSettle draining k 3).arrays.array 3 |>.acc.map fun e => e.2.complete) = [false])) = true := by decide +kernel

theorem witness_Accumulate : (waveOf true false [5]).wide = false ∧ (waveOf true false [5]).fp = false ∧ (waveOf true false [5]).sums[0]? = some 5 ∧
    (waveOf true false [5]).first = true ∧ (waveOf false true [5]).first = false := by decide +kernel

/-- The greatest 32-bit integer plus one saturates, and counts. -/
theorem test_accumulator_saturates :
    (accumulate { vals := [2147483647] } (waveOf false true [1]) .none).1.vals = [2147483647] ∧
    (accumulate { vals := [2147483647] } (waveOf false true [1]) .none).2 = 1 ∧
    (accumulate { vals := [2147483647] } (waveOf true true [1]) .none).1.vals = [1] := by decide +kernel

/-! ### O29 to O35: scratchpad, Flue and signals -/

def readReq (w : Nat) : BankReq := ⟨2, false, 0, w, none, .other 0⟩
def writeReq (w : Nat) (d : U64) : BankReq := ⟨6, false, 0, w, some (d, false), .other 0⟩

theorem witness_Banks : (127 : Nat) < 128 ∧ [(⟨readReq 1572863, 0⟩ : Waiting)] ≠ [] := by decide +kernel

/-- Words 0 and 128 are both in block 0 and 1 and in different banks. -/
theorem test_bank_swizzle : bankOf 0 = 0 ∧ bankOf 128 = 1 ∧ bankOf 129 = 0 ∧ bankRow 128 = 1 := by decide +kernel

/-- A core with one word in some check state at address 0 of a valid block. -/
def padIs (c : Check) (p : CorePower) : State := withCore 0 { power := p, pad := { words := [(0, ⟨5, c⟩)], valid := [(0, true)] } }
def scrubOn (s : State) : State := putSetting s 0x3230 2 1

theorem witness_Scratchpad :
    padRuns (padIs .good .gatedKeep) 0 = false ∧
    (coreExists (padIs .good .on) 0 = true ∧ padRuns (padIs .good .on) 0 = true ∧ PadQuiet ((padIs .good .on).core 0) ∧
      (writeReq 1572863 9).wr = some (9, false) ∧ (writeReq 1572863 9).tag = .other 0 ∧ (readReq 0).wr = none ∧ (readReq 0).tag = .other 0 ∧
      ((padIs .good .on).core 0).pad.blockValid (readReq 0).word = true ∧ (((padIs .good .on).core 0).pad.cell (readReq 0).word).chk = .good ∧
      ((padIs .good .on).core 0).pad.blockValid (readReq 128).word = false) ∧
    (let p : Scratchpad := { backs := [(3, true, 0), (0, false, 31)] };
      (p.backs.find? fun b => decide (b.2.1 = false)) = some (0, false, 31) ∧ (p.backs.find? fun b => decide (b.2.1 = true)) = some (3, true, 0) ∧
        padRuns (withCore 0 { pad := p }) 0 = true ∧ bankFree p (bankOf 0) = true ∧ bankFree p (bankOf 3) = true) ∧
    (∀ b ∈ ([(3, true, 0)] : List (Nat × Bool × Nat)), b.2.1 = true) ∧ (∀ b ∈ ([(3, false, 0)] : List (Nat × Bool × Nat)), b.2.1 = false) ∧
    bankFree { backs := [(0, false, 31)], waiting := [⟨readReq 0, 0⟩] } (bankOf 0) = false := by unfold PadQuiet; decide +kernel

theorem witness_Scrub :
    setting (putSetting rst 0x3230 2 0) 0x3230 2 ≠ 1 ∧ padRuns (scrubOn (padIs .good .gatedLost)) 0 = false ∧
    scrubWaits { waiting := [⟨⟨7, false, 0, 0, none, .scrub⟩, 0⟩] } 0 = true ∧
    bankFree { waiting := [⟨readReq 0, 0⟩] } 0 = false ∧ scrubWaits { waiting := [⟨readReq 0, 0⟩] } 0 = false ∧
    (setting (scrubOn (padIs .single .on)) 0x3230 2 = 1 ∧ padRuns (scrubOn (padIs .single .on)) 0 = true ∧
      scrubWaits ((scrubOn (padIs .single .on)).core 0).pad 0 = false ∧ bankFree ((scrubOn (padIs .single .on)).core 0).pad 0 = true ∧
      nextValid ((scrubOn (padIs .single .on)).core 0).pad (mget 0 ((scrubOn (padIs .single .on)).core 0).pad.scrubRow 0) = some 0 ∧
      ((scrubOn (padIs .single .on)).core 0).pad.blockValid (bankWord 0 0) = true ∧
      (((scrubOn (padIs .single .on)).core 0).pad.cell (bankWord 0 0)).chk = .single) ∧
    ((((scrubOn (padIs .uncorrectable .on)).core 0).pad.cell (bankWord 0 0)).chk = .uncorrectable ∧
      nextValid ((scrubOn (padIs .uncorrectable .on)).core 0).pad 0 = some 0) ∧
    nextValid ((scrubOn rst).core 239).pad (mget 0 ((scrubOn rst).core 239).pad.scrubRow 127) = none := by decide +kernel

theorem witness_Gating : ((rst.core 239).power = .on ∧ (rst.core 239).seq.state ≠ .running) ∧
    setting (putSetting rst 0x3240 240 1) 0x3240 240 = 1 ∧ setting rst 0x3240 240 ≠ 1 ∧
    ((runs 0 [endWord]).core 0).seq.state = .running ∧ ((padIs .good .gatedLost).core 0).power = .gatedLost ∧
    ((padIs .good .gatedKeep).core 0).power = .gatedKeep ∧
    (((withCore 0 { power := .gatedLost, inst := some (1, 0) }).core 0).power ≠ .on ∧
      ((withCore 0 { power := .gatedLost, inst := some (1, 0) }).core 0).inst = some (1, 0)) := by decide +kernel

/-- A draught flit of one word at address 8, of a type, tenant and epoch; a core of tenant 1, epoch 2 with the window 0 to 64. -/
def dflit (mtype : Nat) (tnt : U8) (epoch : U32) (addr : Nat) (r : Option Crumb) : Draught :=
  ⟨mtype, 0, 1, tnt, 0, epoch, 0, 0, 0, false, [0, 0, 0, 0], addr, 3, [(7, false)], r⟩
def receiving (l : List Draught) : State :=
  withCore 0 { inst := some (1, 0), island := { tenant := 1, epoch := 2, inDraught := l, windows := [(0, 64)] }, sync := { fence := [⟨0, [], 3, 0, [1]⟩] } }

theorem witness_Puts :
    (headDraught (receiving [dflit 1 1 2 56 none]) 0 1 = some (dflit 1 1 2 56 none) ∧ hearthWrites (receiving [dflit 1 1 2 56 none]) 0 = true) ∧
    headDraught rst 0 1 = none ∧ hearthWrites { rst with hearths := [(0, { frozen := true })] } 0 = false ∧
    ((dflit 1 1 2 56 none).data = [(7, false)] ∧ (dflit 1 1 2 56 none).lst = false ∧
      (dflit 1 1 2 56 none).tnt = ((receiving []).core 0).island.tenant ∧ (dflit 1 1 2 56 none).epoch = ((receiving []).core 0).island.epoch ∧
      ((receiving []).core 0).power = .on ∧ ((receiving []).core 0).inst ≠ none ∧
      inWindow ((receiving []).core 0).island.windows (dflit 1 1 2 56 none).taddr = true ∧
      inWindow ((receiving []).core 0).island.windows (dflit 1 1 2 57 none).taddr = false ∧ ((receiving []).core 0).sync.opened = [] ∧
      (dflit 1 1 1 56 none).epoch ≠ ((receiving []).core 0).island.epoch) := by decide +kernel

theorem witness_Probes :
    headDraught (receiving [dflit 2 1 2 0 none]) 0 2 = some (dflit 2 1 2 0 none) ∧
    (headDraught (receiving [dflit 3 1 2 0 none]) 0 3 = some (dflit 3 1 2 0 none) ∧
      (dflit 3 1 2 0 none).epoch = ((receiving []).core 0).island.epoch ∧ srcCore (receiving []) (dflit 3 1 2 0 none) = 1) ∧
    (headDraught (receiving [dflit 3 1 1 0 none]) 0 3 = some (dflit 3 1 1 0 none) ∧
      (dflit 3 1 1 0 none).epoch ≠ ((receiving []).core 0).island.epoch) ∧
    (headDraught (receiving [dflit 4 1 2 0 (some crumb3)]) 0 4 = some (dflit 4 1 2 0 (some crumb3)) ∧
      (dflit 4 1 2 0 (some crumb3)).crumb = some crumb3) ∧
    (headDraught rst 0 2 = none ∧ headDraught rst 0 3 = none ∧ headDraught rst 0 4 = none) := by decide +kernel

theorem witness_RouterSlot :
    (let s := hearthIs 15 { restartAt := some 0 }; (s.hearth 15).restartAt = some 0 ∧ 0 ≤ s.flue.cycle) ∧
    (hearthIs 15 { restartAt := some 1 }).flue.cycle < 1 ∧ (∀ c ∈ ((hearthIs 15 { restartAt := some 1 }).hearth 15).restartAt,
      (hearthIs 15 { restartAt := some 1 }).flue.cycle < c) ∧
    (∀ n ∈ List.range 15, ((hearthIs 15 { restartAt := some 1 }).hearth n).restartAt = none) := by decide +kernel

/-- A stream flit for stream 5 of one word, first and last, and a receive entry of 8 bytes. -/
def sflit (epl : U8) : Flit := ⟨true, 0, true, true, 0, 5, 0, epl, 0, List.replicate 16 9⟩
def entry5 : RecvEntry := ⟨2, 0, 8, 1, 3, 1, 0, none⟩
def streaming (f : Flit) (l : SMap RecvEntry) : State :=
  withCore 0 { inst := some (1, 0), island := { tenant := 1, epoch := 2, inStream := [f], recv := l } }

theorem witness_Streams :
    (rst.core 0).island.inStream = [] ∧
    (((streaming (sflit 2) [(5, entry5)]).core 0).island.inStream = sflit 2 :: [] ∧ hearthWrites (streaming (sflit 2) [(5, entry5)]) 0 = true ∧
      (((streaming (sflit 2) [(5, entry5)]).core 0).island.recv.find? fun e => decide (e.1 = (sflit 2).strm.toNat)) = some (5, entry5) ∧
      entry5.epoch = ((streaming (sflit 2) [(5, entry5)]).core 0).island.epoch ∧ (sflit 2).epl.toNat = entry5.epoch.toNat % 256 ∧
      (sflit 2).first = true ∧ (sflit 2).seq.toNat = entry5.num % 1024 ∧ entry5.size / 8 ≤ 16 ∧ entry5.size / 8 ≤ (sflit 2).data.length) ∧
    (let s := setSyncObj (streaming (sflit 2) [(5, entry5)]) 3 { epoch := 2 }; let q : BankReq := ⟨0, true, 0, 1, some (9, false), .ingress (some 5)⟩;
      padRuns s 0 = true ∧ PadQuiet (s.core 0) ∧ q.wr = some (9, false) ∧ q.tag = .ingress (some 5) ∧
        ((s.core 0).island.recv.find? fun e => decide (e.1 = 5)) = some (5, entry5) ∧ (syncObj s entry5.sobj).epoch = entry5.epoch) ∧
    (((streaming (sflit 2) []).core 0).island.recv.find? fun e => decide (e.1 = (sflit 2).strm.toNat)) = none ∧
    (sflit 1).epl.toNat ≠ entry5.epoch.toNat % 256 := by unfold PadQuiet; decide +kernel

theorem witness_DraughtFlits :
    (rst.core 0).island.inDraught = [] ∧
    (((receiving [dflit 1 1 2 0 none]).core 0).island.inDraught = dflit 1 1 2 0 none :: [] ∧ (dflit 1 1 2 0 none).mtype ≠ 5 ∧
      (dflit 1 1 2 0 none).tnt ≠ 0xFF ∧ (dflit 1 1 2 0 none).tnt = ((receiving []).core 0).island.tenant) ∧
    (dflit 5 0xFF 2 0 none).tnt = 0xFF ∧ ((dflit 5 1 2 0 none).mtype = 5 ∧ (dflit 5 1 2 0 none).tnt ≠ 0xFF) ∧
    ((dflit 1 2 2 0 none).mtype = 1 ∧ (dflit 1 2 2 0 none).tnt ≠ 0xFF ∧ (dflit 1 2 2 0 none).tnt ≠ ((receiving []).core 0).island.tenant ∧
      (dflit 1 2 2 0 none).lst = false ∧ (dflit 1 2 2 0 none).data = [(7, false)]) := by decide +kernel

def sched (c0 : Nat) : Schedule := ⟨16, 0, c0, 1, 0, 0, 2⟩
def routerIs (r : Router) : State := { rst with flue := { rst.flue with routers := [(0, r)] } }

/-- Site 0 with a draught slot at entries 0 and 8 of its table, all else idle. -/
def draughtTable : State := routerIs { table := [(0, 0x80), (8, 0x80)] }

theorem witness_Schedules :
    (hasRouter draughtTable 0 = true ∧ scheduleOk draughtTable 0 ⟨16, 0, 64, BitVec.ofNat 8 1, BitVec.ofNat 5 0, 0, BitVec.ofNat 32 2⟩ = true) ∧
    scheduleOk draughtTable 0 ⟨16, 4081, 64, BitVec.ofNat 8 1, BitVec.ofNat 5 0, 0, BitVec.ofNat 32 2⟩ = false ∧
    (((routerIs { staged := some (sched 0) }).router 0).staged = some (sched 0) ∧ (sched 0).c0 ≤ (routerIs {}).flue.cycle ∧
      coreAt (routerIs {}) 0 = some 0) ∧
    (rst.router 0).staged = none ∧
    (((routerIs { staged := some (sched 64) }).router 0).staged = some (sched 64) ∧ (routerIs {}).flue.cycle < (sched 64).c0) ∧
    (let s := { rst with flue := { rst.flue with maskQ := [(1, 15, true)] } };
      (∀ e ∈ s.flue.maskQ, s.flue.cycle < e.1)) ∧
    (let s := { rst with flue := { rst.flue with maskQ := [(0, 15, true)] } }; s.flue.maskQ = [(0, 15, true)] ∧ 0 ≤ s.flue.cycle) ∧
    (let s := routerIs { staged := some (sched 0), rewrite := [(0, 0x80)] };
      (s.router 0).staged = some (sched 0) ∧ (s.router 0).rewrite ≠ [] ∧ (sched 0).c0 ≤ s.flue.cycle) ∧
    (let s := { rst with flue := { rst.flue with stopOut := [(3, 0, 255, true)] } };
      (s.flue.stopOut.find? fun x => decide (x.2 = (0, 255, true))) = some (3, 0, 255, true) ∧
        (s.flue.stopOut.find? fun x => decide (x.1 = 3)) = some (3, 0, 255, true) ∧ mget 0 s.flue.stopAt 3 ≤ s.flue.cycle) ∧
    (let s := { rst with flue := { rst.flue with stopOut := [(3, 0, 255, true)], stopAt := [(3, 1)] } }; s.flue.cycle < mget 0 s.flue.stopAt 3) ∧
    (let s := { rst with flue := { rst.flue with stopQ := [(0, 0, 255, true)] } };
      s.flue.stopQ = [(0, 0, 255, true)] ∧ 0 ≤ s.flue.cycle ∧ coreAt s 0 = some 0) := by
  decide +kernel

/-- A word that is not its bridge's oldest. -/
theorem witness_StopWords :
    let l : List (Nat × Site × Nat × Bool) := [(3, 0, 254, true), (3, 0, 255, true)]
    ∀ x ∈ l, x.2 = (0, 255, true) → (l.find? fun y => decide (y.1 = x.1)) = some (3, 0, 254, true) ∧ x ≠ (3, 0, 254, true) := by
  decide

/-- A plan without the links' offsets, one with an offset past the frame, and one that uses no link. -/
theorem witness_Compile : planOk rst ⟨[], []⟩ = false ∧ planOk rst ⟨256 :: List.replicate 1343 0, []⟩ = false ∧ planOk rst plan0 = true := by
  decide +kernel

def sig9 (o : Nat) (ep : U32) : Sig := ⟨o, true, 7, ep⟩

theorem witness_RemoteSignals :
    (let s := withCore 239 { sync := { queue := [[sig9 0xF000 0]] } };
      (s.core 239).sync.queue = [sig9 0xF000 0] :: [] ∧ s.flue.compiling = false ∧ usable s 239 = true) ∧
    (rst.core 0).sync.queue = [] ∧ rst.ring.sigs = [] ∧
    (let s := { rst with ring := { rst.ring with sigs := [(0, sig9 0xFFFF 0)] } };
      s.ring.sigs = (0, sig9 0xFFFF 0) :: [] ∧ (syncObj s (sig9 0xFFFF 0).obj).epoch = (sig9 0xFFFF 0).epoch) ∧
    (syncObj rst (sig9 0xEFFF 1).obj).epoch ≠ (sig9 0xEFFF 1).epoch := by decide +kernel

/-! ### O36 to O44: rings, items and bakes -/

/-- Enabled, 2^4 places. -/
def ctlOn : U64 := BitVec.ofNat 64 (2 ^ 31 + 4 * 2 ^ 25)
def ctlLg (lg : Nat) : U64 := BitVec.ofNat 64 (2 ^ 31 + lg * 2 ^ 25)
def ringOn (g : Ring) : State := withRing 63 { g with ctl := ctlOn }

theorem witness_RingRegisters :
    rcEn (rst.workRing 63).ctl = false ∧ (rcEn ((ringOn {}).workRing 63).ctl = true ∧ BarReg.ptRoot 63 ∈ [BarReg.descBase 63, .alogBase 63, .cmplBase 63, .ptRoot 63]) ∧
    (rcEn (ctlLg 4) = true ∧ rcLg (ctlLg 4) = 4 ∧ rcLg (ctlLg 16) = 16) ∧
    [(rst.workRing 63).descBase, (rst.workRing 63).alogBase, (rst.workRing 63).cmplBase, (rst.workRing 63).ptRoot].all (fun a => decide (fld a 11 0 = 0)) = true ∧
    (rcEn (ctlLg 3) = true ∧ rcLg (ctlLg 3) < 4 ∧ 16 < rcLg (ctlLg 17)) ∧ (rcEn ((ringOn {}).workRing 63).ctl = true ∧ rcEn 0 = false) := by
  decide +kernel

def nopItem : Item := { index := 0, desc := desc 0 0 5 0 0 0, startable := true }

theorem witness_Acceptance :
    (mayAccept ((ringOn { tail := 1 }).workRing 63) = true ∧ getItem (ringOn { tail := 1 }) 63 ((ringOn { tail := 1 }).workRing 63).head = none) ∧
    mayAccept ((ringOn {}).workRing 63) = false := by decide +kernel

theorem witness_Passes :
    (let s := withRing 63 { ledger := [{ nopItem with startable := false }] };
      (s.workRing 63).ledger = [{ nopItem with startable := false }] ∧ (∀ q ∈ List.range 64, (s.workRing q).cancels = []) ∧
        nopItem.status = none ∧ nopItem.started = false ∧ nopItem.ready = false ∧ wdWen nopItem.desc = false) ∧
    (let x := { nopItem with startable := false, ready := true }; x.ready = true ∧ (wdOp x.desc = 0 ∨ wdOp x.desc = 1)) ∧
    (6 ≤ wdOp (desc 6 0 5 0 0 0) ∧ 6 ≤ wdOp (desc 255 0 5 0 0 0)) ∧
    (let s := withRing 63 { head := 1, ledger := [nopItem], cancels := [0] };
      (s.workRing 63).ledger = [nopItem] ∧ (s.workRing 63).cancels = [nopItem.index] ∧ 2 ^ 31 ≤ (nopItem.index - (s.workRing 63).head).toNat) := by
  decide +kernel

theorem witness_Completions :
    (rst.workRing 63).ledger = [] ∧ ((withRing 63 { ledger := [nopItem] }).workRing 63).ledger = nopItem :: [] ∧ nopItem.status = none ∧
    (((withRing 63 { ledger := [{ nopItem with status := some (0, 0) }] }).workRing 63).ledger = { nopItem with status := some (0, 0) } :: []) := by
  decide +kernel

/-- An item that may start on ring 63 beside bake 64 of that ring. -/
def itemIs (x : Item) (k : Bake) : State :=
  { withRing 63 { ledger := [x] } with baker := { rst.baker with slots := [(64, { k with ring := 63 })] } }
def itemOp (op a1 a2 : Nat) : Item := { index := 7, desc := desc op 64 5 0 a1 a2, startable := true }

/-- A MIGRATE to tenant 1, whose rectangle is defined by `rect1`. -/
def migrateItemT (n : Nat) : Item := { index := 7, desc := BitVec.ofNat 512 (4 * 2 ^ 504 + 64 * 2 ^ 496 + n * 2 ^ 488 + 5 * 2 ^ 384), startable := true }
def migrateItem1 : Item := migrateItemT 1
def rect1 (s : State) : State := putSetting s 0x3501 1 1

theorem witness_Items :
    ItemRuns (itemIs (itemOp 0 0 0) {}) 63 7 0 (itemOp 0 0 0) ∧ getItem rst 63 7 = none ∧
    (ItemRuns (itemIs (itemOp 5 (2 ^ 63 + 9) 0) { state := 2, pkg := { syncs := [BitVec.ofNat 64 (2 ^ 62)] } }) 63 7 5 (itemOp 5 (2 ^ 63 + 9) 0) ∧
      namedSlot (itemIs (itemOp 5 0 0) { state := 2 }) 63 64 none = .slot 64 ∧ wdArg2 (itemOp 5 0 0).desc < [BitVec.ofNat 64 (2 ^ 62)].length ∧
      soScope (nth 0 [BitVec.ofNat 64 (2 ^ 62)] (wdArg2 (itemOp 5 0 0).desc)) = 1) ∧
    (ItemRuns (itemIs (itemOp 2 0 0) { state := 2 }) 63 7 2 (itemOp 2 0 0) ∧ namedSlot (itemIs (itemOp 2 0 0) { state := 2 }) 63 64 none = .slot 64 ∧
      wdBake (itemOp 2 0 0).desc = 64 ∧ wdArg1 (itemOp 2 0 0).desc = 0 ∧ ioMissing {} (stepTemplates {}) [] = false) := by
  unfold ItemRuns; decide +kernel

/-- A replayed NOP whose old record in host memory, at 4096, says COMMITTED under token 5 and epoch 3. -/
def replayItem : Item := { index := 7, desc := BitVec.ofNat 512 (2 ^ 486 + 5 * 2 ^ 384 + 4096 * 2 ^ 128), startable := true }
def replayed : State := { itemIs replayItem {} with host := [(4103, 3), (4112, 3), (4120, 5)] }

theorem witness_Replay : getItem replayed 63 7 = some replayItem ∧ replayItem.startable = true ∧ replayItem.started = false ∧
    replayItem.status = none ∧ wdOp replayItem.desc = 0 ∧ descBad replayItem.desc = none ∧ waitBad replayed 63 replayItem = none ∧
    wdRpl replayItem.desc = true ∧ fld (BitVec.ofNat 256 (hostNum replayed (wdPlog replayItem.desc) 32)) 63 56 = 3 ∧
    fld (BitVec.ofNat 256 (hostNum replayed (wdPlog replayItem.desc) 32)) 255 192 = (wdToken replayItem.desc).toNat := by decide +kernel

theorem witness_Moves :
    (ItemRuns (rect1 (itemIs migrateItem1 { state := 2 })) 63 7 4 migrateItem1 ∧
      namedSlot (rect1 (itemIs migrateItem1 { state := 2 })) 63 64 none = .slot 64 ∧
      ((rect1 (itemIs migrateItem1 { state := 2 })).bake 64).state = 2 ∧ ((rect1 (itemIs migrateItem1 { state := 2 })).bake 64).migTo = 0 ∧
      targetOk (rect1 (itemIs migrateItem1 { state := 2 })) 64 (wdTgt migrateItem1.desc) = true) ∧
    (ItemRuns (itemIs (migrateItemT 2) { state := 2 }) 63 7 4 (migrateItemT 2) ∧ wdTgt (migrateItemT 2).desc = 2 ∧
      namedSlot (itemIs (migrateItemT 2) { state := 2 }) 63 64 none = .slot 64 ∧ targetOk (itemIs (migrateItemT 2) { state := 2 }) 64 2 = false) ∧
    ((itemIs migrateItem1 { state := 1 }).bake 64).state = 1 ∧
    (ItemRuns (itemIs (itemOp 3 0 0) { state := 2 }) 63 7 3 (itemOp 3 0 0) ∧ namedSlot (itemIs (itemOp 3 0 0) { state := 2 }) 63 64 none = .slot 64 ∧
      ((itemIs (itemOp 3 0 0) { state := 2 }).bake 64).item = none) := by
  unfold ItemRuns; decide +kernel

/-- A package without instances: 64 bytes, three empty sections, for tenant 1. -/
def emptyHdr : W256 := BitVec.ofNat 256 (0x0100 * 2 ^ 240 + 64 * 2 ^ 208 + 3 * 2 ^ 200 + 1 * 2 ^ 192 + 600 * 2 ^ 176 + 1 * 2 ^ 140)
def emptyPkg : List Byte :=
  leBytes 32 emptyHdr.toNat ++ leBytes 8 (1 * 2 ^ 56 + 64) ++ leBytes 8 (2 * 2 ^ 56 + 64) ++ leBytes 8 (3 * 2 ^ 56 + 64) ++ List.replicate 8 0

/-- A LOAD of that package, which host memory holds from address 8,192 on; its page is in the translation cache. -/
def loadItem : Item := { index := 7, desc := desc 1 0 5 8192 0 0, startable := true }
def loading (n : Nat) : State :=
  rect1 { withRing 63 { ledger := [loadItem] } with
    baker := { rst.baker with slots := (List.range n).map fun i => (i + 1, { state := 2 }) },
    ring := { (withRing 63 { ledger := [loadItem] }).ring with tlb := [⟨false, 0, 0, 21, 0x13⟩] } }
def pkgHost : List Host.Cell := ((emptyPkg.zipIdx.map fun e => (8192 + e.2, e.1)).filter fun e => decide (e.2 ≠ 0))

/-- What the engine reads first, and after it has taken slot `b`. -/
def loadU (n : Nat) : State := modItem (mergeHost (loading n) pkgHost) 63 7 fun y => { y with started := true }
def loadV : State :=
  modItem ((readDva (loadU 63) 0 [] 4 (wdArg0 loadItem.desc)).2.modBake 64 fun _ =>
    { state := 1, ring := 63, loadIdx := 7, tenant := BitVec.ofNat 8 (phTnt emptyHdr) }) 63 7 fun y => { y with slot := 64 }

theorem witness_Load :
    ItemRuns (mergeHost (loading 63) pkgHost) 63 7 1 loadItem ∧
    (readDva (loadU 63) ((loading 63).workRing 63).ptRoot.toNat [] 4 (wdArg0 loadItem.desc)).1.toOption = some (emptyPkg.take 32) ∧
    BitVec.ofNat 256 (ofLe (emptyPkg.take 32)) = emptyHdr ∧ rectBusy (loading 63) (phTnt emptyHdr) = false ∧ freeSlot (loading 63) = some 64 ∧
    headerFault emptyHdr = none ∧
    (readDva loadV 0 [] (ceilDiv (phBytes emptyHdr) 8) (wdArg0 loadItem.desc)).1.toOption = some emptyPkg ∧
    packageReject (readDva loadV 0 [] (ceilDiv (phBytes emptyHdr) 8) (wdArg0 loadItem.desc)).2 (emptyPkg.take (phBytes emptyHdr)) = none ∧
    wdArg1 loadItem.desc = 0 ∧ ioMissing (readPackage (emptyPkg.take (phBytes emptyHdr))) (fillTemplates (readPackage (emptyPkg.take (phBytes emptyHdr)))) [] = false ∧
    freeSlot (loading 64) = none := by
  unfold ItemRuns; decide +kernel

/-- The empty placement, and bake 64 in a state with package and placement. -/
def placeE : Placement := { place0 with insts := [] }
def placing (st : U8) : State := rect1 (withBake 64 { state := st, ring := 63, loadIdx := 7, tenant := 1, pkg := { hdr := emptyHdr } })

theorem witness_Placement :
    (((placing 1).bake 64).state = 1 ∧ ((placing 1).bake 64).filling = false ∧
      notPlaced (placing 1) 64 (phMaxph ((placing 1).bake 64).pkg.hdr) placeE = false ∧ epochFree (placing 1) = true ∧ (placing 1).flue.cutOff = false ∧
      (cachedPlace (placing 1) 64 (phMaxph ((placing 1).bake 64).pkg.hdr) placeE).1 = placeE ∧
      placementOk (placing 1) 64 ((placing 1).bake 64).tenant.toNat (phMaxph ((placing 1).bake 64).pkg.hdr) ((placing 1).bake 64).pkg placeE = true ∧
      ((placing 1).bake 64).pkg.tensors = []) ∧
    ((withBake 64 { state := 1, pkg := { tensors := [0] } }).bake 64).pkg.tensors = [0] ∧ tnLdma 0 ≠ 0xFFFF ∧
    (let s := { placing 1 with ring := (withRing 63 { ledger := [loadItem] }).ring };
      getItem s (s.bake 64).ring (s.bake 64).loadIdx = some loadItem ∧ loadItem.status = none ∧
        notPlaced s 64 (phMaxph (s.bake 64).pkg.hdr) { placeE with reject := 9, insts := [(0, 1, false)] } = true) ∧
    (((placing 5).bake 64).state = 5 ∧ ((placing 5).bake 64).filling = false ∧ notPlaced (placing 5) 64 8 placeE = false ∧
      (placing 5).flue.cutOff = false ∧ mapWaits (placing 5) ((placing 5).bake 64) = false ∧ (cachedPlace (placing 5) 64 8 placeE).1 = placeE ∧
      placementOk (placing 5) 64 1 8 ((placing 5).bake 64).pkg placeE = true) ∧
    ((withBake 64 { state := 1, filling := true }).bake 64).filling = true ∧ setting (putSetting rst 0x3402 3 0) 0x3402 3 = 0 ∧
    (setting (placing 1) 0x3402 3 ≠ 0 ∧ phNocache ((placing 1).bake 64).pkg.hdr = false ∧
      cacheFind (placing 1) ((placing 1).bake 64).digest (placeInputs (placing 1) 1 1) = none ∧
      (cacheFind (cachePut (placing 1) 0 (placeInputs (placing 1) 1 1) placeE) 0 (placeInputs (placing 1) 1 1)).isSome = true) ∧
    (let s := (settled (placing 1) 64 1 1 placeE).2;
      (s.baker.made.find? fun e => decide (e.1 = (s.bake 64).digest) && decide (e.2.1 = placeInputs s 1 1)) =
          some ((s.bake 64).digest, placeInputs s 1 1, placeE) ∧
        placementOk s 64 1 1 (s.bake 64).pkg { placeE with c0 := 0, micros := 9 } = true ∧
        (settled s 64 1 1 { placeE with micros := 9 }).1 = { placeE with micros := 9 }) ∧
    (placing 1).baker.made = [] := by decide +kernel

/-- Bake 64 runs item 7 of ring 63 on core 0, its step at an end or not. -/
def runItem : Item := { index := 7, desc := desc 2 64 5 0 0 0, started := true }
def place1 : Placement := { place0 with insts := [(0, 1, false)] }
def stepping (k : Bake) (q : SeqState) : State :=
  { withCore 0 { inst := some (64, 0), seq := { state := q } } with
    ring := (withRing 63 { ledger := [runItem] }).ring,
    baker := { rst.baker with slots := [(64, { k with ring := 63, tenant := 1, place := some place1 })] } }
def endedK : Bake := { state := 3, item := some 7, begun := true, phase := 1 }

theorem witness_Commits :
    stepEnded (stepping endedK .running) 64 = false ∧
    (stepEnded (stepping { endedK with replica := { open_ := true } } .ended) 64 = true ∧ commitWaits ((stepping { endedK with replica := { open_ := true } } .ended).bake 64) = true) ∧
    (stepEnded (stepping endedK .ended) 64 = true ∧ commitWaits ((stepping endedK .ended).bake 64) = false ∧
      (checkEntries (stepping endedK .ended) 64).filter (entryTrips (stepping endedK .ended) 64) = [] ∧
      ((stepping endedK .ended).bake 64).item = some 7 ∧ getItem (stepping endedK .ended) 63 7 = some runItem) ∧
    (let s := stepping { endedK with committing := true } .ended;
      (s.bake 64).item = some 7 ∧ getItem s (s.bake 64).ring 7 = some runItem ∧ runItem.status = none ∧ (s.bake 64).committing = true ∧
        copyingOut s 64 = false ∧ fenceRows (s.bake 64) = [] ∧ (s.bake 64).nextPlace = none) ∧
    (rst.bake 64).item = none ∧ (stepping endedK .ended |>.bake 64).committing = false := by decide +kernel

/-- Tensor 0, produced by a VECTOR of instance 0 into slot 0, has a NaN, and its check fences. -/
def checked : State :=
  let s := stepping { endedK with pkg := { recipes := [{ steps := [stepWord opVector []], descs := [0] }], insts := [BitVec.ofNat 512 (0xFFFF * 2 ^ 480)], binds := [0], tensors := [0] } } .ended
  { s with cores := [(0, { s.core 0 with live := { slots := [(0, { nan := 1 })] } })],
           ctl := { s.ctl with dict := { s.ctl.dict with domain := [(dkey 0x6010 64,
             leBytes 32 (2 * 2 ^ 232 + 0xFFFFFFFF * 2 ^ 160 + 0xFFFFFFFF * 2 ^ 128))] } } }
def checkWord : W256 := BitVec.ofNat 256 (2 * 2 ^ 232 + 0xFFFFFFFF * 2 ^ 160 + 0xFFFFFFFF * 2 ^ 128)

theorem witness_Checks : stepEnded checked 64 = true ∧ commitWaits (checked.bake 64) = false ∧ checkWord ∈ checkEntries checked 64 ∧
    entryTrips checked 64 checkWord = true ∧ ckAction checkWord = 2 := by decide +kernel

theorem witness_Fences :
    (let s := stepping { endedK with triggers := [5] } .running;
      (s.bake 64).state = 3 ∧ 5 ∈ (s.bake 64).triggers ∧ epochFree s = true ∧ needsPlace s (s.bake 64) = false ∧ (s.bake 64).item = some 7 ∧
        getItem s (s.bake 64).ring 7 = some runItem ∧ runItem.fences + 1 - runItem.uncounted ≤ setting (putSetting s 0x3402 4 1) 0x3402 4 ∧
        setting s 0x3402 4 < runItem.fences + 1 - runItem.uncounted + 16) ∧
    setting (putSetting rst 0x3402 4 0) 0x3402 4 < runItem.fences + 1 - runItem.uncounted ∧
    (let s := stepping { endedK with triggers := [1, 5] } .running; needsPlace s (s.bake 64) = true ∧ 5 ∈ (s.bake 64).triggers) ∧
    (let s := stepping { endedK with triggers := [5], draining := true } .running; needsPlace s (s.bake 64) = false ∧ (s.bake 64).draining = true) ∧
    (let s := stepping { endedK with triggers := [5], migTo := 1 } .running; needsPlace s (s.bake 64) = false ∧ (s.bake 64).migTo ≠ 0 ∧
      (s.bake 64).draining = false ∧ runItem.fences + 1 - runItem.uncounted ≤ setting s 0x3402 4) ∧
    (let s := stepping { endedK with state := 7, noRoute := true, triggers := [255] } .running; heldStep (s.bake 64) = true ∧ 255 ∈ (s.bake 64).triggers) ∧
    ((withBake 64 { state := 7, triggers := [5] }).bake 64 |> heldStep) = false ∧
    (let s := stepping { endedK with state := 5, triggers := [1], filling := true } .running;
      1 ∈ (s.bake 64).triggers ∧ (s.bake 64).filling = true ∧ needsPlace s (s.bake 64) = true) ∧
    (let s := stepping { endedK with triggers := [4] } .running; 4 ∈ (s.bake 64).triggers ∧ (s.bake 64).state = 3) ∧
    (({ losses := 1 } : Bake).losses < 2 ∧ 2 ≤ ({ losses := 2 } : Bake).losses) ∧
    (5 ∉ (rst.bake 64).triggers ∧ (rst.bake 64).state = 0) ∧ epochFree { rst with baker := { rst.baker with epochAt := some 0 } } = false ∧
    (((withBake 64 { state := 4, triggers := [2] }).bake 64).state = 4 ∧ 2 ∈ ((withBake 64 { state := 4, triggers := [2] }).bake 64).triggers ∧
      ((withBake 64 { state := 4, triggers := [2] }).bake 64).triggers = [2]) := by decide +kernel

/-- A descriptor of bake 64, parked on a fault with a cause. -/
def parkedDma (cause : Nat) (sq : U32) : DmaDesc := ⟨0, .step 0 0 0 [], 64, 0, [], [], 8, 0, true, some (4096, cause, sq), false, false⟩
def faulting (k : Bake) (cause : Nat) : State := { stepping k .running with ring := { (stepping k .running).ring with dmas := [parkedDma cause 1] } }

theorem witness_Timeouts :
    (((stepping endedK .running).bake 64).state = 3 ∧ ((stepping endedK .running).bake 64).item = some 7 ∧ faultPending (stepping endedK .running) 64 = false) ∧
    (((faulting endedK 1).bake 64).state = 3 ∧ ((faulting endedK 1).bake 64).item = some 7 ∧ faultPending (faulting endedK 1) 64 = true ∧
      ((faulting endedK 1).bake 64).draining = false) ∧
    (rst.bake 64).state ≠ 3 ∧
    (let s := stepping { endedK with state := 7, preempted := true, draining := true } .stopped;
      heldStep (s.bake 64) = true ∧ (s.bake 64).draining = true ∧ (s.bake 64).item = some 7) ∧
    (let s := stepping { endedK with state := 7, preempted := true } .stopped;
      (s.bake 64).state = 7 ∧ (s.bake 64).preempted = true ∧ faultPending s 64 = false ∧ fenceRows (s.bake 64) = [] ∧ s.flue.cutOff = false ∧
        (s.core 0).seq.state ≠ .ended) ∧
    fenceRows { triggers := [7] } ≠ [] ∧
    (rst.bake 64).preempted = false ∧
    (let s := faulting { endedK with state := 7, preempted := true } 4;
      (s.bake 64).preempted = true ∧ s.ring.dmas.filter (fun d => decide (d.slot = 64)) = [parkedDma 4 1] ∧ (parkedDma 4 1).parked = some (4096, 4, 1) ∧
        s.ring.pri.contains 1 = false ∧ epochFree s = true ∧ (s.bake 64).item = some 7 ∧ getItem s (s.bake 64).ring 7 = some runItem ∧ runItem.status = none) := by
  decide +kernel

/-- Page tables from address 0 to a non-resident 4 KiB page at 24,576 that maps the DVA 4,096; the paging pool has one frame. -/
def paging : State :=
  let s := faulting { endedK with state := 7, preempted := true } 3
  putSetting { s with host := [(0, 1), (1, 0x10), (4096, 1), (4097, 0x20), (8192, 1), (8193, 0x30), (12288, 1), (12289, 0x40), (16392, 0x17), (16393, 0x60), (16399, 0x80)] } 0x5102 3 1

theorem witness_Paging : (parkedDma 3 1).parked = some (4096, 3, 1) ∧ paging.ring.dmas.filter (fun d => decide (d.slot = 64)) = [parkedDma 3 1] ∧
    leafOf paging 4096 ptLevels (bakeRoot paging (parkedDma 3 1).slot) = some (16392, 12, 0x8000000000006017) ∧ fld (0x8000000000006017 : U64) 63 62 = 2 ∧
    paging.ring.frames < setting paging 0x5102 3 ∧
    chanServes paging ((setting paging 0x5102 2 + 4096 * paging.ring.frames) / 2 ^ 31) = true := by decide +kernel

def moving (k : Bake) : State := rect1 (stepping k .ended)

theorem witness_BakesMove :
    (let s := rect1 (withBake 64 { state := 2, tenant := 2, migTo := 1, pkg := { hdr := emptyHdr } });
      (s.bake 64).migTo ≠ 0 ∧ (s.bake 64).item = none ∧ (s.bake 64).state = 2 ∧ (s.bake 64).absorbed = false ∧ needsPlace s (s.bake 64) = false ∧
        epochFree s = true ∧ s.flue.cutOff = false ∧ rectOf s (s.bake 64).migTo.toNat ≠ none ∧
        (settled s 64 (s.bake 64).migTo.toNat (phMaxph (s.bake 64).pkg.hdr) placeE).1 = placeE ∧
        placementOk s 64 (s.bake 64).migTo.toNat (phMaxph (s.bake 64).pkg.hdr) (s.bake 64).pkg placeE = true) ∧
    (rst.bake 64).migTo = 0 ∧ mayMigrate { state := 3, migDrain := true } = false ∧
    (let k : Bake := { pkg := { tensors := [0] }, place := some { place0 with insts := [(0, 2, false)] } };
      tensorsOf k = [(0, 0)] ∧ refilled k 2 0 = true ∧ refilled k 1 0 = false) ∧
    (let s := withBake 64 { endedK with place := some { place0 with insts := [], phases := 2 } };
      (s.bake 64).state = 3 ∧ (s.bake 64).item = some 7 ∧ (s.bake 64).committing = false ∧ fenceRows (s.bake 64) = [] ∧ 2 ≤ phasesOf (s.bake 64) ∧
        (s.bake 64).begun = true ∧ 2 = (s.bake 64).phase + 1 ∧ (∀ e ∈ phaseInsts (s.bake 64) (s.bake 64).phase, (s.core e.2).seq.state = .ended) ∧
        phasesOf (s.bake 64) < 3 ∧ 1 ≠ (s.bake 64).phase + 1) := by decide +kernel

/-! ### O45 to O50: replicas, banks, DMA, stacks and ports -/

/-- Bake 64 in the group 5 with K = 2, whose members are device 3 alone, this device. -/
def replicaIs (r : Replica) : State :=
  { withBake 64 { state := 3, replica := r } with
    ctl := { rst.ctl with dict := { rst.ctl.dict with
      scalar := [(dkey 0x4100 1, 3)], domain := [(dkey 0x6001 64, leBytes 4 5 ++ leBytes 4 2 ++ leBytes 4 0 ++ leBytes 8 0 ++ leBytes 2 3 ++ List.replicate 14 0xFF)] } } }
def report (g k : U32) (j : U64) (s : State) : ReplicaReport := ⟨g, k, j, graphPrefix (s.bake 64), false, 0⟩

theorem witness_Replicas :
    (((replicaIs { open_ := true }).bake 64).replica.open_ = true ∧ ((replicaIs { open_ := true }).bake 64).replica.whole = false ∧
      digestRead (replicaIs { open_ := true }) 64 = true ∧
      ((replicaIs { open_ := true, expelled := true }).bake 64).replica.expelled = true) ∧
    ((replicaIs {}).bake 64).replica.open_ = false ∧
    (let s := replicaIs { j := 1 }; let r := report 5 2 2 s;
      r.group.toNat = groupId s 64 ∧ r.k.toNat = groupK s 64 ∧ r.gpfx = graphPrefix (s.bake 64) ∧ (s.bake 64).replica.j.toNat < r.j.toNat) ∧
    (let s := replicaIs { j := 2, open_ := true }; (report 5 2 2 s).j = (s.bake 64).replica.j) ∧
    (let s := replicaIs { j := 2 }; (report 4 2 2 s).group.toNat ≠ groupId s 64 ∧ (report 5 2 1 s).j.toNat < (s.bake 64).replica.j.toNat) ∧
    (let s := replicaIs { open_ := true, whole := true };
      epochFree s = true ∧ (∀ i ∈ activeMembers s 64, ∃ e ∈ countedValues s 64, e.1 = i) ∧
        majorityOf (activeMembers s 64).length (countedValues s 64) = some 0 ∧ (∀ e ∈ countedValues s 64, e.2 = some 0) ∧
        (activeMembers s 64).find? (fun i => decide (nth 0xFFFF (groupMembers s 64) i = deviceId s)) = some 0) ∧
    (let s := replicaIs { open_ := true, whole := true, poison := true };
      majorityOf (activeMembers s 64).length (countedValues s 64) = none) := by decide +kernel

/-- Three members, of which this device, member 0, holds another digest than the other two. -/
def outvoted : State :=
  let s := replicaIs { open_ := true, whole := true, own := 9, reports := [(1, ⟨5, 2, 0, 0, false, 7⟩), (2, ⟨5, 2, 0, 0, false, 7⟩)] }
  { s with ctl := { s.ctl with dict := { s.ctl.dict with
      domain := [(dkey 0x6001 64, leBytes 4 5 ++ leBytes 4 2 ++ leBytes 4 0 ++ leBytes 8 0 ++ leBytes 2 3 ++ leBytes 2 4 ++ leBytes 2 6 ++ List.replicate 10 0xFF)] } } }

theorem witness_Outvoted : majorityOf (activeMembers outvoted 64).length (countedValues outvoted 64) = some 7 ∧
    (activeMembers outvoted 64).find? (fun i => decide (nth 0xFFFF (groupMembers outvoted 64) i = deviceId outvoted)) = some 0 ∧
    (∃ e ∈ countedValues outvoted 64, e.1 = 0 ∧ e.2 ≠ some 7) := by decide +kernel

def banks (a b : U8) (u : Option DmaUse) : State :=
  { withBake 64 { state := 3, bankA := { state := a }, bankB := { state := b } } with
    ring := { rst.ring with dmas := (u.map fun u => (⟨0, u, 64, 0, [], [], 0, 0, true, none, false, false⟩ : DmaDesc)).toList } }

theorem witness_BankCopies :
    (((banks 1 0 none).bake 64).bankA.state = 1 ∧ bankCopying (banks 1 0 none) 64 false false = false) ∧
    (((banks 0 1 none).bake 64).bankA.state ≠ 1 ∧ ((banks 0 1 none).bake 64).bankB.state = 1 ∧ bankCopying (banks 0 1 none) 64 true false = false) ∧
    (((banks 3 0 none).bake 64).bankA.state = 3 ∧ bankCopying (banks 3 0 none) 64 false true = false ∧ ((banks 3 0 none).bake 64).bankDue = none) ∧
    bankCopying (banks 3 0 (some (.hostCopy false))) 64 false true = true ∧
    (((banks 0 3 none).bake 64).bankA.state ≠ 3 ∧ ((banks 0 3 none).bake 64).bankB.state = 3 ∧ bankStuck (banks 0 3 none) 64 true = false) ∧
    (let s := banks 0 3 none;
      bankStuck { s with ring := { s.ring with dmas := [⟨0, .hostCopy true, 64, 0, [], [], 0, 0, true, none, false, true⟩] } } 64 true = true ∧
        (s.bake 64).bankDue = none) ∧
    (((banks 0 0 none).bake 64).bankA.state ≠ 3 ∧ ((banks 0 0 none).bake 64).bankB.state ≠ 3) := by decide +kernel

/-- A descriptor between two areas of bake 64, whose area lies on channel 0. -/
def areaDma (u : DmaUse) (moved : Nat) (run : Bool) : DmaDesc := ⟨7, u, 64, 0, [.area 0 0], [.area 4096 0], 8, moved, run, none, false, false⟩
def copying (d : DmaDesc) (k : Bake) : State :=
  { withBake 64 { k with place := some { place0 with areaCh := [(0, 0)] } } with
    ring := { rst.ring with dmas := [d] }, hbm := { rst.hbm with words := [(0, some 9)] } }

theorem witness_Descriptors :
    rst.ring.dmas.find? (startable rst) = none ∧
    (let d := areaDma (.bank false) 0 false; let s := copying d {};
      s.ring.dmas.find? (startable s) = some d ∧ inFlight s < 4096 ∧ getDma s d.id = some d ∧ d.src = [.area 0 0] ∧ d.dst = [.area 4096 0] ∧
        d.bytes = 8 ∧ d.moved = 0 ∧ stackHas s (areaAddr (s.bake d.slot) 0 0) = true ∧ stackHas s (areaAddr (s.bake d.slot) 4096 0) = true ∧
        padServed s d = true ∧ d.moved < d.total) ∧
    (let d : DmaDesc := { areaDma (.bank false) 0 false with src := [.pad 0 0] }; let s := copying d {};
      s.ring.dmas.find? (startable s) = some d ∧ padServed s d = false ∧ getDma s d.id = some d) ∧
    (let d := areaDma (.step 0 3 0 []) 8 true; let s := copying d {};
      getDma s 7 = some d ∧ d.running = true ∧ d.total ≤ d.moved ∧ padWritten s d = true ∧ d.use = .step 0 3 0 []) ∧
    (let d : DmaDesc := { areaDma (.step 0 3 0 []) 8 true with dst := [.pad 0 0] };
      let s := { copying d {} with cores := [(0, { pad := { work := [(7, [{ order := 7, part := 0, reads := [], want := 0, made := true, writes := [(0, 1, false)] }])] } })] };
      getDma s 7 = some d ∧ padWritten s d = false) ∧
    (let d := areaDma (.load 4095) 8 true; let s := copying d { state := 1, filling := true };
      getDma s 7 = some d ∧ d.running = true ∧ d.total ≤ d.moved ∧ padWritten s d = true ∧ d.use = .load 4095 ∧
        (∀ x ∈ s.ring.dmas, ¬ (x.slot = d.slot ∧ x.id ≠ 7)) ∧ (s.bake d.slot).filling = true ∧ (s.bake d.slot).state = 1) := by decide +kernel

def invalidating (b : Bool) (d : List DmaDesc) : State := { rst with ring := { rst.ring with invBusy := b, dmas := d, tlb := [⟨false, 0, 0, 21, 0x13⟩], ats := [(false, 1)] } }

theorem witness_Invalidations : (invalidating false []).ring.invBusy = false ∧ (invalidating true []).ring.invBusy = true ∧
    (∀ d ∈ (invalidating true []).ring.dmas, d.parked = none) ∧ ((1 : Nat) < 8192 / 4096 ∨ 8192 + 4096 ≤ 1 * 4096) := by decide +kernel

/-- A descriptor parked on a fault that is not yet, or already, recorded under a number. -/
def faulted (sq : U32) (pri : List U32) (tail : U64) : State :=
  { copying { areaDma (.bank false) 0 true with parked := some (4096, 4, sq) } {} with
    ring := { rst.ring with dmas := [{ areaDma (.bank false) 0 true with parked := some (4096, 4, sq) }], pri := pri, fqTail := tail, faultSeq := 1 } }

theorem witness_FaultRecords :
    (let s := faulted 0 [] 255; getDma s 7 = some { areaDma (.bank false) 0 true with parked := some (4096, 4, 0) } ∧
      s.ring.fqTail.toNat - s.ring.fqHead.toNat < 256) ∧
    (256 ≤ (faulted 0 [] 256).ring.fqTail.toNat - (faulted 0 [] 256).ring.fqHead.toNat) ∧ getDma rst 7 = none ∧ rst.ring.pri.contains 1 = false ∧
    (let s := faulted 1 [1] 0; let d := { areaDma (.bank false) 0 true with parked := some (4096, 4, 1) };
      s.ring.pri.contains 1 = true ∧ parkedBy s 1 = some d ∧ d.parked = some (4096, 4, 1) ∧ getDma s d.id = some d ∧ d.saved = false ∧
        (d.run { s with ring := { s.ring with pri := s.ring.pri.filter fun x => decide (x ≠ 1) } } [] []).2.parked = none ∧
        (d.run { mergeHost s [] with ring := { s.ring with pri := s.ring.pri.filter fun x => decide (x ≠ 1) } } [] []).2.parked = none) ∧
    parkedBy rst 1 = none := by decide +kernel

/-- Bake 64 with one tensor of home 0x1 and a class on channel 0 of stack 0. -/
def onChannel (cls : Nat) : State :=
  withBake 64 { state := 3, pkg := { tensors := [BitVec.ofNat 256 (8 * 2 ^ 192 + 1 * 2 ^ 188 + cls * 2 ^ 184)] },
                place := some { place0 with insts := [], tensors := [(0, 0)], stackCh := [(0, [(0, 0, 0)])] } }
def stackIs (h : Stacks) : State := { rst with hbm := h }

theorem witness_Channels :
    (chanServes rst 639 = true ∧ mget 0 rst.hbm.state (639 / 32) = 0) ∧ chanServes (stackIs { chans := [(639, { state := 2 })] }) 639 = false ∧
    mget 0 (stackIs { state := [(19, 1)] }).hbm.state (639 / 32) ≠ 0 ∧ (638 % 32 ≠ 31 ∧ placedSlots rst = []) ∧
    (chanServes (onChannel 2) 0 = true ∧ placedSlots (onChannel 2) = [64] ∧ (tensorsOn ((onChannel 2).bake 64) 0).any (fun e => isState e.2) = true) ∧
    (let s := onChannel 0; chanServes s 0 = true ∧ placedSlots s = [64] ∧ tensorsOn (s.bake 64) 0 = [(0, tensorRow (s.bake 64) 0)] ∧
      isState (tensorRow (s.bake 64) 0) = false ∧ (∀ l ∈ pagesOn s 64 0, (backedPage s l.1).isSome = true)) ∧
    movesOk rst 638 [] = true ∧ placedOff rst 638 = true ∧ movesOk (onChannel 0) 0 [] = false ∧ mget 0 rst.hbm.state 19 ≠ 1 ∧ mget 0 (stackIs { state := [(19, 1)] }).hbm.state 19 = 1 := by
  decide +kernel

theorem witness_Ledger :
    (let s := stackIs { copyA := false }; s.hbm.copyA = false ∧ s.hbm.oneCopy = false ∧ 3 ≤ ledgerStacks s false) ∧
    (let s := { withRing 63 { ledger := [nopItem] } with hbm := { rst.hbm with copyB := false } };
      s.hbm.copyB = false ∧ s.hbm.oneCopy = false ∧ 3 ≤ ledgerStacks s true ∧ getItem s 63 0 = some nopItem ∧ nopItem.status = none) ∧
    rst.hbm.copyA = true := by decide +kernel

def trainInfo (v : U16) (sys : U32) (inc : U64) : TrainInfo := ⟨v, sys, 7, 0, 12, inc, 1, 4095⟩
/-- A frame of one block from device 3 to device 7, its CRC good or not. -/
def frame (ftype : Nat) (seq : BitVec 12) (crc : Bool) : Frame :=
  let f := sealFrame ⟨ftype, 1, seq, 0, false, true, 0, 0, 0, 7, 3, 0, 0, 0, 1, 0, 0, 0, [1, 2], 0⟩
  { f with crc := if crc then f.crc else f.crc + 1 }
def training (k : Bool) (l : Option TrainInfo) : State := withPort 11 { state := 1, known := k, peerInc := 5, lastTrain := l, replay := [frame 1 0 true] }

theorem witness_Training :
    (setting rst 0x4104 12 ≠ 0 ∧ (rst.port 11).state = 0 ∧ controllerDown (procIs 28 0) 11 = false ∧ mayRetry rst (rst.port 11) = true) ∧
    controllerDown (procIs 28 2) 11 = true ∧ mayRetry rst { failedAt := some 0 } = false ∧
    mayRetry { rst with flue := { rst.flue with cycle := 160000000 } } { failedAt := some 0 } = true ∧
    (setting (putSetting rst 0x4104 12 0) 0x4104 12 = 0 ∧ ((withPort 11 { state := 2 }).port 11).state = 2) ∧ (rst.port 11).state ≠ 1 ∧
    (((training true none).port 11).state = 1 ∧ ((training true none).port 11).lastTrain ≠ some (trainInfo 1 0 5)) ∧
    (let s := training true (some (trainInfo 1 0 5)); (s.port 11).state = 1 ∧ (s.port 11).lastTrain = some (trainInfo 1 0 5) ∧
      bitAt (trainInfo 1 0 5).vmap 0 = true ∧ (trainInfo 1 0 5).sysId.toNat = setting s 0x4100 2 ∧ (s.port 11).known = true ∧
      (s.port 11).peerInc = (trainInfo 1 0 5).inc) ∧
    (((training false (some (trainInfo 1 0 5))).port 11).known = false ∧ ((training true none).port 11).peerInc ≠ (trainInfo 1 0 6).inc) ∧
    (bitAt (trainInfo 2 0 5).vmap 0 = false ∧ (trainInfo 1 9 5).sysId.toNat ≠ setting rst 0x4100 2) := by decide +kernel

/-- Port 11 of device 3 is up. -/
def upPort (q : Port) : State := { withPort 11 { q with state := 2 } with ctl := { rst.ctl with dict := { rst.ctl.dict with scalar := [(dkey 0x4100 1, 3)] } } }

theorem witness_Frames :
    (let s := upPort {}; let f := frame 5 0 true;
      (s.port 11).state = 2 ∧ crcGood f = true ∧ 1 ≤ f.ftype ∧ f.ftype ≤ 5 ∧ deviceId s ≠ 0xFFFF ∧ f.seq = (s.port 11).lastRx + 1) ∧
    crcGood (frame 1 0 false) = false ∧ (frame 1 1 true).seq ≠ ((upPort {}).port 11).lastRx + 1 ∧ 7 ≤ (frame 7 0 true).ftype ∧
    (rst.port 11).state ≠ 2 ∧ ((frame 0 0 true).ftype = 0 ∧ (frame 0 0 true).nak = true) := by decide +kernel

theorem witness_Transmission :
    ((upPort { resend := [frame 1 0 true] }).port 11).resend = frame 1 0 true :: [] ∧
    (let s := upPort { out := [frame 1 0 true] };
      (s.port 11).resend = [] ∧ deviceId s ≠ 0xFFFF ∧ nextNew (s.port 11) = some (frame 1 0 true) ∧ windowRoom (s.port 11) (frame 1 0 true) = true ∧
        (frame 1 0 true).cls = 1 ∧ { frame 1 0 true with cls := 0 }.cls = 0) ∧
    (nextNew ((upPort {}).port 11) = none ∧ deviceId rst = 0xFFFF) ∧
    (let s := upPort { out := [frame 1 0 true], replay := List.replicate 2047 (frame 1 0 true) }; windowRoom (s.port 11) (frame 1 0 true) = false) := by
  decide +kernel

/-! ### O51 to O60 -/

theorem witness_PortsGoDown :
    ((upPort {}).port 11).state = 2 ∧ (rst.port 11).state ≠ 2 ∧ (∀ f ∈ ((upPort { replay := [frame 1 0 true] }).port 11).replay, movable (upPort {}) 11 f.dst = none) ∧
    (((upPort {}).port 11).state = 2 ∧ ((upPort {}).port 11).replay = []) ∧
    (let s := upPort { replay := [frame 1 0 true], missedRun := 1, limit := 3 };
      (s.port 11).replay ≠ [] ∧ (s.port 11).ackMoved = false ∧ (s.port 11).missedRun + 1 < (s.port 11).limit) ∧
    (let s := upPort { replay := [frame 1 0 true], missedRun := 2, limit := 3 };
      (s.port 11).replay ≠ [] ∧ (s.port 11).ackMoved = false ∧ (s.port 11).limit ≤ (s.port 11).missedRun + 1) ∧
    (let s := upPort { width := 8, lanes := List.range 9 }; spareLanes (s.port 11) < 2 ∧ 1 ≤ spareLanes (s.port 11) ∧ 8 ∈ (s.port 11).lanes) := by decide +kernel

/-- A routing table whose entry for device 7 names port 11 and no alternate. -/
def routed (q : Port) (up : U8) : State :=
  let s := withPort 11 { q with state := up }
  { s with ctl := { s.ctl with dict := { s.ctl.dict with
      scalar := [(dkey 0x4100 1, 3)], domain := [(dkey 0x4110 1, List.replicate 14 0xFF ++ [0x00, 0xBF])] } } }

theorem witness_Transit :
    (transit rst (rst.port 11).stuck (fun f => (portFor rst f.dst).isSome) = none ∧ transit rst (rst.port 11).rx (fun _ => true) = none) ∧
    (let f := { frame 1 0 true with hops := 1 }; let s := routed { rx := [f] } 2;
      transit s (s.port 11).stuck (fun f => (portFor s f.dst).isSome) = none ∧ transit s (s.port 11).rx (fun _ => true) = some f ∧
        f.hops ≠ 0 ∧ portFor s f.dst = some 11 ∧ f ∉ (s.port 11).stuck) ∧
    (let f := { frame 1 0 true with hops := 0 }; let s := routed { rx := [f] } 2;
      transit s (s.port 11).rx (fun _ => true) = some f ∧ f.hops = 0 ∧ f ∉ (s.port 11).stuck) ∧
    (let f := { frame 1 0 true with hops := 1 }; let s := routed { rx := [f] } 1;
      transit s (s.port 11).rx (fun _ => true) = some f ∧ f.hops ≠ 0 ∧ portFor s f.dst = none) := by decide +kernel

/-- A channel entry: direction, state, bake 64, entry 0, peer 7 and the rest. -/
def chanIs (dir st rest : Nat) : Channel5 := { ent := BitVec.ofNat 256 (dir * 2 ^ 254 + st * 2 ^ 252 + 64 * 2 ^ 244 + 7 * 2 ^ 213 + rest) }
def withChan (c : Channel5) (f : List Frame) (bake : U8) (inc : U64) : State :=
  let s := withBake 64 { state := bake }
  { s with
    links := { s.links with chans := [(4095, c)], inc := inc, ports := [(11, { state := 2, rx := f })] }
    ctl := { s.ctl with dict := { s.ctl.dict with scalar := [(dkey 0x4100 1, 7)] } } }
def dataFrame (ty : Nat) (tag : U16) : Frame := { frame ty 0 true with chan := 4095, itag := tag, nblk := 1, data := [7, 9] }

theorem witness_HeldAndReinc :
    (let f := dataFrame 1 5; let s := withChan (chanIs 2 1 0) [f] 7 5;
      (s.port 11).rx.find? (fun f => decide (f.ftype = 1) && decide (f.dst = deviceId s) && heldData s f) = some f) ∧
    (∀ f ∈ (rst.port 11).rx, f.ftype ≠ 1 ∨ f.dst ≠ deviceId rst) ∧ (∀ f ∈ (rst.port 11).rx, f.ftype ≠ 5 ∨ f.dst ≠ deviceId rst) ∧
    (let f := dataFrame 5 5; let s := withChan (chanIs 1 1 0) [f] 3 5;
      (s.port 11).rx.find? (fun f => decide (f.ftype = 5) && decide (f.dst = deviceId s)) = some f ∧
        ceDir (s.channel 4095).ent = 1 ∧ cePeer (s.channel 4095).ent = (nth 0 f.data 0).toNat % 32768 ∧ ceDir (s.channel 4094).ent ≠ 1) := by
  decide +kernel

def wordFlit (last : Bool) : Flit := ⟨true, 0, true, last, 0, 0, 0, 0, 0, List.replicate 16 1⟩

/-- A flit of link stream 0 of bake 64 at ring port 48, of the bridge of the first links chiplet. -/
def atBridge (f : Flit) (up : U8) : State :=
  let s := withChan (chanIs 1 1 0) [] 3 5
  { s with
    baker := { s.baker with slots := [(64, { state := 3, place := some { place0 with streams := [⟨0, 0, 0, 0⟩] },
                                             pkg := { streams := [BitVec.ofNat 128 (2 ^ 107)] } })] }
    flue := { s.flue with bridge := [(48, f)] }
    links := { s.links with ports := [(0, { state := up })] }
    ctl := { s.ctl with dict := { s.ctl.dict with
      scalar := [(dkey 0x4100 1, 3)], domain := [(dkey 0x4110 1, List.replicate 14 0xFF ++ [0x00, 0x0F])] } } }

theorem witness_Flits :
    (∀ l ∈ [true, false], let s := atBridge (wordFlit l) 0;
      s.flue.bridge.find? (fun e => decide (bridgeOf e.1 = some 0)) = some (48, wordFlit l) ∧ flitChannel s 0 48 (wordFlit l) = some 4095 ∧
        (wordFlit l).v = true ∧ ceSt (s.channel 4095).ent = 1 ∧ (wordFlit l).first = true ∧ (wordFlit l).last = l ∧ (wordFlit l).data.length = 16 ∧
        (s.channel 4095).held + 128 < 262144 ∧ portFor s (cePeer (s.channel 4095).ent) = none) ∧
    (let s := atBridge (wordFlit true) 2; portFor s (cePeer (s.channel 4095).ent) = some 0) ∧
    (∀ e ∈ (atBridge (wordFlit true) 0).flue.bridge, bridgeOf e.1 ≠ some 3 ∧ e.2 ≠ wordFlit false) ∧
    flitChannel (atBridge (wordFlit true) 0) 0 48 { wordFlit true with strm := 1 } = none ∧ { wordFlit true with v := false }.v = false := by
  decide +kernel

theorem witness_DataFrames :
    (let f := dataFrame 1 5; let s := withChan (chanIs 2 1 (128 * 2 ^ 32)) [f] 3 5;
      (s.port 11).rx.find? (fun f => decide (f.ftype = 1) && decide (f.dst = deviceId s) && !heldData s f) = some f ∧
        f.itag.toNat = s.links.inc.toNat % 65536 ∧ f ∉ (s.port 11).stuck ∧ ceDir (s.channel f.chan).ent = 2 ∧ f.xseq = (s.channel f.chan).expect ∧
        128 * f.boff ≤ (s.channel f.chan).wrote ∧
        ceXsize (s.channel f.chan).ent ≤ max (s.channel f.chan).wrote (min (ceXsize (s.channel f.chan).ent) (128 * f.boff + 128 * f.nblk))) ∧
    (let f := dataFrame 1 6; let s := withChan (chanIs 2 1 0) [f] 3 5;
      (s.port 11).rx.find? (fun f => decide (f.ftype = 1) && decide (f.dst = deviceId s) && !heldData s f) = some f ∧
        f.itag.toNat ≠ s.links.inc.toNat % 65536 ∧ f ∉ (s.port 11).stuck) := by decide +kernel

/-- Bake 64 with one link stream. -/
def linkBake : State := withBake 64 { state := 3, pkg := { streams := [BitVec.ofNat 128 (2 ^ 107)] } }

theorem witness_ChannelTable :
    (let v : U64 := BitVec.ofNat 64 (2 ^ 62 + 64 * 2 ^ 52)
     let w : W256 := putFld (putFld (putFld (BitVec.ofNat 256 ((linkBake.channel 4095).stage.toNat + 2 ^ 192 * v.toNat)) 253 252 0) 163 128 0) 31 0 0
     fld v 63 62 = 1 ∧ chanEntryOk linkBake w = true) ∧ fld (0 : U64) 63 62 = 0 ∧ fld (BitVec.ofNat 64 (3 * 2 ^ 62)) 63 62 = 3 := by decide +kernel

/-- Device 7 in group 5, whose only member it is, with its clock locked. -/
def grouped (rx : List Frame) (l : SMap BrokerReport) : State :=
  { rst with
    ctl := { rst.ctl with ptpState := 2, dict := { rst.ctl.dict with
      scalar := [(dkey 0x4100 1, 7), (dkey 0x4120 1, 5)], domain := [(dkey 0x4120 2, [7, 0])] } }
    links := { rst.links with brokerK := 9, reports := l, ports := [(11, { state := 2, rx := rx })] } }
def peerReport (g k : Nat) (pfx : U64) : BrokerReport := ⟨BitVec.ofNat 32 g, BitVec.ofNat 64 k, 4, pfx, 0, 0, 0⟩
def brokerFrame (r : BrokerReport) : Frame := { frame 3 0 true with data := blockWords (reportBytes r) }
def ownReport : BrokerReport := ⟨5, 9, 7, memberPrefix (grouped [] []), 50000, 0x44FA0000, 0x44FA0000⟩

theorem witness_Broker :
    brokered rst = false ∧ (brokered (grouped [] []) = true ∧ deviceId (grouped [] []) ≠ 0xFFFF) ∧
    ((grouped [] []).baker.slots.any fun e => decide (e.2.state = 3)) = false ∧
    ({ grouped [] [] with power := { rst.power with lastK := 8 } }.power.lastK + 1 = 9 ∧ (grouped [] []).links.quiet < 4) ∧
    (∀ f ∈ (rst.port 11).rx, f.ftype ≠ 3 ∨ f.dst ≠ deviceId rst) ∧
    (let s0 := grouped [] []; let f := brokerFrame (peerReport 5 9 (memberPrefix s0)); let s := grouped [f] [];
      (s.port 11).rx.find? (fun f => decide (f.ftype = 3) && decide (f.dst = deviceId s)) = some f ∧ f ∉ (s.port 11).stuck ∧
        (reportOf (wordsBytes f.data)).group.toNat = setting s 0x4120 1 ∧ (reportOf (wordsBytes f.data)).pfx = memberPrefix s ∧
        (reportOf (wordsBytes f.data)).k = s.links.brokerK ∧ s.links.reports.find? (fun e => decide (e.1 = 4)) = none ∧
        (reportOf (wordsBytes f.data)).k ≠ { s with links := { s.links with brokerK := 10 } }.links.brokerK ∧
        (reportOf (wordsBytes (brokerFrame (peerReport 6 9 0)).data)).group.toNat ≠ setting s 0x4120 1) := by decide +kernel

theorem witness_Allocation :
    (let s := grouped [] [(7, ownReport)]; brokered s = true ∧ s.links.reports.find? (fun e => decide (e.1 = deviceId s)) = some (7, ownReport)) ∧
    (∀ e ∈ (grouped [] []).links.reports, e.1 ≠ deviceId (grouped [] [])) := by decide +kernel

def mismatching (m r : Bool) (f : List Frame) : State := upPort { mismatch := m, reported := r, rx := f }

theorem witness_Digests :
    deviceId rst = 0xFFFF ∧ (deviceId (upPort {}) ≠ 0xFFFF ∧ portUp (upPort {}) 11 = true ∧ portUp (upPort {}) 10 = false) ∧
    (∀ f ∈ (rst.port 11).rx, f.ftype ≠ 4) ∧
    (let s := mismatching false false [frame 4 0 true]; (s.port 11).rx.find? (fun f => decide (f.ftype = 4)) = some (frame 4 0 true) ∧
      frame 4 0 true ∉ (s.port 11).stuck ∧ expectedDiffers s 4 (slice (wordsBytes (frame 4 0 true).data) 32 16) = false ∧
      expectedDiffers s 5 (slice (wordsBytes (frame 4 0 true).data) 48 16) = false) ∧
    (((mismatching true false []).port 11).mismatch = true ∧ ((mismatching true false []).port 11).reported = false) ∧
    ((mismatching true true []).port 11).reported = true := by decide +kernel

/-- A payload whose second quarter is this device's own shared digest, and one whose is not. -/
def digestFrame (l : List Byte) : Frame := { frame 4 0 true with data := blockWords (List.replicate 16 0 ++ l) }

theorem witness_DigestsCompared :
    slice (wordsBytes (digestFrame (sharedDigest (mismatching false false []))).data) 16 16 = sharedDigest (mismatching false false []) ∧
    slice (wordsBytes (digestFrame []).data) 16 16 ≠ sharedDigest (mismatching false false []) := by decide +kernel

/-- The dictionary is served, and master `m` holds the semaphore. -/
def held (m : U8) (a : AlwaysOn) : State :=
  (withAon { a with holder := m }).modProc 1 fun p => { p with state := 0 }
def serving (m : U8) (a : AlwaysOn) : State := { held m a with recov := { (held m a).recov with dev := 3, active := 8 } }

theorem witness_Semaphore :
    (MasterWrites (serving 0 {}) 2 ∧ (serving 0 {}).aon.holder = 0) ∧ served rst = false ∧ ((serving 2 {}).aon.holder ≠ 0 ∧ (serving 2 {}).aon.holder ≠ 1) ∧
    HolderWrites (serving 2 {}) 2 ∧ ((serving 2 {}).aon.holder ≠ 0 ∧ (serving 2 {}).aon.leaseLeft = 0) ∧ (serving 0 {}).aon.holder = 0 ∧
    (serving 2 { presence := true }).aon.presence = true ∧ ((serving 2 { window := true }).aon.window = true ∧ (serving 2 { window := true }).aon.windowLeft = 0) ∧
    rst.aon.window = false ∧ (serving 2 { presence := false }).aon.presence = false := by
  simp only [MasterWrites, HolderWrites]; decide +kernel

/-- Set 3 staged, or due, with an acknowledgment interval of `v` ns. -/
def ackStaging (v : Nat) (g : U32) : Staging := { vals := [(dkey 0x4101 1, leBytes 4 v)], gen := g }
def stagedSet (n : Nat) (g d : SMap Staging) : State :=
  let s := serving 2 {}
  { s with ctl := { s.ctl with dict := { s.ctl.dict with staging := g, due := d, gens := [(n, 4)] } } }

theorem witness_CommitSets :
    (let s := stagedSet 3 [(3, ackStaging 900 4)] []; HolderWrites s 2 ∧ setNumber 3 = true ∧ (stagingOf s 3).vals ≠ [] ∧ (stagingOf s 3).gen = mget 0 s.ctl.dict.gens 3 ∧
      checkPresence s 3 = 0 ∧ checkSet s 3 (stagingOf s 3).vals = 0) ∧
    (let s := stagedSet 3 [(3, ackStaging 900 5)] []; HolderWrites s 2 ∧ (stagingOf s 3).gen ≠ mget 0 s.ctl.dict.gens 3) ∧
    (HolderWrites (stagedSet 0x15 [] []) 2 ∧ setNumber 0x15 = true ∧ (stagingOf (stagedSet 0x15 [] []) 0x15).vals = []) ∧ setNumber 9 = false ∧ setNumber 0x16 = false ∧
    (let s := stagedSet 3 [] [(3, ackStaging 900 4)]; (mget {} s.ctl.dict.due 3).vals = [(dkey 0x4101 1, leBytes 4 900)] ∧
      atSetBoundary s 3 (mget {} s.ctl.dict.due 3).vals = true ∧ checkPresence s 3 = 0) ∧
    (let s := stagedSet 0x13 [] [(0x13, { vals := [(0, [1])] })]; (mget {} s.ctl.dict.due 0x13).vals ≠ [] ∧
      atSetBoundary s 0x13 (mget {} s.ctl.dict.due 0x13).vals = true ∧ checkPresence s 0x13 ≠ 0) ∧
    (mget {} rst.ctl.dict.due 3).vals = [] := by
  simp only [MasterWrites, HolderWrites]; decide +kernel

/-- A request frame of one request, with session 1 and number `seq` (R363 to R365). -/
def reqFrame (op : Nat) (seq : Nat) : List Byte :=
  leBytes 16 (0xE1D1 * 2 ^ 112 + 0x0100 * 2 ^ 96 + 1 * 2 ^ 88 + 1 * 2 ^ 80 + 1 * 2 ^ 32 + seq) ++ leBytes 16 (op * 2 ^ 120 + 0x1000 * 2 ^ 96 + 1 * 2 ^ 88)
def reqOf (op : Nat) : Request := ⟨op, 0, 0x1000, 1, false, 0, 0, []⟩
def sessionOne (s : State) : State := { s with ctl := { s.ctl with portB := { sessions := [⟨1, [(6, [1, 2])]⟩] } } }

theorem witness_FramesAreExecutedOnce :
    (rst.aon.rescue = 0 ∧ parseFrame portFrame [] = none) ∧
    (parseFrame portFrame (reqFrame 1 5) = some (0x0100, 1, 5, [reqOf 1]) ∧ served rst = false) := by decide +kernel

theorem witness_HeldResponses :
    (let s := sessionOne (serving 0 {}); s.aon.rescue = 0 ∧ served s = true ∧ parseFrame portFrame (reqFrame 1 6) = some (0x0100, 1, 6, [reqOf 1]) ∧
      (mgmtPort s 1).sessions.find? (fun e => decide (e.id = 1)) = some ⟨1, [(6, [1, 2])]⟩ ∧
      ([(6, [1, 2])] : List (U32 × List Byte)).find? (fun e => decide (e.1 = 6)) = some (6, [1, 2]) ∧
      ([(6, [1, 2])] : List (U32 × List Byte)).find? (fun e => decide (e.1 = 5)) = none ∧ staleSeq ⟨1, [(6, [1, 2])]⟩ 5 = true) := by decide +kernel

theorem witness_NewSession :
    (let s := serving 0 {}; (mgmtPort s 1).sessions.find? (fun e => decide (e.id = 1)) = none ∧ (reqOf 1).op ≠ opWrite ∧
      parseFrame portFrame (reqFrame 2 5) = some (0x0100, 1, 5, [reqOf 2]) ∧ (reqOf 2).op = opWrite ∧ 0x0100 = selectedVersion s 2) ∧
    (rescued 1).aon.rescue ≠ 0 ∧ (reqOf 2).index ≠ 0x7110 := by decide +kernel

def hostReq (l : List Byte) : State := { serving 0 {} with ctl := { (serving 0 {}).ctl with dictReq := l.mapIdx fun i b => (i, b) } }

theorem witness_HostFrames :
    parseFrame hostFrame ((List.range hostFrame).map fun i => mget 0 rst.ctl.dictReq i) = none ∧
    (let s := hostReq (reqFrame 1 5); parseFrame hostFrame ((List.range hostFrame).map fun i => mget 0 s.ctl.dictReq i) = some (0x0100, 1, 5, [reqOf 1]) ∧
      served s = true ∧ s.aon.rescue = 0) := by decide +kernel

def day (y mo d : Nat) : Date := ⟨y, mo, d, 23, 59, 59, 999999999⟩

theorem witness_Dates : dateOk (day 2000 2 29) = true ∧ dateOfBytes (dateBytes (day 2999 12 31)) = day 2999 12 31 ∧ dateOk (day 2999 12 31) = true ∧
    dateOk (day 2100 2 29) = false ∧ dateOk (day 3000 1 1) = false ∧ HolderWrites (serving 1 {}) 1 ∧ (serving 1 {}).ctl.ptpState ≠ 2 := by
  simp only [MasterWrites, HolderWrites]; decide +kernel

def servingBake (k : Bake) : State := rect1 { serving 2 {} with baker := { rst.baker with slots := [(64, k)] } }
def servingPort (q : Port) : State := { serving 2 {} with links := { rst.links with ports := [(11, q)] } }
def servingHearth (h : Hearth) (v : Bool) : State := { serving 2 {} with hearths := [(15, h)], rails := [(16, { valid := v })] }

theorem witness_EntryWrites :
    (let s := servingBake { state := 2, tenant := 2 }; HolderWrites s 2 ∧ (s.bake 64).state ≠ 0 ∧ (s.bake 64).state ≠ 1 ∧ (s.bake 64).migTo = 0 ∧ targetOk s 64 1 = true ∧
      targetOk s 64 65 = false) ∧
    (HolderWrites (servingPort { state := 6 }) 2 ∧ ((servingPort { state := 6 }).port 11).state = 6 ∧ ((servingPort { state := 2 }).port 11).state = 2 ∧
      ((servingPort {}).port 11).state ≠ 2) ∧
    (let s := servingHearth {} true; HolderWrites s 2 ∧ (s.hearth 15).state ≠ 2 ∧ (s.hearth 15).state ≠ 3 ∧ transitFree s 15 = true) ∧
    ((servingHearth { state := 2 } true).hearth 15).state = 2 ∧ ((servingHearth { state := 3 } true).hearth 15).state = 3 ∧
    (let s := servingHearth { state := 5 } true; (s.rail 16).valid = true ∧ (s.hearth 15).state = 5) ∧ ((servingHearth { state := 5 } false).rail 16).valid = false ∧
    (let s := servingBake { state := 7, bankB := { state := 2, steps := 3 } }; HolderWrites s 2 ∧ (s.bake 64).state = 7 ∧ bakeItems s 64 = [] ∧
      2 ≤ (bankOf' (s.bake 64) (decide ((2 : Nat) = 2))).state.toNat ∧ epochFree s = true) ∧
    (MasterWrites (serving 0 {}) 1 ∧ (0 : U64).toNat < (serving 0 {}).integ.nextSeq.toNat ∧ (serving 0 {}).integ.nextSeq.toNat ≤ (5 : U64).toNat) := by
  simp only [MasterWrites, HolderWrites]; decide +kernel

/-- Channel 256 is bound: the host writes it and MGMT-A reads it. -/
def bound (wr rd : Nat) (full : Bool) : State :=
  let s := putSetting rst 0x1200 256 (wr * 2 ^ 16 + rd * 2 ^ 8 + 1)
  { s with ctl := { s.ctl with boxes := [(255, { full := full })] } }

theorem witness_Mailboxes :
    (isWriter (bound 0 1 false) 255 0 = true ∧ ((bound 0 1 false).box 255).full = false) ∧ isReader (bound 0 1 false) 255 1 = true ∧
    isWriter (bound 2 1 false) 255 1 = false ∧ ((bound 1 0 true).box 255).full = true ∧ isReader (bound 0 1 false) 255 2 = false ∧
    isWriter (bound 1 0 false) 255 0 = false := by decide +kernel

def message (c : U8) (q : U16) : FwMsg := ⟨9, 10, c, q, 0, 0, []⟩
def waiting (n : Nat) : State := { rst with ctl := { rst.ctl with unacked := [⟨message 3 4, none, n⟩], seen := [(10, 9, [(4, 0)])] } }

theorem witness_Messages :
    (let s := (serving 0 {}); (message 3 4).mclass = 3 ∧ (seenOf s (message 3 4)).find? (fun e => decide (e.1 = 4)) = none ∧
      processorRuns s (receiverOf s (message 3 4).dstm) = true) ∧
    (seenOf (waiting 1) (message 3 4)).find? (fun e => decide (e.1 = 4)) = some (4, 0) ∧ (message 2 4).mclass = 2 ∧
    ((message 4 4).mclass ≠ 1 ∧ (message 4 4).mclass ≠ 2 ∧ (message 4 4).mclass ≠ 3) ∧ (∀ f ∈ (rst.port 0).rx, f.ftype ≠ 2) ∧
    (∀ u ∈ rst.ctl.unacked, u.msg.srcm ≠ 10) ∧
    (waiting 8).ctl.unacked.find? (fun u => decide (u.msg.srcm = 10) && decide (u.msg.dstm = 9) && decide (u.msg.mseq = 4)) = some ⟨message 3 4, none, 8⟩ ∧
    (waiting 7).ctl.unacked.find? (fun u => decide (u.msg.srcm = 10) && decide (u.msg.dstm = 9) && decide (u.msg.mseq = 4)) = some ⟨message 3 4, none, 7⟩ := by
  decide +kernel

def queued : State := { serving 0 { queue := [⟨0, 1, 0x4103, 1, 2, 8, 0⟩] } with integ := rst.integ }

theorem witness_Events :
    ((3 : U8).toNat ≤ 3 ∧ 3 < (4 : U8).toNat) ∧ (queued.aon.queue = ⟨0, 1, 0x4103, 1, 2, 8, 0⟩ :: [] ∧ queued.recov.active ≠ 0) ∧ rst.aon.queue = [] ∧
    (monitorCount rst 0x6114 = 240 ∧ (mget {} rst.integ.monitors (256 * 0x6114 + 240) : Monitor).armed = true) ∧
    (mget {} { rst with integ := { rst.integ with monitors := [(256 * 0x6114 + 240, { armed := false })] } }.integ.monitors (256 * 0x6114 + 240) : Monitor).armed = false := by
  decide +kernel

/-- The three-byte example message of the hash standard. -/
theorem test_sha384 : (digestBytes (sha384 [0x61, 0x62, 0x63])).take 8 = [0xcb, 0x00, 0x75, 0x3f, 0x45, 0xa3, 0x5e, 0x8b] := by decide +kernel
end Sys2Proof.Tests
end

/-! ### Items and rings: what the operations on a work ring's ledger leave of every ring -/

namespace Sys2Proof.Machine

variable {s : State}

/-! #### The ledger -/

@[simp] theorem hostStore_workRing (a : Nat) (l : List Byte) (k : Nat) : (hostStore s a l).workRing k = s.workRing k := rfl

@[simp] theorem raiseMsix_workRing (v k : Nat) : (raiseMsix s v).workRing k = s.workRing k := rfl

@[simp] theorem writeAccept_workRing (r : Nat) (i : U32) (k : Nat) : (writeAccept s r i).workRing k = s.workRing k := by
  unfold writeAccept
  split <;> simp

theorem modItem_workRing_other {r k : Nat} (h : k ≠ r) (i : U32) (f : Item → Item) : (modItem s r i f).workRing k = s.workRing k := by
  rw [modItem, State.modRing_workRing, if_neg h]

@[simp] theorem modItem_workRing_same (r : Nat) (i : U32) (f : Item → Item) :
    (modItem s r i f).workRing r =
      { s.workRing r with ledger := (s.workRing r).ledger.map fun t => if t.index = i then f t else t } :=
  State.modRing_workRing_same ..

/-- An item is looked up in its ring alone. -/
theorem getItem_congr {u v : State} {r : Nat} (h : u.workRing r = v.workRing r) (j : U32) : getItem u r j = getItem v r j := by
  rw [getItem, getItem, h]

theorem getItem_index {r : Nat} {i : U32} {t : Item} (h : getItem s r i = some t) : t.index = i := by
  simpa using List.find?_some h

theorem getItem_mem {r : Nat} {i : U32} {t : Item} (h : getItem s r i = some t) : t ∈ (s.workRing r).ledger :=
  List.mem_of_find?_eq_some h

/-- A change of item `i` that keeps its index shows in the lookup of `i` alone. -/
theorem getItem_modItem {f : Item → Item} (hf : ∀ t, (f t).index = t.index) (r : Nat) (i j : U32) :
    getItem (modItem s r i f) r j = (getItem s r j).map fun t => if t.index = i then f t else t := by
  have hix : ∀ t : Item, (if t.index = i then f t else t).index = t.index := fun t => by split <;> simp [hf]
  simp [getItem, List.find?_map, hix]

theorem getItem_modItem_same {f : Item → Item} (hf : ∀ t, (f t).index = t.index) {r : Nat} {i : U32} {t : Item}
    (h : getItem s r i = some t) : getItem (modItem s r i f) r i = some (f t) := by
  simp [getItem_modItem hf, h, getItem_index h]

theorem getItem_modItem_other {f : Item → Item} (hf : ∀ t, (f t).index = t.index) (r : Nat) {i j : U32} (hj : j ≠ i) :
    getItem (modItem s r i f) r j = getItem s r j := by
  rw [getItem_modItem hf]
  cases h : getItem s r j with
  | none => rfl
  | some t => simp [getItem_index h, hj]

theorem otherItemsKept_modItem {f : Item → Item} (hf : ∀ t, (f t).index = t.index) (r : Nat) (i : U32) :
    OtherItemsKept s (modItem s r i f) r i :=
  ⟨fun _ hj => getItem_modItem_other hf r hj, fun _ hq => modItem_workRing_other hq i f⟩

theorem otherItemsKept_congr {u v : State} {r : Nat} {i : U32} (h : ∀ k, u.workRing k = v.workRing k)
    (hv : OtherItemsKept s v r i) : OtherItemsKept s u r i :=
  ⟨fun j hj => (getItem_congr (h r) j).trans (hv.1 j hj), fun q hq => (h q).trans (hv.2 q hq)⟩

/-! #### The end of an item (R286) -/

/-- An item as it stands when it has failed: its record says ENDED and it has its status. -/
def Item.failed (t : Item) (status : U8) (detail : BitVec 128) : Item := { t with status := some (status, detail), state := 4 }

@[simp] theorem Item.failed_index (t : Item) (status : U8) (detail : BitVec 128) : (t.failed status detail).index = t.index := rfl

theorem endItem_workRing_other {r k : Nat} (h : k ≠ r) (i : U32) (status : U8) (detail : BitVec 128) :
    (endItem s r i status detail).workRing k = s.workRing k := by
  have hkeep (f : Item → Item) : (writeAccept (modItem s r i f) r i).workRing k = s.workRing k :=
    (writeAccept_workRing r i k).trans (modItem_workRing_other h i f)
  unfold endItem
  split
  · rfl
  · split
    · rfl
    · split
      · exact modItem_workRing_other h i _
      · dsimp only
        split
        · exact hkeep _
        · exact hkeep _

/-- Failing an open item changes that item of its ring's ledger and no other ring. -/
theorem endItem_workRing_failed {r : Nat} {i : U32} {t : Item} (h : getItem s r i = some t) (ho : t.status = none) {status : U8}
    (hs : 1 < status.toNat) (detail : BitVec 128) (k : Nat) :
    (endItem s r i status detail).workRing k = (modItem s r i fun t => t.failed status detail).workRing k := by
  have h0 : ¬ (status = 0 ∨ status = 1) := by rintro (rfl | rfl) <;> simp at hs
  rw [endItem, h]
  simp only [ho, Option.isSome_none, Bool.false_eq_true, if_false, if_neg h0]
  split
  · exact writeAccept_workRing r i k
  · exact writeAccept_workRing r i k

/-! #### The three passes over one item and over a ring (R291) -/

theorem readyItem_workRing_other {r k : Nat} (h : k ≠ r) (t : Item) : (readyItem s r t).workRing k = s.workRing k := by
  unfold readyItem
  (repeat' split) <;> simp [endItem_workRing_other h, modItem_workRing_other h]

theorem letStart_workRing_other {r k : Nat} (h : k ≠ r) (t : Item) : (letStart s r t).workRing k = s.workRing k := by
  unfold letStart endInvalid
  (repeat' split) <;> simp [endItem_workRing_other h, modItem_workRing_other h]

theorem applyCancel_workRing_other {r k : Nat} (h : k ≠ r) (i : U32) : (applyCancel s r i).workRing k = s.workRing k := by
  unfold applyCancel
  dsimp only
  (repeat' split) <;> simp [State.modRing_workRing, h, endItem_workRing_other h]

theorem cancelRing_workRing_other {r k : Nat} (h : k ≠ r) : (cancelRing s r).workRing k = s.workRing k := by
  unfold cancelRing
  rw [foldl_keeps (fun u : State => u.workRing k) fun _ i => applyCancel_workRing_other h i]
  simp [State.modRing_workRing, h]

/-- Without a cancel waiting, the first pass leaves the ring alone. -/
theorem cancelRing_workRing_none {r : Nat} (h : (s.workRing r).cancels = []) : (cancelRing s r).workRing r = s.workRing r := by
  rw [cancelRing, h, List.foldl_nil, State.modRing_workRing_same, ← h]

theorem passRing_workRing_other {act : State → Nat → Item → State} {k : Nat} {e : Nat × List U32}
    (hact : ∀ u t, (act u e.1 t).workRing k = u.workRing k) : (passRing act s e).workRing k = s.workRing k := by
  unfold passRing
  refine foldl_keeps (fun u : State => u.workRing k) (fun u i => ?_) _ _
  split
  · exact hact ..
  · rfl

/-- A pass whose action finds nothing to do on any item of the ring does nothing. -/
theorem passRing_idle {act : State → Nat → Item → State} {e : Nat × List U32}
    (hact : ∀ t ∈ (s.workRing e.1).ledger, act s e.1 t = s) : passRing act s e = s := by
  have hstep (i : U32) : (match getItem s e.1 i with | some y => act s e.1 y | none => s) = s := by
    split
    next h => exact hact _ (getItem_mem h)
    next => rfl
  unfold passRing
  exact List.foldlRecOn (motive := (· = s)) e.2 _ rfl fun u hu i _ => by subst hu; exact hstep i

theorem raiseRing_ledger (r k : Nat) : ((raiseRing s r).workRing k).ledger = (s.workRing k).ledger := by
  rw [raiseRing, raiseMsix_workRing, State.modRing_workRing]
  split
  next h => rw [h]
  next => rfl

theorem raiseDue_ledger (r k : Nat) : ((raiseDue s r).workRing k).ledger = (s.workRing k).ledger := by
  unfold raiseDue
  dsimp only
  split
  · exact raiseRing_ledger r k
  · rfl

theorem readyItem_started {t : Item} (h : t.started = true) (r : Nat) : readyItem s r t = s := by simp [readyItem, h]

theorem letStart_started {t : Item} (h : t.started = true) (r : Nat) : letStart s r t = s := by simp [letStart, h]

theorem letStart_ended {t : Item} (h : t.status.isSome = true) (r : Nat) : letStart s r t = s := by simp [letStart, h]

/-! #### A walk over the rings acts on each ring alone -/

/-- Where each step of a walk changes no ring but its own and no ring comes twice, ring `r` is at the end as its one step left it, and
that step found it as it was at the start. -/
theorem foldl_workRing {β : Type} {f : State → β → State} {key : β → Nat} {r : Nat}
    (hf : ∀ u e, key e ≠ r → (f u e).workRing r = u.workRing r) :
    ∀ {l : List β} {e : β} (s : State), (l.map key).Nodup → e ∈ l → key e = r →
      ∃ u, u.workRing r = s.workRing r ∧ (l.foldl f s).workRing r = (f u e).workRing r := by
  intro l e
  induction l with
  | nil => simp
  | cons a l ih =>
    intro s hn he hk
    rw [List.map_cons, List.nodup_cons] at hn
    obtain ⟨ha, hl⟩ := hn
    obtain rfl | he := List.mem_cons.1 he
    · have hother : ∀ b ∈ l, key b ≠ r := fun b hb h => ha (List.mem_map.2 ⟨b, hb, by rw [hk, h]⟩)
      exact ⟨s, rfl, List.foldlRecOn (motive := fun u => u.workRing r = (f s e).workRing r) l f rfl fun u hu b hb =>
        (hf u b (hother b hb)).trans hu⟩
    · have hne : key a ≠ r := fun h => ha (List.mem_map.2 ⟨e, he, by rw [hk, h]⟩)
      obtain ⟨u, hu, ht⟩ := ih (f s a) hl he hk
      exact ⟨u, hu.trans (hf s a hne), ht⟩

/-! #### A duplicate token (R282) -/

/-- An item the second pass has still to check: accepted, and neither ready, started nor completed. -/
def Item.Unchecked (y : Item) : Prop := y.status = none ∧ y.started = false ∧ y.ready = false

/-- An item repeats the nonzero token of another. -/
def Item.Repeats (y x : Item) : Prop := wdToken y.desc ≠ 0 ∧ wdToken x.desc = wdToken y.desc

/-- Where an earlier open item has the token, the engine finds that one or another. -/
theorem duplicateOf_of_mem {g : Ring} {x y : Item} (hx : x ∈ earlier g y) (hrep : y.Repeats x) :
    ∃ d, duplicateOf g y = some d ∧ d ∈ earlier g y ∧ wdToken d.desc = wdToken y.desc := by
  obtain ⟨h0, hxy⟩ := hrep
  rw [duplicateOf, if_neg h0]
  cases hd : (earlier g y).find? fun x => decide (wdToken x.desc = wdToken y.desc) with
  | none => exact absurd hxy (by simpa using List.find?_eq_none.1 hd x hx)
  | some d => exact ⟨d, rfl, List.mem_of_find?_eq_some hd, by simpa using List.find?_some hd⟩

/-- The second pass fails an item whose token an earlier open item has, with status 0x09, and changes no other item. -/
theorem readyItem_duplicate {r : Nat} {y d : Item} (hy : getItem s r y.index = some y) (hun : y.Unchecked)
    (hd : duplicateOf (s.workRing r) y = some d) (k : Nat) :
    (readyItem s r y).workRing k =
      (modItem s r y.index fun t => t.failed 9 (BitVec.ofNat 128 d.index.toNat)).workRing k := by
  obtain ⟨ho, hs, hr⟩ := hun
  have hend : readyItem s r y = endItem s r y.index 9 (BitVec.ofNat 128 d.index.toNat) := by simp [readyItem, ho, hs, hr, hd]
  rw [hend]
  exact endItem_workRing_failed hy ho (by decide) _ k

/-- A ring with a running item and, behind it, one that repeats its token. -/
structure DuplicateBehind (g : Ring) (x y : Item) : Prop where
  ledger : g.ledger = [x, y]
  distinct : x.index ≠ y.index
  running : x.status = none ∧ x.started = true
  unchecked : y.Unchecked
  repeats : y.Repeats x

theorem DuplicateBehind.duplicateOf_eq {g : Ring} {x y : Item} (h : DuplicateBehind g x y) : duplicateOf g y = some x := by
  obtain ⟨hl, hne, ⟨hxo, -⟩, -, h0, hxy⟩ := h
  rw [duplicateOf, if_neg h0]
  simp [earlier, hl, hne, hxo, hxy]

/-- The second pass over such a ring fails the later item. -/
theorem passReady_duplicate {r : Nat} {x y : Item} (h : DuplicateBehind (s.workRing r) x y) :
    ((passRing readyItem s (r, [x.index, y.index])).workRing r).ledger = [x, y.failed 9 (BitVec.ofNat 128 x.index.toNat)] := by
  have hx : getItem s r x.index = some x := by simp [getItem, h.ledger]
  have hy : getItem s r y.index = some y := by simp [getItem, h.ledger, h.distinct]
  have hpass : passRing readyItem s (r, [x.index, y.index]) = readyItem s r y := by
    simp [passRing, hx, hy, readyItem_started h.running.2]
  rw [hpass, readyItem_duplicate hy h.unchecked h.duplicateOf_eq r, modItem_workRing_same]
  simp [h.ledger, h.distinct]

/-! #### The whole readiness pass, seen from one ring -/

/-- The rings a walk of a pass goes through, each once. -/
theorem ringItems_keys (pick : Item → Bool) : ((ringItems s pick).map (·.1)).Nodup := by
  have hkeys : (ringItems s pick).map (·.1) = List.range 64 := by simp [ringItems, Function.comp_def]
  rw [hkeys]
  exact List.nodup_range

theorem mem_ringItems {r : Nat} (hr : r < 64) (pick : Item → Bool) :
    (r, ((s.workRing r).ledger.filter pick).map (·.index)) ∈ ringItems s pick :=
  List.mem_map.2 ⟨r, List.mem_range.2 hr, rfl⟩

/-- The cancels of other rings leave a ring without cancels alone. -/
theorem cancelRings_workRing {r : Nat} (h : (s.workRing r).cancels = []) (l : List Nat) :
    (l.foldl cancelRing s).workRing r = s.workRing r := by
  refine List.foldlRecOn (motive := fun u : State => u.workRing r = s.workRing r) l _ rfl fun u hu q _ => ?_
  by_cases hq : r = q
  · subst hq
    rw [cancelRing_workRing_none (by rw [hu, h]), hu]
  · rw [cancelRing_workRing_other hq, hu]

/-- A later pass over all rings acts on a ring as its pass over that ring alone. -/
theorem passRings_workRing {act : State → Nat → Item → State} {r : Nat}
    (hact : ∀ (u : State) (q : Nat) t, r ≠ q → (act u q t).workRing r = u.workRing r) {v : State} (hr : r < 64) (pick : Item → Bool) :
    ∃ u, u.workRing r = s.workRing r ∧ ((ringItems v pick).foldl (passRing act) s).workRing r =
      (passRing act u (r, ((v.workRing r).ledger.filter pick).map (·.index))).workRing r :=
  foldl_workRing (fun _ e hk => passRing_workRing_other fun u t => hact u e.1 t (Ne.symm hk)) s (ringItems_keys pick)
    (mem_ringItems hr pick) rfl

/-- A ring whose items are all running or ended keeps them when the third pass looks for items to start. -/
theorem letStart_pass_idle {r : Nat} (h : ∀ t ∈ (s.workRing r).ledger, t.started = true ∨ t.status.isSome = true) (l : List U32) :
    passRing letStart s (r, l) = s :=
  passRing_idle fun t ht => (h t ht).elim (letStart_started · r) (letStart_ended · r)

/-- The engine finds the duplicate at its second pass, and nothing else of its readiness pass changes that ring's items. -/
theorem execReadinessPass_duplicate {r : Nat} {x y : Item} (hr : r < 64) (h : DuplicateBehind (s.workRing r) x y)
    (hc : (s.workRing r).cancels = []) :
    ∃ t, execReadinessPass s = .next t ∧ (t.workRing r).ledger = [x, y.failed 9 (BitVec.ofNat 128 x.index.toNat)] := by
  refine ⟨_, rfl, ?_⟩
  rw [foldl_keeps (fun u : State => (u.workRing r).ledger) fun u q => raiseDue_ledger q r]
  have hcancel := cancelRings_workRing hc (List.range 64)
  generalize (List.range 64).foldl cancelRing s = t1 at hcancel ⊢
  obtain ⟨u2, hu2, hready⟩ := passRings_workRing (s := t1) (v := t1) (fun _ _ t hq => readyItem_workRing_other hq t) hr fun _ => true
  generalize (ringItems t1 fun _ => true).foldl (passRing readyItem) t1 = t2 at hready ⊢
  have hl2 : (t2.workRing r).ledger = [x, y.failed 9 (BitVec.ofNat 128 x.index.toNat)] := by
    rw [hready, hcancel, h.ledger]
    exact passReady_duplicate (by rwa [hu2, hcancel])
  obtain ⟨u3, hu3, hstart⟩ := passRings_workRing (s := t2) (v := t1) (fun _ _ t hq => letStart_workRing_other hq t) hr (·.ready)
  rw [hstart, letStart_pass_idle (by simp [hu3, hl2, h.running, Item.failed]), hu3, hl2]

/-- Settles O6: the second pass finds an earlier item with the token and ends the later one with status 0x09; the passes before and
after it, and the work on other rings, leave that result alone. -/
theorem duplicateTokenFailsUnrun : Obligations.DuplicateTokenFailsUnrun := by
  unfold Obligations.DuplicateTokenFailsUnrun
  constructor
  · intro s r x y hy ho hs hr hx h0 hxy
    obtain ⟨d, hd, hmem, htok⟩ := duplicateOf_of_mem hx ⟨h0, hxy⟩
    have hring := readyItem_duplicate hy ⟨ho, hs, hr⟩ hd
    have hf := Item.failed_index (status := 9) (detail := BitVec.ofNat 128 d.index.toNat)
    exact ⟨_, d, (getItem_congr (hring r) _).trans (getItem_modItem_same hf hy), hmem, htok, rfl,
      otherItemsKept_congr hring (otherItemsKept_modItem hf r _)⟩
  · intro s r x y hr hl hne hc hxo hxs hyo hys hyr h0 hxy
    exact execReadinessPass_duplicate hr ⟨hl, hne, ⟨hxo, hxs⟩, ⟨hyo, hys, hyr⟩, h0, hxy⟩ hc

end Sys2Proof.Machine

/-! ### Stretches and the rail-current limit: what they make of a hearth (R400, R418) -/

namespace Sys2Proof.Machine

variable {s : State}

/-! #### Stretches -/

theorem self_mem_addReason (l : List Nat) (r : Nat) : r ∈ addReason l r := by
  unfold addReason
  split
  case isTrue h => exact List.contains_iff_mem.1 h
  case isFalse => exact List.mem_append_right l (List.mem_singleton_self r)

theorem stretch_hearth_other {n m : Nat} (h : m ≠ n) (r : Nat) (on : Bool) : (stretch s n r on).hearth m = s.hearth m :=
  withHearth_hearth_other s h _

@[simp] theorem stretch_hearth_railLim (n r : Nat) (on : Bool) : ((stretch s n r on).hearth n).railLim = (s.hearth n).railLim := by
  rw [stretch, withHearth_hearth_railLim, regovern_hearth_railLim]

theorem stretch_hearth_stretch (n r : Nat) (on : Bool) : ((stretch s n r on).hearth n).stretch =
    if on then (if (s.hearth n).freq = 600 then (s.hearth n).stretch else addReason (s.hearth n).stretch r)
    else (s.hearth n).stretch.filter fun x => decide (x ≠ r) := by
  rw [stretch, withHearth_hearth_stretch, regovern_hearth_stretch, regovern_hearth_freq]

/-- Above 600 MHz a stretch engages its reason. -/
theorem mem_stretch_of_on {n r : Nat} {on : Bool} (hon : on = true) (h : (s.hearth n).freq ≠ 600) :
    r ∈ ((stretch s n r on).hearth n).stretch := by
  rw [stretch_hearth_stretch, if_pos hon, if_neg h]
  exact self_mem_addReason _ r

/-- Ended, a stretch leaves no trace of its reason. -/
theorem not_mem_stretch_of_off {n r : Nat} {on : Bool} (hoff : on = false) : r ∉ ((stretch s n r on).hearth n).stretch := by
  rw [stretch_hearth_stretch, if_neg (by simp [hoff])]
  exact fun h => of_decide_eq_true (List.mem_filter.1 h).2 rfl

/-- A stretch after a change of hearths is still a change of hearths alone. -/
theorem stretch_eta {u : State} (h : u = { s with hearths := u.hearths }) (n r : Nat) (on : Bool) :
    stretch u n r on = { s with hearths := (stretch u n r on).hearths } :=
  (withHearth_eq u n _).trans (congrArg (fun v : State => { v with hearths := (stretch u n r on).hearths }) h)

/-! #### The rail-current limit -/

/-- What one reading of the rail's current makes of a hearth's limit (R418). -/
def moveRailLim (avgA : Nat) (below1050for1ms : Bool) (h : Hearth) : Hearth :=
  if 1100 < avgA then { h with railLim := max 600 (h.railLim - 25) }
  else if below1050for1ms then { h with railLim := min 2000 (h.railLim + 25) } else h

/-- The command moves the limit, then engages or ends the stretch of reason 0x6. -/
theorem exec_railCurrentLimit (n : Fin 16) (avgA estA : Nat) (b : Bool) : exec (.railCurrentLimit n avgA estA b) s =
    .next (stretch (withHearth s n (moveRailLim avgA b)) n 6 (decide (1300 < estA))) := rfl

theorem moveRailLim_railLim (avgA : Nat) (b : Bool) (h : Hearth) : (moveRailLim avgA b h).railLim =
    if 1100 < avgA then max 600 (h.railLim - 25) else if b then min 2000 (h.railLim + 25) else h.railLim := by
  unfold moveRailLim
  split_ifs <;> rfl

@[simp] theorem moveRailLim_freq (avgA : Nat) (b : Bool) (h : Hearth) : (moveRailLim avgA b h).freq = h.freq := by
  unfold moveRailLim
  split_ifs <;> rfl

theorem withHearth_moveRailLim_railLim (n avgA : Nat) (b : Bool) : ((withHearth s n (moveRailLim avgA b)).hearth n).railLim =
    if 1100 < avgA then max 600 ((s.hearth n).railLim - 25)
    else if b then min 2000 ((s.hearth n).railLim + 25) else (s.hearth n).railLim := by
  rw [withHearth_hearth_railLim, moveRailLim_railLim, regovern_hearth_railLim]

@[simp] theorem withHearth_moveRailLim_freq (n avgA : Nat) (b : Bool) :
    ((withHearth s n (moveRailLim avgA b)).hearth n).freq = (s.hearth n).freq := by
  rw [withHearth_hearth_freq, moveRailLim_freq, regovern_hearth_freq]

/-- Settles O7: the move of the limit and the stretch of reason 0x6 touch different parts of the hearth, so each clause is that of
the one of the two it speaks of. -/
theorem railCurrentLimitsTheHearth : Obligations.RailCurrentLimitsTheHearth := by
  unfold Obligations.RailCurrentLimitsTheHearth
  intro s n avg est b
  have hlim := (stretch_hearth_railLim n 6 (decide (1300 < est))).trans (withHearth_moveRailLim_railLim (s := s) n avg b)
  refine ⟨_, exec_railCurrentLimit n avg est b, fun hover => ?lower, fun hle hb => ?raise, fun hle hb => ?keep,
    fun hle => ?stretchEnds, fun hover hfreq => ?stretchEngages, fun m hm => ?others, ?frame⟩
  case lower => rw [hlim, if_pos hover]
  case raise => rw [hlim, if_neg hle.not_gt, if_pos hb]
  case keep => rw [hlim, if_neg hle.not_gt, if_neg (by simp [hb])]
  case stretchEnds => exact not_mem_stretch_of_off (decide_eq_false hle.not_gt)
  case stretchEngages => exact mem_stretch_of_on (decide_eq_true hover) (by rwa [withHearth_moveRailLim_freq])
  case others => rw [stretch_hearth_other hm, withHearth_hearth_other s hm]
  case frame => exact stretch_eta (withHearth_eq s n _) n 6 _

end Sys2Proof.Machine

/-! ### One step and the units a command names (R5, R32) -/

namespace Sys2Proof.Machine

/-- An outcome that is a next state where the test holds, and the fault of log entry 14 where it fails. -/
def CompletesWhere (b : Bool) (o : Out) : Prop := (b = true → ∃ t, o = .next t) ∧ (b = false → o = .fault .noSuchUnit)

theorem completesWhere_next (t : State) : CompletesWhere true (.next t) := ⟨fun _ => ⟨t, rfl⟩, nofun⟩

theorem completesWhere_ite {p : Prop} [Decidable p] {b : Bool} {x y : Out} (hx : CompletesWhere b x) (hy : CompletesWhere b y) :
    CompletesWhere b (if p then x else y) := by
  split
  · exact hx
  · exact hy

theorem completesWhere_guard (p : Prop) [Decidable p] (t : State) :
    CompletesWhere (decide p) (if p then .next t else .fault .noSuchUnit) := by
  unfold CompletesWhere
  split <;> simp [*]

theorem completesWhere_bool (b : Bool) (t : State) : CompletesWhere b (if b = true then .next t else .fault .noSuchUnit) := by
  have h := completesWhere_guard (b = true) t
  rwa [Bool.decide_eq_true] at h

theorem completesWhere_onCore (s : State) (c : CoreId) (t : State) : CompletesWhere (coreExists s c) (onCore s c t) :=
  completesWhere_bool _ t

theorem completesWhere_onUnit (n k : Nat) (t : State) : CompletesWhere (decide (k < n)) (onUnit n k t) := completesWhere_guard _ t

theorem completesWhere_range (n k : Nat) (t : State) :
    CompletesWhere (decide (1 ≤ k) && decide (k ≤ n)) (if 1 ≤ k ∧ k ≤ n then .next t else .fault .noSuchUnit) := by
  rw [← Bool.decide_and]
  exact completesWhere_guard _ t

theorem completesWhere_onSlot (n b : Nat) (t : State) : CompletesWhere (decide (1 ≤ b) && decide (b ≤ n)) (onSlot n b t) :=
  completesWhere_range n b t

/-- The two ends of a coupling line are two sites of the die. -/
theorem completesWhere_couplingLine (p q : Site) (t : State) :
    CompletesWhere (decide (p < 256) && decide (q < 256)) (onUnit 256 (max p q) t) := by
  have h : decide (max p q < 256) = (decide (p < 256) && decide (q < 256)) := by simp only [Nat.max_lt, Bool.decide_and]
  exact h ▸ completesWhere_onUnit 256 (max p q) t

theorem exec_completesWhere (i : Instr) (s : State) : CompletesWhere (unitExists i s) (exec i s) := by
  cases i
  case coreFailure | mapChangeEffect | issueSequencerCycle | loaderRowInjection | accumulatorAdd | drainRow | counterPublication |
      nop | loop | endloop | sync | fence | endStep | matmul | dma | send | put | fill | copy | vadd | vsub | vmul | vfmai | vdiv |
      vsqrt | vmin | vmax | vcmplt | vrcp | vrsqrt | vexp2 | vexp | vcvt | vquant | vdequant | vrsum | vrmax | vtopk | vslice |
      stepFinish | scratchpadBankCycle | correctionWriteBack | poisonWriteBack | scrubRead | corePowerGating | coreWake |
      putWordArrival | crumb | fenceProbe | probeAnswer | streamFlitArrival | draughtFlitArrival | syncNetworkTurn | coreReset =>
    exact completesWhere_onCore _ _ _
  case resumption | placementComplete | stepCommit | copyOutComplete | epochFence | rePlacement | bakeTimeout | migrationTarget |
      migrationSwitch | phaseChange | faultPaging | faultHoldExpiry | rectangleReset | digestComplete | replicaReport |
      checkResolution | bankWhole | bankHostCopyComplete | restore =>
    exact completesWhere_onSlot _ _ _
  case oscillatorFailure | channelRetrain | channelRetirement => exact completesWhere_onUnit _ _ _
  case couplingLineFailure => exact completesWhere_couplingLine _ _ _
  case scheduleCommit | scheduleSwitch => exact completesWhere_bool _ _
  case emberTimerExpiry | processorRestart | failedControllerEvent => exact completesWhere_range _ _ _
  case stackRetirement | invAddr | invalidationComplete =>
    exact completesWhere_ite (completesWhere_next _) (completesWhere_next _)
  case remoteSignalApply =>
    simp only [exec, execRemoteSignalApply, unitExists]
    split <;> exact completesWhere_next _
  case dmaDescriptorStart =>
    simp only [exec, execDmaDescriptorStart, unitExists]
    split
    · exact completesWhere_next _
    · exact completesWhere_ite (completesWhere_next _) (completesWhere_next _)
  case dmaDescriptorComplete =>
    simp only [exec, execDmaDescriptorComplete, unitExists]
    split <;> exact completesWhere_next _
  case translationFault =>
    simp only [exec, execTranslationFault, unitExists]
    split <;> exact completesWhere_next _
  case priResponse =>
    refine completesWhere_ite (completesWhere_next _) ?_
    dsimp only
    repeat' split
    all_goals exact completesWhere_next _
  case retry =>
    simp only [exec, execRetry, unitExists]
    split <;> exact completesWhere_next _
  all_goals exact completesWhere_next _

/-- Settles O2, by a case split over the commands: each is the guard of its unit before a next state. -/
theorem commandsCompleteOnExistingUnits : Obligations.CommandsCompleteOnExistingUnits := exec_completesWhere

/-- Settles O1, by the definition of a step and the empty instruction table. -/
theorem stepRunsTheFrontCommand : Obligations.StepRunsTheFrontCommand :=
  ⟨fun s c rest h => by rw [step, h], fun s h => by rw [step, h], fun _ _ _ => rfl⟩

end Sys2Proof.Machine

/-! ### What every command keeps: the queue, the fuses (R31, R440), and the canonical form of host memory and the stacks -/

namespace Sys2Proof.Machine

/-- What no operation takes back: the queue as it was, the fuses grown at most, and both addressed memories canonical if they were. -/
structure Keeps (s t : State) : Prop where
  queue : t.pending = s.pending
  fuse : FuseGrown s.fuse t.fuse
  host : HostWf s.host → HostWf t.host
  words : StacksWf s.hbm.words → StacksWf t.hbm.words

/-- An outcome's next state, if it has one, keeps what `Keeps` says. -/
def Out.Keeps (s : State) : Out → Prop
  | .next t => Machine.Keeps s t
  | _ => True

variable {s t u : State}

theorem keeps_iff : Keeps s t ↔ t.pending = s.pending ∧ FuseGrown s.fuse t.fuse ∧ (HostWf s.host → HostWf t.host) ∧
    (StacksWf s.hbm.words → StacksWf t.hbm.words) := ⟨fun ⟨a, b, c, d⟩ => ⟨a, b, c, d⟩, fun ⟨a, b, c, d⟩ => ⟨a, b, c, d⟩⟩

@[simp] theorem fuseGrown_self (a : Fuse) : FuseGrown a a := fuseGrown_refl a

/-- What a reading of the fuse copies found says nothing about what is burned. -/
theorem fuseGrown_copies (f : Fuse) (a b : List Nat) : FuseGrown f { f with badA := a, badB := b } := by simp [FuseGrown]

@[simp] theorem Keeps.refl (s : State) : Keeps s s := ⟨rfl, fuseGrown_refl _, id, id⟩

theorem Keeps.trans (h : Keeps s t) (k : Keeps t u) : Keeps s u :=
  ⟨k.queue.trans h.queue, fuseGrown_trans h.fuse k.fuse, k.host ∘ h.host, k.words ∘ h.words⟩

theorem keeps_of_outer (h : t.fuse = s.fuse ∧ t.pending = s.pending ∧ t.host = s.host ∧ t.hbm = s.hbm) : Keeps s t := by
  obtain ⟨hf, hp, hh, hb⟩ := h
  exact ⟨hp, fuseGrown_of_eq hf, fun w => hh ▸ w, fun w => hb ▸ w⟩

theorem keeps_ite {a b : State} {c : Prop} [Decidable c] (ha : Keeps s a) (hb : Keeps s b) : Keeps s (if c then a else b) := by
  split
  · exact ha
  · exact hb

theorem keeps_foldl {α : Type} {f : State → α → State} (h : ∀ u x, Keeps u (f u x)) : ∀ (l : List α) {s : State}, Keeps s (l.foldl f s)
  | [], s => Keeps.refl s
  | x :: l, s => (h s x).trans (keeps_foldl h l)

/-! #### The guards of commands -/

@[simp] theorem keeps_next : Out.Keeps s (.next t) ↔ Keeps s t := Iff.rfl

@[simp] theorem keeps_fault (r : Fault) : Out.Keeps s (.fault r) := trivial

theorem Out.Keeps.after {o : Out} (h : Machine.Keeps s u) (k : Out.Keeps u o) : Out.Keeps s o := by
  cases o with
  | next t => exact Machine.Keeps.trans h k
  | fault => trivial
  | refused => trivial

@[simp] theorem keeps_onCore {c : CoreId} (h : Keeps s t) : Out.Keeps s (onCore u c t) := by
  unfold onCore
  split <;> simp [h]

@[simp] theorem keeps_onSlot {n b : Nat} (h : Keeps s t) : Out.Keeps s (onSlot n b t) := by
  unfold onSlot
  split <;> simp [h]

@[simp] theorem keeps_onUnit {n k : Nat} (h : Keeps s t) : Out.Keeps s (onUnit n k t) := by
  unfold onUnit
  split <;> simp [h]

theorem keeps_atHead {c : CoreId} {fits : W256 → Bool} (h : Keeps s t) : Keeps s (atHead s c fits t) := by
  unfold atHead
  dsimp only
  repeat' split
  · exact Keeps.refl s
  · exact keeps_of_outer (State_modCore_outer _ _)
  · exact h
  · exact Keeps.refl s

/-! #### Items, bakes, channels and frames -/

theorem keeps_modItem (r : Nat) (i : U32) (f : Item → Item) : Keeps s (modItem s r i f) := by simp [keeps_iff]

theorem keeps_endItem (r : Nat) (i : U32) (c : U8) (d : BitVec 128) : Keeps s (endItem s r i c d) := by simp +contextual [keeps_iff]

theorem keeps_endInvalid (r : Nat) (i : U32) (b : Nat) : Keeps s (endInvalid s r i b) := by simp +contextual [keeps_iff]

theorem keeps_endItems (s : State) (b : Nat) (p : U32 → Bool) (x : U8) (d : BitVec 128) : Keeps s (endItems s b p x d) := by
  simp +contextual [keeps_iff]

theorem keeps_startItem {r : Nat} {i : U32} {op : Nat} {go : State → Item → State} (h : ∀ u x, Keeps u (go u x)) :
    Keeps s (startItem s r i op go) := by
  unfold startItem
  dsimp only
  repeat' split
  · exact Keeps.refl s
  · exact Keeps.refl s
  · exact (keeps_modItem r i _).trans (keeps_endInvalid r i _)
  · exact (keeps_modItem r i _).trans (keeps_endItem r i _ _)
  · exact (keeps_modItem r i _).trans (h _ _)

theorem keeps_onBake {r : Nat} {x : Item} {go : State → Nat → State} (h : ∀ u b, Keeps u (go u b)) : Keeps s (onBake s r x go) := by
  unfold onBake
  split
  · exact (keeps_modItem _ _ _).trans (h _ _)
  · exact keeps_endInvalid _ _ _

theorem keeps_readyItem (s : State) (r : Nat) (x : Item) : Keeps s (readyItem s r x) := by simp +contextual [keeps_iff]

theorem keeps_letStart (s : State) (r : Nat) (x : Item) : Keeps s (letStart s r x) := by simp +contextual [keeps_iff]

theorem keeps_passRing {act : State → Nat → Item → State} (h : ∀ u r x, Keeps u (act u r x)) (s : State) (e : Nat × List U32) :
    Keeps s (passRing act s e) := by
  unfold passRing
  refine keeps_foldl (fun u x => ?_) _
  split
  · exact h _ _ _
  · exact Keeps.refl u

theorem keeps_mergeHost (l : List Host.Cell) : Keeps s (mergeHost s l) := by simp +contextual [keeps_iff]

theorem keeps_fence (s : State) (b n : Nat) (c : Bool) : Keeps s (fence s b n c) := by simp +contextual [keeps_iff]

theorem keeps_beginCommit (s : State) (b : Nat) : Keeps s (beginCommit s b) := by simp +contextual [keeps_iff]

theorem keeps_moveGranules (s : State) (ch : Nat) (m : Nat × Nat × Nat × Nat × Nat) : Keeps s (moveGranules s ch m) := by
  simp +contextual [keeps_iff]

theorem keeps_retireChannel (s : State) (ch : Nat) (p : Bool) (l : List Nat) : Keeps s (retireChannel s ch p l) := by
  simp +contextual [keeps_iff]

theorem keeps_loseContents (s : State) (ch : Nat) : Keeps s (loseContents s ch) := by simp +contextual [keeps_iff]

@[simp] theorem advanceDma_host (h : HostWf s.host) (d : DmaDesc) (denied : List Nat) (ups : List (Nat × StackUpset)) :
    HostWf (advanceDma s d denied ups).1.host := by
  unfold advanceDma
  (repeat' split) <;> simp [h]

@[simp] theorem advanceDma_words (h : StacksWf s.hbm.words) (d : DmaDesc) (denied : List Nat) (ups : List (Nat × StackUpset)) :
    StacksWf (advanceDma s d denied ups).1.hbm.words := by
  unfold advanceDma
  (repeat' split) <;> simp [h]

theorem keeps_answer {limit : Nat} {run : State → Nat → Request → Nat × List Byte × State}
    (h : ∀ u n r, Keeps u (run u n r).2.2) (f : Nat × Nat × Nat × List Request) : Keeps s (answer s limit run f).2 :=
  answer_prop (p := Keeps s) limit run (fun u n r hu => hu.trans (h u n r)) f (Keeps.refl s)

/-! #### One lemma per command -/


@[simp] theorem execVaonInTolerance_keeps (badA badB : List Nat) (nodeLow : Bool) : Out.Keeps s (execVaonInTolerance badA badB nodeLow s) := by
  have hfuse : FuseGrown s.fuse { s.fuse with badA := badA, badB := badB } := fuseGrown_copies _ _ _
  unfold execVaonInTolerance
  dsimp only
  (repeat' split) <;> simp [keeps_iff, hfuse]

@[simp] theorem execColdStart_keeps (o : BootObs) : Out.Keeps s (execColdStart o s) := by
  have hfuse : FuseGrown s.fuse { s.fuse with badA := o.badA, badB := o.badB } := fuseGrown_copies _ _ _
  unfold execColdStart
  dsimp only
  split <;> simp +contextual [keeps_iff, hfuse]

@[simp] theorem execRailSequencingFault_keeps (rail : Nat) : Out.Keeps s (execRailSequencingFault rail s) := by
  simp [execRailSequencingFault, keeps_iff]

@[simp] theorem execThermalTrip_keeps (n : Fin 16) : Out.Keeps s (execThermalTrip n s) := by
  simp [execThermalTrip, keeps_iff]

@[simp] theorem execJunctionAverageSample_keeps (t : Int) : Out.Keeps s (execJunctionAverageSample t s) := by
  unfold execJunctionAverageSample
  dsimp only
  (repeat' split) <;> simp [keeps_iff]

@[simp] theorem execHardRstN_keeps (pin : ResetPin) (allBelow95 : Bool) : Out.Keeps s (execHardRstN pin allBelow95 s) := by
  simp +contextual [execHardRstN, keeps_iff]

@[simp] theorem execPcieHotReset_keeps (_flr : Bool) : Out.Keeps s (execPcieHotReset _flr s) := by
  simp +contextual [execPcieHotReset, keeps_iff]

@[simp] theorem execPresenceNChange_keeps (asserted : Bool) : Out.Keeps s (execPresenceNChange asserted s) := by
  simp [execPresenceNChange, keeps_iff]

@[simp] theorem execAlwaysOnSourceSwitch_keeps (vaonMv : Nat) (held10ms : Bool) (nodeMv : Nat) :
    Out.Keeps s (execAlwaysOnSourceSwitch vaonMv held10ms nodeMv s) := by
  simp [execAlwaysOnSourceSwitch, keeps_iff]

@[simp] theorem execVbakRead_keeps (v : F32) : Out.Keeps s (execVbakRead v s) := by
  simp [execVbakRead, keeps_iff]

@[simp] theorem execRefclkLoss_keeps : Out.Keeps s (execRefclkLoss s) := by
  simp [execRefclkLoss, keeps_iff]

@[simp] theorem execRefclkReturn_keeps : Out.Keeps s (execRefclkReturn s) := by
  simp [execRefclkReturn, keeps_iff]

@[simp] theorem execOscillatorFailure_keeps (p : Site) : Out.Keeps s (execOscillatorFailure p s) := by
  simp [execOscillatorFailure, keeps_iff]

@[simp] theorem execCouplingLineFailure_keeps (p q : Site) (line : Fin 2) : Out.Keeps s (execCouplingLineFailure p q line s) := by
  simp [execCouplingLineFailure, keeps_iff]

@[simp] theorem execPpsInEdge_keeps : Out.Keeps s (execPpsInEdge s) := by
  simp [execPpsInEdge, keeps_iff]

@[simp] theorem execCoreFailure_keeps (c : CoreId) : Out.Keeps s (execCoreFailure c s) := by
  simp [execCoreFailure, keeps_iff]

@[simp] theorem execMapChangeEffect_keeps (c : CoreId) : Out.Keeps s (execMapChangeEffect c s) := by
  simp [execMapChangeEffect, keeps_iff]

@[simp] theorem execIssueSequencerCycle_keeps (c : CoreId) : Out.Keeps s (execIssueSequencerCycle c s) := by
  simp [execIssueSequencerCycle, keeps_iff]

@[simp] theorem execLoaderRowInjection_keeps (c : CoreId) : Out.Keeps s (execLoaderRowInjection c s) := by
  simp [execLoaderRowInjection, keeps_iff]

@[simp] theorem execAccumulatorAdd_keeps (c : CoreId) (ups : List (Fin 4 × AccUpset)) : Out.Keeps s (execAccumulatorAdd c ups s) := by
  simp [execAccumulatorAdd, keeps_iff]

@[simp] theorem execDrainRow_keeps (c : CoreId) (arr : Fin 4) (ups : List AccUpset) : Out.Keeps s (execDrainRow c arr ups s) := by
  unfold execDrainRow
  dsimp only
  (repeat' split) <;> simp [keeps_iff]

@[simp] theorem execCounterPublication_keeps (c : CoreId) : Out.Keeps s (execCounterPublication c s) := by
  simp [execCounterPublication, keeps_iff]

@[simp] theorem execNop_keeps (c : CoreId) : Out.Keeps s (execNop c s) :=
  keeps_onCore (keeps_atHead (keeps_of_outer (by simp)))

@[simp] theorem execLoop_keeps (c : CoreId) : Out.Keeps s (execLoop c s) :=
  keeps_onCore (keeps_atHead (keeps_of_outer (by simp)))

@[simp] theorem execEndloop_keeps (c : CoreId) : Out.Keeps s (execEndloop c s) :=
  keeps_onCore (keeps_atHead (keeps_of_outer (by simp)))

@[simp] theorem execSync_keeps (c : CoreId) : Out.Keeps s (execSync c s) :=
  keeps_onCore (keeps_atHead (keeps_of_outer (by simp)))

@[simp] theorem execFence_keeps (c : CoreId) : Out.Keeps s (execFence c s) := by
  simp [execFence, keeps_iff]

@[simp] theorem execEndStep_keeps (c : CoreId) : Out.Keeps s (execEndStep c s) :=
  keeps_onCore (keeps_atHead (keeps_of_outer (by simp)))

@[simp] theorem execMatmul_keeps (c : CoreId) : Out.Keeps s (execMatmul c s) :=
  keeps_onCore (keeps_atHead (keeps_of_outer (by simp)))

@[simp] theorem execDma_keeps (c : CoreId) : Out.Keeps s (execDma c s) :=
  keeps_onCore (keeps_atHead (keeps_of_outer (by simp)))

@[simp] theorem execSend_keeps (c : CoreId) : Out.Keeps s (execSend c s) := by
  exact keeps_onCore (keeps_atHead (keeps_iff.2 (by simp +contextual)))

@[simp] theorem execPut_keeps (c : CoreId) : Out.Keeps s (execPut c s) :=
  keeps_onCore (keeps_atHead (keeps_of_outer (by simp)))

@[simp] theorem execFill_keeps (c : CoreId) : Out.Keeps s (execFill c s) :=
  keeps_onCore (keeps_atHead (keeps_of_outer (by simp)))

@[simp] theorem execCopy_keeps (c : CoreId) : Out.Keeps s (execCopy c s) :=
  keeps_onCore (keeps_atHead (keeps_of_outer (by simp)))

@[simp] theorem execVadd_keeps (c : CoreId) : Out.Keeps s (execVadd c s) :=
  keeps_onCore (keeps_atHead (keeps_of_outer (by simp)))

@[simp] theorem execVsub_keeps (c : CoreId) : Out.Keeps s (execVsub c s) :=
  keeps_onCore (keeps_atHead (keeps_of_outer (by simp)))

@[simp] theorem execVmul_keeps (c : CoreId) : Out.Keeps s (execVmul c s) :=
  keeps_onCore (keeps_atHead (keeps_of_outer (by simp)))

@[simp] theorem execVfmai_keeps (c : CoreId) : Out.Keeps s (execVfmai c s) :=
  keeps_onCore (keeps_atHead (keeps_of_outer (by simp)))

@[simp] theorem execVdiv_keeps (c : CoreId) : Out.Keeps s (execVdiv c s) :=
  keeps_onCore (keeps_atHead (keeps_of_outer (by simp)))

@[simp] theorem execVsqrt_keeps (c : CoreId) : Out.Keeps s (execVsqrt c s) :=
  keeps_onCore (keeps_atHead (keeps_of_outer (by simp)))

@[simp] theorem execVmin_keeps (c : CoreId) : Out.Keeps s (execVmin c s) :=
  keeps_onCore (keeps_atHead (keeps_of_outer (by simp)))

@[simp] theorem execVmax_keeps (c : CoreId) : Out.Keeps s (execVmax c s) :=
  keeps_onCore (keeps_atHead (keeps_of_outer (by simp)))

@[simp] theorem execVcmplt_keeps (c : CoreId) : Out.Keeps s (execVcmplt c s) :=
  keeps_onCore (keeps_atHead (keeps_of_outer (by simp)))

@[simp] theorem execVrcp_keeps (c : CoreId) : Out.Keeps s (execVrcp c s) :=
  keeps_onCore (keeps_atHead (keeps_of_outer (by simp)))

@[simp] theorem execVrsqrt_keeps (c : CoreId) : Out.Keeps s (execVrsqrt c s) :=
  keeps_onCore (keeps_atHead (keeps_of_outer (by simp)))

@[simp] theorem execVexp2_keeps (c : CoreId) : Out.Keeps s (execVexp2 c s) :=
  keeps_onCore (keeps_atHead (keeps_of_outer (by simp)))

@[simp] theorem execVexp_keeps (c : CoreId) : Out.Keeps s (execVexp c s) :=
  keeps_onCore (keeps_atHead (keeps_of_outer (by simp)))

@[simp] theorem execVcvt_keeps (c : CoreId) : Out.Keeps s (execVcvt c s) :=
  keeps_onCore (keeps_atHead (keeps_of_outer (by simp)))

@[simp] theorem execVquant_keeps (c : CoreId) : Out.Keeps s (execVquant c s) :=
  keeps_onCore (keeps_atHead (keeps_of_outer (by simp)))

@[simp] theorem execVdequant_keeps (c : CoreId) : Out.Keeps s (execVdequant c s) :=
  keeps_onCore (keeps_atHead (keeps_of_outer (by simp)))

@[simp] theorem execVrsum_keeps (c : CoreId) : Out.Keeps s (execVrsum c s) :=
  keeps_onCore (keeps_atHead (keeps_of_outer (by simp)))

@[simp] theorem execVrmax_keeps (c : CoreId) : Out.Keeps s (execVrmax c s) :=
  keeps_onCore (keeps_atHead (keeps_of_outer (by simp)))

@[simp] theorem execVtopk_keeps (c : CoreId) : Out.Keeps s (execVtopk c s) :=
  keeps_onCore (keeps_atHead (keeps_of_outer (by simp)))

@[simp] theorem execVslice_keeps (c : CoreId) : Out.Keeps s (execVslice c s) :=
  keeps_onCore (keeps_atHead (keeps_of_outer (by simp)))

@[simp] theorem execStepFinish_keeps (c : CoreId) (order : Nat) : Out.Keeps s (execStepFinish c order s) := by
  simp [execStepFinish, keeps_iff]

@[simp] theorem execResumption_keeps (b : Nat) : Out.Keeps s (execResumption b s) := by
  simp [execResumption, keeps_iff]

@[simp] theorem execScratchpadBankCycle_keeps (c : CoreId) (reqs : List BankReq) (ups : List (Nat × Check)) :
    Out.Keeps s (execScratchpadBankCycle c reqs ups s) := by
  simp [execScratchpadBankCycle, keeps_iff]

@[simp] theorem execCorrectionWriteBack_keeps (c : CoreId) : Out.Keeps s (execCorrectionWriteBack c s) := by
  simp [execCorrectionWriteBack, keeps_iff]

@[simp] theorem execPoisonWriteBack_keeps (c : CoreId) : Out.Keeps s (execPoisonWriteBack c s) := by
  simp [execPoisonWriteBack, keeps_iff]

@[simp] theorem execScrubRead_keeps (c : CoreId) (bank : Fin 128) (upset : Check) : Out.Keeps s (execScrubRead c bank upset s) := by
  simp [execScrubRead, keeps_iff]

@[simp] theorem execCorePowerGating_keeps (c : CoreId) : Out.Keeps s (execCorePowerGating c s) := by
  simp [execCorePowerGating, keeps_iff]

@[simp] theorem execCoreWake_keeps (c : CoreId) : Out.Keeps s (execCoreWake c s) := by
  unfold execCoreWake
  (repeat' split) <;> simp [keeps_iff]

@[simp] theorem execPutWordArrival_keeps (c : CoreId) : Out.Keeps s (execPutWordArrival c s) := by
  unfold execPutWordArrival
  (repeat' split) <;> simp [keeps_iff]

@[simp] theorem execCrumb_keeps (c : CoreId) : Out.Keeps s (execCrumb c s) := by
  unfold execCrumb
  (repeat' split) <;> simp [keeps_iff]

@[simp] theorem execFenceProbe_keeps (c : CoreId) : Out.Keeps s (execFenceProbe c s) := by
  unfold execFenceProbe
  (repeat' split) <;> simp [keeps_iff]

@[simp] theorem execProbeAnswer_keeps (c : CoreId) : Out.Keeps s (execProbeAnswer c s) := by
  unfold execProbeAnswer
  (repeat' split) <;> simp [keeps_iff]

@[simp] theorem execRouterSlot_keeps (crcBad : List (Site × Dir)) : Out.Keeps s (execRouterSlot crcBad s) := by
  simp [execRouterSlot, keeps_iff]

@[simp] theorem execStreamFlitArrival_keeps (c : CoreId) : Out.Keeps s (execStreamFlitArrival c s) := by
  unfold execStreamFlitArrival
  (repeat' split) <;> simp [keeps_iff]

@[simp] theorem execDraughtFlitArrival_keeps (c : CoreId) : Out.Keeps s (execDraughtFlitArrival c s) := by
  unfold execDraughtFlitArrival
  (repeat' split) <;> simp [keeps_iff]

@[simp] theorem execScheduleCommit_keeps (site : Site) (base period c0 tenant mask density epoch : Nat) :
    Out.Keeps s (execScheduleCommit site base period c0 tenant mask density epoch s) := by
  unfold execScheduleCommit
  (repeat' split) <;> simp [keeps_iff]

@[simp] theorem execScheduleSwitch_keeps (site : Site) : Out.Keeps s (execScheduleSwitch site s) := by
  unfold execScheduleSwitch
  (repeat' split) <;> simp [keeps_iff]

@[simp] theorem execStopMaskApply_keeps : Out.Keeps s (execStopMaskApply s) := by
  simp [execStopMaskApply, keeps_iff]

@[simp] theorem execStreamStopWord_keeps (site : Site) (stream : Nat) (stop : Bool) : Out.Keeps s (execStreamStopWord site stream stop s) := by
  unfold execStreamStopWord
  (repeat' split) <;> simp [keeps_iff]

@[simp] theorem execStreamStopApply_keeps : Out.Keeps s (execStreamStopApply s) := by
  simp [execStreamStopApply, keeps_iff]

@[simp] theorem execDraughtCompile_keeps (plan : DraughtPlan) : Out.Keeps s (execDraughtCompile plan s) := by
  simp [execDraughtCompile, keeps_iff]

@[simp] theorem execSyncNetworkTurn_keeps (c : CoreId) : Out.Keeps s (execSyncNetworkTurn c s) := by
  unfold execSyncNetworkTurn
  (repeat' split) <;> simp [keeps_iff]

@[simp] theorem execRemoteSignalApply_keeps : Out.Keeps s (execRemoteSignalApply s) := by
  unfold execRemoteSignalApply
  (repeat' split) <;> simp [keeps_iff]

@[simp] theorem execRegisterWrite_keeps (reg : BarReg) (val : U64) : Out.Keeps s (execRegisterWrite reg val s) := by
  unfold execRegisterWrite
  (repeat' split) <;> simp [keeps_iff]

@[simp] theorem execRingEnable_keeps (r : Fin 64) (val : U64) : Out.Keeps s (execRingEnable r val s) := by
  simp [execRingEnable, keeps_iff]

@[simp] theorem execRingDisable_keeps (r : Fin 64) (val : U64) : Out.Keeps s (execRingDisable r val s) := by
  simp [execRingDisable, keeps_iff]

@[simp] theorem execTail_keeps (r : Fin 64) (val : U32) : Out.Keeps s (execTail r val s) := by
  simp [execTail, keeps_iff]

@[simp] theorem execChead_keeps (r : Fin 64) (val : U32) : Out.Keeps s (execChead r val s) := by
  simp [execChead, keeps_iff]

@[simp] theorem execDescriptorAccept_keeps (r : Fin 64) (host : List Host.Cell) : Out.Keeps s (execDescriptorAccept r host s) := by
  unfold execDescriptorAccept
  dsimp only
  (repeat' split) <;> simp +contextual [keeps_iff]

@[simp] theorem execCancel_keeps (r : Fin 64) (index : U32) : Out.Keeps s (execCancel r index s) := by
  simp [execCancel, keeps_iff]

@[simp] theorem execReadinessPass_keeps : Out.Keeps s (execReadinessPass s) := by
  refine keeps_next.2 (Keeps.trans ?_ (keeps_foldl (fun u r => keeps_of_outer (raiseDue_outer r)) _))
  refine Keeps.trans ?_ (keeps_foldl (keeps_passRing keeps_letStart) _)
  refine Keeps.trans ?_ (keeps_foldl (keeps_passRing keeps_readyItem) _)
  exact keeps_foldl (fun u r => by simp +contextual [keeps_iff]) _

@[simp] theorem execNopItem_keeps (r : Fin 64) (i : U32) : Out.Keeps s (execNopItem r i s) := by
  exact keeps_next.2 (keeps_startItem fun _ _ => keeps_endItem _ _ _ _)

@[simp] theorem execLoad_keeps (r : Fin 64) (i : U32) (host : List Host.Cell) : Out.Keeps s (execLoad r i host s) := by
  refine keeps_next.2 ((keeps_mergeHost host).trans (keeps_startItem fun t x => ?_))
  refine (keeps_of_outer (readDva_outer (t.workRing r).ptRoot.toNat [] 4 t (wdArg0 x.desc))).trans ?_
  dsimp only
  (repeat' split) <;> simp +contextual [keeps_iff]

@[simp] theorem execPlacementComplete_keeps (b : Nat) (p : Placement) : Out.Keeps s (execPlacementComplete b p s) := by
  unfold execPlacementComplete
  dsimp only
  (repeat' split) <;> simp +contextual [keeps_iff]

@[simp] theorem execRun_keeps (r : Fin 64) (i : U32) (host : List Host.Cell) : Out.Keeps s (execRun r i host s) := by
  refine keeps_next.2 ((keeps_mergeHost host).trans (keeps_startItem fun t x => keeps_onBake fun t b => ?_))
  dsimp only
  (repeat' split) <;> simp +contextual [keeps_iff]

@[simp] theorem execUnload_keeps (r : Fin 64) (i : U32) : Out.Keeps s (execUnload r i s) := by
  have hstart : Keeps s (startItem s r i 3 fun t x =>
      if namedSlot t r (wdBake x.desc) x.lref = .waiting then unloadWaiting t r x
      else onBake t r x fun t b =>
        let t := if (t.bake b).item.isSome && !(t.bake b).absorbed then fence t b 0 true else t
        let before := (earlier (t.workRing r) x).map (·.index)
        let t := endItems t b (fun j => before.contains j) 7 0
        endItem (emptySlot t b) r i 0 0) := by
    refine keeps_startItem fun t x => ?_
    split
    · simp +contextual [keeps_iff]
    · refine keeps_onBake fun t b => ?_
      dsimp only
      have hfree : ∀ (u : State) (pick : U32 → Bool), Keeps u (endItem (emptySlot (endItems u b pick 7 0) b) r i 0 0) := fun u pick =>
        ((keeps_endItems u b pick 7 0).trans (keeps_of_outer (emptySlot_outer b))).trans (keeps_endItem r i 0 0)
      split
      · exact (keeps_fence t b 0 true).trans (hfree _ _)
      · exact hfree _ _
  unfold execUnload
  dsimp only
  split
  · exact keeps_next.2 (Keeps.refl s)
  · refine keeps_next.2 ?_
    split
    all_goals split
    · exact Keeps.refl s
    · exact hstart
    · exact Keeps.refl s
    · exact hstart

@[simp] theorem execMigrate_keeps (r : Fin 64) (i : U32) : Out.Keeps s (execMigrate r i s) := by
  refine keeps_next.2 (keeps_startItem fun t x => keeps_onBake fun t b => ?_)
  split
  next u hu => exact keeps_of_outer (startMigration_outer hu)
  next => exact keeps_endInvalid _ _ _

@[simp] theorem execSignal_keeps (r : Fin 64) (i : U32) : Out.Keeps s (execSignal r i s) := by
  refine keeps_next.2 (keeps_startItem fun t x => keeps_onBake fun t b => ?_)
  dsimp only
  split
  · exact keeps_endInvalid _ _ _
  · exact (keeps_of_outer (signalObj_outer _)).trans (keeps_endItem _ _ _ _)

@[simp] theorem execStepCommit_keeps (b : Nat) : Out.Keeps s (execStepCommit b s) := by
  have hraise : ∀ (l : List W256) (u : State), Keeps u (l.foldl (fun u w => raiseS u 0x6010 b 2 (ckTensor w)) u) :=
    fun l u => keeps_foldl (fun u w => keeps_of_outer (raiseS_outer _ _ _ _)) l
  have hwait : Keeps s (countWait s b) := keeps_of_outer (countWait_outer b)
  refine keeps_onSlot ?_
  dsimp only
  (repeat' split)
  · exact Keeps.refl s
  · exact keeps_of_outer (State_modBake_outer _ _)
  · exact (hwait.trans (hraise _ _)).trans (keeps_of_outer (trigger_outer _ _))
  · exact (hwait.trans (hraise _ _)).trans (keeps_beginCommit _ _)

@[simp] theorem execCopyOutComplete_keeps (b : Nat) : Out.Keeps s (execCopyOutComplete b s) := by
  refine keeps_onSlot ?_
  dsimp only
  (repeat' split) <;> simp +contextual [keeps_iff]

@[simp] theorem execCompletionRecordWrite_keeps (r : Fin 64) : Out.Keeps s (execCompletionRecordWrite r s) := by
  unfold execCompletionRecordWrite
  dsimp only
  (repeat' split) <;> simp +contextual [keeps_iff]

@[simp] theorem execEpochFence_keeps (b reason : Nat) : Out.Keeps s (execEpochFence b reason s) := by
  refine keeps_onSlot ?_
  dsimp only
  split <;> simp +contextual [keeps_iff]

@[simp] theorem execRePlacement_keeps (b row : Nat) (canComplete : Bool) : Out.Keeps s (execRePlacement b row canComplete s) := by
  unfold execRePlacement
  dsimp only
  (repeat' split) <;> simp +contextual [keeps_iff]

@[simp] theorem execBakeTimeout_keeps (b : Nat) : Out.Keeps s (execBakeTimeout b s) := by
  simp [execBakeTimeout, keeps_iff]

@[simp] theorem execMigrationTarget_keeps (master : U8) (b t : Nat) : Out.Keeps s (execMigrationTarget master b t s) := by
  unfold execMigrationTarget
  (repeat' split) <;> simp +contextual [keeps_iff]

@[simp] theorem execMigrationSwitch_keeps (b : Nat) (p : Placement) : Out.Keeps s (execMigrationSwitch b p s) := by
  unfold execMigrationSwitch
  dsimp only
  (repeat' split) <;> simp +contextual [keeps_iff]

@[simp] theorem execPhaseChange_keeps (b ph : Nat) : Out.Keeps s (execPhaseChange b ph s) := by
  unfold execPhaseChange
  dsimp only
  (repeat' split) <;> simp +contextual [keeps_iff]

@[simp] theorem execInvAddr_keeps (val : U64) : Out.Keeps s (execInvAddr val s) := by
  unfold execInvAddr
  (repeat' split) <;> simp [keeps_iff]

@[simp] theorem execInvalidationComplete_keeps : Out.Keeps s (execInvalidationComplete s) := by
  unfold execInvalidationComplete
  (repeat' split) <;> simp +contextual [keeps_iff]

@[simp] theorem execDmaDescriptorStart_keeps (host : List Host.Cell) (atsDenied : List Nat) (ups : List (Nat × StackUpset)) :
    Out.Keeps s (execDmaDescriptorStart host atsDenied ups s) := by
  unfold execDmaDescriptorStart
  dsimp only
  refine Out.Keeps.after (keeps_mergeHost host) ?_
  (repeat' split) <;> simp +contextual [keeps_iff]

@[simp] theorem execDmaDescriptorComplete_keeps (id : Nat) : Out.Keeps s (execDmaDescriptorComplete id s) := by
  unfold execDmaDescriptorComplete
  (repeat' split) <;> simp +contextual [keeps_iff]

@[simp] theorem execTranslationFault_keeps (id dva cause : Nat) : Out.Keeps s (execTranslationFault id dva cause s) := by
  unfold execTranslationFault
  (repeat' split) <;> simp +contextual [keeps_iff]

@[simp] theorem execPriResponse_keeps (seq : U32) (success : Bool) : Out.Keeps s (execPriResponse seq success s) := by
  unfold execPriResponse
  dsimp only
  (repeat' split) <;> simp +contextual [keeps_iff]

@[simp] theorem execRetry_keeps (seq : U32) (host : List Host.Cell) (atsDenied : List Nat) : Out.Keeps s (execRetry seq host atsDenied s) := by
  unfold execRetry
  dsimp only
  (repeat' split) <;> simp +contextual [keeps_iff]

@[simp] theorem execFaultPaging_keeps (b : Nat) : Out.Keeps s (execFaultPaging b s) := by
  refine keeps_onSlot ?_
  split
  · exact Keeps.refl s
  · refine keeps_foldl (fun u d => ?_) _
    (repeat' split) <;> simp +contextual [keeps_iff]

@[simp] theorem execFaultHoldExpiry_keeps (b : Nat) : Out.Keeps s (execFaultHoldExpiry b s) := by
  refine keeps_onSlot ?_
  dsimp only
  (repeat' split) <;> simp +contextual [keeps_iff]

@[simp] theorem execChannelRetrain_keeps (ch waitCycles : Nat) : Out.Keeps s (execChannelRetrain ch waitCycles s) := by
  unfold execChannelRetrain
  (repeat' split) <;> simp +contextual [keeps_iff]

@[simp] theorem execChannelRetirement_keeps (ch : Nat) (planned : Bool) (moves : List (Nat × Nat × Nat × Nat × Nat)) (cached : List Nat) :
    Out.Keeps s (execChannelRetirement ch planned moves cached s) := by
  refine keeps_onUnit ?_
  dsimp only
  (repeat' split)
  · exact Keeps.refl s
  · exact (keeps_foldl (fun u m => keeps_moveGranules u ch m) moves).trans (keeps_retireChannel _ ch true cached)
  · exact Keeps.refl s
  · exact (keeps_retireChannel s ch false cached).trans (keeps_loseContents _ ch)

@[simp] theorem execStackRetirement_keeps (stack : Fin 20) (cached : List Nat) : Out.Keeps s (execStackRetirement stack cached s) := by
  have hchan : ∀ (l : List Nat) (u : State),
      Keeps u (l.foldl (fun t c => t.modChan (32 * stack.val + c) fun q => { q with state := 2 }) u) :=
    fun l u => keeps_foldl (fun u c => by simp +contextual [keeps_iff]) l
  unfold execStackRetirement
  dsimp only
  split
  · exact keeps_next.2 (Keeps.refl s)
  · refine keeps_next.2 (Keeps.trans ?_ (keeps_foldl (fun u c => keeps_loseContents u (32 * stack.val + c)) _))
    refine Keeps.trans (t := { s with hbm := { s.hbm with state := mset 0 s.hbm.state stack.val 1 } }) ⟨rfl, fuseGrown_refl _, id, id⟩ ?_
    refine (hchan ((List.range 32).filter fun c => chanServes s (32 * stack.val + c)) _).trans ?_
    split <;> simp +contextual [keeps_iff]

@[simp] theorem execLedgerCopyRebuild_keeps (south : Bool) (poisoned : List (Fin 64 × U32)) :
    Out.Keeps s (execLedgerCopyRebuild south poisoned s) := by
  unfold execLedgerCopyRebuild
  dsimp only
  generalize ((if south then s.hbm.copyB else s.hbm.copyA) || s.hbm.oneCopy || decide (ledgerStacks s south < 3)) = done
  cases done with
  | true => exact keeps_next.2 (Keeps.refl s)
  | false =>
    refine keeps_next.2 (Keeps.trans ?_ (keeps_of_outer (raiseS_outer _ _ _ _)))
    refine Keeps.trans (t := { s with hbm := { s.hbm with copyA := s.hbm.copyA || !south, copyB := s.hbm.copyB || south } })
      ⟨rfl, fuseGrown_refl _, id, id⟩ (keeps_foldl (fun u e => ?_) _)
    (repeat' split) <;> simp +contextual [keeps_iff]

@[simp] theorem execPortTraining_keeps (p : Fin 12) (goodLanes : List Nat) : Out.Keeps s (execPortTraining p goodLanes s) := by
  simp [execPortTraining, keeps_iff]

@[simp] theorem execTrain_keeps (p : Fin 12) (i : TrainInfo) : Out.Keeps s (execTrain p i s) := by
  simp [execTrain, keeps_iff]

@[simp] theorem execSequencedFrameReceive_keeps (p : Fin 12) (f : Frame) : Out.Keeps s (execSequencedFrameReceive p f s) := by
  simp [execSequencedFrameReceive, keeps_iff]

@[simp] theorem execAck_keeps (p : Fin 12) (f : Frame) : Out.Keeps s (execAck p f s) := by
  simp [execAck, keeps_iff]

@[simp] theorem execFrameTransmit_keeps (p : Fin 12) : Out.Keeps s (execFrameTransmit p s) := by
  unfold execFrameTransmit
  dsimp only
  (repeat' split) <;> simp [keeps_iff]

@[simp] theorem execReplayTimerExpiry_keeps (p : Fin 12) : Out.Keeps s (execReplayTimerExpiry p s) := by
  simp [execReplayTimerExpiry, keeps_iff]

@[simp] theorem execAckDeadlineInterval_keeps (p : Fin 12) : Out.Keeps s (execAckDeadlineInterval p s) := by
  simp [execAckDeadlineInterval, keeps_iff]

@[simp] theorem execPortDown_keeps (p : Fin 12) : Out.Keeps s (execPortDown p s) := by
  simp [execPortDown, keeps_iff]

@[simp] theorem execPmaLockLoss_keeps (p : Fin 12) (lanes : Nat) : Out.Keeps s (execPmaLockLoss p lanes s) := by
  simp [execPmaLockLoss, keeps_iff]

@[simp] theorem execLaneFailure_keeps (p : Fin 12) (lane : Fin 13) : Out.Keeps s (execLaneFailure p lane s) := by
  simp [execLaneFailure, keeps_iff]

@[simp] theorem execPortEnable_keeps (master : U8) (p : Fin 12) (en : Bool) : Out.Keeps s (execPortEnable master p en s) := by
  simp +contextual [execPortEnable, keeps_iff]

@[simp] theorem execFrameForward_keeps (p : Fin 12) : Out.Keeps s (execFrameForward p s) := by
  unfold execFrameForward
  dsimp only
  (repeat' split) <;> simp [keeps_iff]

@[simp] theorem execBridgeFlitArrival_keeps (chiplet : Fin 4) (f : Flit) (chan : Option Nat) :
    Out.Keeps s (execBridgeFlitArrival chiplet f chan s) := by
  unfold execBridgeFlitArrival
  (repeat' split) <;> simp [keeps_iff]

@[simp] theorem execData_keeps (p : Fin 12) : Out.Keeps s (execData p s) := by
  unfold execData
  (repeat' split) <;> simp +contextual [keeps_iff]

@[simp] theorem execHeldFrameTimeout_keeps (p : Fin 12) : Out.Keeps s (execHeldFrameTimeout p s) := by
  unfold execHeldFrameTimeout
  (repeat' split) <;> simp [keeps_iff]

@[simp] theorem execReinc_keeps (p : Fin 12) : Out.Keeps s (execReinc p s) := by
  unfold execReinc
  (repeat' split) <;> simp [keeps_iff]

@[simp] theorem execChannelTableWrite_keeps (n : Fin 4096) (val : U64) : Out.Keeps s (execChannelTableWrite n val s) := by
  simp [execChannelTableWrite, keeps_iff]

@[simp] theorem execBrokerInterval_keeps (k : U64) (slack : U32) : Out.Keeps s (execBrokerInterval k slack s) := by
  simp [execBrokerInterval, keeps_iff]

@[simp] theorem execBroker_keeps (p : Fin 12) (micros : Nat) : Out.Keeps s (execBroker p micros s) := by
  unfold execBroker
  (repeat' split) <;> simp [keeps_iff]

@[simp] theorem execBrokerAllocation_keeps : Out.Keeps s (execBrokerAllocation s) := by
  unfold execBrokerAllocation
  (repeat' split) <;> simp [keeps_iff]

@[simp] theorem execDigestSend_keeps : Out.Keeps s (execDigestSend s) := by
  simp [execDigestSend, keeps_iff]

@[simp] theorem execDigest_keeps (p : Fin 12) : Out.Keeps s (execDigest p s) := by
  unfold execDigest
  (repeat' split) <;> simp [keeps_iff]

@[simp] theorem execDigestMismatchHold_keeps (p : Fin 12) : Out.Keeps s (execDigestMismatchHold p s) := by
  simp [execDigestMismatchHold, keeps_iff]

@[simp] theorem execManagementFrame_keeps (p : Fin 2) (frame : List Byte) : Out.Keeps s (execManagementFrame p frame s) := by
  unfold execManagementFrame
  (repeat' split) <;> simp +contextual [keeps_iff]

@[simp] theorem execDictDb_keeps : Out.Keeps s (execDictDb s) := by
  have hrun : ∀ ver, ∀ (u : State) (n : Nat) (r : Request), Keeps u (runRequest u 0 ver n r).2.2 := fun ver u n r => by
    simp +contextual [keeps_iff]
  unfold execDictDb
  dsimp only
  (repeat' split)
  · exact keeps_next.2 ⟨rfl, fuseGrown_refl _, id, id⟩
  · exact keeps_next.2 ((keeps_answer (hrun _) _).trans ⟨rfl, fuseGrown_refl _, id, id⟩)
  · exact keeps_next.2 ((keeps_answer (fun u n r => by simp [keeps_iff]) _).trans ⟨rfl, fuseGrown_refl _, id, id⟩)

@[simp] theorem execSemaphoreAcquire_keeps (master id : U8) : Out.Keeps s (execSemaphoreAcquire master id s) := by
  simp +contextual [execSemaphoreAcquire, keeps_iff]

@[simp] theorem execSemaphoreRelease_keeps (master : U8) : Out.Keeps s (execSemaphoreRelease master s) := by
  simp +contextual [execSemaphoreRelease, keeps_iff]

@[simp] theorem execLeaseExpiry_keeps : Out.Keeps s (execLeaseExpiry s) := by
  simp [execLeaseExpiry, keeps_iff]

@[simp] theorem execWindowOpen_keeps (master : U8) : Out.Keeps s (execWindowOpen master s) := by
  simp +contextual [execWindowOpen, keeps_iff]

@[simp] theorem execWindowClose_keeps (master : U8) : Out.Keeps s (execWindowClose master s) := by
  simp +contextual [execWindowClose, keeps_iff]

@[simp] theorem execWindowExpiry_keeps : Out.Keeps s (execWindowExpiry s) := by
  simp [execWindowExpiry, keeps_iff]

@[simp] theorem execCommit_keeps (master set : U8) : Out.Keeps s (execCommit master set s) := by
  simp +contextual [execCommit, keeps_iff]

@[simp] theorem execDiscard_keeps (master set : U8) : Out.Keeps s (execDiscard master set s) := by
  simp +contextual [execDiscard, keeps_iff]

@[simp] theorem execCommitApplication_keeps (set : U8) : Out.Keeps s (execCommitApplication set s) := by
  exact keeps_next.2 (keeps_iff.2 ⟨by simp, applyDue_grown _, fun h => by simp [h], fun h => by simp [h]⟩)

@[simp] theorem execFirmwareMessage_keeps (port : Option (Fin 12)) (m : FwMsg) : Out.Keeps s (execFirmwareMessage port m s) := by
  unfold execFirmwareMessage
  (repeat' split) <;> simp [keeps_iff]

@[simp] theorem execMessageResend_keeps (srcm dstm : U8) (mseq : U16) : Out.Keeps s (execMessageResend srcm dstm mseq s) := by
  unfold execMessageResend
  (repeat' split) <;> simp [keeps_iff]

@[simp] theorem execGo_keeps (k : Fin 256) (master : U8) (v : U32) : Out.Keeps s (execGo k master v s) := by
  simp [execGo, keeps_iff]

@[simp] theorem execDone_keeps (k : Fin 256) (master : U8) : Out.Keeps s (execDone k master s) := by
  simp [execDone, keeps_iff]

@[simp] theorem execMailboxRegisterWrite_keeps (k : Fin 256) (j : Fin 16) (master : U8) (v : U32) :
    Out.Keeps s (execMailboxRegisterWrite k j master v s) := by
  simp [execMailboxRegisterWrite, keeps_iff]

@[simp] theorem execPtpSyncMessage_keeps (port : Fin 2) (offset : Int) (utcNs : Nat) : Out.Keeps s (execPtpSyncMessage port offset utcNs s) := by
  simp [execPtpSyncMessage, keeps_iff]

@[simp] theorem execPtpStateChange_keeps (port : U8) (sinceSyncMs lockedForMs : Nat) :
    Out.Keeps s (execPtpStateChange port sinceSyncMs lockedForMs s) := by
  simp [execPtpStateChange, keeps_iff]

@[simp] theorem execLeapSecond_keeps : Out.Keeps s (execLeapSecond s) := by
  simp [execLeapSecond, keeps_iff]

@[simp] theorem execCalendarWrite_keeps (master : U8) (d : Date) : Out.Keeps s (execCalendarWrite master d s) := by
  unfold execCalendarWrite
  (repeat' split) <;> simp +contextual [keeps_iff]

@[simp] theorem execCalendarEnd_keeps : Out.Keeps s (execCalendarEnd s) := by
  simp [execCalendarEnd, keeps_iff]

@[simp] theorem execCopyBWrite_keeps : Out.Keeps s (execCopyBWrite s) := by
  simp [execCopyBWrite, keeps_iff]

@[simp] theorem execRescueFrame_keeps (p : Fin 2) (frame : List Byte) : Out.Keeps s (execRescueFrame p frame s) := by
  unfold execRescueFrame
  dsimp only
  (repeat' split)
  · exact keeps_next.2 (Keeps.refl s)
  · exact keeps_next.2 (keeps_of_outer (modMgmt_outer _ _))
  · exact keeps_next.2 ((keeps_answer (fun u n r => by simp +contextual [keeps_iff]) _).trans (keeps_of_outer (modMgmt_outer _ _)))

@[simp] theorem execStepUp_keeps (n : Fin 16) (mhz : Nat) : Out.Keeps s (execStepUp n mhz s) := by
  simp [execStepUp, keeps_iff]

@[simp] theorem execStepDown_keeps (n : Fin 16) (mhz : Nat) : Out.Keeps s (execStepDown n mhz s) := by
  simp [execStepDown, keeps_iff]

@[simp] theorem execVoltageSettleTimeout_keeps (n : Fin 16) : Out.Keeps s (execVoltageSettleTimeout n s) := by
  simp [execVoltageSettleTimeout, keeps_iff]

@[simp] theorem execHearthFreeze_keeps (n : Fin 16) : Out.Keeps s (execHearthFreeze n s) := by
  unfold execHearthFreeze
  (repeat' split) <;> simp [keeps_iff]

@[simp] theorem execGeneratorLock_keeps (n : Fin 16) : Out.Keeps s (execGeneratorLock n s) := by
  unfold execGeneratorLock
  dsimp only
  (repeat' split) <;> simp [keeps_iff]

@[simp] theorem execClockStretch_keeps (n : Fin 16) (r : Nat) (on : Bool) : Out.Keeps s (execClockStretch n r on s) := by
  simp [execClockStretch, keeps_iff]

@[simp] theorem execMarginWindow_keeps (n : Fin 16) (codes : List (Site × List Nat)) : Out.Keeps s (execMarginWindow n codes s) := by
  simp [execMarginWindow, keeps_iff]

@[simp] theorem execMarginEmergency_keeps (n : Fin 16) (code : Nat) (aboveLoFor1us : Bool) :
    Out.Keeps s (execMarginEmergency n code aboveLoFor1us s) := by
  simp [execMarginEmergency, keeps_iff]

@[simp] theorem execCapControllerRun_keeps (avg est : F32) (belowFor100us aboveFor10ms : Bool) (aboveUs : U32) :
    Out.Keeps s (execCapControllerRun avg est belowFor100us aboveFor10ms aboveUs s) := by
  simp [execCapControllerRun, keeps_iff]

@[simp] theorem execRailCurrentLimit_keeps (n : Fin 16) (avgA estA : Nat) (below1050for1ms : Bool) :
    Out.Keeps s (execRailCurrentLimit n avgA estA below1050for1ms s) := by
  simp [execRailCurrentLimit, keeps_iff]

@[simp] theorem execJunctionSensorRead_keeps (n : Fin 16) (hottest : F32) (at100us : Bool) :
    Out.Keeps s (execJunctionSensorRead n hottest at100us s) := by
  simp [execJunctionSensorRead, keeps_iff]

@[simp] theorem execAvsbusTelemetryRead_keeps (rail : Fin 22) (r : Option (F32 × F32)) : Out.Keeps s (execAvsbusTelemetryRead rail r s) := by
  unfold execAvsbusTelemetryRead
  dsimp only
  (repeat' split) <;> simp [keeps_iff]

@[simp] theorem execStatusWord_keeps (rail : Fin 22) (w : U16) : Out.Keeps s (execStatusWord rail w s) := by
  simp [execStatusWord, keeps_iff]

@[simp] theorem execBoost_keeps (n : Fin 16) (amps : F32) (over_ : Bool) : Out.Keeps s (execBoost n amps over_ s) := by
  simp [execBoost, keeps_iff]

@[simp] theorem execShunt_keeps (n : Fin 16) (over_ : Bool) : Out.Keeps s (execShunt n over_ s) := by
  simp [execShunt, keeps_iff]

@[simp] theorem execSwitchOff_keeps (master : U8) (n : Fin 16) : Out.Keeps s (execSwitchOff master n s) := by
  simp +contextual [execSwitchOff, keeps_iff]

@[simp] theorem execSwitchOn_keeps (master : U8) (n : Fin 16) : Out.Keeps s (execSwitchOn master n s) := by
  simp +contextual [execSwitchOn, keeps_iff]

@[simp] theorem execUndervoltageTrip_keeps (n : Fin 16) : Out.Keeps s (execUndervoltageTrip n s) := by
  simp [execUndervoltageTrip, keeps_iff]

@[simp] theorem execOvervoltage_keeps (n : Fin 16) : Out.Keeps s (execOvervoltage n s) := by
  simp [execOvervoltage, keeps_iff]

@[simp] theorem execHearthLossDeclaration_keeps (n : Fin 16) : Out.Keeps s (execHearthLossDeclaration n s) := by
  simp [execHearthLossDeclaration, keeps_iff]

@[simp] theorem execFixedRailFault_keeps (rail : Fin 22) : Out.Keeps s (execFixedRailFault rail s) := by
  unfold execFixedRailFault
  (repeat' split) <;> simp [keeps_iff]

@[simp] theorem execPmbusLoss_keeps (bus : Fin 2) : Out.Keeps s (execPmbusLoss bus s) := by
  simp [execPmbusLoss, keeps_iff]

@[simp] theorem execSafeHold_keeps (n : Fin 16) : Out.Keeps s (execSafeHold n s) := by
  simp [execSafeHold, keeps_iff]

@[simp] theorem execSafeHoldEnd_keeps (n : Fin 16) : Out.Keeps s (execSafeHoldEnd n s) := by
  simp [execSafeHoldEnd, keeps_iff]

@[simp] theorem execRailUnmanaged_keeps (n : Fin 16) : Out.Keeps s (execRailUnmanaged n s) := by
  simp [execRailUnmanaged, keeps_iff]

@[simp] theorem execReturnToManaged_keeps (master : U8) (n : Fin 16) : Out.Keeps s (execReturnToManaged master n s) := by
  simp +contextual [execReturnToManaged, keeps_iff]

@[simp] theorem execFwWinWrite_keeps (off : Nat) (bytes : List Byte) : Out.Keeps s (execFwWinWrite off bytes s) := by
  simp [execFwWinWrite, keeps_iff]

@[simp] theorem execFwCtlGo_keeps (test : SelfTest) (plan : DraughtPlan) (bindings : List (Fin 256 × U32)) :
    Out.Keeps s (execFwCtlGo test plan bindings s) := by
  unfold execFwCtlGo
  dsimp only
  (repeat' split) <;> simp +contextual [keeps_iff]

@[simp] theorem execCoreReset_keeps (c : CoreId) (test : SelfTest) : Out.Keeps s (execCoreReset c test s) := by
  simp +contextual [execCoreReset, keeps_iff]

@[simp] theorem execHearthReset_keeps (n : Fin 16) (test : SelfTest) : Out.Keeps s (execHearthReset n test s) := by
  unfold execHearthReset
  (repeat' split) <;> simp +contextual [keeps_iff]

@[simp] theorem execRectangleReset_keeps (t : Nat) (test : SelfTest) : Out.Keeps s (execRectangleReset t test s) := by
  simp +contextual [execRectangleReset, keeps_iff]

@[simp] theorem execWarmReset_keeps (test : SelfTest) (romW romE : Bool) : Out.Keeps s (execWarmReset test romW romE s) := by
  unfold execWarmReset
  dsimp only
  (repeat' split) <;> simp +contextual [keeps_iff]

@[simp] theorem execWholeDeviceReset_keeps (o : BootObs) : Out.Keeps s (execWholeDeviceReset o s) := by
  have hfuse : FuseGrown s.fuse { s.fuse with badA := o.badA, badB := o.badB } := fuseGrown_copies _ _ _
  unfold execWholeDeviceReset
  dsimp only
  (repeat' split) <;> simp +contextual [keeps_iff, hfuse]

@[simp] theorem execResetBoundary_keeps (a : ResetScope) (b : Boundary) : Out.Keeps s (execResetBoundary a b s) := by
  unfold execResetBoundary
  (repeat' split) <;> simp +contextual [keeps_iff]

@[simp] theorem execEmberTimerExpiry_keeps (m : Nat) (crash : List Byte) (recent : Nat) :
    Out.Keeps s (execEmberTimerExpiry m crash recent s) := by
  unfold execEmberTimerExpiry
  dsimp only
  (repeat' split) <;> simp [keeps_iff]

@[simp] theorem execStokerTakeover_keeps : Out.Keeps s (execStokerTakeover s) := by
  simp [execStokerTakeover, keeps_iff]

@[simp] theorem execJournalCopy_keeps : Out.Keeps s (execJournalCopy s) := by
  simp [execJournalCopy, keeps_iff]

@[simp] theorem execRescueEntry_keeps : Out.Keeps s (execRescueEntry s) := by
  simp [execRescueEntry, keeps_iff]

@[simp] theorem execRescueReset_keeps (level : Nat) : Out.Keeps s (execRescueReset level s) := by
  simp +contextual [execRescueReset, keeps_iff]

@[simp] theorem execFirmwareReload_keeps : Out.Keeps s (execFirmwareReload s) := by
  simp +contextual [execFirmwareReload, keeps_iff]

@[simp] theorem execDigestComplete_keeps (b : Nat) : Out.Keeps s (execDigestComplete b s) := by
  unfold execDigestComplete
  dsimp only
  (repeat' split) <;> simp +contextual [keeps_iff]

@[simp] theorem execReplicaReport_keeps (b m : Nat) (r : ReplicaReport) : Out.Keeps s (execReplicaReport b m r s) := by
  simp [execReplicaReport, keeps_iff]

@[simp] theorem execCheckResolution_keeps (b : Nat) (windowRan : Bool) : Out.Keeps s (execCheckResolution b windowRan s) := by
  have hraise : ∀ (n : Nat) (l : List Nat) (u : State),
      Keeps u (l.foldl (fun u i => raiseS u 0x6002 b n (nth 0xFFFF (groupMembers s b) i)) u) :=
    fun n l u => keeps_foldl (fun u i => keeps_of_outer (raiseS_outer _ _ _ _)) l
  have hmod : ∀ f, Keeps s (s.modBake b f) := fun f => keeps_of_outer (State_modBake_outer _ _)
  have hnone : ∀ (p : Prop) [Decidable p] (u : State), Keeps u (if p then raiseS u 0x6002 b 2 0 else u) := fun p _ u => by
    split
    · exact keeps_of_outer (raiseS_outer _ _ _ _)
    · exact Keeps.refl u
  have hself : ∀ u : State, Keeps u ((if (u.bake b).item.isSome then fence u b 5 true else u).modBake b fun q => { q with state := 7 }) :=
    fun u => (by split <;> simp +contextual [keeps_iff])
  refine keeps_onSlot ?_
  dsimp only
  generalize majorityOf (activeMembers s b).length (countedValues s b) = maj
  refine keeps_ite (Keeps.refl s) (keeps_ite ?_ ?_)
  · exact (((((hmod _).trans (hraise _ _ _)).trans (hnone _ _)).trans (hraise _ _ _)).trans
      (keeps_of_outer (raiseS_outer 0x6002 b 3 (deviceId s)))).trans (hself _)
  · exact (((hmod _).trans (hraise _ _ _)).trans (hnone _ _)).trans (hraise _ _ _)

@[simp] theorem execBankWhole_keeps (b : Nat) : Out.Keeps s (execBankWhole b s) := by
  unfold execBankWhole
  (repeat' split) <;> simp +contextual [keeps_iff]

@[simp] theorem execBankHostCopyComplete_keeps (b : Nat) (ok : Bool) : Out.Keeps s (execBankHostCopyComplete b ok s) := by
  unfold execBankHostCopyComplete
  (repeat' split) <;> simp [keeps_iff]

@[simp] theorem execRestore_keeps (master : U8) (b area : Nat) : Out.Keeps s (execRestore master b area s) := by
  unfold execRestore
  (repeat' split) <;> simp +contextual [keeps_iff]

@[simp] theorem execEventRaise_keeps (index : U16) (sub sev src : U8) (arg : U64) : Out.Keeps s (execEventRaise index sub sev src arg s) := by
  simp [execEventRaise, keeps_iff]

@[simp] theorem execEventLogMove_keeps : Out.Keeps s (execEventLogMove s) := by
  unfold execEventLogMove
  (repeat' split) <;> simp [keeps_iff]

@[simp] theorem execAcknowledged_keeps (master : U8) (seq : U64) : Out.Keeps s (execAcknowledged master seq s) := by
  simp +contextual [execAcknowledged, keeps_iff]

@[simp] theorem execArm_keeps (index : U16) (sub : U8) : Out.Keeps s (execArm index sub s) := by
  simp [execArm, keeps_iff]

@[simp] theorem execFreeze_keeps (index : U16) (sub : U8) : Out.Keeps s (execFreeze index sub s) := by
  simp [execFreeze, keeps_iff]

@[simp] theorem execClear_keeps (index : U16) (sub : U8) : Out.Keeps s (execClear index sub s) := by
  simp [execClear, keeps_iff]

@[simp] theorem execClearAndArm_keeps (index : U16) (sub : U8) : Out.Keeps s (execClearAndArm index sub s) := by
  simp [execClearAndArm, keeps_iff]

@[simp] theorem execMonitorSample_keeps (index : U16) (sub : U8) (q : Nat) : Out.Keeps s (execMonitorSample index sub q s) := by
  simp [execMonitorSample, keeps_iff]

@[simp] theorem execProcessorRestart_keeps (m : Nat) : Out.Keeps s (execProcessorRestart m s) := by
  unfold execProcessorRestart
  dsimp only
  (repeat' split) <;> simp [keeps_iff]

@[simp] theorem execAtsInvalidation_keeps (iova size : Nat) : Out.Keeps s (execAtsInvalidation iova size s) := by
  simp [execAtsInvalidation, keeps_iff]

@[simp] theorem execFailedControllerEvent_keeps (m : Nat) : Out.Keeps s (execFailedControllerEvent m s) := by
  unfold execFailedControllerEvent
  (repeat' split) <;> simp [keeps_iff]

/-- No command takes anything back (R31, R440): for each, the lemma above that bears its name. -/
theorem exec_keeps (i : Instr) (s : State) : Out.Keeps s (exec i s) := by
  cases i <;> simp [exec]

theorem exec_next_keeps {i : Instr} (h : exec i s = .next t) : Keeps s t := by
  have hk := exec_keeps i s
  rwa [h] at hk

theorem memory_wf_iff : Memory.wf s = true ↔ HostWf s.host ∧ StacksWf s.hbm.words := by simp [Memory.wf, HostWf, StacksWf]

/-- A step of the block keeps what its command keeps; idling keeps everything. -/
theorem step_keeps_memory (h : Memory.wf s = true) (hstep : step s = .next t) : Memory.wf t = true := by
  obtain ⟨hhost, hwords⟩ := memory_wf_iff.1 h
  unfold step at hstep
  split at hstep
  · cases hstep
    exact h
  · have k := exec_next_keeps hstep
    exact memory_wf_iff.2 ⟨k.host hhost, k.words hwords⟩

/-- Settles O3, by what every command keeps of the two memories' form. -/
theorem everyStepKeepsMemoryCanonical : Obligations.EveryStepKeepsMemoryCanonical := fun _ _ h hstep => step_keeps_memory h hstep

/-- Settles O4, by what every command keeps of the queue and the fuses. -/
theorem everyCommandKeepsQueueAndFuses : Obligations.EveryCommandKeepsQueueAndFuses := fun _ _ _ h =>
  ⟨(exec_next_keeps h).queue, (exec_next_keeps h).fuse⟩

end Sys2Proof.Machine

/-! ### The state after reset -/

namespace Sys2Proof.Machine

/-- After reset no unit is listed, so each reads as the default of its kind. -/
theorem reset_workRing (r : Nat) : State.reset.workRing r = {} := rfl

theorem reset_hearth (n : Nat) : State.reset.hearth n = {} := rfl

/-- Settles O5: every unit of the reset state reads as its default, and the two settings as the dictionary's reset values. -/
theorem resetStateIsAtRest : Obligations.ResetStateIsAtRest := by
  refine ⟨rfl, rfl, rfl, rfl, rfl, rfl, rfl, rfl, by decide, by decide, fun _ => rfl, fun _ => rfl, fun r => ?_, fun n => ?_⟩
  · rw [reset_workRing]
    decide
  · rw [reset_hearth]
    decide

end Sys2Proof.Machine

/-! ### Steps at the head of a sequencer, and the signals they fire (R54, R135 to R138, R154, R156, R296) -/

namespace Sys2Proof.Machine

variable {s t u : State} {c : CoreId}

/-- Two states are equal where each of their parts is. -/
theorem state_eq_iff : s = t ↔ (s.fuse = t.fuse ∧ s.aon = t.aon ∧ s.mesh = t.mesh ∧ s.hearths = t.hearths ∧ s.rails = t.rails ∧
    s.power = t.power) ∧ (s.map = t.map ∧ s.cores = t.cores ∧ s.flue = t.flue ∧ s.baker = t.baker ∧ s.ring = t.ring ∧ s.hbm = t.hbm) ∧
    (s.host = t.host ∧ s.links = t.links ∧ s.ctl = t.ctl ∧ s.recov = t.recov ∧ s.integ = t.integ ∧ s.pending = t.pending) := by
  cases s
  cases t
  simp only [State.mk.injEq]
  tauto

/-! #### The head of a sequencer -/

theorem onCore_of_exists (h : coreExists s c = true) (t : State) : onCore s c t = .next t := if_pos h

/-- Each step command runs on its core what its step does there, behind the test of the head. -/
theorem exec_stepOf {i : Instr} {q : W256 → Bool} (h : stepOf i = some (c, q)) (s : State) :
    ∃ go, exec i s = onCore s c (atHead s c q go) := by
  cases i <;> cases h <;> exact ⟨_, rfl⟩

theorem atHead_idle {q : W256 → Bool} (h : seqRuns s c = false ∨ q (headStep (s.core c)) = false) (go : State) :
    atHead s c q go = s := by
  unfold atHead
  rcases h with h | h <;> simp [h]

theorem atHead_skips {q : W256 → Bool} (hrun : seqRuns s c = true) (hq : q (headStep (s.core c)) = true)
    (hskip : skips (s.core c) = true) (go : State) : atHead s c q go = s.modCore c fun k => k.walk k.seq := by
  simp [atHead, hrun, hq, hskip]

theorem atHead_waits {q : W256 → Bool} (hskip : skips (s.core c) = false) (hwait : canIssue s c = false) (go : State) :
    atHead s c q go = s := by
  simp [atHead, hskip, hwait]

theorem atHead_of_mayIssue {q : W256 → Bool} (h : MayIssue s c q) (go : State) : atHead s c q go = go := by
  obtain ⟨-, hrun, hq, hskip, hcan⟩ := h
  simp [atHead, hrun, hq, hskip, hcan]

/-- A step command whose step may issue does what its step does. -/
theorem onCore_atHead_of_mayIssue {q : W256 → Bool} (h : MayIssue s c q) (go : State) :
    onCore s c (atHead s c q go) = .next go := by
  rw [atHead_of_mayIssue h, onCore_of_exists h.1]

/-- Settles O22: every step command is the head's test before what its step does. -/
theorem stepsWaitAtTheHead : Obligations.StepsWaitAtTheHead := by
  intro s i c q hstep hc
  obtain ⟨go, hgo⟩ := exec_stepOf hstep s
  rw [hgo, onCore_of_exists hc]
  refine ⟨fun h => ?_, fun hrun hq hskip => ?_, fun _ _ hskip hwait => ?_⟩
  · rw [atHead_idle h]
  · rw [atHead_skips hrun hq hskip]
  · rw [atHead_waits hskip hwait]

/-! #### Signals -/

/-- From `s` to `u` sync objects, their mirrors, the refused signals and the sync queues alone have changed. -/
def SyncAlone (s u : State) : Prop :=
  u = { s with cores := u.cores, ring := u.ring } ∧ (∀ d, u.core d = { s.core d with sync := (u.core d).sync }) ∧
    u.ring = { s.ring with globals := u.ring.globals, mirrors := u.ring.mirrors, stale := u.ring.stale }

theorem SyncAlone.refl (s : State) : SyncAlone s s := ⟨rfl, fun _ => rfl, rfl⟩

theorem SyncAlone.trans (h : SyncAlone s t) (k : SyncAlone t u) : SyncAlone s u := by
  obtain ⟨h1, h2, h3⟩ := h
  obtain ⟨k1, k2, k3⟩ := k
  refine ⟨?_, fun d => ?_, ?_⟩
  · rw [k1, h1]
  · rw [k2 d, h2 d]
  · rw [k3, h3]

theorem syncAlone_modSync (s : State) (c : CoreId) (f : SyncUnit → SyncUnit) : SyncAlone s (s.modCore c fun k => k.modSync f) := by
  refine ⟨rfl, fun d => ?_, rfl⟩
  rw [State.modCore_core]
  split
  · subst d; rfl
  · rfl

theorem syncAlone_setSyncObj (s : State) (n : Nat) (o : SyncObj) : SyncAlone s (setSyncObj s n o) := by
  unfold setSyncObj
  split
  · exact ⟨rfl, fun _ => rfl, rfl⟩
  · exact syncAlone_modSync s _ _

theorem syncAlone_signalObj (s : State) (g : Sig) : SyncAlone s (signalObj s g) := by
  unfold signalObj
  dsimp only
  split
  · exact syncAlone_setSyncObj s _ _
  · exact ⟨rfl, fun _ => rfl, rfl⟩

theorem syncAlone_signals (l : List Sig) (s : State) : SyncAlone s (l.foldl signalObj s) :=
  foldl_prop (p := SyncAlone s) (fun _ _ h => h.trans (syncAlone_signalObj _ _)) l (SyncAlone.refl s)

theorem syncAlone_fireSignals {st : Nat} {v : List Nat} (h : fireSignals s c st v = some u) : SyncAlone s u := by
  unfold fireSignals at h
  dsimp only at h
  split at h
  · cases h
  · cases h
    split
    · exact syncAlone_signals _ s
    · exact (syncAlone_signals _ s).trans (syncAlone_modSync _ _ _)

theorem fireSignals_eq_none_iff {st : Nat} {v : List Nat} : fireSignals s c st v = none ↔
    (∃ g ∈ stepSignals (s.core c) st v, localSig c g = false) ∧ 64 ≤ (s.core c).sync.queue.length := by
  simp only [fireSignals, ite_eq_left_iff, reduceCtorEq, imp_false, not_not, Bool.and_eq_true, Bool.not_eq_true', decide_eq_true_eq,
    List.isEmpty_eq_false_iff, ne_eq, List.filter_eq_nil_iff, not_forall, Bool.not_eq_eq_eq_not, Bool.not_true, exists_prop,
    Bool.not_eq_false']

/-- Settles O23: a local signal changes one object or is counted refused, and a remote one only joins the sync queue. -/
theorem signalsTouchSyncStateAlone : Obligations.SignalsTouchSyncStateAlone :=
  ⟨fun _ _ _ _ _ h => syncAlone_fireSignals h, fun _ _ _ _ => fireSignals_eq_none_iff⟩

end Sys2Proof.Machine

/-! ### Steps enter their units (R136, R137, R151, R266, R343) -/

namespace Sys2Proof.Machine

variable {s t u : State} {c : CoreId} {k : Core}

/-! #### A yield point and the walk leave the flight alone -/

@[simp] theorem atYield_step (q : Sequencer) (y : Bool) : (q.atYield y).step = q.step := by
  unfold Sequencer.atYield
  split <;> rfl

@[simp] theorem atYield_loops (q : Sequencer) (y : Bool) : (q.atYield y).loops = q.loops := by
  unfold Sequencer.atYield
  split <;> rfl

@[simp] theorem atYield_vars (q : Sequencer) (y : Bool) : (q.atYield y).vars = q.vars := by simp [Sequencer.vars]

@[simp] theorem atYield_order (q : Sequencer) (y : Bool) : (q.atYield y).order = q.order := by
  unfold Sequencer.atYield
  split <;> rfl

@[simp] theorem atYield_flight (q : Sequencer) (y : Bool) : (q.atYield y).flight = q.flight := by
  unfold Sequencer.atYield
  split <;> rfl

/-- A step that is neither LOOP nor ENDLOOP is followed by the next one. -/
theorem advance_plain {w : W256} (hl : stOp w ≠ opLoop) (he : stOp w ≠ opEndloop) (q : Sequencer) (b : Binding) :
    q.advance b w = { q with step := q.step + 1 } := by rw [Sequencer.advance, if_neg hl, if_neg he]

/-! #### A step issues into a unit -/

/-- `EntersUnit` of one core: the head of `k` is the newest instance of `k'`, and the sequencer has moved past it. -/
def EntersFlight (k k' : Core) (u : UnitKind) (ready : Bool) : Prop :=
  (∃ failed n, k'.seq.flight.getLast? = some ⟨k.seq.order + 1, k.seq.step, k.seq.vars, u, ready, failed, n⟩) ∧
    k'.seq.flight.length = k.seq.flight.length + 1 ∧ k'.seq.step = k.seq.step + 1 ∧ k'.seq.order = k.seq.order + 1 ∧
    k'.seq.loops = k.seq.loops ∧ k'.recipe = k.recipe ∧ k'.bind = k.bind

/-- The step at the head of `k` has operation `op`, one that a unit of kind `u` executes. -/
def HeadFor (k : Core) (op : Nat) (u : UnitKind) : Prop :=
  stOp (headStep k) = op ∧ op ≠ opLoop ∧ op ≠ opEndloop ∧ (opUnit op).getD .s = u

theorem HeadFor.issueFlight_seq {op : Nat} {v : UnitKind} (h : HeadFor k op v) (ready : Bool) :
    (issueFlight k ready).seq = { k.seq.atYield (k.recipe.yieldAt k.seq.step) with
      step := k.seq.step + 1, order := k.seq.order + 1,
      flight := k.seq.flight ++ [⟨k.seq.order + 1, k.seq.step, k.seq.vars, v, ready, false, 0⟩] } := by
  obtain ⟨hop, hl, he, hu⟩ := h
  simp [issueFlight, Core.walk, advance_plain (hop ▸ hl) (hop ▸ he), hop, hu]

theorem HeadFor.entersFlight {op : Nat} {v : UnitKind} (h : HeadFor k op v) (ready : Bool) :
    EntersFlight k (issueFlight k ready) v ready := by
  refine ⟨⟨false, 0, ?_⟩, ?_, ?_, ?_, ?_, rfl, rfl⟩ <;> rw [h.issueFlight_seq] <;> simp

theorem headFor_of_mayIssue {op : Nat} {v : UnitKind} (h : MayIssue s c (isOp op)) (hl : op ≠ opLoop) (he : op ≠ opEndloop)
    (hu : (opUnit op).getD .s = v) : HeadFor (s.core c) op v :=
  ⟨of_decide_eq_true h.2.2.1, hl, he, hu⟩

theorem otherCoresKept_modCore (s : State) (c : CoreId) (f : Core → Core) : OtherCoresKept s (s.modCore c f) c := fun d hd => by
  rw [State.modCore_core, if_neg hd]

@[simp] theorem issueFlight_pad (k : Core) (r : Bool) : (issueFlight k r).pad = k.pad := rfl
@[simp] theorem issueFlight_island (k : Core) (r : Bool) : (issueFlight k r).island = k.island := rfl
@[simp] theorem issueFlight_live (k : Core) (r : Bool) : (issueFlight k r).live = k.live := rfl
/-- The step at the head of a core goes into flight and nothing else of the block changes. -/
theorem entersUnit_issueFlight {op : Nat} {v : UnitKind} (h : HeadFor (s.core c) op v) (ready : Bool) :
    EntersUnit s (s.modCore c fun k => issueFlight k ready) c v ready := by
  have k := h.entersFlight ready
  rw [← State.modCore_core_same s c fun k => issueFlight k ready] at k
  exact k

/-! #### PUT -/

/-- What a PUT at the head leaves for its FENCE: object, count and target (R183). -/
def putEntry (k : Core) : Nat × U32 × CoreId :=
  (putObj k (headStep k), mget 0 k.sync.counts (putObj k (headStep k)), putTarget k (headStep k))

theorem doPut_core (s : State) (c : CoreId) : (doPut s c).core c =
    ((issueFlight (s.core c) false).modSync fun y =>
        if y.puts.contains (putEntry (s.core c)) then y else { y with puts := y.puts ++ [putEntry (s.core c)] }).modSeq
      fun q => { q with flight := q.flight.map fun i => if i.order = q.order then { i with fcount := (putEntry (s.core c)).2.1 } else i } := by
  rw [doPut, State.modCore_core_same]
  rfl

theorem doPut_entersUnit (h : HeadFor (s.core c) opPut .x) : EntersUnit s (doPut s c) c .x false := by
  have k := h.issueFlight_seq false
  have hk : EntersFlight (s.core c) ((doPut s c).core c) .x false := by
    rw [doPut_core]
    refine ⟨⟨false, (putEntry (s.core c)).2.1, ?_⟩, ?_, ?_, ?_, ?_, rfl, rfl⟩ <;> simp [Core.modSeq, Core.modSync, k]
  exact hk

theorem doPut_recorded (h : HeadFor (s.core c) opPut .x) : putEntry (s.core c) ∈ ((doPut s c).core c).sync.puts ∧
    (((doPut s c).core c).seq.flight.getLast?.map fun i => i.fcount) = some (putEntry (s.core c)).2.1 := by
  have k := h.issueFlight_seq false
  rw [doPut_core]
  constructor
  · show putEntry (s.core c) ∈ (if _ then _ else _ : SyncUnit).puts
    split
    next hin => exact List.contains_iff_mem.1 hin
    next => exact List.mem_append_right _ (List.mem_singleton.2 rfl)
  · simp [Core.modSeq, Core.modSync, k]

/-! #### DMA -/

/-- Of the cores a DMA changes what its issue changes, and else the DMA engine alone. -/
theorem doDma_eq (s : State) (c : CoreId) :
    doDma s c = { s with cores := (s.modCore c fun k => issueFlight k false).cores, ring := (doDma s c).ring } := by
  unfold doDma
  dsimp only
  split <;> rfl

theorem doDma_core (s : State) (c d : CoreId) : (doDma s c).core d = (s.modCore c fun k => issueFlight k false).core d := by
  rw [doDma_eq]
  rfl

theorem doDma_fresh (h : s.ring.dmas = []) : (doDma s c).ring.nextDma = s.ring.nextDma + 1 ∧
    ∃ d, (doDma s c).ring.dmas = [d] ∧ d.id = s.ring.nextDma ∧ d.slot = bakeOf (s.core c) ∧ d.running = false ∧
      d.use = .step c ((s.core c).seq.order + 1) (s.core c).seq.step (s.core c).seq.vars := by
  unfold doDma
  dsimp only
  rw [h, List.find?_nil]
  exact ⟨rfl, _, by simp only [requestDma, State.modCore_ring, h]; rfl, rfl, rfl, rfl, rfl⟩

/-! #### SEND -/

/-- A change of the bake alone comes before a SEND on a link stream. -/
theorem doSend_entersUnit (h : HeadFor (s.core c) opSend .x) (hu : u.cores = s.cores) : EntersUnit s (doSend u c) c .x false := by
  have hk : u.core c = s.core c := congrArg (fun m => mget ({} : Core) m c) hu
  have h' := entersUnit_issueFlight (s := u) (hk.symm ▸ h) false
  unfold EntersUnit at *
  rwa [hk] at h'

/-- The three ways of a SEND at the head: into the transfer unit, to a later phase, or held for want of a channel. -/
theorem sendOrHold_local
    (hl : linkStream (s.bake (bakeOf (s.core c))) (((s.core c).inst.map (·.2)).getD 0) (sendBind (s.core c) (headStep (s.core c))).sendNo = none)
    (hs : ∀ e, streamOf (s.bake (bakeOf (s.core c))) (((s.core c).inst.map (·.2)).getD 0) (mvTgt (headStep (s.core c))) = some e →
      crossesPhase (s.bake (bakeOf (s.core c))) e = false) : sendOrHold s c = doSend s c := by
  unfold sendOrHold
  dsimp only
  rw [hl]
  split
  · split
    next e he => rw [if_neg (by simp [hs e he])]
    next => rfl
  next e he => cases he

theorem sendOrHold_carry {e : Nat}
    (hl : linkStream (s.bake (bakeOf (s.core c))) (((s.core c).inst.map (·.2)).getD 0) (sendBind (s.core c) (headStep (s.core c))).sendNo = none)
    (hs : streamOf (s.bake (bakeOf (s.core c))) (((s.core c).inst.map (·.2)).getD 0) (mvTgt (headStep (s.core c))) = some e)
    (hx : crossesPhase (s.bake (bakeOf (s.core c))) e = true) : sendOrHold s c = carrySend s c (bakeOf (s.core c)) e := by
  simp [sendOrHold, hl, hs, hx]

theorem sendOrHold_link {e : Nat}
    (hl : linkStream (s.bake (bakeOf (s.core c))) (((s.core c).inst.map (·.2)).getD 0) (sendBind (s.core c) (headStep (s.core c))).sendNo = some e) :
    sendOrHold s c = if channelReady s (bakeOf (s.core c)) e then doSend (resumeRouted s (bakeOf (s.core c))) c
      else pauseNoRoute s (bakeOf (s.core c)) := by
  simp [sendOrHold, hl]

/-! #### A SEND to a later phase (R266): its words lie in the stacks, and it is done as it issues -/

theorem reportReads_keeps {γ : Type} (p : State → γ) (hr : ∀ u i b v r x, p (raise u i b v r x) = p u)
    (hm : ∀ u c f, p (u.modCore c fun k => k.modSeq f) = p u) (ht : ∀ u b n, p (trigger u b n) = p u)
    (s : State) (c : CoreId) (order : Nat) (evs : List ReadEvent) : p (reportReads s c order evs) = p s := by
  unfold reportReads
  dsimp only
  split
  · rfl
  · refine (ht _ _ _).trans ((hm _ _ _).trans (foldl_keeps (fun a : State × Bool => p a.1) ?_ evs _))
    rintro u (w | w)
    · exact hr ..
    · dsimp only
      split
      · rfl
      · exact hr ..

@[simp] theorem readWord_island (k : Core) (cls w : Nat) : (k.readWord cls w).2.1.island = k.island := by
  unfold Core.readWord
  dsimp only
  (repeat' split) <;> rfl

@[simp] theorem readWords_island (cls : Nat) : ∀ (l : List Nat) (k : Core), (k.readWords cls l).2.1.island = k.island
  | [], _ => rfl
  | w :: l, k => (readWords_island cls l _).trans (readWord_island k cls w)

@[simp] theorem stackWrite_cores (s : State) (a : Nat) (w : U64 × Bool) : (stackWrite s a w).cores = s.cores := by
  unfold stackWrite
  split <;> rfl

@[simp] theorem stackWrite_ring (s : State) (a : Nat) (w : U64 × Bool) : (stackWrite s a w).ring = s.ring := by
  unfold stackWrite
  split <;> rfl

@[simp] theorem stackWrite_baker (s : State) (a : Nat) (w : U64 × Bool) : (stackWrite s a w).baker = s.baker := by
  unfold stackWrite
  split <;> rfl

@[simp] theorem copyWrite_ring (s : State) (b : Nat) (x : Side) (w : U64 × Bool) : (copyWrite s b x w).ring = s.ring := by
  cases x <;> simp [copyWrite]

@[simp] theorem copyWrite_baker (s : State) (b : Nat) (x : Side) (w : U64 × Bool) : (copyWrite s b x w).baker = s.baker := by
  cases x <;> simp [copyWrite]

theorem modCore_island {f : Core → Core} (h : (f (s.core c)).island = (s.core c).island) (d : CoreId) :
    ((s.modCore c f).core d).island = (s.core d).island := by
  rw [State.modCore_core]
  split
  next e => rw [e, h]
  next => rfl

theorem copyWrite_island (s : State) (b : Nat) (x : Side) (w : U64 × Bool) (d : CoreId) :
    ((copyWrite s b x w).core d).island = (s.core d).island := by
  have hstack : ∀ a, (stackWrite s a w).core d = s.core d := fun a => by rw [State.core, stackWrite_cores]; rfl
  cases x with
  | pad c a => exact modCore_island rfl d
  | tens j v o => exact congrArg Core.island (hstack _)
  | area o n => exact congrArg Core.island (hstack _)
  | host a => rfl

theorem trigger_carried (s : State) (b n d : Nat) : ((trigger s b n).bake d).carried = (s.bake d).carried := by
  rw [trigger, State.modBake_bake]
  split
  next e => rw [e]
  next => rfl

theorem carrySend_ring (s : State) (c : CoreId) (b e : Nat) : (carrySend s c b e).ring = s.ring := by
  unfold carrySend
  dsimp only
  rw [reportReads_keeps (fun u : State => u.ring) (fun _ _ _ _ _ _ => raise_ring _ _ _ _ _ _) (fun _ _ _ => rfl) (fun _ _ _ => rfl)]
  exact foldl_keeps (fun u : State => u.ring) (fun u x => copyWrite_ring u _ _ _) _ _

theorem carrySend_carried (s : State) (c : CoreId) (b e : Nat) :
    mget 0 ((carrySend s c b e).bake b).carried e = mget 0 (s.bake b).carried e + 1 := by
  unfold carrySend
  dsimp only
  rw [reportReads_keeps (fun u : State => (u.bake b).carried) (fun _ _ _ _ _ _ => by rw [raise_unit_bake]) (fun _ _ _ => rfl)
    (fun u d n => trigger_carried u d n b), State.modBake_bake_same]
  simp

theorem carrySend_island (s : State) (c : CoreId) (b e : Nat) (d : CoreId) :
    ((carrySend s c b e).core d).island = (s.core d).island := by
  unfold carrySend
  dsimp only
  rw [reportReads_keeps (fun u : State => (u.core d).island) (fun _ _ _ _ _ _ => by rw [raise_unit_core])
    (fun u x f => modCore_island rfl d) (fun _ _ _ => rfl)]
  refine (foldl_keeps (fun u : State => (u.core d).island) (fun u x => copyWrite_island u _ _ _ d) _ _).trans ?_
  exact modCore_island (by simp) d

/-! ### Parts of a step instance, and its finish (R71, R85, R137, R177, R178, R180, R210) -/

@[simp] theorem setJobs_jobs_same (p : Scratchpad) (n : Nat) (l : List Work) : (p.setJobs n l).jobs n = l := mget_mset_same _ _ _ _

/-- A unit with no job takes up the first part of its oldest instance. -/
theorem startPart_jobs {v : UnitKind} {i : StepInst} (hi : unitHead k v = some i) (hj : k.pad.jobs (unitNo v) = [])
    (hp : 0 < partCount s k i) : (startPart s k v).pad.jobs (unitNo v) = [Work.reading i.order 0 (partReads s k i 0)] := by
  simp [startPart, hi, hj, hp.ne', Core.modPad]

theorem makePart_of_made {v : UnitKind} {j : Work} (hj : k.pad.jobs (unitNo v) = [j]) (hm : j.made = true) :
    makePart s c k v = k := by
  unfold makePart
  split
  next i j' l hi hjobs =>
    cases hj.symm.trans hjobs
    simp [hm]
  next => rfl

/-- The end of a unit's cycle whose job is done: the next part, or the end of the instance's work. -/
theorem settleUnit_of_done {v : UnitKind} {i : StepInst} {j : Work} (hi : unitHead k v = some i) (hj : k.pad.jobs (unitNo v) = [j])
    (hd : k.pad.jobDone (unitNo v) j = true) : settleUnit s c k v =
      if j.part + 1 < partCount s k i then
        k.modPad fun p => p.setJobs (unitNo v) [Work.reading i.order (j.part + 1) (partReads s k i (j.part + 1))]
      else markReady (k.modPad fun p => p.setJobs (unitNo v) []) i.order := by
  have hm : j.made = true := by
    simp only [Scratchpad.jobDone, Bool.and_eq_true] at hd
    exact hd.1.1.1
  simp [settleUnit, makePart_of_made hj hm, hi, hj, hd]

theorem markReady_ready (k : Core) (o : Nat) : ∀ x ∈ (markReady k o).seq.flight, x.order = o → x.ready = true := by
  intro x hx ho
  obtain ⟨y, -, rfl⟩ := List.mem_map.1 hx
  by_cases hy : y.order = o
  · rw [if_pos hy]
  · rw [if_neg hy] at ho
    exact absurd ho hy

theorem sendFlit_data {i : StepInst} {p n : Nat} {l : List (U64 × Bool)} (h : l.length = 16) :
    (sendFlit k i p n l).data = l.map (·.1) := by
  simp [sendFlit, sealFlit, padTo, h]

theorem retire_pad (k : Core) (i : StepInst) : (retire k i).pad = k.pad := by
  unfold retire
  dsimp only
  split <;> rfl

/-- What the finish of an instance makes of the sequencer: it leaves the flight, joins the done set, and END ends the recipe. -/
theorem retire_seq (k : Core) (i : StepInst) : (retire k i).seq =
    if stOp (k.recipe.step i.step) = opEnd then
      { ({ k.seq with flight := k.seq.flight.filter fun x => decide (x.order ≠ i.order) }).addDone i.step i.loops (stOp (k.recipe.step i.step))
        with state := .ended }
    else ({ k.seq with flight := k.seq.flight.filter fun x => decide (x.order ≠ i.order) }).addDone i.step i.loops
      (stOp (k.recipe.step i.step)) := by
  unfold retire
  dsimp only
  split <;> rfl

@[simp] theorem addDone_flight (q : Sequencer) (st : Nat) (v : List Nat) (op : Nat) : (q.addDone st v op).flight = q.flight := by
  unfold Sequencer.addDone
  split <;> rfl

@[simp] theorem addDone_state (q : Sequencer) (st : Nat) (v : List Nat) (op : Nat) : (q.addDone st v op).state = q.state := by
  unfold Sequencer.addDone
  split <;> rfl

theorem mem_addDone {op : Nat} (h : entersDone op = true) (q : Sequencer) (st : Nat) (v : List Nat) :
    (st, v) ∈ (q.addDone st v op).done := by
  unfold Sequencer.addDone
  split
  next => exact List.mem_append_right _ (List.mem_singleton.2 rfl)
  next hin =>
    rw [h, Bool.true_and, Bool.not_eq_true, Bool.not_eq_false'] at hin
    exact List.contains_iff_mem.1 hin

theorem mem_retire_flight (k : Core) (i x : StepInst) : x ∈ (retire k i).seq.flight ↔ x ∈ k.seq.flight ∧ x.order ≠ i.order := by
  rw [retire_seq]
  split <;> simp

theorem mem_retire_done {i : StepInst} (h : entersDone (stOp (k.recipe.step i.step)) = true) :
    (i.step, i.loops) ∈ (retire k i).seq.done := by
  have hm := mem_addDone h { k.seq with flight := k.seq.flight.filter fun x => decide (x.order ≠ i.order) } i.step i.loops
  rw [retire_seq]
  split <;> exact hm

theorem retire_ended {i : StepInst} (h : stOp (k.recipe.step i.step) = opEnd) : (retire k i).seq.state = .ended := by
  rw [retire_seq, if_pos h]

theorem retire_state {i : StepInst} (h : stOp (k.recipe.step i.step) ≠ opEnd) : (retire k i).seq.state = k.seq.state := by
  rw [retire_seq, if_neg h, addDone_state]

/-- An instance that is done and has its unit's turn. -/
def Finishes (s : State) (c : CoreId) (o : Nat) (i : StepInst) : Prop :=
  ((s.core c).seq.flight.find? fun x => decide (x.order = o)) = some i ∧ instDone (s.core c) i = true ∧ unitTurn (s.core c) i = true

theorem Finishes.finish_refused {o : Nat} {i : StepInst} (h : Finishes s c o i) (hs : fireSignals s c i.step i.loops = none) :
    finish s c o = countStall s := by
  obtain ⟨hf, hd, ht⟩ := h
  have hgo : ¬ (!instDone (s.core c) i || !unitTurn (s.core c) i) = true := by simp [hd, ht]
  simp only [finish, hf, if_neg hgo, hs]

theorem Finishes.finish_fired {o : Nat} {i : StepInst} (h : Finishes s c o i) (hs : fireSignals s c i.step i.loops = some t) :
    finish s c o = t.modCore c fun k => retire k i := by
  obtain ⟨hf, hd, ht⟩ := h
  have hgo : ¬ (!instDone (s.core c) i || !unitTurn (s.core c) i) = true := by simp [hd, ht]
  simp only [finish, hf, if_neg hgo, hs]

theorem finish_absent {o : Nat} (h : ∀ x ∈ (s.core c).seq.flight, x.order ≠ o) : finish s c o = s := by
  have hf : ((s.core c).seq.flight.find? fun i => decide (i.order = o)) = none := by simpa using h
  rw [finish, hf]

theorem exec_stepFinish {o : Nat} (hc : coreExists s c = true) (hp : (s.core c).power = .on)
    (hf : (s.hearth (hearthOf s c)).frozen = false) : exec (.stepFinish c o) s = .next (finish s c o) := by
  rw [exec, execStepFinish, onCore_of_exists hc, if_pos ⟨hp, hf⟩]

/-- The finish of an instance whose signals can fire. -/
theorem retired_of_finishes {i : StepInst} (h : fireSignals s c i.step i.loops = some u) :
    ∀ t, t = u.modCore c (fun k => retire k i) →
      (∀ x, x ∈ (t.core c).seq.flight ↔ x ∈ (s.core c).seq.flight ∧ x.order ≠ i.order) ∧
      (entersDone (stOp ((s.core c).recipe.step i.step)) = true → (i.step, i.loops) ∈ (t.core c).seq.done) ∧
      (stOp ((s.core c).recipe.step i.step) = opEnd → (t.core c).seq.state = .ended) ∧
      (stOp ((s.core c).recipe.step i.step) ≠ opEnd → (t.core c).seq.state = (s.core c).seq.state) ∧
      (t.core c).pad = (s.core c).pad ∧ OtherCoresKept u t c ∧ t = { u with cores := t.cores } := by
  rintro t rfl
  obtain ⟨-, hcore, -⟩ := syncAlone_fireSignals h
  have hseq : (u.core c).seq = (s.core c).seq := (congrArg Core.seq (hcore c) :)
  have hrec : (u.core c).recipe = (s.core c).recipe := (congrArg Core.recipe (hcore c) :)
  have hpad : (u.core c).pad = (s.core c).pad := (congrArg Core.pad (hcore c) :)
  rw [State.modCore_core_same]
  refine ⟨fun x => ?_, fun he => ?_, fun he => ?_, fun he => ?_, ?_, otherCoresKept_modCore u c _, rfl⟩
  · rw [mem_retire_flight, hseq]
  · exact mem_retire_done (hrec.symm ▸ he)
  · exact retire_ended (hrec.symm ▸ he)
  · rw [retire_state (hrec.symm ▸ he), hseq]
  · rw [retire_pad, hpad]

/-! #### The three families of clauses -/

/-- The commands whose steps go into a unit's queue as they are. -/
theorem plainUnits_enter (s : State) (c : CoreId) (i : Instr) (q : W256 → Bool) (v : UnitKind)
    (hi : (i, q, v) ∈ [(Instr.matmul c, isOp opMatmul, UnitKind.a), (.endStep c, isOp opEnd, .s), (.fill c, isOp opFill, .m),
      (.copy c, isOp opCopy, .m), (.put c, isOp opPut, .x)]) (h : MayIssue s c q) :
    ∃ t, exec i s = .next t ∧ EntersUnit s t c v false ∧ (t.core c).pad = (s.core c).pad ∧ (t.core c).island = (s.core c).island ∧
      OtherCoresKept s t c ∧ t = { s with cores := t.cores } := by
  have plain : ∀ {op : Nat}, HeadFor (s.core c) op v → exec i s = onCore s c (atHead s c q (s.modCore c fun k => issueFlight k false)) →
      ∃ t, exec i s = .next t ∧ EntersUnit s t c v false ∧ (t.core c).pad = (s.core c).pad ∧ (t.core c).island = (s.core c).island ∧
        OtherCoresKept s t c ∧ t = { s with cores := t.cores } := fun hhead he =>
    ⟨_, he.trans (onCore_atHead_of_mayIssue h _), entersUnit_issueFlight hhead false, by simp, by simp,
      otherCoresKept_modCore s c _, rfl⟩
  simp only [List.mem_cons, List.not_mem_nil, or_false, Prod.mk.injEq] at hi
  rcases hi with ⟨rfl, rfl, rfl⟩ | ⟨rfl, rfl, rfl⟩ | ⟨rfl, rfl, rfl⟩ | ⟨rfl, rfl, rfl⟩ | ⟨rfl, rfl, rfl⟩
  · exact plain (headFor_of_mayIssue h (by decide) (by decide) rfl) rfl
  · exact plain (headFor_of_mayIssue h (by decide) (by decide) rfl) rfl
  · exact plain (headFor_of_mayIssue h (by decide) (by decide) rfl) rfl
  · exact plain (headFor_of_mayIssue h (by decide) (by decide) rfl) rfl
  · refine ⟨_, onCore_atHead_of_mayIssue h _, doPut_entersUnit (headFor_of_mayIssue h (by decide) (by decide) rfl), ?_, ?_,
      otherCoresKept_modCore s c _, rfl⟩ <;> rw [doPut_core] <;> rfl

theorem exec_dma (h : MayIssue s c (isOp opDma)) : exec (.dma c) s = .next (doDma s c) := onCore_atHead_of_mayIssue h _

theorem dma_enters (h : MayIssue s c (isOp opDma)) : ∃ t, exec (.dma c) s = .next t ∧ EntersUnit s t c .d false ∧
    (t.core c).pad = (s.core c).pad ∧ OtherCoresKept s t c ∧ t = { s with cores := t.cores, ring := t.ring } := by
  have hhead : HeadFor (s.core c) opDma .d := headFor_of_mayIssue h (by decide) (by decide) rfl
  refine ⟨_, exec_dma h, ?_, ?_, fun d hd => ?_, ?_⟩
  · have k := entersUnit_issueFlight hhead false
    unfold EntersUnit at *
    rwa [doDma_core]
  · rw [doDma_core, State.modCore_core_same, issueFlight_pad]
  · rw [doDma_core, otherCoresKept_modCore s c _ d hd]
  · rw [doDma_eq]

theorem exec_send (h : MayIssue s c (isOp opSend)) : exec (.send c) s = .next (sendOrHold s c) := onCore_atHead_of_mayIssue h _

theorem resumeRouted_eq (s : State) (b : Nat) : resumeRouted s b = { s with baker := (resumeRouted s b).baker } := rfl

theorem send_enters (hs : (s.core c) = (u.core c)) (hu : u = { s with baker := u.baker }) (h : HeadFor (s.core c) opSend .x) :
    EntersUnit s (doSend u c) c .x false ∧ ((doSend u c).core c).pad = (s.core c).pad ∧
      ((doSend u c).core c).island = (s.core c).island ∧ OtherCoresKept s (doSend u c) c := by
  have hcores : u.cores = s.cores := by rw [hu]
  have hcore : ∀ d, u.core d = s.core d := fun d => congrArg (fun m => mget ({} : Core) m d) hcores
  refine ⟨doSend_entersUnit h hcores, ?_, ?_, fun d hd => (otherCoresKept_modCore u c _ d hd).trans (hcore d)⟩
  · rw [doSend, State.modCore_core_same, issueFlight_pad, hcore]
  · rw [doSend, State.modCore_core_same, issueFlight_island, hcore]

/-- Settles O25: the issue of a step into a unit, the parts of an instance, and its finish. -/
theorem unitStepsEnterAndFinish : Obligations.UnitStepsEnterAndFinish := by
  refine ⟨⟨plainUnits_enter, fun s c h => ?_, fun s c h => dma_enters h, fun s c h hd => ?_, fun s c h hl hs => ?_, fun s c e h hl hs hx => ?_,
    fun s c e h hl => ?_⟩, ⟨fun s c k i p l hi ho => ?_, fun s c k i p l hi ho => ?_, fun s c k i p l hi ho => ?_,
    fun s c k i p l hi ho => ?_, fun s k v i hi hj hp => startPart_jobs hi hj hp, fun s c k v i j hi hj hd => ?_⟩,
    fun s c o i u hc hp hf hfind hdone hturn hsig => ?_, fun s c o i hc hp hf hfind hdone hturn hsig => ?_, fun s c o hc hno => ?_⟩
  · exact ⟨_, onCore_atHead_of_mayIssue h _, doPut_recorded (headFor_of_mayIssue h (by decide) (by decide) rfl)⟩
  · exact ⟨_, exec_dma h, doDma_fresh hd⟩
  · have hhead : HeadFor (s.core c) opSend .x := headFor_of_mayIssue h (by decide) (by decide) rfl
    obtain ⟨he, hpad, hisl, hother⟩ := send_enters rfl rfl hhead
    exact ⟨_, (exec_send h).trans (congrArg _ (sendOrHold_local hl hs)), he, hpad, hisl, hother, rfl⟩
  · obtain ⟨hfuse, hhost, hpend⟩ : _ ∧ _ ∧ _ := ⟨(carrySend_outer (s := s) c (bakeOf (s.core c)) e).1, (carrySend_outer (s := s) c (bakeOf (s.core c)) e).2.2,
      (carrySend_outer (s := s) c (bakeOf (s.core c)) e).2.1⟩
    exact ⟨_, (exec_send h).trans (congrArg _ (sendOrHold_carry hl hs hx)), carrySend_carried s c _ e, carrySend_island s c _ e c,
      hfuse, hhost, carrySend_ring s c _ e, hpend⟩
  · have hhead : HeadFor (s.core c) opSend .x := headFor_of_mayIssue h (by decide) (by decide) rfl
    have hexec := (exec_send h).trans (congrArg _ (sendOrHold_link hl))
    refine ⟨fun hch => ?_, fun hch => ?_⟩
    · rw [hexec, hch]
      rfl
    · rw [hch, if_pos rfl] at hexec
      obtain ⟨he, hpad, -, hother⟩ := send_enters (u := resumeRouted s (bakeOf (s.core c))) rfl (resumeRouted_eq s _) hhead
      exact ⟨_, hexec, he, hpad, hother, rfl⟩
  · simp [partReads, partMakes, hi, ho, fillRow, opFill, opCopy]
  · simp [partReads, partMakes, hi, ho, copyRow]
  · refine ⟨?_, ?_, ?_, fun hlen => sendFlit_data hlen⟩ <;>
      simp [partReads, partMakes, hi, ho, flitWords, Core.modIsland]
  · refine ⟨?_, ?_, ?_⟩ <;> simp [partReads, partMakes, hi, ho, flitWords, Core.modIsland, opPut, opSend]
  · rw [settleUnit_of_done hi hj hd]
    refine ⟨fun hlt => ?_, fun hge => ?_⟩
    · rw [if_pos hlt]
      exact setJobs_jobs_same _ _ _
    · rw [if_neg (by omega)]
      exact ⟨setJobs_jobs_same _ _ _, markReady_ready _ _⟩
  · have hfin : Finishes s c o i := ⟨hfind, hdone, hturn⟩
    exact ⟨_, exec_stepFinish hc hp hf, retired_of_finishes hsig _ (hfin.finish_fired hsig)⟩
  · have hfin : Finishes s c o i := ⟨hfind, hdone, hturn⟩
    rw [exec_stepFinish hc hp hf, hfin.finish_refused hsig]
  · rw [exec, execStepFinish, onCore_of_exists hc, finish_absent hno, ite_self]

end Sys2Proof.Machine

/-! ### The vector unit and the accumulators (R65 to R69, R85, R126 to R128, R149, R150, R162) -/

namespace Sys2Proof.Machine

variable {s : State} {c : CoreId}

theorem headFor_of_isVec {n : Nat} (h : MayIssue s c (isVec n)) : HeadFor (s.core c) opVector .v := by
  have hv := h.2.2.1
  rw [isVec, Bool.and_eq_true, decide_eq_true_eq] at hv
  exact ⟨hv.1, by decide, by decide, rfl⟩

/-- A VECTOR step at the head goes into the vector unit's queue, whatever its opcode. -/
theorem vector_enters {n : Nat} {i : Instr} (h : MayIssue s c (isVec n))
    (hi : exec i s = onCore s c (atHead s c (isVec n) (vecIssue s c))) : ∃ t, exec i s = .next t ∧ EntersUnit s t c .v false ∧
      (t.core c).pad = (s.core c).pad ∧ (t.core c).live = (s.core c).live ∧ OtherCoresKept s t c ∧ t = { s with cores := t.cores } := by
  refine ⟨_, hi.trans (onCore_atHead_of_mayIssue h _), entersUnit_issueFlight (headFor_of_isVec h) false, ?_, ?_,
    otherCoresKept_modCore s c _, rfl⟩
  · rw [vecIssue, State.modCore_core_same, issueFlight_pad]
  · rw [vecIssue, State.modCore_core_same, issueFlight_live]

theorem writesAt_get {addr bits i : Nat} {l : List (Nat × Bool)} {e : U64 × Bool} (h : (packWords bits l)[i]? = some e) :
    (writesAt addr bits l)[i]? = some (addr / 8 + i, e.1, e.2) := by
  simp [writesAt, h]

/-- The i-th word that an elementwise step writes is the i-th word of its packed codes. -/
theorem map1_write (x : VCtx) (f : FVal → Conv × FVal) (r : Nat) (l : List (U64 × Bool)) {i : Nat} {e : U64 × Bool}
    (h : (packWords (fmtBits (dFmt x.dd)) ((unpackWords (fmtBits (dFmt x.dx)) (vcLen x.w) l).map fun c =>
      ((f (x.rnd (codeValue (dFmt x.dx) c.1))).1.code, c.2)))[i]? = some e) :
    (x.map1 f r l).writes[i]? = some (rowAddr x.k.bind x.dd x.vars r / 8 + i, e.1, e.2) := by
  have hcodes : ((x.elems x.dx l).map fun e => (⟨(f e.val).1, (f e.val).2, e.poison⟩ : VRes)).map (fun e => (e.conv.code, e.poison)) =
      (unpackWords (fmtBits (dFmt x.dx)) (vcLen x.w) l).map fun c => ((f (x.rnd (codeValue (dFmt x.dx) c.1))).1.code, c.2) := by
    simp [VCtx.elems, Function.comp_def]
  exact writesAt_get (hcodes ▸ h)

/-- The results of a step on two operands, element by element. -/
theorem map2_counts {x : VCtx} (hz : x.hasZ = true) (f : FVal → FVal → FVal) (r : Nat) (l : List (U64 × Bool)) :
    (x.map2 f r l).counts = (((unpackWords (fmtBits (dFmt x.dx)) (vcLen x.w) (l.take (rowWordCount (dFmt x.dx) (vcLen x.w)))).zip
      (unpackWords (fmtBits (dFmt x.dz)) (vcLen x.w) (l.drop (rowWordCount (dFmt x.dx) (vcLen x.w))))).map fun c =>
        x.res (f (x.rnd (codeValue (dFmt x.dx) c.1.1)) (x.rnd (codeValue (dFmt x.dz) c.2.1))) (c.1.2 || c.2.2)) := by
  simp [VCtx.map2, VCtx.put, VCtx.elems, hz, List.zip_map, Function.comp_def]

/-- Settles O26: the issue of each VECTOR opcode, its arithmetic, and the words an elementwise step writes. -/
theorem vectorStepsComputeTheirRows : Obligations.VectorStepsComputeTheirRows := by
  refine ⟨fun s c i q hi h => ?_, ⟨fun s c k i p l hi => ?_, fun x p l => ?_, fun x p l => ?_⟩,
    fun x f r l i e h => map1_write x f r l h, fun x f r l hz => map2_counts hz f r l, fun _ _ _ => rfl⟩
  · simp only [List.mem_cons, List.not_mem_nil, or_false, Prod.mk.injEq] at hi
    rcases hi with ⟨rfl, rfl⟩ | ⟨rfl, rfl⟩ | ⟨rfl, rfl⟩ | ⟨rfl, rfl⟩ | ⟨rfl, rfl⟩ | ⟨rfl, rfl⟩ | ⟨rfl, rfl⟩ | ⟨rfl, rfl⟩ | ⟨rfl, rfl⟩ |
      ⟨rfl, rfl⟩ | ⟨rfl, rfl⟩ | ⟨rfl, rfl⟩ | ⟨rfl, rfl⟩ | ⟨rfl, rfl⟩ | ⟨rfl, rfl⟩ | ⟨rfl, rfl⟩ | ⟨rfl, rfl⟩ | ⟨rfl, rfl⟩ | ⟨rfl, rfl⟩ |
      ⟨rfl, rfl⟩ <;> exact vector_enters h rfl
  · simp [partReads, partMakes, hi]
  · refine ⟨?_, ?_, ?_, ?_, ?_, ?_, ?_, ?_, ?_⟩ <;> (intro h; rw [vecPart, h]; rfl)
  · refine ⟨?_, ?_, ?_, ?_, ?_, ?_, ?_, ?_, ?_, ?_, ?_⟩ <;> (intro h; rw [vecPart, h]; rfl)

/-! #### Accumulator rows -/

theorem sat32_val (x : Int) : (sat32 x).1 = max (-(2 ^ 31)) (min (2 ^ 31 - 1) x) := by
  unfold sat32
  split_ifs <;> simp only <;> omega

theorem sat32_exact_iff (x : Int) : (sat32 x).2 = false ↔ -(2 ^ 31) ≤ x ∧ x ≤ 2 ^ 31 - 1 := by
  unfold sat32
  split_ifs <;> simp only [reduceCtorEq, false_iff, true_iff, iff_true, iff_false] <;> omega

theorem padTo_length {α : Type} (d : α) (n : Nat) (l : List α) : (padTo d n l).length = n := by
  simp [padTo]
  omega

/-- A plain integer column is replaced by the first item and added to by every other, saturating at 32 bits. -/
theorem addCol_plain {w : Wave} (hw : w.wide = false) (hf : w.fp = false) (old new : Int) :
    addCol w old new = sat32 ((if w.first then 0 else old) + new) := by
  simp only [addCol, hw, hf, Bool.false_eq_true, if_false]
  split <;> simp

/-- The columns that an item adds to its row, each with whether it saturated. -/
def addedColumns (r : AccRow) (w : Wave) : List (Int × Bool) :=
  ((padTo 0 w.sums.length r.vals).zip w.sums).map fun e => addCol w e.1 e.2

theorem accumulate_vals (r : AccRow) (w : Wave) (ups : AccUpset) : (accumulate r w ups).1.vals = (addedColumns r w).map (·.1) := rfl

theorem accumulate_saturated (r : AccRow) (w : Wave) (ups : AccUpset) :
    (accumulate r w ups).2 = ((addedColumns r w).filter (·.2)).length := rfl

theorem addedColumns_length (r : AccRow) (w : Wave) : (addedColumns r w).length = w.sums.length := by
  simp [addedColumns, padTo_length]

theorem addedColumns_get (r : AccRow) (w : Wave) (i : Nat) :
    (addedColumns r w)[i]? = w.sums[i]?.map fun new => addCol w ((padTo 0 w.sums.length r.vals)[i]?.getD 0) new := by
  by_cases hi : i < w.sums.length
  · have hp : i < (padTo 0 w.sums.length r.vals).length := by rwa [padTo_length]
    have hz : i < ((padTo 0 w.sums.length r.vals).zip w.sums).length := by simp [padTo_length, hi]
    simp [addedColumns, List.getElem?_eq_getElem hi, List.getElem?_eq_getElem hp, List.getElem?_eq_getElem hz]
  · have hs : w.sums[i]? = none := List.getElem?_eq_none (by omega)
    rw [hs, List.getElem?_eq_none (by rw [addedColumns_length]; omega)]
    rfl

/-- No column saturates where each of them is exact. -/
theorem accumulate_exact_iff (r : AccRow) (w : Wave) (ups : AccUpset) : (accumulate r w ups).2 = 0 ↔
    ∀ (i : Nat) new, w.sums[i]? = some new → (addCol w ((padTo 0 w.sums.length r.vals)[i]?.getD 0) new).2 = false := by
  rw [accumulate_saturated, List.length_eq_zero_iff, List.filter_eq_nil_iff]
  constructor
  · intro h i new hi
    have hm : addCol w ((padTo 0 w.sums.length r.vals)[i]?.getD 0) new ∈ addedColumns r w :=
      List.mem_of_getElem? (i := i) (by rw [addedColumns_get, hi]; rfl)
    simpa using h _ hm
  · intro h e he
    obtain ⟨i, hi⟩ := List.mem_iff_getElem?.1 he
    rw [addedColumns_get, Option.map_eq_some_iff] at hi
    obtain ⟨new, hnew, rfl⟩ := hi
    simp [h i new hnew]

/-- Settles O28: each column by the rule of its item, the bits of the row by the definition. -/
theorem accumulateReplacesAddsAndSaturates : Obligations.AccumulateReplacesAddsAndSaturates := by
  refine ⟨fun r w ups i new hw hf h => ⟨(addCol w ((padTo 0 w.sums.length r.vals)[i]?.getD 0) new).1, ?_, ?_⟩,
    fun r w ups => ⟨rfl, ?_, fun h => ?_, fun h => ?_⟩, fun r w ups hw hf => ?_⟩
  · rw [accumulate_vals, List.getElem?_map, addedColumns_get, h]
    rfl
  · rw [addCol_plain hw hf, sat32_val]
  · rw [accumulate_vals, List.length_map, addedColumns_length]
  · simp [accumulate, h]
  · simp [accumulate, h]
  · rw [accumulate_exact_iff]
    simp only [addCol_plain hw hf, sat32_exact_iff]

end Sys2Proof.Machine

/-! ### One Flue cycle (R193 to R227, R374, R409) -/

namespace Sys2Proof.Machine

variable {s t u : State} {c : CoreId}

/-- What a stage of a Flue cycle may change: the always-on block, the core map, cores, the Flue but for its time, bakes, and the
generations of the commit sets. -/
def SlotKept (s t : State) : Prop :=
  t = { s with
    aon := t.aon, map := t.map, cores := t.cores, flue := t.flue, baker := t.baker,
    ctl := { s.ctl with dict := { s.ctl.dict with gens := t.ctl.dict.gens } } } ∧ t.flue.cycle = s.flue.cycle

theorem SlotKept.refl (s : State) : SlotKept s s := ⟨rfl, rfl⟩

theorem SlotKept.trans (h : SlotKept s t) (k : SlotKept t u) : SlotKept s u := by
  obtain ⟨h1, h2⟩ := h
  obtain ⟨k1, k2⟩ := k
  refine ⟨?_, k2.trans h2⟩
  rw [k1, h1]

theorem slotKept_foldl {α : Type} {f : State → α → State} (h : ∀ u x, SlotKept u (f u x)) (l : List α) (s : State) :
    SlotKept s (l.foldl f s) :=
  foldl_prop (p := SlotKept s) (fun u x hu => hu.trans (h u x)) l (SlotKept.refl s)

theorem slotKept_ite {p : Prop} [Decidable p] {a b : State} (ha : SlotKept s a) (hb : SlotKept s b) :
    SlotKept s (if p then a else b) := by
  split
  · exact ha
  · exact hb

theorem slotKept_modCore (s : State) (c : CoreId) (f : Core → Core) : SlotKept s (s.modCore c f) := ⟨rfl, rfl⟩

theorem slotKept_raise (s : State) (i : U16) (b v src : U8) (x : U64) : SlotKept s (raise s i b v src x) := by
  rw [raise_eq]
  exact ⟨rfl, rfl⟩

/-! #### Switches, stops and crossings -/

theorem slotKept_switchSchedule (s : State) (p : Site) : SlotKept s (switchSchedule s p) := by
  unfold switchSchedule
  dsimp only
  (repeat' split) <;> exact ⟨rfl, rfl⟩

theorem slotKept_countSwitch (s : State) (h : Schedule) : SlotKept s (countSwitch s h) :=
  slotKept_ite (SlotKept.refl s) ⟨rfl, rfl⟩

theorem slotKept_takeSwitch (s : State) (p : Site) : SlotKept s (takeSwitch s p) := by
  unfold takeSwitch
  split
  · exact SlotKept.refl s
  · exact (slotKept_switchSchedule s p).trans (slotKept_countSwitch _ _)

theorem slotKept_applySwitches (s : State) : SlotKept s (applySwitches s) := slotKept_foldl slotKept_takeSwitch _ s

theorem slotKept_applyStops (s : State) : SlotKept s (applyStops s) := ⟨rfl, rfl⟩

theorem slotKept_applyStreamStops (s : State) : SlotKept s (applyStreamStops s) := by
  refine SlotKept.trans (t := { s with flue := { s.flue with stopQ := s.flue.stopQ.filter fun e => decide (s.flue.cycle < e.1) } })
    ⟨rfl, rfl⟩ (slotKept_foldl (fun u e => ?_) _ _)
  split
  · exact slotKept_modCore _ _ _
  · exact SlotKept.refl _

theorem slotKept_endCrossings (s : State) : SlotKept s (endCrossings s) :=
  slotKept_foldl (fun _ _ => slotKept_ite (SlotKept.refl _) (slotKept_modCore _ _ _)) _ s

/-! #### Stream flits -/

theorem slotKept_trigger (s : State) (b n : Nat) : SlotKept s (trigger s b n) := ⟨rfl, rfl⟩

theorem slotKept_triggerAll (s : State) (row : Nat) (pick : Bake → Bool) : SlotKept s (triggerAll s row pick) :=
  slotKept_foldl (fun u (e : Nat × Bake) => slotKept_trigger u e.1 row) _ s

theorem slotKept_loseDirection (s : State) (p : Site) (d : Dir) : SlotKept s (loseDirection s p d) := by
  unfold loseDirection
  refine slotKept_ite (SlotKept.refl s) (SlotKept.trans ?_ (slotKept_triggerAll _ 4 _))
  refine SlotKept.trans (t := raiseIsland { s with flue := { s.flue with
    lostDirs := s.flue.lostDirs ++ [dirInto s p d], compiling := true } } p 0x3320 3 (dirInto s p d)) ?_ ?_
  · exact SlotKept.trans ⟨rfl, rfl⟩ (slotKept_raise _ _ _ _ _ _)
  · split <;> exact ⟨rfl, rfl⟩

theorem slotKept_countIsland (s : State) (p : Site) (n : Nat) : SlotKept s (countIsland s p n) := by
  unfold countIsland
  split <;> exact ⟨rfl, rfl⟩

theorem slotKept_crcError (s : State) (p : Site) (d : Dir) : SlotKept s (crcError s p d) := by
  unfold crcError
  dsimp only
  refine SlotKept.trans ?_ (slotKept_ite (slotKept_loseDirection _ _ _) (SlotKept.refl _))
  split <;> exact ⟨rfl, rfl⟩

theorem slotKept_arriveFlit (bad : List (Site × Dir)) (s : State) (m : Moving) : SlotKept s (arriveFlit bad s m) := by
  unfold arriveFlit
  dsimp only
  refine slotKept_ite (SlotKept.refl s) ?_
  refine SlotKept.trans (slotKept_ite (p := (m.flit.v && (bad.contains (m.site, m.inp) || decide (m.flit.crc ≠ flitCrc m.flit))) = true)
    (slotKept_crcError s m.site m.inp) (SlotKept.refl s)) ?_
  refine slotKept_ite (slotKept_countIsland _ _ _) (slotKept_ite ?_ ⟨rfl, rfl⟩)
  exact (slotKept_countIsland _ _ _).trans (slotKept_raise _ _ _ _ _ _)

theorem slotKept_arrivals (bad : List (Site × Dir)) (s : State) : SlotKept s (arrivals bad s) := by
  unfold arrivals
  refine SlotKept.trans (t := { s with flue := { s.flue with moving := s.flue.moving.filter fun m => !decide (m.at_ = s.flue.cycle) } })
    ⟨rfl, rfl⟩ (slotKept_foldl (fun u m => ?_) _ _)
  refine slotKept_ite ⟨rfl, rfl⟩ (slotKept_ite ?_ (slotKept_arriveFlit bad u m))
  split
  · exact slotKept_modCore _ _ _
  · exact SlotKept.refl _

theorem slotKept_injectSlot (s : State) (p : Site) : SlotKept s (injectSlot s p) := by
  unfold injectSlot
  dsimp only
  (repeat' split) <;> exact ⟨rfl, rfl⟩

/-! #### Draughts -/

theorem slotKept_enterRouter (bad : List (Site × Dir)) (s : State) (h : Held) (q : Site) (d : Dir) (l : List Dir) :
    SlotKept s (enterRouter bad s h q d l).1 :=
  slotKept_ite (slotKept_crcError _ _ _) (SlotKept.refl s)

theorem slotKept_deliverRing (s : State) (d : Draught) : SlotKept s (deliverRing s d) := by
  unfold deliverRing
  (repeat' split) <;> exact ⟨rfl, rfl⟩

theorem slotKept_hop (bad : List (Site × Dir)) (s : State) (h : Held) : SlotKept s (hop bad s h).1 := by
  unfold hop
  dsimp only
  split
  · exact SlotKept.refl s
  split
  · split
    · exact slotKept_enterRouter ..
    · exact SlotKept.refl s
  split
  · exact SlotKept.refl s
  split
  · exact slotKept_deliverRing s _
  split
  · exact slotKept_enterRouter ..
  · exact SlotKept.refl s

theorem slotKept_hops (bad : List (Site × Dir)) (s : State) : SlotKept s (hops bad s) := by
  unfold hops
  refine SlotKept.trans (foldl_prop (p := fun a : State × List Held => SlotKept s a.1) (fun a h ha => ?_) s.flue.held
    (b := (s, [])) (SlotKept.refl s)) ⟨rfl, rfl⟩
  split
  · exact SlotKept.trans ha (slotKept_hop bad _ h)
  · exact ha

theorem slotKept_intoIngress (s : State) (c : CoreId) (d : Draught) : SlotKept s (intoIngress s c d) := by
  unfold intoIngress
  dsimp only
  (repeat' split) <;> exact ⟨rfl, rfl⟩

theorem slotKept_ejections (s : State) : SlotKept s (ejections s) := by
  unfold ejections
  refine SlotKept.trans (t := { s with flue := { s.flue with held := s.flue.held.filter fun h =>
    !(decide (512 ≤ h.site) && decide (h.since + 2 ≤ s.flue.cycle)) } }) ⟨rfl, rfl⟩ (slotKept_foldl (fun u h => ?_) _ _)
  split
  · exact slotKept_intoIngress _ _ _
  · exact SlotKept.refl _

theorem slotKept_injectDraught (s : State) (p : Site) (rot turn : Nat) : SlotKept s (injectDraught s p rot turn) := by
  unfold injectDraught
  (repeat' split) <;> exact ⟨rfl, rfl⟩

theorem slotKept_injectSelf (s : State) (p : Site) : SlotKept s (injectSelf s p) := by
  unfold injectSelf
  (repeat' split) <;> exact ⟨rfl, rfl⟩

theorem slotKept_injectRing (s : State) (m turn : Nat) : SlotKept s (injectRing s m turn) := by
  unfold injectRing
  dsimp only
  (repeat' split) <;> exact ⟨rfl, rfl⟩

theorem slotKept_draughtTurns (s : State) : SlotKept s (draughtTurns s) := by
  unfold draughtTurns
  refine slotKept_ite (SlotKept.refl s) (SlotKept.trans ?_ (slotKept_foldl (fun u p => ?_) _ _))
  · exact (slotKept_ite (slotKept_injectDraught _ _ _ _) (SlotKept.refl s)).trans
      (slotKept_ite (slotKept_injectRing _ _ _) (SlotKept.refl _))
  · split
    · exact slotKept_ite (slotKept_injectDraught _ _ _ _) (SlotKept.refl u)
    · exact SlotKept.refl u

/-! #### The counts at the end of a cycle -/

theorem slotKept_highWater (s : State) : SlotKept s (highWater s) := by
  refine slotKept_foldl (fun u p => ?_) _ s
  dsimp only
  split
  · exact slotKept_ite (slotKept_modCore _ _ _) (SlotKept.refl u)
  · exact SlotKept.refl u

theorem slotKept_counts (s : State) : SlotKept s (countTime (countBelow s)) := ⟨rfl, rfl⟩

/-! #### Restarts (R409) -/

/-- The end of a stop at one hearth. -/
def endStop (t : State) (n : Nat) : State :=
  match (t.hearth n).restartAt with
  | some c =>
    if c ≤ t.flue.cycle then
      setStop (t.modHearth n fun h => { h with frozen := false, restartAt := none, stopTo := none, state := stopState h false }) n false
    else t
  | none => t

theorem endStops_eq (s : State) : endStops s = (List.range 16).foldl endStop s := rfl

theorem setStop_frame (s : State) (n : Nat) (b : Bool) : setStop s n b = { s with hearths := (setStop s n b).hearths, flue := (setStop s n b).flue } :=
  rfl

theorem endStop_frame (s : State) (n : Nat) : endStop s n = { s with hearths := (endStop s n).hearths, flue := (endStop s n).flue } := by
  unfold endStop
  split
  · split
    · exact setStop_frame ..
    · rfl
  · rfl

theorem endStop_cycle (s : State) (n : Nat) : (endStop s n).flue.cycle = s.flue.cycle := by
  unfold endStop
  (repeat' split) <;> rfl

theorem endStop_other {n m : Nat} (h : m ≠ n) (s : State) : (endStop s n).hearth m = s.hearth m := by
  unfold endStop
  split
  · split
    · rw [setStop_hearth_other _ h, State.modHearth_hearth, if_neg h]
    · rfl
  · rfl

/-- A hearth whose last row restarts runs again. -/
def Restarted (h : Hearth) : Prop := h.frozen = false ∧ h.restartAt = none ∧ h.stopTo = none ∧ h.stopBit = false

theorem endStop_due {n k : Nat} (h : (s.hearth n).restartAt = some k) (hk : k ≤ s.flue.cycle) :
    Restarted ((endStop s n).hearth n) := by
  unfold endStop
  rw [h]
  dsimp only
  rw [if_pos hk, setStop_hearth_same, State.modHearth_hearth_same]
  exact ⟨rfl, rfl, rfl, rfl⟩

theorem endStop_idle {n : Nat} (h : ∀ k, (s.hearth n).restartAt = some k → s.flue.cycle < k) : endStop s n = s := by
  unfold endStop
  split
  next k hk => rw [if_neg (by have := h k hk; omega)]
  next => rfl

/-- The walk over the hearths keeps the time, changes each hearth by its own turn alone, and leaves the rest of the block. -/
theorem endStops_frame (l : List Nat) (s : State) : l.foldl endStop s =
    { s with hearths := (l.foldl endStop s).hearths, flue := (l.foldl endStop s).flue } ∧
    (l.foldl endStop s).flue.cycle = s.flue.cycle := by
  refine foldl_prop (p := fun u : State => u = { s with hearths := u.hearths, flue := u.flue } ∧ u.flue.cycle = s.flue.cycle)
    (fun u n hu => ⟨?_, (endStop_cycle u n).trans hu.2⟩) l ⟨rfl, rfl⟩
  rw [endStop_frame, hu.1]

theorem endStops_hearth_absent {n : Nat} : ∀ {l : List Nat}, n ∉ l → ∀ s, (l.foldl endStop s).hearth n = s.hearth n
  | [], _, _ => rfl
  | m :: l, h, s => by
    rw [List.mem_cons, not_or] at h
    rw [List.foldl_cons, endStops_hearth_absent h.2, endStop_other h.1]

/-- What a hearth's own turn makes of it stands at the end of the walk. -/
theorem endStops_hearth {n : Nat} {p : Hearth → Prop}
    (hp : ∀ u : State, u.hearth n = s.hearth n → u.flue.cycle = s.flue.cycle → p ((endStop u n).hearth n)) :
    ∀ {l : List Nat}, l.Nodup → n ∈ l → ∀ u : State, u.hearth n = s.hearth n → u.flue.cycle = s.flue.cycle → p ((l.foldl endStop u).hearth n)
  | m :: l, hl, hn, u, hu, hc => by
    rw [List.nodup_cons] at hl
    rw [List.foldl_cons]
    by_cases h : n = m
    · subst h
      rw [endStops_hearth_absent hl.1]
      exact hp u hu hc
    · refine endStops_hearth hp hl.2 ((List.mem_cons.1 hn).resolve_left h) _ ?_ ?_
      · rw [endStop_other h, hu]
      · rw [endStop_cycle, hc]

/-- The stages of a Flue cycle before the hearths' restarts: changes take effect and flits arrive, streams move, draughts move. -/
def switchesAndArrivals (bad : List (Site × Dir)) (s : State) : State :=
  arrivals bad (endCrossings (applySwitches (applyStreamStops (applyStops s))))

def movements (bad : List (Site × Dir)) (s : State) : State :=
  draughtTurns ((List.range 256).foldl injectSelf (ejections (hops bad ((List.range 256).foldl injectSlot s))))

def slotStages (bad : List (Site × Dir)) (s : State) : State :=
  countTime (countBelow (highWater (endCrossings (movements bad (switchesAndArrivals bad s)))))

theorem flueCycle_eq (bad : List (Site × Dir)) (s : State) : flueCycle bad s =
    { endStops (slotStages bad s) with flue := { (endStops (slotStages bad s)).flue with
        cycle := (endStops (slotStages bad s)).flue.cycle + 1 } } := by
  unfold flueCycle slotStages movements switchesAndArrivals
  rfl

theorem slotKept_switchesAndArrivals (bad : List (Site × Dir)) (s : State) : SlotKept s (switchesAndArrivals bad s) :=
  ((((slotKept_applyStops s).trans (slotKept_applyStreamStops _)).trans (slotKept_applySwitches _)).trans
    (slotKept_endCrossings _)).trans (slotKept_arrivals bad _)

theorem slotKept_movements (bad : List (Site × Dir)) (s : State) : SlotKept s (movements bad s) :=
  ((((slotKept_foldl slotKept_injectSlot (List.range 256) s).trans (slotKept_hops bad _)).trans (slotKept_ejections _)).trans
    (slotKept_foldl slotKept_injectSelf (List.range 256) _)).trans (slotKept_draughtTurns _)

theorem slotKept_slotStages (bad : List (Site × Dir)) (s : State) : SlotKept s (slotStages bad s) := by
  unfold slotStages
  have h1 := (slotKept_switchesAndArrivals bad s).trans (slotKept_movements bad _)
  have h2 := (h1.trans (slotKept_endCrossings _)).trans (slotKept_highWater _)
  exact h2.trans (slotKept_counts _)

theorem tick_fields {f e : State} (h : f = { e with flue := { e.flue with cycle := e.flue.cycle + 1 } }) :
    f.hearths = e.hearths ∧ f.flue.cycle = e.flue.cycle + 1 ∧ f = { e with flue := f.flue } := by
  subst h
  exact ⟨rfl, rfl, rfl⟩

/-- A slot is the stages, the restarts, and the step of time. -/
theorem flueCycle_spec (bad : List (Site × Dir)) (s : State) : ∃ t, SlotKept s t ∧ (flueCycle bad s).hearths = (endStops t).hearths ∧
    (flueCycle bad s).flue.cycle = (endStops t).flue.cycle + 1 ∧
    flueCycle bad s = { endStops t with flue := (flueCycle bad s).flue } :=
  ⟨slotStages bad s, slotKept_slotStages bad s, tick_fields (flueCycle_eq bad s)⟩

/-- Settles O32: every stage keeps what the frame says, and the last one restarts the hearths that are due. -/
theorem routerSlotIsOneFlueCycle : Obligations.RouterSlotIsOneFlueCycle := by
  intro s bad
  obtain ⟨t, ⟨hframe, hcycle⟩, hhs, hcyc, hflue⟩ := flueCycle_spec bad s
  have hhearth : ∀ n, t.hearth n = s.hearth n := fun n => by rw [hframe]; rfl
  have hread : ∀ n, (flueCycle bad s).hearth n = (endStops t).hearth n := fun n => by rw [State.hearth, hhs]; rfl
  obtain ⟨hend, hendc⟩ := endStops_frame (List.range 16) t
  refine ⟨flueCycle bad s, rfl, ?_, fun n hn k hk hkc => ?_, fun n hn hlater => ?_, ?_⟩
  · rw [hcyc, endStops_eq, hendc, hcycle]
  · rw [hread]
    refine endStops_hearth (s := t) (p := Restarted) (fun u hu hc => endStop_due (k := k) ?_ ?_) List.nodup_range (List.mem_range.2 hn) t rfl rfl
    · rw [hu, hhearth, hk]
    · rw [hc, hcycle]
      exact hkc
  · rw [hread]
    refine endStops_hearth (s := t) (p := fun h => h = s.hearth n) (fun u hu hc => ?_) List.nodup_range (List.mem_range.2 hn) t rfl rfl
    rw [endStop_idle fun k hk => ?_, hu, hhearth]
    rw [hc, hcycle]
    exact hlater k (by rw [← hk, hu, hhearth])
  · rw [hflue, endStops_eq, hend, hframe]

end Sys2Proof.Machine

/-! ### Host memory, and what the ring engine touches (R271, R280, R281, R285) -/

namespace Sys2Proof.Machine

variable {s t u : State}

/-! #### Reading back what the device stored -/

/-- The byte at an address that a store of bytes from `a + n` on does not cover. -/
theorem mget_store_outside {a x : Nat} : ∀ {l : List Byte} {n : Nat} {m : SMap Byte}, (x < a + n ∨ a + n + l.length ≤ x) →
    mget 0 ((l.zipIdx n).foldl (fun m e => mset 0 m (a + e.2) e.1) m) x = mget 0 m x
  | [], _, _, _ => rfl
  | b :: l, n, m, h => by
    rw [List.length_cons] at h
    rw [List.zipIdx_cons, List.foldl_cons, mget_store_outside (by omega), mget_mset_other _ _ (by omega)]

theorem mget_store_inside {a : Nat} : ∀ {l : List Byte} {n : Nat} {m : SMap Byte} {i : Nat} {b : Byte}, l[i]? = some b →
    mget 0 ((l.zipIdx n).foldl (fun m e => mset 0 m (a + e.2) e.1) m) (a + n + i) = b
  | c :: l, n, m, 0, b, h => by
    cases h
    rw [List.zipIdx_cons, List.foldl_cons, Nat.add_zero (a + n)]
    dsimp only
    rw [ mget_store_outside (.inl (by omega)), mget_mset_same]
  | c :: l, n, m, i + 1, b, h => by
    rw [List.zipIdx_cons, List.foldl_cons, show a + n + (i + 1) = a + (n + 1) + i by omega]
    exact mget_store_inside h

theorem mget_hostStore_outside {a x : Nat} {l : List Byte} (h : x < a ∨ a + l.length ≤ x) :
    mget 0 (hostStore s a l).host x = mget 0 s.host x := mget_store_outside (n := 0) h

theorem hostBytes_hostStore (s : State) (a : Nat) (l : List Byte) : hostBytes (hostStore s a l) a l.length = l := by
  refine List.ext_getElem? fun i => ?_
  by_cases hi : i < l.length
  · have hget : l[i]? = some l[i] := List.getElem?_eq_getElem hi
    rw [hget, hostBytes, List.getElem?_map, List.getElem?_range hi]
    exact congrArg some (mget_store_inside (n := 0) hget)
  · rw [List.getElem?_eq_none (by simp [hostBytes]; omega), List.getElem?_eq_none (by omega)]

theorem hostKept_hostStore (s : State) (a : Nat) (l : List Byte) : HostKept s (hostStore s a l) a l.length := fun _ h =>
  mget_hostStore_outside h

theorem hostBytes_congr (h : u.host = t.host) (a n : Nat) : hostBytes u a n = hostBytes t a n := by simp only [hostBytes, h]

@[simp] theorem leBytes_length : ∀ n v, (leBytes n v).length = n
  | 0, _ => rfl
  | n + 1, v => by rw [leBytes, List.length_cons, leBytes_length n]

theorem acceptBytes_length (s : State) (x : Item) : (acceptBytes s x).length = 32 := by simp [acceptBytes]

theorem completionBytes_length (g : Ring) (x : Item) (st : U8) (d : BitVec 128) : (completionBytes g x st d).length = 32 := by
  simp [completionBytes]

/-! #### The rings and host memory alone -/

/-- From `s` to `t` nothing has changed but the ring engine and host memory. -/
def RingHostAlone (s t : State) : Prop := t = { s with ring := t.ring, host := t.host }

theorem RingHostAlone.refl (s : State) : RingHostAlone s s := rfl

theorem RingHostAlone.baker (h : RingHostAlone s t) : t.baker = s.baker := by
  unfold RingHostAlone at h
  rw [h]

theorem RingHostAlone.trans (h : RingHostAlone s t) (k : RingHostAlone t u) : RingHostAlone s u := by
  unfold RingHostAlone at *
  rw [k, h]

theorem ringHostAlone_modRing (s : State) (r : Nat) (f : Ring → Ring) : RingHostAlone s (s.modRing r f) := rfl

theorem ringHostAlone_modItem (s : State) (r : Nat) (i : U32) (f : Item → Item) : RingHostAlone s (modItem s r i f) := rfl

theorem ringHostAlone_writeAccept (s : State) (r : Nat) (i : U32) : RingHostAlone s (writeAccept s r i) := by
  unfold writeAccept
  split <;> rfl

theorem ringHostAlone_endItem (s : State) (r : Nat) (i : U32) (c : U8) (d : BitVec 128) : RingHostAlone s (endItem s r i c d) := by
  unfold endItem
  split
  · rfl
  · split
    · rfl
    · split
      · rfl
      · have h := (ringHostAlone_modItem s r i fun t => { t with status := some (c, d), state := 4 }).trans
          (ringHostAlone_writeAccept _ r i)
        dsimp only
        split
        · exact h.trans rfl
        · exact h

theorem ringHostAlone_foldl {α : Type} {f : State → α → State} (h : ∀ u x, RingHostAlone u (f u x)) (l : List α) (s : State) :
    RingHostAlone s (l.foldl f s) :=
  foldl_prop (p := RingHostAlone s) (fun u x hu => hu.trans (h u x)) l rfl

theorem mergeHost_ring (s : State) (l : List Host.Cell) : (mergeHost s l).ring = s.ring := by
  unfold mergeHost
  split <;> rfl

theorem mergeHost_workRing (s : State) (l : List Host.Cell) (r : Nat) : (mergeHost s l).workRing r = s.workRing r := by
  rw [State.workRing, mergeHost_ring, State.workRing]

theorem ringHostAlone_mergeHost (s : State) (l : List Host.Cell) : RingHostAlone s (mergeHost s l) := by
  unfold mergeHost
  split <;> rfl

/-! #### The three passes (R291) -/

theorem ringHostAlone_applyCancel (s : State) (r : Nat) (i : U32) : RingHostAlone s (applyCancel s r i) := by
  unfold applyCancel
  dsimp only
  repeat' split
  · rfl
  · rfl
  · rfl
  · exact (ringHostAlone_endItem s r i 2 0).trans rfl

theorem ringHostAlone_cancelRing (s : State) (r : Nat) : RingHostAlone s (cancelRing s r) :=
  (ringHostAlone_modRing s r _).trans (ringHostAlone_foldl (fun u i => ringHostAlone_applyCancel u r i) _ _)

theorem ringHostAlone_readyItem (s : State) (r : Nat) (x : Item) : RingHostAlone s (readyItem s r x) := by
  unfold readyItem
  repeat' split
  · rfl
  · exact ringHostAlone_endItem ..
  · rfl
  · rfl

theorem ringHostAlone_letStart (s : State) (r : Nat) (x : Item) : RingHostAlone s (letStart s r x) := by
  unfold letStart
  repeat' split
  · rfl
  · exact (ringHostAlone_modItem s r x.index _).trans (ringHostAlone_endItem ..)
  · rfl
  · rfl

theorem ringHostAlone_passRing {act : State → Nat → Item → State} (h : ∀ u r x, RingHostAlone u (act u r x)) (s : State)
    (e : Nat × List U32) : RingHostAlone s (passRing act s e) := by
  refine ringHostAlone_foldl (fun u i => ?_) _ s
  split
  · exact h _ _ _
  · rfl

theorem ringHostAlone_raiseDue (s : State) (r : Nat) : RingHostAlone s (raiseDue s r) := by
  unfold raiseDue
  dsimp only
  split <;> rfl

/-- The three passes over the items of a pass, before the interrupts that moderation held back. -/
def itemPasses (s : State) : State :=
  (ringItems ((List.range 64).foldl cancelRing s) (·.ready)).foldl (passRing letStart)
    ((ringItems ((List.range 64).foldl cancelRing s) fun _ => true).foldl (passRing readyItem) ((List.range 64).foldl cancelRing s))

theorem exec_readinessPass (s : State) : exec .readinessPass s = .next ((List.range 64).foldl raiseDue (itemPasses s)) := by
  unfold exec execReadinessPass itemPasses
  rfl

theorem ringHostAlone_readinessPass (s : State) : RingHostAlone s ((List.range 64).foldl raiseDue (itemPasses s)) := by
  refine RingHostAlone.trans ?_ (ringHostAlone_foldl ringHostAlone_raiseDue _ _)
  refine RingHostAlone.trans ?_ (ringHostAlone_foldl (ringHostAlone_passRing ringHostAlone_letStart) _ _)
  refine RingHostAlone.trans ?_ (ringHostAlone_foldl (ringHostAlone_passRing ringHostAlone_readyItem) _ _)
  exact ringHostAlone_foldl ringHostAlone_cancelRing _ _

/-! #### The order of a ring -/

/-- Ring `k` keeps its position and the order of its items. -/
def OrderKept (k : Nat) (s t : State) : Prop :=
  (t.workRing k).head = (s.workRing k).head ∧ (t.workRing k).ledger.map (·.index) = (s.workRing k).ledger.map (·.index) ∧
    ((s.workRing k).cancels = [] → (t.workRing k).cancels = [])

theorem OrderKept.refl (k : Nat) (s : State) : OrderKept k s s := ⟨rfl, rfl, id⟩

theorem OrderKept.trans {k : Nat} (h : OrderKept k s t) (g : OrderKept k t u) : OrderKept k s u :=
  ⟨g.1.trans h.1, g.2.1.trans h.2.1, g.2.2 ∘ h.2.2⟩

theorem orderKept_of_ring {k : Nat} (h : t.workRing k = s.workRing k) : OrderKept k s t := by
  unfold OrderKept
  rw [h]
  exact ⟨rfl, rfl, id⟩

theorem orderKept_modRing {k r : Nat} {f : Ring → Ring} (hf : ∀ g, (f g).head = g.head ∧ (f g).ledger.map (·.index) = g.ledger.map (·.index) ∧
    (g.cancels = [] → (f g).cancels = [])) : OrderKept k s (s.modRing r f) := by
  unfold OrderKept
  rw [State.modRing_workRing]
  split
  next h => rw [h]; exact hf _
  next => exact ⟨rfl, rfl, id⟩

theorem orderKept_foldl {α : Type} {k : Nat} {f : State → α → State} (h : ∀ u x, OrderKept k u (f u x)) (l : List α) (s : State) :
    OrderKept k s (l.foldl f s) :=
  foldl_prop (p := OrderKept k s) (fun u x hu => hu.trans (h u x)) l (OrderKept.refl k s)

theorem orderKept_modItem {k r : Nat} {i : U32} {f : Item → Item} (hf : ∀ x, (f x).index = x.index) : OrderKept k s (modItem s r i f) := by
  refine orderKept_modRing fun g => ⟨rfl, ?_, id⟩
  rw [List.map_map]
  refine List.map_congr_left fun x _ => ?_
  dsimp only [Function.comp]
  split
  · exact hf x
  · rfl

theorem orderKept_endItem {k : Nat} (r : Nat) (i : U32) (c : U8) (d : BitVec 128) : OrderKept k s (endItem s r i c d) := by
  unfold endItem
  split
  · exact OrderKept.refl k s
  · split
    · exact OrderKept.refl k s
    · split
      · exact orderKept_modItem fun _ => rfl
      · have h : OrderKept k s (writeAccept (modItem s r i fun t => { t with status := some (c, d), state := 4 }) r i) :=
          (orderKept_modItem (s := s) (f := fun t => { t with status := some (c, d), state := 4 }) fun _ => rfl).trans
            (orderKept_of_ring (writeAccept_workRing r i k))
        dsimp only
        split
        · exact h
        · exact h

theorem orderKept_applyCancel {k : Nat} (r : Nat) (i : U32) : OrderKept k s (applyCancel s r i) := by
  have hput : ∀ (u : State) (n : BitVec 2), OrderKept k u (u.modRing r fun g => { g with cancelIx := i, cstat := n }) :=
    fun u n => orderKept_modRing fun _ => ⟨rfl, rfl, id⟩
  unfold applyCancel
  dsimp only
  repeat' split
  · exact hput _ _
  · exact hput _ _
  · exact hput _ _
  · exact (orderKept_endItem r i 2 0).trans (hput _ _)

theorem orderKept_cancelRing {k : Nat} (s : State) (r : Nat) : OrderKept k s (cancelRing s r) :=
  (orderKept_modRing (f := fun g => { g with cancels := [] }) fun _ => ⟨rfl, rfl, fun _ => rfl⟩).trans (orderKept_foldl (fun _ i => orderKept_applyCancel r i) _ _)

theorem orderKept_readyItem {k : Nat} (s : State) (r : Nat) (x : Item) : OrderKept k s (readyItem s r x) := by
  unfold readyItem
  repeat' split
  · exact OrderKept.refl k s
  · exact orderKept_endItem ..
  · exact orderKept_modItem fun _ => rfl
  · exact OrderKept.refl k s

theorem orderKept_letStart {k : Nat} (s : State) (r : Nat) (x : Item) : OrderKept k s (letStart s r x) := by
  unfold letStart
  repeat' split
  · exact OrderKept.refl k s
  · exact (orderKept_modItem (f := fun t => { t with started := true }) fun _ => rfl).trans (orderKept_endItem ..)
  · exact orderKept_modItem fun _ => rfl
  · exact orderKept_modItem fun _ => rfl

theorem orderKept_passRing {k : Nat} {act : State → Nat → Item → State} (h : ∀ u r x, OrderKept k u (act u r x)) (s : State)
    (e : Nat × List U32) : OrderKept k s (passRing act s e) := by
  refine orderKept_foldl (fun u i => ?_) _ s
  split
  · exact h _ _ _
  · exact OrderKept.refl k u

theorem orderKept_raiseDue {k : Nat} (s : State) (r : Nat) : OrderKept k s (raiseDue s r) := by
  unfold raiseDue
  dsimp only
  split
  · exact (orderKept_modRing (f := fun g => { g with irqAt := some s.flue.cycle, irqDue := false }) fun _ => ⟨rfl, rfl, id⟩).trans
      (orderKept_of_ring (raiseMsix_workRing _ _))
  · exact OrderKept.refl k s

/-- The walk of the first pass takes the cancels of every ring it visits. -/
theorem cancelRings_cancels {k : Nat} : ∀ {l : List Nat} {s : State}, (k ∈ l ∨ (s.workRing k).cancels = []) →
    ((l.foldl cancelRing s).workRing k).cancels = []
  | [], _, h => h.resolve_left (List.not_mem_nil)
  | r :: l, s, h => by
    rw [List.foldl_cons]
    refine cancelRings_cancels ?_
    by_cases hk : k = r
    · subst hk
      refine .inr ((orderKept_foldl (fun _ i => orderKept_applyCancel k i) _ _).2.2 ?_)
      rw [State.modRing_workRing_same]
    · exact h.imp (fun hm => (List.mem_cons.1 hm).resolve_left hk) (orderKept_cancelRing s r).2.2

theorem readinessPass_order {k : Nat} (hk : k < 64) (s : State) :
    (((List.range 64).foldl raiseDue (itemPasses s)).workRing k).cancels = [] ∧
      OrderKept k s ((List.range 64).foldl raiseDue (itemPasses s)) := by
  have h1 : OrderKept k s ((List.range 64).foldl cancelRing s) := orderKept_foldl orderKept_cancelRing _ _
  have h2 : OrderKept k ((List.range 64).foldl cancelRing s) ((List.range 64).foldl raiseDue (itemPasses s)) := by
    refine OrderKept.trans ?_ (orderKept_foldl orderKept_raiseDue _ _)
    exact (orderKept_foldl (orderKept_passRing orderKept_readyItem) _ _).trans (orderKept_foldl (orderKept_passRing orderKept_letStart) _ _)
  exact ⟨h2.2.2 (cancelRings_cancels (.inl (List.mem_range.2 hk))), h1.trans h2⟩

/-! #### The readiness pass, seen from one ring -/

/-- Two states of a ring with the same items and the same answer to the last cancel. -/
def ItemsSame (g h : Ring) : Prop := h.ledger = g.ledger ∧ h.cstat = g.cstat ∧ h.cancelIx = g.cancelIx

theorem itemsSame_raiseDue (r k : Nat) : ItemsSame (s.workRing k) ((raiseDue s r).workRing k) := by
  unfold raiseDue
  dsimp only
  split
  · unfold ItemsSame raiseRing
    rw [raiseMsix_workRing, State.modRing_workRing]
    split
    next h => rw [h]; exact ⟨rfl, rfl, rfl⟩
    next => exact ⟨rfl, rfl, rfl⟩
  · exact ⟨rfl, rfl, rfl⟩

/-- What a readiness pass does to one ring: its cancels, then its second pass over all items, then its third over those that were ready
before. -/
theorem readinessPass_ring {r : Nat} (hr : r < 64) (s : State) : ∃ t u1 u2 u3, exec .readinessPass s = .next t ∧
    u1.workRing r = s.workRing r ∧ u2.workRing r = (cancelRing u1 r).workRing r ∧
    u3.workRing r = (passRing readyItem u2 (r, (u2.workRing r).ledger.map (·.index))).workRing r ∧
    ItemsSame ((passRing letStart u3 (r, ((u2.workRing r).ledger.filter (·.ready)).map (·.index))).workRing r) (t.workRing r) := by
  obtain ⟨u1, hu1, h1⟩ := foldl_workRing (f := cancelRing) (key := id) (r := r) (fun u e he => cancelRing_workRing_other (Ne.symm he)) s
    (by rw [List.map_id]; exact List.nodup_range (n := 64)) (List.mem_range.2 hr) rfl
  refine ⟨(List.range 64).foldl raiseDue (itemPasses s), u1, ?_⟩
  rw [exec_readinessPass]
  unfold itemPasses
  generalize (List.range 64).foldl cancelRing s = t1 at h1 ⊢
  obtain ⟨u2, hu2, h2⟩ := passRings_workRing (s := t1) (v := t1) (fun _ _ t hq => readyItem_workRing_other hq t) hr fun _ => true
  generalize (ringItems t1 fun _ => true).foldl (passRing readyItem) t1 = t2 at h2 ⊢
  obtain ⟨u3, hu3, h3⟩ := passRings_workRing (s := t2) (v := t1) (fun _ _ t hq => letStart_workRing_other hq t) hr (·.ready)
  generalize (ringItems t1 (·.ready)).foldl (passRing letStart) t2 = t3 at h3 ⊢
  refine ⟨u2, u3, rfl, hu1, hu2.trans h1, ?_, ?_⟩
  · rw [hu3, h2, hu2, List.filter_true]
  · rw [hu2, ← h3]
    exact foldl_prop (p := fun u : State => ItemsSame (t3.workRing r) (u.workRing r)) (fun u q hu =>
      have hq := itemsSame_raiseDue (s := u) q r
      ⟨hq.1.trans hu.1, hq.2.1.trans hu.2.1, hq.2.2.trans hu.2.2⟩) _ ⟨rfl, rfl, rfl⟩

section OneItem

variable {r : Nat} {x : Item} (hl : (s.workRing r).ledger = [x])
include hl

theorem getItem_only : getItem s r x.index = some x := by simp [getItem, hl]

theorem passRing_only {act : State → Nat → Item → State} : passRing act s (r, [x.index]) = act s r x := by
  simp [passRing, getItem_only hl]

theorem modItem_only (f : Item → Item) : ((modItem s r x.index f).workRing r).ledger = [f x] := by
  simp [modItem_workRing_same, hl]

theorem readyItem_only (hs : x.status = none) (hst : x.started = false) (hr : x.ready = false) (hw : wdWen x.desc = false) :
    readyItem s r x = modItem s r x.index fun x => { x with ready := true } := by
  have hd : duplicateOf (s.workRing r) x = none := by simp [duplicateOf, earlier, hl]
  have hready : itemReady s r x = true := by simp [itemReady, hw]
  simp only [readyItem, hs, hst, hr, hd, hready, Option.isSome_none, Bool.or_self, Bool.false_eq_true, if_false, if_true]

theorem letStart_only (hs : x.status = none) (hst : x.started = false) (hop : wdOp x.desc = 0 ∨ wdOp x.desc = 1) :
    letStart s r x = modItem s r x.index fun x => { x with startable := true } := by
  have hstarts : itemStarts s r x = true := by obtain h | h := hop <;> simp [itemStarts, h]
  have h6 : ¬ 6 ≤ wdOp x.desc := by omega
  simp only [letStart, hs, hst, hstarts, h6, Option.isSome_none, Bool.or_self, Bool.false_eq_true, if_false, if_true]

theorem letStart_reserved (hs : x.status = none) (hst : x.started = false) (hop : 6 ≤ wdOp x.desc) :
    ((letStart s r x).workRing r).ledger = [{ x with started := true, status := some (3, 511), state := 4 }] := by
  have hstarts : itemStarts s r x = true := by
    have h2 : ¬ (wdOp x.desc = 2 ∨ wdOp x.desc = 4) := by omega
    have h5 : ¬ wdOp x.desc = 5 := by omega
    simp only [itemStarts, if_neg h2, if_neg h5]
  have heq : letStart s r x = endInvalid (modItem s r x.index fun x => { x with started := true }) r x.index 511 := by
    simp only [letStart, hs, hst, hstarts, hop, Option.isSome_none, Bool.or_self, Bool.false_eq_true, if_false, if_true]
  have hm : ((modItem s r x.index fun x => { x with started := true }).workRing r).ledger = [{ x with started := true }] :=
    modItem_only hl _
  have hg := getItem_only hm
  rw [heq, endInvalid, endItem_workRing_failed hg hs (by decide), modItem_only hm]
  rfl

/-- The cancel of an item that waits ends it CANCELLED. -/
theorem applyCancel_only (hs : x.status = none) (hst : x.started = false) (hi : 2 ^ 31 ≤ (x.index - (s.workRing r).head).toNat) :
    ((applyCancel s r x.index).workRing r).ledger = [{ x with status := some (2, 0), state := 4 }] ∧
      ((applyCancel s r x.index).workRing r).cstat = 0 ∧ ((applyCancel s r x.index).workRing r).cancelIx = x.index := by
  have heq : applyCancel s r x.index = (endItem s r x.index 2 0).modRing r fun g => { g with cancelIx := x.index, cstat := 0 } := by
    simp only [applyCancel, getItem_only hl, hs, hst, if_neg (Nat.not_lt.2 hi), Option.isSome_none, Bool.or_self, Bool.false_eq_true,
      if_false]
  rw [heq, State.modRing_workRing_same, endItem_workRing_failed (getItem_only hl) hs (by decide)]
  exact ⟨modItem_only hl _, rfl, rfl⟩

end OneItem

/-- A ring whose cancels are empty, through the whole readiness pass. -/
theorem readinessPass_only {r : Nat} {x : Item} (hr : r < 64) (hl : (s.workRing r).ledger = [x]) (hc : (s.workRing r).cancels = []) :
    ∃ t u2 u3, exec .readinessPass s = .next t ∧ u2.workRing r = s.workRing r ∧
      u3.workRing r = (readyItem u2 r x).workRing r ∧
      (t.workRing r).ledger = ((passRing letStart u3 (r, if x.ready then [x.index] else [])).workRing r).ledger := by
  obtain ⟨t, u1, u2, u3, hexec, h1, h2, h3, h4⟩ := readinessPass_ring hr s
  have h2 : u2.workRing r = s.workRing r := h2.trans ((cancelRing_workRing_none (by rw [h1, hc])).trans h1)
  have hl2 : (u2.workRing r).ledger = [x] := by rw [h2, hl]
  refine ⟨t, u2, u3, hexec, h2, ?_, ?_⟩
  · rw [h3, hl2, List.map_singleton, passRing_only hl2]
  · rw [h4.1, hl2, List.filter_singleton]
    cases x.ready <;> rfl

theorem readinessPass_readies {r : Nat} {x : Item} (hr : r < 64) (hl : (s.workRing r).ledger = [x]) (hc : (s.workRing r).cancels = [])
    (hs : x.status = none) (hst : x.started = false) (hrd : x.ready = false) (hw : wdWen x.desc = false) :
    ∃ t, exec .readinessPass s = .next t ∧ (t.workRing r).ledger = [{ x with ready := true }] := by
  obtain ⟨t, u2, u3, hexec, h2, h3, ht⟩ := readinessPass_only hr hl hc
  have hl2 : (u2.workRing r).ledger = [x] := by rw [h2, hl]
  refine ⟨t, hexec, ?_⟩
  rw [ht, hrd, if_neg Bool.false_ne_true, passRing, List.foldl_nil, h3, readyItem_only hl2 hs hst hrd hw]
  exact modItem_only hl2 _

/-- An item that was ready before meets the third pass as it stood. -/
theorem readinessPass_starts {r : Nat} {x : Item} (hr : r < 64) (hl : (s.workRing r).ledger = [x]) (hc : (s.workRing r).cancels = [])
    (hrd : x.ready = true) : ∃ t u, exec .readinessPass s = .next t ∧ (u.workRing r).ledger = [x] ∧
      (t.workRing r).ledger = ((letStart u r x).workRing r).ledger := by
  obtain ⟨t, u2, u3, hexec, h2, h3, ht⟩ := readinessPass_only hr hl hc
  have hidle : readyItem u2 r x = u2 := by simp [readyItem, hrd]
  have hl3 : (u3.workRing r).ledger = [x] := by rw [h3, hidle, h2, hl]
  refine ⟨t, u3, hexec, hl3, ?_⟩
  rw [ht, hrd, if_pos rfl, passRing_only hl3]

theorem readinessPass_cancels {r : Nat} {x : Item} (hr : r < 64) (hl : (s.workRing r).ledger = [x])
    (hc : (s.workRing r).cancels = [x.index]) (hs : x.status = none) (hst : x.started = false)
    (hi : 2 ^ 31 ≤ (x.index - (s.workRing r).head).toNat) : ∃ t, exec .readinessPass s = .next t ∧
      (t.workRing r).ledger = [{ x with status := some (2, 0), state := 4 }] ∧ (t.workRing r).cstat = 0 ∧
      (t.workRing r).cancelIx = x.index := by
  obtain ⟨t, u1, u2, u3, hexec, h1, h2, h3, h4⟩ := readinessPass_ring hr s
  have hu1 : (u1.modRing r fun g => { g with cancels := [] }).workRing r = { s.workRing r with cancels := [] } := by
    rw [State.modRing_workRing_same, h1]
  have hone : cancelRing u1 r = applyCancel (u1.modRing r fun g => { g with cancels := [] }) r x.index := by
    rw [cancelRing, h1, hc, List.foldl_cons, List.foldl_nil]
  obtain ⟨hl2, hstat, hix⟩ := applyCancel_only (s := u1.modRing r fun g => { g with cancels := [] }) (x := x)
    (by rw [hu1, hl]) hs hst (by rw [hu1]; exact hi)
  rw [← hone, ← h2] at hl2 hstat hix
  have hready : passRing readyItem u2 (r, (u2.workRing r).ledger.map (·.index)) = u2 :=
    passRing_idle fun y hy => by
      rw [hl2, List.mem_singleton] at hy
      simp [readyItem, hy]
  rw [hready] at h3
  have hstart : passRing letStart u3 (r, ((u2.workRing r).ledger.filter (·.ready)).map (·.index)) = u3 :=
    letStart_pass_idle (fun y hy => by
      rw [h3, hl2, List.mem_singleton] at hy
      simp [hy]) _
  rw [hstart, h3] at h4
  obtain ⟨hlt, hstatt, hixt⟩ := h4
  exact ⟨t, hexec, hlt.trans hl2, hstatt.trans hstat, hixt.trans hix⟩

/-! #### Acceptance (R271) -/

/-- The item that a ring accepts: the descriptor at its position, with the slot its bake names. -/
def acceptedItem (s : State) (r : Nat) : Item :=
  let g := s.workRing r
  let w : BitVec 512 := BitVec.ofNat 512 (hostNum s (g.descBase.toNat + 64 * (g.head.toNat % ringSize g)) 64)
  let t : Item := { index := g.head, desc := w, lref := g.lastLoad, slot := if wdOp w = 1 then 0 else wdBake w }
  { t with slot := match namedSlot s r (wdBake w) g.lastLoad with
    | .slot b => if wdOp w = 1 then 0 else b
    | _ => t.slot }

/-- A ring that has taken an item into its ledger. -/
def takeItem (x : Item) (g : Ring) : Ring :=
  { g with ledger := g.ledger ++ [x], lastLoad := if wdOp x.desc = 1 then some g.head else g.lastLoad, head := g.head + 1 }

/-- The state with the accepted item in its ledger, before its record is written. -/
def withAccepted (s : State) (r : Nat) : State :=
  let u := s.modRing r (takeItem (acceptedItem s r))
  { u with ring := { u.ring with accepted := u.ring.accepted + 1 } }

theorem exec_descriptorAccept (s : State) (r : Fin 64) (host : List Host.Cell) : exec (.descriptorAccept r host) s =
    .next (if mayAccept ((mergeHost s host).workRing r) then
      writeAccept (withAccepted (mergeHost s host) r) r ((mergeHost s host).workRing r).head else mergeHost s host) := by
  show execDescriptorAccept r host s = _
  unfold execDescriptorAccept
  cases h : mayAccept ((mergeHost s host).workRing r) with
  | false => simp [h]
  | true => simp only [h, Bool.not_true, Bool.false_eq_true, if_false, if_true]; rfl

theorem withAccepted_ring (s : State) (r : Nat) : (withAccepted s r).workRing r = takeItem (acceptedItem s r) (s.workRing r) :=
  State.modRing_workRing_same s r (takeItem (acceptedItem s r))

theorem writeAccept_eq {r : Nat} {i : U32} {x : Item} (h : getItem s r i = some x) : writeAccept s r i =
    hostStore s ((s.workRing r).alogBase.toNat + 32 * (i.toNat % ringSize (s.workRing r))) (acceptBytes s x) := by
  rw [writeAccept, h]

theorem getItem_withAccepted {r : Nat} (h : getItem s r (s.workRing r).head = none) :
    getItem (withAccepted s r) r (s.workRing r).head = some (acceptedItem s r) := by
  unfold getItem at h ⊢
  rw [withAccepted_ring, takeItem, List.find?_append, h]
  simp [takeItem, acceptedItem]

/-! #### Completion (R285) -/

/-- A ring whose first item has left the ledger, its record written. -/
def passHead (x : Item) (rest : List Item) (g : Ring) : Ring := { g with ledger := rest, complete := x.index + 1 }

/-- The state with the completion record of the first item written and the item out of the ledger. -/
def withCompleted (s : State) (r : Nat) (x : Item) (rest : List Item) (st : U8) (d : BitVec 128) : State :=
  (hostStore s ((s.workRing r).cmplBase.toNat + 32 * (x.index.toNat % ringSize (s.workRing r)))
    (completionBytes (s.workRing r) x st d)).modRing r (passHead x rest)

/-- A ring that holds its interrupt back. -/
def holdIrq (g : Ring) : Ring := { g with irqDue := true }

theorem exec_completionRecordWrite {r : Fin 64} {x : Item} {rest : List Item} {st : U8} {d : BitVec 128}
    (hl : (s.workRing r).ledger = x :: rest) (hs : x.status = some (st, d)) : exec (.completionRecordWrite r) s = .next
      (if rcIe (s.workRing r).ctl then
        if imodPassed s (s.workRing r) then raiseRing (withCompleted s r x rest st d) r
        else (withCompleted s r x rest st d).modRing r holdIrq
      else withCompleted s r x rest st d) := by
  show execCompletionRecordWrite r s = _
  unfold execCompletionRecordWrite
  cases hie : rcIe (s.workRing r).ctl with
  | false => simp only [hl, hs, hie, Bool.not_false, Bool.false_eq_true, if_false, if_true]; rfl
  | true => simp only [hl, hs, hie, Bool.not_true, Bool.false_eq_true, if_false, if_true]; rfl

/-! #### O37 -/

theorem descriptorAccept_takes (r : Fin 64) (host : List Host.Cell) (hm : mayAccept (s.workRing r) = true)
    (hn : getItem s r (s.workRing r).head = none) : ∃ t x,
     exec (.descriptorAccept r host) s = .next t ∧ (t.workRing r).head = (s.workRing r).head + 1 ∧
     (t.workRing r).ledger = (s.workRing r).ledger ++ [x] ∧ x.index = (s.workRing r).head ∧ x.status = none ∧ x.state = 1 ∧
     x.startable = false ∧ x.started = false ∧
     x.desc = BitVec.ofNat 512 (hostNum (mergeHost s host)
       ((s.workRing r).descBase.toNat + 64 * ((s.workRing r).head.toNat % ringSize (s.workRing r))) 64) ∧
     t.ring.accepted = s.ring.accepted + 1 ∧ (∀ q, q ≠ r.val → t.workRing q = s.workRing q) ∧
     hostBytes t ((s.workRing r).alogBase.toNat + 32 * ((s.workRing r).head.toNat % ringSize (s.workRing r))) 32 = acceptBytes s x ∧
     HostKept (mergeHost s host) t ((s.workRing r).alogBase.toNat + 32 * ((s.workRing r).head.toNat % ringSize (s.workRing r))) 32 ∧
     t = { s with ring := t.ring, host := t.host } := by
  have hring : (mergeHost s host).workRing r = s.workRing r := mergeHost_workRing s host r
  have hget : getItem (withAccepted (mergeHost s host) r) r (s.workRing r).head = some (acceptedItem (mergeHost s host) r) := by
    rw [← hring]
    exact getItem_withAccepted (by rw [hring]; exact (getItem_congr hring _).trans hn)
  have hrec : withAccepted (mergeHost s host) r = { s with ring := (withAccepted (mergeHost s host) r).ring, host := (mergeHost s host).host } := by
    have h := ringHostAlone_mergeHost s host
    unfold RingHostAlone at h
    rw [h]
    rfl
  have hin := withAccepted_ring (mergeHost s host) r
  rw [hring] at hin
  have hexec := exec_descriptorAccept s r host
  rw [hring, if_pos hm, writeAccept_eq hget, hin] at hexec
  have hlen := acceptBytes_length (withAccepted (mergeHost s host) r) (acceptedItem (mergeHost s host) r)
  have hbytes : acceptBytes (withAccepted (mergeHost s host) r) (acceptedItem (mergeHost s host) r) =
      acceptBytes s (acceptedItem (mergeHost s host) r) := by
    rw [hrec]
    rfl
  refine ⟨_, acceptedItem (mergeHost s host) r, hexec, congrArg Ring.head hin, congrArg Ring.ledger hin, congrArg Ring.head hring, rfl, rfl, rfl, rfl, ?_,
    ?_, fun q hq => ?_, ?_, ?_, ?_⟩
  · rw [← hring]
    rfl
  · rw [← mergeHost_ring s host]
    rfl
  · exact ((State.modRing_workRing ..).trans (if_neg hq)).trans (mergeHost_workRing s host q)
  · have h := hostBytes_hostStore (withAccepted (mergeHost s host) r)
      ((s.workRing r).alogBase.toNat + 32 * ((s.workRing r).head.toNat % ringSize (s.workRing r)))
      (acceptBytes (withAccepted (mergeHost s host) r) (acceptedItem (mergeHost s host) r))
    rw [hlen] at h
    exact h.trans hbytes
  · have h := hostKept_hostStore (withAccepted (mergeHost s host) r)
      ((s.workRing r).alogBase.toNat + 32 * ((s.workRing r).head.toNat % ringSize (s.workRing r)))
      (acceptBytes (withAccepted (mergeHost s host) r) (acceptedItem (mergeHost s host) r))
    rwa [hlen] at h
  · exact RingHostAlone.trans (u := hostStore _ _ _) hrec rfl

theorem completionRecordWrite_writes (r : Fin 64) {x : Item} {rest : List Item} {st : U8} {d : BitVec 128}
    (hl : (s.workRing r).ledger = x :: rest) (hs : x.status = some (st, d)) : ∃ t,
     exec (.completionRecordWrite r) s = .next t ∧ (t.workRing r).ledger = rest ∧ (t.workRing r).complete = x.index + 1 ∧
     hostBytes t ((s.workRing r).cmplBase.toNat + 32 * (x.index.toNat % ringSize (s.workRing r))) 32 =
       completionBytes (s.workRing r) x st d ∧
     HostKept s t ((s.workRing r).cmplBase.toNat + 32 * (x.index.toNat % ringSize (s.workRing r))) 32 ∧
     t.ring.msix = (if rcIe (s.workRing r).ctl && imodPassed s (s.workRing r) then r.val :: s.ring.msix else s.ring.msix) ∧
     (t.workRing r).irqDue = (if rcIe (s.workRing r).ctl then !imodPassed s (s.workRing r) else (s.workRing r).irqDue) ∧
     t.baker = s.baker ∧ t = { s with ring := t.ring, host := t.host } := by
  have hbytes := hostBytes_hostStore s ((s.workRing r).cmplBase.toNat + 32 * (x.index.toNat % ringSize (s.workRing r)))
    (completionBytes (s.workRing r) x st d)
  have hkept := hostKept_hostStore s ((s.workRing r).cmplBase.toNat + 32 * (x.index.toNat % ringSize (s.workRing r)))
    (completionBytes (s.workRing r) x st d)
  rw [completionBytes_length] at hbytes hkept
  have hexec := exec_completionRecordWrite hl hs
  have hring : (withCompleted s r x rest st d).workRing r = passHead x rest (s.workRing r) := State.modRing_workRing_same _ r _
  have hhost : (withCompleted s r x rest st d).host = (hostStore s ((s.workRing r).cmplBase.toNat +
    32 * (x.index.toNat % ringSize (s.workRing r))) (completionBytes (s.workRing r) x st d)).host := rfl
  have hmsix : (withCompleted s r x rest st d).ring.msix = s.ring.msix := rfl
  have halone : RingHostAlone s (withCompleted s r x rest st d) := rfl
  generalize withCompleted s r x rest st d = w at *
  have hdone : ∀ t, RingHostAlone w t → t.host = w.host → hostBytes t ((s.workRing r).cmplBase.toNat +
      32 * (x.index.toNat % ringSize (s.workRing r))) 32 = completionBytes (s.workRing r) x st d ∧
      HostKept s t ((s.workRing r).cmplBase.toNat + 32 * (x.index.toNat % ringSize (s.workRing r))) 32 ∧
      t.baker = s.baker ∧ t = { s with ring := t.ring, host := t.host } := fun t ht hh =>
    ⟨(hostBytes_congr (hh.trans hhost) _ _).trans hbytes, fun a ha => by rw [hh, hhost]; exact hkept a ha,
      (halone.trans ht).baker, halone.trans ht⟩
  refine ⟨_, hexec, ?_⟩
  cases hie : rcIe (s.workRing r).ctl with
  | false =>
    obtain ⟨hb, hk, hbaker, ht⟩ := hdone w rfl rfl
    simp only [Bool.false_eq_true, if_false, Bool.false_and]
    exact ⟨by rw [hring]; rfl, by rw [hring]; rfl, hb, hk, hmsix, by rw [hring]; rfl, hbaker, ht⟩
  | true =>
    cases himod : imodPassed s (s.workRing r) with
    | false =>
      obtain ⟨hb, hk, hbaker, ht⟩ := hdone (w.modRing r holdIrq) rfl rfl
      simp only [Bool.false_eq_true, if_false, if_true, Bool.and_false, Bool.not_false]
      rw [State.modRing_workRing_same, hring]
      exact ⟨rfl, rfl, hb, hk, hmsix, rfl, hbaker, ht⟩
    | true =>
      obtain ⟨hb, hk, hbaker, ht⟩ := hdone (raiseRing w r) rfl rfl
      have hraised : (raiseRing w r).workRing r = { passHead x rest (s.workRing r) with irqAt := some w.flue.cycle, irqDue := false } := by
        rw [raiseRing, raiseMsix_workRing, State.modRing_workRing_same, hring]
      simp only [if_true, Bool.and_true, Bool.not_true]
      rw [hraised]
      exact ⟨rfl, rfl, hb, hk, congrArg (r.val :: ·) hmsix, rfl, hbaker, ht⟩

/-- Settles O37. An accepted item is read back from host memory as it was written; a pass is followed from one ring, whose items the
walks over the other rings leave alone; the completion record is the last store of its command. -/
theorem itemsAreAcceptedAndCompletedInOrder : Obligations.ItemsAreAcceptedAndCompletedInOrder := by
  unfold Obligations.ItemsAreAcceptedAndCompletedInOrder
  refine ⟨⟨fun s r host hm hn => descriptorAccept_takes r host hm hn, ?_⟩, ⟨fun _ _ _ => rfl, ?_, ?_, ?_, ?_, ?_⟩, ?_, ?_, ?_⟩
  · intro s r host hm
    rw [exec_descriptorAccept, mergeHost_workRing, hm]
    rfl
  · intro s
    refine ⟨_, exec_readinessPass s, fun r hr => ?_, ringHostAlone_readinessPass s⟩
    obtain ⟨hc, hhead, hledger, -⟩ := readinessPass_order hr s
    exact ⟨hc, hhead, hledger⟩
  · intro s r x hr hl hc hs hst hrd hw
    exact readinessPass_readies hr hl (hc r hr) hs hst hrd hw
  · intro s r x hr hl hc hs hst hrd hop
    obtain ⟨t, u, hexec, hu, ht⟩ := readinessPass_starts hr hl (hc r hr) hrd
    exact ⟨t, hexec, by rw [ht, letStart_only hu hs hst hop]; exact modItem_only hu _⟩
  · intro s r x hr hl hc hs hst hrd hop
    obtain ⟨t, u, hexec, hu, ht⟩ := readinessPass_starts hr hl (hc r hr) hrd
    exact ⟨t, hexec, ht.trans (letStart_reserved hu hs hst hop)⟩
  · intro s r x hr hl hc hs hst hi
    exact readinessPass_cancels hr hl hc hs hst hi
  · intro s r hl
    show execCompletionRecordWrite r s = _
    simp [execCompletionRecordWrite, hl]
  · intro s r x rest hl hs
    show execCompletionRecordWrite r s = _
    simp [execCompletionRecordWrite, hl, hs]
  · intro s r x rest st d hl hs
    exact completionRecordWrite_writes r hl hs

end Sys2Proof.Machine

/-! ### The always-on block: its supply, its clocks and its records (R39, R43 to R48, R371, R372, R388 to R392) -/

namespace Sys2Proof.Machine

variable {s t : State}

/-! #### Events that are raised on the way (R471, R473) -/

theorem eventRaised_iff_of {u : State} (hq : t.aon.queue = s.aon.queue) (hl : t.aon.lost = s.aon.lost) (hn : eventsNow t = eventsNow s)
    (ht : eventTime t = eventTime s) {i b v x : Nat} {src : U8} (h : EventRaised t u i b v src x) : EventRaised s u i b v src x := by
  unfold EventRaised at *
  rwa [hq, hl, hn, ht] at h

/-- An event raised after changes that leave the event queue, the calendar and the Flue cycle as they were. -/
theorem raise_event_of (hq : t.aon.queue = s.aon.queue) (hl : t.aon.lost = s.aon.lost) (hn : eventsNow t = eventsNow s)
    (ht : eventTime t = eventTime s) (i b v x : Nat) (src : U8) :
    EventRaised s (raise t (BitVec.ofNat 16 i) (BitVec.ofNat 8 b) (BitVec.ofNat 8 v) src (BitVec.ofNat 64 x)) i b v src x :=
  eventRaised_iff_of hq hl hn ht (raise_event t i b v x src)

/-- A source of 0xFF goes behind every other. -/
theorem insertBySrc_last {e : Event} (h : e.src = 0xFF) : ∀ l, insertBySrc e l = l ++ [e]
  | [] => rfl
  | x :: l => by
    have hx : ¬ e.src.toNat < x.src.toNat := by rw [h]; exact Nat.not_lt.2 (Nat.le_of_lt_succ x.src.isLt)
    rw [insertBySrc, if_neg hx, insertBySrc_last h l, List.cons_append]

/-- An event of no unit goes to the end of the queue, whichever events the cycle had before it. -/
theorem raise_event_last (hq : t.aon.queue = s.aon.queue) (hl : t.aon.lost = s.aon.lost) (ht : eventTime t = eventTime s) (i b v x : Nat) :
    EventRaised s (raise t (BitVec.ofNat 16 i) (BitVec.ofNat 8 b) (BitVec.ofNat 8 v) 0xFF (BitVec.ofNat 64 x)) i b v 0xFF x := by
  have h := raise_event t i b v x 0xFF
  unfold EventRaised at *
  rw [insertBySrc_last rfl, ← List.append_assoc, List.take_append_drop] at *
  rwa [hq, hl, ht] at h

/-! #### O8 -/

/-- The always-on block after a reading of VBAK. -/
def readVbak (s : State) (v : F32) : State :=
  { s with aon := { s.aon with vbak := v, vbakLow := (fv32 v).lt (fv32 (BitVec.ofNat 32 (setting s 0x1401 3))) } }

theorem exec_vbakRead (s : State) (v : F32) : exec (.vbakRead v) s =
    .next (if (readVbak s v).aon.vbakLow = true ∧ s.aon.vbakLow = false then raise (readVbak s v) 0x1401 1 1 0xFF 0 else readVbak s v) := by
  unfold exec execVbakRead readVbak
  simp

/-- Settles O8: each pin and voltage by its own test. -/
theorem presenceAndSupplySwitch : Obligations.PresenceAndSupplySwitch := by
  unfold Obligations.PresenceAndSupplySwitch
  refine ⟨⟨?_, ?_, ?_, ?_, ?_, ?_⟩, ?_⟩
  · intro s
    simp [exec, execPresenceNChange]
  · intro s
    simp [exec, execPresenceNChange]
  · intro s t h
    simp only [exec, execPresenceNChange, Host.Outcome.next.injEq] at h
    subst h
    simp [testPortBypass]
  · intro s mv held node hv hmv
    refine ⟨_, rfl, ?_, ?_, ?_⟩
    · simp [hv, hmv]
    · simp [hv, hmv]
    · simp [hv, hmv]
  · intro s mv node hv hmv
    simp [exec, execAlwaysOnSourceSwitch, hv, hmv]
  · intro s mv held node hv hback
    have hno : (decide (3050 ≤ mv) && held) = false := by
      obtain h | h := hback
      · simp [Nat.not_le.2 h]
      · simp [h]
    simp [exec, execAlwaysOnSourceSwitch, hv, Bool.and_assoc, hno]
  · intro s v
    refine ⟨_, exec_vbakRead s v, ?_⟩
    by_cases hlow : (readVbak s v).aon.vbakLow = true ∧ s.aon.vbakLow = false
    · rw [if_pos hlow]
      refine ⟨raise_aon_vbak .., raise_aon_vbakLow .., ?_, ?_⟩
      · rw [raise_aon_vbakLow, if_pos hlow]
        exact raise_event_last (t := readVbak s v) rfl rfl rfl 0x1401 1 1 0
      · rw [raise_aon_vbakLow]
        exact (raise_eq ..).trans (congrArg (fun a => { s with aon := a }) (raise_kept ..))
    · rw [if_neg hlow]
      refine ⟨rfl, rfl, ?_, rfl⟩
      rw [if_neg hlow]
      exact ⟨rfl, rfl⟩

/-! #### O9 -/

/-- The device after reset with the calendar at the instant behind the last one it may hold. -/
def pastCalendarEnd : State := { State.reset with aon := { State.reset.aon with calendar := calendarMax } }

/-- Refutes O9: with the calendar past `calendarMax - 8`, here at `calendarMax`, CALENDAR_END sets it back before it raises the event, so
the event's time is one microsecond less than the time at which the command found the device. -/
theorem not_timeFollowsItsSources : ¬ Obligations.TimeFollowsItsSources := by
  unfold Obligations.TimeFollowsItsSources
  rintro ⟨⟨-, -, -, -, hend⟩, -⟩
  obtain ⟨t, hexec, -, -, hev, -⟩ := hend pastCalendarEnd (by decide) rfl
  have ht : (raise { pastCalendarEnd with aon := { pastCalendarEnd.aon with calendar := calendarMax - 8, calStopped := true } }
      0x1400 1 0 0xFF 0) = t := Host.Outcome.next.inj hexec
  subst ht
  have htime := congrArg (fun l : List Event => l.map (·.time)) hev.1
  exact absurd htime (by decide)

/-! #### O10 -/

/-- One hearth's clock is stopped, and what was under way there is over. -/
def haltClock (t : State) (i : Nat) : State :=
  t.modHearth i fun h => { h with frozen := true, stepTo := none, stopTo := none, restartAt := none }

theorem haltClock_eq (s : State) (i : Nat) : haltClock s i = { s with hearths := (haltClock s i).hearths } := rfl

theorem haltClocks_eq (s : State) : haltClocks s = { s with hearths := (haltClocks s).hearths } :=
  foldl_prop (p := fun u : State => u = { s with hearths := u.hearths })
    (fun u i hu => (haltClock_eq u i).trans (congrArg (fun v : State => { v with hearths := (haltClock u i).hearths }) hu)) _ rfl

/-- A walk that stops one hearth's clock at each step has stopped those it has come to, and those that stood. -/
theorem haltClocks_frozen_of {i : Nat} : ∀ {l : List Nat} {s : State}, (i ∈ l ∨ (s.hearth i).frozen = true) →
    ((l.foldl haltClock s).hearth i).frozen = true
  | [], _, h => h.resolve_left List.not_mem_nil
  | n :: l, s, h => by
    rw [List.foldl_cons]
    refine haltClocks_frozen_of ?_
    rw [haltClock, State.modHearth_hearth]
    split
    next => exact .inr rfl
    next hn => exact h.imp (fun hm => (List.mem_cons.1 hm).resolve_left hn) id

theorem haltClocks_frozen {i : Nat} (hi : i < 16) (s : State) : ((haltClocks s).hearth i).frozen = true :=
  haltClocks_frozen_of (.inl (List.mem_range.2 hi))

/-- What a rescue state holds, and the event it raises (R442). -/
theorem enterRescue_raises (hq : t.aon.queue = s.aon.queue) (hl : t.aon.lost = s.aon.lost) (ht : eventTime t = eventTime s) (st : U8)
    {c : Nat} (hc : c < 256) : EventRaised s (enterRescue t st (BitVec.ofNat 8 c)) 0x7110 1 3 0xFF c := by
  have harg : (BitVec.ofNat 8 c).setWidth 64 = BitVec.ofNat 64 c := by
    apply BitVec.eq_of_toNat_eq
    simp only [BitVec.toNat_setWidth, BitVec.toNat_ofNat]
    omega
  unfold enterRescue
  dsimp only
  rw [harg]
  exact raise_event_last (t := { t with aon := { t.aon with rescue := st, cause := BitVec.ofNat 8 c }, recov := { t.recov with dev := 5, active := 0 } })
    hq hl ht 0x7110 1 3 c

/-- A device held in reset in rescue mode: nothing runs, and the fuses and host memory are as they were. -/
theorem heldInRescue (s : State) (st c : U8) : (enterRescue (heldInReset s) st c).aon.rescue = st ∧
    (enterRescue (heldInReset s) st c).aon.cause = c ∧ (enterRescue (heldInReset s) st c).recov.active = 0 ∧
    (enterRescue (heldInReset s) st c).cores = [] ∧ (enterRescue (heldInReset s) st c).baker = {} ∧
    (enterRescue (heldInReset s) st c).ring = {} ∧ (enterRescue (heldInReset s) st c).hbm = {} ∧
    (enterRescue (heldInReset s) st c).fuse = s.fuse ∧ (enterRescue (heldInReset s) st c).host = s.host := by
  unfold enterRescue
  dsimp only
  rw [raise_aon_rescue, raise_aon_cause, raise_recov, raise_cores, raise_baker, raise_ring, raise_hbm, raise_fuse, raise_host]
  exact ⟨rfl, rfl, rfl, rfl, rfl, rfl, rfl, rfl, rfl⟩

/-- A swing that counts changes the counts of its size and raises at most one event. -/
theorem classify_recA (s : State) (d : Int) : (classify s d).aon.recA = { s.aon.recA with
    large := if 40000 ≤ d then s.aon.recA.large + 1 else s.aon.recA.large
    medium := if 15000 ≤ d ∧ d < 40000 then s.aon.recA.medium + 1 else s.aon.recA.medium } := by
  unfold classify
  dsimp only
  by_cases h40 : 40000 ≤ d
  · have hm : ¬ (15000 ≤ d ∧ d < 40000) := by omega
    simp only [if_pos h40, if_neg hm]
    split
    · exact raise_aon_recA ..
    · rfl
  · by_cases h15 : 15000 ≤ d
    · have hm : 15000 ≤ d ∧ d < 40000 := by omega
      simp only [if_neg h40, if_pos h15, if_pos hm]
      split
      · exact raise_aon_recA ..
      · rfl
    · have hm : ¬ (15000 ≤ d ∧ d < 40000) := by omega
      simp only [if_neg h40, if_neg h15, if_neg hm]

/-- The device with the highest average known. -/
def seenAverage (s : State) (x : Int) : State := s.modRec fun r => { r with highest := some (max x (r.highest.getD x)) }

theorem exec_junction_first (x : Int) (h : s.aon.recA.swing = none) : exec (.junctionAverageSample x) s =
    .next ((seenAverage s x).modRec fun r => { r with swing := some (x, x), rising := true }) := by
  unfold exec execJunctionAverageSample
  simp only [h]
  rfl

theorem exec_junction_falls {x p q : Int} (h : s.aon.recA.swing = some (p, q)) (hr : s.aon.recA.rising = true) (hx : x < p - 15000) :
    exec (.junctionAverageSample x) s =
      .next ((classify (seenAverage s x) (p - q)).modRec fun r => { r with swing := some (p, min x x), rising := false }) := by
  unfold exec execJunctionAverageSample
  simp only [h, hr, hx, and_self, if_true]
  rfl

theorem exec_junction_rises {x p q : Int} (h : s.aon.recA.swing = some (p, q)) (hr : s.aon.recA.rising = true) (hx : p - 15000 ≤ x) :
    exec (.junctionAverageSample x) s = .next ((seenAverage s x).modRec fun r => { r with swing := some (max p x, q) }) := by
  unfold exec execJunctionAverageSample
  simp only [h, hr, Int.not_lt.2 hx, and_false, if_false, not_true, false_and, if_true]
  simp only [State.modRec, seenAverage, hr, if_true]

/-- Settles O10: the trip and the faults by what they record, the swings by their direction. -/
theorem tripsSwingsAndPersistentCopies : Obligations.TripsSwingsAndPersistentCopies := by
  unfold Obligations.TripsSwingsAndPersistentCopies
  refine ⟨⟨?_, ?_, ?_⟩, ⟨?_, ?_, ?_⟩, fun _ => rfl⟩
  · intro s n
    have hh := haltClocks_eq s
    have hf : ∀ i < 16, ((haltClocks s).hearth i).frozen = true := fun i hi => haltClocks_frozen hi s
    refine ⟨_, rfl, ?_⟩
    generalize haltClocks s = u at hh hf ⊢
    obtain ⟨hs, rfl⟩ : ∃ l, u = { s with hearths := l } := ⟨_, hh⟩
    refine ⟨fun i hi => ?_, ?_, ?_, ?_, ?_, ?_⟩
    · rw [raise_unit_hearth]
      exact hf i hi
    · exact raise_aon_thermTrip ..
    · rw [raise_aon_recA]
      rfl
    · rw [raise_aon_recA, raise_aon_recB]
      rfl
    · exact raise_event_of (t := writeCopyB (({ s with hearths := hs, aon := { s.aon with thermTrip := true } } : State).modRec fun r =>
        { r with thermTrips := r.thermTrips + 1 })) rfl rfl rfl rfl 0x2200 (n.val + 1) 3 0 0xFF
    · rw [raise_eq]
      rfl
  · intro s r
    obtain ⟨hres, hcause, hact, hheld⟩ := heldInRescue (writeCopyB (s.modRec fun r' => { r' with seqFaults := r'.seqFaults ++ [r] })) 2 3
    refine ⟨_, rfl, hres, hcause, hact, ?_, hheld⟩
    rw [enterRescue, raise_aon_recA]
    rfl
  · intro s r hr
    have hexec : exec (.fixedRailFault r) s = .next (enterRescue (heldInReset s) 2 4) :=
      congrArg Host.Outcome.next (if_neg (Nat.not_lt.2 hr))
    obtain ⟨hres, hcause, hact, hheld⟩ := heldInRescue s 2 4
    exact ⟨_, hexec, hres, hcause, hact, enterRescue_raises (s := s) (t := heldInReset s) (c := 4) rfl rfl rfl 2 (by decide), hheld⟩
  · intro s x h
    exact ⟨_, exec_junction_first x h, rfl, rfl, rfl, ⟨rfl, rfl⟩, rfl⟩
  · intro s x p q h hr hx
    refine ⟨_, exec_junction_falls h hr hx, rfl, ?_, ?_, ?_⟩
    · simp [State.modRec]
    · simp [State.modRec, classify_recA, seenAverage]
    · simp [State.modRec, classify_recA, seenAverage]
  · intro s x p q h hr hx
    refine ⟨_, exec_junction_rises h hr hx, ?_, hr, rfl, rfl, ⟨rfl, rfl⟩⟩
    simp [State.modRec]

end Sys2Proof.Machine

/-! ### What the shared operations leave alone of the rest of the device

The counterpart of the model's own `_outer` lemmas for the parts besides the fuses, the queue and the memories: for each operation, the
parts of the state that are as they were. -/

namespace Sys2Proof.Machine

variable {s : State}

@[simp] theorem foldl_aon {α : Type} {f : State → α → State} (h : ∀ u x, (f u x).aon = u.aon) (l : List α) (s : State) :
    (l.foldl f s).aon = s.aon := foldl_keeps _ h l s
@[simp] theorem foldl_mesh {α : Type} {f : State → α → State} (h : ∀ u x, (f u x).mesh = u.mesh) (l : List α) (s : State) :
    (l.foldl f s).mesh = s.mesh := foldl_keeps _ h l s
@[simp] theorem foldl_hearths {α : Type} {f : State → α → State} (h : ∀ u x, (f u x).hearths = u.hearths) (l : List α) (s : State) :
    (l.foldl f s).hearths = s.hearths := foldl_keeps _ h l s
@[simp] theorem foldl_rails {α : Type} {f : State → α → State} (h : ∀ u x, (f u x).rails = u.rails) (l : List α) (s : State) :
    (l.foldl f s).rails = s.rails := foldl_keeps _ h l s
@[simp] theorem foldl_power {α : Type} {f : State → α → State} (h : ∀ u x, (f u x).power = u.power) (l : List α) (s : State) :
    (l.foldl f s).power = s.power := foldl_keeps _ h l s
@[simp] theorem foldl_map {α : Type} {f : State → α → State} (h : ∀ u x, (f u x).map = u.map) (l : List α) (s : State) :
    (l.foldl f s).map = s.map := foldl_keeps _ h l s
@[simp] theorem foldl_cores {α : Type} {f : State → α → State} (h : ∀ u x, (f u x).cores = u.cores) (l : List α) (s : State) :
    (l.foldl f s).cores = s.cores := foldl_keeps _ h l s
@[simp] theorem foldl_flue {α : Type} {f : State → α → State} (h : ∀ u x, (f u x).flue = u.flue) (l : List α) (s : State) :
    (l.foldl f s).flue = s.flue := foldl_keeps _ h l s
@[simp] theorem foldl_baker {α : Type} {f : State → α → State} (h : ∀ u x, (f u x).baker = u.baker) (l : List α) (s : State) :
    (l.foldl f s).baker = s.baker := foldl_keeps _ h l s
@[simp] theorem foldl_ring {α : Type} {f : State → α → State} (h : ∀ u x, (f u x).ring = u.ring) (l : List α) (s : State) :
    (l.foldl f s).ring = s.ring := foldl_keeps _ h l s
@[simp] theorem foldl_links {α : Type} {f : State → α → State} (h : ∀ u x, (f u x).links = u.links) (l : List α) (s : State) :
    (l.foldl f s).links = s.links := foldl_keeps _ h l s
@[simp] theorem foldl_ctl {α : Type} {f : State → α → State} (h : ∀ u x, (f u x).ctl = u.ctl) (l : List α) (s : State) :
    (l.foldl f s).ctl = s.ctl := foldl_keeps _ h l s
@[simp] theorem foldl_recov {α : Type} {f : State → α → State} (h : ∀ u x, (f u x).recov = u.recov) (l : List α) (s : State) :
    (l.foldl f s).recov = s.recov := foldl_keeps _ h l s
@[simp] theorem foldl_integ {α : Type} {f : State → α → State} (h : ∀ u x, (f u x).integ = u.integ) (l : List α) (s : State) :
    (l.foldl f s).integ = s.integ := foldl_keeps _ h l s
@[simp] theorem ite_aon {c : Prop} [Decidable c] {a b : State} : (if c then a else b).aon = if c then a.aon else b.aon := apply_ite _ _ _ _
@[simp] theorem ite_mesh {c : Prop} [Decidable c] {a b : State} : (if c then a else b).mesh = if c then a.mesh else b.mesh := apply_ite _ _ _ _
@[simp] theorem ite_hearths {c : Prop} [Decidable c] {a b : State} : (if c then a else b).hearths = if c then a.hearths else b.hearths := apply_ite _ _ _ _
@[simp] theorem ite_rails {c : Prop} [Decidable c] {a b : State} : (if c then a else b).rails = if c then a.rails else b.rails := apply_ite _ _ _ _
@[simp] theorem ite_power {c : Prop} [Decidable c] {a b : State} : (if c then a else b).power = if c then a.power else b.power := apply_ite _ _ _ _
@[simp] theorem ite_map {c : Prop} [Decidable c] {a b : State} : (if c then a else b).map = if c then a.map else b.map := apply_ite _ _ _ _
@[simp] theorem ite_cores {c : Prop} [Decidable c] {a b : State} : (if c then a else b).cores = if c then a.cores else b.cores := apply_ite _ _ _ _
@[simp] theorem ite_flue {c : Prop} [Decidable c] {a b : State} : (if c then a else b).flue = if c then a.flue else b.flue := apply_ite _ _ _ _
@[simp] theorem ite_baker {c : Prop} [Decidable c] {a b : State} : (if c then a else b).baker = if c then a.baker else b.baker := apply_ite _ _ _ _
@[simp] theorem ite_ring {c : Prop} [Decidable c] {a b : State} : (if c then a else b).ring = if c then a.ring else b.ring := apply_ite _ _ _ _
@[simp] theorem ite_links {c : Prop} [Decidable c] {a b : State} : (if c then a else b).links = if c then a.links else b.links := apply_ite _ _ _ _
@[simp] theorem ite_ctl {c : Prop} [Decidable c] {a b : State} : (if c then a else b).ctl = if c then a.ctl else b.ctl := apply_ite _ _ _ _
@[simp] theorem ite_recov {c : Prop} [Decidable c] {a b : State} : (if c then a else b).recov = if c then a.recov else b.recov := apply_ite _ _ _ _
@[simp] theorem ite_integ {c : Prop} [Decidable c] {a b : State} : (if c then a else b).integ = if c then a.integ else b.integ := apply_ite _ _ _ _

@[simp] theorem putSetting_rest (index : Nat) (sub : Nat) (v : Nat) :
    (putSetting s index sub v).aon = s.aon ∧ (putSetting s index sub v).mesh = s.mesh ∧ (putSetting s index sub v).hearths = s.hearths ∧
    (putSetting s index sub v).rails = s.rails ∧ (putSetting s index sub v).power = s.power ∧ (putSetting s index sub v).map = s.map ∧
    (putSetting s index sub v).cores = s.cores ∧ (putSetting s index sub v).flue = s.flue ∧ (putSetting s index sub v).baker = s.baker ∧
    (putSetting s index sub v).ring = s.ring ∧ (putSetting s index sub v).links = s.links ∧ (putSetting s index sub v).recov = s.recov ∧
    (putSetting s index sub v).integ = s.integ := by
  unfold putSetting
  (repeat' split) <;> simp -implicitDefEqProofs

@[simp] theorem setSyncObj_rest (n : Nat) (o : SyncObj) :
    (setSyncObj s n o).aon = s.aon ∧ (setSyncObj s n o).mesh = s.mesh ∧ (setSyncObj s n o).hearths = s.hearths ∧
    (setSyncObj s n o).rails = s.rails ∧ (setSyncObj s n o).power = s.power ∧ (setSyncObj s n o).map = s.map ∧
    (setSyncObj s n o).flue = s.flue ∧ (setSyncObj s n o).baker = s.baker ∧ (setSyncObj s n o).links = s.links ∧
    (setSyncObj s n o).ctl = s.ctl ∧ (setSyncObj s n o).recov = s.recov ∧ (setSyncObj s n o).integ = s.integ := by
  unfold setSyncObj
  (repeat' split) <;> simp -implicitDefEqProofs

@[simp] theorem signalObj_rest (g : Sig) :
    (signalObj s g).aon = s.aon ∧ (signalObj s g).mesh = s.mesh ∧ (signalObj s g).hearths = s.hearths ∧ (signalObj s g).rails = s.rails ∧
    (signalObj s g).power = s.power ∧ (signalObj s g).map = s.map ∧ (signalObj s g).flue = s.flue ∧ (signalObj s g).baker = s.baker ∧
    (signalObj s g).links = s.links ∧ (signalObj s g).ctl = s.ctl ∧ (signalObj s g).recov = s.recov ∧
    (signalObj s g).integ = s.integ := by
  unfold signalObj
  (repeat' split) <;> simp -implicitDefEqProofs

@[simp] theorem takeEpoch_rest :
    (takeEpoch s).2.aon = s.aon ∧ (takeEpoch s).2.mesh = s.mesh ∧ (takeEpoch s).2.hearths = s.hearths ∧ (takeEpoch s).2.rails = s.rails ∧
    (takeEpoch s).2.power = s.power ∧ (takeEpoch s).2.map = s.map ∧ (takeEpoch s).2.cores = s.cores ∧ (takeEpoch s).2.flue = s.flue ∧
    (takeEpoch s).2.ring = s.ring ∧ (takeEpoch s).2.links = s.links ∧ (takeEpoch s).2.ctl = s.ctl ∧ (takeEpoch s).2.recov = s.recov ∧
    (takeEpoch s).2.integ = s.integ := by
  unfold takeEpoch
  (repeat' split) <;> simp -implicitDefEqProofs

@[simp] theorem trigger_rest (b : Nat) (row : Nat) :
    (trigger s b row).aon = s.aon ∧ (trigger s b row).mesh = s.mesh ∧ (trigger s b row).hearths = s.hearths ∧
    (trigger s b row).rails = s.rails ∧ (trigger s b row).power = s.power ∧ (trigger s b row).map = s.map ∧
    (trigger s b row).cores = s.cores ∧ (trigger s b row).flue = s.flue ∧ (trigger s b row).ring = s.ring ∧
    (trigger s b row).links = s.links ∧ (trigger s b row).ctl = s.ctl ∧ (trigger s b row).recov = s.recov ∧
    (trigger s b row).integ = s.integ := by
  unfold trigger
  (repeat' split) <;> simp -implicitDefEqProofs

@[simp] theorem installCore_rest (b : Nat) (i : Nat) (c : CoreId) :
    (installCore s b i c).aon = s.aon ∧ (installCore s b i c).mesh = s.mesh ∧ (installCore s b i c).hearths = s.hearths ∧
    (installCore s b i c).rails = s.rails ∧ (installCore s b i c).power = s.power ∧ (installCore s b i c).map = s.map ∧
    (installCore s b i c).flue = s.flue ∧ (installCore s b i c).baker = s.baker ∧ (installCore s b i c).ring = s.ring ∧
    (installCore s b i c).links = s.links ∧ (installCore s b i c).ctl = s.ctl ∧ (installCore s b i c).recov = s.recov ∧
    (installCore s b i c).integ = s.integ := by
  unfold installCore
  (repeat' split) <;> simp -implicitDefEqProofs

@[simp] theorem initSyncs_rest (b : Nat) :
    (initSyncs s b).aon = s.aon ∧ (initSyncs s b).mesh = s.mesh ∧ (initSyncs s b).hearths = s.hearths ∧ (initSyncs s b).rails = s.rails ∧
    (initSyncs s b).power = s.power ∧ (initSyncs s b).map = s.map ∧ (initSyncs s b).flue = s.flue ∧ (initSyncs s b).baker = s.baker ∧
    (initSyncs s b).links = s.links ∧ (initSyncs s b).ctl = s.ctl ∧ (initSyncs s b).recov = s.recov ∧
    (initSyncs s b).integ = s.integ := by
  unfold initSyncs
  (repeat' split) <;> simp -implicitDefEqProofs

@[simp] theorem installPhase_rest (b : Nat) (ph : Nat) :
    (installPhase s b ph).aon = s.aon ∧ (installPhase s b ph).mesh = s.mesh ∧ (installPhase s b ph).hearths = s.hearths ∧
    (installPhase s b ph).rails = s.rails ∧ (installPhase s b ph).power = s.power ∧ (installPhase s b ph).map = s.map ∧
    (installPhase s b ph).flue = s.flue ∧ (installPhase s b ph).baker = s.baker ∧ (installPhase s b ph).ring = s.ring ∧
    (installPhase s b ph).links = s.links ∧ (installPhase s b ph).ctl = s.ctl ∧ (installPhase s b ph).recov = s.recov ∧
    (installPhase s b ph).integ = s.integ := by
  unfold installPhase
  (repeat' split) <;> simp -implicitDefEqProofs

@[simp] theorem startPhase_rest (b : Nat) (ph : Nat) :
    (startPhase s b ph).aon = s.aon ∧ (startPhase s b ph).mesh = s.mesh ∧ (startPhase s b ph).hearths = s.hearths ∧
    (startPhase s b ph).rails = s.rails ∧ (startPhase s b ph).power = s.power ∧ (startPhase s b ph).map = s.map ∧
    (startPhase s b ph).flue = s.flue ∧ (startPhase s b ph).baker = s.baker ∧ (startPhase s b ph).ring = s.ring ∧
    (startPhase s b ph).links = s.links ∧ (startPhase s b ph).ctl = s.ctl ∧ (startPhase s b ph).recov = s.recov ∧
    (startPhase s b ph).integ = s.integ := by
  unfold startPhase
  (repeat' split) <;> simp -implicitDefEqProofs

@[simp] theorem rebind_rest (b : Nat) :
    (rebind s b).aon = s.aon ∧ (rebind s b).mesh = s.mesh ∧ (rebind s b).hearths = s.hearths ∧ (rebind s b).rails = s.rails ∧
    (rebind s b).power = s.power ∧ (rebind s b).map = s.map ∧ (rebind s b).flue = s.flue ∧ (rebind s b).baker = s.baker ∧
    (rebind s b).ring = s.ring ∧ (rebind s b).links = s.links ∧ (rebind s b).ctl = s.ctl ∧ (rebind s b).recov = s.recov ∧
    (rebind s b).integ = s.integ := by
  unfold rebind
  (repeat' split) <;> simp -implicitDefEqProofs

@[simp] theorem resumeRouted_rest (slot : Nat) :
    (resumeRouted s slot).aon = s.aon ∧ (resumeRouted s slot).mesh = s.mesh ∧ (resumeRouted s slot).hearths = s.hearths ∧
    (resumeRouted s slot).rails = s.rails ∧ (resumeRouted s slot).power = s.power ∧ (resumeRouted s slot).map = s.map ∧
    (resumeRouted s slot).cores = s.cores ∧ (resumeRouted s slot).flue = s.flue ∧ (resumeRouted s slot).ring = s.ring ∧
    (resumeRouted s slot).links = s.links ∧ (resumeRouted s slot).ctl = s.ctl ∧ (resumeRouted s slot).recov = s.recov ∧
    (resumeRouted s slot).integ = s.integ := by
  unfold resumeRouted
  (repeat' split) <;> simp -implicitDefEqProofs

@[simp] theorem resumeAllRouted_rest :
    (resumeAllRouted s).aon = s.aon ∧ (resumeAllRouted s).mesh = s.mesh ∧ (resumeAllRouted s).hearths = s.hearths ∧
    (resumeAllRouted s).rails = s.rails ∧ (resumeAllRouted s).power = s.power ∧ (resumeAllRouted s).map = s.map ∧
    (resumeAllRouted s).cores = s.cores ∧ (resumeAllRouted s).flue = s.flue ∧ (resumeAllRouted s).ring = s.ring ∧
    (resumeAllRouted s).links = s.links ∧ (resumeAllRouted s).ctl = s.ctl ∧ (resumeAllRouted s).recov = s.recov ∧
    (resumeAllRouted s).integ = s.integ := by
  unfold resumeAllRouted
  (repeat' split) <;> simp -implicitDefEqProofs

@[simp] theorem queueOut_rest (p : Nat) (f : Frame) :
    (queueOut s p f).aon = s.aon ∧ (queueOut s p f).mesh = s.mesh ∧ (queueOut s p f).hearths = s.hearths ∧
    (queueOut s p f).rails = s.rails ∧ (queueOut s p f).power = s.power ∧ (queueOut s p f).map = s.map ∧ (queueOut s p f).cores = s.cores ∧
    (queueOut s p f).flue = s.flue ∧ (queueOut s p f).baker = s.baker ∧ (queueOut s p f).ring = s.ring ∧ (queueOut s p f).ctl = s.ctl ∧
    (queueOut s p f).recov = s.recov ∧ (queueOut s p f).integ = s.integ := by
  unfold queueOut
  (repeat' split) <;> simp -implicitDefEqProofs

@[simp] theorem hostStore_rest (a : Nat) (l : List Byte) :
    (hostStore s a l).aon = s.aon ∧ (hostStore s a l).mesh = s.mesh ∧ (hostStore s a l).hearths = s.hearths ∧
    (hostStore s a l).rails = s.rails ∧ (hostStore s a l).power = s.power ∧ (hostStore s a l).map = s.map ∧
    (hostStore s a l).cores = s.cores ∧ (hostStore s a l).flue = s.flue ∧ (hostStore s a l).baker = s.baker ∧
    (hostStore s a l).ring = s.ring ∧ (hostStore s a l).links = s.links ∧ (hostStore s a l).ctl = s.ctl ∧
    (hostStore s a l).recov = s.recov ∧ (hostStore s a l).integ = s.integ := by
  unfold hostStore
  (repeat' split) <;> simp -implicitDefEqProofs

@[simp] theorem modItem_rest (r : Nat) (i : U32) (f : Item → Item) :
    (modItem s r i f).aon = s.aon ∧ (modItem s r i f).mesh = s.mesh ∧ (modItem s r i f).hearths = s.hearths ∧
    (modItem s r i f).rails = s.rails ∧ (modItem s r i f).power = s.power ∧ (modItem s r i f).map = s.map ∧
    (modItem s r i f).cores = s.cores ∧ (modItem s r i f).flue = s.flue ∧ (modItem s r i f).baker = s.baker ∧
    (modItem s r i f).links = s.links ∧ (modItem s r i f).ctl = s.ctl ∧ (modItem s r i f).recov = s.recov ∧
    (modItem s r i f).integ = s.integ := by
  unfold modItem
  (repeat' split) <;> simp -implicitDefEqProofs

@[simp] theorem writeAccept_rest (r : Nat) (i : U32) :
    (writeAccept s r i).aon = s.aon ∧ (writeAccept s r i).mesh = s.mesh ∧ (writeAccept s r i).hearths = s.hearths ∧
    (writeAccept s r i).rails = s.rails ∧ (writeAccept s r i).power = s.power ∧ (writeAccept s r i).map = s.map ∧
    (writeAccept s r i).cores = s.cores ∧ (writeAccept s r i).flue = s.flue ∧ (writeAccept s r i).baker = s.baker ∧
    (writeAccept s r i).ring = s.ring ∧ (writeAccept s r i).links = s.links ∧ (writeAccept s r i).ctl = s.ctl ∧
    (writeAccept s r i).recov = s.recov ∧ (writeAccept s r i).integ = s.integ := by
  unfold writeAccept
  (repeat' split) <;> simp -implicitDefEqProofs

@[simp] theorem endItem_rest (r : Nat) (i : U32) (status : U8) (detail : BitVec 128) :
    (endItem s r i status detail).aon = s.aon ∧ (endItem s r i status detail).mesh = s.mesh ∧
    (endItem s r i status detail).hearths = s.hearths ∧ (endItem s r i status detail).rails = s.rails ∧
    (endItem s r i status detail).power = s.power ∧ (endItem s r i status detail).map = s.map ∧
    (endItem s r i status detail).cores = s.cores ∧ (endItem s r i status detail).flue = s.flue ∧
    (endItem s r i status detail).baker = s.baker ∧ (endItem s r i status detail).links = s.links ∧
    (endItem s r i status detail).ctl = s.ctl ∧ (endItem s r i status detail).recov = s.recov ∧
    (endItem s r i status detail).integ = s.integ := by
  unfold endItem
  (repeat' split) <;> simp -implicitDefEqProofs

@[simp] theorem startStep_rest (b : Nat) :
    (startStep s b).aon = s.aon ∧ (startStep s b).mesh = s.mesh ∧ (startStep s b).hearths = s.hearths ∧ (startStep s b).rails = s.rails ∧
    (startStep s b).power = s.power ∧ (startStep s b).map = s.map ∧ (startStep s b).flue = s.flue ∧ (startStep s b).links = s.links ∧
    (startStep s b).ctl = s.ctl ∧ (startStep s b).recov = s.recov ∧ (startStep s b).integ = s.integ := by
  unfold startStep
  simp
  (repeat' split) <;> simp_all -implicitDefEqProofs

@[simp] theorem resumeItem_rest (b : Nat) :
    (resumeItem s b).aon = s.aon ∧ (resumeItem s b).mesh = s.mesh ∧ (resumeItem s b).hearths = s.hearths ∧
    (resumeItem s b).rails = s.rails ∧ (resumeItem s b).power = s.power ∧ (resumeItem s b).map = s.map ∧ (resumeItem s b).flue = s.flue ∧
    (resumeItem s b).links = s.links ∧ (resumeItem s b).ctl = s.ctl ∧ (resumeItem s b).recov = s.recov ∧
    (resumeItem s b).integ = s.integ := by
  unfold resumeItem
  simp
  (repeat' split) <;> simp_all -implicitDefEqProofs

@[simp] theorem fillsDone_rest (b : Nat) :
    (fillsDone s b).aon = s.aon ∧ (fillsDone s b).mesh = s.mesh ∧ (fillsDone s b).hearths = s.hearths ∧ (fillsDone s b).rails = s.rails ∧
    (fillsDone s b).power = s.power ∧ (fillsDone s b).map = s.map ∧ (fillsDone s b).flue = s.flue ∧ (fillsDone s b).links = s.links ∧
    (fillsDone s b).ctl = s.ctl ∧ (fillsDone s b).recov = s.recov ∧ (fillsDone s b).integ = s.integ := by
  unfold fillsDone
  (repeat' split) <;> simp -implicitDefEqProofs

@[simp] theorem stackRead_rest (a : Nat) (ups : List (Nat × StackUpset)) :
    (stackRead s a ups).2.mesh = s.mesh ∧ (stackRead s a ups).2.hearths = s.hearths ∧ (stackRead s a ups).2.rails = s.rails ∧
    (stackRead s a ups).2.power = s.power ∧ (stackRead s a ups).2.map = s.map ∧ (stackRead s a ups).2.cores = s.cores ∧
    (stackRead s a ups).2.flue = s.flue ∧ (stackRead s a ups).2.baker = s.baker ∧ (stackRead s a ups).2.ring = s.ring ∧
    (stackRead s a ups).2.links = s.links ∧ (stackRead s a ups).2.ctl = s.ctl ∧ (stackRead s a ups).2.recov = s.recov ∧
    (stackRead s a ups).2.integ = s.integ := by
  unfold stackRead
  simp
  (repeat' split) <;> simp_all -implicitDefEqProofs

@[simp] theorem stackWrite_rest (a : Nat) (w : U64 × Bool) :
    (stackWrite s a w).aon = s.aon ∧ (stackWrite s a w).mesh = s.mesh ∧ (stackWrite s a w).hearths = s.hearths ∧
    (stackWrite s a w).rails = s.rails ∧ (stackWrite s a w).power = s.power ∧ (stackWrite s a w).map = s.map ∧
    (stackWrite s a w).cores = s.cores ∧ (stackWrite s a w).flue = s.flue ∧ (stackWrite s a w).baker = s.baker ∧
    (stackWrite s a w).ring = s.ring ∧ (stackWrite s a w).links = s.links ∧ (stackWrite s a w).ctl = s.ctl ∧
    (stackWrite s a w).recov = s.recov ∧ (stackWrite s a w).integ = s.integ := by
  unfold stackWrite
  (repeat' split) <;> simp -implicitDefEqProofs

@[simp] theorem State_modDmas_rest (f : List DmaDesc → List DmaDesc) :
    (State.modDmas s f).aon = s.aon ∧ (State.modDmas s f).mesh = s.mesh ∧ (State.modDmas s f).hearths = s.hearths ∧
    (State.modDmas s f).rails = s.rails ∧ (State.modDmas s f).power = s.power ∧ (State.modDmas s f).map = s.map ∧
    (State.modDmas s f).cores = s.cores ∧ (State.modDmas s f).flue = s.flue ∧ (State.modDmas s f).baker = s.baker ∧
    (State.modDmas s f).links = s.links ∧ (State.modDmas s f).ctl = s.ctl ∧ (State.modDmas s f).recov = s.recov ∧
    (State.modDmas s f).integ = s.integ := by
  unfold State.modDmas
  (repeat' split) <;> simp -implicitDefEqProofs

@[simp] theorem requestDma_rest (use : DmaUse) (slot : Nat) (src : List Side) (dst : List Side) (bytes : Nat) :
    (requestDma s use slot src dst bytes).aon = s.aon ∧ (requestDma s use slot src dst bytes).mesh = s.mesh ∧
    (requestDma s use slot src dst bytes).hearths = s.hearths ∧ (requestDma s use slot src dst bytes).rails = s.rails ∧
    (requestDma s use slot src dst bytes).power = s.power ∧ (requestDma s use slot src dst bytes).map = s.map ∧
    (requestDma s use slot src dst bytes).cores = s.cores ∧ (requestDma s use slot src dst bytes).flue = s.flue ∧
    (requestDma s use slot src dst bytes).baker = s.baker ∧ (requestDma s use slot src dst bytes).links = s.links ∧
    (requestDma s use slot src dst bytes).ctl = s.ctl ∧ (requestDma s use slot src dst bytes).recov = s.recov ∧
    (requestDma s use slot src dst bytes).integ = s.integ := by
  unfold requestDma
  (repeat' split) <;> simp -implicitDefEqProofs

@[simp] theorem copyRead_rest (b : Nat) (x : Side) :
    (copyRead s b x).2.mesh = s.mesh ∧ (copyRead s b x).2.hearths = s.hearths ∧ (copyRead s b x).2.rails = s.rails ∧
    (copyRead s b x).2.power = s.power ∧ (copyRead s b x).2.map = s.map ∧ (copyRead s b x).2.flue = s.flue ∧
    (copyRead s b x).2.baker = s.baker ∧ (copyRead s b x).2.ring = s.ring ∧ (copyRead s b x).2.links = s.links ∧
    (copyRead s b x).2.ctl = s.ctl ∧ (copyRead s b x).2.recov = s.recov ∧ (copyRead s b x).2.integ = s.integ := by
  unfold copyRead
  (repeat' split) <;> simp -implicitDefEqProofs

@[simp] theorem copyWrite_rest (b : Nat) (x : Side) (w : U64 × Bool) :
    (copyWrite s b x w).aon = s.aon ∧ (copyWrite s b x w).mesh = s.mesh ∧ (copyWrite s b x w).hearths = s.hearths ∧
    (copyWrite s b x w).rails = s.rails ∧ (copyWrite s b x w).power = s.power ∧ (copyWrite s b x w).map = s.map ∧
    (copyWrite s b x w).flue = s.flue ∧ (copyWrite s b x w).baker = s.baker ∧ (copyWrite s b x w).ring = s.ring ∧
    (copyWrite s b x w).links = s.links ∧ (copyWrite s b x w).ctl = s.ctl ∧ (copyWrite s b x w).recov = s.recov ∧
    (copyWrite s b x w).integ = s.integ := by
  unfold copyWrite
  (repeat' split) <;> simp -implicitDefEqProofs

@[simp] theorem copyBytes_rest (b : Nat) (n : Nat) (src : Nat → Side) (dst : Nat → Side) :
    (copyBytes s b n src dst).mesh = s.mesh ∧ (copyBytes s b n src dst).hearths = s.hearths ∧ (copyBytes s b n src dst).rails = s.rails ∧
    (copyBytes s b n src dst).power = s.power ∧ (copyBytes s b n src dst).map = s.map ∧ (copyBytes s b n src dst).flue = s.flue ∧
    (copyBytes s b n src dst).baker = s.baker ∧ (copyBytes s b n src dst).ring = s.ring ∧ (copyBytes s b n src dst).links = s.links ∧
    (copyBytes s b n src dst).ctl = s.ctl ∧ (copyBytes s b n src dst).recov = s.recov ∧ (copyBytes s b n src dst).integ = s.integ := by
  unfold copyBytes
  (repeat' split) <;> simp -implicitDefEqProofs

@[simp] theorem requestWhole_rest (use : DmaUse) (b : Nat) (n : Nat) (src : Side) (dst : Side) :
    (requestWhole s use b n src dst).aon = s.aon ∧ (requestWhole s use b n src dst).mesh = s.mesh ∧
    (requestWhole s use b n src dst).hearths = s.hearths ∧ (requestWhole s use b n src dst).rails = s.rails ∧
    (requestWhole s use b n src dst).power = s.power ∧ (requestWhole s use b n src dst).map = s.map ∧
    (requestWhole s use b n src dst).cores = s.cores ∧ (requestWhole s use b n src dst).flue = s.flue ∧
    (requestWhole s use b n src dst).baker = s.baker ∧ (requestWhole s use b n src dst).links = s.links ∧
    (requestWhole s use b n src dst).ctl = s.ctl ∧ (requestWhole s use b n src dst).recov = s.recov ∧
    (requestWhole s use b n src dst).integ = s.integ := by
  unfold requestWhole
  (repeat' split) <;> simp -implicitDefEqProofs

@[simp] theorem triggerAll_rest (row : Nat) (pick : Bake → Bool) :
    (triggerAll s row pick).aon = s.aon ∧ (triggerAll s row pick).mesh = s.mesh ∧ (triggerAll s row pick).hearths = s.hearths ∧
    (triggerAll s row pick).rails = s.rails ∧ (triggerAll s row pick).power = s.power ∧ (triggerAll s row pick).map = s.map ∧
    (triggerAll s row pick).cores = s.cores ∧ (triggerAll s row pick).flue = s.flue ∧ (triggerAll s row pick).ring = s.ring ∧
    (triggerAll s row pick).links = s.links ∧ (triggerAll s row pick).ctl = s.ctl ∧ (triggerAll s row pick).recov = s.recov ∧
    (triggerAll s row pick).integ = s.integ := by
  unfold triggerAll
  (repeat' split) <;> simp -implicitDefEqProofs

@[simp] theorem setStop_rest (n : Nat) (b : Bool) :
    (setStop s n b).aon = s.aon ∧ (setStop s n b).mesh = s.mesh ∧ (setStop s n b).rails = s.rails ∧ (setStop s n b).power = s.power ∧
    (setStop s n b).map = s.map ∧ (setStop s n b).cores = s.cores ∧ (setStop s n b).baker = s.baker ∧ (setStop s n b).ring = s.ring ∧
    (setStop s n b).links = s.links ∧ (setStop s n b).ctl = s.ctl ∧ (setStop s n b).recov = s.recov ∧
    (setStop s n b).integ = s.integ := by
  unfold setStop
  (repeat' split) <;> simp -implicitDefEqProofs

@[simp] theorem regovern_rest (n : Nat) :
    (regovern s n).aon = s.aon ∧ (regovern s n).mesh = s.mesh ∧ (regovern s n).rails = s.rails ∧ (regovern s n).power = s.power ∧
    (regovern s n).map = s.map ∧ (regovern s n).cores = s.cores ∧ (regovern s n).flue = s.flue ∧ (regovern s n).baker = s.baker ∧
    (regovern s n).ring = s.ring ∧ (regovern s n).links = s.links ∧ (regovern s n).ctl = s.ctl ∧ (regovern s n).recov = s.recov ∧
    (regovern s n).integ = s.integ := by
  unfold regovern
  (repeat' split) <;> simp -implicitDefEqProofs

@[simp] theorem beginStop_rest (n : Nat) (f : Nat) :
    (beginStop s n f).aon = s.aon ∧ (beginStop s n f).mesh = s.mesh ∧ (beginStop s n f).rails = s.rails ∧
    (beginStop s n f).power = s.power ∧ (beginStop s n f).map = s.map ∧ (beginStop s n f).cores = s.cores ∧
    (beginStop s n f).baker = s.baker ∧ (beginStop s n f).ring = s.ring ∧ (beginStop s n f).links = s.links ∧
    (beginStop s n f).ctl = s.ctl ∧ (beginStop s n f).recov = s.recov ∧ (beginStop s n f).integ = s.integ := by
  unfold beginStop
  (repeat' split) <;> simp -implicitDefEqProofs

@[simp] theorem stretch_rest (n : Nat) (r : Nat) (on : Bool) :
    (stretch s n r on).aon = s.aon ∧ (stretch s n r on).mesh = s.mesh ∧ (stretch s n r on).rails = s.rails ∧
    (stretch s n r on).power = s.power ∧ (stretch s n r on).map = s.map ∧ (stretch s n r on).cores = s.cores ∧
    (stretch s n r on).flue = s.flue ∧ (stretch s n r on).baker = s.baker ∧ (stretch s n r on).ring = s.ring ∧
    (stretch s n r on).links = s.links ∧ (stretch s n r on).ctl = s.ctl ∧ (stretch s n r on).recov = s.recov ∧
    (stretch s n r on).integ = s.integ := by
  unfold stretch
  (repeat' split) <;> simp -implicitDefEqProofs

@[simp] theorem pauseAll_rest :
    (pauseAll s).aon = s.aon ∧ (pauseAll s).mesh = s.mesh ∧ (pauseAll s).hearths = s.hearths ∧ (pauseAll s).rails = s.rails ∧
    (pauseAll s).power = s.power ∧ (pauseAll s).map = s.map ∧ (pauseAll s).cores = s.cores ∧ (pauseAll s).flue = s.flue ∧
    (pauseAll s).ring = s.ring ∧ (pauseAll s).links = s.links ∧ (pauseAll s).ctl = s.ctl ∧ (pauseAll s).recov = s.recov ∧
    (pauseAll s).integ = s.integ := by
  unfold pauseAll
  (repeat' split) <;> simp -implicitDefEqProofs

@[simp] theorem compileDraught_rest (plan : DraughtPlan) :
    (compileDraught s plan).mesh = s.mesh ∧ (compileDraught s plan).hearths = s.hearths ∧ (compileDraught s plan).rails = s.rails ∧
    (compileDraught s plan).power = s.power ∧ (compileDraught s plan).cores = s.cores ∧ (compileDraught s plan).links = s.links ∧
    (compileDraught s plan).ctl = s.ctl ∧ (compileDraught s plan).recov = s.recov ∧ (compileDraught s plan).integ = s.integ := by
  unfold compileDraught
  (repeat' split) <;> simp -implicitDefEqProofs

@[simp] theorem newBaseline_rest (b : Nat) :
    (newBaseline s b).aon = s.aon ∧ (newBaseline s b).mesh = s.mesh ∧ (newBaseline s b).hearths = s.hearths ∧
    (newBaseline s b).rails = s.rails ∧ (newBaseline s b).power = s.power ∧ (newBaseline s b).map = s.map ∧
    (newBaseline s b).cores = s.cores ∧ (newBaseline s b).flue = s.flue ∧ (newBaseline s b).ring = s.ring ∧
    (newBaseline s b).links = s.links ∧ (newBaseline s b).ctl = s.ctl ∧ (newBaseline s b).recov = s.recov ∧
    (newBaseline s b).integ = s.integ := by
  unfold newBaseline
  (repeat' split) <;> simp -implicitDefEqProofs

@[simp] theorem takeGains_rest (b : Nat) (committed : Bool) :
    (takeGains s b committed).aon = s.aon ∧ (takeGains s b committed).mesh = s.mesh ∧ (takeGains s b committed).hearths = s.hearths ∧
    (takeGains s b committed).rails = s.rails ∧ (takeGains s b committed).power = s.power ∧ (takeGains s b committed).map = s.map ∧
    (takeGains s b committed).cores = s.cores ∧ (takeGains s b committed).flue = s.flue ∧ (takeGains s b committed).ring = s.ring ∧
    (takeGains s b committed).links = s.links ∧ (takeGains s b committed).ctl = s.ctl ∧ (takeGains s b committed).recov = s.recov ∧
    (takeGains s b committed).integ = s.integ := by
  unfold takeGains
  (repeat' split) <;> simp -implicitDefEqProofs

@[simp] theorem clearAmax_rest (b : Nat) :
    (clearAmax s b).aon = s.aon ∧ (clearAmax s b).mesh = s.mesh ∧ (clearAmax s b).hearths = s.hearths ∧ (clearAmax s b).rails = s.rails ∧
    (clearAmax s b).power = s.power ∧ (clearAmax s b).map = s.map ∧ (clearAmax s b).flue = s.flue ∧ (clearAmax s b).baker = s.baker ∧
    (clearAmax s b).ring = s.ring ∧ (clearAmax s b).links = s.links ∧ (clearAmax s b).ctl = s.ctl ∧ (clearAmax s b).recov = s.recov ∧
    (clearAmax s b).integ = s.integ := by
  unfold clearAmax
  (repeat' split) <;> simp -implicitDefEqProofs

@[simp] theorem putSlots_rest (b : Nat) (f : Nat → CoreId → W256 → Option StatSlot) :
    (putSlots s b f).aon = s.aon ∧ (putSlots s b f).mesh = s.mesh ∧ (putSlots s b f).hearths = s.hearths ∧
    (putSlots s b f).rails = s.rails ∧ (putSlots s b f).power = s.power ∧ (putSlots s b f).map = s.map ∧ (putSlots s b f).flue = s.flue ∧
    (putSlots s b f).baker = s.baker ∧ (putSlots s b f).ring = s.ring ∧ (putSlots s b f).links = s.links ∧ (putSlots s b f).ctl = s.ctl ∧
    (putSlots s b f).recov = s.recov ∧ (putSlots s b f).integ = s.integ := by
  unfold putSlots
  refine ⟨?_, ?_, ?_, ?_, ?_, ?_, ?_, ?_, ?_, ?_, ?_, ?_, ?_⟩ <;> refine foldl_keeps _ (fun u x => ?_) _ _ <;> refine foldl_keeps _ (fun v y => ?_) _ _ <;> split <;> simp -implicitDefEqProofs

@[simp] theorem refillSlots_rest (b : Nat) (l : List CoreId) :
    (refillSlots s b l).aon = s.aon ∧ (refillSlots s b l).mesh = s.mesh ∧ (refillSlots s b l).hearths = s.hearths ∧
    (refillSlots s b l).rails = s.rails ∧ (refillSlots s b l).power = s.power ∧ (refillSlots s b l).map = s.map ∧
    (refillSlots s b l).flue = s.flue ∧ (refillSlots s b l).baker = s.baker ∧ (refillSlots s b l).ring = s.ring ∧
    (refillSlots s b l).links = s.links ∧ (refillSlots s b l).ctl = s.ctl ∧ (refillSlots s b l).recov = s.recov ∧
    (refillSlots s b l).integ = s.integ := by
  unfold refillSlots
  repeat' split
  all_goals simp -implicitDefEqProofs

@[simp] theorem clearSlots_rest (b : Nat) :
    (clearSlots s b).aon = s.aon ∧ (clearSlots s b).mesh = s.mesh ∧ (clearSlots s b).hearths = s.hearths ∧
    (clearSlots s b).rails = s.rails ∧ (clearSlots s b).power = s.power ∧ (clearSlots s b).map = s.map ∧ (clearSlots s b).flue = s.flue ∧
    (clearSlots s b).baker = s.baker ∧ (clearSlots s b).ring = s.ring ∧ (clearSlots s b).links = s.links ∧ (clearSlots s b).ctl = s.ctl ∧
    (clearSlots s b).recov = s.recov ∧ (clearSlots s b).integ = s.integ := by
  unfold clearSlots
  repeat' split
  all_goals simp -implicitDefEqProofs

@[simp] theorem writeBounds_rest (b : Nat) :
    (writeBounds s b).aon = s.aon ∧ (writeBounds s b).mesh = s.mesh ∧ (writeBounds s b).hearths = s.hearths ∧
    (writeBounds s b).rails = s.rails ∧ (writeBounds s b).power = s.power ∧ (writeBounds s b).map = s.map ∧
    (writeBounds s b).flue = s.flue ∧ (writeBounds s b).baker = s.baker ∧ (writeBounds s b).ring = s.ring ∧
    (writeBounds s b).links = s.links ∧ (writeBounds s b).ctl = s.ctl ∧ (writeBounds s b).recov = s.recov ∧
    (writeBounds s b).integ = s.integ := by
  unfold writeBounds
  (repeat' split) <;> simp -implicitDefEqProofs

@[simp] theorem writeEpoch_rest (t : Nat) (e : U32) :
    (writeEpoch s t e).aon = s.aon ∧ (writeEpoch s t e).mesh = s.mesh ∧ (writeEpoch s t e).hearths = s.hearths ∧
    (writeEpoch s t e).rails = s.rails ∧ (writeEpoch s t e).power = s.power ∧ (writeEpoch s t e).map = s.map ∧
    (writeEpoch s t e).baker = s.baker ∧ (writeEpoch s t e).ring = s.ring ∧ (writeEpoch s t e).links = s.links ∧
    (writeEpoch s t e).ctl = s.ctl ∧ (writeEpoch s t e).recov = s.recov ∧ (writeEpoch s t e).integ = s.integ := by
  unfold writeEpoch
  dsimp only
  refine ⟨?_, ?_, ?_, ?_, ?_, ?_, ?_, ?_, ?_, ?_, ?_, ?_⟩ <;> (refine (foldl_keeps _ (fun u x => ?_) _ _).trans ?_ <;> (repeat' split) <;> simp -implicitDefEqProofs)

@[simp] theorem dropCrumbs_rest (b : Nat) :
    (dropCrumbs s b).aon = s.aon ∧ (dropCrumbs s b).mesh = s.mesh ∧ (dropCrumbs s b).hearths = s.hearths ∧
    (dropCrumbs s b).rails = s.rails ∧ (dropCrumbs s b).power = s.power ∧ (dropCrumbs s b).map = s.map ∧ (dropCrumbs s b).flue = s.flue ∧
    (dropCrumbs s b).baker = s.baker ∧ (dropCrumbs s b).ring = s.ring ∧ (dropCrumbs s b).links = s.links ∧ (dropCrumbs s b).ctl = s.ctl ∧
    (dropCrumbs s b).recov = s.recov ∧ (dropCrumbs s b).integ = s.integ := by
  unfold dropCrumbs
  (repeat' split) <;> simp -implicitDefEqProofs

@[simp] theorem dropDmas_rest (b : Nat) :
    (dropDmas s b).aon = s.aon ∧ (dropDmas s b).mesh = s.mesh ∧ (dropDmas s b).hearths = s.hearths ∧ (dropDmas s b).rails = s.rails ∧
    (dropDmas s b).power = s.power ∧ (dropDmas s b).map = s.map ∧ (dropDmas s b).cores = s.cores ∧ (dropDmas s b).flue = s.flue ∧
    (dropDmas s b).baker = s.baker ∧ (dropDmas s b).links = s.links ∧ (dropDmas s b).ctl = s.ctl ∧ (dropDmas s b).recov = s.recov ∧
    (dropDmas s b).integ = s.integ := by
  unfold dropDmas
  (repeat' split) <;> simp -implicitDefEqProofs

@[simp] theorem fenceLinks_rest (b : Nat) :
    (fenceLinks s b).aon = s.aon ∧ (fenceLinks s b).mesh = s.mesh ∧ (fenceLinks s b).hearths = s.hearths ∧
    (fenceLinks s b).rails = s.rails ∧ (fenceLinks s b).power = s.power ∧ (fenceLinks s b).map = s.map ∧ (fenceLinks s b).flue = s.flue ∧
    (fenceLinks s b).baker = s.baker ∧ (fenceLinks s b).ctl = s.ctl ∧ (fenceLinks s b).recov = s.recov ∧
    (fenceLinks s b).integ = s.integ := by
  unfold fenceLinks
  (repeat' split) <;> simp -implicitDefEqProofs

@[simp] theorem abandon_rest (b : Nat) :
    (abandon s b).aon = s.aon ∧ (abandon s b).mesh = s.mesh ∧ (abandon s b).hearths = s.hearths ∧ (abandon s b).rails = s.rails ∧
    (abandon s b).power = s.power ∧ (abandon s b).map = s.map ∧ (abandon s b).ctl = s.ctl ∧ (abandon s b).recov = s.recov ∧
    (abandon s b).integ = s.integ := by
  unfold abandon
  repeat' split
  all_goals simp -implicitDefEqProofs

@[simp] theorem putSchedule_rest (t : Nat) (e : U32) (p : Placement) (ph : Nat) (c0 : Nat) (now : Bool) :
    (putSchedule s t e p ph c0 now).aon = s.aon ∧ (putSchedule s t e p ph c0 now).mesh = s.mesh ∧
    (putSchedule s t e p ph c0 now).hearths = s.hearths ∧ (putSchedule s t e p ph c0 now).rails = s.rails ∧
    (putSchedule s t e p ph c0 now).power = s.power ∧ (putSchedule s t e p ph c0 now).map = s.map ∧
    (putSchedule s t e p ph c0 now).cores = s.cores ∧ (putSchedule s t e p ph c0 now).baker = s.baker ∧
    (putSchedule s t e p ph c0 now).ring = s.ring ∧ (putSchedule s t e p ph c0 now).links = s.links ∧
    (putSchedule s t e p ph c0 now).ctl = s.ctl ∧ (putSchedule s t e p ph c0 now).recov = s.recov ∧
    (putSchedule s t e p ph c0 now).integ = s.integ := by
  unfold putSchedule
  (repeat' split) <;> simp -implicitDefEqProofs

@[simp] theorem requestFills_rest (b : Nat) (pick : Nat → Bool) :
    (requestFills s b pick).aon = s.aon ∧ (requestFills s b pick).mesh = s.mesh ∧ (requestFills s b pick).hearths = s.hearths ∧
    (requestFills s b pick).rails = s.rails ∧ (requestFills s b pick).power = s.power ∧ (requestFills s b pick).map = s.map ∧
    (requestFills s b pick).cores = s.cores ∧ (requestFills s b pick).flue = s.flue ∧ (requestFills s b pick).baker = s.baker ∧
    (requestFills s b pick).links = s.links ∧ (requestFills s b pick).ctl = s.ctl ∧ (requestFills s b pick).recov = s.recov ∧
    (requestFills s b pick).integ = s.integ := by
  unfold requestFills
  (repeat' split) <;> simp -implicitDefEqProofs

@[simp] theorem beginFills_rest (b : Nat) (pick : W256 → Bool) :
    (beginFills s b pick).aon = s.aon ∧ (beginFills s b pick).mesh = s.mesh ∧ (beginFills s b pick).hearths = s.hearths ∧
    (beginFills s b pick).rails = s.rails ∧ (beginFills s b pick).power = s.power ∧ (beginFills s b pick).map = s.map ∧
    (beginFills s b pick).flue = s.flue ∧ (beginFills s b pick).links = s.links ∧ (beginFills s b pick).ctl = s.ctl ∧
    (beginFills s b pick).recov = s.recov ∧ (beginFills s b pick).integ = s.integ := by
  unfold beginFills
  (repeat' split) <;> simp -implicitDefEqProofs

@[simp] theorem endItems_rest (b : Nat) (pick : U32 → Bool) (status : U8) (detail : BitVec 128) :
    (endItems s b pick status detail).aon = s.aon ∧ (endItems s b pick status detail).mesh = s.mesh ∧
    (endItems s b pick status detail).hearths = s.hearths ∧ (endItems s b pick status detail).rails = s.rails ∧
    (endItems s b pick status detail).power = s.power ∧ (endItems s b pick status detail).map = s.map ∧
    (endItems s b pick status detail).cores = s.cores ∧ (endItems s b pick status detail).flue = s.flue ∧
    (endItems s b pick status detail).baker = s.baker ∧ (endItems s b pick status detail).links = s.links ∧
    (endItems s b pick status detail).ctl = s.ctl ∧ (endItems s b pick status detail).recov = s.recov ∧
    (endItems s b pick status detail).integ = s.integ := by
  unfold endItems
  (repeat' split) <;> simp -implicitDefEqProofs

@[simp] theorem pauseBake_rest (b : Nat) (reason : Nat) :
    (pauseBake s b reason).mesh = s.mesh ∧ (pauseBake s b reason).hearths = s.hearths ∧ (pauseBake s b reason).rails = s.rails ∧
    (pauseBake s b reason).power = s.power ∧ (pauseBake s b reason).map = s.map ∧ (pauseBake s b reason).cores = s.cores ∧
    (pauseBake s b reason).flue = s.flue ∧ (pauseBake s b reason).ring = s.ring ∧ (pauseBake s b reason).links = s.links ∧
    (pauseBake s b reason).ctl = s.ctl ∧ (pauseBake s b reason).recov = s.recov ∧ (pauseBake s b reason).integ = s.integ := by
  unfold pauseBake
  (repeat' split) <;> simp -implicitDefEqProofs

@[simp] theorem requestCopyOut_rest (b : Nat) :
    (requestCopyOut s b).aon = s.aon ∧ (requestCopyOut s b).mesh = s.mesh ∧ (requestCopyOut s b).hearths = s.hearths ∧
    (requestCopyOut s b).rails = s.rails ∧ (requestCopyOut s b).power = s.power ∧ (requestCopyOut s b).map = s.map ∧
    (requestCopyOut s b).cores = s.cores ∧ (requestCopyOut s b).flue = s.flue ∧ (requestCopyOut s b).baker = s.baker ∧
    (requestCopyOut s b).links = s.links ∧ (requestCopyOut s b).ctl = s.ctl ∧ (requestCopyOut s b).recov = s.recov ∧
    (requestCopyOut s b).integ = s.integ := by
  unfold requestCopyOut
  repeat' split
  all_goals simp -implicitDefEqProofs

@[simp] theorem resumeCopies_rest :
    (resumeCopies s).aon = s.aon ∧ (resumeCopies s).mesh = s.mesh ∧ (resumeCopies s).hearths = s.hearths ∧
    (resumeCopies s).rails = s.rails ∧ (resumeCopies s).power = s.power ∧ (resumeCopies s).map = s.map ∧ (resumeCopies s).cores = s.cores ∧
    (resumeCopies s).flue = s.flue ∧ (resumeCopies s).baker = s.baker ∧ (resumeCopies s).links = s.links ∧ (resumeCopies s).ctl = s.ctl ∧
    (resumeCopies s).recov = s.recov ∧ (resumeCopies s).integ = s.integ := by
  unfold resumeCopies
  refine ⟨?_, ?_, ?_, ?_, ?_, ?_, ?_, ?_, ?_, ?_, ?_, ?_, ?_⟩ <;> refine foldl_keeps _ (fun u x => ?_) _ _ <;> simp -implicitDefEqProofs

@[simp] theorem loseScratch_rest (l : List CoreId) :
    (loseScratch s l).aon = s.aon ∧ (loseScratch s l).mesh = s.mesh ∧ (loseScratch s l).hearths = s.hearths ∧
    (loseScratch s l).rails = s.rails ∧ (loseScratch s l).power = s.power ∧ (loseScratch s l).map = s.map ∧
    (loseScratch s l).flue = s.flue ∧ (loseScratch s l).baker = s.baker ∧ (loseScratch s l).ring = s.ring ∧
    (loseScratch s l).links = s.links ∧ (loseScratch s l).ctl = s.ctl ∧ (loseScratch s l).recov = s.recov ∧
    (loseScratch s l).integ = s.integ := by
  unfold loseScratch
  (repeat' split) <;> simp -implicitDefEqProofs

@[simp] theorem releaseRouters_rest (l : List Site) :
    (releaseRouters s l).aon = s.aon ∧ (releaseRouters s l).mesh = s.mesh ∧ (releaseRouters s l).hearths = s.hearths ∧
    (releaseRouters s l).rails = s.rails ∧ (releaseRouters s l).power = s.power ∧ (releaseRouters s l).map = s.map ∧
    (releaseRouters s l).baker = s.baker ∧ (releaseRouters s l).ring = s.ring ∧ (releaseRouters s l).links = s.links ∧
    (releaseRouters s l).ctl = s.ctl ∧ (releaseRouters s l).recov = s.recov ∧ (releaseRouters s l).integ = s.integ := by
  unfold releaseRouters
  refine ⟨?_, ?_, ?_, ?_, ?_, ?_, ?_, ?_, ?_, ?_, ?_, ?_⟩ <;> (refine foldl_keeps _ (fun u x => ?_) _ _ ; dsimp only ; (repeat' split) <;> simp -implicitDefEqProofs)

@[simp] theorem reduceRect_rest (n : Nat) (t : Nat) :
    (reduceRect s n t).mesh = s.mesh ∧ (reduceRect s n t).hearths = s.hearths ∧ (reduceRect s n t).rails = s.rails ∧
    (reduceRect s n t).power = s.power ∧ (reduceRect s n t).map = s.map ∧ (reduceRect s n t).ring = s.ring ∧
    (reduceRect s n t).links = s.links ∧ (reduceRect s n t).recov = s.recov ∧ (reduceRect s n t).integ = s.integ := by
  unfold reduceRect
  (repeat' split) <;> simp -implicitDefEqProofs

@[simp] theorem pend_rest (c : CoreId) (p : Pending) :
    (pend s c p).aon = s.aon ∧ (pend s c p).mesh = s.mesh ∧ (pend s c p).hearths = s.hearths ∧ (pend s c p).rails = s.rails ∧
    (pend s c p).power = s.power ∧ (pend s c p).cores = s.cores ∧ (pend s c p).flue = s.flue ∧ (pend s c p).baker = s.baker ∧
    (pend s c p).ring = s.ring ∧ (pend s c p).links = s.links ∧ (pend s c p).ctl = s.ctl ∧ (pend s c p).recov = s.recov ∧
    (pend s c p).integ = s.integ := by
  unfold pend
  (repeat' split) <;> simp -implicitDefEqProofs

@[simp] theorem retireCore_rest (c : CoreId) :
    (retireCore s c).mesh = s.mesh ∧ (retireCore s c).hearths = s.hearths ∧ (retireCore s c).rails = s.rails ∧
    (retireCore s c).power = s.power ∧ (retireCore s c).cores = s.cores ∧ (retireCore s c).flue = s.flue ∧
    (retireCore s c).baker = s.baker ∧ (retireCore s c).ring = s.ring ∧ (retireCore s c).links = s.links ∧ (retireCore s c).ctl = s.ctl ∧
    (retireCore s c).recov = s.recov ∧ (retireCore s c).integ = s.integ := by
  unfold retireCore
  (repeat' split) <;> simp -implicitDefEqProofs

@[simp] theorem takeEffect_rest (c : CoreId) :
    (takeEffect s c).aon = s.aon ∧ (takeEffect s c).mesh = s.mesh ∧ (takeEffect s c).hearths = s.hearths ∧
    (takeEffect s c).rails = s.rails ∧ (takeEffect s c).power = s.power ∧ (takeEffect s c).flue = s.flue ∧
    (takeEffect s c).baker = s.baker ∧ (takeEffect s c).ring = s.ring ∧ (takeEffect s c).links = s.links ∧ (takeEffect s c).ctl = s.ctl ∧
    (takeEffect s c).recov = s.recov ∧ (takeEffect s c).integ = s.integ := by
  unfold takeEffect
  (repeat' split) <;> simp -implicitDefEqProofs

@[simp] theorem settleChange_rest (c : CoreId) :
    (settleChange s c).aon = s.aon ∧ (settleChange s c).mesh = s.mesh ∧ (settleChange s c).hearths = s.hearths ∧
    (settleChange s c).rails = s.rails ∧ (settleChange s c).power = s.power ∧ (settleChange s c).flue = s.flue ∧
    (settleChange s c).baker = s.baker ∧ (settleChange s c).ring = s.ring ∧ (settleChange s c).links = s.links ∧
    (settleChange s c).ctl = s.ctl ∧ (settleChange s c).recov = s.recov ∧ (settleChange s c).integ = s.integ := by
  unfold settleChange
  (repeat' split) <;> simp -implicitDefEqProofs

@[simp] theorem rechoose_rest (c : CoreId) :
    (rechoose s c).mesh = s.mesh ∧ (rechoose s c).hearths = s.hearths ∧ (rechoose s c).rails = s.rails ∧ (rechoose s c).power = s.power ∧
    (rechoose s c).cores = s.cores ∧ (rechoose s c).flue = s.flue ∧ (rechoose s c).baker = s.baker ∧ (rechoose s c).ring = s.ring ∧
    (rechoose s c).links = s.links ∧ (rechoose s c).ctl = s.ctl ∧ (rechoose s c).recov = s.recov ∧ (rechoose s c).integ = s.integ := by
  unfold rechoose
  dsimp only
  repeat' split
  all_goals simp -implicitDefEqProofs

@[simp] theorem dropPending_rest (n : Nat) (cores : List CoreId) :
    (dropPending s n cores).mesh = s.mesh ∧ (dropPending s n cores).hearths = s.hearths ∧ (dropPending s n cores).rails = s.rails ∧
    (dropPending s n cores).power = s.power ∧ (dropPending s n cores).cores = s.cores ∧ (dropPending s n cores).flue = s.flue ∧
    (dropPending s n cores).baker = s.baker ∧ (dropPending s n cores).ring = s.ring ∧ (dropPending s n cores).links = s.links ∧
    (dropPending s n cores).ctl = s.ctl ∧ (dropPending s n cores).recov = s.recov ∧ (dropPending s n cores).integ = s.integ := by
  unfold dropPending
  (repeat' split) <;> simp -implicitDefEqProofs

@[simp] theorem failCore_rest (c : CoreId) :
    (failCore s c).mesh = s.mesh ∧ (failCore s c).hearths = s.hearths ∧ (failCore s c).rails = s.rails ∧ (failCore s c).power = s.power ∧
    (failCore s c).flue = s.flue ∧ (failCore s c).ring = s.ring ∧ (failCore s c).links = s.links ∧ (failCore s c).ctl = s.ctl ∧
    (failCore s c).recov = s.recov ∧ (failCore s c).integ = s.integ := by
  unfold failCore
  dsimp only
  repeat' split
  all_goals simp -implicitDefEqProofs

@[simp] theorem selfTestCore_rest (test : SelfTest) (c : CoreId) :
    (selfTestCore s test c).mesh = s.mesh ∧ (selfTestCore s test c).hearths = s.hearths ∧ (selfTestCore s test c).rails = s.rails ∧
    (selfTestCore s test c).power = s.power ∧ (selfTestCore s test c).flue = s.flue ∧ (selfTestCore s test c).ring = s.ring ∧
    (selfTestCore s test c).links = s.links ∧ (selfTestCore s test c).ctl = s.ctl ∧ (selfTestCore s test c).recov = s.recov ∧
    (selfTestCore s test c).integ = s.integ := by
  unfold selfTestCore
  (repeat' split) <;> simp -implicitDefEqProofs

@[simp] theorem selfTestCores_rest (test : SelfTest) (l : List CoreId) :
    (selfTestCores s test l).mesh = s.mesh ∧ (selfTestCores s test l).hearths = s.hearths ∧ (selfTestCores s test l).rails = s.rails ∧
    (selfTestCores s test l).power = s.power ∧ (selfTestCores s test l).flue = s.flue ∧ (selfTestCores s test l).ring = s.ring ∧
    (selfTestCores s test l).links = s.links ∧ (selfTestCores s test l).ctl = s.ctl ∧ (selfTestCores s test l).recov = s.recov ∧
    (selfTestCores s test l).integ = s.integ := by
  unfold selfTestCores
  (repeat' split) <;> simp -implicitDefEqProofs

@[simp] theorem raisePort_rest (p : Nat) (sev : Nat) (arg : Nat) :
    (raisePort s p sev arg).mesh = s.mesh ∧ (raisePort s p sev arg).hearths = s.hearths ∧ (raisePort s p sev arg).rails = s.rails ∧
    (raisePort s p sev arg).power = s.power ∧ (raisePort s p sev arg).map = s.map ∧ (raisePort s p sev arg).cores = s.cores ∧
    (raisePort s p sev arg).flue = s.flue ∧ (raisePort s p sev arg).baker = s.baker ∧ (raisePort s p sev arg).ring = s.ring ∧
    (raisePort s p sev arg).links = s.links ∧ (raisePort s p sev arg).ctl = s.ctl ∧ (raisePort s p sev arg).recov = s.recov ∧
    (raisePort s p sev arg).integ = s.integ := by
  unfold raisePort
  (repeat' split) <;> simp -implicitDefEqProofs

@[simp] theorem moveFrames_rest (p : Nat) :
    (moveFrames s p).aon = s.aon ∧ (moveFrames s p).mesh = s.mesh ∧ (moveFrames s p).hearths = s.hearths ∧
    (moveFrames s p).rails = s.rails ∧ (moveFrames s p).power = s.power ∧ (moveFrames s p).map = s.map ∧ (moveFrames s p).cores = s.cores ∧
    (moveFrames s p).flue = s.flue ∧ (moveFrames s p).baker = s.baker ∧ (moveFrames s p).ring = s.ring ∧ (moveFrames s p).ctl = s.ctl ∧
    (moveFrames s p).recov = s.recov ∧ (moveFrames s p).integ = s.integ := by
  unfold moveFrames
  refine ⟨?_, ?_, ?_, ?_, ?_, ?_, ?_, ?_, ?_, ?_, ?_, ?_, ?_⟩
  · exact (foldl_keeps (fun u : State => u.aon) (fun u x => by split <;> simp -implicitDefEqProofs) _ _).trans
      (foldl_keeps (fun u : State => u.aon) (fun u x => by split <;> simp -implicitDefEqProofs) _ _)
  · exact (foldl_keeps (fun u : State => u.mesh) (fun u x => by split <;> simp -implicitDefEqProofs) _ _).trans
      (foldl_keeps (fun u : State => u.mesh) (fun u x => by split <;> simp -implicitDefEqProofs) _ _)
  · exact (foldl_keeps (fun u : State => u.hearths) (fun u x => by split <;> simp -implicitDefEqProofs) _ _).trans
      (foldl_keeps (fun u : State => u.hearths) (fun u x => by split <;> simp -implicitDefEqProofs) _ _)
  · exact (foldl_keeps (fun u : State => u.rails) (fun u x => by split <;> simp -implicitDefEqProofs) _ _).trans
      (foldl_keeps (fun u : State => u.rails) (fun u x => by split <;> simp -implicitDefEqProofs) _ _)
  · exact (foldl_keeps (fun u : State => u.power) (fun u x => by split <;> simp -implicitDefEqProofs) _ _).trans
      (foldl_keeps (fun u : State => u.power) (fun u x => by split <;> simp -implicitDefEqProofs) _ _)
  · exact (foldl_keeps (fun u : State => u.map) (fun u x => by split <;> simp -implicitDefEqProofs) _ _).trans
      (foldl_keeps (fun u : State => u.map) (fun u x => by split <;> simp -implicitDefEqProofs) _ _)
  · exact (foldl_keeps (fun u : State => u.cores) (fun u x => by split <;> simp -implicitDefEqProofs) _ _).trans
      (foldl_keeps (fun u : State => u.cores) (fun u x => by split <;> simp -implicitDefEqProofs) _ _)
  · exact (foldl_keeps (fun u : State => u.flue) (fun u x => by split <;> simp -implicitDefEqProofs) _ _).trans
      (foldl_keeps (fun u : State => u.flue) (fun u x => by split <;> simp -implicitDefEqProofs) _ _)
  · exact (foldl_keeps (fun u : State => u.baker) (fun u x => by split <;> simp -implicitDefEqProofs) _ _).trans
      (foldl_keeps (fun u : State => u.baker) (fun u x => by split <;> simp -implicitDefEqProofs) _ _)
  · exact (foldl_keeps (fun u : State => u.ring) (fun u x => by split <;> simp -implicitDefEqProofs) _ _).trans
      (foldl_keeps (fun u : State => u.ring) (fun u x => by split <;> simp -implicitDefEqProofs) _ _)
  · exact (foldl_keeps (fun u : State => u.ctl) (fun u x => by split <;> simp -implicitDefEqProofs) _ _).trans
      (foldl_keeps (fun u : State => u.ctl) (fun u x => by split <;> simp -implicitDefEqProofs) _ _)
  · exact (foldl_keeps (fun u : State => u.recov) (fun u x => by split <;> simp -implicitDefEqProofs) _ _).trans
      (foldl_keeps (fun u : State => u.recov) (fun u x => by split <;> simp -implicitDefEqProofs) _ _)
  · exact (foldl_keeps (fun u : State => u.integ) (fun u x => by split <;> simp -implicitDefEqProofs) _ _).trans
      (foldl_keeps (fun u : State => u.integ) (fun u x => by split <;> simp -implicitDefEqProofs) _ _)

@[simp] theorem takeDown_rest (p : Nat) (st : U8) :
    (takeDown s p st).mesh = s.mesh ∧ (takeDown s p st).hearths = s.hearths ∧ (takeDown s p st).rails = s.rails ∧
    (takeDown s p st).power = s.power ∧ (takeDown s p st).map = s.map ∧ (takeDown s p st).cores = s.cores ∧
    (takeDown s p st).flue = s.flue ∧ (takeDown s p st).baker = s.baker ∧ (takeDown s p st).ring = s.ring ∧ (takeDown s p st).ctl = s.ctl ∧
    (takeDown s p st).recov = s.recov ∧ (takeDown s p st).integ = s.integ := by
  unfold takeDown
  (repeat' split) <;> simp -implicitDefEqProofs

@[simp] theorem routesChanged_rest :
    (routesChanged s).aon = s.aon ∧ (routesChanged s).mesh = s.mesh ∧ (routesChanged s).hearths = s.hearths ∧
    (routesChanged s).rails = s.rails ∧ (routesChanged s).power = s.power ∧ (routesChanged s).map = s.map ∧
    (routesChanged s).cores = s.cores ∧ (routesChanged s).flue = s.flue ∧ (routesChanged s).ring = s.ring ∧ (routesChanged s).ctl = s.ctl ∧
    (routesChanged s).recov = s.recov ∧ (routesChanged s).integ = s.integ := by
  unfold routesChanged
  dsimp only
  refine ⟨?_, ?_, ?_, ?_, ?_, ?_, ?_, ?_, ?_, ?_, ?_, ?_⟩ <;> simp only [resumeAllRouted_rest] <;> refine (foldl_keeps _ (fun u x => ?_) _ _).trans ?_ <;>
    (repeat' split) <;> simp -implicitDefEqProofs

@[simp] theorem restoreBank_rest (b : Nat) (area : Nat) :
    (restoreBank s b area).2.mesh = s.mesh ∧ (restoreBank s b area).2.hearths = s.hearths ∧ (restoreBank s b area).2.rails = s.rails ∧
    (restoreBank s b area).2.power = s.power ∧ (restoreBank s b area).2.map = s.map ∧ (restoreBank s b area).2.links = s.links ∧
    (restoreBank s b area).2.ctl = s.ctl ∧ (restoreBank s b area).2.recov = s.recov ∧ (restoreBank s b area).2.integ = s.integ := by
  unfold restoreBank
  simp
  (repeat' split) <;> simp_all -implicitDefEqProofs

@[simp] theorem rejectImage_rest (r : Nat) :
    (rejectImage s r).mesh = s.mesh ∧ (rejectImage s r).hearths = s.hearths ∧ (rejectImage s r).rails = s.rails ∧
    (rejectImage s r).power = s.power ∧ (rejectImage s r).map = s.map ∧ (rejectImage s r).cores = s.cores ∧
    (rejectImage s r).flue = s.flue ∧ (rejectImage s r).baker = s.baker ∧ (rejectImage s r).ring = s.ring ∧
    (rejectImage s r).links = s.links ∧ (rejectImage s r).ctl = s.ctl ∧ (rejectImage s r).integ = s.integ := by
  unfold rejectImage
  (repeat' split) <;> simp -implicitDefEqProofs

@[simp] theorem lockBindings_rest (l : List (Fin 256 × U32)) :
    (lockBindings s l).aon = s.aon ∧ (lockBindings s l).mesh = s.mesh ∧ (lockBindings s l).hearths = s.hearths ∧
    (lockBindings s l).rails = s.rails ∧ (lockBindings s l).power = s.power ∧ (lockBindings s l).map = s.map ∧
    (lockBindings s l).cores = s.cores ∧ (lockBindings s l).flue = s.flue ∧ (lockBindings s l).baker = s.baker ∧
    (lockBindings s l).ring = s.ring ∧ (lockBindings s l).links = s.links ∧ (lockBindings s l).recov = s.recov ∧
    (lockBindings s l).integ = s.integ := by
  unfold lockBindings
  (repeat' split) <;> simp -implicitDefEqProofs

@[simp] theorem bringUpCores_rest (test : SelfTest) :
    (bringUpCores s test).mesh = s.mesh ∧ (bringUpCores s test).rails = s.rails ∧ (bringUpCores s test).power = s.power ∧
    (bringUpCores s test).flue = s.flue ∧ (bringUpCores s test).ring = s.ring ∧ (bringUpCores s test).links = s.links ∧
    (bringUpCores s test).ctl = s.ctl ∧ (bringUpCores s test).recov = s.recov ∧ (bringUpCores s test).integ = s.integ := by
  unfold bringUpCores
  (repeat' split) <;> simp -implicitDefEqProofs

@[simp] theorem spill_rest (l : List CoreId) (b : Nat) :
    (spill s l b).mesh = s.mesh ∧ (spill s l b).hearths = s.hearths ∧ (spill s l b).rails = s.rails ∧ (spill s l b).power = s.power ∧
    (spill s l b).map = s.map ∧ (spill s l b).flue = s.flue ∧ (spill s l b).baker = s.baker ∧ (spill s l b).ring = s.ring ∧
    (spill s l b).links = s.links ∧ (spill s l b).ctl = s.ctl ∧ (spill s l b).recov = s.recov ∧ (spill s l b).integ = s.integ := by
  unfold spill
  (repeat' split) <;> simp -implicitDefEqProofs

@[simp] theorem unspill_rest (l : List CoreId) (b : Nat) :
    (unspill s l b).mesh = s.mesh ∧ (unspill s l b).hearths = s.hearths ∧ (unspill s l b).rails = s.rails ∧
    (unspill s l b).power = s.power ∧ (unspill s l b).map = s.map ∧ (unspill s l b).flue = s.flue ∧ (unspill s l b).baker = s.baker ∧
    (unspill s l b).ring = s.ring ∧ (unspill s l b).links = s.links ∧ (unspill s l b).ctl = s.ctl ∧ (unspill s l b).recov = s.recov ∧
    (unspill s l b).integ = s.integ := by
  unfold unspill
  (repeat' split) <;> simp -implicitDefEqProofs

@[simp] theorem spillOrPause_rest (l : List CoreId) (b : Nat) :
    (spillOrPause s l b).mesh = s.mesh ∧ (spillOrPause s l b).hearths = s.hearths ∧ (spillOrPause s l b).rails = s.rails ∧
    (spillOrPause s l b).power = s.power ∧ (spillOrPause s l b).map = s.map ∧ (spillOrPause s l b).flue = s.flue ∧
    (spillOrPause s l b).links = s.links ∧ (spillOrPause s l b).ctl = s.ctl ∧ (spillOrPause s l b).recov = s.recov ∧
    (spillOrPause s l b).integ = s.integ := by
  unfold spillOrPause
  (repeat' split) <;> simp -implicitDefEqProofs

@[simp] theorem resetCore_rest (c : CoreId) :
    (resetCore s c).aon = s.aon ∧ (resetCore s c).mesh = s.mesh ∧ (resetCore s c).hearths = s.hearths ∧ (resetCore s c).rails = s.rails ∧
    (resetCore s c).power = s.power ∧ (resetCore s c).map = s.map ∧ (resetCore s c).flue = s.flue ∧ (resetCore s c).baker = s.baker ∧
    (resetCore s c).ring = s.ring ∧ (resetCore s c).links = s.links ∧ (resetCore s c).ctl = s.ctl ∧ (resetCore s c).recov = s.recov ∧
    (resetCore s c).integ = s.integ := by
  unfold resetCore
  (repeat' split) <;> simp -implicitDefEqProofs

@[simp] theorem restoreBake_rest (l : List CoreId) (gen : U32) (b : Nat) :
    (restoreBake s l gen b).mesh = s.mesh ∧ (restoreBake s l gen b).hearths = s.hearths ∧ (restoreBake s l gen b).rails = s.rails ∧
    (restoreBake s l gen b).power = s.power ∧ (restoreBake s l gen b).map = s.map ∧ (restoreBake s l gen b).flue = s.flue ∧
    (restoreBake s l gen b).links = s.links ∧ (restoreBake s l gen b).ctl = s.ctl ∧ (restoreBake s l gen b).recov = s.recov ∧
    (restoreBake s l gen b).integ = s.integ := by
  unfold restoreBake
  repeat' split
  all_goals simp -implicitDefEqProofs

@[simp] theorem resetScope_rest (a : ResetScope) (test : SelfTest) :
    (resetScope s a test).mesh = s.mesh ∧ (resetScope s a test).hearths = s.hearths ∧ (resetScope s a test).rails = s.rails ∧
    (resetScope s a test).power = s.power ∧ (resetScope s a test).flue = s.flue ∧ (resetScope s a test).links = s.links ∧
    (resetScope s a test).ctl = s.ctl ∧ (resetScope s a test).recov = s.recov ∧ (resetScope s a test).integ = s.integ := by
  unfold resetScope
  (repeat' split) <;> simp -implicitDefEqProofs

@[simp] theorem rebuildLedger_rest :
    (rebuildLedger s).aon = s.aon ∧ (rebuildLedger s).mesh = s.mesh ∧ (rebuildLedger s).hearths = s.hearths ∧
    (rebuildLedger s).rails = s.rails ∧ (rebuildLedger s).power = s.power ∧ (rebuildLedger s).map = s.map ∧
    (rebuildLedger s).cores = s.cores ∧ (rebuildLedger s).flue = s.flue ∧ (rebuildLedger s).baker = s.baker ∧
    (rebuildLedger s).links = s.links ∧ (rebuildLedger s).ctl = s.ctl ∧ (rebuildLedger s).recov = s.recov ∧
    (rebuildLedger s).integ = s.integ := by
  unfold rebuildLedger
  (repeat' split) <;> simp -implicitDefEqProofs

@[simp] theorem restoreJournal_rest :
    (restoreJournal s).aon = s.aon ∧ (restoreJournal s).mesh = s.mesh ∧ (restoreJournal s).hearths = s.hearths ∧
    (restoreJournal s).rails = s.rails ∧ (restoreJournal s).power = s.power ∧ (restoreJournal s).map = s.map ∧
    (restoreJournal s).cores = s.cores ∧ (restoreJournal s).flue = s.flue ∧ (restoreJournal s).baker = s.baker ∧
    (restoreJournal s).ring = s.ring ∧ (restoreJournal s).links = s.links ∧ (restoreJournal s).recov = s.recov := by
  unfold restoreJournal
  (repeat' split) <;> simp -implicitDefEqProofs

@[simp] theorem forgetNumbers_rest (src : Nat) :
    (forgetNumbers s src).aon = s.aon ∧ (forgetNumbers s src).mesh = s.mesh ∧ (forgetNumbers s src).hearths = s.hearths ∧
    (forgetNumbers s src).rails = s.rails ∧ (forgetNumbers s src).power = s.power ∧ (forgetNumbers s src).map = s.map ∧
    (forgetNumbers s src).cores = s.cores ∧ (forgetNumbers s src).flue = s.flue ∧ (forgetNumbers s src).baker = s.baker ∧
    (forgetNumbers s src).ring = s.ring ∧ (forgetNumbers s src).links = s.links ∧ (forgetNumbers s src).recov = s.recov ∧
    (forgetNumbers s src).integ = s.integ := by
  unfold forgetNumbers
  (repeat' split) <;> simp -implicitDefEqProofs

end Sys2Proof.Machine

/-! ### Startup and the whole-device reset (R31, R43, R45, R391, R393, R434 to R442, R453, R454) -/

namespace Sys2Proof.Machine

variable {s t u : State}

/-! #### What the steps of the start sequence leave alone -/

/-- From `s` to `t` the record of resets and firmware, the links and the rescue state are as they were. -/
def StartKept (s t : State) : Prop :=
  t.recov = s.recov ∧ t.links = s.links ∧ t.aon.rescue = s.aon.rescue ∧ t.aon.cause = s.aon.cause

theorem StartKept.refl (s : State) : StartKept s s := ⟨rfl, rfl, rfl, rfl⟩

theorem StartKept.trans (h : StartKept s t) (k : StartKept t u) : StartKept s u := by
  obtain ⟨hr, hl, ha, hc⟩ := h
  obtain ⟨kr, kl, ka, kc⟩ := k
  exact ⟨kr.trans hr, kl.trans hl, ka.trans ha, kc.trans hc⟩

theorem startKept_foldl {α : Type} {f : State → α → State} (h : ∀ u x, StartKept u (f u x)) (l : List α) (s : State) :
    StartKept s (l.foldl f s) :=
  foldl_prop (p := StartKept s) (fun u x hu => hu.trans (h u x)) l (StartKept.refl s)

theorem startKept_raiseS (s : State) (i b v x : Nat) : StartKept s (raiseS s i b v x) :=
  ⟨raiseS_recov .., raiseS_links .., raiseS_aon_rescue .., raiseS_aon_cause ..⟩

theorem startKept_modRec (s : State) (f : Records → Records) : StartKept s (s.modRec f) := ⟨rfl, rfl, rfl, rfl⟩

theorem startKept_modChan (s : State) (c : Nat) (f : Channel → Channel) : StartKept s (s.modChan c f) := ⟨rfl, rfl, rfl, rfl⟩

theorem startKept_seamTest (s : State) (found : List (Nat × Nat × Nat)) : StartKept s (seamTest s found) := by
  unfold seamTest
  refine StartKept.trans ?_ (startKept_foldl (fun u k => startKept_raiseS ..) _ _)
  exact startKept_foldl (f := fun (t : State) (e : Nat × Nat × Nat) => t.modRec fun r => { r with tracks := mmod 0 r.tracks (17 * e.1 + e.2.1 % 17) (· + e.2.2) })
    (fun u e => startKept_modRec ..) _ _

theorem startKept_spareMaps (s : State) (bad : List Site) : StartKept s (spareMaps s bad) := by
  unfold spareMaps
  exact startKept_foldl (f := fun t c => raiseS t 0x3001 (c + 1) 3 c) (fun u c => startKept_raiseS ..) _ { s with map := _ }

theorem startKept_prove (s : State) (l : List (Site × Nat × Nat)) : StartKept s (prove s l) :=
  startKept_spareMaps { s with aon := _, map := _, flue := _ } _

theorem spareMaps_flue (s : State) (bad : List Site) : (spareMaps s bad).flue = s.flue := by
  unfold spareMaps
  exact foldl_keeps (fun u : State => u.flue) (fun u c => raiseS_flue ..) _ _

theorem prove_cycle (s : State) (l : List (Site × Nat × Nat)) : (prove s l).flue.cycle = 0 := by
  unfold prove
  rw [spareMaps_flue]

theorem startKept_trainStacks (s : State) (bad : List Nat) (lanes : List (Nat × Nat)) : StartKept s (trainStacks s bad lanes) := by
  unfold trainStacks
  refine StartKept.trans ?_ (startKept_foldl (fun u ch => (startKept_modChan ..).trans (startKept_raiseS ..)) _ _)
  exact startKept_foldl (f := fun (t : State) (e : Nat × Nat) => t.modChan e.1 fun c => { c with lanes := BitVec.ofNat 8 e.2 }) (fun u e => startKept_modChan ..) _
    { s with aon := _, hbm := _ }

theorem trainStacks_flue (s : State) (bad : List Nat) (lanes : List (Nat × Nat)) : (trainStacks s bad lanes).flue = s.flue := by
  unfold trainStacks
  refine (foldl_keeps (fun u : State => u.flue) (fun u ch => by rw [raiseS_flue]; rfl) _ _).trans ?_
  exact foldl_keeps (fun u : State => u.flue) (fun u e => by rfl) _ _

/-- Training leaves the stacks without a word. -/
theorem trainStacks_empty (s : State) (bad : List Nat) (lanes : List (Nat × Nat)) : (trainStacks s bad lanes).hbm.words = [] := by
  unfold trainStacks
  refine (foldl_keeps (fun u : State => u.hbm.words) (fun u ch => by rw [raiseS_hbm]; rfl) _ _).trans ?_
  exact foldl_keeps (fun u : State => u.hbm.words) (fun u e => by rfl) _ _

/-! #### The start sequence (R435, R436) -/

/-- The fuses as a read of their two copies leaves them. -/
def withRead (s : State) (o : BootObs) : State := { s with fuse := { s.fuse with badA := o.badA, badB := o.badB } }

theorem any_contains_iff {l m : List Nat} : (l.any m.contains) = true ↔ ∃ w ∈ l, w ∈ m := by simp

theorem any_contains_false {l m : List Nat} (h : ∀ w ∈ l, w ∉ m) : (l.any m.contains) = false :=
  Bool.eq_false_iff.2 fun k => by obtain ⟨w, hw, hm⟩ := any_contains_iff.1 k; exact h w hw hm

theorem startSequence_badFuse {o : BootObs} (h : ∃ w ∈ o.badA, w ∈ o.badB) : startSequence s o = enterRescue (withRead s o) 2 5 :=
  if_pos (any_contains_iff.2 h)

theorem startSequence_noRom {o : BootObs} (h : ∀ w ∈ o.badA, w ∉ o.badB) (hw : o.romW = false) (he : o.romE = false) :
    startSequence s o = enterRescue (withRead s o) 1 1 := by
  unfold startSequence
  dsimp only
  rw [any_contains_false h, hw, he]
  rfl

/-- The state in which the start goes on with a Stoker that passed. -/
structure Started (s t : State) (o : BootObs) : Prop where
  rescue : t.aon.rescue = s.aon.rescue
  running : t.recov.running = s.recov.running
  dev : t.recov.dev = 1
  fwState : t.recov.fwState = 1
  active : t.recov.active = if o.romW then 8 else 9
  inc : t.links.inc = incarnation o.trng
  cycle : t.flue.cycle = 0
  empty : t.hbm.words = []

@[simp] theorem enterRescue_rescue (s : State) (st c : U8) : (enterRescue s st c).aon.rescue = st := raise_aon_rescue ..
@[simp] theorem enterRescue_cause (s : State) (st c : U8) : (enterRescue s st c).aon.cause = c := raise_aon_cause ..
@[simp] theorem enterRescue_recov (s : State) (st c : U8) : (enterRescue s st c).recov = { s.recov with dev := 5, active := 0 } := by
  rw [enterRescue, raise_recov]

/-- The state in which a start with one Stoker that passed tests the seams. -/
def bootOf (s : State) (o : BootObs) : State :=
  let t : State := { withRead s o with
    recov := { s.recov with active := if o.romW then 8 else 9, romFail := !(o.romW && o.romE), dev := 0 }
    map := { s.map with bypass := s.fuse.columns }
    mesh := { s.mesh with state := 0 } }
  if o.romW then t else raiseS t 0x7000 1 3 1

/-- What follows a seam test that leaves Lintel tracks enough. -/
def bootEnd (t : State) (o : BootObs) : State :=
  let t := trainStacks (prove t o.proving) o.badChannels o.lanes
  { t with links := { t.links with inc := incarnation o.trng }, recov := { t.recov with dev := 1, fwState := 1 } }

theorem startSequence_rom {o : BootObs} (h : ∀ w ∈ o.badA, w ∉ o.badB) (hr : o.romW = true ∨ o.romE = true) : startSequence s o =
    if Config.lintelStartMax < (seamTest (bootOf s o) o.seam).map.lintel.toNat then enterRescue (seamTest (bootOf s o) o.seam) 2 2
    else bootEnd (seamTest (bootOf s o) o.seam) o := by
  have hrom : (!o.romW && !o.romE) = false := by obtain h | h := hr <;> simp [h]
  unfold startSequence
  dsimp only
  rw [any_contains_false h, hrom, if_neg Bool.false_ne_true, if_neg Bool.false_ne_true]
  rfl

theorem bootOf_kept (s : State) (o : BootObs) : (bootOf s o).aon.rescue = s.aon.rescue ∧ (bootOf s o).recov =
    { s.recov with active := if o.romW then 8 else 9, romFail := !(o.romW && o.romE), dev := 0 } := by
  unfold bootOf
  dsimp only
  split
  · exact ⟨rfl, rfl⟩
  · exact ⟨raiseS_aon_rescue .., raiseS_recov ..⟩

theorem startKept_bootEnd (t : State) (o : BootObs) : StartKept t (trainStacks (prove t o.proving) o.badChannels o.lanes) :=
  (startKept_prove t _).trans (startKept_trainStacks _ _ _)

theorem started_bootEnd {o : BootObs} (hr : t.aon.rescue = s.aon.rescue)
    (hk : t.recov = { s.recov with active := if o.romW then 8 else 9, romFail := !(o.romW && o.romE), dev := 0 }) :
    Started s (bootEnd t o) o := by
  obtain ⟨hrec, -, hres, -⟩ := startKept_bootEnd t o
  have hrun := congrArg Recovery.running (hrec.trans hk)
  have hact := congrArg Recovery.active (hrec.trans hk)
  exact ⟨hres.trans hr, hrun, rfl, rfl, hact, rfl, (congrArg Flue.cycle (trainStacks_flue ..)).trans (prove_cycle ..), trainStacks_empty ..⟩

theorem startSequence_started {o : BootObs} (h : ∀ w ∈ o.badA, w ∉ o.badB) (hr : o.romW = true ∨ o.romE = true) :
    Started s (startSequence s o) o ∨
      (startSequence s o).aon.rescue = 2 ∧ (startSequence s o).aon.cause = 2 ∧ (startSequence s o).recov.active = 0 := by
  have hseam := startKept_seamTest (bootOf s o) o.seam
  obtain ⟨hrec, -, hres, -⟩ := hseam
  obtain ⟨hrescue, hrecov⟩ := bootOf_kept s o
  rw [startSequence_rom h hr]
  split
  · exact .inr ⟨enterRescue_rescue .., enterRescue_cause .., by rw [enterRescue_recov]⟩
  · exact .inl (started_bootEnd (hres.trans hrescue) (hrec.trans hrecov))

/-! #### O11 -/

/-- The device held in reset as VAON comes into tolerance, its always-on block at rest. -/
def vaonHeld (s : State) (badA badB : List Nat) : State :=
  let t := heldInReset { s with fuse := { s.fuse with badA := badA, badB := badB } }
  { t with aon := { t.aon with
      onVbak := false, holder := 0, leaseLeft := 0, window := false, windowLeft := 0, thermTrip := false, rescue := 0, cause := 0 } }

/-- The same once the retention latch has been looked at. -/
def vaonKept (s : State) (badA badB : List Nat) (low : Bool) : State :=
  if s.aon.latch || low then fallBack (vaonHeld s badA badB) else vaonHeld s badA badB

theorem exec_vaon_bad {badA badB : List Nat} (low : Bool) (h : ∃ w ∈ badA, w ∈ badB) :
    exec (.vaonInTolerance badA badB low) s = .next (enterRescue (vaonKept s badA badB low) 2 5) :=
  congrArg Host.Outcome.next (if_pos (any_contains_iff.2 h))

theorem exec_vaon_good {badA badB : List Nat} (low : Bool) (h : ∀ w ∈ badA, w ∉ badB) :
    exec (.vaonInTolerance badA badB low) s = .next (vaonKept s badA badB low) :=
  congrArg Host.Outcome.next (if_neg (by rw [any_contains_false h]; exact Bool.false_ne_true))

/-- What VAON_IN_TOLERANCE makes of the device, whichever way it ends. -/
structure VaonHeld (s t : State) (badA badB : List Nat) : Prop where
  fuse : t.fuse = { s.fuse with badA := badA, badB := badB }
  frame : t = { State.reset with fuse := t.fuse, aon := t.aon, host := s.host, pending := s.pending, recov := t.recov }
  procs : t.recov.procs = s.recov.procs.map fun e => (e.1, { crash := e.2.crash })
  last : t.recov.last = s.recov.last
  window : t.aon.window = false
  holder : t.aon.holder = 0
  onVbak : t.aon.onVbak = false
  thermTrip : t.aon.thermTrip = false

theorem vaonHeld_kept (s : State) (badA badB : List Nat) (low : Bool) : VaonHeld s (vaonKept s badA badB low) badA badB := by
  unfold vaonKept
  split
  · exact ⟨rfl, rfl, rfl, rfl, rfl, rfl, rfl, rfl⟩
  · exact ⟨rfl, rfl, rfl, rfl, rfl, rfl, rfl, rfl⟩

theorem VaonHeld.enterRescue {badA badB : List Nat} (h : VaonHeld s t badA badB) (st c : U8) :
    VaonHeld s (enterRescue t st c) badA badB := by
  obtain ⟨hfuse, hframe, hprocs, hlast, hwindow, hholder, hvbak, htrip⟩ := h
  refine ⟨(enterRescue_outer st c).1.trans hfuse, ?_, ?_, ?_, ?_, ?_, ?_, ?_⟩
  · rw [Machine.enterRescue, raise_eq, hframe]
  · rw [enterRescue_recov]; exact hprocs
  · rw [enterRescue_recov]; exact hlast
  · exact (raise_aon_window ..).trans hwindow
  · exact (raise_aon_holder ..).trans hholder
  · exact (raise_aon_onVbak ..).trans hvbak
  · exact (raise_aon_thermTrip ..).trans htrip

/-- The always-on block keeps what a rescue state does not concern. -/
theorem enterRescue_aonKept (s : State) (st c : U8) : (enterRescue s st c).aon = { s.aon with
    rescue := st, cause := c, queue := (enterRescue s st c).aon.queue, queuedAt := (enterRescue s st c).aon.queuedAt
    queuedNew := (enterRescue s st c).aon.queuedNew, lost := (enterRescue s st c).aon.lost } :=
  raise_kept ..

theorem exec_vaon (s : State) (badA badB : List Nat) (low : Bool) : ∃ t, exec (.vaonInTolerance badA badB low) s = .next t ∧
    (t = vaonKept s badA badB low ∨ t = enterRescue (vaonKept s badA badB low) 2 5) := by
  by_cases h : ∃ w ∈ badA, w ∈ badB
  · exact ⟨_, exec_vaon_bad low h, .inr rfl⟩
  · exact ⟨_, exec_vaon_good low (by simpa using h), .inl rfl⟩

/-- The device as the start sequence of a whole-device reset finds it. -/
def wholeFree (s : State) : State :=
  { s with aon := { s.aon with rescue := 0, cause := 0 }, recov := { s.recov with running := none } }

/-- The end of a whole-device reset that was running. -/
def wholeEnd (s : State) (o : BootObs) : State :=
  { startSequence (wholeFree s) o with recov := { (startSequence (wholeFree s) o).recov with last := s.recov.cur } }

/-- A start that leaves no rescue state has gone through. -/
theorem startSequence_running {o : BootObs} (h0 : (startSequence s o).aon.rescue = 0) : Started s (startSequence s o) o := by
  by_cases hbad : ∃ w ∈ o.badA, w ∈ o.badB
  · rw [startSequence_badFuse hbad, enterRescue_rescue] at h0
    exact absurd h0 (by decide)
  · have hgood : ∀ w ∈ o.badA, w ∉ o.badB := by simpa using hbad
    by_cases hrom : o.romW = true ∨ o.romE = true
    · refine (startSequence_started hgood hrom).resolve_right fun h => ?_
      rw [h.1] at h0
      exact absurd h0 (by decide)
    · obtain ⟨hw, he⟩ : o.romW = false ∧ o.romE = false := by simpa using hrom
      rw [startSequence_noRom hgood hw he, enterRescue_rescue] at h0
      exact absurd h0 (by decide)

/-- A pin asks for the whole-device reset: everything is held, and a trip that it does not end keeps the hearth clocks stopped. -/
def pinHeld (s : State) (pin : ResetPin) (cool : Bool) : State :=
  let t := wholeHeld s (if pin = .hardRst then 4 else 3)
  let t := if s.aon.thermTrip && !(decide (pin = .hardRst) && cool) then haltClocks t else t
  { t with aon := { t.aon with thermTrip := t.aon.thermTrip && !(decide (pin = .hardRst) && cool) } }

/-- The pin ends a hold: one that is none, or HARD_RST_N one that is not for a rail sequencing fault. -/
def pinFrees (s : State) (pin : ResetPin) : Bool := decide (s.aon.rescue ≠ 2) || (decide (pin = .hardRst) && !heldByRails s)

theorem exec_hardRstN_frees {pin : ResetPin} (cool : Bool) (h : pinFrees s pin = true) : exec (.hardRstN pin cool) s =
    .next { pinHeld s pin cool with aon := { (pinHeld s pin cool).aon with rescue := 0, cause := 0 } } := by
  unfold pinFrees at h
  unfold exec execHardRstN pinHeld
  simp only [h, if_true, decide_eq_true_eq]

theorem exec_hardRstN_holds {pin : ResetPin} (cool : Bool) (h : pinFrees s pin = false) : exec (.hardRstN pin cool) s =
    .next { pinHeld s pin cool with recov := { (pinHeld s pin cool).recov with running := none, dev := 5 } } := by
  unfold pinFrees at h
  unfold exec execHardRstN pinHeld
  simp only [h, Bool.false_eq_true, if_false, decide_eq_true_eq]

theorem haltClocks_aon (s : State) : (haltClocks s).aon = s.aon := by rw [haltClocks_eq]

theorem haltClocks_recov (s : State) : (haltClocks s).recov = s.recov := by rw [haltClocks_eq]

/-- The trip outlasts the reset that the pin asks for. -/
def tripStays (s : State) (pin : ResetPin) (cool : Bool) : Bool := s.aon.thermTrip && !(decide (pin = .hardRst) && cool)

/-- The trip pin set or cleared. -/
def withTrip (s : State) (trip : Bool) : State := { s with aon := { s.aon with thermTrip := trip } }

theorem withTrip_hearth (s : State) (trip : Bool) (i : Nat) : (withTrip s trip).hearth i = s.hearth i := rfl

/-- A held device with its trip set or cleared. -/
def tripHeld (w : State) (trip : Bool) : State := withTrip (if trip then haltClocks w else w) trip

theorem tripHeld_hearth (w : State) (i : Nat) : (tripHeld w true).hearth i = (haltClocks w).hearth i := by
  rw [tripHeld, withTrip_hearth, if_pos rfl]

theorem haltClocks_ite (w : State) (trip : Bool) : (if trip then haltClocks w else w).aon = w.aon ∧
    (if trip then haltClocks w else w).recov = w.recov := by
  split
  · exact ⟨haltClocks_aon w, haltClocks_recov w⟩
  · exact ⟨rfl, rfl⟩

theorem pinHeld_eq (s : State) (pin : ResetPin) (cool : Bool) :
    pinHeld s pin cool = tripHeld (wholeHeld s (if pin = .hardRst then 4 else 3)) (tripStays s pin cool) := by
  have hw : (wholeHeld s (if pin = .hardRst then 4 else 3)).aon.thermTrip = s.aon.thermTrip := rfl
  unfold pinHeld tripHeld tripStays withTrip
  dsimp only
  generalize wholeHeld s (if pin = .hardRst then 4 else 3) = w at hw ⊢
  have hv := (haltClocks_ite w (s.aon.thermTrip && !(decide (pin = .hardRst) && cool))).1
  generalize (if (s.aon.thermTrip && !(decide (pin = .hardRst) && cool)) = true then haltClocks w else w) = v at hv ⊢
  rw [hv, hw]

/-- What the pin leaves of the rescue state, and the reset it starts. -/
theorem pinHeld_kept (s : State) (pin : ResetPin) (cool : Bool) : (pinHeld s pin cool).aon.rescue = s.aon.rescue ∧
    (pinHeld s pin cool).aon.cause = s.aon.cause ∧ (pinHeld s pin cool).recov.running = some .whole ∧
    (pinHeld s pin cool).recov.cur = { level := 5, cause := if pin = .hardRst then 4 else 3, start := 0 } ∧
    (pinHeld s pin cool).aon.thermTrip = tripStays s pin cool := by
  obtain ⟨ha, hr⟩ := haltClocks_ite (wholeHeld s (if pin = .hardRst then 4 else 3)) (tripStays s pin cool)
  rw [pinHeld_eq, tripHeld]
  generalize (if tripStays s pin cool = true then haltClocks (wholeHeld s (if pin = .hardRst then 4 else 3))
    else wholeHeld s (if pin = .hardRst then 4 else 3)) = v at ha hr ⊢
  exact ⟨(congrArg AlwaysOn.rescue ha :), (congrArg AlwaysOn.cause ha :), (congrArg Recovery.running hr :),
    (congrArg Recovery.cur hr :), rfl⟩

/-- Settles O11: by what is held, with the latch, the fuse words and the two pins as cases. -/
theorem vaonAndWholeDeviceResetHoldTheRest : Obligations.VaonAndWholeDeviceResetHoldTheRest := by
  unfold Obligations.VaonAndWholeDeviceResetHoldTheRest
  refine ⟨⟨?_, ?_, ?_, ?_, ?_⟩, ?_, ?_, ?_, ?_, ?_, ?_, ?_, ?_⟩
  · intro s badA badB low
    obtain ⟨t, hexec, ht⟩ := exec_vaon s badA badB low
    have hh : VaonHeld s t badA badB := by
      obtain rfl | rfl := ht
      · exact vaonHeld_kept ..
      · exact (vaonHeld_kept ..).enterRescue 2 5
    refine ⟨t, hexec, hh.fuse, hh.frame, ?_, hh.last, hh.window, hh.holder, hh.onVbak, hh.thermTrip⟩
    rw [hh.procs]
    intro e he
    obtain ⟨x, -, rfl⟩ := List.mem_map.1 he
    rfl
  · intro s badA badB low hl
    have hf : vaonKept s badA badB low = fallBack (vaonHeld s badA badB) := if_pos (by simpa using hl)
    obtain ⟨t, hexec, ht⟩ := exec_vaon s badA badB low
    rw [hf] at ht
    refine ⟨t, hexec, ?_⟩
    obtain rfl | rfl := ht
    · exact ⟨rfl, rfl, rfl, rfl, rfl⟩
    · rw [enterRescue_aonKept]
      exact ⟨rfl, rfl, rfl, rfl, rfl⟩
  · intro s badA badB hl
    have hf : vaonKept s badA badB false = vaonHeld s badA badB := if_neg (by simp [hl])
    obtain ⟨t, hexec, ht⟩ := exec_vaon s badA badB false
    rw [hf] at ht
    refine ⟨t, hexec, ?_⟩
    obtain rfl | rfl := ht
    · exact ⟨rfl, rfl, rfl, rfl⟩
    · rw [enterRescue_aonKept]
      exact ⟨rfl, rfl, rfl, rfl⟩
  · intro s badA badB low w hA hB
    refine ⟨_, exec_vaon_bad low ⟨w, hA, hB⟩, enterRescue_rescue .., enterRescue_cause .., ?_, ?_⟩
    · rw [enterRescue_recov]
    · rw [enterRescue_recov]
  · intro s badA badB low h
    refine ⟨_, exec_vaon_good low h, ?_⟩
    unfold vaonKept
    split
    · exact ⟨rfl, rfl, rfl, rfl⟩
    · exact ⟨rfl, rfl, rfl, rfl⟩
  · intro s cool hr ht
    have hcold : tripStays s .hardRst cool = false := by
      obtain h | h := ht
      · simp [tripStays, h]
      · simp [tripStays, h]
    have hexec := exec_hardRstN_frees (s := s) (pin := .hardRst) cool (by simp [pinFrees, hr])
    rw [pinHeld_eq, hcold, if_pos rfl, tripHeld, if_neg Bool.false_ne_true] at hexec
    exact ⟨_, hexec, rfl, rfl, rfl, rfl, rfl, rfl, rfl, rfl, rfl, rfl⟩
  · intro s pin cool ht hp
    have htrip : tripStays s pin cool = true := by
      obtain h | h := hp
      · simp [tripStays, ht, h]
      · simp [tripStays, ht, h]
    have hf : (pinHeld s pin cool).aon.thermTrip = true ∧ ∀ i < 16, ((pinHeld s pin cool).hearth i).frozen = true := by
      obtain ⟨-, -, -, -, ktrip⟩ := pinHeld_kept s pin cool
      refine ⟨ktrip.trans htrip, ?_⟩
      rw [pinHeld_eq, htrip]
      exact (fun i hi => by rw [tripHeld_hearth]; exact haltClocks_frozen hi _)
    cases hfree : pinFrees s pin with
    | false => exact ⟨_, exec_hardRstN_holds cool hfree, hf⟩
    | true => exact ⟨_, exec_hardRstN_frees cool hfree, hf⟩
  · intro s pin cool hr
    obtain ⟨hres, hcause⟩ : s.aon.rescue = 2 ∧ s.aon.cause = 3 := by simpa [heldByRails] using hr
    obtain ⟨kres, kcause, -⟩ := pinHeld_kept s pin cool
    exact ⟨_, exec_hardRstN_holds cool (by simp [pinFrees, hres, hr]), kres.trans hres, kcause.trans hcause, rfl, rfl⟩
  · intro s pin cool hp hr
    obtain ⟨kres, -, -, -, ktrip⟩ := pinHeld_kept s pin cool
    exact ⟨_, exec_hardRstN_holds cool (by simp [pinFrees, hp, hr]), kres.trans hr, rfl, rfl, ktrip.trans (by simp [tripStays, hp])⟩
  · intro s pin cool hp hr
    obtain ⟨-, -, krun, kcur, -⟩ := pinHeld_kept s pin cool
    have hfree : pinFrees s pin = true := by rw [pinFrees, decide_eq_true hr, Bool.true_or]
    refine ⟨_, exec_hardRstN_frees cool hfree, rfl, krun, ?_⟩
    exact (congrArg ResetRecord.cause kcur).trans (if_neg hp)
  · intro s o hr hq
    have hasked : (s.recov.requests.any fun r => decide (r.1 = .whole)) = false := by simpa using hq
    exact congrArg Host.Outcome.next (if_pos ⟨hr, hasked⟩)
  · intro s o hr hres
    have hno : ¬ (¬ s.recov.running = some .whole ∧ (s.recov.requests.any fun r => decide (r.1 = .whole)) = false) := fun h => h.1 hr
    exact ⟨_, congrArg Host.Outcome.next ((if_neg hno).trans (if_pos hres)), hres, rfl, rfl, rfl, rfl, rfl, rfl⟩
  · intro s o hr hres
    have hno : ¬ (¬ s.recov.running = some .whole ∧ (s.recov.requests.any fun r => decide (r.1 = .whole)) = false) := fun h => h.1 hr
    have hexec : exec (.wholeDeviceReset o) s = .next (wholeEnd s o) := by
      refine congrArg Host.Outcome.next ((if_neg hno).trans ((if_neg hres).trans ?_))
      dsimp only
      rw [if_pos hr]
      rfl
    obtain ⟨hfuse, hpending, hhost⟩ := startSequence_outer (s := wholeFree s) o
    refine ⟨_, hexec, rfl, hfuse, hhost, hpending, fun hbad => ?_, fun hgood hw he => ?_, fun h0 => ?_⟩
    · have h := startSequence_badFuse (s := wholeFree s) hbad
      exact ⟨(congrArg (fun u : State => u.aon.rescue) h).trans (enterRescue_rescue ..),
        (congrArg (fun u : State => u.aon.cause) h).trans (enterRescue_cause ..)⟩
    · have h := startSequence_noRom (s := wholeFree s) hgood hw he
      exact ⟨(congrArg (fun u : State => u.aon.rescue) h).trans (enterRescue_rescue ..),
        (congrArg (fun u : State => u.aon.cause) h).trans (enterRescue_cause ..)⟩
    · obtain hst := startSequence_running h0
      exact ⟨hst.running, hst.dev, hst.fwState⟩

end Sys2Proof.Machine

/-! ### Cold starts, warm resets and firmware (R31, R45, R401, R402, R435 to R442, R447, R453, R454) -/

namespace Sys2Proof.Machine

variable {s t u : State}

/-! #### The end of a warm reset (R453) -/

/-- From `s` to `t` the record of resets and firmware is as it was, but for the processors. -/
def RecovKept (s t : State) : Prop := t.recov = { s.recov with procs := t.recov.procs }

theorem RecovKept.trans (h : RecovKept s t) (k : RecovKept t u) : RecovKept s u := by
  unfold RecovKept at *
  rw [k, h]

theorem RecovKept.cur (h : RecovKept s t) : t.recov.cur = s.recov.cur := by
  unfold RecovKept at h
  rw [h]

theorem recovKept_of (h : t.recov = s.recov) : RecovKept s t := by
  unfold RecovKept
  rw [h]

theorem recovKept_foldl {α : Type} {f : State → α → State} (h : ∀ u x, RecovKept u (f u x)) (l : List α) (s : State) :
    RecovKept s (l.foldl f s) :=
  foldl_prop (p := RecovKept s) (fun u x hu => hu.trans (h u x)) l rfl

theorem recovKept_modProc (s : State) (m : Nat) (f : Processor → Processor) : RecovKept s (s.modProc m f) := rfl

theorem recovKept_startProcessors (s : State) (h : Bool) : RecovKept s (startProcessors s h) :=
  recovKept_foldl (fun _ _ => recovKept_modProc ..) _ _

theorem recovKept_restartAll (s : State) : RecovKept s (restartAll s) := by
  unfold restartAll
  refine ((recovKept_startProcessors s _).trans (recovKept_foldl (fun u n => ?_) _ _)).trans (recovKept_foldl (fun u i => ?_) _ _)
  · exact recovKept_of (by simp)
  · exact recovKept_of (by simp)

/-- The device before a warm reset ends. -/
def warmBack (s : State) (test : SelfTest) : State :=
  rebuildLedger (resetScope (dropEngine (restoreJournal (restartAll s))) .warm test)

theorem recovKept_warmBack (s : State) (test : SelfTest) : RecovKept s (warmBack s test) := by
  refine (recovKept_restartAll s).trans (recovKept_of ?_)
  have hdrop : ∀ u : State, (dropEngine u).recov = u.recov := fun _ => rfl
  simp [warmBack, hdrop]

/-- The end of a warm reset: the reset is over, the device runs, and no rescue state holds it. -/
def warmEnd (t : State) : State :=
  { endReset t with
    recov := { (endReset t).recov with dev := 3 }
    aon := { (endReset t).aon with rescue := 0, cause := 0 } }

theorem finishWarm_eq (s : State) (test : SelfTest) : finishWarm s test = warmEnd (warmBack s test) := by
  unfold finishWarm warmEnd warmBack
  dsimp only

theorem warmEnd_ends (t : State) : (warmEnd t).recov.dev = 3 ∧ (warmEnd t).recov.running = none ∧ (warmEnd t).aon.rescue = 0 ∧
    (warmEnd t).aon.cause = 0 ∧ (warmEnd t).recov.last.level = t.recov.cur.level ∧ (warmEnd t).recov.last.cause = t.recov.cur.cause :=
  ⟨rfl, rfl, rfl, rfl, rfl, rfl⟩

/-! #### O12 -/

theorem exec_warmReset_waits (test : SelfTest) (w e : Bool)
    (h : s.recov.running ≠ some .warm ∨ atBoundary s .warm = false ∨ s.recov.fwState = 1) : exec (.warmReset test w e) s = .next s := by
  refine congrArg Host.Outcome.next (if_pos ?_)
  obtain h | h | h := h
  · exact .inl fun k => h k.1
  · exact .inl fun k => absurd k.2 (by rw [h]; decide)
  · exact .inr h

/-- A warm reset that has reached its boundary, outside firmware state 0x1. -/
def warmRuns (s : State) : Prop := s.recov.running = some .warm ∧ atBoundary s .warm = true ∧ s.recov.fwState ≠ 1

theorem warmRuns.goes (h : warmRuns s) : ¬ (¬ (s.recov.running = some .warm ∧ atBoundary s .warm = true) ∨ s.recov.fwState = 1) := by
  obtain ⟨hr, hb, hf⟩ := h
  rw [not_or, not_not]
  exact ⟨⟨hr, hb⟩, hf⟩

theorem exec_warmReset_noRom (test : SelfTest) (h : warmRuns s) : exec (.warmReset test false false) s = .next (enterRescue s 1 1) := by
  unfold exec execWarmReset
  simp only [if_neg h.goes, Bool.not_false, Bool.and_self, if_true]

/-- The device with the Stoker of a warm reset chosen. -/
def warmChosen (s : State) (w e : Bool) : State :=
  { s with recov := { s.recov with active := if w then 8 else 9, romFail := !(w && e) } }

theorem exec_warmReset_runs (test : SelfTest) {w e : Bool} (hgo : warmRuns s) (h : w = true ∨ e = true) : exec (.warmReset test w e) s =
    .next (if imageReason s = 0 then finishWarm (warmChosen s w e) test else rejectImage (warmChosen s w e) (imageReason s)) := by
  have hrom : ¬ ((!w && !e) = true) := by obtain h | h := h <;> simp [h]
  have hreason : imageReason (warmChosen s w e) = imageReason s := rfl
  unfold exec execWarmReset
  simp only [if_neg hgo.goes, if_neg hrom, ite_not]
  rw [← hreason]
  rfl

theorem rejectImage_recov (s : State) (r : Nat) : (rejectImage s r).recov = { s.recov with
    fwState := 1, fwReason := BitVec.ofNat 8 r, fwRej := satInc s.recov.fwRej 1, sram := [], rejects := s.recov.rejects + 1 } := by
  rw [rejectImage, raiseS_recov]

/-- The device as the start sequence of a cold start finds it. -/
def coldFree (s : State) : State :=
  { s with aon := { s.aon with rescue := 0, cause := 0 }, recov := { s.recov with dev := 0, running := none } }

/-- The device as a cold start leaves it. -/
def coldEnd (s : State) (o : BootObs) : State :=
  { startSequence (coldFree s) o with recov := { (startSequence (coldFree s) o).recov with last := { level := 5, cause := 7 } } }

theorem exec_coldStart {o : BootObs} (h : (s.recov.dev = 0 ∧ s.aon.rescue = 0) ∨ (s.aon.rescue = 2 ∧ o.repeated = true)) :
    exec (.coldStart o) s = .next (coldEnd s o) :=
  congrArg Host.Outcome.next (if_pos h)

/-- Settles O12: the cases are the fuse words, the two ROM self-tests and the image. -/
theorem startsRunTheRomStage : Obligations.StartsRunTheRomStage := by
  unfold Obligations.StartsRunTheRomStage
  refine ⟨⟨?_, ?_, ?_, ?_⟩, ?_, ?_, ?_⟩
  · intro s o h h2
    refine congrArg Host.Outcome.next (if_neg ?_)
    rintro (⟨hd, hr⟩ | ⟨hr, hp⟩)
    · exact h.elim (· hd) (· hr)
    · exact h2.elim (· hr) fun k => absurd hp (by rw [k]; decide)
  · intro s o w h hA hB
    have hbad := startSequence_badFuse (s := coldFree s) ⟨w, hA, hB⟩
    refine ⟨_, exec_coldStart h, ?_, ?_, ?_, ?_⟩
    · exact (congrArg (fun u : State => u.aon.rescue) hbad).trans (enterRescue_rescue ..)
    · exact (congrArg (fun u : State => u.aon.cause) hbad).trans (enterRescue_cause ..)
    · exact (congrArg (fun u : State => u.recov.dev) hbad).trans (by rw [enterRescue_recov])
    · exact (congrArg (fun u : State => u.recov.active) hbad).trans (by rw [enterRescue_recov])
  · intro s o hd hr hgood hw he
    have hno := startSequence_noRom (s := coldFree s) hgood hw he
    have hexec := exec_coldStart (o := o) (.inl ⟨hd, hr⟩)
    unfold coldEnd at hexec
    rw [hno] at hexec
    refine ⟨_, hexec, enterRescue_rescue .., enterRescue_cause .., ?_, rfl, ?_, ?_⟩
    · exact congrArg Recovery.active (enterRescue_recov ..)
    · exact enterRescue_raises (s := s) (t := withRead (coldFree s) o) (c := 1) rfl rfl rfl 1 (by decide)
    · rw [enterRescue, raise_eq]
      rfl
  · intro s o h hgood hrom
    obtain ⟨hfuse, hpending, hhost⟩ := startSequence_outer (s := coldFree s) o
    refine ⟨_, exec_coldStart h, rfl, hfuse, hhost, hpending, fun h0 => ?_, fun h0 => ?_⟩
    · have hst := startSequence_running h0
      exact ⟨hst.dev, hst.fwState, hst.active, hst.inc, hst.cycle, hst.empty⟩
    · refine (startSequence_started hgood hrom).resolve_left fun hst => h0 ?_
      exact hst.rescue
  · intro s test w e h
    exact exec_warmReset_waits test w e h
  · intro s test hr hb hf
    refine ⟨_, exec_warmReset_noRom test ⟨hr, hb, hf⟩, enterRescue_rescue .., enterRescue_cause .., ?_,
      enterRescue_raises (c := 1) rfl rfl rfl 1 (by decide), ?_⟩
    · rw [enterRescue_recov]
    · rw [enterRescue, raise_eq]
  · intro s test w e hr hb hf h
    refine ⟨_, exec_warmReset_runs test ⟨hr, hb, hf⟩ h, ?_⟩
    by_cases hi : imageReason s = 0
    · obtain ⟨hfuse, hpending⟩ := finishWarm_outer (s := warmChosen s w e) test
      have hcur : (warmBack (warmChosen s w e) test).recov.cur = s.recov.cur := (recovKept_warmBack (warmChosen s w e) test).cur
      obtain ⟨hdev, hrun, hres, hcause, hlevel, hlast⟩ := warmEnd_ends (warmBack (warmChosen s w e) test)
      rw [if_pos hi, if_pos hi]
      refine ⟨hfuse, hpending, ?_⟩
      rw [finishWarm_eq]
      exact ⟨hdev, hrun, hres, hcause, by rw [hlevel, hcur], by rw [hlast, hcur]⟩
    · rw [if_neg hi, if_neg hi]
      obtain ⟨hfuse, hpending, -⟩ := rejectImage_outer (s := warmChosen s w e) (imageReason s)
      rw [rejectImage_recov]
      exact ⟨hfuse, hpending, rfl, rfl, rfl⟩

/-! #### O13 -/

theorem exec_fwWinWrite_takes {off : Nat} {bytes : List Byte} (hf : s.recov.fwState = 1) (h : off + bytes.length ≤ 4194304) :
    exec (.fwWinWrite off bytes) s = .next { s with recov := { s.recov with
      sram := bytes.zipIdx.foldl (fun m e => mset 0 m (off + e.2) e.1) s.recov.sram } } :=
  congrArg Host.Outcome.next (if_pos ⟨hf, h⟩)

theorem exec_fwCtlGo_rejects (test : SelfTest) (plan : DraughtPlan) (l : List (Fin 256 × U32)) (hf : s.recov.fwState = 1)
    (h : imageReason s ≠ 0) : exec (.fwCtlGo test plan l) s = .next (rejectImage s (imageReason s)) :=
  congrArg Host.Outcome.next ((if_neg (not_not.2 hf)).trans (if_pos h))

theorem exec_fwCtlGo_starts (test : SelfTest) (plan : DraughtPlan) (l : List (Fin 256 × U32)) (hf : s.recov.fwState = 1)
    (hr : s.recov.running = none) (h : imageReason s = 0) : exec (.fwCtlGo test plan l) s = .next (finishStart s test plan l) := by
  have hrun : ¬ s.recov.running = some .warm := by rw [hr]; exact nofun
  exact congrArg Host.Outcome.next ((if_neg (not_not.2 hf)).trans ((if_neg (not_not.2 h)).trans (if_neg hrun)))

theorem rejectImage_eq (s : State) (r : Nat) : rejectImage s r = { s with aon := (rejectImage s r).aon, recov := (rejectImage s r).recov } := by
  unfold rejectImage
  rw [raiseS_eq]

/-- The device with its processors started and its bindings locked. -/
def startLocked (s : State) (l : List (Fin 256 × U32)) : State := lockBindings (startProcessors (imageRuns s) s.recov.romFail) l

theorem startLocked_recov (s : State) (l : List (Fin 256 × U32)) : RecovKept (imageRuns s) (startLocked s l) :=
  (recovKept_startProcessors (imageRuns s) s.recov.romFail).trans (recovKept_of (by simp [startLocked]))

theorem startLocked_locked (s : State) (l : List (Fin 256 × U32)) : (startLocked s l).ctl.dict.locked = true := rfl

/-- What a cold start leaves of the firmware's record and of the lock on the bindings. -/
theorem finishStart_runs (s : State) (test : SelfTest) (plan : DraughtPlan) (l : List (Fin 256 × U32)) :
    (finishStart s test plan l).recov = { (startLocked s l).recov with dev := 3 } ∧
      (finishStart s test plan l).ctl = (startLocked s l).ctl := by
  have hcompile : ∀ u : State, (if planOk u plan then compileDraught u plan else u).recov = u.recov ∧
      (if planOk u plan then compileDraught u plan else u).ctl = u.ctl := fun u => by
    split
    · simp
    · exact ⟨rfl, rfl⟩
  obtain ⟨hr, hc⟩ := hcompile (startLocked s l)
  unfold finishStart
  unfold startLocked at *
  constructor
  · dsimp only
    simp only [bringUpCores_rest, hr]
  · dsimp only
    simp only [bringUpCores_rest, hc]

theorem fence_rescue (s : State) (b r : Nat) (c : Bool) : (fence s b r c).aon.rescue = s.aon.rescue := by
  unfold fence
  dsimp only
  rw [raiseS_aon_rescue]
  (repeat' split) <;> simp

theorem absorbBake_rescue (s : State) (b : Nat) : (absorbBake s b).aon.rescue = s.aon.rescue := by
  unfold absorbBake
  dsimp only
  repeat' split
  · rfl
  · exact fence_rescue ..
  · rfl

/-- A reset that absorbs its bakes leaves the rescue state alone. -/
theorem beginReset_rescue (s : State) (a : ResetScope) (c : U8) : (beginReset s a .absorb c).aon.rescue = s.aon.rescue := by
  unfold beginReset
  exact foldl_keeps (fun u : State => u.aon.rescue) (fun u b => absorbBake_rescue u b) _ _

/-- Settles O13: by the firmware state, the image's first failing check and the rescue state. -/
theorem firmwareIsLoadedAndChecked : Obligations.FirmwareIsLoadedAndChecked := by
  unfold Obligations.FirmwareIsLoadedAndChecked
  refine ⟨⟨?_, ?_⟩, ⟨?_, ?_, ?_⟩, ?_, ?_⟩
  · intro s off bytes hf hlen
    refine ⟨_, exec_fwWinWrite_takes hf hlen, rfl, fun i h => ?_, fun a h => ?_, rfl⟩
    · exact mget_store_inside (n := 0) (List.getElem?_eq_getElem h)
    · exact mget_store_outside (n := 0) h
  · intro s off bytes h
    refine congrArg Host.Outcome.next (if_neg ?_)
    rintro ⟨hf, hlen⟩
    exact h.elim (· hf) (Nat.not_lt.2 hlen)
  · intro s test plan l hf
    exact congrArg Host.Outcome.next (if_pos hf)
  · intro s test plan l hf hi
    exact ⟨_, exec_fwCtlGo_rejects test plan l hf hi, rejectImage_recov .., raise_event_of (t := { s with recov := { s.recov with
      fwState := 1, fwReason := BitVec.ofNat 8 (imageReason s), fwRej := satInc s.recov.fwRej 1, sram := []
      rejects := s.recov.rejects + 1 } }) rfl rfl rfl rfl 0x7011 1 0 (imageReason s) _, rejectImage_eq ..⟩
  · intro s test plan l hf hr
    by_cases hi : imageReason s = 0
    · obtain ⟨hfuse, hpending, hhost, hhbm⟩ := finishStart_outer (s := s) test plan l
      obtain ⟨hrec, hctl⟩ := finishStart_runs s test plan l
      have hrun := startLocked_recov s l
      refine ⟨_, exec_fwCtlGo_starts test plan l hf hr hi, hfuse, hhost, hhbm, hpending, ?_⟩
      rw [if_pos hi, hrec, hctl]
      unfold RecovKept at hrun
      rw [hrun]
      exact ⟨rfl, rfl, rfl, startLocked_locked s l⟩
    · obtain ⟨hfuse, hpending, hhost, hhbm⟩ := rejectImage_outer (s := s) (imageReason s)
      refine ⟨_, exec_fwCtlGo_rejects test plan l hf hi, hfuse, hhost, hhbm, hpending, ?_⟩
      rw [if_neg hi, rejectImage_recov]
      exact ⟨rfl, rfl, rfl, by simp⟩
  · intro s hres hr
    have hexec : exec .firmwareReload s = .next { beginReset s .warm .absorb 5 with
        recov := { (beginReset s .warm .absorb 5).recov with sram := [], fwState := 1, fwRej := 0, fwReason := 0, fwSvn := 0 } } := by
      have hgo : ¬ s.aon.rescue ≠ 1 := not_not.2 hres
      unfold exec execFirmwareReload startReload
      simp only [if_neg hgo, hr]
    obtain ⟨hfuse, hpending, hhbm⟩ := beginReset_outer (s := s) .warm .absorb 5
    exact ⟨_, hexec, rfl, rfl, rfl, rfl, rfl, rfl, rfl, rfl, rfl, hfuse, hhbm, hpending, (beginReset_rescue s .warm 5).trans hres⟩
  · intro s h
    exact congrArg Host.Outcome.next (if_pos h)

end Sys2Proof.Machine

/-! ### Processors, the Stokers and the oscillator mesh (R397, R398, R448 to R455) -/

namespace Sys2Proof.Machine

variable {s t u : State}

/-! #### O15 -/

/-- A processor that its Ember timer found, with a restart to come. -/
def expiredProc (s : State) (crash : List Byte) (recent : Nat) (p : Processor) : Processor :=
  { p with
    state := 1, expiries := p.expiries + 1, crash := padTo 0 256 crash, restarts := p.restarts + 1, recent := BitVec.ofNat 32 (recent + 1)
    last := micros s }

/-- A processor that its Ember timer found at the restart limit. -/
def failedProc (crash : List Byte) (recent : Nat) (p : Processor) : Processor :=
  { p with state := 2, expiries := p.expiries + 1, crash := padTo 0 256 crash, recent := BitVec.ofNat 32 recent }

/-- A timer can expire on a processor that runs or stands by and has power. -/
def timerRuns (s : State) (m : Nat) : Prop := ((s.proc m).state = 0 ∨ (s.proc m).state = 3) ∧ processorPowered s m = true

theorem timerRuns.goes {m : Nat} (h : timerRuns s m) :
    ¬ (((s.proc m).state ≠ 0 ∧ (s.proc m).state ≠ 3) ∨ processorPowered s m = false) := by
  obtain ⟨hst, hp⟩ := h
  rintro (⟨h0, h3⟩ | h)
  · exact hst.elim h0 h3
  · rw [hp] at h
    exact Bool.noConfusion h

theorem exec_emberTimerExpiry_restarts {m recent : Nat} (crash : List Byte) (hm : 1 ≤ m ∧ m ≤ 30) (h : timerRuns s m)
    (hr : recent < setting s 0x7002 1) : exec (.emberTimerExpiry m crash recent) s =
      .next (raiseProc (s.modProc m (expiredProc s crash recent)) m 0) := by
  unfold exec execEmberTimerExpiry
  simp only [if_pos hm, if_neg h.goes, decide_eq_false (Nat.not_le.2 hr), Bool.false_eq_true, if_false]
  rfl

theorem exec_emberTimerExpiry_fails {m recent : Nat} (crash : List Byte) (hm : 1 ≤ m ∧ m ≤ 30) (h : timerRuns s m)
    (hr : setting s 0x7002 1 ≤ recent) : exec (.emberTimerExpiry m crash recent) s =
      .next (failedEffect (raiseProc (s.modProc m (failedProc crash recent)) m 3) m) := by
  unfold exec execEmberTimerExpiry
  simp only [if_pos hm, if_neg h.goes, decide_eq_true hr, if_true]
  rfl

theorem processorPowered_low {m : Nat} (h : m ≤ 8) : processorPowered s m = true := if_neg (by omega)

/-- The event of a processor, raised after its own record has changed. -/
theorem raiseProc_raises (ha : t.aon = s.aon) (hc : t.flue.cycle = s.flue.cycle) (m v : Nat) :
    EventRaised s (raiseProc t m v) 0x7000 m v 0xFF 0 ∧ AonKept s (raiseProc t m v) := by
  constructor
  · refine raise_event_of (congrArg AlwaysOn.queue ha) (congrArg AlwaysOn.lost ha) ?_ ?_ 0x7000 m v 0 0xFF
    · unfold eventsNow
      rw [ha, hc]
    · unfold eventTime
      rw [ha]
  · have k : AonKept t (raiseProc t m v) := raise_kept ..
    unfold AonKept at *
    rwa [ha] at k

theorem raiseProc_eq (s : State) (m v : Nat) : raiseProc s m v = { s with aon := (raiseProc s m v).aon } := raise_eq ..

theorem exec_processorRestart {m : Nat} (hm : 1 ≤ m ∧ m ≤ 30) (hst : (s.proc m).state = 1)
    (hno : ¬ (m ≤ 2 ∧ s.recov.active = 0 ∧ s.aon.rescue = 1)) :
    exec (.processorRestart m) s = .next (forgetNumbers (s.modProc m fun p => { p with state := 0 }) (masterOf m)) := by
  have hgo : ¬ (s.proc m).state ≠ 1 := not_not.2 hst
  unfold exec execProcessorRestart
  simp only [if_pos hm, if_neg hgo, if_neg hno]

/-- A Stoker that runs again in rescue mode takes the device back from the last copy of the journal. -/
def stokerBack (s : State) (m : Nat) : State :=
  let t := forgetNumbers (s.modProc m fun p => { p with state := 0 }) (masterOf m)
  let t := restoreJournal { t with recov := { t.recov with active := BitVec.ofNat 8 (masterOf m), dev := 3 } }
  { t with aon := { t.aon with rescue := 0, cause := 0 } }

theorem exec_processorRestart_rescue {m : Nat} (hm : 1 ≤ m ∧ m ≤ 30) (hst : (s.proc m).state = 1)
    (h : m ≤ 2 ∧ s.recov.active = 0 ∧ s.aon.rescue = 1) : exec (.processorRestart m) s = .next (stokerBack s m) := by
  have hgo : ¬ (s.proc m).state ≠ 1 := not_not.2 hst
  unfold exec execProcessorRestart
  simp only [if_pos hm, if_neg hgo, if_pos h]
  rfl

/-- The device with the state of the active Stoker copied to the standby, processor `o`. -/
def journalled (s : State) (o : Nat) : State :=
  let t := s.modProc o fun p => { p with state := 3 }
  { t with
    recov := { t.recov with journalAt := s.flue.cycle }
    ctl := { s.ctl with journal :=
      { staging := s.ctl.dict.staging, portA := s.ctl.portA, portB := s.ctl.portB
        trips := (List.range 16).filter fun n => (s.hearth n).tripped
        rails := (s.rails.filter fun e => decide (e.2.state ≠ 0)).map fun e => (e.1, e.2.state)
        paging := (s.ring.dmas.filter fun d => d.parked.isSome).map (·.id), logTail := s.integ.nextSeq } } }

theorem exec_journalCopy {a o : Nat} (ha : stokerNo s.recov.active = a) (ho : otherStoker s = o)
    (h : ¬ (a = 0 ∨ (s.proc a).state ≠ 0 ∨ ((s.proc o).state ≠ 0 ∧ (s.proc o).state ≠ 3))) :
    exec .journalCopy s = .next (journalled s o) := by
  unfold exec execJournalCopy
  simp only [ha, ho, if_neg h]
  rfl

/-- Settles O15: an Ember timer by the count of restarts, a takeover by the states of the two Stokers. -/
theorem processorsAndStokersRecover : Obligations.ProcessorsAndStokersRecover := by
  unfold Obligations.ProcessorsAndStokersRecover
  refine ⟨⟨?_, ?_, ?_, ?_, ?_, ?_, ?_⟩, ?_, ?_, ?_, ?_, ?_⟩
  · intro s m crash recent h1 h30 hst hp hr
    obtain ⟨hev, hkept⟩ := raiseProc_raises (t := s.modProc m (expiredProc s crash recent)) rfl rfl m 0
    exact ⟨_, exec_emberTimerExpiry_restarts crash ⟨h1, h30⟩ ⟨hst, hp⟩ hr, raiseProc_eq .., hev, hkept⟩
  · intro s m crash recent h1 h8 hst hr
    obtain ⟨hev, hkept⟩ := raiseProc_raises (t := s.modProc m (failedProc crash recent)) rfl rfl m 3
    have hexec := exec_emberTimerExpiry_fails crash ⟨h1, by omega⟩ ⟨hst, processorPowered_low h8⟩ hr
    have hlow : ∀ u : State, failedEffect u m = u := fun u => if_neg (by omega)
    rw [hlow] at hexec
    exact ⟨_, hexec, raiseProc_eq .., hev, hkept⟩
  · intro s m crash recent h1 h30 h
    unfold exec execEmberTimerExpiry
    simp only [if_pos (And.intro h1 h30), if_pos h]
  · intro s m h3 h30 hst
    exact exec_processorRestart ⟨by omega, h30⟩ hst fun h => by omega
  · intro s m h1 h2 hst hact hres
    exact ⟨_, exec_processorRestart_rescue ⟨h1, by omega⟩ hst ⟨h2, hact, hres⟩, rfl, rfl, rfl, rfl, rfl⟩
  · intro s m h29 h30 hst
    have hexec : exec (.failedControllerEvent m) s = .next (raiseProc s m 3) :=
      (if_pos ⟨by omega, h30⟩).trans (congrArg Host.Outcome.next (if_pos ⟨h29, hst⟩))
    obtain ⟨hev, hkept⟩ := raiseProc_raises (s := s) (t := s) rfl rfl m 3
    exact ⟨_, hexec, hev, hkept, raiseProc_eq ..⟩
  · intro s m h1 h30 h
    refine (if_pos ⟨h1, h30⟩).trans (congrArg Host.Outcome.next (if_neg ?_))
    rintro ⟨h29, hst⟩
    exact h.elim (fun k => by omega) (· hst)
  · intro s hact h1 h2
    have ha : stokerNo s.recov.active = 1 := by rw [hact]; rfl
    have ho : otherStoker s = 2 := by rw [otherStoker, ha]
    have hgo : ¬ ((1 : Nat) = 0 ∨ (s.proc 1).state ≠ 0 ∨ ((s.proc 2).state ≠ 0 ∧ (s.proc 2).state ≠ 3)) := by
      rintro (h | h | ⟨h0, h3⟩)
      · exact absurd h (by decide)
      · exact h h1
      · exact h2.elim h0 h3
    exact ⟨_, exec_journalCopy ha ho hgo, rfl, rfl, rfl, rfl, rfl, rfl⟩
  · intro s hact h1 h2
    have ha : stokerNo s.recov.active = 1 := by rw [hact]; rfl
    have ho : otherStoker s = 2 := by rw [otherStoker, ha]
    have hgo : ¬ ((1 : Nat) = 0 ∨ (s.proc 1).state = 0 ∨ (s.proc 2).state ≠ 3) := by
      rintro (h | h | h)
      · exact absurd h (by decide)
      · exact h1 h
      · exact h h2
    have hexec : exec .stokerTakeover s = .next (restoreJournal { s.modProc 2 fun p => { p with state := 0 } with
        recov := { (s.modProc 2 fun p => { p with state := 0 }).recov with active := 9 } }) := by
      unfold exec execStokerTakeover
      simp only [ha, ho, if_neg hgo]
      rfl
    refine ⟨_, hexec, rfl, rfl, rfl, rfl, fun e he => ?_, rfl⟩
    obtain ⟨hm, hlt⟩ := List.mem_filter.1 he
    exact ⟨hm, of_decide_eq_true hlt⟩
  · intro s hact h1
    have ha : stokerNo s.recov.active = 1 := by rw [hact]; rfl
    have hstop : (1 : Nat) = 0 ∨ (s.proc 1).state = 0 ∨ (s.proc (otherStoker s)).state ≠ 3 := .inr (.inl h1)
    unfold exec execStokerTakeover
    simp only [ha, if_pos hstop]
  · intro s hres hfw hdown
    have hd : ∀ m, 1 ≤ m → m ≤ 2 →
        (decide ((s.proc m).state = 1) || decide ((s.proc m).state = 2) || decide ((s.proc m).state = 4)) = true := fun m h1 h2 => by
      simpa [or_assoc] using hdown m h1 h2
    have hexec : exec .rescueEntry s = .next (enterRescue s 1 1) :=
      congrArg Host.Outcome.next (if_pos ⟨hres, hfw, hd 1 (by decide) (by decide), hd 2 (by decide) (by decide)⟩)
    refine ⟨_, hexec, enterRescue_rescue .., enterRescue_cause .., enterRescue_recov ..,
      enterRescue_raises (c := 1) rfl rfl rfl 1 (by decide), ?_⟩
    rw [enterRescue, raise_eq]
  · intro s h1
    refine congrArg Host.Outcome.next (if_neg ?_)
    rintro ⟨-, -, hd, -⟩
    simp [h1] at hd

/-! #### O16 -/

theorem raiseMesh_raises {t : State} (ha : t.aon = s.aon) (hr : t.recov = s.recov) (hc : t.flue.cycle = s.flue.cycle) (i b v x : Nat) :
    EventRaised s (raiseMesh t i b v x) i b v (stokerId s) x ∧ AonKept s (raiseMesh t i b v x) ∧ (raiseMesh t i b v x).mesh = t.mesh :=
  ⟨raiseS_event_of s ha hr hc i b v x, raiseS_kept_of s ha i b v x, raiseS_mesh ..⟩

/-- From `s` to `t` nothing but the mesh has changed, besides events. -/
def MeshAlone (s t : State) : Prop := AonKept s t ∧ t = { s with mesh := t.mesh, aon := t.aon }

theorem AonKept.trans (h : AonKept s t) (k : AonKept t u) : AonKept s u := by
  unfold AonKept at *
  rw [k, h]

theorem MeshAlone.trans (h : MeshAlone s t) (k : MeshAlone t u) : MeshAlone s u := by
  obtain ⟨ha, hf⟩ := h
  obtain ⟨ka, kf⟩ := k
  exact ⟨ha.trans ka, by rw [kf, hf]⟩

theorem meshAlone_raiseMesh (s : State) (m : Mesh) (i b v x : Nat) : MeshAlone s (raiseMesh { s with mesh := m } i b v x) := by
  refine ⟨raiseS_kept_of (t := { s with mesh := m }) s rfl i b v x, ?_⟩
  unfold raiseMesh
  rw [raiseS_eq]

theorem failOscillator_new {p : Nat} (h : p ∉ s.mesh.failed) : failOscillator s p =
    raiseMesh { s with mesh := { s.mesh with failed := s.mesh.failed ++ [p] } } 0x2001 1 3 p :=
  if_neg (by simpa using h)

theorem failOscillator_known {p : Nat} (h : p ∈ s.mesh.failed) : failOscillator s p = s := if_pos (by simpa using h)

theorem meshAlone_failOscillator (s : State) (p : Nat) : MeshAlone s (failOscillator s p) := by
  by_cases h : p ∈ s.mesh.failed
  · rw [failOscillator_known h]
    exact ⟨rfl, rfl⟩
  · rw [failOscillator_new h]
    exact meshAlone_raiseMesh ..

/-- An oscillator that has failed is among the failed ones, and none leaves them. -/
theorem failOscillator_mesh (s : State) (p : Nat) : ∃ l, (failOscillator s p).mesh = { s.mesh with failed := s.mesh.failed ++ l } ∧
    p ∈ s.mesh.failed ++ l := by
  by_cases h : p ∈ s.mesh.failed
  · exact ⟨[], by rw [failOscillator_known h, List.append_nil], by simpa using h⟩
  · exact ⟨[p], by rw [failOscillator_new h]; exact raiseS_mesh .., by simp⟩

/-- The mesh with one more line known to be bad. -/
def withBadLine (s : State) (key line : Nat) : State := { s with mesh := { s.mesh with badLines := s.mesh.badLines ++ [(key, line)] } }

theorem exec_couplingLineFailure {p q : Nat} {l : Fin 2} (hpq : max p q < 256) (ha : acrossSeam p q = true)
    (hl : (256 * min p q + max p q, l.val) ∉ s.mesh.badLines) : exec (.couplingLineFailure p q l) s =
      .next (if (256 * min p q + max p q, 1 - l.val) ∈ s.mesh.badLines then
        failOscillator (failOscillator (withBadLine s (256 * min p q + max p q) l) p) q else withBadLine s (256 * min p q + max p q) l) := by
  have hgo : ¬ ((!acrossSeam p q || s.mesh.badLines.contains (256 * min p q + max p q, l.val)) = true) := by simp [ha, hl]
  have hother : ((256 * min p q + max p q, 1 - l.val) ∈ s.mesh.badLines ++ [(256 * min p q + max p q, l.val)]) ↔
      (256 * min p q + max p q, 1 - l.val) ∈ s.mesh.badLines := by
    have hne : ¬ (1 - l.val = l.val) := by omega
    simp [hne]
  unfold exec execCouplingLineFailure onUnit
  simp only [if_pos hpq, if_neg hgo, List.contains_iff_mem, hother]
  rfl

/-- Settles O16: each command by what is already counted as failed. -/
theorem meshSurvivesLossOfReferenceAndLines : Obligations.MeshSurvivesLossOfReferenceAndLines := by
  unfold Obligations.MeshSurvivesLossOfReferenceAndLines
  refine ⟨?_, ?_, ?_, ?_, ?_, ?_, ?_, ?_⟩
  · intro s h
    obtain ⟨hev, hkept, hmesh⟩ := raiseMesh_raises (s := s) (t := { s with mesh := { s.mesh with state := 1 } }) rfl rfl rfl 0x2000 1 1 0
    exact ⟨_, congrArg Host.Outcome.next (if_neg h), hmesh, hev, meshAlone_raiseMesh ..⟩
  · intro s h
    obtain ⟨hev, hkept, hmesh⟩ := raiseMesh_raises (s := s) (t := { s with mesh := { s.mesh with state := 0 } }) rfl rfl rfl 0x2000 1 0 0
    exact ⟨_, congrArg Host.Outcome.next (if_neg h), hmesh, hev, meshAlone_raiseMesh ..⟩
  · intro s h
    exact congrArg Host.Outcome.next (if_pos h)
  · intro s h
    exact congrArg Host.Outcome.next (if_pos h)
  · intro s p hp h
    obtain ⟨hev, hkept, hmesh⟩ :=
      raiseMesh_raises (s := s) (t := { s with mesh := { s.mesh with failed := s.mesh.failed ++ [p] } }) rfl rfl rfl 0x2001 1 3 p
    have hexec : exec (.oscillatorFailure p) s = .next (failOscillator s p) := if_pos hp
    rw [failOscillator_new h] at hexec
    exact ⟨_, hexec, hmesh, hev, meshAlone_raiseMesh ..⟩
  · intro s p hp h
    exact (if_pos hp).trans (congrArg Host.Outcome.next (failOscillator_known h))
  · intro s p q l hp hq ha hl
    refine ⟨_, exec_couplingLineFailure (max_lt hp hq) ha hl, ?_⟩
    have hbad : MeshAlone s (withBadLine s (256 * min p q + max p q) l) := ⟨rfl, rfl⟩
    split
    next hother =>
      obtain ⟨a, hma, hpa⟩ := failOscillator_mesh (withBadLine s (256 * min p q + max p q) l) p
      obtain ⟨b, hmb, hqb⟩ := failOscillator_mesh (failOscillator (withBadLine s (256 * min p q + max p q) l) p) q
      obtain ⟨hkept, hframe⟩ := (hbad.trans (meshAlone_failOscillator _ p)).trans (meshAlone_failOscillator _ q)
      refine ⟨?_, hkept, hframe, fun _ => ⟨?_, ?_⟩, fun hno => absurd hother hno⟩
      · rw [hmb, hma]
        rfl
      · rw [hmb, hma]
        exact List.mem_append_left _ hpa
      · rw [hmb]
        exact hqb
    next hother => exact ⟨rfl, hbad.1, hbad.2, fun h => absurd h hother, fun _ => ⟨rfl, rfl, rfl⟩⟩
  · intro s p q l hp hq h
    have hstop : (!acrossSeam p q || s.mesh.badLines.contains (256 * min p q + max p q, l.val)) = true := by
      obtain h | h := h
      · simp [h]
      · simp [h]
    exact (if_pos (max_lt hp hq)).trans (congrArg Host.Outcome.next (if_pos hstop))

end Sys2Proof.Machine

/-! ### Frequency steps, the damper and the rails (R408, R409, R411 to R415, R428, R431 to R433) -/

namespace Sys2Proof.Machine

variable {s t u : State}

/-! #### O18 -/

/-- A change of one hearth and of its rail's voltage touches hearths and rails alone. -/
theorem withHearth_modRail_frame (n r : Nat) (f : Hearth → Hearth) (g : Rail → Rail) : (withHearth s n f).modRail r g =
    { s with hearths := ((withHearth s n f).modRail r g).hearths, rails := ((withHearth s n f).modRail r g).rails } := by
  have h := withHearth_eq s n f
  generalize withHearth s n f = w at h ⊢
  rw [h]
  rfl

theorem withHearth_modRail_rail (n r : Nat) (f : Hearth → Hearth) (g : Rail → Rail) :
    ((withHearth s n f).modRail r g).rail r = g (s.rail r) := by
  have hr : (withHearth s n f).rail r = s.rail r := by rw [State.rail, withHearth_rails, State.rail]
  rw [State.modRail_rail_same, hr]

theorem exec_stepUp_waits {n : Fin 16} {f : Nat} (h : mayChange s n = false ∨ (s.hearth n).state ≠ 0 ∨ usableFreq s n f = false ∨
    f ≤ (s.hearth n).freq ∨ targetOf s n < f) : exec (.stepUp n f) s = .next s := by
  refine congrArg Host.Outcome.next (if_neg ?_)
  simp only [Bool.and_eq_true, decide_eq_true_eq]
  rintro ⟨⟨⟨⟨hm, hst⟩, hu⟩, hlt⟩, hle⟩
  obtain h | h | h | h | h := h
  · rw [hm] at h
    exact Bool.noConfusion h
  · exact h hst
  · rw [hu] at h
    exact Bool.noConfusion h
  · omega
  · omega

theorem exec_stepDown_waits {n : Fin 16} {f : Nat} (h : mayChange s n = false ∨ usableFreq s n f = false ∨ (s.hearth n).freq ≤ f ∨
    f < targetOf s n) : exec (.stepDown n f) s = .next s := by
  refine congrArg Host.Outcome.next (if_neg ?_)
  simp only [Bool.and_eq_true, decide_eq_true_eq]
  rintro ⟨⟨⟨hm, hu⟩, hlt⟩, hle⟩
  obtain h | h | h | h := h
  · rw [hm] at h
    exact Bool.noConfusion h
  · rw [hu] at h
    exact Bool.noConfusion h
  · omega
  · omega

/-- A hearth that is told to stop. -/
def stopsTo (f c : Nat) (h : Hearth) : Hearth := { h with stopTo := some (f, c), state := stopState h true, stops := h.stops + 1 }

theorem beginStop_hearth (s : State) (n f : Nat) : (beginStop s n f).hearth n =
    { (withHearth s n (stopsTo f s.flue.cycle)).hearth n with stopBit := true } :=
  setStop_hearth_same ..

theorem beginStop_frame (s : State) (n f : Nat) : beginStop s n f = { s with hearths := (beginStop s n f).hearths, flue := (beginStop s n f).flue } := by
  unfold beginStop
  rw [setStop_frame, withHearth_eq]

theorem exec_hearthFreeze_waits {n : Fin 16} {f c : Nat} (h : (s.hearth n).stopTo = some (f, c))
    (hc : ¬ ((s.hearth n).restartAt.isNone ∧ c + 32 + s.flue.maxRoute + 8 ≤ s.flue.cycle)) : exec (.hearthFreeze n) s = .next s := by
  unfold exec execHearthFreeze
  simp only [h, if_neg hc]

/-- A hearth whose generator has locked at `f`, at voltage `v`. -/
def locksAt (f v c : Nat) (h : Hearth) : Hearth :=
  { h with freq := f, setMv := v, unsettled := false, restartAt := some (c + 48), changedAt := some c }

/-- The voltage with which a hearth goes on at `f`. -/
def lockMv (s : State) (n f : Nat) : Nat :=
  if f < (s.hearth n).freq ∧ (s.hearth n).state ≠ 4 ∧ (s.hearth n).state ≠ 5 then voltOf s n f else (s.hearth n).setMv

theorem exec_generatorLock_locks {n : Fin 16} {f c : Nat} (h : (s.hearth n).stopTo = some (f, c)) (hf : (s.hearth n).frozen = true)
    (hr : (s.hearth n).restartAt = none) : exec (.generatorLock n) s =
      .next ((withHearth s n (locksAt f (lockMv s n f) s.flue.cycle)).modRail (n.val + 1) fun r => { r with setMv := lockMv s n f }) := by
  have hgo : (s.hearth n).frozen = true ∧ (s.hearth n).restartAt.isNone = true := ⟨hf, by rw [hr]; rfl⟩
  unfold exec execGeneratorLock
  simp only [h, if_pos hgo]
  rfl

theorem exec_generatorLock_waits {n : Fin 16} (h : (s.hearth n).frozen = false) : exec (.generatorLock n) s = .next s := by
  have hno : ¬ ((s.hearth n).frozen = true ∧ (s.hearth n).restartAt.isNone = true) := fun k => by
    rw [h] at k
    exact Bool.noConfusion k.1
  unfold exec execGeneratorLock
  simp only [if_neg hno]
  split <;> rfl

/-- Settles O18: the stages of a step in their order, each by the test that lets it go on. -/
theorem frequencyChangesInOrder : Obligations.FrequencyChangesInOrder := by
  unfold Obligations.FrequencyChangesInOrder
  refine ⟨⟨?_, ?_, ?_, ?_, ?_, ?_⟩, ?_, ?_, ?_, ?_, ?_⟩
  · intro s n f hm hst hu hlt hle
    have hgo : (mayChange s n && decide ((s.hearth n).state = 0) && usableFreq s n f && decide ((s.hearth n).freq < f) &&
        decide (f ≤ targetOf s n)) = true := by simp [hm, hst, hu, hlt, hle]
    refine ⟨_, congrArg Host.Outcome.next (if_pos hgo), ?_, ?_, ?_, withHearth_modRail_rail .., withHearth_modRail_frame ..⟩
    · rw [State.modRail_hearth, withHearth_hearth_stepTo]
    · rw [State.modRail_hearth, withHearth_hearth_setMv]
    · rw [State.modRail_hearth, withHearth_hearth_freq, regovern_hearth_freq]
  · intro s n f h
    exact exec_stepUp_waits h
  · intro s n f hm hu hlt hle
    have hgo : (mayChange s n && usableFreq s n f && decide (f < (s.hearth n).freq) && decide (targetOf s n ≤ f)) = true := by
      simp [hm, hu, hlt, hle]
    refine ⟨_, congrArg Host.Outcome.next (if_pos hgo), ?_, ?_, ?_, ?_, beginStop_frame ..⟩
    · rw [beginStop_hearth]
      dsimp only
      rw [withHearth_hearth_stopTo]
      rfl
    · rw [beginStop_hearth]
      dsimp only
      rw [withHearth_hearth_stops, stopsTo, regovern_hearth_stops]
    · rw [beginStop_hearth]
      dsimp only
      rw [withHearth_hearth_freq, stopsTo, regovern_hearth_freq]
    · rw [beginStop_hearth]
      dsimp only
      rw [withHearth_hearth_setMv, stopsTo, regovern_hearth_setMv]
  · intro s n f h
    exact exec_stepDown_waits h
  · intro s n f h
    have hgo : (s.hearth n).stepTo.isSome = true := by rw [h]; rfl
    refine ⟨_, congrArg Host.Outcome.next (if_pos hgo), ?_, ?_, ?_, ?_, ?_, ?_⟩
    · rw [raiseS_unit_hearth, withHearth_hearth_stepTo]
    · rw [raiseS_unit_hearth, withHearth_hearth_unsettled]
    · rw [raiseS_unit_hearth, withHearth_hearth_freq, regovern_hearth_freq]
    · exact raiseS_event_of s (withHearth_aon ..) (withHearth_recov ..) (by rw [withHearth_flue]) _ _ _ _
    · exact raiseS_kept_of s (withHearth_aon ..) _ _ _ _
    · rw [raiseS_eq, withHearth_eq]
  · intro s n h
    exact congrArg Host.Outcome.next (if_neg (by rw [h]; exact Bool.false_ne_true))
  · intro s n f c h hr hc
    have hgo : (s.hearth n).restartAt.isNone = true ∧ c + 32 + s.flue.maxRoute + 8 ≤ s.flue.cycle := ⟨by rw [hr]; rfl, hc⟩
    unfold exec execHearthFreeze
    simp only [h, if_pos hgo]
  · intro s n f c h hc
    exact exec_hearthFreeze_waits h fun k => by omega
  · intro s n h
    unfold exec execHearthFreeze execGeneratorLock
    simp only [h, and_self]
  · intro s n f c h hf hr
    have hmv : (((withHearth s n (locksAt f (lockMv s n f) s.flue.cycle)).modRail (n.val + 1) fun r => { r with setMv := lockMv s n f }).hearth
        n).setMv = lockMv s n f := by
      rw [State.modRail_hearth, withHearth_hearth_setMv]
      rfl
    refine ⟨_, exec_generatorLock_locks h hf hr, ?_, ?_, ?_, hmv, ?_, withHearth_modRail_frame ..⟩
    · rw [State.modRail_hearth, withHearth_hearth_freq]
      rfl
    · rw [State.modRail_hearth, withHearth_hearth_restartAt]
      rfl
    · rw [State.modRail_hearth, withHearth_hearth_unsettled]
      rfl
    · rw [hmv, withHearth_modRail_rail]
  · intro s n h
    exact exec_generatorLock_waits h

/-! #### O20 -/

/-- A rail whose telemetry was read. -/
def readRail (v a : F32) (c : Nat) (x : Rail) : Rail := { x with volts := v, amps := a, readAt := c, fails := 0, valid := true }

theorem exec_avsbusTelemetryRead_answered {r : Fin 22} {v a : F32} (h : 16 ≤ r.val ∨ (s.hearth r.val).stepTo = none) :
    exec (.avsbusTelemetryRead r (some (v, a))) s = .next (s.modRail (r.val + 1) (readRail v a s.flue.cycle)) := by
  unfold exec execAvsbusTelemetryRead
  dsimp only
  obtain h | h := h
  · have hno : ∀ p : Prop, ¬ (r.val < 16 ∧ p) := fun p k => by omega
    simp only [if_neg (hno _)]
    split <;> rfl
  · rw [State.modRail_hearth, h]
    rfl

theorem exec_avsbusTelemetryRead_failed {r : Fin 22} (h : (s.rail (r.val + 1)).fails + 1 ≠ 3) :
    exec (.avsbusTelemetryRead r none) s =
      .next (s.modRail (r.val + 1) fun x => { x with fails := x.fails + 1, valid := x.valid && decide (x.fails < 2) }) := by
  have hno : ¬ ((s.modRail (r.val + 1) fun x => { x with fails := x.fails + 1, valid := x.valid && decide (x.fails < 2) }).rail
      (r.val + 1)).fails = 3 := by
    rw [State.modRail_rail_same]
    exact h
  exact congrArg Host.Outcome.next (if_neg hno)

/-- A hearth in safe hold under a limit. -/
def heldAt (f : Nat) (h : Hearth) : Hearth := { h with state := 4, safeLim := f, stepTo := none }

/-- The frequency at which a hearth is held: its own, or under a step the highest that the voltage carries. -/
def safeFreq (s : State) (n : Nat) : Nat :=
  let h := s.hearth n
  if h.stepTo.isSome then
    (((List.range 57).map fun i => 600 + 25 * i).filter fun f => decide (voltOf s n f ≤ min (voltOf s n h.freq) h.setMv)).foldl max 600
  else h.freq

/-- A hearth in safe hold, with its rail in state 0x3 and the event raised. -/
def inSafeHold (s : State) (n : Nat) : State :=
  raiseS ((withHearth s n (heldAt (safeFreq s n))).modRail (n + 1) fun r => { r with state := 3, valid := false }) 0x2011 (n + 1) 1 8

theorem safeHold_eq {n : Nat} (h : (s.hearth n).state = 0 ∨ (s.hearth n).state = 1) : safeHold s n =
    if safeFreq s n < (s.hearth n).freq ∧ (s.hearth n).stopTo.isNone ∧ controllerRuns s n = true then beginStop (inSafeHold s n) n (safeFreq s n)
    else inSafeHold s n := by
  have hgo : ¬ (!(decide ((s.hearth n).state = 0) || decide ((s.hearth n).state = 1))) = true := by
    obtain h | h := h
    · simp [h]
    · simp [h]
  unfold safeHold
  simp only [if_neg hgo]
  rfl

theorem inSafeHold_hearth (s : State) (n : Nat) : ((inSafeHold s n).hearth n).state = 4 ∧ ((inSafeHold s n).hearth n).stepTo = none ∧
    ((inSafeHold s n).hearth n).safeLim = safeFreq s n := by
  unfold inSafeHold
  rw [raiseS_unit_hearth, State.modRail_hearth, withHearth_hearth_state, withHearth_hearth_stepTo, withHearth_hearth_safeLim]
  exact ⟨rfl, rfl, rfl⟩

theorem inSafeHold_rail (s : State) (n : Nat) : (inSafeHold s n).rail (n + 1) = { s.rail (n + 1) with state := 3, valid := false } := by
  unfold inSafeHold
  rw [raiseS_unit_rail, withHearth_modRail_rail]

theorem beginStop_rail (s : State) (n f i : Nat) : (beginStop s n f).rail i = s.rail i := by
  rw [State.rail, (beginStop_rest n f).2.2.1, State.rail]

/-- A hearth that is held stays held when it is told to stop. -/
theorem beginStop_held {n f : Nat} (h : (s.hearth n).state = 4 ∧ (s.hearth n).stepTo = none) :
    ((beginStop s n f).hearth n).state = 4 ∧ ((beginStop s n f).hearth n).stepTo = none := by
  obtain ⟨hst, hstep⟩ := h
  rw [beginStop_hearth]
  dsimp only
  rw [withHearth_hearth_state, withHearth_hearth_stepTo, stopsTo, regovern_hearth_stepTo, stopState, regovern_hearth_state, hst]
  exact ⟨rfl, hstep⟩

/-- A change of a hearth and its rail with one event, for the frame of the commands of safe hold. -/
theorem raise_held (n i b v x : Nat) (f : Hearth → Hearth) (g : Rail → Rail) :
    let t := raiseS ((withHearth s n f).modRail (n + 1) g) i b v x
    EventRaised s t i b v (stokerId s) x ∧ AonKept s t ∧ t = { s with hearths := t.hearths, rails := t.rails, aon := t.aon } := by
  refine ⟨raiseS_event_of s ?_ ?_ ?_ _ _ _ _, raiseS_kept_of s ?_ _ _ _ _, ?_⟩
  · rw [State.modRail_aon, withHearth_aon]
  · rw [State.modRail_recov, withHearth_recov]
  · rw [State.modRail_flue, withHearth_flue]
  · rw [State.modRail_aon, withHearth_aon]
  · rw [raiseS_eq, withHearth_modRail_frame]

/-- Settles O20: the damper and the readings directly, safe hold by the count of failed reads. -/
theorem railsAreReadAndHeld : Obligations.RailsAreReadAndHeld := by
  unfold Obligations.RailsAreReadAndHeld
  refine ⟨⟨?_, ?_, ?_, fun _ _ _ => rfl, ?_, ?_, fun _ _ => rfl, ?_, ?_⟩, ?_, ?_, ?_, ?_, ?_, ?_⟩
  · intro s n a o h
    exact congrArg Host.Outcome.next (if_pos h)
  · intro s n o h
    exact congrArg Host.Outcome.next (if_pos h)
  · intro s n a o h
    have hno : ¬ (s.hearth n).damper = true := by rw [h]; exact Bool.false_ne_true
    exact ⟨congrArg Host.Outcome.next (if_neg hno), congrArg Host.Outcome.next (if_neg hno)⟩
  · intro s b h
    refine ⟨_, congrArg Host.Outcome.next (if_neg (by simpa using h)), raiseS_power .., ?_, ?_, ?_⟩
    · exact raiseS_event_of (t := { s with power := { s.power with pmbusLost := s.power.pmbusLost ++ [b.val] } }) s rfl rfl rfl _ _ _ _
    · exact raiseS_kept_of (t := { s with power := { s.power with pmbusLost := s.power.pmbusLost ++ [b.val] } }) s rfl _ _ _ _
    · rw [raiseS_eq]
  · intro s b h
    exact congrArg Host.Outcome.next (if_pos (by simpa using h))
  · intro s r v a h
    exact exec_avsbusTelemetryRead_answered h
  · intro s r h
    exact exec_avsbusTelemetryRead_failed h
  · intro s n h
    obtain ⟨hst, hstep, -⟩ := inSafeHold_hearth s n
    have hrail := inSafeHold_rail s n
    refine ⟨safeHold s n, rfl, ?_⟩
    rw [safeHold_eq h]
    split
    · obtain ⟨kst, kstep⟩ := beginStop_held (f := safeFreq s n) ⟨hst, hstep⟩
      rw [beginStop_rail, hrail]
      exact ⟨kst, kstep, rfl, rfl⟩
    · rw [hrail]
      exact ⟨hst, hstep, rfl, rfl⟩
  · intro s n h hstep hstop
    have hfreq : safeFreq s n = (s.hearth n).freq := if_neg (by rw [hstep]; exact Bool.false_ne_true)
    have hheld : safeHold s n = inSafeHold s n := (safeHold_eq (.inl h)).trans (if_neg fun k => by omega)
    obtain ⟨hst, -, hlim⟩ := inSafeHold_hearth s n
    refine ⟨inSafeHold s n, congrArg Host.Outcome.next hheld, hst, hlim.trans hfreq, raise_held ..⟩
  · intro s n h0 h1
    exact congrArg Host.Outcome.next (if_pos (by rw [decide_eq_false h0, decide_eq_false h1]; rfl))
  · intro s n h hv
    refine ⟨_, congrArg Host.Outcome.next (if_pos ⟨h, hv⟩), ?_, ?_, ?_, raise_held ..⟩
    · rw [raiseS_unit_hearth, State.modRail_hearth, withHearth_hearth_state]
      dsimp only
      rw [regovern_hearth_stopTo]
    · rw [raiseS_unit_hearth, State.modRail_hearth, withHearth_hearth_safeLim]
    · rw [raiseS_unit_rail, withHearth_modRail_rail]
  · intro s n h ha
    refine ⟨_, congrArg Host.Outcome.next (if_pos ⟨h, ha⟩), ?_, ?_, raise_held ..⟩
    · rw [raiseS_unit_hearth, State.modRail_hearth, withHearth_hearth_state]
    · rw [raiseS_unit_rail, withHearth_modRail_rail]
  · intro s n h
    refine congrArg Host.Outcome.next (if_neg ?_)
    rintro ⟨hst, ha⟩
    exact h.elim (· hst) ha

end Sys2Proof.Machine

/-! ### Losses of hearths and cores (R23, R24, R28, R428, R429, R453, R479) -/

namespace Sys2Proof.Machine

variable {s t u : State}

/-! #### A lost hearth -/

/-- What a smaller partition leaves as it was: the records, the compile under way and the scratchpads. -/
def RectKept (s t : State) : Prop :=
  t.aon.recA = s.aon.recA ∧ t.flue.compiling = s.flue.compiling ∧ ∀ c, (t.core c).pad = (s.core c).pad

theorem RectKept.refl (s : State) : RectKept s s := ⟨rfl, rfl, fun _ => rfl⟩

theorem RectKept.trans (h : RectKept s t) (g : RectKept t u) : RectKept s u :=
  ⟨g.1.trans h.1, g.2.1.trans h.2.1, fun c => (g.2.2 c).trans (h.2.2 c)⟩

theorem rectKept_raiseS (i b v x : Nat) : RectKept s (raiseS s i b v x) :=
  ⟨by simp, by simp, fun c => by simp [State.core]⟩

theorem rectKept_pauseBake (b r : Nat) : RectKept s (pauseBake s b r) :=
  RectKept.trans ⟨rfl, rfl, fun _ => rfl⟩ (rectKept_raiseS ..)

theorem rectKept_foldl {α : Type} {f : State → α → State} (hf : ∀ u x, RectKept u (f u x)) (l : List α) (s : State) :
    RectKept s (l.foldl f s) :=
  foldl_prop (fun _ x h => h.trans (hf _ x)) l (RectKept.refl s)

theorem rectKept_modCore {c : CoreId} {f : Core → Core} (hf : ∀ k, (f k).pad = k.pad) : RectKept s (s.modCore c f) := by
  refine ⟨rfl, rfl, fun i => ?_⟩
  rw [State.modCore_core]
  split
  · next h => rw [hf, h]
  · rfl

theorem rectKept_releaseRouters (l : List Site) : RectKept s (releaseRouters s l) := by
  refine rectKept_foldl (fun u p => ?_) _ s
  have hr : RectKept u (u.modRouter p fun r => { r with sched := {}, staged := none }) := ⟨rfl, rfl, fun _ => rfl⟩
  dsimp only
  split
  · exact hr.trans (rectKept_modCore fun _ => rfl)
  · exact hr

theorem rectKept_rewrite (a b v w : Nat) (l : List Site) (k : Baker) (i n p x : Nat) :
    RectKept s (raiseS { releaseRouters (putSetting (putSetting s a n v) b n w) l with baker := k } i n p x) :=
  have h : RectKept s (releaseRouters (putSetting (putSetting s a n v) b n w) l) :=
    RectKept.trans (t := putSetting (putSetting s a n v) b n w) ⟨rfl, rfl, fun _ => rfl⟩ (rectKept_releaseRouters l)
  RectKept.trans (t := { releaseRouters (putSetting (putSetting s a n v) b n w) l with baker := k }) h (rectKept_raiseS ..)

theorem rectKept_reduceRect (n t : Nat) : RectKept s (reduceRect s n t) := by
  unfold reduceRect
  dsimp only
  split
  · exact RectKept.refl s
  split
  · exact RectKept.refl s
  split
  · exact rectKept_rewrite ..
  · exact (rectKept_rewrite ..).trans (rectKept_foldl (fun u e => rectKept_pauseBake ..) _ _)

theorem loseScratch_pad {c : CoreId} : ∀ {l : List CoreId} {s : State}, (c ∈ l ∨ (s.core c).pad.words = [] ∧ (s.core c).pad.valid = []) →
    ((loseScratch s l).core c).pad.words = [] ∧ ((loseScratch s l).core c).pad.valid = []
  | [], _, h => h.resolve_left (List.not_mem_nil)
  | d :: l, s, h => by
    refine loseScratch_pad (l := l) ?_
    rw [State.modCore_core]
    split
    · exact .inr ⟨rfl, rfl⟩
    · next hd => exact h.imp_left fun k => (List.mem_cons.mp k).resolve_left hd

theorem foldl_mset_mem {c v d : Nat} : ∀ {l : List Nat} {m : SMap Nat}, (c ∈ l ∨ mget d m c = v) →
    mget d (l.foldl (fun m c => mset d m c v) m) c = v
  | [], _, h => h.resolve_left (List.not_mem_nil)
  | x :: l, m, h => by
    refine foldl_mset_mem (l := l) ?_
    rw [mget_mset]
    split
    · exact .inr rfl
    · next hx => exact h.imp_left fun k => (List.mem_cons.mp k).resolve_left hx

/-- The core is gone from the map: width 0 and no change of it pending. -/
def OffMap (c : CoreId) (s : State) : Prop := mget 512 s.map.width c = 0 ∧ ∀ e ∈ s.map.pending, e.1 ≠ c

theorem offMap_filter {c : CoreId} {q : CoreId × Pending → Bool} {w : SMap Nat} {g : U32} (h : OffMap c s) (hw : mget 512 w c = 0) :
    OffMap c { s with map := { s.map with width := w, gen := g, pending := s.map.pending.filter q } } :=
  ⟨hw, fun e he => h.2 e (List.mem_of_mem_filter he)⟩

theorem offMap_retireCore {c : CoreId} (d : CoreId) (h : OffMap c s) : OffMap c (retireCore s d) := by
  unfold OffMap retireCore
  rw [show ∀ (u : State) i b v x, (raiseS u i b v x).map = u.map from fun u i b v x => by simp]
  refine offMap_filter h ?_
  rw [mget_mset]
  split
  · rfl
  · exact h.1

theorem offMap_rechoose {c d : CoreId} (hd : d ≠ c) (h : OffMap c s) : OffMap c (rechoose s d) := by
  have hf : OffMap c { s with map := { s.map with pending := s.map.pending.filter fun e => decide (e.1 ≠ d) } } :=
    offMap_filter h h.1
  unfold rechoose
  split
  · exact h
  · dsimp only
    split
    · refine ⟨h.1, fun e he => ?_⟩
      obtain he | he := List.mem_append.mp he
      · exact hf.2 e he
      · exact List.mem_singleton.mp he ▸ hd
    · exact offMap_retireCore d hf

theorem foldl_prop_mem {β γ : Type} {p : β → Prop} {f : β → γ → β} : ∀ {l : List γ} {b : β}, (∀ b, ∀ x ∈ l, p b → p (f b x)) → p b →
    p (l.foldl f b)
  | [], _, _, h => h
  | x :: l, b, hf, h => foldl_prop_mem (l := l) (fun b y hy => hf b y (List.mem_cons_of_mem _ hy)) (hf b x List.mem_cons_self h)

theorem offMap_dropPending {n : Nat} {l : List CoreId} {c : CoreId} (hc : c ∈ l) (hw : mget 512 s.map.width c = 0) :
    OffMap c (dropPending s n l) := by
  have hcut : ∀ e ∈ s.map.pending.filter fun e => !l.contains e.1, e.1 ≠ c := fun e he heq => by
    have hno := (List.mem_filter.mp he).2
    rw [heq, List.contains_iff_mem.mpr hc] at hno
    exact Bool.noConfusion hno
  unfold dropPending
  refine foldl_prop_mem (fun u d hd h => offMap_rechoose ?_ h) ⟨hw, hcut⟩
  obtain ⟨e, he, rfl⟩ := List.mem_map.mp hd
  exact hcut e (List.mem_of_mem_filter he)

theorem dropPending_nil {n : Nat} {l : List CoreId} (h : s.map.pending = []) : (dropPending s n l).map = s.map := by
  unfold dropPending
  simp only [h, List.filter_nil, List.map_nil, List.foldl_nil]
  rw [← h]

theorem retireCore_recA (s : State) (c : CoreId) : (retireCore s c).aon.recA = s.aon.recA := raiseS_aon_recA ..

theorem rechoose_recA (s : State) (c : CoreId) : (rechoose s c).aon.recA = s.aon.recA := by
  unfold rechoose
  dsimp only
  split
  · rfl
  · split
    · rfl
    · exact retireCore_recA ..

theorem dropPending_recA (s : State) (n : Nat) (l : List CoreId) : (dropPending s n l).aon.recA = s.aon.recA :=
  foldl_keeps (fun u : State => u.aon.recA) rechoose_recA _ _

/-- The state of a lost hearth. -/
def lostHearth (h : Hearth) : Hearth := { h with state := 3, power := false, clamped := true, damper := false, tripped := true }

/-- A lost hearth, its rail and its cores taken out of the device. -/
def takeHearthOut (u : State) (n : Nat) (l : List CoreId) : State :=
  let t := ((u.modHearth n lostHearth).modRail (n + 1) fun r => { r with state := 1 }).modRec
    fun r => { r with lostHearths := r.lostHearths ++ [n] }
  { t with map := { t.map with gen := t.map.gen + 1, width := l.foldl (fun m c => mset 512 m c 0) t.map.width } }

theorem takeHearthOut_hearth (u : State) (n : Nat) (l : List CoreId) : (takeHearthOut u n l).hearth n = lostHearth (u.hearth n) := by
  show (u.modHearth n lostHearth).hearth n = _
  rw [State.modHearth_hearth_same]

theorem takeHearthOut_rail (u : State) (n : Nat) (l : List CoreId) : ((takeHearthOut u n l).rail (n + 1)).state = 1 := by
  show ((u.modRail (n + 1) fun r => { r with state := 1 }).rail (n + 1)).state = 1
  rw [State.modRail_rail_same]

theorem takeHearthOut_recA (u : State) (n : Nat) (l : List CoreId) :
    (takeHearthOut u n l).aon.recA.lostHearths = u.aon.recA.lostHearths ++ [n] := rfl

theorem takeHearthOut_map (u : State) (n : Nat) (l : List CoreId) : (takeHearthOut u n l).map =
    { u.map with gen := u.map.gen + 1, width := l.foldl (fun m c => mset 512 m c 0) u.map.width } := rfl

theorem takeHearthOut_cores (u : State) (n : Nat) (l : List CoreId) : (takeHearthOut u n l).cores = u.cores := rfl

/-- The loss of a hearth up to the changes of the core map that wait for it. -/
def loseMap (s : State) (n : Nat) : State := takeHearthOut (regovern (loseScratch s (hearthCores s n)) n) n (hearthCores s n)

/-- What follows the changes of the core map: the compile, the event, the smaller partitions and the triggers of the bakes. -/
theorem loseHearth_eq (s : State) (n : Nat) : ∃ (fl : Flue) (g : State → Nat → State) (l : List Nat), fl.compiling = true ∧
    (∀ u i, g u i = u ∨ g u i = reduceRect u n (i + 1)) ∧
    loseHearth s n = l.foldl (fun u b => trigger u b 2) ((List.range 64).foldl g
      (raiseS { dropPending (loseMap s n) n (hearthCores s n) with flue := fl } 0x2011 (n + 1) 3 n)) :=
  ⟨_, fun u i => if (rectHearths s (i + 1)).contains n then reduceRect u n (i + 1) else u, _, rfl,
    fun u i => (ite_eq_or_eq _ _ _).symm, rfl⟩

/-- What the end of a hearth's loss keeps of its beginning. -/
theorem loseHearth_kept (s : State) (n : Nat) : ∃ fl : Flue, fl.compiling = true ∧
    RectKept { dropPending (loseMap s n) n (hearthCores s n) with flue := fl } (loseHearth s n) := by
  obtain ⟨fl, g, l, hfl, hg, heq⟩ := loseHearth_eq s n
  refine ⟨fl, hfl, ?_⟩
  rw [heq]
  refine RectKept.trans (RectKept.trans (rectKept_raiseS 0x2011 (n + 1) 3 n) (rectKept_foldl (fun u i => ?_) _ _))
    (rectKept_foldl (fun u b => ⟨by simp, by simp, fun c => by simp [State.core]⟩) l _)
  obtain h | h := hg u i
  · rw [h]
    exact RectKept.refl u
  · rw [h]
    exact rectKept_reduceRect ..

theorem loseHearth_map (s : State) (n : Nat) : (loseHearth s n).map = (dropPending (loseMap s n) n (hearthCores s n)).map := by
  obtain ⟨fl, g, l, -, hg, heq⟩ := loseHearth_eq s n
  have hgm : ∀ u i, (g u i).map = u.map := fun u i => by
    obtain h | h := hg u i <;> simp [h]
  rw [heq, foldl_map (fun u b => by simp), foldl_map hgm]
  simp

theorem loseHearth_hearths (s : State) (n : Nat) : (loseHearth s n).hearths = (loseMap s n).hearths := by
  obtain ⟨fl, g, l, -, hg, heq⟩ := loseHearth_eq s n
  have hgm : ∀ u i, (g u i).hearths = u.hearths := fun u i => by
    obtain h | h := hg u i <;> simp [h]
  rw [heq, foldl_hearths (fun u b => by simp), foldl_hearths hgm]
  simp

theorem loseHearth_rails (s : State) (n : Nat) : (loseHearth s n).rails = (loseMap s n).rails := by
  obtain ⟨fl, g, l, -, hg, heq⟩ := loseHearth_eq s n
  have hgm : ∀ u i, (g u i).rails = u.rails := fun u i => by
    obtain h | h := hg u i <;> simp [h]
  rw [heq, foldl_rails (fun u b => by simp), foldl_rails hgm]
  simp

theorem loseMap_hearth (s : State) (n : Nat) :
    (loseMap s n).hearth n = lostHearth ((regovern (loseScratch s (hearthCores s n)) n).hearth n) := takeHearthOut_hearth ..

theorem loseMap_rail (s : State) (n : Nat) : ((loseMap s n).rail (n + 1)).state = 1 := takeHearthOut_rail ..

theorem loseMap_recA (s : State) (n : Nat) : (loseMap s n).aon.recA.lostHearths = s.aon.recA.lostHearths ++ [n] := by
  have h : (regovern (loseScratch s (hearthCores s n)) n).aon = s.aon := by simp
  rw [loseMap, takeHearthOut_recA, h]

theorem loseMap_map (s : State) (n : Nat) : (loseMap s n).map =
    { s.map with gen := s.map.gen + 1, width := (hearthCores s n).foldl (fun m c => mset 512 m c 0) s.map.width } := by
  have h : (regovern (loseScratch s (hearthCores s n)) n).map = s.map := by simp
  rw [loseMap, takeHearthOut_map, h]

theorem loseMap_cores (s : State) (n : Nat) : (loseMap s n).cores = (loseScratch s (hearthCores s n)).cores := by
  have h : (regovern (loseScratch s (hearthCores s n)) n).cores = (loseScratch s (hearthCores s n)).cores := by simp
  rw [loseMap, takeHearthOut_cores, h]

/-- A hearth whose loss is declared. -/
theorem exec_hearthLossDeclaration_of {n : Fin 16} (ht : (s.hearth n).tripped = true) (h3 : (s.hearth n).state ≠ 3)
    (ha : s.recov.active ≠ 0) : exec (.hearthLossDeclaration n) s = .next (loseHearth s n) :=
  congrArg Host.Outcome.next (if_pos ⟨ht, h3, ha⟩)

theorem loseHearth_declared (s : State) (n : Nat) :
    ((loseHearth s n).hearth n).state = 3 ∧ ((loseHearth s n).hearth n).clamped = true ∧ ((loseHearth s n).hearth n).power = false ∧
    (loseHearth s n).aon.recA.lostHearths = s.aon.recA.lostHearths ++ [n] ∧ ((loseHearth s n).rail (n + 1)).state = 1 ∧
    (∀ c ∈ hearthCores s n, mget 512 (loseHearth s n).map.width c = 0 ∧ ((loseHearth s n).core c).pad.words = [] ∧
      ((loseHearth s n).core c).pad.valid = [] ∧ ∀ e ∈ (loseHearth s n).map.pending, e.1 ≠ c) ∧
    (s.map.pending = [] → (loseHearth s n).map.gen = s.map.gen + 1) ∧ (loseHearth s n).flue.compiling = true := by
  obtain ⟨fl, hfl, hrec, hcomp, hpad⟩ := loseHearth_kept s n
  have hh : (loseHearth s n).hearth n = lostHearth ((regovern (loseScratch s (hearthCores s n)) n).hearth n) := by
    rw [← loseMap_hearth, State.hearth, loseHearth_hearths, State.hearth]
  have hr : (loseHearth s n).rail (n + 1) = (loseMap s n).rail (n + 1) := by
    rw [State.rail, loseHearth_rails, State.rail]
  refine ⟨by rw [hh]; rfl, by rw [hh]; rfl, by rw [hh]; rfl, ?_, by rw [hr, loseMap_rail], fun c hc => ?_, fun hp => ?_, hcomp.trans hfl⟩
  · rw [hrec, dropPending_recA, loseMap_recA]
  · have hw : mget 512 (loseMap s n).map.width c = 0 := by
      rw [loseMap_map]
      exact foldl_mset_mem (.inl hc)
    obtain ⟨hwd, hpend⟩ := offMap_dropPending (n := n) hc hw
    have hcore : (({ dropPending (loseMap s n) n (hearthCores s n) with flue := fl } : State).core c) =
        (loseScratch s (hearthCores s n)).core c := by
      rw [State.core, State.core, ← loseMap_cores]
      simp
    have hlost := loseScratch_pad (s := s) (.inl hc)
    rw [← hcore, ← hpad c] at hlost
    rw [loseHearth_map]
    exact ⟨hwd, hlost.1, hlost.2, hpend⟩
  · have hp' : (loseMap s n).map.pending = [] := by
      rw [loseMap_map]
      exact hp
    rw [loseHearth_map, dropPending_nil hp', loseMap_map]

/-! #### A failed core -/

/-- Whether this bake lets a change of the core map wait no longer. -/
def allowsChange (s : State) (c : CoreId) (k : Bake) : Bool :=
  k.place.isNone || !usesColumn s k c || decide (k.state = 4) || (decide (k.state = 5) && !k.filling) ||
    (decide (k.state = 7) && !k.preempted && !k.draining && !k.noRoute)

theorem mayTakeEffect_eq_all (s : State) (c : CoreId) : mayTakeEffect s c = s.baker.slots.all fun e => allowsChange s c e.2 := rfl

/-- A bake that holds a change back is among the slots. -/
def HoldsBack (c : CoreId) (s : State) : Prop := ∃ e ∈ s.baker.slots, allowsChange s c e.2 = false

theorem mayTakeEffect_false_iff {c : CoreId} : mayTakeEffect s c = false ↔ HoldsBack c s := by
  rw [mayTakeEffect_eq_all, List.all_eq_false]
  simp [HoldsBack]

/-- A value put into a map takes the place of the value that its key read, or of the default. -/
theorem mem_smPut_of_mem {α : Type} {v : α} {k : Nat} {d : Nat → α} {e : Nat × α} : ∀ {m : SMap α}, e ∈ m →
    e ∈ smPut m k v ∨ (e.2 = smGet d m k ∧ (k, v) ∈ smPut m k v)
  | (j, w) :: m, h => by
    unfold smPut smGet
    obtain h | h := List.mem_cons.mp h
    · subst h
      split
      · exact .inl (by simp)
      split
      · next hk => exact .inr ⟨by rw [if_pos hk.symm], by simp⟩
      · exact .inl (by simp)
    · split
      · exact .inl (by simp [h])
      split
      · exact .inl (by simp [h])
      · next hk =>
        obtain ih | ⟨ih, hin⟩ := mem_smPut_of_mem (d := d) (k := k) (v := v) h
        · exact .inl (by simp [ih])
        · exact .inr ⟨by rw [if_neg (Ne.symm hk), ih], by simp [hin]⟩

/-- A slot with the trigger of a row recorded. -/
def triggered (row : Nat) (k : Bake) : Bake :=
  { k with
    triggers := if k.triggers.contains row then k.triggers else k.triggers ++ [row],
    losses := k.losses + (if row = 1 ∨ row = 2 ∨ row = 6 then 1 else 0),
    migDrain := false }

theorem triggered_triggers_ne (row : Nat) (k : Bake) : (triggered row k).triggers ≠ [] := by
  unfold triggered
  dsimp only
  split
  · next h => exact fun h0 => by simp [h0] at h
  · simp

/-- A slot is either as it was after a trigger, or it is the one that took the trigger. -/
theorem slot_trigger (b row : Nat) {e : Nat × Bake} (he : e ∈ s.baker.slots) :
    e ∈ (trigger s b row).baker.slots ∨ (b, triggered row e.2) ∈ (trigger s b row).baker.slots := by
  have hne : triggered row (mget {} s.baker.slots b) ≠ ({} : Bake) := fun h => triggered_triggers_ne row _ (by rw [h])
  have hs : (trigger s b row).baker.slots = smPut s.baker.slots b (triggered row (mget {} s.baker.slots b)) := if_neg hne
  rw [hs]
  obtain h | ⟨hv, h⟩ := mem_smPut_of_mem (d := fun _ => ({} : Bake)) (k := b) (v := triggered row (mget {} s.baker.slots b)) he
  · exact .inl h
  · exact .inr (by rw [hv]; exact h)

theorem holdsBack_trigger {c : CoreId} (b row : Nat) (h : HoldsBack c s) : HoldsBack c (trigger s b row) := by
  obtain ⟨e, he, hf⟩ := h
  obtain he | he := slot_trigger b row he
  · exact ⟨e, he, hf⟩
  · exact ⟨_, he, hf⟩

theorem holdsBack_triggerAll {c : CoreId} (row : Nat) (pick : Bake → Bool) (h : HoldsBack c s) : HoldsBack c (triggerAll s row pick) :=
  foldl_prop (fun _ _ k => holdsBack_trigger _ _ k) _ h

theorem settleChange_holdsBack {c : CoreId} (h : HoldsBack c s) : settleChange s c = s :=
  if_neg (by rw [mayTakeEffect_false_iff.mpr h]; exact Bool.false_ne_true)

theorem triggerAll_nil (row : Nat) (pick : Bake → Bool) (h : s.baker.slots = []) : triggerAll s row pick = s := by
  unfold triggerAll
  rw [h]
  rfl

theorem settleChange_of_nil {c : CoreId} (h : s.baker.slots = []) : settleChange s c = takeEffect s c :=
  if_pos (by rw [mayTakeEffect_eq_all, h]; rfl)

/-- The map with the pending change of a core taken out of it. -/
def unpended (s : State) (c : CoreId) : State :=
  { s with map := { s.map with pending := s.map.pending.filter fun e => decide (e.1 ≠ c), gen := s.map.gen + 1 } }

theorem takeEffect_substitute {c r : Nat} (h : (s.map.pending.find? fun e => decide (e.1 = c)) = some (c, .substitute r)) :
    ∃ w : SMap Nat, takeEffect s c = { unpended s c with
      map := { (unpended s c).map with subRow := mset 255 s.map.subRow c r, width := w },
      cores := mmod {} s.cores c Core.replaced } := by
  unfold takeEffect
  simp only [h]
  exact ⟨_, rfl⟩

theorem takeEffect_bypass {c : Nat} (h : (s.map.pending.find? fun e => decide (e.1 = c)) = some (c, .bypass)) :
    takeEffect s c = { unpended s c with
      map := { (unpended s c).map with width := mset 512 s.map.width c (fullWidth s c) } } := by
  unfold takeEffect
  simp only [h]
  rfl

theorem ne_of_mem_filter_ne {c : Nat} {l : List (Nat × Pending)} : ∀ e ∈ l.filter (fun e => decide (e.1 ≠ c)), e.1 ≠ c :=
  fun _ he => of_decide_eq_true (List.mem_filter.mp he).2

theorem pend_find (c : Nat) (p : Pending) : ((pend s c p).map.pending.find? fun e => decide (e.1 = c)) = some (c, p) := by
  unfold pend
  dsimp only
  rw [List.find?_append, List.find?_eq_none.mpr]
  · simp
  · intro e he
    simpa using ne_of_mem_filter_ne e he

/-- A core that fails and has a spare row left to it. -/
theorem failCore_substitute {c r q : Nat} (hr : rowOf s c = some r)
    (hq : nearestRow r (spareRows (s.modRec fun x => { x with failedSites := x.failedSites ++ [16 * r + c % 16] }) (c % 16)) = some q) :
    failCore s c = settleChange (triggerAll (raiseS (pend (s.modRec fun x => { x with failedSites := x.failedSites ++ [16 * r + c % 16] })
      c (.substitute q)) 0x3002 (c + 1) 3 c) 1 fun k => usesColumn s k c) c := by
  unfold failCore
  simp only [hr, hq]
  rfl

theorem failCore_hole {c r : Nat} (hr : rowOf s c = some r)
    (hq : nearestRow r (spareRows (s.modRec fun x => { x with failedSites := x.failedSites ++ [16 * r + c % 16] }) (c % 16)) = none) :
    failCore s c = triggerAll (retireCore (s.modRec fun x => { x with failedSites := x.failedSites ++ [16 * r + c % 16] }) c) 1
      fun k => (bakeCores k).contains c := by
  unfold failCore
  simp only [hr, hq]
  rfl

/-- A state with another failed site recorded, a change pending, the event raised and the bakes concerned triggered. -/
theorem failCore_pended (s : State) (c q x : Nat) (f : Records → Records) (pick : Bake → Bool) :
    let u := triggerAll (raiseS (pend (s.modRec f) c (.substitute q)) 0x3002 (c + 1) 3 x) 1 pick
    u.map = (pend s c (.substitute q)).map ∧ u.aon.recA = f s.aon.recA ∧
    (HoldsBack c (pend s c (.substitute q)) → HoldsBack c u) ∧ (s.baker.slots = [] → u.baker.slots = []) := by
  have hb : (raiseS (pend (s.modRec f) c (.substitute q)) 0x3002 (c + 1) 3 x).baker = s.baker := by simp
  refine ⟨?_, ?_, fun ⟨e, he, hf⟩ => ?_, fun h => ?_⟩
  · simp [pend]
  · simp [pend, State.modRec]
  · exact holdsBack_triggerAll 1 pick ⟨e, by rw [hb]; exact he, hf⟩
  · rw [triggerAll_nil _ _ (by rw [hb, h]), hb, h]

/-- The flits on their way into a hearth are lost. -/
def loseMoving (w : State) (n : Nat) : State :=
  { w with flue := { w.flue with moving := w.flue.moving.filter fun m => decide (hearthOfSite m.site ≠ n) } }

theorem loseMoving_hearth (w : State) (n i : Nat) : (loseMoving w n).hearth i = w.hearth i := rfl

theorem loseMoving_frame (h : t = { s with hearths := t.hearths, flue := t.flue }) (n : Nat) :
    loseMoving t n = { s with hearths := (loseMoving t n).hearths, flue := (loseMoving t n).flue } := by
  rw [h]
  rfl

/-- A hearth just tripped. -/
def trippedHearth (h : Hearth) : Hearth := { h with tripped := true, clamped := true, damper := false }

/-- A state whose hearth an undervoltage trip has just stopped. -/
def tripHearth (s : State) (n : Nat) : State := loseMoving (setStop (s.modHearth n trippedHearth) n true) n

theorem tripHearth_hearth (s : State) (n : Nat) :
    (tripHearth s n).hearth n = { s.hearth n with tripped := true, clamped := true, damper := false, stopBit := true } := by
  rw [tripHearth, loseMoving_hearth, setStop_hearth_same, State.modHearth_hearth_same]
  rfl

theorem tripHearth_moving (s : State) (n : Nat) :
    (tripHearth s n).flue.moving = s.flue.moving.filter fun m => decide (hearthOfSite m.site ≠ n) := rfl

theorem tripHearth_noEvent (s : State) (n : Nat) : NoEvent s (tripHearth s n) := ⟨rfl, rfl⟩

theorem tripHearth_frame (s : State) (n : Nat) :
    tripHearth s n = { s with hearths := (tripHearth s n).hearths, flue := (tripHearth s n).flue } :=
  loseMoving_frame (setStop_frame (s.modHearth n trippedHearth) n true) n

theorem exec_undervoltageTrip_of {n : Fin 16} (ht : (s.hearth n).tripped = false) (h3 : (s.hearth n).state ≠ 3)
    (h2 : (s.hearth n).state ≠ 2) : exec (.undervoltageTrip n) s = .next (tripHearth s n) := by
  have hgo : ¬ ((s.hearth n).tripped || decide ((s.hearth n).state = 3) || decide ((s.hearth n).state = 2)) = true := by
    rw [ht, decide_eq_false h3, decide_eq_false h2]
    exact Bool.false_ne_true
  show execUndervoltageTrip n s = _
  unfold execUndervoltageTrip
  rw [if_neg hgo]
  rfl

/-- Settles O21: a trip by its first time, a failure by the spare found, the change by the bakes still to be fenced. -/
theorem lossesChangeTheMap : Obligations.LossesChangeTheMap := by
  unfold Obligations.LossesChangeTheMap
  refine ⟨⟨?_, ?_, ?_, ?_⟩, ?_, ?_, ?_, ?_, ?_, ?_⟩
  · intro s n ht h3 h2
    exact ⟨_, exec_undervoltageTrip_of ht h3 h2, tripHearth_hearth .., tripHearth_moving .., tripHearth_noEvent .., tripHearth_frame ..⟩
  · intro s n h
    refine congrArg Host.Outcome.next (if_pos ?_)
    obtain h | h | h := h <;> simp [h]
  · intro s n ht h3 ha
    refine ⟨loseHearth s n, exec_hearthLossDeclaration_of ht h3 ha, ?_⟩
    obtain ⟨hst, hcl, hpw, hrec, hra, hcores, hgen, hcomp⟩ := loseHearth_declared s n
    exact ⟨hst, hcl, hpw, hrec, hra, hcores, hgen, hcomp, by simp, by simp, by simp, by simp⟩
  · intro s n h
    refine congrArg Host.Outcome.next (if_neg fun ⟨ht, h3, ha⟩ => ?_)
    obtain h | h | h := h
    · rw [h] at ht
      exact Bool.noConfusion ht
    · exact h3 h
    · exact ha h
  · intro s c r q he hw hr hq
    have hx : exec (.coreFailure c) s = .next (failCore s c) := (onCore_of_exists he _).trans (by rw [if_pos hw])
    obtain ⟨hm, hrec, hhold, hnil⟩ := failCore_pended s c q c (fun x => { x with failedSites := x.failedSites ++ [16 * r + c % 16] })
      fun k => usesColumn s k c
    have hfind := pend_find (s := s) c (.substitute q)
    rw [← hm] at hfind
    refine ⟨_, hx, ?_, fun hmay => ?_, fun h0 => ?_, by simp, by simp, by simp, by simp⟩ <;> rw [failCore_substitute hr hq]
    · rw [(settleChange_rest c).1, hrec]
    · rw [settleChange_holdsBack (hhold (mayTakeEffect_false_iff.mp hmay)), hm]
    · obtain ⟨w, ht⟩ := takeEffect_substitute hfind
      rw [settleChange_of_nil (hnil h0), ht, unpended, hm]
      refine ⟨mget_mset_same .., ?_, ne_of_mem_filter_ne⟩
      show s.map.gen + 1 + 1 = _
      rw [BitVec.add_assoc]
      rfl
  · intro s c r he hw hr hq
    have hx : exec (.coreFailure c) s = .next (failCore s c) := (onCore_of_exists he _).trans (by rw [if_pos hw])
    refine ⟨_, hx, ?_, ?_, by simp, by simp⟩ <;> rw [failCore_hole hr hq]
    · rw [(triggerAll_rest _ _).1, retireCore_recA]
      rfl
    · simp only [triggerAll_rest]
      unfold retireCore
      simp [State.modRec]
  · intro s c he hw
    exact (onCore_of_exists he _).trans (by rw [hw]; rfl)
  · intro s c he hm
    exact (onCore_of_exists he _).trans (by rw [settleChange, hm]; rfl)
  · intro s c r he hm hp
    have hx : exec (.mapChangeEffect c) s = .next (takeEffect s c) := (onCore_of_exists he _).trans (by rw [settleChange, if_pos hm])
    obtain ⟨w, ht⟩ := takeEffect_substitute hp
    rw [ht] at hx
    exact ⟨_, hx, rfl, mget_mset_same .., mget_mset_same .., ne_of_mem_filter_ne, rfl⟩
  · intro s c he hm hp
    have hx : exec (.mapChangeEffect c) s = .next (takeEffect s c) := (onCore_of_exists he _).trans (by rw [settleChange, if_pos hm])
    rw [takeEffect_bypass hp] at hx
    exact ⟨_, hx, rfl, mget_mset_same .., ne_of_mem_filter_ne, rfl⟩

end Sys2Proof.Machine

/-! ### Events, monitors and the guards of configuration (R371, R372, R471 to R476) -/

namespace Sys2Proof.Machine

variable {s t u : State}

/-! #### The event log and the monitors -/

section
variable {index sub : Nat}

theorem monitorNames_one (h1 : 1 ≤ sub) (h : sub ≤ monitorCount s index) : monitorNames s index sub = [sub] := by
  have hno : ¬ (monitorCount s index = 0 ∨ monitorCount s index < sub) := by omega
  have h0 : sub ≠ 0 := by omega
  exact (if_neg hno).trans (if_neg h0)

theorem modMonitors_one (h1 : 1 ≤ sub) (h : sub ≤ monitorCount s index) (f : Monitor → Monitor) :
    modMonitors s index sub f = { s with integ := { s.integ with monitors := mmod {} s.integ.monitors (256 * index + sub) f } } := by
  unfold modMonitors
  rw [monitorNames_one h1 h]
  rfl

/-- What a change of one monitor record leaves as it was. -/
def OtherMonitorsKept (s t : State) (key : Nat) : Prop :=
  (∀ k, k ≠ key → mget {} t.integ.monitors k = mget {} s.integ.monitors k) ∧
    t = { s with integ := { s.integ with monitors := t.integ.monitors, command := t.integ.command } }

theorem otherMonitorsKept_mmod (f : Monitor → Monitor) (key : Nat) (w : U32) :
    OtherMonitorsKept s { s with integ := { s.integ with monitors := mmod {} s.integ.monitors key f, command := w } } key :=
  ⟨fun _ hk => mget_mset_other _ _ hk _, rfl⟩

/-- A monitor command on one instance changes its record and is noted as the last one. -/
theorem monitorCommand_one (h1 : 1 ≤ sub) (h : sub ≤ monitorCount s index) (cmd : Nat) (f : Monitor → Monitor) :
    let t := monitorCommand s cmd index sub f
    mget {} t.integ.monitors (256 * index + sub) = f (mget {} s.integ.monitors (256 * index + sub)) ∧
      OtherMonitorsKept s t (256 * index + sub) ∧ t.integ.command = BitVec.ofNat 32 (cmd * 2 ^ 28 + index * 2 ^ 8 + sub) := by
  have hne : ¬ (monitorNames s index sub).isEmpty = true := by
    rw [monitorNames_one h1 h]
    exact Bool.false_ne_true
  have ht : monitorCommand s cmd index sub f = { s with integ := { s.integ with
      monitors := mmod {} s.integ.monitors (256 * index + sub) f, command := BitVec.ofNat 32 (cmd * 2 ^ 28 + index * 2 ^ 8 + sub) } } := by
    unfold monitorCommand
    rw [if_neg hne, modMonitors_one h1 h]
  rw [ht]
  exact ⟨mget_mset_same .., otherMonitorsKept_mmod .., rfl⟩

end

theorem monitor_sample_frozen {m : Monitor} (h : m.armed = false) (q : Nat) : m.sample q = m :=
  if_pos (by rw [h]; rfl)

theorem monitor_sample_armed {m : Monitor} (h : m.armed = true) (q : Nat) : m.sample q = { m with
    samples := m.samples + 1, minQ := BitVec.ofNat 64 (min m.minQ.toNat q), maxQ := BitVec.ofNat 64 (max m.maxQ.toNat q),
    bins := mmod 0 m.bins (binOf q) fun c => satInc c 1 } :=
  if_neg (by rw [h]; exact Bool.false_ne_true)

theorem monitor_sample_counts {m : Monitor} (h : m.armed = true) {q : Nat} (hq : q < 2 ^ 64) :
    (m.sample q).samples = m.samples + 1 ∧ (m.sample q).minQ.toNat = min m.minQ.toNat q ∧ (m.sample q).maxQ.toNat = max m.maxQ.toNat q ∧
    mget 0 (m.sample q).bins (if q = 0 then 0 else min 31 (Nat.log2 q + 1)) =
      satInc (mget 0 m.bins (if q = 0 then 0 else min 31 (Nat.log2 q + 1))) 1 ∧ (m.sample q).armed = true := by
  have hmin := m.minQ.isLt
  have hmax := m.maxQ.isLt
  rw [monitor_sample_armed h]
  refine ⟨rfl, ?_, ?_, mget_mset_same .., h⟩ <;> rw [BitVec.toNat_ofNat, Nat.mod_eq_of_lt (by omega)]

theorem exec_monitorSample_one {ix : U16} {sub : U8} (h1 : 1 ≤ sub.toNat) (h : sub.toNat ≤ monitorCount s ix.toNat) (q : Nat) :
    exec (.monitorSample ix sub q) s = .next { s with integ := { s.integ with
      monitors := mmod {} s.integ.monitors (256 * ix.toNat + sub.toNat) fun m => m.sample (min q (2 ^ 64 - 1)) } } := by
  have h0 : sub ≠ 0 := fun h => by simp [h] at h1
  refine congrArg Host.Outcome.next ((if_neg h0).trans ?_)
  exact modMonitors_one h1 h _

theorem exec_eventLogMove_of {e : Event} {rest : List Event} (hq : s.aon.queue = e :: rest) (ha : s.recov.active ≠ 0) :
    exec .eventLogMove s = .next { s with
      aon := { s.aon with queue := rest }
      integ := { s.integ with
        nextSeq := s.integ.nextSeq + 1
        log := mset ⟨0, 0, 0, 0, 0, 0, 0⟩ s.integ.log (s.integ.nextSeq.toNat % 1024) { e with seq := s.integ.nextSeq } } } := by
  unfold exec execEventLogMove
  simp only [hq, if_neg ha]

theorem exec_eventLogMove_waits (h : s.aon.queue = [] ∨ s.recov.active = 0) : exec .eventLogMove s = .next s := by
  unfold exec execEventLogMove
  obtain h | h := h
  · simp only [h]
  · simp only [if_pos h]
    split <;> rfl

/-- Settles O60: an event by the room in its queue, a monitor by whether it is armed. -/
theorem eventsAndMonitorsRecord : Obligations.EventsAndMonitorsRecord := by
  unfold Obligations.EventsAndMonitorsRecord
  refine ⟨⟨?_, ?_, ?_, ?_⟩, ?_⟩
  · intro s ix sub sev src arg hsev
    refine ⟨raise s ix sub sev src arg, congrArg Host.Outcome.next (if_pos hsev), ?_, raise_kept .., raise_eq ..⟩
    have h := raise_event s ix.toNat sub.toNat sev.toNat arg.toNat src
    simpa only [BitVec.ofNat_toNat, BitVec.setWidth_eq] using h
  · intro s ix sub sev src arg hsev
    exact congrArg Host.Outcome.next (if_neg (by omega))
  · intro s e rest hq ha
    exact ⟨_, exec_eventLogMove_of hq ha, rfl, rfl, mget_mset_same .., fun n hn => mget_mset_other _ _ hn _, rfl, rfl⟩
  · intro s h
    exact exec_eventLogMove_waits h
  · intro s ix sub h1 h key m kept
    have hone := monitorCommand_one (s := s) h1 h
    refine ⟨?_, ?_, ?_, ?_, fun q hq ha => ?_, fun q ha => ?_⟩
    · exact ⟨_, rfl, (hone 1 _).1, (hone 1 _).2.1, by simpa using (hone 1 _).2.2⟩
    · exact ⟨_, rfl, (hone 2 _).1, (hone 2 _).2.1, (hone 2 _).2.2⟩
    · exact ⟨_, rfl, (hone 3 _).1, (hone 3 _).2.1, (hone 3 _).2.2⟩
    · exact ⟨_, rfl, (hone 4 _).1, (hone 4 _).2.1, (hone 4 _).2.2⟩
    · have hmin : min q (2 ^ 64 - 1) = q := by omega
      obtain ⟨hs, hlo, hhi, hbin, harm⟩ := monitor_sample_counts ha hq
      have hx := exec_monitorSample_one h1 h q
      rw [hmin] at hx
      have hm : mget {} (mmod {} s.integ.monitors key fun m => m.sample q) key = m.sample q := mget_mset_same ..
      refine ⟨_, hx, ?_⟩
      dsimp only
      rw [hm]
      exact ⟨hs, hlo, hhi, hbin, harm, otherMonitorsKept_mmod .., rfl⟩
    · have hm : mget {} (mmod {} s.integ.monitors key fun m => m.sample (min q (2 ^ 64 - 1))) key = m :=
        (mget_mset_same ..).trans (monitor_sample_frozen ha _)
      exact ⟨_, exec_monitorSample_one h1 h q, hm, otherMonitorsKept_mmod ..⟩

/-! #### Writes of dictionary entries (R359, R371) -/

theorem le_foldl_max {α : Type} (f : α → Nat) {x : α} : ∀ {l : List α} {a : Nat}, (x ∈ l ∨ f x ≤ a) → f x ≤ l.foldl (fun a e => max a (f e)) a
  | [], _, h => h.resolve_left List.not_mem_nil
  | y :: l, a, h => by
    refine le_foldl_max f (l := l) ?_
    obtain h | h := h
    · obtain rfl | h := List.mem_cons.mp h
      · exact .inr (Nat.le_max_right ..)
      · exact .inl h
    · exact .inr (h.trans (Nat.le_max_left ..))

/-- An entry is found among those of its index. -/
theorem findEntry_of {index sub : Nat} {l : List Entry} {e : Entry} (hr : ¬ (0x8000 ≤ index ∧ index ≤ 0xEFFF))
    (hl : dictEntries.filter (fun e => decide (e.index = index)) = l)
    (hf : l.find? (fun e => decide (e.lo ≤ sub) && decide (sub ≤ e.top s)) = some e) (h1 : 1 ≤ sub) :
    findEntry s index sub = .ok e := by
  have htop : topSub s index ≠ 0 := by
    have hle := le_foldl_max (fun e : Entry => e.top s) (a := 0) (.inl (List.mem_of_find?_eq_some hf))
    have hsub := List.find?_some hf
    simp only [Bool.and_eq_true, decide_eq_true_eq] at hsub
    unfold topSub
    rw [hl]
    omega
  have h0 : sub ≠ 0 := by omega
  unfold findEntry
  rw [if_neg hr, if_neg htop, if_neg h0]
  rw [← hl, List.find?_filter] at hf
  simp only [Bool.and_assoc, Bool.decide_and, Bool.decide_eq_true] at hf ⊢
  rw [hf]

/-- A scalar entry outside the commit sets that takes values of this type and size. -/
def plainScalar (e : Entry) (acc : Rights) (code size : Nat) : Bool :=
  decide (e.acc = acc) && decide (e.cset = 0) && decide (e.code = code) && decide (e.size = size) &&
    decide (code ≠ tDom) && decide (code ≠ tDate) && decide (e.index ≠ 0x1200)

theorem ofLe_leBytes : ∀ n v, ofLe (leBytes n v) = v % 256 ^ n
  | 0, v => by simp [ofLe, leBytes, Nat.mod_one]
  | n + 1, v => by
    have h : v % 256 ^ (n + 1) = v % 256 + 256 * (v / 256 % 256 ^ n) := by rw [Nat.pow_succ', Nat.mod_mul]
    rw [leBytes, ofLe, ofLe_leBytes n, BitVec.toNat_ofNat, h]

theorem notMaster_iff {m : U8} : (m.toNat ≠ 1 ∧ m.toNat ≠ 2) ↔ ¬ (m = 1 ∨ m = 2) := by
  rw [← BitVec.toNat_inj, ← BitVec.toNat_inj, not_or]
  rfl

section
variable {e : Entry} {m : U8} {index sub code size v : Nat}

theorem writeCode_plain {acc : Rights} (hp : plainScalar e acc code size = true) (ha : acc = .rw ∨ acc = .rws) (hv : v < 256 ^ size) :
    writeCode s e m.toNat sub code 0 (leBytes size v) false =
      if ¬ (m = 1 ∨ m = 2) then 0x08000026 else if acc = .rws ∧ s.aon.holder ≠ m then 0x08000021
      else if !scalarOk e.index sub v then 0x06090030 else 0 := by
  simp only [plainScalar, Bool.and_eq_true, decide_eq_true_eq] at hp
  obtain ⟨⟨⟨⟨⟨⟨hacc, hset⟩, hcode⟩, hsize⟩, hdom⟩, hdate⟩, hix⟩ := hp
  have hfits : writeFits e code 0 (leBytes size v) = true := by
    simp [writeFits, hcode, hdom, hsize]
  have hval : valueFits s e sub 0 (leBytes size v) = scalarOk e.index sub v := by
    rw [valueFits, hcode, if_neg hdom, if_neg hdate, ofLe_leBytes, Nat.mod_eq_of_lt hv]
  have hho : e.acc ≠ .rw ∧ s.aon.holder.toNat ≠ m.toNat ↔ acc = .rws ∧ s.aon.holder ≠ m := by
    rw [hacc, ne_eq (s.aon.holder.toNat), BitVec.toNat_inj]
    obtain rfl | rfl := ha <;> simp
  unfold writeCode
  simp only [hfits, hval, hho, notMaster_iff, hix, Bool.not_true, Bool.false_eq_true, if_false, false_and, Bool.false_or]
  obtain rfl | rfl := ha <;> simp [hacc]

theorem doWrite_plain {acc : Rights} (hp : plainScalar e acc code size = true) (hv : v < 256 ^ size) (master : Nat) :
    doWrite s e master sub 0 (leBytes size v) = writeScalar s master e.index sub v := by
  simp only [plainScalar, Bool.and_eq_true, decide_eq_true_eq] at hp
  obtain ⟨⟨⟨⟨⟨⟨hacc, hset⟩, hcode⟩, hsize⟩, hdom⟩, hdate⟩, hix⟩ := hp
  have h0 : ¬ e.cset ≠ 0 := fun h => h hset
  rw [doWrite, if_neg h0, hcode, if_neg hdom, if_neg hdate, ofLe_leBytes, Nat.mod_eq_of_lt hv]

/-- A write that its entry's checks refuse, or of a dictionary that is not served, changes nothing. -/
theorem masterWrite_refused (h : served s = true → ∃ e, findEntry s index sub = .ok e ∧
    writeCode s e m.toNat sub code 0 (leBytes size v) false ≠ 0) : masterWrite s m index sub code size v = s := by
  unfold masterWrite
  split
  · next hs =>
    obtain ⟨e, he, hc⟩ := h hs
    unfold writeEntry
    rw [he]
    simp only [if_pos hc]
  · rfl

theorem masterWrite_done (hs : served s = true) (he : findEntry s index sub = .ok e)
    (hc : writeCode s e m.toNat sub code 0 (leBytes size v) false = 0) : masterWrite s m index sub code size v =
      let r := doWrite s e m.toNat sub 0 (leBytes size v)
      if r.1 = 0 ∧ e.acc ≠ .rw ∧ r.2.aon.holder.toNat = m.toNat then renewLease r.2 else r.2 := by
  unfold masterWrite writeEntry
  rw [he]
  simp only [hs, hc, ne_eq, not_true_eq_false, if_false, if_true]

/-- What a write of the holder does: it acts on the machine and, where it succeeds under the same holder, renews the lease. -/
theorem masterWrite_holder (he : findEntry s index sub = .ok e) (hp : plainScalar e .rws code size = true) (hix : e.index = index)
    (hw : HolderWrites s m) (hv : v < 256 ^ size) (hok : scalarOk index sub v = true) : masterWrite s m index sub code size v =
      let r := writeScalar s m.toNat index sub v
      if r.1 = 0 ∧ r.2.aon.holder.toNat = m.toNat then renewLease r.2 else r.2 := by
  obtain ⟨⟨hs, hm⟩, hh⟩ := hw
  have hacc : e.acc ≠ .rw := by
    simp only [plainScalar, Bool.and_eq_true, decide_eq_true_eq] at hp
    rw [hp.1.1.1.1.1.1]
    decide
  have hc : writeCode s e m.toNat sub code 0 (leBytes size v) false = 0 := by
    rw [writeCode_plain hp (.inr rfl) hv, if_neg (fun h => h hm), if_neg (fun h => h.2 hh), hix, hok]
    rfl
  rw [masterWrite_done hs he hc, doWrite_plain hp hv, hix]
  simp only [hacc, ne_eq, not_false_eq_true, true_and]

theorem masterWrite_notHolder (he : findEntry s index sub = .ok e) (hp : plainScalar e .rws code size = true) (hv : v < 256 ^ size)
    (hw : ¬ HolderWrites s m) : masterWrite s m index sub code size v = s := by
  refine masterWrite_refused fun hs => ⟨e, he, ?_⟩
  rw [writeCode_plain hp (.inr rfl) hv]
  split
  · decide
  split
  · decide
  · next hm hh => exact absurd ⟨⟨hs, not_not.mp hm⟩, not_not.mp fun h => hh ⟨rfl, h⟩⟩ hw

/-- A write of an entry that needs no semaphore. -/
theorem masterWrite_open (he : findEntry s index sub = .ok e) (hp : plainScalar e .rw code size = true) (hix : e.index = index)
    (hw : MasterWrites s m) (hv : v < 256 ^ size) (hok : scalarOk index sub v = true) :
    masterWrite s m index sub code size v = (writeScalar s m.toNat index sub v).2 := by
  obtain ⟨hs, hm⟩ := hw
  have hacc : e.acc = .rw := by
    simp only [plainScalar, Bool.and_eq_true, decide_eq_true_eq] at hp
    exact hp.1.1.1.1.1.1
  have hc : writeCode s e m.toNat sub code 0 (leBytes size v) false = 0 := by
    rw [writeCode_plain hp (.inl rfl) hv, if_neg (fun h => h hm), if_neg (fun h => nomatch h.1), hix, hok]
    rfl
  rw [masterWrite_done hs he hc, doWrite_plain hp hv, hix]
  simp [hacc]

theorem masterWrite_notMaster (he : findEntry s index sub = .ok e) (hp : plainScalar e .rw code size = true) (hv : v < 256 ^ size)
    (hw : ¬ MasterWrites s m) : masterWrite s m index sub code size v = s := by
  refine masterWrite_refused fun hs => ⟨e, he, ?_⟩
  rw [writeCode_plain hp (.inl rfl) hv]
  split
  · decide
  · next hm => exact absurd ⟨hs, not_not.mp hm⟩ hw

end

theorem findEntry_semaphore (s : State) : findEntry s 0x1100 2 = .ok (sc 0x1100 2 2 tU8 .rw) :=
  findEntry_of (by decide) (l := [sc 0x1100 1 1 tU8 .ro, sc 0x1100 2 2 tU8 .rw, sc 0x1100 3 3 tU8 .rws, sc 0x1100 4 4 tU32 .ro])
    (by decide) rfl (by decide)

theorem findEntry_window (s : State) : findEntry s 0x1101 2 = .ok (sc 0x1101 2 3 tU8 .rws) :=
  findEntry_of (by decide) (l := [sc 0x1101 1 1 tBool .ro, sc 0x1101 2 3 tU8 .rws, sc 0x1101 4 4 tU32 .ro])
    (by decide) rfl (by decide)

theorem writeScalar_window (s : State) (m v : Nat) : writeScalar s m 0x1101 2 v = writeWindow s v := rfl

/-- What a management master's write of the semaphore does. -/
theorem masterWrite_semaphore {m : U8} {v : Nat} (hv : v < 256) (hw : MasterWrites s m) :
    masterWrite s m 0x1100 2 tU8 1 v = (writeAcquire s m.toNat v).2 :=
  masterWrite_open (findEntry_semaphore s) (by decide) rfl hw hv rfl

theorem writeAcquire_other {m : U8} (h : s.aon.holder ≠ 0 ∧ s.aon.holder ≠ m) (v : Nat) : (writeAcquire s m.toNat v).2 = s := by
  have hh : s.aon.holder.toNat ≠ 0 ∧ s.aon.holder.toNat ≠ m.toNat :=
    ⟨fun h0 => h.1 (BitVec.eq_of_toNat_eq h0), fun hm => h.2 (BitVec.eq_of_toNat_eq hm)⟩
  unfold writeAcquire
  simp only [if_pos hh]
  split <;> rfl

theorem masterWrite_semaphore_refused {m : U8} {v : Nat} (hv : v < 256)
    (h : served s = false ∨ (m ≠ 1 ∧ m ≠ 2) ∨ (s.aon.holder ≠ 0 ∧ s.aon.holder ≠ m)) : masterWrite s m 0x1100 2 tU8 1 v = s := by
  by_cases hw : MasterWrites s m
  · rw [masterWrite_semaphore hv hw]
    obtain h | h | h := h
    · exact absurd (hw.1.symm.trans h) (by decide)
    · exact absurd hw.2 (not_or.mpr h)
    · exact writeAcquire_other h v
  · exact masterWrite_notMaster (findEntry_semaphore s) (by decide) hv hw

/-- A successful write of the presence window by the holder. -/
theorem masterWrite_window {m : U8} {v : Nat} (hv : v ≤ 1) (hw : HolderWrites s m) {t : State} (ht : writeWindow s v = (0, t))
    (hh : t.aon.holder = s.aon.holder) : masterWrite s m 0x1101 2 tU8 1 v = renewLease t := by
  have hok : scalarOk 0x1101 2 v = true := by
    show (decide (0 ≤ v) && decide (v ≤ 1)) = true
    simp [hv]
  rw [masterWrite_holder (findEntry_window s) (by decide) rfl hw (by omega) hok, writeScalar_window, ht]
  exact if_pos ⟨rfl, by rw [hh, hw.2]⟩

/-- Settles O55: by the holder, the lease and the presence pin. -/
theorem semaphoreAndWindowGuardConfiguration : Obligations.SemaphoreAndWindowGuardConfiguration := by
  unfold Obligations.SemaphoreAndWindowGuardConfiguration
  refine ⟨?_, ?_, ?_, ?_, ?_, ?_, ?_, ?_, ?_, ?_⟩
  · intro s m hw hfree
    refine congrArg Host.Outcome.next ((masterWrite_semaphore m.isLt hw).trans ?_)
    have hlist : ¬ (m.toNat ≠ 0 ∧ m.toNat ≠ 1 ∧ m.toNat ≠ 2) := fun h => notMaster_iff.mp h.2 hw.2
    have hmine : ¬ (s.aon.holder.toNat ≠ 0 ∧ s.aon.holder.toNat ≠ m.toNat) := fun ⟨h0, hm⟩ => by
      obtain h | h := hfree
      · exact h0 (by rw [h]; rfl)
      · exact hm (by rw [h])
    simp only [writeAcquire, if_neg hlist, if_neg hmine, if_true, BitVec.ofNat_toNat, BitVec.setWidth_eq]
    rfl
  · intro s m i h
    exact ⟨congrArg Host.Outcome.next (masterWrite_semaphore_refused i.isLt h),
      congrArg Host.Outcome.next (masterWrite_semaphore_refused (by decide) h)⟩
  · intro s m hw
    refine congrArg Host.Outcome.next ((masterWrite_semaphore (by decide) hw.1).trans ?_)
    have h0 : m.toNat ≠ 0 := by
      obtain h | h := hw.1.2 <;> rw [h] <;> decide
    simp only [writeAcquire, hw.2, if_neg h0, if_neg h0.symm, ne_eq, not_true_eq_false, false_and, and_false, if_false]
    rfl
  · intro s hh hl
    exact congrArg Host.Outcome.next (if_pos ⟨hh, hl⟩)
  · intro s h
    refine congrArg Host.Outcome.next (if_neg fun ⟨hh, hl⟩ => ?_)
    exact h.elim hh fun h => h hl
  · intro s m hw hp
    cases hwin : s.aon.window with
    | true =>
      have ht : writeWindow s 1 = (0, s) := by simp [writeWindow, hp, hwin]
      refine congrArg Host.Outcome.next ((masterWrite_window (by decide) hw ht rfl).trans ?_)
      simp [renewLease, ← hwin]
    | false =>
      have ht : writeWindow s 1 = (0, { s with aon := { s.aon with window := true, windowLeft := setting s 0x1101 3 * Config.cyclesPerSecond } }) := by
        simp [writeWindow, hp, hwin]
      exact congrArg Host.Outcome.next (masterWrite_window (by decide) hw ht rfl)
  · intro s m h
    refine congrArg Host.Outcome.next ?_
    by_cases hw : HolderWrites s m
    · have hp : s.aon.presence = false := h.resolve_right fun k => k hw
      have ht : writeWindow s 1 = (0x08000022, s) := by simp [writeWindow, hp]
      rw [masterWrite_holder (findEntry_window s) (by decide) rfl hw (by decide) rfl, writeScalar_window, ht]
      rfl
    · exact masterWrite_notHolder (findEntry_window s) (by decide) (by decide) hw
  · intro s m hw
    exact congrArg Host.Outcome.next (masterWrite_window (v := 0) (by decide) hw rfl rfl)
  · intro s hh hl
    exact congrArg Host.Outcome.next (if_pos ⟨hh, hl⟩)
  · intro s h
    refine congrArg Host.Outcome.next (if_neg fun ⟨hh, hl⟩ => ?_)
    obtain h | h := h
    · exact absurd (hh.symm.trans h) (by decide)
    · exact h hl

end Sys2Proof.Machine

/-! ### Writes of single entries (R263, R354, R389, R390, R427, R433, R469, R472) -/

namespace Sys2Proof.Machine

variable {s t u : State}

theorem findEntry_date (s : State) : findEntry s 0x1400 1 = .ok (sc 0x1400 1 1 tDate .rws) :=
  findEntry_of (by decide) (l := [sc 0x1400 1 1 tDate .rws, sc 0x1400 2 2 tBool .ro]) (by decide) rfl (by decide)

theorem findEntry_acknowledged (s : State) : findEntry s 0x6030 4 = .ok (sc 0x6030 4 4 tU64 .rw) :=
  findEntry_of (by decide) (l := [sc 0x6030 1 1 tU64 .ro, dm 0x6030 2 2 32768 .ro, sc 0x6030 3 3 tU64 .ro, sc 0x6030 4 4 tU64 .rw])
    (by decide) rfl (by decide)

/-- An index with one entry. -/
theorem findEntry_single {index sub : Nat} {e : Entry} (hr : ¬ (0x8000 ≤ index ∧ index ≤ 0xEFFF))
    (hl : dictEntries.filter (fun e => decide (e.index = index)) = [e]) (hi : e.hi ≠ 0) (h1 : 1 ≤ sub) (hlo : e.lo ≤ sub)
    (hhi : sub ≤ e.hi) : findEntry s index sub = .ok e := by
  refine findEntry_of hr hl ?_ h1
  simp [Entry.top, hi, hlo, hhi]

theorem findEntry_target {b : Nat} (h1 : 1 ≤ b) (h : b ≤ 64) : findEntry s 0x341D b = .ok (sc 0x341D 1 64 tU8 .rws) :=
  findEntry_single (by decide) (by decide) (by decide) h1 h1 h

theorem findEntry_portEnable {p : Nat} (h : p < 12) : findEntry s 0x4104 (p + 1) = .ok (sc 0x4104 1 12 tBool .rws) :=
  findEntry_single (by decide) (by decide) (by decide) (by omega) (Nat.le_add_left ..) h

theorem findEntry_power {n : Nat} (h : n < 16) : findEntry s 0x2014 (n + 1) = .ok (sc 0x2014 1 16 tU8 .rws) :=
  findEntry_single (by decide) (by decide) (by decide) (by omega) (Nat.le_add_left ..) h

theorem findEntry_managed {n : Nat} (h : n < 16) : findEntry s 0x2104 (n + 1) = .ok (sc 0x2104 1 22 tBool .rws) :=
  findEntry_single (by decide) (by decide) (by decide) (by omega) (Nat.le_add_left ..) (show n + 1 ≤ 22 by omega)

theorem findEntry_restore {b : Nat} (h1 : 1 ≤ b) (h : b ≤ 64) : findEntry s 0x6022 b = .ok (sc 0x6022 1 64 tU8 .rws) :=
  findEntry_single (by decide) (by decide) (by decide) h1 h1 h

section
variable {e : Entry} {m : U8} {index sub code size v : Nat}

theorem masterWrite_holder_done (he : findEntry s index sub = .ok e) (hp : plainScalar e .rws code size = true) (hix : e.index = index)
    (hw : HolderWrites s m) (hv : v < 256 ^ size) (hok : scalarOk index sub v = true) (ht : writeScalar s m.toNat index sub v = (0, t))
    (hh : t.aon.holder = s.aon.holder) : masterWrite s m index sub code size v = renewLease t := by
  rw [masterWrite_holder he hp hix hw hv hok, ht]
  exact if_pos ⟨rfl, by rw [hh, hw.2]⟩

theorem masterWrite_holder_fails (he : findEntry s index sub = .ok e) (hp : plainScalar e .rws code size = true) (hix : e.index = index)
    (hw : HolderWrites s m) (hv : v < 256 ^ size) (hok : scalarOk index sub v = true)
    {c : Nat} (ht : writeScalar s m.toNat index sub v = (c, s)) (hc : c ≠ 0) : masterWrite s m index sub code size v = s := by
  rw [masterWrite_holder he hp hix hw hv hok, ht]
  exact if_neg fun h => hc h.1

end

theorem setting_putSetting (s : State) (i j v : Nat) : setting (putSetting s i j v) i j = v := smGet_smSet_same ..

/-! #### The date -/

theorem dateFits_dateBytes {d : Date} (hd : dateOfBytes (dateBytes d) = d) : dateFits (dateBytes d) = dateOk d := by
  have h0 : ofLe (slice (dateBytes d) 7 1) = 0 := rfl
  rw [dateFits, h0, hd]
  rfl

theorem writeCode_date {m : U8} {d : Date} (hd : dateOfBytes (dateBytes d) = d) :
    writeCode s (sc 0x1400 1 1 tDate .rws) m.toNat 1 tDate 0 (dateBytes d) false =
      if ¬ (m = 1 ∨ m = 2) then 0x08000026 else if s.aon.holder ≠ m then 0x08000021 else if !dateOk d then 0x06090030 else 0 := by
  have hval : valueFits s (sc 0x1400 1 1 tDate .rws) 1 0 (dateBytes d) = dateOk d := dateFits_dateBytes hd
  have hfits : writeFits (sc 0x1400 1 1 tDate .rws) tDate 0 (dateBytes d) = true := rfl
  have hacc : (sc 0x1400 1 1 tDate .rws).acc = .rws := rfl
  have hix : (sc 0x1400 1 1 tDate .rws).index = 0x1400 := rfl
  unfold writeCode
  simp [hval, hfits, hacc, hix, notMaster_iff, BitVec.toNat_inj]

theorem writeEntry_date_done {m : U8} {d : Date} (hw : HolderWrites s m) (hp : s.ctl.ptpState ≠ 2) (hok : dateOk d = true)
    (hd : dateOfBytes (dateBytes d) = d) : (writeEntry s m.toNat 0x1400 1 tDate 0 (dateBytes d) false).2 =
      renewLease { s with aon := { s.aon with calendar := 8 * dateNs d, calValid := true, calStopped := false } } := by
  have hc : writeCode s (sc 0x1400 1 1 tDate .rws) m.toNat 1 tDate 0 (dateBytes d) false = 0 := by
    rw [writeCode_date hd, if_neg (fun h => h hw.1.2), if_neg (fun h => h hw.2), hok]
    rfl
  have hset : setCalendar s d = (0, { s with aon := { s.aon with calendar := 8 * dateNs d, calValid := true, calStopped := false } }) := by
    unfold setCalendar
    rw [if_neg hp, hok]
    rfl
  have hdo : doWrite s (sc 0x1400 1 1 tDate .rws) m.toNat 1 0 (dateBytes d) = setCalendar s d := by
    rw [← congrArg (setCalendar s) hd]
    rfl
  unfold writeEntry
  rw [findEntry_date]
  simp only [hc, hdo, hset, ne_eq, not_true_eq_false, if_false, if_true]
  exact if_pos ⟨trivial, by decide, by rw [hw.2]⟩

theorem writeEntry_date_refused {m : U8} {d : Date} (hs : served s = true) (hd : dateOfBytes (dateBytes d) = d)
    (h : s.ctl.ptpState = 2 ∨ dateOk d = false ∨ ¬ HolderWrites s m) : (writeEntry s m.toNat 0x1400 1 tDate 0 (dateBytes d) false).2 = s := by
  unfold writeEntry
  rw [findEntry_date]
  dsimp only
  rw [writeCode_date hd]
  by_cases hm : m = 1 ∨ m = 2
  · rw [if_neg (not_not.mpr hm)]
    by_cases hh : s.aon.holder = m
    · rw [if_neg (not_not.mpr hh)]
      cases hok : dateOk d with
      | false => rfl
      | true =>
        have hp : s.ctl.ptpState = 2 := by
          obtain h | h | h := h
          · exact h
          · exact absurd (hok.symm.trans h) (by decide)
          · exact absurd ⟨⟨hs, hm⟩, hh⟩ h
        have hdo : doWrite s (sc 0x1400 1 1 tDate .rws) m.toNat 1 0 (dateBytes d) = (0x08000025, s) := by
          have hset : setCalendar s (dateOfBytes (dateBytes d)) = (0x08000025, s) := if_pos hp
          exact hset
        rw [hdo]
        rfl
    · rw [if_pos hh]
      rfl
  · rw [if_pos hm]
    rfl

/-! #### The units that entries act on -/

theorem onSlot_of {n b : Nat} (h1 : 1 ≤ b) (h : b ≤ n) (t : State) : onSlot n b t = .next t := if_pos ⟨h1, h⟩

theorem modPort_state {i a : Nat} {f : Port → Port} (hf : ∀ q, (f q).state = q.state) :
    ((s.modPort a f).port i).state = (s.port i).state := by
  rw [State.modPort_port]
  split
  · next h => rw [hf, h]
  · rfl

theorem port_noRoute (s : State) (n : U64) (i : Nat) : ({ s with links := { s.links with noRoute := n } } : State).port i = s.port i := rfl

theorem moveFrames_state (s : State) (p i : Nat) : ((moveFrames s p).port i).state = (s.port i).state := by
  unfold moveFrames
  dsimp only
  rw [port_noRoute, modPort_state, foldl_keeps (fun u : State => (u.port i).state), foldl_keeps (fun u : State => (u.port i).state)]
  · intro u f
    split
    · exact modPort_state fun _ => rfl
    · rfl
  · intro u f
    split
    · exact modPort_state fun _ => rfl
    · rfl
  · exact fun _ => rfl

theorem takeDown_state (s : State) (p : Nat) (st : U8) : ((takeDown s p st).port p).state = st := by
  unfold takeDown
  dsimp only
  rw [moveFrames_state]
  simp only [raisePort, State.port, raiseS_links]
  show ((State.modPort s p _).port p).state = st
  rw [State.modPort_port_same]

theorem takeDown_raises (s : State) (p : Nat) (st : U8) : EventRaised s (takeDown s p st) 0x4103 (p + 1) 2 (stokerId s) p := by
  have h := raiseS_event_of (t := s.modPort p fun q =>
    { q with state := st, missedRun := 0, nakSent := false, nakDue := false, trainOk := 0, lastTrain := none }) s rfl rfl rfl 0x4103 (p + 1) 2 p
  unfold EventRaised at *
  unfold takeDown raisePort
  simpa only [moveFrames_rest] using h

/-- The slot of a bake that has been given a rectangle to move to. -/
theorem writeScalar_target {b n m : Nat} (h0 : (s.bake b).state ≠ 0) (h1 : (s.bake b).state ≠ 1) (hm : (s.bake b).migTo = 0)
    (hok : targetOk s b n = true) : writeScalar s m 0x341D b n = (0, s.modBake b fun q => { q with
      migTo := BitVec.ofNat 8 n, migDrain := decide (boundaryOf s b 0 = 1), state := if q.state = 2 then 6 else q.state }) := by
  have hgo : ¬ ((s.bake b).state = 0 ∨ (s.bake b).state = 1 ∨ (s.bake b).migTo ≠ 0 ∨ targetOk s b n = false) := by
    rw [hok]
    rintro (h | h | h | h)
    · exact h0 h
    · exact h1 h
    · exact h hm
    · exact Bool.noConfusion h
  show writeTarget s b n = _
  unfold writeTarget startMigration
  simp only [if_neg hgo]

theorem writeScalar_target_fails {b n m : Nat} (h : targetOk s b n = false ∨ (s.bake b).migTo ≠ 0) :
    writeScalar s m 0x341D b n = (0x08000024, s) := by
  have hno : (s.bake b).state = 0 ∨ (s.bake b).state = 1 ∨ (s.bake b).migTo ≠ 0 ∨ targetOk s b n = false := by tauto
  show writeTarget s b n = _
  unfold writeTarget startMigration
  simp only [if_pos hno]

theorem takeDown_aonKept (s : State) (p : Nat) (st : U8) : AonKept s (takeDown s p st) := by
  have h := raiseS_kept_of (t := s.modPort p fun q =>
    { q with state := st, missedRun := 0, nakSent := false, nakDue := false, trainOk := 0, lastTrain := none }) s rfl 0x4103 (p + 1) 2 p
  unfold AonKept at *
  unfold takeDown raisePort
  simpa only [moveFrames_rest] using h

/-- A port that its entry lets train again. -/
theorem setPortEnable_on {p : Nat} (h : (s.port p).state = 6) :
    setPortEnable s p true = (putSetting s 0x4104 (p + 1) 1).modPort p fun q => { q with state := 0 } := by
  unfold setPortEnable
  simp only [if_true, if_pos h]

theorem setPortEnable_off {p : Nat} (h : (s.port p).state ≠ 2) :
    setPortEnable s p false = (putSetting s 0x4104 (p + 1) 0).modPort p fun q => { q with state := 6, trainOk := 0, lastTrain := none } := by
  unfold setPortEnable
  simp only [Bool.false_eq_true, if_false, if_neg h]

theorem setPortEnable_off_up {p : Nat} (h : (s.port p).state = 2) :
    setPortEnable s p false = takeDown (putSetting s 0x4104 (p + 1) 0) p 6 := by
  unfold setPortEnable
  simp only [Bool.false_eq_true, if_false, if_pos h]

/-- A hearth switched off. -/
def offHearth (frozen : Bool) (h : Hearth) : Hearth :=
  { h with state := 2, clamped := true, power := false, damper := false, stepTo := none, stopTo := none, frozen := frozen, restartAt := none }

/-- A hearth switched on at the voltage `v`. -/
def onHearth (v : Nat) (h : Hearth) : Hearth :=
  { h with state := 0, clamped := false, power := true, damper := true, fixedRun := true, margin := 600, freq := 600, setMv := v }

def switchedOff (s : State) (n : Nat) : State :=
  setStop ((withHearth (loseScratch (putSetting s 0x2014 (n + 1) 1) (hearthCores s n)) n (offHearth s.aon.thermTrip)).modRail (n + 1)
    fun r => { r with state := 1 }) n true

def switchedOn (s : State) (n : Nat) : State :=
  setStop ((withHearth (putSetting s 0x2014 (n + 1) 0) n (onHearth (voltOf s n 600))).modRail (n + 1)
    fun r => { r with state := 0, setMv := voltOf s n 600 }) n false

theorem setPower_off {n : Nat} (h2 : (s.hearth n).state ≠ 2) (h3 : (s.hearth n).state ≠ 3) (hf : transitFree s n = true) :
    setPower s n 1 = (0, switchedOff s n) := by
  have hno : ¬ (!transitFree s n || decide ((s.hearth n).state = 3)) = true := by
    rw [hf, decide_eq_false h3]
    exact Bool.false_ne_true
  exact (if_pos ⟨rfl, h2⟩).trans (if_neg hno)

theorem setPower_off_waits {n : Nat} (h : (s.hearth n).state = 3 ∨ (transitFree s n = false ∧ (s.hearth n).state ≠ 2)) :
    setPower s n 1 = (0x08000028, s) := by
  have h2 : (s.hearth n).state ≠ 2 := by
    obtain h | h := h
    · rw [h]
      decide
    · exact h.2
  have hno : (!transitFree s n || decide ((s.hearth n).state = 3)) = true := by
    obtain h | h := h
    · rw [decide_eq_true h, Bool.or_true]
    · rw [h.1]
      rfl
  exact (if_pos ⟨rfl, h2⟩).trans (if_pos hno)

theorem setPower_on {n : Nat} (h2 : (s.hearth n).state = 2) : setPower s n 0 = (0, switchedOn s n) := by
  have hno : ¬ (0 = 1 ∧ (s.hearth n).state ≠ 2) := fun h => by omega
  show (if 0 = 1 ∧ (s.hearth n).state ≠ 2 then (if !transitFree s n || decide ((s.hearth n).state = 3) then (0x08000028, s) else (0, switchedOff s n)) else if 0 = 0 ∧ (s.hearth n).state = 2 then (0, switchedOn s n) else (0, s)) = _
  rw [if_neg hno, if_pos ⟨rfl, h2⟩]

theorem setStop_rail (s : State) (n i : Nat) (b : Bool) : (setStop s n b).rail i = s.rail i := rfl

/-- A hearth whose power has been switched, its clock stopped or started. -/
theorem switched_hearth (n r : Nat) (f : Hearth → Hearth) (g : Rail → Rail) (b : Bool) :
    (setStop ((withHearth s n f).modRail r g) n b).hearth n = { (withHearth s n f).hearth n with stopBit := b } := by
  rw [setStop_hearth_same, State.modRail_hearth]

theorem switched_rail (n : Nat) (f : Hearth → Hearth) (g : Rail → Rail) (b : Bool) :
    (setStop ((withHearth s n f).modRail (n + 1) g) n b).rail (n + 1) = g (s.rail (n + 1)) := by
  rw [setStop_rail, withHearth_modRail_rail]

theorem switchedOff_hearth (s : State) (n : Nat) : ((switchedOff s n).hearth n).state = 2 ∧ ((switchedOff s n).hearth n).clamped = true ∧
    ((switchedOff s n).hearth n).power = false ∧ ((switchedOff s n).hearth n).damper = false ∧ ((switchedOff s n).hearth n).stopBit = true := by
  rw [switchedOff, switched_hearth]
  simp [offHearth, withHearth_hearth_state, withHearth_hearth_clamped, withHearth_hearth_power, withHearth_hearth_damper]

theorem switchedOff_rail (s : State) (n : Nat) : ((switchedOff s n).rail (n + 1)).state = 1 := by
  rw [switchedOff, switched_rail]

theorem switchedOff_ctl (s : State) (n : Nat) : (switchedOff s n).ctl = (putSetting s 0x2014 (n + 1) 1).ctl := by
  unfold switchedOff
  simp

theorem switchedOff_frame (s : State) (n : Nat) : switchedOff s n = { s with
    hearths := (switchedOff s n).hearths, rails := (switchedOff s n).rails, cores := (switchedOff s n).cores
    flue := (switchedOff s n).flue, ctl := (switchedOff s n).ctl } := by
  rw [state_eq_iff]
  unfold switchedOff
  simp

theorem switchedOn_hearth (s : State) (n : Nat) : ((switchedOn s n).hearth n).state = 0 ∧ ((switchedOn s n).hearth n).freq = 600 ∧
    ((switchedOn s n).hearth n).clamped = false ∧ ((switchedOn s n).hearth n).power = true ∧ ((switchedOn s n).hearth n).stopBit = false := by
  rw [switchedOn, switched_hearth]
  simp [onHearth, withHearth_hearth_state, withHearth_hearth_freq, withHearth_hearth_clamped, withHearth_hearth_power]

theorem switchedOn_rail (s : State) (n : Nat) :
    (switchedOn s n).rail (n + 1) = { s.rail (n + 1) with state := 0, setMv := voltOf s n 600 } := by
  rw [switchedOn, switched_rail]
  rfl

theorem switchedOn_ctl (s : State) (n : Nat) : (switchedOn s n).ctl = (putSetting s 0x2014 (n + 1) 0).ctl := by
  unfold switchedOn
  simp

theorem switchedOn_frame (s : State) (n : Nat) : switchedOn s n = { s with
    hearths := (switchedOn s n).hearths, rails := (switchedOn s n).rails, cores := (switchedOn s n).cores
    flue := (switchedOn s n).flue, ctl := (switchedOn s n).ctl } := by
  rw [state_eq_iff]
  unfold switchedOn
  simp

theorem setting_of_ctl {a b : State} (hc : a.ctl = b.ctl) (hf : a.fuse = b.fuse) (i j : Nat) : setting a i j = setting b i j := by
  unfold setting
  rw [hc, hf]

/-- A rail that goes back to managed operation. -/
def managedAgain (s : State) (n : Nat) : State :=
  (withHearth s n fun h => { h with state := 0, safeLim := 2000 }).modRail (n + 1) fun r => { r with state := 0 }

theorem writeScalar_managed {m n : Nat} (hn : n < 16) (hv : (s.rail (n + 1)).valid = true) (h5 : (s.hearth n).state = 5) :
    writeScalar s m 0x2104 (n + 1) 1 = (0, managedAgain s n) := by
  have hno : ¬ (!(s.rail (n + 1)).valid) = true := by
    rw [hv]
    exact Bool.false_ne_true
  have h : returnManaged s n = (0, managedAgain s n) := (if_neg hno).trans (if_pos ⟨hn, h5⟩)
  exact h

theorem writeScalar_managed_fails {m n : Nat} (hv : (s.rail (n + 1)).valid = false) :
    writeScalar s m 0x2104 (n + 1) 1 = (0x06090030, s) := by
  have h : returnManaged s n = (0x06090030, s) := if_pos (by rw [hv]; rfl)
  exact h

theorem managedAgain_hearth (s : State) (n : Nat) :
    ((managedAgain s n).hearth n).state = 0 ∧ ((managedAgain s n).hearth n).safeLim = 2000 := by
  rw [managedAgain, State.modRail_hearth]
  simp [withHearth_hearth_state, withHearth_hearth_safeLim]

theorem takeEpoch_bake (s : State) (b : Nat) : (takeEpoch s).2.bake b = s.bake b := rfl

theorem takeEpoch_fst (s : State) : (takeEpoch s).1 = nextEpoch s.baker.epoch := rfl

/-- A bake that starts again under a new epoch, its synchronisation objects set anew. -/
theorem rebound_bake {b n : Nat} {e : U32} {f : Bake → Bake} (h : t.baker = s.baker) :
    (rebind (initSyncs (writeEpoch ((takeEpoch t).2.modBake b f) n e) b) b).bake b = f (s.bake b) := by
  have hb : (rebind (initSyncs (writeEpoch ((takeEpoch t).2.modBake b f) n e) b) b).baker = ((takeEpoch t).2.modBake b f).baker := by
    simp
  rw [State.bake, hb]
  show ((takeEpoch t).2.modBake b f).bake b = _
  rw [State.modBake_bake_same, takeEpoch_bake, State.bake, State.bake, h]

/-- A state whose tensors and scales of a bake have been read back from a bank. -/
def readBack (s : State) (b : Nat) (x : Bank) (a : Bool) : State :=
  let t := (bankTensors (s.bake b)).foldl
    (fun u j => copyBytes u b (tnSize (tensorRow (s.bake b) j)) (bankSide (s.bake b) a j) (tensorSide (s.bake b) j false)) s
  (bakeInsts (s.bake b)).foldl
    (fun u e => (x.hists.filter fun h => decide (h.1 / 16 = e.1)).foldl
      (fun u h => u.modCore e.2.1 fun q => q.modLive fun l => l.modSlot (h.1 % 16) fun g => { g with hist := h.2.1, scale := h.2.2 }) u) t

theorem readBack_baker (s : State) (b : Nat) (x : Bank) (a : Bool) : (readBack s b x a).baker = s.baker := by
  unfold readBack
  simp -implicitDefEqProofs

/-- The slot of a restored bake. -/
def restored (x : Bank) (e : U32) (q : Bake) : Bake :=
  { q with committed := x.steps, epoch := e, state := 2, noRoute := false, triggers := [], losses := 0 }

/-- What a restore does. -/
theorem restoreBank_done {b a : Nat} (ha : a = 1 ∨ a = 2) (h7 : (s.bake b).state = 7) (hi : bakeItems s b = [])
    (hbank : 2 ≤ (bankOf' (s.bake b) (decide (a = 2))).state.toNat) : ∃ t, restoreBank s b a = (0, t) ∧ 
    t.bake b = restored (bankOf' (s.bake b) (decide (a = 2))) (nextEpoch s.baker.epoch) (s.bake b) := by
  have hno : ¬ (!(decide (a = 1) || decide (a = 2)) || decide ((s.bake b).state ≠ 7) || !(bakeItems s b).isEmpty ||
      decide ((bankOf' (s.bake b) (decide (a = 2))).state.toNat < 2)) = true := by
    have ha' : (decide (a = 1) || decide (a = 2)) = true := by
      obtain h | h := ha <;> simp [h]
    rw [ha', h7, hi, decide_eq_false (Nat.not_lt.mpr hbank)]
    decide
  have hb := readBack_baker s b (bankOf' (s.bake b) (decide (a = 2))) (decide (a = 2))
  refine ⟨_, if_neg hno, ?_⟩
  refine (rebound_bake (f := restored (bankOf' (s.bake b) (decide (a = 2))) _) hb).trans ?_
  show restored _ (nextEpoch (readBack s b (bankOf' (s.bake b) (decide (a = 2))) (decide (a = 2))).baker.epoch) _ = _
  rw [hb]

theorem restoreBank_fails {b a : Nat} (h : (a ≠ 1 ∧ a ≠ 2) ∨ (s.bake b).state ≠ 7 ∨ bakeItems s b ≠ []) :
    restoreBank s b a = (0x06090030, s) := by
  refine if_pos ?_
  obtain ⟨h1, h2⟩ | h | h := h
  · simp [h1, h2]
  · rw [decide_eq_true h]
    simp
  · have hi : (bakeItems s b).isEmpty = false := by simpa using h
    simp [hi]

theorem writeScalar_acknowledge (s : State) (m : Nat) (q : U64) : writeScalar s m 0x6030 4 q.toNat = acknowledge s q := by
  show acknowledge s (BitVec.ofNat 64 q.toNat) = _
  rw [BitVec.ofNat_toNat, BitVec.setWidth_eq]

/-- Settles O58: each entry written, which the test of the holder lets through and which renews the lease. -/
theorem entryWritesActOnTheMachine : Obligations.EntryWritesActOnTheMachine := by
  unfold Obligations.EntryWritesActOnTheMachine
  refine ⟨?_, ?_, ?_, ?_, ?_, ?_, ?_, ?_, ?_, ?_, ?_, ?_, ?_, ?_, ?_, ?_⟩
  · intro s m d hw hp hok hd
    have hgo : (served s && decide (dateOfBytes (dateBytes d) = d)) = true := by simp [hw.1.1, hd]
    exact congrArg Host.Outcome.next ((if_pos hgo).trans (writeEntry_date_done hw hp hok hd))
  · intro s m d h
    refine congrArg Host.Outcome.next (ite_eq_right_iff.mpr fun hgo => ?_)
    simp only [Bool.and_eq_true, decide_eq_true_eq] at hgo
    exact writeEntry_date_refused hgo.1 hgo.2 h
  · intro s m b n h1 h64 hw h0 hb1 hmig hn hok
    have hx : exec (.migrationTarget m b n) s = .next (masterWrite s m 0x341D b tU8 1 n) := (onSlot_of h1 h64 _).trans (by rw [if_pos hn])
    rw [masterWrite_holder_done (findEntry_target h1 h64) (by decide) rfl hw hn rfl (writeScalar_target h0 hb1 hmig hok) rfl] at hx
    exact ⟨_, hx, State.modBake_bake_same .., rfl⟩
  · intro s m b n h1 h64 h
    refine (onSlot_of h1 h64 _).trans (congrArg Host.Outcome.next (ite_eq_right_iff.mpr fun hn => ?_))
    by_cases hw : HolderWrites s m
    · have ht := writeScalar_target_fails (m := m.toNat) (h.resolve_left fun k => k hw)
      exact masterWrite_holder_fails (findEntry_target h1 h64) (by decide) rfl hw hn rfl ht (by decide)
    · exact masterWrite_notHolder (findEntry_target h1 h64) (by decide) hn hw
  · intro s m p hw h6
    have hx : exec (.portEnable m p true) s = .next (masterWrite s m 0x4104 (p.val + 1) tBool 1 1) := rfl
    have ht : writeScalar s m.toNat 0x4104 (p.val + 1) 1 = (0, setPortEnable s p true) := rfl
    rw [setPortEnable_on h6] at ht
    rw [masterWrite_holder_done (findEntry_portEnable p.isLt) (by decide) rfl hw (by decide) rfl ht rfl] at hx
    exact ⟨_, hx, State.modPort_port_same .., setting_putSetting s 0x4104 (p.val + 1) 1, rfl⟩
  · intro s m p hw h2
    have hx : exec (.portEnable m p false) s = .next (masterWrite s m 0x4104 (p.val + 1) tBool 1 0) := rfl
    have ht : writeScalar s m.toNat 0x4104 (p.val + 1) 0 = (0, setPortEnable s p false) := rfl
    rw [setPortEnable_off h2] at ht
    rw [masterWrite_holder_done (findEntry_portEnable p.isLt) (by decide) rfl hw (by decide) rfl ht rfl] at hx
    refine ⟨_, hx, ?_, setting_putSetting s 0x4104 (p.val + 1) 0, rfl⟩
    exact congrArg Port.state (State.modPort_port_same ..)
  · intro s m p hw h2
    have hx : exec (.portEnable m p false) s = .next (masterWrite s m 0x4104 (p.val + 1) tBool 1 0) := rfl
    have hdown := takeDown_raises (putSetting s 0x4104 (p.val + 1) 0) p 6
    have hst := takeDown_state (putSetting s 0x4104 (p.val + 1) 0) p 6
    have hctl : (takeDown (putSetting s 0x4104 (p.val + 1) 0) p 6).ctl = (putSetting s 0x4104 (p.val + 1) 0).ctl := by simp
    have hfuse : (takeDown (putSetting s 0x4104 (p.val + 1) 0) p 6).fuse = s.fuse := by simp
    have hho : (takeDown (putSetting s 0x4104 (p.val + 1) 0) p 6).aon.holder = s.aon.holder := by
      rw [takeDown_aonKept]
      rfl
    have ht : writeScalar s m.toNat 0x4104 (p.val + 1) 0 = (0, setPortEnable s p false) := rfl
    rw [setPortEnable_off_up h2] at ht
    generalize takeDown (putSetting s 0x4104 (p.val + 1) 0) p 6 = u at *
    rw [masterWrite_holder_done (findEntry_portEnable p.isLt) (by decide) rfl hw (by decide) rfl ht hho] at hx
    exact ⟨_, hx, hst, (setting_of_ctl (a := renewLease u) hctl hfuse _ _).trans (setting_putSetting s 0x4104 (p.val + 1) 0),
      eventRaised_iff_of (t := putSetting s 0x4104 (p.val + 1) 0) rfl rfl rfl rfl hdown⟩
  · intro s m n hw h2 h3 hfree
    have hx : exec (.switchOff m n) s = .next (masterWrite s m 0x2014 (n.val + 1) tU8 1 1) := rfl
    have ht : writeScalar s m.toNat 0x2014 (n.val + 1) 1 = (0, switchedOff s n) := setPower_off h2 h3 hfree
    have hf := switchedOff_frame s n
    have hctl := switchedOff_ctl s n
    have hrail := switchedOff_rail s n
    obtain ⟨hst, hcl, hpw, hda, hsb⟩ := switchedOff_hearth s n
    generalize switchedOff s n = u at *
    have hho : u.aon.holder = s.aon.holder := by rw [hf]
    have hfuse : u.fuse = s.fuse := by rw [hf]
    rw [masterWrite_holder_done (findEntry_power n.isLt) (by decide) rfl hw (by decide) rfl ht hho] at hx
    exact ⟨_, hx, hst, hcl, hpw, hda, hsb, hrail,
      (setting_of_ctl (a := renewLease u) hctl hfuse _ _).trans (setting_putSetting s 0x2014 (n.val + 1) 1), congrArg renewLease hf⟩
  · intro s m n h
    refine congrArg Host.Outcome.next ?_
    by_cases hw : HolderWrites s m
    · have ht : writeScalar s m.toNat 0x2014 (n.val + 1) 1 = (0x08000028, s) := setPower_off_waits (h.resolve_left fun k => k hw)
      exact masterWrite_holder_fails (findEntry_power n.isLt) (by decide) rfl hw (by decide) rfl ht (by decide)
    · exact masterWrite_notHolder (findEntry_power n.isLt) (by decide) (by decide) hw
  · intro s m n hw h2
    have hx : exec (.switchOn m n) s = .next (masterWrite s m 0x2014 (n.val + 1) tU8 1 0) := rfl
    have ht : writeScalar s m.toNat 0x2014 (n.val + 1) 0 = (0, switchedOn s n) := setPower_on h2
    have hf := switchedOn_frame s n
    have hctl := switchedOn_ctl s n
    have hrail := switchedOn_rail s n
    obtain ⟨hst, hfr, hcl, hpw, hsb⟩ := switchedOn_hearth s n
    generalize switchedOn s n = u at *
    have hho : u.aon.holder = s.aon.holder := by rw [hf]
    have hfuse : u.fuse = s.fuse := by rw [hf]
    rw [masterWrite_holder_done (findEntry_power n.isLt) (by decide) rfl hw (by decide) rfl ht hho] at hx
    exact ⟨_, hx, hst, hfr, hcl, hpw, hsb, hrail,
      (setting_of_ctl (a := renewLease u) hctl hfuse _ _).trans (setting_putSetting s 0x2014 (n.val + 1) 0), congrArg renewLease hf⟩
  · intro s m n hw hv h5
    have hx : exec (.returnToManaged m n) s = .next (masterWrite s m 0x2104 (n.val + 1) tBool 1 1) := rfl
    have ht := writeScalar_managed (m := m.toNat) n.isLt hv h5
    have hf : managedAgain s n = { s with hearths := (managedAgain s n).hearths, rails := (managedAgain s n).rails } :=
      withHearth_modRail_frame ..
    have hrail : (managedAgain s n).rail (n + 1) = { s.rail (n + 1) with state := 0 } := withHearth_modRail_rail ..
    obtain ⟨hst, hsl⟩ := managedAgain_hearth s n
    generalize managedAgain s n = u at *
    have hho : u.aon.holder = s.aon.holder := by rw [hf]
    rw [masterWrite_holder_done (findEntry_managed n.isLt) (by decide) rfl hw (by decide) rfl ht hho] at hx
    exact ⟨_, hx, hst, hsl, hrail, congrArg renewLease hf⟩
  · intro s m n h
    refine congrArg Host.Outcome.next ?_
    by_cases hw : HolderWrites s m
    · have ht := writeScalar_managed_fails (m := m.toNat) (h.resolve_left fun k => k hw)
      exact masterWrite_holder_fails (findEntry_managed n.isLt) (by decide) rfl hw (by decide) rfl ht (by decide)
    · exact masterWrite_notHolder (findEntry_managed n.isLt) (by decide) (by decide) hw
  · intro s m b a h1 h64 hw ha h7 hitems hbank
    have ha256 : a < 256 := by omega
    have hx : exec (.restore m b a) s = .next (masterWrite s m 0x6022 b tU8 1 a) := (onSlot_of h1 h64 _).trans (by rw [if_pos ha256])
    obtain ⟨t, ht, hb⟩ := restoreBank_done ha h7 hitems hbank
    have htt : (restoreBank s b a).2 = t := by rw [ht]
    have ho := restoreBank_outer (s := s) b a
    have hr := restoreBank_rest (s := s) b a
    have hs : writeScalar s m.toNat 0x6022 b a = (0, t) := ht
    rw [htt] at ho hr
    rw [masterWrite_holder (findEntry_restore h1 h64) (by decide) rfl hw ha256 rfl, hs] at hx
    dsimp only at hx
    obtain ⟨u, hu, hux⟩ : ∃ u, (u = t ∨ u = renewLease t) ∧ exec (.restore m b a) s = .next u := ⟨_, (ite_eq_or_eq _ _ _).symm, hx⟩
    refine ⟨u, hux, ?_⟩
    have hub : u.bake b = t.bake b := by obtain rfl | rfl := hu <;> rfl
    have hue : u.host = t.host ∧ u.links = t.links ∧ u.ctl = t.ctl := by obtain rfl | rfl := hu <;> exact ⟨rfl, rfl, rfl⟩
    rw [hub, hb, hue.1, hue.2.1, hue.2.2]
    simp [restored, ho, hr]
  · intro s m b a h1 h64 h
    refine (onSlot_of h1 h64 _).trans (congrArg Host.Outcome.next (ite_eq_right_iff.mpr fun hn => ?_))
    by_cases hw : HolderWrites s m
    · have ht : writeScalar s m.toNat 0x6022 b a = (0x06090030, s) := restoreBank_fails (h.resolve_left fun k => k hw)
      exact masterWrite_holder_fails (findEntry_restore h1 h64) (by decide) rfl hw hn rfl ht (by decide)
    · exact masterWrite_notHolder (findEntry_restore h1 h64) (by decide) hn hw
  · intro s m q hw hq
    have hx : exec (.acknowledged m q) s = .next (masterWrite s m 0x6030 4 tU64 8 q.toNat) := rfl
    have ht : acknowledge s q = (0, { s with integ := { s.integ with acked := q } }) := if_neg (Nat.not_le.mpr hq)
    rw [hx, masterWrite_open (findEntry_acknowledged s) (by decide) rfl hw q.isLt rfl, writeScalar_acknowledge, ht]
  · intro s m q h
    refine congrArg Host.Outcome.next ?_
    by_cases hw : MasterWrites s m
    · have ht : acknowledge s q = (0x06090030, s) := if_pos (h.resolve_left fun k => k hw)
      rw [masterWrite_open (findEntry_acknowledged s) (by decide) rfl hw q.isLt rfl, writeScalar_acknowledge, ht]
    · exact masterWrite_notMaster (findEntry_acknowledged s) (by decide) q.isLt hw

end Sys2Proof.Machine

/-! ### Frames of the dictionary protocol (R359, R363, R364, R366, R367, R394) -/

namespace Sys2Proof.Machine

variable {s t u : State}

/-! #### Management ports -/

theorem mgmtPort_modMgmt (s : State) (p : Fin 2) (f : MgmtPort → MgmtPort) : mgmtPort (modMgmt s p f) p = f (mgmtPort s p) := by
  unfold mgmtPort modMgmt
  split <;> rfl

theorem modMgmt_dict (s : State) (p : Fin 2) (f : MgmtPort → MgmtPort) : (modMgmt s p f).ctl.dict = s.ctl.dict := by
  unfold modMgmt
  split <;> rfl

theorem modMgmt_frame (s : State) (p : Fin 2) (f : MgmtPort → MgmtPort) : modMgmt s p f =
    { s with ctl := { s.ctl with portA := (modMgmt s p f).ctl.portA, portB := (modMgmt s p f).ctl.portB } } := by
  unfold modMgmt
  split <;> rfl

theorem modMgmt_ctl (s : State) (p : Fin 2) (f : MgmtPort → MgmtPort) : modMgmt s p f = { s with ctl := (modMgmt s p f).ctl } := by
  unfold modMgmt
  split <;> rfl

/-- Of a session just used, the port still holds its responses. -/
theorem mem_keepSession (l : List Session) (x : Session) : x ∈ keepSession l x := by
  have hd : ∀ l' : List Session, x ∈ (l' ++ [x]).drop ((l' ++ [x]).length - 16) := fun l' => by
    rw [List.drop_append_of_le_length (by simp)]
    simp
  exact hd _

theorem mem_held_holdResponse (x : Session) (seq : U32) (b : List Byte) : (seq, b) ∈ (holdResponse x seq b).held := by
  have hd : ∀ l : List (U32 × List Byte), (seq, b) ∈ (l ++ [(seq, b)]).drop ((l ++ [(seq, b)]).length - 64) := fun l => by
    rw [List.drop_append_of_le_length (by simp)]
    simp
  exact hd _

/-! #### Answers -/

/-- Requests that leave the state as it is leave it so all together. -/
theorem runRequests_state {run : State → Nat → Request → Nat × List Byte × State} : ∀ {l : List Request} {n : Nat},
    (∀ r ∈ l, ∀ room, (run s room r).2.2 = s) → (runRequests run s n l).2 = s
  | [], _, _ => rfl
  | r :: l, n, h => by
    rw [runRequests]
    dsimp only
    rw [h r List.mem_cons_self]
    exact runRequests_state fun q hq room => h q (List.mem_cons_of_mem _ hq) room

theorem answer_state {limit : Nat} {run : State → Nat → Request → Nat × List Byte × State} {f : Nat × Nat × Nat × List Request}
    (h : ∀ r ∈ f.2.2.2, ∀ room, (run s room r).2.2 = s) : (answer s limit run f).2 = s :=
  runRequests_state h

theorem runRequest_state {r : Request} (h : r.op ≠ opWrite) (master ver room : Nat) : (runRequest s master ver room r).2.2 = s := by
  unfold runRequest
  rw [if_neg h]
  split
  · rfl
  split
  · rfl
  split <;> rfl

theorem rescueRequest_state {r : Request} (h : r.op ≠ opWrite ∨ r.index ≠ 0x7110) (master room : Nat) :
    (rescueRequest s master room r).2.2 = s := by
  unfold rescueRequest
  rw [if_neg (show ¬ (r.op = opWrite ∧ r.index = 0x7110) from fun k => h.elim (fun h => h k.1) fun h => h k.2)]
  split <;> rfl

/-! #### Frames -/

section
variable {p : Fin 2} {l : List Byte} {f : Nat × Nat × Nat × List Request}

theorem exec_managementFrame_parsed (hr : s.aon.rescue = 0) (hp : parseFrame portFrame l = some f) (hs : served s = true) :
    exec (.managementFrame p l) s = .next (handleFrame s p f) := by
  have h0 : ¬ s.aon.rescue ≠ 0 := fun h => h hr
  show execManagementFrame p l s = _
  unfold execManagementFrame
  rw [if_neg h0, hp]
  exact congrArg Host.Outcome.next (if_pos hs)

theorem exec_managementFrame_unserved (hr : s.aon.rescue = 0) (hp : parseFrame portFrame l = some f) (hs : served s = false) :
    exec (.managementFrame p l) s =
      .next (modMgmt s p fun q => { q with response := (answer s portFrame (abortAll 0x08000028) f).1 }) := by
  have h0 : ¬ s.aon.rescue ≠ 0 := fun h => h hr
  show execManagementFrame p l s = _
  unfold execManagementFrame
  rw [if_neg h0, hp]
  exact congrArg Host.Outcome.next (if_neg (by rw [hs]; exact Bool.false_ne_true))

theorem exec_managementFrame_malformed (hr : s.aon.rescue = 0) (hp : parseFrame portFrame l = none) :
    exec (.managementFrame p l) s = .next (modMgmt s p fun q => { q with malformed := q.malformed + 1, response := [] }) := by
  have h0 : ¬ s.aon.rescue ≠ 0 := fun h => h hr
  show execManagementFrame p l s = _
  unfold execManagementFrame
  rw [if_neg h0, hp]

theorem handleFrame_repeated {x : Session} {e : U32 × List Byte}
    (hx : (mgmtPort s p).sessions.find? (fun e => decide (e.id = BitVec.ofNat 32 f.2.1)) = some x)
    (he : x.held.find? (fun e => decide (e.1 = BitVec.ofNat 32 f.2.2.1)) = some e) : handleFrame s p f =
      modMgmt s p fun q => { q with sessions := keepSession q.sessions x, repeated := q.repeated + 1, response := e.2 } := by
  unfold handleFrame
  simp only [hx, Option.getD_some, he]

theorem handleFrame_stale {x : Session}
    (hx : (mgmtPort s p).sessions.find? (fun e => decide (e.id = BitVec.ofNat 32 f.2.1)) = some x)
    (he : x.held.find? (fun e => decide (e.1 = BitVec.ofNat 32 f.2.2.1)) = none)
    (hst : staleSeq x (BitVec.ofNat 32 f.2.2.1) = true) : handleFrame s p f =
      modMgmt s p fun q => { q with sessions := keepSession q.sessions x, stale := q.stale + 1, response := [] } := by
  unfold handleFrame
  simp only [hx, Option.getD_some, he, if_pos hst]

/-- A frame of a new session is executed and its response held. -/
theorem handleFrame_new (hx : (mgmtPort s p).sessions.find? (fun e => decide (e.id = BitVec.ofNat 32 f.2.1)) = none) :
    handleFrame s p f =
      let y := answer s portFrame (fun t room r => runRequest t (p.val + 1) f.1 room r) f
      modMgmt y.2 p fun q => { q with
        sessions := keepSession q.sessions (holdResponse ⟨BitVec.ofNat 32 f.2.1, []⟩ (BitVec.ofNat 32 f.2.2.1) y.1)
        executed := q.executed + 1, response := y.1 } := by
  have hst : ¬ staleSeq ⟨BitVec.ofNat 32 f.2.1, []⟩ (BitVec.ofNat 32 f.2.2.1) = true := Bool.false_ne_true
  unfold handleFrame
  simp only [hx, Option.getD_none, List.find?_nil, if_neg hst]

end

/-- The frame that the host has written into the window. -/
theorem exec_dictDb_malformed (hp : parseFrame hostFrame ((List.range hostFrame).map fun i => mget 0 s.ctl.dictReq i) = none) :
    exec .dictDb s = .next { s with ctl := { s.ctl with dictRsp := [], dictBusy := false } } := by
  show execDictDb s = _
  unfold execDictDb
  simp only [hp]

theorem exec_dictDb_parsed {f : Nat × Nat × Nat × List Request} (hs : served s = true) (hr : s.aon.rescue = 0)
    (hp : parseFrame hostFrame ((List.range hostFrame).map fun i => mget 0 s.ctl.dictReq i) = some f) : exec .dictDb s =
      let y := answer s hostFrame (fun t room r => runRequest t 0 f.1 room r) f
      .next { y.2 with ctl := { y.2.ctl with dictRsp := y.1, dictBusy := false } } := by
  have hgo : (served s && decide (s.aon.rescue = 0)) = true := by simp [hs, hr]
  show execDictDb s = _
  unfold execDictDb
  simp only [hp, if_pos hgo]

theorem exec_rescueFrame_parsed {p : Fin 2} {l : List Byte} {f : Nat × Nat × Nat × List Request} (hr : s.aon.rescue ≠ 0)
    (hp : parseFrame portFrame l = some f) : exec (.rescueFrame p l) s =
      let y := answer s portFrame (fun t room r => rescueRequest t (p.val + 1) room r) f
      .next (modMgmt y.2 p fun q => { q with response := y.1 }) := by
  show execRescueFrame p l s = _
  unfold execRescueFrame
  rw [if_neg hr, hp]

/-- Settles O57: by what the session holds of the sequence number. -/
theorem framesAreExecutedOnce : Obligations.FramesAreExecutedOnce := by
  unfold Obligations.FramesAreExecutedOnce
  refine ⟨?_, ?_, ?_, ?_, ?_, ?_, ?_, ?_, ?_, ?_, ?_⟩
  · intro s p l hr hp
    exact ⟨_, exec_managementFrame_malformed hr hp, mgmtPort_modMgmt .., modMgmt_dict .., modMgmt_frame ..⟩
  · intro s p l f hr hp hs
    refine ⟨_, exec_managementFrame_unserved hr hp hs, ?_, ?_, modMgmt_frame ..⟩ <;> rw [mgmtPort_modMgmt]
  · intro s p l f x e hr hp hs hx he
    have hexec := exec_managementFrame_parsed (p := p) hr hp hs
    rw [handleFrame_repeated hx he] at hexec
    refine ⟨_, hexec, ?_, ?_, ?_, modMgmt_frame ..⟩ <;> rw [mgmtPort_modMgmt]
  · intro s p l f x hr hp hs hx he hst
    have hexec := exec_managementFrame_parsed (p := p) hr hp hs
    rw [handleFrame_stale hx he hst] at hexec
    refine ⟨_, hexec, ?_, ?_, ?_⟩ <;> rw [mgmtPort_modMgmt]
  · intro s p l f hr hp hs hx hnw
    have hexec := exec_managementFrame_parsed (p := p) hr hp hs
    have hsame := answer_state (s := s) (limit := portFrame) (run := fun u room r => runRequest u (p.val + 1) f.1 room r) (f := f)
      fun r hr room => runRequest_state (hnw r hr) ..
    rw [handleFrame_new hx] at hexec
    dsimp only at hexec
    rw [hsame] at hexec
    refine ⟨_, hexec, ?_, ?_, ?_, modMgmt_frame ..⟩ <;> rw [mgmtPort_modMgmt]
    exact ⟨_, mem_keepSession .., rfl, mem_held_holdResponse ..⟩
  · intro s p l f r hr hp hs hx hone hop hver
    have hexec := exec_managementFrame_parsed (p := p) hr hp hs
    have hrun : ∀ room, runRequest s (p.val + 1) f.1 room r = ((writeEntry s (p.val + 1) r.index r.sub r.code r.off r.data r.rsv).1, [],
        (writeEntry s (p.val + 1) r.index r.sub r.code r.off r.data r.rsv).2) := fun room => by
      unfold runRequest
      rw [if_neg (fun h => h.1 hver), hop]
      rfl
    have hans : answer s portFrame (fun u room r => runRequest u (p.val + 1) f.1 room r) f =
        (responseHeader f.1 1 f.2.1 f.2.2.1 ++
          responseBytes r (writeEntry s (p.val + 1) r.index r.sub r.code r.off r.data r.rsv).1 [],
          (writeEntry s (p.val + 1) r.index r.sub r.code r.off r.data r.rsv).2) := by
      unfold answer
      rw [hone]
      simp only [runRequests, hrun, List.append_nil]
      rfl
    rw [handleFrame_new hx, hans] at hexec
    refine ⟨_, hexec, ?_, modMgmt_ctl .., modMgmt_dict ..⟩
    rw [mgmtPort_modMgmt]
  · intro s hp
    exact exec_dictDb_malformed hp
  · intro s f hp hs hr hnw
    have hsame := answer_state (s := s) (limit := hostFrame) (run := fun u room r => runRequest u 0 f.1 room r) (f := f)
      fun r hr room => runRequest_state (hnw r hr) ..
    rw [exec_dictDb_parsed hs hr hp]
    dsimp only
    rw [hsame]
  · intro s p l hr
    exact congrArg Host.Outcome.next (if_pos hr)
  · intro s p l hr
    exact congrArg Host.Outcome.next (if_pos hr)
  · intro s p l f hr hp hnw
    have hsame := answer_state (s := s) (limit := portFrame) (run := fun u room r => rescueRequest u (p.val + 1) room r) (f := f)
      fun r hr room => rescueRequest_state (hnw r hr) ..
    have hexec := exec_rescueFrame_parsed (p := p) hr hp
    dsimp only at hexec
    rw [hsame] at hexec
    refine ⟨_, hexec, ?_, modMgmt_frame ..⟩
    rw [mgmtPort_modMgmt]

end Sys2Proof.Machine

/-! ### Bit fields of words -/

namespace Sys2Proof.Machine

section
variable {n hi lo : Nat}

/-- A bit of a word whose field has been written. -/
theorem getLsbD_putFld (w : BitVec n) (h : lo ≤ hi) (v i : Nat) :
    (putFld w hi lo v).getLsbD i = (decide (i < n) && if lo ≤ i ∧ i ≤ hi then v.testBit (i - lo) else w.getLsbD i) := by
  unfold putFld
  dsimp only
  rw [BitVec.getLsbD_or, BitVec.getLsbD_and, BitVec.getLsbD_not, BitVec.getLsbD_ofNat, BitVec.getLsbD_ofNat,
    Nat.testBit_mul_two_pow, Nat.testBit_mul_two_pow, Nat.testBit_two_pow_sub_one, Nat.testBit_mod_two_pow]
  by_cases hn : i < n
  · by_cases hl : lo ≤ i
    · by_cases hh : i ≤ hi
      · have hk : i - lo < hi - lo + 1 := by omega
        simp [hn, hl, hh, hk]
      · have hk : ¬ i - lo < hi - lo + 1 := by omega
        simp [hn, hl, hh, hk]
    · simp [hn, hl]
  · have hw : w.getLsbD i = false := BitVec.getLsbD_of_ge w i (Nat.not_lt.mp hn)
    simp [hn, hw]

theorem fld_congr {m : Nat} {w : BitVec n} {x : BitVec m} (h : ∀ i, lo ≤ i → i ≤ hi → w.getLsbD i = x.getLsbD i) (hle : lo ≤ hi) :
    fld w hi lo = fld x hi lo := by
  refine congrArg BitVec.toNat (BitVec.eq_of_getLsbD_eq fun i hi' => ?_)
  rw [BitVec.getLsbD_extractLsb', BitVec.getLsbD_extractLsb', h (lo + i) (by omega) (by omega)]

/-- The field that has been written. -/
theorem fld_putFld_same (w : BitVec n) (h : lo ≤ hi) (hn : hi < n) (v : Nat) : fld (putFld w hi lo v) hi lo = v % 2 ^ (hi - lo + 1) := by
  refine (BitVec.toNat_eq.mp (BitVec.eq_of_getLsbD_eq fun i hi' => ?_) :).trans (BitVec.toNat_ofNat v (hi - lo + 1))
  rw [BitVec.getLsbD_extractLsb', getLsbD_putFld w h, BitVec.getLsbD_ofNat, if_pos ⟨by omega, by omega⟩, Nat.add_sub_cancel_left]
  simp [show lo + i < n by omega]

/-- A field written with what a field of the same width holds. -/
theorem fld_putFld_fld {m : Nat} (w : BitVec n) (x : BitVec m) (h : lo ≤ hi) (hn : hi < n) : fld (putFld w hi lo (fld x hi lo)) hi lo = fld x hi lo :=
  (fld_putFld_same w h hn _).trans (Nat.mod_eq_of_lt (BitVec.isLt _))

/-- A field beside the one that has been written. -/
theorem fld_putFld_other (w : BitVec n) {a b : Nat} (h : lo ≤ hi) (hab : b ≤ a) (hd : a < lo ∨ hi < b) (hn : a < n) (v : Nat) :
    fld (putFld w hi lo v) a b = fld w a b := by
  refine fld_congr (fun i hb ha => ?_) hab
  rw [getLsbD_putFld w h, if_neg (by omega), decide_eq_true (by omega : i < n), Bool.true_and]

theorem bitAt_putFld_other (w : BitVec n) {i : Nat} (h : lo ≤ hi) (hd : i < lo ∨ hi < i) (hn : i < n) (v : Nat) :
    bitAt (putFld w hi lo v) i = bitAt w i := by
  unfold bitAt
  rw [getLsbD_putFld w h, if_neg (by omega), decide_eq_true hn, Bool.true_and]

end

section
variable {n : Nat}

theorem getLsbD_setBit (w : BitVec n) {j : Nat} (hj : j < n) (b : Bool) (i : Nat) :
    (setBit w j b).getLsbD i = if i = j then b else w.getLsbD i := by
  have hm : (BitVec.ofNat n (2 ^ j)).getLsbD i = decide (i = j) := by
    rw [BitVec.getLsbD_ofNat, Nat.testBit_two_pow]
    by_cases h : i = j
    · simp [h, hj]
    · simp [h, Ne.symm h]
  unfold setBit
  cases b with
  | true =>
    show (w ||| BitVec.ofNat n (2 ^ j)).getLsbD i = _
    rw [BitVec.getLsbD_or, hm]
    by_cases h : i = j <;> simp [h]
  | false =>
    show (w &&& ~~~BitVec.ofNat n (2 ^ j)).getLsbD i = _
    rw [BitVec.getLsbD_and, BitVec.getLsbD_not, hm]
    by_cases h : i = j
    · simp [h]
    · by_cases hn : i < n
      · simp [h, hn]
      · simp [h, BitVec.getLsbD_of_ge w i (Nat.not_lt.mp hn)]

theorem bitAt_setBit_same (w : BitVec n) {j : Nat} (hj : j < n) (b : Bool) : bitAt (setBit w j b) j = b := by
  rw [bitAt, getLsbD_setBit w hj, if_pos rfl]

theorem bitAt_setBit_other (w : BitVec n) {i j : Nat} (hj : j < n) (h : i ≠ j) (b : Bool) : bitAt (setBit w j b) i = bitAt w i := by
  rw [bitAt, getLsbD_setBit w hj, if_neg h, bitAt]

theorem fld_setBit_other (w : BitVec n) {j a c : Nat} (hj : j < n) (hab : c ≤ a) (h : a < j ∨ j < c) (b : Bool) :
    fld (setBit w j b) a c = fld w a c :=
  fld_congr (fun i hc ha => by rw [getLsbD_setBit w hj, if_neg (by omega)]) hab

/-- The bit that a field of one bit holds. -/
theorem bitAt_eq_fld (w : BitVec n) (i : Nat) : bitAt w i = (fld w i i).testBit 0 := by
  unfold bitAt fld
  rw [BitVec.testBit_toNat, BitVec.getLsbD_extractLsb']
  simp

end

end Sys2Proof.Machine

/-! ### Mailboxes and firmware messages (R196, R197, R380 to R385, R451) -/

namespace Sys2Proof.Machine

variable {s t u : State}

/-! #### Mailboxes -/

section
variable {k m : Nat}

theorem writeRefusal_none (hw : isWriter s k m = true) (hf : (s.box k).full = false) : writeRefusal s k m = 0 := by
  simp [writeRefusal, hw, hf]

theorem writeRefusal_some (h : isWriter s k m = false ∨ (s.box k).full = true) : writeRefusal s k m ≠ 0 := by
  unfold writeRefusal
  split
  · decide
  · next hw =>
    rw [h.resolve_left fun k => hw (by rw [k]; rfl), if_pos rfl]
    decide

/-- A refused write of a master on the device is counted. -/
theorem refuseWrite_master (h : m ≠ 0) (c : Nat) : (refuseWrite s k m c).2 = s.modBox k fun x => { x with refused := x.refused + 1 } := by
  simp [refuseWrite, h]

theorem mailboxWrite_accepted {j : Nat} {v : U32} (hd : ¬ (j = 15 ∧ bitAt v 28 = true ∧ bitAt v 31 = false))
    (hw : isWriter s k m = true) (hf : (s.box k).full = false) : (mailboxWrite s k j m v).2 = storeRegister s k j v := by
  unfold mailboxWrite
  rw [if_neg hd, writeRefusal_none hw hf]
  rfl

theorem mailboxWrite_refused {j : Nat} {v : U32} (hd : ¬ (j = 15 ∧ bitAt v 28 = true ∧ bitAt v 31 = false))
    (h : isWriter s k m = false ∨ (s.box k).full = true) : ∃ c, (mailboxWrite s k j m v).2 = (refuseWrite s k m c).2 := by
  unfold mailboxWrite
  rw [if_neg hd]
  exact ⟨_, congrArg Prod.snd (if_neg (writeRefusal_some h))⟩

end

theorem storeRegister_other {k j : Nat} (h : j ≠ 15) (v : U32) :
    storeRegister s k j v = s.modBox k fun x => { x with regs := mset 0 x.regs j v } := by
  simp [storeRegister, h]

theorem bitAt_go (v : U32) : bitAt (setBit v 31 true) 31 = true := bitAt_setBit_same v (by decide) true

theorem go_not_done (j : Nat) (v : U32) : ¬ (j = 15 ∧ bitAt (setBit v 31 true) 28 = true ∧ bitAt (setBit v 31 true) 31 = false) :=
  fun ⟨_, _, h⟩ => absurd ((bitAt_go v).symm.trans h) (by decide)

/-- The bit of GO is outside the number of registers and the tag. -/
theorem go_low (v : U32) : setBit v 31 true &&& 0x000FFFFF = v &&& 0x000FFFFF := by
  have h : (BitVec.ofNat 32 (2 ^ 31)) &&& 0x000FFFFF = 0 := by decide
  show (v ||| BitVec.ofNat 32 (2 ^ 31)) &&& 0x000FFFFF = _
  rw [BitVec.and_comm, BitVec.and_or_distrib_left, BitVec.and_comm _ (BitVec.ofNat 32 (2 ^ 31)), h, BitVec.and_comm]
  simp

theorem storeRegister_go (s : State) (k : Nat) (v : U32) : storeRegister s k 15 (setBit v 31 true) =
    s.modBox k fun x => { x with regs := mset 0 x.regs 15 (v &&& 0x000FFFFF), full := true, goneAt := s.flue.cycle } := by
  unfold storeRegister
  simp only [if_true, go_low, bitAt_go, Bool.or_true]

/-! #### Messages -/

theorem takeOnDie_cases (s : State) (m : FwMsg) : (∃ l, takeOnDie s m = { s with flue := { s.flue with ring := l } }) ∨
    (∃ l, takeOnDie s m = { s with ctl := { s.ctl with onDie := l } }) := by
  unfold takeOnDie
  split
  · exact .inl ⟨_, rfl⟩
  · exact .inr ⟨_, rfl⟩

/-- What the ways of a message on the die have in common. -/
theorem dispatchMsg_cases (s : State) (m : FwMsg) :
    (∃ r o, dispatchMsg s none m = { s with flue := { s.flue with ring := r, ringOut := o } }) ∨
    (∃ l, dispatchMsg s none m = { s with ctl := { s.ctl with onDie := l } }) := by
  unfold dispatchMsg
  dsimp only
  split
  · split
    · exact .inl ⟨_, _, rfl⟩
    · exact .inl ⟨_, _, rfl⟩
  · exact .inr ⟨_, rfl⟩

/-- What a message on the die leaves as it was. -/
theorem dispatchMsg_kept (s : State) (m : FwMsg) : (dispatchMsg s none m).ctl.delivered = s.ctl.delivered ∧
    (dispatchMsg s none m).ctl.seen = s.ctl.seen ∧ (dispatchMsg s none m).ctl.unacked = s.ctl.unacked ∧
    dispatchMsg s none m = { s with ctl := (dispatchMsg s none m).ctl, flue := (dispatchMsg s none m).flue } := by
  obtain ⟨r, o, h⟩ | ⟨l, h⟩ := dispatchMsg_cases s m <;> rw [h] <;> exact ⟨rfl, rfl, rfl, rfl⟩

theorem dispatchMsg_onItsWay {m : FwMsg} (hd : t.ctl.onDie = s.ctl.onDie) (hf : t.flue = s.flue) :
    OnItsWay s (dispatchMsg t none m) m := by
  have hb : ∀ a, boundPort t a = boundPort s a := fun a => by rw [boundPort, boundPort, hf]
  unfold OnItsWay dispatchMsg
  cases agentOf m.srcm.toNat with
  | none => exact ⟨by rw [← hd], by rw [← hf], by rw [← hf]⟩
  | some a =>
    cases agentOf m.dstm.toNat with
    | none => exact ⟨by rw [← hd], by rw [← hf], by rw [← hf]⟩
    | some b =>
      dsimp only
      rw [hb, hb]
      split
      · exact ⟨hd, by rw [← hf], by rw [← hf]⟩
      · exact ⟨hd, by rw [← hf], by rw [← hf]⟩

/-- What taking a message off the die leaves as it was. -/
theorem takeOnDie_kept (s : State) (m : FwMsg) : (takeOnDie s m).ctl.delivered = s.ctl.delivered ∧
    (takeOnDie s m).ctl.seen = s.ctl.seen ∧ (takeOnDie s m).ctl.unacked = s.ctl.unacked ∧ (takeOnDie s m).ctl.msgDrops = s.ctl.msgDrops ∧
    takeOnDie s m = { s with ctl := (takeOnDie s m).ctl, flue := (takeOnDie s m).flue } := by
  obtain ⟨l, h⟩ | ⟨l, h⟩ := takeOnDie_cases s m <;> rw [h] <;> exact ⟨rfl, rfl, rfl, rfl, rfl⟩

theorem seenOf_congr (h : t.ctl.seen = s.ctl.seen) (m : FwMsg) : seenOf t m = seenOf s m := by
  unfold seenOf
  rw [h]

theorem mem_seenOf_keepSeen (s : State) (m : FwMsg) (st : U32) : (m.mseq, st) ∈ seenOf (keepSeen s m st) m := by
  have hfind : ∀ (l : List (U8 × U8 × List (U16 × U32))) (x : List (U16 × U32)),
      ((l.filter fun e => !(decide (e.1 = m.srcm) && decide (e.2.1 = m.dstm))) ++ [(m.srcm, m.dstm, x)]).find?
        (fun e => decide (e.1 = m.srcm) && decide (e.2.1 = m.dstm)) = some (m.srcm, m.dstm, x) := fun l x => by
    rw [List.find?_append, List.find?_eq_none.mpr]
    · simp
    · intro e he
      simpa [imp_iff_not_or] using (List.mem_filter.mp he).2
  have hlast : ∀ l : List (U16 × U32), (m.mseq, st) ∈ (l ++ [(m.mseq, st)]).drop ((l ++ [(m.mseq, st)]).length - 32) := fun l => by
    rw [List.drop_append_of_le_length (by simp)]
    simp
  unfold keepSeen
  dsimp only
  generalize seenOf s m = l
  unfold seenOf
  dsimp only
  rw [hfind]
  exact hlast l

/-- A first copy of a message of class 0x3 for a processor that runs. -/
theorem takeMessage_delivered {m : FwMsg} (hc : m.mclass = 3) (hs : (seenOf s m).find? (fun e => decide (e.1 = m.mseq)) = none)
    (hr : processorRuns s (receiverOf s m.dstm) = true) : takeMessage s none m = acknowledgeMsg
      (keepSeen { s with ctl := { s.ctl with delivered := { m with dstm := receiverOf s m.dstm } :: s.ctl.delivered } } m 0) none m 0 := by
  have h1 : ¬ m.mclass = 1 := by rw [hc]; decide
  unfold takeMessage
  rw [hs]
  dsimp only
  rw [if_neg h1, if_pos hr]

theorem takeMessage_again {m : FwMsg} {e : U16 × U32} (hs : (seenOf s m).find? (fun e => decide (e.1 = m.mseq)) = some e) :
    takeMessage s none m = acknowledgeMsg s none m e.2 := by
  unfold takeMessage
  rw [hs]

theorem receiveMessage_private {m : FwMsg} (hc : m.mclass = 3) : receiveMessage s none m = takeMessage s none m := by
  have h2 : ¬ m.mclass = 2 := by rw [hc]; decide
  unfold receiveMessage
  rw [if_neg h2, if_pos (.inr hc)]

theorem processorRuns_congr (h : t.hearths = s.hearths) (hr : t.recov = s.recov) (id : U8) : processorRuns t id = processorRuns s id := by
  unfold processorRuns processorPowered State.proc State.hearth
  rw [h, hr]

theorem ctlFlue_trans (h : u = { t with ctl := u.ctl, flue := u.flue }) (k : t = { s with ctl := t.ctl, flue := t.flue }) :
    u = { s with ctl := u.ctl, flue := u.flue } :=
  h.trans (by rw [k])

/-- A message is found among those that wait for an answer. -/
theorem exec_messageResend_of {a b : U8} {n : U16} {w : Unacked}
    (h : s.ctl.unacked.find? (fun u => decide (u.msg.srcm = a) && decide (u.msg.dstm = b) && decide (u.msg.mseq = n)) = some w) :
    exec (.messageResend a b n) s = .next
      (if 8 ≤ w.sends then raiseS { s with ctl := { s.ctl with unacked := eraseFirst w s.ctl.unacked } } 0x7000 (processorOf b) 1 b.toNat
       else dispatchMsg { s with ctl := { s.ctl with
         unacked := s.ctl.unacked.map fun x => if x = w then { x with sends := x.sends + 1 } else x } } w.dev w.msg) := by
  show execMessageResend a b n s = _
  unfold execMessageResend
  rw [h]

/-- Settles O59: a mailbox by who writes it and whether it is FULL, a message by the list of those already delivered. -/
theorem mailboxesAndMessages : Obligations.MailboxesAndMessages := by
  unfold Obligations.MailboxesAndMessages
  refine ⟨⟨?_, ?_, ?_, ?_, ?_, ?_⟩, ?_, ?_, ?_, ?_, ?_, ?_, ?_, ?_⟩
  · intro s k j m v hw hf hj
    exact congrArg Host.Outcome.next ((mailboxWrite_accepted (fun h => hj h.1) hw hf).trans (storeRegister_other hj v))
  · intro s k m v hw hf
    have hx : exec (.go k m v) s = .next (mailboxWrite s k 15 m.toNat (setBit v 31 true)).2 := rfl
    rw [mailboxWrite_accepted (go_not_done 15 v) hw hf, storeRegister_go] at hx
    refine ⟨_, hx, ?_, ?_, ?_, fun j hj => ?_, fun n hn => ?_, rfl⟩
    · rw [State.modBox_box_same]
    · rw [State.modBox_box_same]
      exact mget_mset_same ..
    · rw [State.modBox_box_same]
    · rw [State.modBox_box_same]
      exact mget_mset_other _ _ (by omega) _
    · rw [State.modBox_box, if_neg hn]
  · intro s k m hr
    have hd : 15 = 15 ∧ bitAt (0x10000000 : U32) 28 = true ∧ bitAt (0x10000000 : U32) 31 = false := ⟨rfl, by decide, by decide⟩
    refine congrArg Host.Outcome.next ?_
    unfold mailboxWrite
    rw [if_pos hd, if_pos hr]
    rfl
  · intro s k j m v hm h hj
    have hm0 : m.toNat ≠ 0 := fun h0 => hm (BitVec.eq_of_toNat_eq h0)
    constructor
    · obtain ⟨c, hc⟩ := mailboxWrite_refused (v := v) (fun h => hj h.1) h
      exact congrArg Host.Outcome.next (hc.trans (refuseWrite_master hm0 c))
    · obtain ⟨c, hc⟩ := mailboxWrite_refused (go_not_done 15 v) h
      exact congrArg Host.Outcome.next (hc.trans (refuseWrite_master hm0 c))
  · intro s k m hm hr
    have hm0 : m.toNat ≠ 0 := fun h0 => hm (BitVec.eq_of_toNat_eq h0)
    have hd : 15 = 15 ∧ bitAt (0x10000000 : U32) 28 = true ∧ bitAt (0x10000000 : U32) 31 = false := ⟨rfl, by decide, by decide⟩
    refine congrArg Host.Outcome.next ?_
    unfold mailboxWrite
    rw [if_pos hd, if_neg (by rw [hr]; exact Bool.false_ne_true)]
    exact refuseWrite_master hm0 _
  · intro s k v h
    obtain ⟨c, hc⟩ := mailboxWrite_refused (go_not_done 15 v) h
    have hx : exec (.go k 0 v) s = .next (raiseS (s.modBox k fun x => { x with refused := x.refused + 1, drop := x.drop || decide (0 = 0) })
      0x1210 (k + 1) 0 k) := congrArg Host.Outcome.next hc
    have ha : (s.modBox k fun x => { x with refused := x.refused + 1, drop := x.drop || decide (0 = 0) }).aon = s.aon := rfl
    refine ⟨_, hx, ?_, raiseS_event_of s ha rfl rfl .., raiseS_kept_of s ha .., ?_⟩
    · rw [State.box, raiseS_ctl]
      refine (State.modBox_box_same ..).trans ?_
      simp
    · rw [raiseS_eq]
      rfl
  · intro s m hc hs hr
    obtain ⟨hdel, hseen, hun, hdrop, hf⟩ := takeOnDie_kept s m
    have hs' : (seenOf (takeOnDie s m) m).find? (fun e => decide (e.1 = m.mseq)) = none := by rw [seenOf_congr hseen, hs]
    have hrec : receiverOf (takeOnDie s m) m.dstm = receiverOf s m.dstm := by rw [hf]; rfl
    have hr' : processorRuns (takeOnDie s m) (receiverOf (takeOnDie s m) m.dstm) = true := by
      rw [hrec, processorRuns_congr (s := s) (by rw [hf]) (by rw [hf]), hr]
    have hx : exec (.firmwareMessage none m) s = .next (receiveMessage (takeOnDie s m) none m) := rfl
    rw [receiveMessage_private hc, takeMessage_delivered hc hs' hr', hrec, hdel] at hx
    obtain ⟨hd2, hs2, hu2, hf2⟩ := dispatchMsg_kept (keepSeen { takeOnDie s m with ctl := { (takeOnDie s m).ctl with
      delivered := { m with dstm := receiverOf s m.dstm } :: s.ctl.delivered } } m 0)
      { dstm := m.srcm, srcm := m.dstm, mclass := 2, mseq := 0, mack := m.mseq, status := 0, body := [] }
    refine ⟨_, hx, hd2, ?_, ?_, hu2.trans hun, ?_⟩
    · exact (seenOf_congr hs2 m).symm ▸ mem_seenOf_keepSeen ..
    · exact dispatchMsg_onItsWay rfl rfl
    · exact ctlFlue_trans hf2 (ctlFlue_trans (t := takeOnDie s m) rfl hf)
  · intro s m e hc hs
    obtain ⟨hdel, hseen, hun, hdrop, hf⟩ := takeOnDie_kept s m
    have hs' : (seenOf (takeOnDie s m) m).find? (fun e => decide (e.1 = m.mseq)) = some e := by rw [seenOf_congr hseen, hs]
    have hx : exec (.firmwareMessage none m) s = .next (receiveMessage (takeOnDie s m) none m) := rfl
    rw [receiveMessage_private hc, takeMessage_again hs'] at hx
    obtain ⟨hd2, hs2, hu2, hf2⟩ := dispatchMsg_kept (takeOnDie s m)
      { dstm := m.srcm, srcm := m.dstm, mclass := 2, mseq := 0, mack := m.mseq, status := e.2, body := [] }
    refine ⟨_, hx, hd2.trans hdel, dispatchMsg_onItsWay rfl rfl, ctlFlue_trans hf2 hf⟩
  · intro s m hc
    obtain ⟨hdel, hseen, hun, hdrop, hf⟩ := takeOnDie_kept s m
    have hx : exec (.firmwareMessage none m) s = .next (receiveMessage (takeOnDie s m) none m) := rfl
    rw [receiveMessage, if_pos hc, hun] at hx
    refine ⟨_, hx, fun u hu => ?_, hdel, ?_⟩
    · obtain ⟨hin, hno⟩ := List.mem_filter.mp hu
      refine ⟨hin, ?_⟩
      rintro ⟨h1, h2, h3⟩
      simp [h1, h2, h3] at hno
    · exact ctlFlue_trans (t := takeOnDie s m) rfl hf
  · intro s m h1 h2 h3
    obtain ⟨hdel, hseen, hun, hdrop, hf⟩ := takeOnDie_kept s m
    have hx : exec (.firmwareMessage none m) s = .next (receiveMessage (takeOnDie s m) none m) := rfl
    rw [hx, receiveMessage, if_neg h2, if_neg (not_or.mpr ⟨h1, h3⟩), hdrop]
  · intro s p m h
    have hno : (s.port p).rx.find? (fun f => decide (f.ftype = 2) && decide (f.dst = deviceId s)) = none := by
      refine List.find?_eq_none.mpr fun f hf => ?_
      simpa [imp_iff_not_or] using h f hf
    show execFirmwareMessage (some p) m s = _
    unfold execFirmwareMessage
    simp only [hno]
  · intro s a b n h
    have hno : s.ctl.unacked.find? (fun u => decide (u.msg.srcm = a) && decide (u.msg.dstm = b) && decide (u.msg.mseq = n)) = none := by
      refine List.find?_eq_none.mpr fun u hu => ?_
      have := h u hu
      simp only [Bool.and_eq_true, decide_eq_true_eq]
      tauto
    show execMessageResend a b n s = _
    unfold execMessageResend
    rw [hno]
  · intro s a b n u hu h8
    have hx := exec_messageResend_of hu
    rw [if_pos h8] at hx
    have ha : ({ s with ctl := { s.ctl with unacked := eraseFirst u s.ctl.unacked } } : State).aon = s.aon := rfl
    refine ⟨_, hx, raiseS_ctl .., raiseS_event_of s ha rfl rfl .., raiseS_kept_of s ha .., ?_⟩
    rw [raiseS_eq]
  · intro s a b n u hu h8 hdev
    have hx := exec_messageResend_of hu
    rw [if_neg (by omega), hdev] at hx
    obtain ⟨hd2, hs2, hu2, hf2⟩ := dispatchMsg_kept { s with ctl := { s.ctl with
      unacked := s.ctl.unacked.map fun x => if x = u then { x with sends := x.sends + 1 } else x } } u.msg
    refine ⟨_, hx, dispatchMsg_onItsWay rfl rfl, ?_, ?_, ?_⟩
    · rw [hu2]
      exact List.length_map _
    · rw [hu2]
      exact List.mem_map.mpr ⟨u, List.mem_of_find?_eq_some hu, if_pos rfl⟩
    · exact ctlFlue_trans hf2 rfl

end Sys2Proof.Machine

/-! ### Stedan ports: training, acknowledgment, replay and retraining (R325 to R343, R354) -/

namespace Sys2Proof.Machine

variable {s t u : State}

/-! #### Changes of one port -/

theorem otherPorts_modPort {p : Nat} (f : Port → Port) : ∀ q, q ≠ p → (s.modPort p f).port q = s.port q := fun q hq => by
  rw [State.modPort_port, if_neg hq]

theorem modPort_frame (p : Nat) (f : Port → Port) :
    s.modPort p f = { s with links := { s.links with ports := (s.modPort p f).links.ports } } := rfl

/-- Two changes of one port are one, while what stands between them is not the reset value. -/
theorem smPut_smPut {α : Type} (k : Nat) (v w : α) : ∀ m : SMap α, smPut (smPut m k v) k w = smPut m k w
  | [] => by simp [smPut]
  | (j, x) :: m => by
    by_cases h1 : k < j
    · simp [smPut, h1]
    · by_cases h2 : k = j
      · simp [smPut, h2]
      · simp [smPut, h1, h2, smPut_smPut k v w m]

theorem mset_mset {α : Type} [DecidableEq α] {d : α} {m : SMap α} {k : Nat} {v w : α} (hv : v ≠ d) (hw : w ≠ d) :
    mset d (mset d m k v) k w = mset d m k w := by
  show smSet _ (smSet _ m k v) k w = smSet _ m k w
  simp only [smSet, if_neg hv, if_neg hw, smPut_smPut]

theorem modPort_modPort {p : Nat} {f g : Port → Port} (hf : (f (s.port p)).state ≠ 0) (hg : (g (f (s.port p))).state ≠ 0) :
    (s.modPort p f).modPort p g = s.modPort p fun q => g (f q) := by
  have hne : ∀ q : Port, q.state ≠ 0 → q ≠ {} := fun q hq h => hq (by rw [h])
  have h : mset {} (mset {} s.links.ports p (f (s.port p))) p (g (mget {} (mset {} s.links.ports p (f (s.port p))) p)) =
      mset {} s.links.ports p (g (f (s.port p))) := by
    rw [mget_mset_same, mset_mset (hne _ hf) (hne _ hg)]
  exact congrArg (fun m => { s with links := { s.links with ports := m } }) h

/-- An event raised after changes of the links alone. -/
theorem raiseS_links_frame (h : t = { s with links := t.links }) (i b v x : Nat) :
    raiseS t i b v x = { s with links := (raiseS t i b v x).links, aon := (raiseS t i b v x).aon } := by
  have e := raiseS_eq t i b v x
  generalize raiseS t i b v x = w at *
  rw [e, h]

/-! #### Training -/

theorem widthOf_eq_zero {n : Nat} : widthOf n = 0 ↔ n < 4 := by
  unfold widthOf
  split
  · omega
  split
  · omega
  split <;> omega

/-- The lanes that PMD training finds good. -/
def goodOf (l : List Nat) : List Nat := (List.range 13).filter fun i => l.contains i

/-- A port after an attempt that found too few lanes. -/
def failedPort (good : List Nat) (c : Nat) (q : Port) : Port :=
  { q with state := 0, width := 0, spare := 0, lanes := good, failedAt := some c }

/-- A port that starts the TRAIN exchange. -/
def trainingPort (good : List Nat) (w : Nat) (q : Port) : Port :=
  { q with
    state := 1, width := BitVec.ofNat 8 w, lanes := good, failedAt := none, trainOk := 0, lastTrain := none,
    spare := if (good.take w).any (fun l => decide (w ≤ l)) then 1 else 0,
    retrains := if q.known then q.retrains + 1 else q.retrains }

theorem exec_portTraining_of {p : Fin 12} {l : List Nat} (hen : setting s 0x4104 (p.val + 1) ≠ 0)
    (hst : (s.port p).state = 0 ∨ (s.port p).state = 1 ∨ (s.port p).state = 3) (hc : controllerDown s p = false)
    (hr : mayRetry s (s.port p) = true) : exec (.portTraining p l) s = .next
      (if widthOf (goodOf l).length = 0 then s.modPort p (failedPort (goodOf l) s.flue.cycle)
       else s.modPort p (trainingPort (goodOf l) (widthOf (goodOf l).length))) := by
  have hgo : ¬ (setting s 0x4104 (p.val + 1) = 0 ∨ ¬ ((s.port p).state = 0 ∨ (s.port p).state = 1 ∨ (s.port p).state = 3) ∨
      controllerDown s p = true ∨ mayRetry s (s.port p) = false) := by
    rw [hc, hr]
    rintro (h | h | h | h)
    · exact hen h
    · exact h hst
    · exact Bool.noConfusion h
    · exact Bool.noConfusion h
  exact congrArg Host.Outcome.next (if_neg hgo)

theorem exec_portTraining_waits {p : Fin 12} {l : List Nat} (h : setting s 0x4104 (p.val + 1) = 0 ∨ (s.port p).state = 2 ∨
    (s.port p).state = 6 ∨ controllerDown s p = true ∨ mayRetry s (s.port p) = false) : exec (.portTraining p l) s = .next s := by
  refine congrArg Host.Outcome.next (if_pos ?_)
  obtain h | h | h | h | h := h
  · exact .inl h
  · exact .inr (.inl (by rw [h]; decide))
  · exact .inr (.inl (by rw [h]; decide))
  · exact .inr (.inr (.inl h))
  · exact .inr (.inr (.inr h))

/-- A port with frames waiting to go out, otherwise as it was. -/
def OutAlone (q r : Port) : Prop := ∃ l, r = { q with out := l }

theorem outAlone_queueOut (s : State) (o i : Nat) (f : Frame) : OutAlone (s.port i) ((queueOut s o f).port i) := by
  unfold queueOut
  rw [State.modPort_port]
  split
  · next h =>
    rw [h]
    exact ⟨_, rfl⟩
  · exact ⟨_, rfl⟩

theorem OutAlone.trans {q r v : Port} (h : OutAlone q r) (k : OutAlone r v) : OutAlone q v := by
  obtain ⟨a, rfl⟩ := h
  obtain ⟨b, rfl⟩ := k
  exact ⟨b, rfl⟩

theorem resumeAllRouted_port (s : State) (i : Nat) : (resumeAllRouted s).port i = s.port i := by
  have h : (resumeAllRouted s).links = s.links := by simp
  rw [State.port, State.port, h]

/-- The frames that leave when routes change are queued at ports; nothing else of a port changes. -/
theorem routesChanged_port (s : State) (i : Nat) : OutAlone (s.port i) ((routesChanged s).port i) := by
  unfold routesChanged
  dsimp only
  rw [resumeAllRouted_port]
  refine foldl_prop (p := fun u : State => OutAlone (s.port i) (u.port i)) (fun u f h => h.trans ?_) s.links.waiting ⟨_, rfl⟩
  split
  · exact outAlone_queueOut ..
  · exact ⟨_, rfl⟩

/-- A port that both ends have brought up. -/
def upPort (i : TrainInfo) (q : Port) : Port :=
  { q with
    state := 2, version := 0x0100, peerDev := i.devId, lastRx := i.nextSeq - 1, nakSent := false, nakDue := false,
    missedRun := 0, ackMoved := false, mismatch := false, reported := false }

/-- A port that has come up without anything of before, its `n` held frames dropped. -/
def freshPort (i : TrainInfo) (n : Nat) (q : Port) : Port :=
  let r := renumber (upPort i { q with
    known := true, peerInc := i.inc, dropped := q.dropped + BitVec.ofNat 64 n, fresh := q.fresh + 1 }) []
  { r with crd0 := 8192, crd1 := 32, crd2 := 32, ret0 := 0, ret1 := 0, ret2 := 0, rx := [], stuck := [] }

/-- A port whose TRAIN exchange has ended. -/
def trainedPort (q : Port) : Port := { q with trainOk := 0, lastTrain := none }

section
variable {p : Fin 12} {i : TrainInfo}

theorem exec_train_second (h1 : (s.port p).state = 1) (hl : (s.port p).lastTrain = some i) :
    exec (.train p i) s = .next (trained (s.modPort p trainedPort) p i) := by
  have hno : ¬ (s.port p).state ≠ 1 := fun h => h h1
  exact congrArg Host.Outcome.next ((if_neg hno).trans (if_pos hl))

theorem trained_resumed {q : Nat} (hv : bitAt i.vmap 0 = true) (hs : i.sysId.toNat = setting s 0x4100 2) (hk : (s.port q).known = true)
    (hi : (s.port q).peerInc = i.inc) : trained s q i =
      routesChanged (s.modPort q fun q => renumber (upPort i q) (afterAck q.acked i.lastSeq q.replay)) := by
  have h1 : ¬ (!bitAt i.vmap 0) = true := by rw [hv]; exact Bool.false_ne_true
  have h2 : ¬ i.sysId.toNat ≠ setting s 0x4100 2 := fun h => h hs
  have h3 : ((s.port q).known && (s.port q).peerInc == i.inc) = true := by simp [hk, hi]
  exact (if_neg h1).trans ((if_neg h2).trans (if_pos h3))

theorem trained_fresh {q : Nat} (hv : bitAt i.vmap 0 = true) (hs : i.sysId.toNat = setting s 0x4100 2)
    (hk : (s.port q).known = false ∨ (s.port q).peerInc ≠ i.inc) : ∃ l : Links,
      l.ports = mmod {} s.links.ports q (freshPort i (s.port q).replay.length) ∧
      trained s q i = routesChanged (raiseS { s with links := l } 0x4103 (q + 1) 2 i.inc.toNat) := by
  have h1 : ¬ (!bitAt i.vmap 0) = true := by rw [hv]; exact Bool.false_ne_true
  have h2 : ¬ i.sysId.toNat ≠ setting s 0x4100 2 := fun h => h hs
  have h3 : ¬ ((s.port q).known && (s.port q).peerInc == i.inc) = true := by
    rw [Bool.and_eq_true, beq_iff_eq]
    rintro ⟨a, b⟩
    obtain h | h := hk
    · exact absurd (a.symm.trans h) (by decide)
    · exact h b
  exact ⟨_, rfl, (if_neg h1).trans ((if_neg h2).trans (if_neg h3))⟩

theorem trained_refused {q : Nat} (h : bitAt i.vmap 0 = false ∨ i.sysId.toNat ≠ setting s 0x4100 2) : trained s q i =
    raiseS (s.modPort q fun q => { q with state := if bitAt i.vmap 0 then 5 else 4 }) 0x4103 (q + 1) 2 i.devId.toNat := by
  cases hv : bitAt i.vmap 0 with
  | false =>
    have h1 : (!bitAt i.vmap 0) = true := by rw [hv]; rfl
    exact if_pos h1
  | true =>
    have h1 : ¬ (!bitAt i.vmap 0) = true := by rw [hv]; exact Bool.false_ne_true
    have h2 : i.sysId.toNat ≠ setting s 0x4100 2 := h.resolve_left fun k => absurd (hv.symm.trans k) (by decide)
    exact (if_neg h1).trans (if_pos h2)

end

theorem mem_head_zipIdx {l : List Frame} {n : BitVec 12} {f : Frame}
    (h : (l.zipIdx.map fun e => { e.1 with seq := n + BitVec.ofNat 12 e.2 }).head? = some f) : f.seq = n := by
  cases l with
  | nil => simp at h
  | cons x l =>
    simp only [List.zipIdx_cons, List.map_cons, List.head?_cons, Option.some.injEq] at h
    rw [← h]
    simp

theorem zipIdx_map_data (l : List Frame) (n : BitVec 12) :
    (l.zipIdx.map fun e => { e.1 with seq := n + BitVec.ofNat 12 e.2 }).map (·.data) = l.map (·.data) := by
  rw [List.map_map]
  show l.zipIdx.map ((·.data) ∘ Prod.fst) = _
  rw [← List.map_map, List.zipIdx_map_fst]

/-- What a port that has come up resumed shows. -/
theorem renumber_upPort (i : TrainInfo) (q : Port) (l : List Frame) :
    let r := renumber (upPort i q) l
    r.state = 2 ∧ r.version = 0x0100 ∧ r.peerDev = i.devId ∧ r.lastRx = i.nextSeq - 1 ∧ r.replay.map (·.data) = l.map (·.data) ∧
      r.resend = r.replay ∧ (∀ f, r.replay.head? = some f → f.seq = q.nextSeq) ∧ r.rx = q.rx :=
  ⟨rfl, rfl, rfl, rfl, zipIdx_map_data .., rfl, fun _ h => mem_head_zipIdx h, rfl⟩

/-- Settles O49: by the test that starts a training, and the incarnation and values that the TRAIN frame carries. -/
theorem portsTrainByTheTrainExchange : Obligations.PortsTrainByTheTrainExchange := by
  unfold Obligations.PortsTrainByTheTrainExchange
  refine ⟨?_, ?_, ?_, ?_, ?_, ?_, ?_⟩
  · intro s p l hen hst hc hr
    have hx := exec_portTraining_of (l := l) hen hst hc hr
    by_cases hw : widthOf (goodOf l).length = 0
    · rw [if_pos hw] at hx
      refine ⟨_, hx, ?_, fun h4 => ?_, fun h4 => ?_, ?_, otherPorts_modPort _, modPort_frame ..⟩
      · rw [State.modPort_port_same]
        rfl
      · rw [State.modPort_port_same] at h4
        exact absurd (widthOf_eq_zero.mp hw) (Nat.not_lt.mpr h4)
      · rw [State.modPort_port_same]
        exact ⟨rfl, rfl, rfl⟩
      · rw [State.modPort_port_same]
        rfl
    · rw [if_neg hw] at hx
      refine ⟨_, hx, ?_, fun h4 => ?_, fun h4 => ?_, ?_, otherPorts_modPort _, modPort_frame ..⟩
      · rw [State.modPort_port_same]
        rfl
      · rw [State.modPort_port_same]
        exact ⟨rfl, rfl, rfl, rfl⟩
      · rw [State.modPort_port_same] at h4
        exact absurd (widthOf_eq_zero.mpr h4) hw
      · rw [State.modPort_port_same]
        rfl
  · intro s p l h
    exact exec_portTraining_waits h
  · intro s p i h
    exact congrArg Host.Outcome.next (if_pos h)
  · intro s p i h1 hl
    have hno : ¬ (s.port p).state ≠ 1 := fun h => h h1
    exact congrArg Host.Outcome.next ((if_neg hno).trans (if_neg hl))
  · intro s p i h1 hl hv hs hk hi
    have hp : (s.modPort p trainedPort).port p = trainedPort (s.port p) := State.modPort_port_same ..
    have hx := exec_train_second h1 hl
    rw [trained_resumed (s := s.modPort p trainedPort) hv hs (by rw [hp]; exact hk) (by rw [hp]; exact hi)] at hx
    have hup : ((s.modPort p trainedPort).modPort p fun q => renumber (upPort i q) (afterAck q.acked i.lastSeq q.replay)).port p =
        renumber (upPort i (trainedPort (s.port p))) (afterAck (s.port p).acked i.lastSeq (s.port p).replay) := by
      rw [State.modPort_port_same, hp]
      rfl
    obtain ⟨o, ho⟩ := routesChanged_port ((s.modPort p trainedPort).modPort p fun q => renumber (upPort i q) (afterAck q.acked i.lastSeq q.replay)) p
    rw [hup] at ho
    obtain ⟨hst, hve, hpd, hlr, hda, hrs, hhd, hrx⟩ :=
      renumber_upPort i (trainedPort (s.port p)) (afterAck (s.port p).acked i.lastSeq (s.port p).replay)
    refine ⟨_, hx, ?_⟩
    rw [ho]
    refine ⟨hst, hve, hpd, hlr, hda, hrs, hhd, hrx, ⟨by simp, by simp⟩, ?_⟩
    rw [state_eq_iff]
    simp
  · intro s p i h1 hl hv hs hk
    have hp : (s.modPort p trainedPort).port p = trainedPort (s.port p) := State.modPort_port_same ..
    have hx := exec_train_second h1 hl
    obtain ⟨l, hl, ht⟩ := trained_fresh (s := s.modPort p trainedPort) (q := p) hv hs (by rw [hp]; exact hk)
    rw [ht] at hx
    have hup : (raiseS { s.modPort p trainedPort with links := l } 0x4103 (p.val + 1) 2 i.inc.toNat).port p =
        freshPort i (s.port p).replay.length (trainedPort (s.port p)) := by
      rw [State.port, raiseS_links]
      show mget {} l.ports p = _
      rw [hl]
      refine (mget_mset_same ..).trans ?_
      show freshPort i ((s.modPort p trainedPort).port p).replay.length ((s.modPort p trainedPort).port p) = _
      rw [hp]
      rfl
    have hev := raiseS_event_of (t := { s.modPort p trainedPort with links := l }) s rfl rfl rfl 0x4103 (p.val + 1) 2 i.inc.toNat
    obtain ⟨o, ho⟩ := routesChanged_port (raiseS { s.modPort p trainedPort with links := l } 0x4103 (p.val + 1) 2 i.inc.toNat) p
    rw [hup] at ho
    refine ⟨_, hx, ?_⟩
    rw [ho]
    refine ⟨rfl, rfl, rfl, rfl, rfl, rfl, rfl, rfl, rfl, rfl, ?_, ?_⟩
    · unfold EventRaised at *
      simpa only [routesChanged_rest] using hev
    · rw [state_eq_iff]
      simp
  · intro s p i h1 hl h
    have hp : (s.modPort p trainedPort).port p = trainedPort (s.port p) := State.modPort_port_same ..
    have hx := exec_train_second h1 hl
    rw [trained_refused (s := s.modPort p trainedPort) h] at hx
    have hup : (((s.modPort p trainedPort).modPort p fun q => { q with state := if bitAt i.vmap 0 then 5 else 4 }).port p) =
        { trainedPort (s.port p) with state := if bitAt i.vmap 0 then 5 else 4 } := by
      rw [State.modPort_port_same, hp]
    have ha : ((s.modPort p trainedPort).modPort p fun q => { q with state := if bitAt i.vmap 0 then 5 else 4 }).aon = s.aon := rfl
    refine ⟨_, hx, ?_, ?_, raiseS_event_of s ha rfl rfl .., ?_⟩
    · rw [State.port, raiseS_links]
      exact congrArg Port.state hup
    · rw [State.port, raiseS_links]
      exact (congrArg Port.replay hup :)
    · exact raiseS_links_frame (t := (s.modPort p trainedPort).modPort p _) rfl ..

end Sys2Proof.Machine

/-! ### Stedan frames: acceptance, replay and sending (R326, R328, R329, R332, R335, R338) -/

namespace Sys2Proof.Machine

variable {s t u : State}

/-! #### Reception -/

/-- The nak of a gap, asked for once. -/
def nakOnce (q : Port) : Port := if q.nakSent then q else { q with nakSent := true, nakDue := true }

/-- What an up port does with a frame. -/
def receivePort (noId : Bool) (f : Frame) (q : Port) : Port :=
  if !crcGood f then nakOnce q
  else if 7 ≤ f.ftype then { applyFields q f with badTypes := (applyFields q f).badTypes + 1 }
  else if !sequenced f || noId then applyFields q f
  else if f.seq ≠ (applyFields q f).lastRx + 1 then nakOnce (applyFields q f)
  else { applyFields q f with lastRx := f.seq, nakSent := false, rx := (applyFields q f).rx ++ [f] }

theorem exec_sequencedFrameReceive_up {p : Fin 12} {f : Frame} (h : (s.port p).state = 2) :
    exec (.sequencedFrameReceive p f) s = .next (s.modPort p (receivePort (decide (deviceId s = 0xFFFF)) f)) := by
  have hno : ¬ (s.port p).state ≠ 2 := fun k => k h
  exact congrArg Host.Outcome.next (if_neg hno)

/-- What the link-level fields of a frame change of a port, and what they keep. -/
theorem applyFields_port (q : Port) (f : Frame) :
    (applyFields q f).replay = (if f.av = true ∧ seqFrom q.acked f.ack ≤ q.replay.length then afterAck q.acked f.ack q.replay else q.replay) ∧
    (f.nak = true → (applyFields q f).resend = (applyFields q f).replay) ∧ (applyFields q f).crd0 = min 8192 (q.crd0 + f.crd0) ∧
    (applyFields q f).crd1 = min 32 (q.crd1 + f.crd1) ∧ (applyFields q f).crd2 = min 32 (q.crd2 + f.crd2) ∧
    (applyFields q f).rx = q.rx ∧ (applyFields q f).out = q.out ∧ (applyFields q f).lastRx = q.lastRx ∧
    (applyFields q f).nakSent = q.nakSent ∧ (applyFields q f).nakDue = q.nakDue ∧ (applyFields q f).badTypes = q.badTypes := by
  unfold applyFields
  by_cases hok : f.av = true ∧ seqFrom q.acked f.ack ≤ q.replay.length
  · have hb : (f.av && decide (seqFrom q.acked f.ack ≤ q.replay.length)) = true := by simp [hok]
    cases hn : f.nak <;> simp [hok]
  · have hb : (f.av && decide (seqFrom q.acked f.ack ≤ q.replay.length)) = false := by
      rw [Bool.and_eq_false_iff, ← Bool.not_eq_true, decide_eq_false_iff_not]
      tauto
    simp only [hb, if_neg hok]
    cases hn : f.nak <;> simp

theorem sequenced_of {f : Frame} (h1 : 1 ≤ f.ftype) (h5 : f.ftype ≤ 5) : sequenced f = true := by
  simp [sequenced, h1, h5]

section
variable {f : Frame} {q : Port}

theorem receivePort_bad (h : crcGood f = false) (b : Bool) : receivePort b f q = nakOnce q := if_pos (by rw [h]; rfl)

theorem receivePort_good (h : crcGood f = true) (b : Bool) : receivePort b f q =
    if 7 ≤ f.ftype then { applyFields q f with badTypes := (applyFields q f).badTypes + 1 }
    else if !sequenced f || b then applyFields q f
    else if f.seq ≠ (applyFields q f).lastRx + 1 then nakOnce (applyFields q f)
    else { applyFields q f with lastRx := f.seq, nakSent := false, rx := (applyFields q f).rx ++ [f] } :=
  if_neg (by rw [h]; exact Bool.false_ne_true)

theorem receivePort_next (h : crcGood f = true) (h1 : 1 ≤ f.ftype) (h5 : f.ftype ≤ 5) (hs : f.seq = q.lastRx + 1) :
    receivePort false f q = { applyFields q f with lastRx := f.seq, nakSent := false, rx := (applyFields q f).rx ++ [f] } := by
  obtain ⟨-, -, -, -, -, -, -, hlr, -⟩ := applyFields_port q f
  have hno : ¬ f.seq ≠ (applyFields q f).lastRx + 1 := fun k => k (by rw [hlr, hs])
  rw [receivePort_good h, if_neg (by omega), sequenced_of h1 h5, if_neg (show ¬ (!true || false) = true by decide), if_neg hno]

theorem receivePort_gap (h : crcGood f = true) (h1 : 1 ≤ f.ftype) (h5 : f.ftype ≤ 5) (hs : f.seq ≠ q.lastRx + 1) :
    receivePort false f q = nakOnce (applyFields q f) := by
  obtain ⟨-, -, -, -, -, -, -, hlr, -⟩ := applyFields_port q f
  have hno : f.seq ≠ (applyFields q f).lastRx + 1 := by rw [hlr]; exact hs
  rw [receivePort_good h, if_neg (by omega), sequenced_of h1 h5, if_neg (show ¬ (!true || false) = true by decide), if_pos hno]

end

theorem nakOnce_port (q : Port) : (nakOnce q).rx = q.rx ∧ (nakOnce q).lastRx = q.lastRx ∧ (nakOnce q).nakSent = true ∧
    (nakOnce q).nakDue = (if q.nakSent then q.nakDue else true) := by
  unfold nakOnce
  cases h : q.nakSent <;> simp [h]

/-! #### Sending -/

theorem crcGood_sealFrame (f : Frame) : crcGood (sealFrame f) = true := decide_eq_true (by rfl)

/-- The frame that a port puts on its lanes. -/
theorem putOnWire_wire (q : Port) (f : Frame) : ∃ w, (putOnWire q f).wire = some w ∧ crcGood w = true ∧ w.seq = f.seq ∧ w.data = f.data ∧
    w.ack = q.lastRx ∧ w.nak = q.nakDue ∧ w.ftype = f.ftype ∧ w.nblk = f.nblk :=
  ⟨_, rfl, crcGood_sealFrame _, rfl, rfl, rfl, rfl, rfl, rfl⟩

theorem sendStop_ports (s : State) (n : Nat) (b : Bool) : (sendStop s n b).links.ports = s.links.ports ∧
    sendStop s n b = { s with links := (sendStop s n b).links, flue := (sendStop s n b).flue } := by
  unfold sendStop
  dsimp only
  split <;> exact ⟨rfl, rfl⟩

theorem leaveBridge_ports (s : State) (f : Frame) : (leaveBridge s f).links.ports = s.links.ports ∧
    leaveBridge s f = { s with links := (leaveBridge s f).links, flue := (leaveBridge s f).flue } := by
  unfold leaveBridge
  split
  · exact ⟨rfl, rfl⟩
  · split
    · exact ⟨rfl, rfl⟩
    · dsimp only
      split
      · obtain ⟨hp, hf⟩ := sendStop_ports (s.modChannel _ fun c => { c with held := c.held - 128 * f.nblk }) _ false
        exact ⟨hp, hf⟩
      · exact ⟨rfl, rfl⟩

theorem takeCredit_port (q : Port) (f : Frame) : (takeCredit q f).lastRx = q.lastRx ∧ (takeCredit q f).nextSeq = q.nextSeq ∧
    (takeCredit q f).replay = q.replay ∧ (takeCredit q f).out = q.out ∧ (f.cls = 0 → (takeCredit q f).crd0 = q.crd0 - f.nblk) ∧
    (f.cls = 1 → (takeCredit q f).crd1 = q.crd1 - 1) := by
  unfold takeCredit
  split
  · next h => exact ⟨rfl, rfl, rfl, rfl, fun _ => rfl, fun k => by omega⟩
  · next h => exact ⟨rfl, rfl, rfl, rfl, fun k => by omega, fun _ => rfl⟩
  · next h0 h1 => exact ⟨rfl, rfl, rfl, rfl, fun k => absurd k h0, fun k => absurd k h1⟩

/-- A port that sends a new frame. -/
def sendNew (f : Frame) (q : Port) : Port :=
  putOnWire (takeCredit { q with
    out := eraseFirst f q.out, replay := q.replay ++ [{ f with seq := q.nextSeq }], nextSeq := q.nextSeq + 1 } f) { f with seq := q.nextSeq }

section
variable {p : Fin 12}

theorem exec_frameTransmit_again {f : Frame} {rest : List Frame} (h : (s.port p).state = 2) (hid : deviceId s ≠ 0xFFFF)
    (hr : (s.port p).resend = f :: rest) : exec (.frameTransmit p) s =
      .next (s.modPort p fun q => putOnWire { q with resend := rest, replayed := q.replayed + 1 } f) := by
  have h1 : ¬ (s.port p).state = 1 := by rw [h]; decide
  have h2 : ¬ (s.port p).state ≠ 2 := fun k => k h
  show execFrameTransmit p s = _
  unfold execFrameTransmit
  simp only [if_neg h1, if_neg h2, if_neg hid, hr]

theorem exec_frameTransmit_new {f : Frame} (h : (s.port p).state = 2) (hid : deviceId s ≠ 0xFFFF) (hr : (s.port p).resend = [])
    (hn : nextNew (s.port p) = some f) (hw : windowRoom (s.port p) f = true) :
    exec (.frameTransmit p) s = .next (leaveBridge (s.modPort p (sendNew f)) f) := by
  have h1 : ¬ (s.port p).state = 1 := by rw [h]; decide
  have h2 : ¬ (s.port p).state ≠ 2 := fun k => k h
  have hport : State.modPort s p (sendNew f) = s.modPort p fun q => putOnWire (takeCredit { q with
      out := eraseFirst f q.out, replay := q.replay ++ [{ f with seq := (s.port p).nextSeq }], nextSeq := q.nextSeq + 1 } f)
      { f with seq := (s.port p).nextSeq } := rfl
  rw [hport]
  show execFrameTransmit p s = _
  unfold execFrameTransmit
  simp only [if_neg h1, if_neg h2, if_neg hid, hr, hn, if_pos hw]

/-- A port with nothing to send, or on a device without an ID. -/
theorem exec_frameTransmit_ack (h : (s.port p).state = 2) (hw : deviceId s = 0xFFFF ∨ (s.port p).resend = [] ∧ (nextNew (s.port p) = none ∨
    ∃ f, nextNew (s.port p) = some f ∧ windowRoom (s.port p) f = false)) :
    exec (.frameTransmit p) s = .next (s.modPort p fun q => putOnWire q (ackFrame s)) := by
  have h1 : ¬ (s.port p).state = 1 := by rw [h]; decide
  have h2 : ¬ (s.port p).state ≠ 2 := fun k => k h
  show execFrameTransmit p s = _
  unfold execFrameTransmit
  by_cases hid : deviceId s = 0xFFFF
  · simp only [if_neg h1, if_neg h2, if_pos hid]
  · obtain ⟨hr, hn | ⟨f, hn, hf⟩⟩ := hw.resolve_left hid
    · simp only [if_neg h1, if_neg h2, if_neg hid, hr, hn]
    · have hno : ¬ windowRoom (s.port p) f = true := by rw [hf]; exact Bool.false_ne_true
      simp only [if_neg h1, if_neg h2, if_neg hid, hr, hn, if_neg hno]

end

/-- Settles O50: an arriving frame by its CRC and number, the transmitter by what is due. -/
theorem framesAreAcceptedAndReplayed : Obligations.FramesAreAcceptedAndReplayed := by
  unfold Obligations.FramesAreAcceptedAndReplayed
  refine ⟨⟨?_, ?_, ?_, ?_, ?_, ?_, ?_⟩, ?_, ?_, ?_, ?_⟩
  · intro s p f h hc h1 h5 hid hs
    have hx := exec_sequencedFrameReceive_up (f := f) h
    have hp : (s.modPort p (receivePort (decide (deviceId s = 0xFFFF)) f)).port p =
        { applyFields (s.port p) f with lastRx := f.seq, nakSent := false, rx := (applyFields (s.port p) f).rx ++ [f] } := by
      rw [State.modPort_port_same, decide_eq_false hid, receivePort_next hc h1 h5 hs]
    obtain ⟨hre, -, hcr, -, -, hrx, -⟩ := applyFields_port (s.port p) f
    refine ⟨_, hx, ?_⟩
    rw [hp]
    exact ⟨congrArg (· ++ [f]) hrx, rfl, rfl, hre, hcr, otherPorts_modPort _, modPort_frame ..⟩
  · intro s p f h hc
    rw [exec_sequencedFrameReceive_up h, show receivePort (decide (deviceId s = 0xFFFF)) f = nakOnce from funext fun q => receivePort_bad hc _]
    rfl
  · intro s p f h hc h1 h5 hid hs
    have hx := exec_sequencedFrameReceive_up (f := f) h
    have hp : (s.modPort p (receivePort (decide (deviceId s = 0xFFFF)) f)).port p = nakOnce (applyFields (s.port p) f) := by
      rw [State.modPort_port_same, decide_eq_false hid, receivePort_gap hc h1 h5 hs]
    obtain ⟨-, -, -, -, -, hrx, -, hlr, hns, hnd, -⟩ := applyFields_port (s.port p) f
    obtain ⟨nrx, nlr, nns, nnd⟩ := nakOnce_port (applyFields (s.port p) f)
    refine ⟨_, hx, ?_⟩
    rw [hp]
    exact ⟨nrx.trans hrx, nlr.trans hlr, nns, nnd.trans (by rw [hns, hnd])⟩
  · intro s p f h hc h7
    have hx := exec_sequencedFrameReceive_up (f := f) h
    have hp : (s.modPort p (receivePort (decide (deviceId s = 0xFFFF)) f)).port p =
        { applyFields (s.port p) f with badTypes := (applyFields (s.port p) f).badTypes + 1 } := by
      rw [State.modPort_port_same, receivePort_good hc, if_pos h7]
    obtain ⟨-, -, -, -, -, hrx, -, hlr, -, -, hbt⟩ := applyFields_port (s.port p) f
    refine ⟨_, hx, ?_⟩
    rw [hp]
    exact ⟨congrArg (· + 1) hbt, hrx, hlr⟩
  · intro s p f h
    exact ⟨congrArg Host.Outcome.next (if_pos h), congrArg Host.Outcome.next (if_neg fun k => h k.1), congrArg Host.Outcome.next (if_neg h),
      fun h1 => congrArg Host.Outcome.next ((if_neg h1).trans (if_pos h))⟩
  · intro s p f h hc h0
    have hx : exec (.ack p f) s = .next (s.modPort p fun q => applyFields q f) := congrArg Host.Outcome.next (if_pos ⟨h, hc, h0⟩)
    have hp : (s.modPort p fun q => applyFields q f).port p = applyFields (s.port p) f := State.modPort_port_same ..
    obtain ⟨hre, hrs, hc0, hc1, hc2, hrx, hout, -⟩ := applyFields_port (s.port p) f
    refine ⟨_, hx, ?_⟩
    rw [hp]
    exact ⟨hre, hrs, hc0, hc1, hc2, hrx, hout, otherPorts_modPort _, modPort_frame ..⟩
  · intro s p h
    exact congrArg Host.Outcome.next (if_pos h)
  · intro s p h
    exact congrArg Host.Outcome.next (if_pos h)
  · intro s p f rest h hid hr
    have hx := exec_frameTransmit_again h hid hr
    obtain ⟨w, hw, hcr, hsq, hda, hak, hnk, -⟩ := putOnWire_wire { s.port p with resend := rest, replayed := (s.port p).replayed + 1 } f
    refine ⟨_, w, hx, ?_⟩
    rw [State.modPort_port_same]
    exact ⟨hw, hcr, hsq, hda, hak, hnk, rfl, rfl, rfl, rfl, rfl, modPort_frame ..⟩
  · intro s p f h hr hid hn hroom
    have hx := exec_frameTransmit_new h hid hr hn hroom
    obtain ⟨hports, hframe⟩ := leaveBridge_ports (s.modPort p (sendNew f)) f
    have hport : ∀ i, (leaveBridge (s.modPort p (sendNew f)) f).port i = (s.modPort p (sendNew f)).port i := fun i => by
      rw [State.port, hports, State.port]
    obtain ⟨w, hw, hcr, hsq, hda, hak, -⟩ := putOnWire_wire (takeCredit { s.port p with
      out := eraseFirst f (s.port p).out, replay := (s.port p).replay ++ [{ f with seq := (s.port p).nextSeq }]
      nextSeq := (s.port p).nextSeq + 1 } f) { f with seq := (s.port p).nextSeq }
    obtain ⟨klr, kns, kre, kout, kc0, kc1⟩ := takeCredit_port { s.port p with
      out := eraseFirst f (s.port p).out, replay := (s.port p).replay ++ [{ f with seq := (s.port p).nextSeq }]
      nextSeq := (s.port p).nextSeq + 1 } f
    refine ⟨_, w, hx, ?_⟩
    rw [hport, State.modPort_port_same]
    exact ⟨hw, hcr, hsq, hda, hak.trans klr, kns, kre, kout, kc0, kc1, fun q hq => (hport q).trans (otherPorts_modPort _ q hq), hframe⟩
  · intro s p h hw
    have hx := exec_frameTransmit_ack h hw
    obtain ⟨w, hw, hcr, -, -, hak, -, hft, hnb⟩ := putOnWire_wire (s.port p) (ackFrame s)
    refine ⟨_, w, hx, ?_⟩
    rw [State.modPort_port_same]
    exact ⟨hw, hcr, hft, hak, hnb, rfl, rfl, rfl, modPort_frame ..⟩

end Sys2Proof.Machine

/-! ### Ports that go down (R325, R330, R342, R343) -/

namespace Sys2Proof.Machine

variable {s t u : State}

/-! #### The frames that move -/

theorem movable_ne {p dst a : Nat} (h : movable s p dst = some a) : a ≠ p := by
  unfold movable at h
  dsimp only at h
  split at h
  · next hc => exact Option.some.inj h ▸ hc.2.1
  · exact nomatch h

/-- Whether a frame moves to an alternate looks at the routes and at the other ports. -/
theorem movable_congr {p : Nat} (hr : ∀ d, routeEntry t d = routeEntry s d) (hp : ∀ a, a ≠ p → t.port a = s.port a) (dst : Nat) :
    movable t p dst = movable s p dst := by
  unfold movable
  dsimp only
  rw [hr]
  by_cases ha : fld (routeEntry s dst) 11 8 = p
  · rw [if_neg (fun h => h.2.1 ha), if_neg (fun h => h.2.1 ha)]
  · rw [portUp, portUp, hp _ ha]

/-- A frame that moves off a port that goes down. -/
def leaves (s : State) (p : Nat) (f : Frame) : Bool := decide (f.ftype ≠ 4) && (movable s p f.dst).isSome

theorem leaves_false {p : Nat} {f : Frame} (h : movable s p f.dst = none) : leaves s p f = false := by
  simp [leaves, h]

/-- A port whose frames with an alternate have moved off it. -/
def movedPort (s : State) (p : Nat) (n : Nat) (q : Port) : Port :=
  { q with
    replay := q.replay.filter fun f => !leaves s p f, out := q.out.filter fun f => !leaves s p f, resend := []
    moved := q.moved + BitVec.ofNat 32 n }

theorem moveFrames_port (s : State) (p : Nat) : ∃ n, (moveFrames s p).port p = movedPort s p n (s.port p) := by
  refine ⟨((s.port p).replay.filter fun f => leaves s p f).length, ?_⟩
  unfold moveFrames
  dsimp only
  rw [port_noRoute, State.modPort_port_same, foldl_keeps (fun u : State => u.port p), foldl_keeps (fun u : State => u.port p)]
  · rfl
  · intro u f
    split
    · next a ha => exact otherPorts_modPort _ _ (movable_ne ha).symm
    · rfl
  · intro u f
    split
    · next a ha => exact otherPorts_modPort _ _ (movable_ne ha).symm
    · rfl

/-- A port just gone down. -/
def downPort (st : U8) (q : Port) : Port :=
  { q with state := st, missedRun := 0, nakSent := false, nakDue := false, trainOk := 0, lastTrain := none }

theorem routeEntry_raised (p i b v x : Nat) (f : Port → Port) (d : Nat) : routeEntry (raiseS (s.modPort p f) i b v x) d = routeEntry s d := by
  rw [raiseS_eq]
  rfl

theorem takeDown_port (s : State) (p : Nat) (st : U8) : ∃ n, (takeDown s p st).port p = movedPort s p n (downPort st (s.port p)) := by
  have hport : ∀ i, (raisePort (s.modPort p (downPort st)) p 2 p).port i = (s.modPort p (downPort st)).port i := fun i => by
    rw [State.port, raisePort, raiseS_links, State.port]
  obtain ⟨n, hn⟩ := moveFrames_port (raisePort (s.modPort p (downPort st)) p 2 p) p
  have hl : leaves (raisePort (s.modPort p (downPort st)) p 2 p) p = leaves s p := funext fun f => by
    rw [leaves, leaves, movable_congr (s := s) (t := raisePort (s.modPort p (downPort st)) p 2 p) (fun d => routeEntry_raised p 0x4103 (p + 1) 2 p (downPort st) d) fun a ha => (hport a).trans (otherPorts_modPort _ a ha)]
  refine ⟨n, hn.trans ?_⟩
  rw [hport, State.modPort_port_same, movedPort, hl]
  rfl

theorem takeDown_frame (s : State) (p : Nat) (st : U8) :
    takeDown s p st = { s with links := (takeDown s p st).links, aon := (takeDown s p st).aon } := by
  rw [state_eq_iff]
  simp

theorem exec_portDown_up {p : Fin 12} (h : (s.port p).state = 2) : exec (.portDown p) s = .next (takeDown s p 3) :=
  congrArg Host.Outcome.next (if_pos h)

/-! #### Acknowledgment intervals -/

section
variable {p : Fin 12}

/-- A port at the start of an acknowledgment interval. -/
def latchLimit (n : Nat) (q : Port) : Port := { q with limit := n }

theorem exec_ackDeadlineInterval_kept (h : (s.port p).state = 2) (hq : (s.port p).replay = [] ∨ (s.port p).ackMoved = true) :
    exec (.ackDeadlineInterval p) s = .next ((s.modPort p fun q => { q with missedRun := 0, ackMoved := false }).modPort p
      (latchLimit (setting s 0x4101 3))) := by
  have h2 : ¬ (s.port p).state ≠ 2 := fun k => k h
  have hno : ¬ (!(s.port p).replay.isEmpty && !(s.port p).ackMoved) = true := by
    obtain h | h := hq <;> simp [h]
  show execAckDeadlineInterval p s = _
  unfold execAckDeadlineInterval
  simp only [if_neg h2, if_neg hno]
  rfl

/-- A port with one more interval missed. -/
def missedPort (q : Port) : Port := { q with missed := q.missed + 1, missedRun := q.missedRun + 1 }

theorem exec_ackDeadlineInterval_missed (h : (s.port p).state = 2) (hr : (s.port p).replay ≠ []) (hm : (s.port p).ackMoved = false) :
    exec (.ackDeadlineInterval p) s = .next (State.modPort (if (s.port p).limit ≤ (s.port p).missedRun + 1
      then takeDown (s.modPort p missedPort) p 3 else s.modPort p missedPort) p (latchLimit (setting s 0x4101 3))) := by
  have h2 : ¬ (s.port p).state ≠ 2 := fun k => k h
  have hgo : (!(s.port p).replay.isEmpty && !(s.port p).ackMoved) = true := by simp [hr, hm]
  show execAckDeadlineInterval p s = _
  unfold execAckDeadlineInterval
  simp only [if_neg h2, if_pos hgo]
  rfl

end

/-- An event raised after changes of the ports alone. -/
theorem raiseS_ports_frame (h : t = { s with links := { s.links with ports := t.links.ports } }) (i b v x : Nat) :
    raiseS t i b v x = { s with links := { s.links with ports := (raiseS t i b v x).links.ports }, aon := (raiseS t i b v x).aon } := by
  have e := raiseS_eq t i b v x
  generalize raiseS t i b v x = w at *
  rw [e, h]

/-- Settles O51: each reason for going down leads to the same loss of the port. -/
theorem portsGoDownAndRetrain : Obligations.PortsGoDownAndRetrain := by
  unfold Obligations.PortsGoDownAndRetrain
  refine ⟨?_, ?_, ?_, ?_, ?_, ?_, ?_, ?_⟩
  · intro s p h
    obtain ⟨n, hn⟩ := takeDown_port s p 3
    refine ⟨_, exec_portDown_up h, ?_⟩
    rw [hn]
    refine ⟨rfl, rfl, rfl, fun f hf => List.mem_of_mem_filter hf, fun hall => ?_, takeDown_raises .., takeDown_aonKept .., takeDown_frame ..⟩
    exact List.filter_eq_self.mpr fun f hf => by rw [leaves_false (hall f hf)]; rfl
  · intro s p h
    exact ⟨congrArg Host.Outcome.next (if_neg h), congrArg (fun u : State => Host.Outcome.next (u.modPort p (latchLimit (setting s 0x4101 3)))) (if_pos h),
      fun n => congrArg Host.Outcome.next (if_neg fun k => h k.1), fun n => congrArg Host.Outcome.next (if_neg fun k => h k.1)⟩
  · intro s p h hq
    rw [exec_ackDeadlineInterval_kept h hq, modPort_modPort (by rw [h]; decide) (by show (s.port p).state ≠ 0; rw [h]; decide)]
    rfl
  · intro s p h hr hm hlim
    have hno : ¬ (s.port p).limit ≤ (s.port p).missedRun + 1 := by omega
    rw [exec_ackDeadlineInterval_missed h hr hm, if_neg hno,
      modPort_modPort (by show (s.port p).state ≠ 0; rw [h]; decide) (by show (s.port p).state ≠ 0; rw [h]; decide)]
    rfl
  · intro s p h hr hm hlim
    have hx := exec_ackDeadlineInterval_missed h hr hm
    rw [if_pos hlim] at hx
    obtain ⟨n, hn⟩ := takeDown_port (s.modPort p missedPort) p 3
    have hev := takeDown_raises (s.modPort p missedPort) p 3
    generalize takeDown (s.modPort p missedPort) p 3 = w at *
    refine ⟨_, hx, ?_⟩
    rw [State.modPort_port_same, hn, State.modPort_port_same]
    exact ⟨rfl, rfl, hev⟩
  · intro s p n h hn
    obtain ⟨k, hk⟩ := takeDown_port s p 3
    refine ⟨_, congrArg Host.Outcome.next (if_pos ⟨h, hn⟩), ?_, takeDown_raises ..⟩
    rw [hk]
    rfl
  · intro s p n h hn
    exact congrArg Host.Outcome.next (if_neg fun k => Nat.not_lt.mpr hn k.2)
  · intro s p l h hl hc
    have hgo : (s.port p).state = 2 ∧ (s.port p).lanes.contains l.val = true ∧ controllerDown s p = false :=
      ⟨h, List.contains_iff_mem.mpr hl, hc⟩
    have hx : exec (.laneFailure p l) s = .next (raisePort (s.modPort p fun q => { q with
      state := 3, lanes := q.lanes.filter fun x => decide (x ≠ l.val), trainOk := 0, lastTrain := none }) p 1 l) :=
      congrArg Host.Outcome.next (if_pos hgo)
    have ha : (s.modPort p fun q => { q with
      state := 3, lanes := q.lanes.filter fun x => decide (x ≠ l.val), trainOk := 0, lastTrain := none }).aon = s.aon := rfl
    have hp : ∀ i, (raisePort (s.modPort p fun q => { q with
        state := 3, lanes := q.lanes.filter fun x => decide (x ≠ l.val), trainOk := 0, lastTrain := none }) p 1 l).port i =
        (s.modPort p fun q => { q with
          state := 3, lanes := q.lanes.filter fun x => decide (x ≠ l.val), trainOk := 0, lastTrain := none }).port i := fun i => by
      rw [State.port, raisePort, raiseS_links, State.port]
    refine ⟨_, hx, ?_⟩
    rw [hp, State.modPort_port_same]
    exact ⟨rfl, rfl, rfl, rfl, raiseS_event_of s ha rfl rfl .., raiseS_kept_of s ha .., raiseS_ports_frame (modPort_frame p.val _) ..⟩

end Sys2Proof.Machine

/-! ### Transit frames, held frames and reincarnation (R340, R341, R343, R345, R349, R350) -/

namespace Sys2Proof.Machine

variable {s t u : State}

theorem ceSt_putFld_two (w : W256) : ceSt (putFld w 253 252 2) = 2 := fld_putFld_same w (by decide) (by decide) 2

/-- A received frame taken out of a port's buffer. -/
def takenPort (f : Frame) (free : Bool) (q : Port) : Port :=
  let r := if q.stuck.contains f then { q with stuck := eraseFirst f q.stuck } else { q with rx := eraseFirst f q.rx }
  if free then freeSpace r f else r

theorem takeRx_eq (s : State) (p : Nat) (f : Frame) (free : Bool) : takeRx s p f free = s.modPort p (takenPort f free) := rfl

theorem freeSpace_port (q : Port) (f : Frame) : (freeSpace q f).rx = q.rx ∧ (freeSpace q f).out = q.out ∧ (freeSpace q f).stuck = q.stuck := by
  unfold freeSpace
  split <;> exact ⟨rfl, rfl, rfl⟩

theorem takenPort_port {q : Port} {f : Frame} (h : f ∉ q.stuck) (free : Bool) : (takenPort f free q).rx = eraseFirst f q.rx ∧
    (takenPort f free q).out = q.out ∧ (takenPort f free q).stuck = q.stuck := by
  have hno : ¬ q.stuck.contains f = true := fun k => h (List.contains_iff_mem.mp k)
  unfold takenPort
  simp only [if_neg hno]
  cases free with
  | true => exact freeSpace_port ..
  | false => exact ⟨rfl, rfl, rfl⟩

theorem takenPort_out (q : Port) (f : Frame) (free : Bool) : (takenPort f free q).out = q.out := by
  have hr : (if q.stuck.contains f then { q with stuck := eraseFirst f q.stuck } else { q with rx := eraseFirst f q.rx }).out = q.out := by
    split <;> rfl
  unfold takenPort
  cases free with
  | true => exact (freeSpace_port _ f).2.1.trans hr
  | false => exact hr

section
variable {p : Fin 12} {f : Frame}

theorem exec_frameForward_of (hs : transit s (s.port p).stuck (fun f => (portFor s f.dst).isSome) = none)
    (hr : transit s (s.port p).rx (fun _ => true) = some f) (h0 : f.hops ≠ 0) {o : Nat} (ho : portFor s f.dst = some o) :
    exec (.frameForward p) s = .next (queueOut (takeRx s p f true) o { f with hops := f.hops - 1 }) := by
  show execFrameForward p s = _
  unfold execFrameForward
  simp only [hs, hr, if_neg h0, ho]

theorem exec_frameForward_dies (hs : transit s (s.port p).stuck (fun f => (portFor s f.dst).isSome) = none)
    (hr : transit s (s.port p).rx (fun _ => true) = some f) (h0 : f.hops = 0) : exec (.frameForward p) s =
      .next (raiseS { takeRx s p f true with links := { (takeRx s p f true).links with hopDrop := (takeRx s p f true).links.hopDrop + 1 } }
        0x4112 1 0 f.src) := by
  show execFrameForward p s = _
  unfold execFrameForward
  simp only [hs, hr, if_pos h0]

/-- A port with one more transit frame without a route. -/
def stuckPort (f : Frame) (q : Port) : Port := { q with stuck := q.stuck ++ [f] }

theorem exec_frameForward_stuck (hs : transit s (s.port p).stuck (fun f => (portFor s f.dst).isSome) = none)
    (hr : transit s (s.port p).rx (fun _ => true) = some f) (h0 : f.hops ≠ 0) (ho : portFor s f.dst = none) :
    exec (.frameForward p) s = .next { (takeRx s p f false).modPort p (stuckPort f) with
      links := { ((takeRx s p f false).modPort p (stuckPort f)).links with
        noRoute := ((takeRx s p f false).modPort p (stuckPort f)).links.noRoute + 1 } } := by
  show execFrameForward p s = _
  unfold execFrameForward
  simp only [hs, hr, if_neg h0, ho]
  rfl

theorem exec_frameForward_idle (hs : transit s (s.port p).stuck (fun f => (portFor s f.dst).isSome) = none)
    (hr : transit s (s.port p).rx (fun _ => true) = none) : exec (.frameForward p) s = .next s := by
  show execFrameForward p s = _
  unfold execFrameForward
  simp only [hs, hr]

theorem exec_heldFrameTimeout_of
    (h : (s.port p).rx.find? (fun f => decide (f.ftype = 1) && decide (f.dst = deviceId s) && heldData s f) = some f) :
    exec (.heldFrameTimeout p) s = .next (raisePort s p 1 f.chan) := by
  show execHeldFrameTimeout p s = _
  unfold execHeldFrameTimeout
  rw [h]

theorem exec_heldFrameTimeout_idle (h : ∀ f ∈ (s.port p).rx, f.ftype ≠ 1 ∨ f.dst ≠ deviceId s) :
    exec (.heldFrameTimeout p) s = .next s := by
  have hno : (s.port p).rx.find? (fun f => decide (f.ftype = 1) && decide (f.dst = deviceId s) && heldData s f) = none := by
    refine List.find?_eq_none.mpr fun f hf => ?_
    obtain h | h := h f hf <;> simp [h]
  show execHeldFrameTimeout p s = _
  unfold execHeldFrameTimeout
  rw [hno]

theorem exec_data_idle (h : ∀ f ∈ (s.port p).rx, f.ftype ≠ 1 ∨ f.dst ≠ deviceId s) : exec (.data p) s = .next s := by
  have hno : (s.port p).rx.find? (fun f => decide (f.ftype = 1) && decide (f.dst = deviceId s) && !heldData s f) = none := by
    refine List.find?_eq_none.mpr fun f hf => ?_
    obtain h | h := h f hf <;> simp [h]
  show execData p s = _
  unfold execData
  rw [hno]

/-- The channel that sends to a reincarnated device. -/
def markChannel (dev : Nat) (e : Nat × Channel5) : Nat × Channel5 :=
  if ceDir e.2.ent = 1 ∧ cePeer e.2.ent = dev then (e.1, { e.2 with ent := putFld e.2.ent 253 252 2 }) else e

theorem exec_reinc_of (h : (s.port p).rx.find? (fun f => decide (f.ftype = 5) && decide (f.dst = deviceId s)) = some f) :
    exec (.reinc p) s = .next (raisePort { takeRx s p f true with links := { (takeRx s p f true).links with
      chans := s.links.chans.map (markChannel ((nth 0 f.data 0).toNat % 32768)) } } p 2 (nth 0 f.data 1).toNat) := by
  show execReinc p s = _
  unfold execReinc
  rw [h]
  rfl

theorem exec_reinc_idle (h : ∀ f ∈ (s.port p).rx, f.ftype ≠ 5 ∨ f.dst ≠ deviceId s) : exec (.reinc p) s = .next s := by
  have hno : (s.port p).rx.find? (fun f => decide (f.ftype = 5) && decide (f.dst = deviceId s)) = none := by
    refine List.find?_eq_none.mpr fun f hf => ?_
    obtain h | h := h f hf <;> simp [h]
  show execReinc p s = _
  unfold execReinc
  rw [hno]

end

/-- A change of the values of a map that leaves the reset value as it is. -/
theorem mget_map {α : Type} {d : α} {g : Nat × α → Nat × α} (hk : ∀ e, (g e).1 = e.1) (n : Nat) (hd : (g (n, d)).2 = d) :
    ∀ m : SMap α, mget d (m.map g) n = (g (n, mget d m n)).2
  | [] => hd.symm
  | (j, v) :: m => by
    have ih := mget_map hk n hd m
    unfold mget at *
    rw [List.map_cons]
    obtain ⟨j', v', he⟩ : ∃ j' v', g (j, v) = (j', v') := ⟨_, _, rfl⟩
    have hj : j' = j := (congrArg Prod.fst he).symm.trans (hk (j, v))
    subst hj
    rw [he]
    unfold smGet
    split
    · next h => rw [← h, he]
    · exact ih

theorem mget_markChannel (dev n : Nat) (m : SMap Channel5) : mget {} (m.map (markChannel dev)) n =
    (markChannel dev (n, mget {} m n)).2 := by
  refine mget_map (fun e => ?_) n ?_ m
  · unfold markChannel
    split <;> rfl
  · have hno : ¬ (ceDir ({} : Channel5).ent = 1 ∧ cePeer ({} : Channel5).ent = dev) := fun h => absurd h.1 (by decide)
    exact congrArg Prod.snd (if_neg hno)

theorem raiseS_event_links (s : State) (l : Links) (i b v x : Nat) :
    EventRaised s (raiseS { s with links := l } i b v x) i b v (stokerId s) x :=
  raiseS_event_of (t := { s with links := l }) s rfl rfl rfl ..

theorem raiseS_kept_links (s : State) (l : Links) (i b v x : Nat) : AonKept s (raiseS { s with links := l } i b v x) :=
  raiseS_kept_of (t := { s with links := l }) s rfl ..

theorem raiseS_frame_links (s : State) (l : Links) (i b v x : Nat) : raiseS { s with links := l } i b v x =
    { s with links := (raiseS { s with links := l } i b v x).links, aon := (raiseS { s with links := l } i b v x).aon } :=
  raiseS_links_frame (t := { s with links := l }) rfl ..

/-- Settles O52: a frame in transit by its hops and its route, a held one by its bake, a REINC frame over the channels. -/
theorem transitAndHeldFrames : Obligations.TransitAndHeldFrames := by
  unfold Obligations.TransitAndHeldFrames
  refine ⟨?_, ?_, ?_, ?_, ?_, ?_, ?_, ?_⟩
  · intro s p hs hr
    exact exec_frameForward_idle hs hr
  · intro s p f o hs hr h0 ho hst
    have hx := exec_frameForward_of hs hr h0 ho
    rw [takeRx_eq] at hx
    obtain ⟨hrx, hout, -⟩ := takenPort_port hst true
    refine ⟨_, hx, ?_, ?_, ⟨rfl, rfl⟩, rfl⟩
    · rw [queueOut, State.modPort_port_same, State.modPort_port]
      split
      · next h => rw [h, takenPort_out]
      · rfl
    · rw [queueOut, State.modPort_port]
      split
      · next h => rw [← h, State.modPort_port_same, hrx]
      · rw [State.modPort_port_same, hrx]
  · intro s p f hs hr h0 hst
    have hx := exec_frameForward_dies hs hr h0
    obtain ⟨hrx, hout, -⟩ := takenPort_port hst true
    have hp : (takeRx s p f true).port p = takenPort f true (s.port p) := State.modPort_port_same ..
    have hf : takeRx s p f true = { s with links := (takeRx s p f true).links } := rfl
    have hd : (takeRx s p f true).links.hopDrop = s.links.hopDrop := rfl
    generalize takeRx s p f true = v at *
    have hw : ({ v with links := { v.links with hopDrop := v.links.hopDrop + 1 } } : State) =
        { s with links := { v.links with hopDrop := v.links.hopDrop + 1 } } := by rw [hf]
    rw [hw] at hx
    refine ⟨_, hx, ?_, ?_, ?_, raiseS_event_links .., raiseS_frame_links ..⟩
    · rw [State.port, raiseS_links]
      exact (congrArg Port.rx hp :).trans hrx
    · rw [raiseS_links, ← hd]
    · rw [State.port, raiseS_links]
      exact (congrArg Port.out hp :).trans hout
  · intro s p f hs hr h0 ho hst
    have hx := exec_frameForward_stuck hs hr h0 ho
    obtain ⟨hrx, -, hstk⟩ := takenPort_port hst false
    have hp : ((takeRx s p f false).modPort p (stuckPort f)).port p = stuckPort f (takenPort f false (s.port p)) := by
      rw [takeRx_eq, State.modPort_port_same, State.modPort_port_same]
    have hf : (takeRx s p f false).modPort p (stuckPort f) = { s with links := ((takeRx s p f false).modPort p (stuckPort f)).links } := rfl
    have hn : ((takeRx s p f false).modPort p (stuckPort f)).links.noRoute = s.links.noRoute := rfl
    generalize (takeRx s p f false).modPort p (stuckPort f) = v at *
    have hw : ({ v with links := { v.links with noRoute := v.links.noRoute + 1 } } : State) =
        { s with links := { v.links with noRoute := s.links.noRoute + 1 } } := by rw [hf, ← hn]
    rw [hw] at hx
    exact ⟨_, hx, (congrArg Port.rx hp :).trans hrx, (congrArg Port.stuck hp :).trans (congrArg (· ++ [f]) hstk), rfl, rfl⟩
  · intro s p f h
    exact ⟨_, exec_heldFrameTimeout_of h, raiseS_event .., raiseS_kept .., raiseS_eq ..⟩
  · intro s p h
    exact ⟨exec_heldFrameTimeout_idle h, exec_data_idle h⟩
  · intro s p h
    exact exec_reinc_idle h
  · intro s p f h
    have hx := exec_reinc_of h
    have hw : ({ takeRx s p f true with links := { (takeRx s p f true).links with
        chans := s.links.chans.map (markChannel ((nth 0 f.data 0).toNat % 32768)) } } : State) =
        { s with links := { (takeRx s p f true).links with
          chans := s.links.chans.map (markChannel ((nth 0 f.data 0).toNat % 32768)) } } := by rw [takeRx_eq]; rfl
    rw [hw, raisePort] at hx
    refine ⟨_, hx, fun n hd hp => ?_, fun n hno => ?_, raiseS_event_links .., raiseS_frame_links ..⟩
    · rw [State.channel, raiseS_links, mget_markChannel]
      unfold markChannel
      rw [if_pos ⟨hd, hp⟩]
      exact ceSt_putFld_two _
    · rw [State.channel, raiseS_links, mget_markChannel]
      unfold markChannel
      rw [if_neg (fun k => hno.elim (fun h => h k.1) fun h => h k.2)]
      rfl

end Sys2Proof.Machine

/-! ### The power broker and the digests (R351 to R353, R378, R379, R424 to R426) -/

namespace Sys2Proof.Machine

variable {s t u : State}

/-! #### Reports and allocation -/

theorem sendFrame_broker (s : State) (f : Frame) : (sendFrame s f).links.brokerK = s.links.brokerK ∧
    (sendFrame s f).links.reports = s.links.reports ∧ sendFrame s f = { s with links := (sendFrame s f).links } := by
  unfold sendFrame
  split <;> exact ⟨rfl, rfl, rfl⟩

/-- What the sending of reports leaves as it was. -/
def ReportsSent (s t : State) : Prop :=
  t.links.brokerK = s.links.brokerK ∧ t.links.reports = s.links.reports ∧ t = { s with links := t.links }

theorem reportsSent_foldl {α : Type} (f : State → α → Frame) (l : List α) (s : State) :
    ReportsSent s (l.foldl (fun u d => sendFrame u (f u d)) s) := by
  refine foldl_prop (p := ReportsSent s) (fun u d h => ?_) l ⟨rfl, rfl, rfl⟩
  obtain ⟨hk, hr, hf⟩ := h
  obtain ⟨k, r, g⟩ := sendFrame_broker u (f u d)
  exact ⟨k.trans hk, r.trans hr, g.trans (by rw [hf])⟩

theorem countReport_new {r : BrokerReport} (h : s.links.reports.find? (fun e => decide (e.1 = r.dev.toNat)) = none) (own : Bool) :
    countReport s r own = { s with links := { s.links with
      reports := s.links.reports ++ [(r.dev.toNat, r)], lastCap := mset 0 s.links.lastCap r.dev.toNat r.cap
      counted := if own then s.links.counted else s.links.counted + 1 } } := by
  unfold countReport
  rw [h]
  rfl

/-- The power allocated for an interval that starts. -/
def allocFor (s : State) (k : U64) : Option F32 :=
  if s.power.lastK + 1 = k ∧ s.links.quiet < 4 then some s.power.lastOwn else if s.links.quiet < 4 then s.power.alloc else none

/-- A state in which an interval of the broker has just started. -/
def intervalStarted (s : State) (k : U64) : State :=
  { s with links := { s.links with brokerK := k, reports := [] }, power := { s.power with alloc := allocFor s k } }

/-- This device's own report. -/
def ownReport (s : State) (k : U64) (slack : U32) : BrokerReport :=
  ⟨BitVec.ofNat 32 (setting s 0x4120 1), k, BitVec.ofNat 16 (deviceId s), memberPrefix s,
    if s.baker.slots.any (fun e => decide (e.2.state = 3)) then slack else 50000, capInForce (intervalStarted s k), baseCap s⟩

theorem exec_brokerInterval_of {k : U64} {x : U32} (hb : brokered s = true) (hid : deviceId s ≠ 0xFFFF) : ∃ l : List Nat,
    exec (.brokerInterval k x) s = .next (l.foldl
      (fun u d => sendFrame u (newFrame u 3 2 d (blockWords (reportBytes (ownReport s k x)))))
      (countReport (intervalStarted s k) (ownReport s k x) true)) := by
  have hno : ¬ (!brokered s || decide (deviceId s = 0xFFFF)) = true := by
    rw [hb, decide_eq_false hid]
    exact Bool.false_ne_true
  exact ⟨_, congrArg Host.Outcome.next (if_neg hno)⟩

theorem ownReport_counted (s : State) (k : U64) (x : U32) :
    (countReport (intervalStarted s k) (ownReport s k x) true).links.brokerK = k ∧
    (countReport (intervalStarted s k) (ownReport s k x) true).links.reports = [(deviceId s % 65536, ownReport s k x)] ∧
    countReport (intervalStarted s k) (ownReport s k x) true = { s with
      links := (countReport (intervalStarted s k) (ownReport s k x) true).links, power := { s.power with alloc := allocFor s k } } := by
  have hdev : (ownReport s k x).dev.toNat = deviceId s % 65536 := BitVec.toNat_ofNat ..
  rw [countReport_new (by rfl), hdev]
  exact ⟨rfl, rfl, rfl⟩

section
variable {p : Fin 12} {us : Nat} {f : Frame}

/-- A report at hand has been taken out of the receive buffer and found late. -/
def lateReport (s : State) : State := { s with links := { s.links with late := s.links.late + 1 } }

theorem exec_broker_of (h : (s.port p).rx.find? (fun f => decide (f.ftype = 3) && decide (f.dst = deviceId s)) = some f) :
    exec (.broker p us) s = .next
      (if (reportOf (wordsBytes f.data)).group.toNat ≠ setting s 0x4120 1 ∨ (reportOf (wordsBytes f.data)).pfx ≠ memberPrefix s then
        raiseS (lateReport (takeRx s p f true)) 0x4121 2 1 f.src
       else if (reportOf (wordsBytes f.data)).k ≠ s.links.brokerK ∨ 25 < us then lateReport (takeRx s p f true)
       else countReport (takeRx s p f true) (reportOf (wordsBytes f.data)) false) := by
  show execBroker p us s = _
  unfold execBroker
  rw [h]
  rfl

theorem exec_broker_idle (h : ∀ f ∈ (s.port p).rx, f.ftype ≠ 3 ∨ f.dst ≠ deviceId s) : exec (.broker p us) s = .next s := by
  have hno : (s.port p).rx.find? (fun f => decide (f.ftype = 3) && decide (f.dst = deviceId s)) = none := by
    refine List.find?_eq_none.mpr fun f hf => ?_
    obtain h | h := h f hf <;> simp [h]
  show execBroker p us s = _
  unfold execBroker
  rw [hno]

end

/-- The allocation over the reports that count. -/
def allocation (s : State) (own : BrokerReport) : Alloc :=
  allocate (ratOf (BitVec.ofNat 32 (setting s 0x4120 3))) (s.links.reports.map (·.2))
    (((members s).filter fun d => !(s.links.reports.any fun e => decide (e.1 = d))).map fun d => ratOf (mget 0 s.links.lastCap d)) own

/-- A state with the allocation for the next interval. -/
def allocated (s : State) (a : Alloc) (missing : Nat) : State :=
  { s with
    power := { s.power with
      lastK := s.links.brokerK, lastOwn := f32Of a.own, lastLambda := f32Of a.lam, lastS := f32Of a.mean,
      counted := BitVec.ofNat 16 (s.links.reports.map (·.2)).length, missing := BitVec.ofNat 16 missing,
      shortfalls := if a.short then s.power.shortfalls + 1 else s.power.shortfalls },
    links := { s.links with quiet := if (s.links.reports.map (·.2)).length ≤ 1 then s.links.quiet + 1 else 0 } }

theorem allocated_frame (s : State) (a : Alloc) (n : Nat) :
    (allocated s a n).links = { s.links with quiet := if s.links.reports.length ≤ 1 then s.links.quiet + 1 else 0 } ∧
    allocated s a n = { s with power := (allocated s a n).power, links := (allocated s a n).links } := by
  refine ⟨?_, rfl⟩
  unfold allocated
  rw [List.length_map]

theorem raiseS_powerLinks_frame (h : t = { s with power := t.power, links := t.links }) (i b v x : Nat) : raiseS t i b v x =
    { s with power := t.power, links := t.links, aon := (raiseS t i b v x).aon } := by
  have e := raiseS_eq t i b v x
  generalize raiseS t i b v x = w at *
  rw [e]
  exact congrArg (fun u : State => { u with aon := w.aon }) h

theorem exec_brokerAllocation_of {own : Nat × BrokerReport} (hb : brokered s = true)
    (h : s.links.reports.find? (fun e => decide (e.1 = deviceId s)) = some own) : exec .brokerAllocation s = .next
      (if (allocation s own.2).short then raiseS (allocated s (allocation s own.2)
          ((members s).filter fun d => !(s.links.reports.any fun e => decide (e.1 = d))).length) 0x2132 2 1 0
       else allocated s (allocation s own.2) ((members s).filter fun d => !(s.links.reports.any fun e => decide (e.1 = d))).length) := by
  have hno : ¬ (!brokered s) = true := by
    rw [hb]
    exact Bool.false_ne_true
  show execBrokerAllocation s = _
  unfold execBrokerAllocation
  simp only [h, if_neg hno]
  rfl

theorem exec_brokerAllocation_waits (h : brokered s = false ∨ ∀ e ∈ s.links.reports, e.1 ≠ deviceId s) :
    exec .brokerAllocation s = .next s := by
  show execBrokerAllocation s = _
  unfold execBrokerAllocation
  cases hf : s.links.reports.find? fun e => decide (e.1 = deviceId s) with
  | none => simp only
  | some own =>
    have hb : brokered s = false := h.resolve_right fun k =>
      k own (List.mem_of_find?_eq_some hf) (of_decide_eq_true (List.find?_some hf :))
    have hgo : (!brokered s) = true := by rw [hb]; rfl
    simp only [if_pos hgo]

/-! #### Digests -/

theorem bytesWords_length : ∀ n l, (bytesWords n l).length = n
  | 0, _ => rfl
  | n + 1, l => congrArg (· + 1) (bytesWords_length n _)

theorem blockWords_padded (l : List Byte) :
    padTo 0 (16 * (((blockWords l).length + 15) / 16)) (blockWords l) = blockWords l := by
  have h : (blockWords l).length = 16 := bytesWords_length ..
  rw [h]
  unfold padTo
  simp [h]

/-- A port's turn in the sending of digests. -/
def digestTurn (w : List U64) (t : State) (p : Nat) : State :=
  if portUp t p then queueOut t p (newFrame t 4 1 (t.port p).peerDev.toNat w) else t

/-- The first ports have had their turns: each that is up has a DIGEST frame more to send. -/
def DigestsSent (l : List Byte) (s t : State) (n : Nat) : Prop :=
  (∀ p < n, portUp s p = true → ∃ g, (t.port p).out = (s.port p).out ++ [g] ∧ g.ftype = 4 ∧ g.cls = 1 ∧ g.data = blockWords l) ∧
  (∀ p, n ≤ p ∨ portUp s p = false → t.port p = s.port p) ∧ t = { s with links := { s.links with ports := t.links.ports } }

theorem digestsSent_turn {l : List Byte} {n : Nat} (h : DigestsSent l s t n) : DigestsSent l s (digestTurn (blockWords l) t n) (n + 1) := by
  obtain ⟨hup, hkept, hf⟩ := h
  have hn : t.port n = s.port n := hkept n (.inl (Nat.le_refl n))
  have hpu : portUp t n = portUp s n := by rw [portUp, portUp, hn]
  unfold digestTurn
  rw [hpu]
  cases hs : portUp s n with
  | false =>
    refine ⟨fun p hp hu => hup p ?_ hu, fun p hp => hkept p (hp.imp_left fun k => by omega), hf⟩
    have hne : p ≠ n := fun h => by
      rw [h, hs] at hu
      exact Bool.noConfusion hu
    omega
  | true =>
    refine ⟨fun p hp hu => ?_, fun p hp => ?_, ?_⟩
    · rw [if_pos rfl, queueOut, State.modPort_port]
      split
      · next hpn =>
        rw [hpn, hn]
        exact ⟨_, rfl, rfl, rfl, blockWords_padded l⟩
      · exact hup p (by omega) hu
    · have hne : p ≠ n := fun h => by
        obtain k | k := hp
        · omega
        · rw [h, hs] at k
          exact Bool.noConfusion k
      rw [if_pos rfl, queueOut, State.modPort_port, if_neg hne]
      exact hkept p (hp.imp_left fun k => by omega)
    · rw [if_pos rfl, hf]
      rfl

theorem digestsSent_range (l : List Byte) (s : State) : ∀ n, DigestsSent l s ((List.range n).foldl (digestTurn (blockWords l)) s) n
  | 0 => ⟨fun p hp => absurd hp (Nat.not_lt_zero p), fun _ _ => rfl, rfl⟩
  | n + 1 => by
    rw [List.range_succ, List.foldl_append]
    exact digestsSent_turn (digestsSent_range l s n)

theorem exec_digestSend_of (h : deviceId s ≠ 0xFFFF) :
    exec .digestSend s = .next ((List.range 12).foldl (digestTurn (blockWords (digestPayload s))) s) :=
  congrArg Host.Outcome.next (if_neg h)

/-- A port that has compared a peer's digests. -/
def comparedPort (bad : Bool) (peer : U16) (q : Port) : Port :=
  { q with mismatch := bad, reported := bad && q.mismatch && q.reported, peerBad := if bad then peer else q.peerBad }

/-- The digests of a frame differ from this device's. -/
def digestsDiffer (s : State) (l : List Byte) : Bool :=
  decide (slice l 16 16 ≠ sharedDigest s) || expectedDiffers s 4 (slice l 32 16) || expectedDiffers s 5 (slice l 48 16)

theorem exec_digest_of {p : Fin 12} {f : Frame} (h : (s.port p).rx.find? (fun f => decide (f.ftype = 4)) = some f) : exec (.digest p) s =
    .next ((takeRx s p f true).modPort p (comparedPort (digestsDiffer s (wordsBytes f.data)) (BitVec.ofNat 16 (ofLe (slice (wordsBytes f.data) 4 2))))) := by
  show execDigest p s = _
  unfold execDigest
  rw [h]
  rfl

theorem exec_digest_idle {p : Fin 12} (h : ∀ f ∈ (s.port p).rx, f.ftype ≠ 4) : exec (.digest p) s = .next s := by
  have hno : (s.port p).rx.find? (fun f => decide (f.ftype = 4)) = none :=
    List.find?_eq_none.mpr fun f hf => by simpa using h f hf
  show execDigest p s = _
  unfold execDigest
  rw [hno]

/-- A state that has noted the digest mismatch of a port. -/
def reportedOnce (s : State) (p : Nat) : State :=
  { s with links := { s.links with
    ports := mmod {} s.links.ports p fun q => { q with reported := true }, mismatches := s.links.mismatches + 1
    lastBad := BitVec.ofNat 32 (p + (s.port p).peerBad.toNat * 2 ^ 16) } }

theorem exec_digestMismatchHold_of {p : Fin 12} (hm : (s.port p).mismatch = true) (hr : (s.port p).reported = false) :
    exec (.digestMismatchHold p) s = .next (raiseS (reportedOnce s p) 0x1130 6 2 (p.val + (s.port p).peerBad.toNat * 2 ^ 16)) :=
  congrArg Host.Outcome.next (if_pos ⟨hm, hr⟩)

/-- Settles O54: a report by its group and time, the allocation by its interval, the digests by what each port sent. -/
theorem brokerAndDigestsAgree : Obligations.BrokerAndDigestsAgree := by
  unfold Obligations.BrokerAndDigestsAgree
  refine ⟨⟨?_, ?_, ?_, ?_, ?_, ?_⟩, ?_, ?_, ?_, ?_, ?_, ?_⟩
  · intro s k x h
    refine congrArg Host.Outcome.next (if_pos ?_)
    obtain h | h := h <;> simp [h]
  · intro s k x hb hid
    obtain ⟨l, hx⟩ := exec_brokerInterval_of (k := k) (x := x) hb hid
    obtain ⟨hk, hrep, hf⟩ := reportsSent_foldl (fun u d => newFrame u 3 2 d (blockWords (reportBytes (ownReport s k x)))) l
      (countReport (intervalStarted s k) (ownReport s k x) true)
    obtain ⟨ck, crep, cf⟩ := ownReport_counted s k x
    generalize countReport (intervalStarted s k) (ownReport s k x) true = v at *
    generalize List.foldl _ v l = w at *
    have hpow : w.power = { s.power with alloc := allocFor s k } := by rw [hf, cf]
    refine ⟨w, ownReport s k x, hx, hk.trans ck, hrep.trans crep, rfl, rfl, rfl, fun hrun => ?_, fun hlast hq => ?_, fun hq => ?_, ?_⟩
    · exact if_neg (by rw [hrun]; exact Bool.false_ne_true)
    · rw [hpow, allocFor, if_pos ⟨hlast, hq⟩]
    · rw [hpow, allocFor, if_neg (by omega), if_neg (by omega)]
    · rw [hpow, hf, cf]
  · intro s p us h
    exact exec_broker_idle h
  · intro s p us f hfind hst r taken
    have hx := exec_broker_of (us := us) hfind
    have hrx : taken (takeRx s p f true) := by
      show ((takeRx s p f true).port p).rx = _
      rw [takeRx_eq, State.modPort_port_same]
      exact (takenPort_port hst true).1
    have hports : ∀ l : Links, l.ports = (takeRx s p f true).links.ports → taken { s with links := l } := fun l hl => by
      show (({ s with links := l } : State).port p).rx = _
      rw [← hrx, State.port, State.port, ← hl]
    have hf : takeRx s p f true = { s with links := (takeRx s p f true).links } := rfl
    have hlink : (takeRx s p f true).links.late = s.links.late ∧ (takeRx s p f true).links.reports = s.links.reports ∧
      (takeRx s p f true).links.counted = s.links.counted := ⟨rfl, rfl, rfl⟩
    generalize takeRx s p f true = v at *
    have hlate : lateReport v = { s with links := { v.links with late := s.links.late + 1 } } := by
      rw [lateReport, hlink.1, hf]
    refine ⟨fun hg hp hk hus hnew => ?_, fun hg hp hlt => ?_, fun hno => ?_⟩
    · rw [if_neg (not_or.mpr ⟨not_not.mpr hg, not_not.mpr hp⟩), if_neg (not_or.mpr ⟨not_not.mpr hk, Nat.not_lt.mpr hus⟩),
        countReport_new (by rw [hlink.2.1]; exact hnew), hlink.2.1, hlink.2.2, hf] at hx
      exact ⟨_, hx, hports _ rfl, rfl, rfl, mget_mset_same .., rfl⟩
    · rw [if_neg (not_or.mpr ⟨not_not.mpr hg, not_not.mpr hp⟩), if_pos hlt, hlate] at hx
      exact ⟨_, hx, hports _ rfl, rfl, hlink.2.1, rfl⟩
    · rw [if_pos hno, hlate] at hx
      refine ⟨_, hx, ?_, ?_, ?_, raiseS_event_links ..⟩
      · show ((raiseS _ _ _ _ _).port p).rx = _
        rw [State.port, raiseS_links]
        exact hports _ rfl
      · rw [raiseS_links]
      · rw [raiseS_links]
        exact hlink.2.1
  · intro s h
    exact exec_brokerAllocation_waits h
  · intro s own hb hown missing a
    have hx := exec_brokerAllocation_of hb hown
    have hal : allocation s own.2 = a := rfl
    obtain ⟨hl, hf⟩ := allocated_frame s a missing.length
    rw [hal] at hx
    cases hs : a.short with
    | true =>
      have hsh : (allocated s a missing.length).power.shortfalls = s.power.shortfalls + 1 := if_pos hs
      have hev := raiseS_event_of (t := allocated s a missing.length) s rfl rfl rfl 0x2132 2 1 0
      have hp : (raiseS (allocated s a missing.length) 0x2132 2 1 0).power = (allocated s a missing.length).power := by simp
      rw [hs, if_pos rfl] at hx
      refine ⟨_, hx, ?_⟩
      rw [hp, raiseS_links]
      exact ⟨rfl, rfl, rfl, rfl, hl, fun _ => ⟨hsh, hev⟩, fun h => Bool.noConfusion h, raiseS_powerLinks_frame hf ..⟩
    | false =>
      have hsh : (allocated s a missing.length).power.shortfalls = s.power.shortfalls := if_neg (by rw [hs]; exact Bool.false_ne_true)
      rw [hs, if_neg Bool.false_ne_true] at hx
      exact ⟨_, hx, rfl, rfl, rfl, rfl, hl, fun h => Bool.noConfusion h, fun _ => ⟨hsh, rfl, rfl⟩, rfl⟩
  · intro s h
    exact congrArg Host.Outcome.next (if_pos h)
  · intro s h
    obtain ⟨hup, hkept, hf⟩ := digestsSent_range (digestPayload s) s 12
    exact ⟨_, exec_digestSend_of h, hup, fun p hp => hkept p (.inr hp), hf⟩
  · intro s p h
    exact exec_digest_idle h
  · intro s p f hfind hst
    have hx := exec_digest_of hfind
    have hport : (takeRx s p f true).port p = takenPort f true (s.port p) := by rw [takeRx_eq, State.modPort_port_same]
    have hother : ∀ q, q ≠ p.val → (takeRx s p f true).port q = s.port q := otherPorts_modPort _
    have hf : takeRx s p f true = { s with links := { s.links with ports := (takeRx s p f true).links.ports } } := rfl
    have hrx := (takenPort_port hst true).1
    have hself : ∀ g, ((takeRx s p f true).modPort p g).port p = g (takenPort f true (s.port p)) := fun g => by
      rw [State.modPort_port_same, hport]
    refine ⟨_, hx, ?_, fun hd => ?_, fun h1 h2 h3 => ?_, fun q hq => ?_, ?_⟩
    · rw [hself]
      exact hrx
    · rw [hself]
      show digestsDiffer s (wordsBytes f.data) = true
      simp [digestsDiffer, hd]
    · have hno : digestsDiffer s (wordsBytes f.data) = false := by simp [digestsDiffer, h1, h2, h3]
      rw [hself, hno]
      exact ⟨rfl, rfl⟩
    · rw [otherPorts_modPort _ q hq, hother q hq]
    · generalize takeRx s p f true = v at *
      rw [hf]
      rfl
  · intro s p hm hr
    have hx := exec_digestMismatchHold_of hm hr
    rw [reportedOnce] at hx
    refine ⟨_, hx, ?_, ?_, raiseS_event_links .., raiseS_kept_links .., raiseS_frame_links ..⟩
    · rw [State.port, raiseS_links]
      exact mget_mset_same ..
    · rw [raiseS_links]
  · intro s p h
    refine congrArg Host.Outcome.next (if_neg fun ⟨hm, hr⟩ => ?_)
    obtain h | h := h
    · exact absurd (hm.symm.trans h) (by decide)
    · exact absurd (hr.symm.trans h) (by decide)

end Sys2Proof.Machine

/-! ### Remote signals (R294, R296) -/

namespace Sys2Proof.Machine

variable {s t u : State}

theorem syncObj_setSyncObj (s : State) (n : Nat) (o : SyncObj) : syncObj (setSyncObj s n o) n = o := by
  unfold syncObj setSyncObj
  split
  · exact mget_mset_same ..
  · rw [State.modCore_core_same]
    exact mget_mset_same ..

theorem setSyncObj_ring (s : State) (n : Nat) (o : SyncObj) : (setSyncObj s n o).ring.sigs = s.ring.sigs ∧
    (setSyncObj s n o).ring.stale = s.ring.stale ∧
    setSyncObj s n o = { s with cores := (setSyncObj s n o).cores, ring := (setSyncObj s n o).ring } := by
  unfold setSyncObj
  split <;> exact ⟨rfl, rfl, rfl⟩

/-- The oldest remote signal has left the network. -/
def signalTaken (s : State) (rest : List (CoreId × Sig)) : State := { s with ring := { s.ring with sigs := rest } }

theorem exec_remoteSignalApply_of {c : CoreId} {g : Sig} {rest : List (CoreId × Sig)} (h : s.ring.sigs = (c, g) :: rest) :
    exec .remoteSignalApply s = .next (signalObj (signalTaken s rest) g) := by
  show execRemoteSignalApply s = _
  unfold execRemoteSignalApply
  rw [h]
  rfl

theorem syncObj_signalTaken (s : State) (rest : List (CoreId × Sig)) (n : Nat) : syncObj (signalTaken s rest) n = syncObj s n := rfl

theorem applySig_eq (o : SyncObj) (b : Bool) (v : U32) : applySig o b v = { o with value := if b then v else o.value + v } := by
  unfold applySig
  cases b <;> rfl

/-- A core whose oldest finished step has sent its signals. -/
theorem exec_syncNetworkTurn_of {c : CoreId} {g : List Sig} {rest : List (List Sig)} (hc : coreExists s c = true)
    (hq : (s.core c).sync.queue = g :: rest) (hf : s.flue.compiling = false) (hu : usable s c = true) :
    exec (.syncNetworkTurn c) s = .next { s.modCore c (fun k => k.modSync fun y => { y with queue := y.queue.drop 1 }) with
      ring := { s.ring with sigs := s.ring.sigs ++ g.map fun x => (c, x) } } := by
  have hno : ¬ (s.flue.compiling || !usable s c) = true := by
    rw [hf, hu]
    exact Bool.false_ne_true
  refine Eq.trans ?_ (onCore_of_exists hc _)
  show execSyncNetworkTurn c s = _
  unfold execSyncNetworkTurn
  rw [hq]
  simp only [if_neg hno]
  rfl

theorem exec_syncNetworkTurn_waits {c : CoreId} (hc : coreExists s c = true)
    (h : (s.core c).sync.queue = [] ∨ s.flue.compiling = true ∨ usable s c = false) : exec (.syncNetworkTurn c) s = .next s := by
  refine Eq.trans ?_ (onCore_of_exists hc _)
  show execSyncNetworkTurn c s = _
  unfold execSyncNetworkTurn
  cases hq : (s.core c).sync.queue with
  | nil => rfl
  | cons g rest =>
    have hgo : (s.flue.compiling || !usable s c) = true := by
      rw [hq] at h
      obtain h | h | h := h
      · exact nomatch h
      · simp [h]
      · simp [h]
    simp only [if_pos hgo]

/-- Settles O35: the front of the network's list is taken, and its epoch compared with the object's. -/
theorem remoteSignalsTravelInOrder : Obligations.RemoteSignalsTravelInOrder := by
  unfold Obligations.RemoteSignalsTravelInOrder
  refine ⟨?_, ?_, ?_, ?_, ?_⟩
  · intro s c g rest hc hq hf hu
    refine ⟨_, exec_syncNetworkTurn_of hc hq hf hu, ?_, rfl, fun d hd => ?_, rfl⟩
    · show ((s.modCore c fun k => k.modSync fun y => { y with queue := y.queue.drop 1 }).core c).sync.queue = rest
      rw [State.modCore_core_same]
      show (s.core c).sync.queue.drop 1 = rest
      rw [hq]
      rfl
    · show (s.modCore c fun k => k.modSync fun y => { y with queue := y.queue.drop 1 }).core d = _
      rw [State.modCore_core, if_neg hd]
  · intro s c hc h
    exact exec_syncNetworkTurn_waits hc h
  · intro s h
    show execRemoteSignalApply s = _
    unfold execRemoteSignalApply
    rw [h]
  · intro s c g rest h he
    have hx := exec_remoteSignalApply_of h
    have hob := syncObj_signalTaken s rest g.obj
    obtain ⟨hsig, hst, hf⟩ := setSyncObj_ring (signalTaken s rest) g.obj (applySig (syncObj s g.obj) g.set g.val)
    have hset := syncObj_setSyncObj (signalTaken s rest) g.obj (applySig (syncObj s g.obj) g.set g.val)
    have hgo : signalObj (signalTaken s rest) g = setSyncObj (signalTaken s rest) g.obj (applySig (syncObj s g.obj) g.set g.val) := by
      unfold signalObj
      rw [hob]
      exact if_pos he
    rw [hgo] at hx
    refine ⟨_, hx, hset.trans (applySig_eq ..), hsig, hst, ?_⟩
    generalize setSyncObj (signalTaken s rest) g.obj _ = w at *
    rw [hf]
    rfl
  · intro s c g rest h he
    rw [exec_remoteSignalApply_of h]
    refine congrArg Host.Outcome.next ?_
    unfold signalObj
    rw [syncObj_signalTaken]
    exact if_neg he

end Sys2Proof.Machine

/-! ### The host registers of the work rings (R272 to R275, R345) -/

namespace Sys2Proof.Machine

variable {s t u : State}

/-! #### RING_CTL -/

section
variable (old val : U64)

theorem rcEn_ctlBits : rcEn (ctlBits old val) = rcEn val := by
  unfold rcEn ctlBits
  rw [bitAt_putFld_other _ (by decide) (.inr (by decide)) (by decide), bitAt_putFld_other _ (by decide) (.inr (by decide)) (by decide),
    bitAt_putFld_other _ (by decide) (.inl (by decide)) (by decide)]

theorem rcLg_ctlBits : rcLg (ctlBits old val) = rcLg val := by
  unfold rcLg ctlBits
  rw [fld_putFld_other _ (by decide) (by decide) (.inl (by decide)) (by decide),
    fld_putFld_other _ (by decide) (by decide) (.inr (by decide)) (by decide),
    fld_putFld_other _ (by decide) (by decide) (.inl (by decide)) (by decide)]

theorem err_ctlBits : bitAt (ctlBits old val) 30 = bitAt old 30 := by
  rw [bitAt_eq_fld, bitAt_eq_fld, ctlBits, fld_putFld_fld _ _ (by decide) (by decide)]

theorem rcLg_keepFields : rcLg (keepFields old val) = rcLg old := by
  unfold rcLg keepFields
  rw [fld_putFld_fld _ _ (by decide) (by decide)]

theorem rcEn_off (w : U64) : rcEn (setBit w 31 false) = false := bitAt_setBit_same w (by decide) false

theorem rcEn_clearErr (w : U64) : rcEn (setBit (setBit w 31 false) 30 false) = false :=
  (bitAt_setBit_other _ (by decide) (by decide) false).trans (rcEn_off w)

theorem err_clearErr (w : U64) : bitAt (setBit (setBit w 31 false) 30 false) 30 = false := bitAt_setBit_same _ (by decide) false

theorem rcLg_clearErr (w : U64) : rcLg (setBit (setBit w 31 false) 30 false) = rcLg w :=
  (fld_setBit_other _ (by decide) (by decide) (.inl (by decide)) false).trans (fld_setBit_other _ (by decide) (by decide) (.inl (by decide)) false)

end

/-! #### Writes of the registers -/

theorem writeBase_disabled {r : Nat} (h : rcEn (s.workRing r).ctl = false) (f : Ring → Ring) : writeBase s r f = s.modRing r f :=
  if_neg (by rw [h]; exact Bool.false_ne_true)

theorem writeBase_enabled {r : Nat} (h : rcEn (s.workRing r).ctl = true) (f : Ring → Ring) : writeBase s r f = ignoreWrite s r := if_pos h

/-- An event raised after changes of the rings alone. -/
theorem raiseS_ring_frame (h : t = { s with ring := t.ring }) (i b v x : Nat) : EventRaised s (raiseS t i b v x) i b v (stokerId s) x ∧
    AonKept s (raiseS t i b v x) ∧ raiseS t i b v x = { s with ring := t.ring, aon := (raiseS t i b v x).aon } := by
  have e := raiseS_eq t i b v x
  refine ⟨raiseS_event_of s (by rw [h]) (by rw [h]) (by rw [h]) .., raiseS_kept_of s (by rw [h]) .., ?_⟩
  generalize raiseS t i b v x = w at *
  rw [e]
  exact congrArg (fun u : State => { u with aon := w.aon }) h

/-- A write that an enabled ring ignores. -/
theorem ignoreWrite_kept (s : State) (r : Nat) : (ignoreWrite s r).ring = { s.ring with ignored := s.ring.ignored + 1 } ∧
    EventRaised s (ignoreWrite s r) 0x5000 5 0 (stokerId s) r ∧ AonKept s (ignoreWrite s r) ∧
    ignoreWrite s r = { s with ring := (ignoreWrite s r).ring, aon := (ignoreWrite s r).aon } := by
  obtain ⟨hev, hk, hf⟩ := raiseS_ring_frame (s := s) (t := { s with ring := { s.ring with ignored := s.ring.ignored + 1 } }) rfl 0x5000 5 0 r
  exact ⟨raiseS_ring .., hev, hk, by rw [ignoreWrite, raiseS_ring]; exact hf⟩

theorem ignoreWrite_workRing (s : State) (r q : Nat) : (ignoreWrite s r).workRing q = s.workRing q := by
  rw [State.workRing, (ignoreWrite_kept s r).1]
  rfl

theorem modRing_frame (r : Nat) (f : Ring → Ring) : s.modRing r f = { s with ring := { s.ring with rings := (s.modRing r f).ring.rings } } := rfl

theorem modRing_congr {r : Nat} {f f' : Ring → Ring} (h : f (s.workRing r) = f' (s.workRing r)) : s.modRing r f = s.modRing r f' :=
  congrArg (fun g => { s with ring := { s.ring with rings := mset {} s.ring.rings r g } }) h

/-- The three areas of a ring are aligned. -/
def areasAligned (g : Ring) : Bool :=
  decide (fld g.descBase 11 0 = 0) && decide (fld g.alogBase 11 0 = 0) && decide (fld g.cmplBase 11 0 = 0)

theorem areasAligned_iff (g : Ring) : areasAligned g = true ↔ ∀ a ∈ [g.descBase, g.alogBase, g.cmplBase], fld a 11 0 = 0 := by
  simp [areasAligned, and_assoc]

section
variable {r : Fin 64} {v : U64}

theorem exec_ringEnable_of (hoff : rcEn (s.workRing r).ctl = false) (hon : rcEn v = true) : exec (.ringEnable r v) s = .next
    (if 4 ≤ rcLg v ∧ rcLg v ≤ 16 ∧ areasAligned (s.workRing r) = true then
      s.modRing r fun g => { g with ctl := ctlBits (s.workRing r).ctl v }
     else raiseS (s.modRing r fun g => { g with ctl := setBit (ctlBits (s.workRing r).ctl v) 31 false }) 0x5001 (r + 1) 0 r) := by
  have hno : ¬ (rcEn (s.workRing r).ctl || !rcEn v) = true := by
    rw [hoff, hon]
    exact Bool.false_ne_true
  refine congrArg Host.Outcome.next ((if_neg hno).trans ?_)
  rw [← rcLg_ctlBits (s.workRing r).ctl v]
  rfl

/-- RING_CTL of a ring that is switched off. -/
def disabledCtl (old v : U64) : U64 := setBit (setBit (keepFields old (ctlBits old v)) 31 false) 30 false

theorem disabledCtl_bits (old v : U64) : rcEn (disabledCtl old v) = false ∧ bitAt (disabledCtl old v) 30 = false ∧
    rcLg (disabledCtl old v) = rcLg old :=
  ⟨rcEn_clearErr _, err_clearErr _, (rcLg_clearErr _).trans (rcLg_keepFields ..)⟩

theorem exec_ringDisable_of (hon : rcEn (s.workRing r).ctl = true) (hoff : rcEn v = false) : ∃ t, exec (.ringDisable r v) s = .next t ∧
    t.workRing r = { s.workRing r with ctl := disabledCtl (s.workRing r).ctl v } := by
  have hno : ¬ (!rcEn (s.workRing r).ctl || rcEn v) = true := by
    rw [hoff, hon]
    exact Bool.false_ne_true
  have hx : exec (.ringDisable r v) s = .next (if keptFields (ctlBits (s.workRing r).ctl v) = keptFields (s.workRing r).ctl
      then s.modRing r fun g => { g with ctl := disabledCtl (s.workRing r).ctl v }
      else ignoreWrite (s.modRing r fun g => { g with ctl := disabledCtl (s.workRing r).ctl v }) r) := by
    rw [← modRing_congr (s := s) (r := r) (f := fun g => { g with ctl := setBit (setBit (keepFields g.ctl (ctlBits (s.workRing r).ctl v)) 31 false) 30 false }) rfl]
    exact congrArg Host.Outcome.next (if_neg hno)
  have hp : (s.modRing r fun g => { g with ctl := disabledCtl (s.workRing r).ctl v }).workRing r =
      { s.workRing r with ctl := disabledCtl (s.workRing r).ctl v } := State.modRing_workRing_same ..
  by_cases hk : keptFields (ctlBits (s.workRing r).ctl v) = keptFields (s.workRing r).ctl
  · rw [if_pos hk] at hx
    exact ⟨_, hx, hp⟩
  · rw [if_neg hk] at hx
    exact ⟨_, hx, (ignoreWrite_workRing ..).trans hp⟩

theorem exec_registerWrite_ctl_off (hoff : rcEn (s.workRing r).ctl = false) (hv : rcEn v = false) : exec (.registerWrite (.ringCtl r) v) s =
    .next (s.modRing r fun g => { g with ctl := setBit (setBit (ctlBits (s.workRing r).ctl v) 31 false) 30 false }) := by
  have hsame : rcEn v = rcEn (s.workRing r).ctl := by rw [hoff, hv]
  have hno : ¬ rcEn (s.workRing r).ctl = true := by
    rw [hoff]
    exact Bool.false_ne_true
  exact congrArg Host.Outcome.next ((if_pos hsame).trans (if_neg hno))

end

/-- RING_CTL after a write of TAIL. -/
def tailCtl (g : Ring) (v : U32) : U64 := if 2 ^ rcLg g.ctl < (v - g.chead).toNat then setBit g.ctl 30 true else g.ctl

theorem exec_tail (s : State) (r : Fin 64) (v : U32) :
    exec (.tail r v) s = .next (s.modRing r fun g => { g with tail := v, ctl := tailCtl g v }) := by
  refine congrArg (fun f => Host.Outcome.next (s.modRing r f)) (funext fun g => ?_)
  unfold tailCtl
  exact (apply_ite (fun c : U64 => ({ g with tail := v, ctl := c } : Ring)) _ _ _).symm

theorem err_tailCtl (g : Ring) (v : U32) :
    bitAt (tailCtl g v) 30 = (decide (2 ^ rcLg g.ctl < (v - g.chead).toNat) || bitAt g.ctl 30) := by
  unfold tailCtl
  split
  · next h =>
    rw [bitAt_setBit_same _ (by decide), decide_eq_true h]
    rfl
  · next h =>
    rw [decide_eq_false h]
    rfl

/-- Settles O36: each register by its test on the ring. -/
theorem ringRegistersTakeHostWrites : Obligations.RingRegistersTakeHostWrites := by
  unfold Obligations.RingRegistersTakeHostWrites
  refine ⟨?_, ?_, ?_, ?_, ?_, ?_, ?_, ?_, ?_, ?_⟩
  · intro s r v h
    exact ⟨congrArg Host.Outcome.next (writeBase_disabled h _), congrArg Host.Outcome.next (writeBase_disabled h _),
      congrArg Host.Outcome.next (writeBase_disabled h _), congrArg Host.Outcome.next (writeBase_disabled h _)⟩
  · intro s r v reg h hreg
    have hx : exec (.registerWrite reg v) s = .next (ignoreWrite s r) := by
      simp only [List.mem_cons, List.not_mem_nil, or_false] at hreg
      obtain rfl | rfl | rfl | rfl := hreg <;> exact congrArg Host.Outcome.next (writeBase_enabled h _)
    exact ⟨_, hx, ignoreWrite_kept s r⟩
  · intro s v
    exact ⟨rfl, rfl, rfl⟩
  · intro s n p v
    refine ⟨_, rfl, ?_, ?_, fun m hm => ?_, rfl⟩
    · have hc : (stageChannel s n p v).channel n = { s.channel n with stage := putFld (s.channel n).stage (64 * p.val + 63) (64 * p.val) v.toNat } :=
        State.modChannel_channel_same ..
      show fld ((stageChannel s n p v).channel n).stage _ _ = _
      have hp := p.isLt
      rw [hc, fld_putFld_same _ (by omega) (by omega), show 64 * p.val + 63 - 64 * p.val + 1 = 64 by omega, Nat.mod_eq_of_lt v.isLt]
    · exact (congrArg Channel5.ent (State.modChannel_channel_same ..) :)
    · exact (State.modChannel_channel ..).trans (if_neg hm)
  · intro s r v hoff hon h4 h16 ha
    have hx := exec_ringEnable_of hoff hon
    rw [if_pos ⟨h4, h16, (areasAligned_iff _).mpr ha⟩] at hx
    refine ⟨_, hx, ?_⟩
    rw [State.modRing_workRing_same]
    exact ⟨(rcEn_ctlBits ..).trans hon, rcLg_ctlBits .., err_ctlBits .., rfl, modRing_frame ..⟩
  · intro s r v hoff hon h
    have hx := exec_ringEnable_of hoff hon
    have hno : ¬ (4 ≤ rcLg v ∧ rcLg v ≤ 16 ∧ areasAligned (s.workRing r) = true) := by
      rintro ⟨h4, h16, ha⟩
      obtain h | h | ⟨a, hin, hne⟩ := h
      · omega
      · omega
      · exact hne ((areasAligned_iff _).mp ha a hin)
    rw [if_neg hno] at hx
    refine ⟨_, hx, ?_, (raiseS_ring_frame (s := s) (modRing_frame r _) ..).1⟩
    rw [State.workRing, raiseS_ring]
    exact (congrArg (fun g : Ring => rcEn g.ctl) (State.modRing_workRing_same ..)).trans (rcEn_off _)
  · intro s r v hon hoff
    obtain ⟨t, hx, ht⟩ := exec_ringDisable_of hon hoff
    obtain ⟨hen, herr, hlg⟩ := disabledCtl_bits (s.workRing r).ctl v
    refine ⟨t, hx, ?_⟩
    rw [ht]
    exact ⟨hen, herr, hlg, rfl, rfl⟩
  · intro s r v hoff hv
    refine ⟨_, exec_registerWrite_ctl_off hoff hv, ?_⟩
    rw [State.modRing_workRing_same]
    exact ⟨rcEn_clearErr _, err_clearErr _, fun q hq => (State.modRing_workRing ..).trans (if_neg hq), modRing_frame ..⟩
  · intro s r v
    refine ⟨_, exec_tail s r v, ?_⟩
    rw [State.modRing_workRing_same]
    exact ⟨modRing_congr rfl, err_tailCtl ..⟩
  · intro s r v
    rfl

end Sys2Proof.Machine

/-! ### Descriptors that move words (R299 to R301) -/

namespace Sys2Proof.Machine

variable {s t u : State}

/-- From `s` to `t` words of a transfer may have moved: scratchpads, stacks and host memory, the caches of translations, the event queue
and the triggers of a bake may have changed. -/
def WordsMoved (s t : State) : Prop :=
  t = { s with
    aon := t.aon, cores := t.cores, baker := t.baker, ring := { s.ring with tlb := t.ring.tlb, ats := t.ring.ats }, hbm := t.hbm,
    host := t.host } ∧ ∀ b, (t.bake b).preempted = (s.bake b).preempted

theorem WordsMoved.refl (s : State) : WordsMoved s s := ⟨rfl, fun _ => rfl⟩

theorem WordsMoved.ring (h : WordsMoved s t) : t.ring = { s.ring with tlb := t.ring.tlb, ats := t.ring.ats } := congrArg State.ring h.1

theorem WordsMoved.trans (h : WordsMoved s t) (k : WordsMoved t u) : WordsMoved s u := by
  refine ⟨?_, fun b => (k.2 b).trans (h.2 b)⟩
  rw [k.1, h.1]

theorem trigger_preempted (s : State) (b n c : Nat) : ((trigger s b n).bake c).preempted = (s.bake c).preempted := by
  rw [trigger, State.modBake_bake]
  split
  · next h => rw [h]
  · rfl

theorem wordsMoved_raiseS (s : State) (i b v x : Nat) : WordsMoved s (raiseS s i b v x) :=
  ⟨by rw [raiseS_eq], fun _ => by rw [State.bake, raiseS_baker]; rfl⟩

theorem wordsMoved_useLeaf (south : Bool) (dva sh : Nat) (e : U64) (write : Bool) (denied : List Nat) :
    WordsMoved s (useLeaf s south dva sh e write denied).2 := by
  unfold useLeaf
  dsimp only
  repeat' split
  all_goals exact ⟨rfl, fun _ => rfl⟩

theorem wordsMoved_translate (south : Bool) (root dva : Nat) (write : Bool) (denied : List Nat) :
    WordsMoved s (translate s south root dva write denied).2 := by
  unfold translate
  split
  · exact .refl s
  · split
    · exact wordsMoved_useLeaf ..
    · split
      · exact .refl s
      · exact .trans ⟨rfl, fun _ => rfl⟩ (wordsMoved_useLeaf ..)

theorem wordsMoved_stackRead (a : Nat) (ups : List (Nat × StackUpset)) : WordsMoved s (stackRead s a ups).2 := by
  unfold stackRead
  dsimp only
  split
  · exact .refl s
  · split
    · exact .refl s
    · split
      · dsimp only
        split
        · exact ⟨rfl, fun _ => rfl⟩
        · exact .refl s
      · dsimp only
        split
        · exact .trans ⟨rfl, fun _ => rfl⟩ (wordsMoved_raiseS ..)
        · exact .refl s

theorem wordsMoved_stackWrite (s : State) (a : Nat) (w : U64 × Bool) : WordsMoved s (stackWrite s a w) := by
  unfold stackWrite
  split
  · exact .refl s
  · exact ⟨rfl, fun _ => rfl⟩

theorem wordsMoved_readSide (d : DmaDesc) (south : Bool) (denied : List Nat) (ups : List (Nat × StackUpset)) (n : Nat) (x : Side) :
    WordsMoved s (readSide s d south denied ups n x).2 := by
  cases x with
  | pad c a => exact .refl s
  | tens j v o => exact wordsMoved_stackRead ..
  | area b o => exact wordsMoved_stackRead ..
  | host dva =>
    have ht := wordsMoved_translate (s := s) south (bakeRoot s d.slot) dva false denied
    unfold readSide
    dsimp only
    split
    · next he => rwa [he] at ht
    · next he => rwa [he] at ht
    · next he =>
      rw [he] at ht
      exact ht.trans (wordsMoved_stackRead ..)

theorem wordsMoved_trigger (s : State) (b n : Nat) : WordsMoved s (trigger s b n) := ⟨rfl, fun c => trigger_preempted s b n c⟩

theorem wordsMoved_stopPoisoned (s : State) (d : DmaDesc) : WordsMoved s (stopPoisoned s d) := by
  unfold stopPoisoned
  split
  · exact .trans ⟨rfl, fun _ => rfl⟩ (wordsMoved_trigger ..)
  · exact wordsMoved_raiseS ..
  · exact wordsMoved_trigger ..

theorem wordsMoved_writeSide (d : DmaDesc) (south : Bool) (denied : List Nat) (x : Side) (w : U64 × Bool) :
    WordsMoved s (writeSide s d south denied x w).after := by
  cases x with
  | pad c a => exact ⟨rfl, fun _ => rfl⟩
  | tens j v o => exact wordsMoved_stackWrite ..
  | area b o => exact wordsMoved_stackWrite ..
  | host dva =>
    have ht := wordsMoved_translate (s := s) south (bakeRoot s d.slot) dva true denied
    unfold writeSide
    dsimp only
    split
    · exact wordsMoved_stopPoisoned ..
    · split
      · next he => rwa [he] at ht
      · next he =>
        rw [he] at ht
        exact ht.trans ⟨rfl, fun _ => rfl⟩
      · next he =>
        rw [he] at ht
        exact ht.trans (wordsMoved_stackWrite ..)

theorem wordsMoved_run (s : State) (d : DmaDesc) (denied : List Nat) (ups : List (Nat × StackUpset)) : WordsMoved s (d.run s denied ups).1 :=
  moveGo_keeps (p := WordsMoved s) (fun _ _ _ _ _ _ h => h.trans (wordsMoved_translate ..)) (fun _ _ _ _ _ _ _ h => h.trans (wordsMoved_readSide ..))
    (fun _ _ _ _ _ _ h => h.trans (wordsMoved_writeSide ..)) denied ups _ s _ (.refl s)

/-! #### What a run leaves in the descriptor -/

/-- The descriptor `e` is `d` moved on: its rows are the same, and no fewer bytes have been moved. -/
def MovedOn (d e : DmaDesc) : Prop :=
  e = { d with moved := e.moved, parked := e.parked, dead := e.dead } ∧ d.moved ≤ e.moved

theorem moveGo_movedOn (denied : List Nat) (ups : List (Nat × StackUpset)) : ∀ (f : Nat) (s : State) (d : DmaDesc),
    MovedOn d (moveGo f s d denied ups).2
  | 0, _, _ => ⟨rfl, Nat.le_refl _⟩
  | f + 1, s, d => by
    unfold moveGo
    split
    · exact ⟨rfl, Nat.le_refl _⟩
    · split
      · next t _ =>
        obtain ⟨he, hm⟩ := moveGo_movedOn denied ups f t { d with moved := d.moved + 8 }
        exact ⟨he, Nat.le_trans (Nat.le_add_right ..) hm⟩
      · exact ⟨rfl, Nat.le_refl _⟩
      · exact ⟨rfl, Nat.le_refl _⟩

theorem run_movedOn (s : State) (d : DmaDesc) (denied : List Nat) (ups : List (Nat × StackUpset)) : MovedOn d (d.run s denied ups).2 := by
  obtain ⟨he, hm⟩ := moveGo_movedOn denied ups (d.total / 8 + 1) s { d with parked := none }
  exact ⟨he, hm⟩

/-- With fuel for the rest of its words a descriptor is moved until it is whole, parked or stopped. -/
theorem moveGo_ends (denied : List Nat) (ups : List (Nat × StackUpset)) : ∀ (f : Nat) (s : State) (d : DmaDesc), d.total < d.moved + 8 * f →
    (moveGo f s d denied ups).2.total ≤ (moveGo f s d denied ups).2.moved ∨ (moveGo f s d denied ups).2.parked.isSome = true ∨
      (moveGo f s d denied ups).2.dead = true
  | 0, _, _, h => .inl (Nat.le_of_lt h)
  | f + 1, s, d, h => by
    unfold moveGo
    split
    · next hd => exact .inl hd
    · split
      · exact moveGo_ends denied ups f _ _ (by show d.total < d.moved + 8 + 8 * f; omega)
      · exact .inr (.inl rfl)
      · exact .inr (.inr rfl)

theorem run_ends (s : State) (d : DmaDesc) (denied : List Nat) (ups : List (Nat × StackUpset)) :
    (d.run s denied ups).2.total ≤ (d.run s denied ups).2.moved ∨ (d.run s denied ups).2.parked.isSome = true ∨ (d.run s denied ups).2.dead = true :=
  moveGo_ends denied ups _ s _ (by show d.total < d.moved + 8 * (d.total / 8 + 1); omega)

/-! #### The list of descriptors -/

theorem find?_replace {α : Type} {key : α → Nat} {x : α} {i : Nat} : ∀ {l : List α}, (l.map fun y => if key y = key x then x else y).find? (fun y => decide (key y = i)) =
    if i = key x then (l.find? fun y => decide (key y = i)).map (fun _ => x) else l.find? fun y => decide (key y = i)
  | [] => by simp
  | y :: l => by
    have ih := find?_replace (key := key) (x := x) (i := i) (l := l)
    rw [List.map_cons, List.find?_cons, List.find?_cons, ih]
    by_cases h : key y = key x
    · by_cases hi : i = key x <;> simp [h, hi, eq_comm]
    · by_cases hi : i = key x <;> by_cases hy : key y = i <;> simp_all

theorem getDma_putDma_same {d e : DmaDesc} (h : getDma s d.id = some e) : getDma (putDma s d) d.id = some d := by
  rw [getDma] at h
  rw [getDma]
  refine (find?_replace (key := DmaDesc.id)).trans ?_
  rw [if_pos rfl, h]
  rfl

theorem getDma_putDma_other {d : DmaDesc} {i : Nat} (h : i ≠ d.id) : getDma (putDma s d) i = getDma s i :=
  (find?_replace (key := DmaDesc.id)).trans (if_neg h)

theorem getDma_congr (h : t.ring.dmas = s.ring.dmas) (i : Nat) : getDma t i = getDma s i := by rw [getDma, getDma, h]

theorem parkedBy_parked {q : U32} {d : DmaDesc} (h : parkedBy s q = some d) : ∃ a c, d.parked = some (a, c, q) := by
  have hd := List.find?_some h
  split at hd
  · next p hp =>
    rw [hp]
    rw [Bool.and_eq_true] at hd
    exact ⟨p.1, p.2.1, by rw [← of_decide_eq_true hd.1]⟩
  · exact absurd hd Bool.false_ne_true

end Sys2Proof.Machine

/-! ### Faults of descriptors (R305 to R308) -/

namespace Sys2Proof.Machine

variable {s t : State}

/-- The record of a fault. -/
def faultRec (s : State) (d : DmaDesc) (dva cause : Nat) : FaultRec :=
  ⟨BitVec.ofNat 64 dva, BitVec.ofNat 8 cause, BitVec.ofNat 8 (s.bake d.slot).ring, BitVec.ofNat 8 d.slot,
    BitVec.ofNat 8 (dmaWhere s d).2.2, BitVec.ofNat 16 (dmaWhere s d).1, BitVec.ofNat 16 (dmaWhere s d).2.1, s.ring.faultSeq + 1⟩

/-- The ring engine once a fault has its number and its descriptor is parked on it. -/
def faultNoted (s : State) (d : DmaDesc) (dva cause : Nat) : State :=
  putDma { s with ring := { s.ring with
    faultSeq := s.ring.faultSeq + 1,
    recent := (s.ring.recent ++ [faultRec s d dva cause]).drop (s.ring.recent.length + 1 - 16),
    pri := if cause = 4 then s.ring.pri ++ [s.ring.faultSeq + 1] else s.ring.pri } }
    { d with parked := some (dva, cause, s.ring.faultSeq + 1) }

/-- Where the next record of the fault queue lies. -/
def faultPlace (s : State) : Nat := s.ring.fqBase.toNat + 32 * (s.ring.fqTail.toNat % 256)

theorem writeFault_of_full {d : DmaDesc} {v c : Nat} (h : 256 ≤ s.ring.fqTail.toNat - s.ring.fqHead.toNat) : writeFault s d v c =
    { faultNoted s d v c with ring := { (faultNoted s d v c).ring with recLost := s.ring.recLost + 1 } } := if_pos h

/-- A record written at the tail of the fault queue. -/
def recorded (t : State) (l : List Byte) : State :=
  raiseMsix { hostStore t (faultPlace t) l with ring := { t.ring with fqTail := t.ring.fqTail + 1 } } 64

theorem recorded_ring (t : State) (l : List Byte) :
    (recorded t l).ring = { t.ring with fqTail := t.ring.fqTail + 1, msix := 64 :: t.ring.msix } := rfl

theorem recorded_host (t : State) (l : List Byte) : (recorded t l).host = (hostStore t (faultPlace t) l).host := rfl

theorem recorded_frame (t : State) (l : List Byte) : recorded t l = { t with ring := (recorded t l).ring, host := (recorded t l).host } := rfl

theorem writeFault_of_room {d : DmaDesc} {v c : Nat} (h : s.ring.fqTail.toNat - s.ring.fqHead.toNat < 256) :
    writeFault s d v c = recorded (faultNoted s d v c) (faultRec s d v c).bytes := by
  have hno : ¬ 256 ≤ (faultNoted s d v c).ring.fqTail.toNat - (faultNoted s d v c).ring.fqHead.toNat := Nat.not_le.mpr h
  exact if_neg hno

/-- What a fault leaves, whether its record found room or not. -/
theorem writeFault_kept (s : State) (d : DmaDesc) (v c : Nat) :
    (writeFault s d v c).ring.faultSeq = s.ring.faultSeq + 1 ∧ (writeFault s d v c).ring.dmas = (faultNoted s d v c).ring.dmas ∧
    (writeFault s d v c).ring.pri = (if c = 4 then s.ring.pri ++ [s.ring.faultSeq + 1] else s.ring.pri) ∧
    (writeFault s d v c).ring.rings = s.ring.rings ∧ (writeFault s d v c).ring.invBusy = s.ring.invBusy ∧
    writeFault s d v c = { s with ring := (writeFault s d v c).ring, host := (writeFault s d v c).host } := by
  by_cases h : 256 ≤ s.ring.fqTail.toNat - s.ring.fqHead.toNat
  · rw [writeFault_of_full h]
    exact ⟨rfl, rfl, rfl, rfl, rfl, rfl⟩
  · rw [writeFault_of_room (Nat.lt_of_not_le h), recorded_ring]
    refine ⟨rfl, rfl, rfl, rfl, rfl, ?_⟩
    have hf := recorded_frame (faultNoted s d v c) (faultRec s d v c).bytes
    rw [recorded_ring] at hf
    generalize recorded (faultNoted s d v c) (faultRec s d v c).bytes = u at *
    exact hf

theorem getDma_writeFault {d e : DmaDesc} {v c : Nat} (h : getDma s d.id = some e) :
    getDma (writeFault s d v c) d.id = some { d with parked := some (v, c, s.ring.faultSeq + 1) } :=
  (getDma_congr (writeFault_kept s d v c).2.1 d.id).trans
    (getDma_putDma_same (d := { d with parked := some (v, c, s.ring.faultSeq + 1) }) (e := e) h)

theorem faultRec_mem_recent (s : State) (d : DmaDesc) (v c : Nat) : faultRec s d v c ∈ (faultNoted s d v c).ring.recent := by
  have hle : s.ring.recent.length + 1 - 16 ≤ s.ring.recent.length := by omega
  show _ ∈ (s.ring.recent ++ [faultRec s d v c]).drop (s.ring.recent.length + 1 - 16)
  rw [List.drop_append_of_le_length hle]
  exact List.mem_append_right _ (List.mem_singleton.mpr rfl)

theorem faultRec_bytes_length (r : FaultRec) : r.bytes.length = 32 := by simp [FaultRec.bytes]

/-- What a fault whose record finds room leaves. -/
theorem writeFault_room (d : DmaDesc) (v c : Nat) (h : s.ring.fqTail.toNat - s.ring.fqHead.toNat < 256) :
    (writeFault s d v c).ring.parked = s.ring.parked ∧ (writeFault s d v c).ring.fqTail = s.ring.fqTail + 1 ∧
    (writeFault s d v c).ring.msix = 64 :: s.ring.msix ∧ faultRec s d v c ∈ (writeFault s d v c).ring.recent ∧
    hostBytes (writeFault s d v c) (faultPlace s) 32 = (faultRec s d v c).bytes ∧ HostKept s (writeFault s d v c) (faultPlace s) 32 := by
  have hstored := hostBytes_hostStore (faultNoted s d v c) (faultPlace (faultNoted s d v c)) (faultRec s d v c).bytes
  have hkept := hostKept_hostStore (faultNoted s d v c) (faultPlace (faultNoted s d v c)) (faultRec s d v c).bytes
  have hrec := faultRec_mem_recent s d v c
  rw [faultRec_bytes_length] at hstored hkept
  rw [writeFault_of_room h, recorded_ring, hostBytes_congr (recorded_host ..)]
  refine ⟨rfl, rfl, rfl, hrec, hstored, fun x hx => ?_⟩
  rw [recorded_host]
  exact hkept x hx

/-! #### Retries -/

theorem dropPri_of {d : DmaDesc} {p : Nat × Nat × U32} (h : d.parked = some p) :
    dropPri s d = { s with ring := { s.ring with pri := s.ring.pri.filter fun x => decide (x ≠ p.2.2) } } := by rw [dropPri, h]

theorem countResolved_ring (s : State) (b : Nat) : (countResolved s b).ring.dmas = s.ring.dmas ∧
    (countResolved s b).ring.faultSeq = s.ring.faultSeq ∧
    if (s.bake b).preempted then (countResolved s b).ring.late = s.ring.late + 1 else (countResolved s b).ring.resolved = s.ring.resolved + 1 := by
  unfold countResolved
  split
  · next h => exact ⟨rfl, rfl, rfl⟩
  · next h => exact ⟨rfl, rfl, rfl⟩

/-- A retry whose run meets no fault moves its descriptor on and counts it resolved. -/
theorem retryDma_resolves {d : DmaDesc} {p : Nat × Nat × U32} {den : List Nat} (hp : d.parked = some p) (hg : getDma s d.id = some d)
    (hs : d.saved = false)
    (hr : (d.run { s with ring := { s.ring with pri := s.ring.pri.filter fun x => decide (x ≠ p.2.2) } } den []).2.parked = none) :
    ∃ e, getDma (retryDma s d den) d.id = some e ∧ e.parked = none ∧ d.moved ≤ e.moved ∧
      (if (s.bake d.slot).preempted then (retryDma s d den).ring.late = s.ring.late + 1
        else (retryDma s d den).ring.resolved = s.ring.resolved + 1) ∧
      (retryDma s d den).ring.faultSeq = s.ring.faultSeq := by
  have hx : retryDma s d den = countResolved (putDma (d.run (dropPri s d) den []).1 (d.run (dropPri s d) den []).2) d.slot := by
    unfold retryDma
    rw [← dropPri_of hp] at hr
    simp only [hs, Bool.false_eq_true, if_false, hr]
  obtain ⟨hw, hb⟩ := wordsMoved_run (dropPri s d) d den []
  obtain ⟨he, hm⟩ := run_movedOn (dropPri s d) d den []
  have hring := WordsMoved.ring ⟨hw, hb⟩
  rw [dropPri_of hp] at hx hw hb he hm hring
  generalize d.run { s with ring := { s.ring with pri := s.ring.pri.filter fun x => decide (x ≠ p.2.2) } } den [] = r at *
  obtain ⟨u, e⟩ := r
  obtain ⟨hd, hq, hc⟩ := countResolved_ring (putDma u e) d.slot
  have hid : e.id = d.id := (congrArg DmaDesc.id he :)
  have hgu : getDma u e.id = some d := by
    rw [hid, getDma_congr (s := s) (by rw [hring]), hg]
  rw [hx]
  refine ⟨e, ?_, hr, hm, ?_, ?_⟩
  · rw [getDma_congr hd, ← hid]
    exact getDma_putDma_same hgu
  · have hpre : ((putDma u e).bake d.slot).preempted = (s.bake d.slot).preempted := hb d.slot
    have hlate : (putDma u e).ring.late = s.ring.late := (congrArg RingEngine.late hring :)
    have hres : (putDma u e).ring.resolved = s.ring.resolved := (congrArg RingEngine.resolved hring :)
    rwa [hpre, hlate, hres] at hc
  · exact hq.trans (congrArg RingEngine.faultSeq hring :)

theorem exec_retry (s : State) (q : U32) (h : List Host.Cell) (den : List Nat) : exec (.retry q h den) s = .next
    (match parkedBy s q with
      | none => mergeHost s h
      | some d => retryDma (mergeHost s h) d den) := by
  have hp : parkedBy (mergeHost s h) q = parkedBy s q := by rw [parkedBy, parkedBy, mergeHost_ring]
  show execRetry q h den s = _
  unfold execRetry
  dsimp only
  rw [hp]
  cases parkedBy s q <;> rfl

/-- The list of waiting page requests without request `q`. -/
def withoutPri (s : State) (q : U32) : State := { s with ring := { s.ring with pri := s.ring.pri.filter fun x => decide (x ≠ q) } }

theorem exec_priResponse_parked {q : U32} {ok : Bool} {d : DmaDesc} {p : Nat × Nat × U32} (hq : s.ring.pri.contains q = true)
    (hp : parkedBy s q = some d) (hd : d.parked = some p) : exec (.priResponse q ok) s =
      .next (if ok then retryDma (withoutPri s q) d [] else writeFault (withoutPri s q) d p.1 6) := by
  have hp' : parkedBy (withoutPri s q) q = some d := hp
  show execPriResponse q ok s = _
  unfold execPriResponse
  rw [if_neg (by rw [hq]; exact Bool.false_ne_true)]
  show (match parkedBy (withoutPri s q) q with
    | none => Host.Outcome.next (withoutPri s q)
    | some d => match d.parked with
      | none => .next (withoutPri s q)
      | some p => .next (if ok then retryDma (withoutPri s q) d [] else writeFault (withoutPri s q) d p.1 6)) = _
  rw [hp']
  dsimp only
  rw [hd]

theorem exec_translationFault_of {id v c : Nat} {d : DmaDesc} (hg : getDma s id = some d) (hp : d.parked = some (v, c, 0)) :
    exec (.translationFault id v c) s =
      .next { writeFault s d v c with ring := { (writeFault s d v c).ring with parked := (writeFault s d v c).ring.parked + 1 } } := by
  show execTranslationFault id v c s = _
  unfold execTranslationFault
  simp only [hg, hp, if_true]

theorem exec_translationFault_other {id v c : Nat} (h : getDma s id = none ∨ ∃ d, getDma s id = some d ∧ d.parked ≠ some (v, c, 0)) :
    exec (.translationFault id v c) s = .next s := by
  show execTranslationFault id v c s = _
  unfold execTranslationFault
  obtain h | ⟨d, h, hp⟩ := h
  · rw [h]
  · simp only [h, hp, if_false]

/-- Settles O47: by the room in the fault queue and the response. -/
theorem faultsParkAndRetry : Obligations.FaultsParkAndRetry := by
  unfold Obligations.FaultsParkAndRetry
  refine ⟨?_, ?_, ?_, ?_, ?_, ?_, ?_, ?_⟩
  · rintro s id d v c hg rfl hp hroom
    have hx := exec_translationFault_of hg hp
    have hgd := getDma_writeFault (v := v) (c := c) hg
    obtain ⟨hseq, -, hpri, -, -, hf⟩ := writeFault_kept s d v c
    obtain ⟨hpark, htail, hmsix, hrec, hstored, hkept⟩ := writeFault_room d v c hroom
    generalize writeFault s d v c = u at *
    exact ⟨_, faultRec s d v c, hx, hseq, congrArg (· + 1) hpark, htail, hmsix, hgd, hrec, rfl, rfl, rfl, rfl, hstored, hkept, hpri,
      congrArg (fun w : State => { w with ring := { u.ring with parked := u.ring.parked + 1 } }) hf⟩
  · rintro s id d v c hg rfl hp hfull
    have hx := exec_translationFault_of hg hp
    have hgd := getDma_writeFault (v := v) (c := c) hg
    rw [writeFault_of_full hfull] at hx hgd
    exact ⟨_, hx, rfl, rfl, hgd, rfl⟩
  · exact fun s id v c h => exec_translationFault_other h
  · intro s q ok h
    exact if_pos (by rw [h]; rfl)
  · intro s q d p hq hb hp hg
    have hx := exec_priResponse_parked (ok := false) hq hb hp
    rw [if_neg Bool.false_ne_true] at hx
    obtain ⟨hseq, -, hpri, -, -, hf⟩ := writeFault_kept (withoutPri s q) d p.1 6
    refine ⟨_, hx, getDma_writeFault (s := withoutPri s q) hg, fun x hin => ?_, hseq, hf⟩
    rw [hpri, if_neg (by decide)] at hin
    exact of_decide_eq_true (List.mem_filter.mp hin).2
  · intro s q d p hq hb hp hg hs hr
    have hx := exec_priResponse_parked (ok := true) hq hb hp
    rw [if_pos rfl] at hx
    obtain ⟨a, c, hp'⟩ := parkedBy_parked hb
    obtain rfl : p.2.2 = q := by
      rw [hp] at hp'
      injection hp' with h
      rw [h]
    have hfilter : (withoutPri s p.2.2).ring.pri.filter (fun x => decide (x ≠ p.2.2)) = (withoutPri s p.2.2).ring.pri := by
      show (s.ring.pri.filter _).filter _ = s.ring.pri.filter _
      rw [List.filter_filter]
      simp only [Bool.and_self]
    obtain ⟨e, he, hpark, hm, hc, hseq⟩ := retryDma_resolves (s := withoutPri s p.2.2) (den := []) hp hg hs (by rw [hfilter]; exact hr)
    exact ⟨_, e, hx, he, hpark, hm, hc, hseq⟩
  · intro s q h den hb
    rw [exec_retry, hb]
  · intro s q h den d p hb hp hg hs hr
    have hx := exec_retry s q h den
    rw [hb] at hx
    have hring := mergeHost_ring s h
    have hbake : (mergeHost s h).bake d.slot = s.bake d.slot := by rw [State.bake, (ringHostAlone_mergeHost s h).baker]; rfl
    obtain ⟨e, he, hpark, hm, hc, -⟩ := retryDma_resolves (s := mergeHost s h) (den := den) hp
      ((getDma_congr (by rw [hring]) _).trans hg) hs (by rw [hring]; exact hr)
    rw [hring, hbake] at hc
    exact ⟨_, e, hx, he, hpark, hm, hc⟩

end Sys2Proof.Machine

/-! ### DMA descriptors and invalidations (R299, R301, R305, R306) -/

namespace Sys2Proof.Machine

variable {s t : State}

/-! #### Asking for the words of scratchpad rows -/

theorem dmaJob_modDmaJob (k : Core) (id : Nat) {f : Work → Work} (hf : ∀ j, (f j).order = j.order) : (dmaJob (modDmaJob k id f) id).isSome = true := by
  have hput (l : List Work) : (k.pad.setJobs 7 l).jobs 7 = l := mget_mset_same ..
  unfold dmaJob modDmaJob
  rw [List.find?_isSome]
  by_cases h : ((k.pad.jobs 7).any fun j => decide (j.order = id)) = true
  · obtain ⟨j, hj, ho⟩ := List.any_eq_true.mp h
    simp only [Core.modPad, h, if_true, Scratchpad.modJob, hput]
    refine ⟨_, List.mem_map_of_mem hj, ?_⟩
    split
    · rwa [hf]
    · exact ho
  · simp only [Core.modPad, h, Bool.false_eq_true, if_false, hput]
    exact ⟨_, List.mem_append_right _ (List.mem_singleton.mpr rfl), decide_eq_true (hf _)⟩

theorem dmaJob_foldl_modCore {id : Nat} {f : CoreId → Work → Work} (hf : ∀ c j, (f c j).order = j.order) {e : CoreId} :
    ∀ {l : List CoreId} {s : State}, (e ∈ l ∨ (dmaJob (s.core e) id).isSome = true) →
      (dmaJob ((l.foldl (fun t c => t.modCore c fun k => modDmaJob k id (f c)) s).core e) id).isSome = true
  | [], _, h => h.resolve_left (List.not_mem_nil)
  | c :: l, s, h => by
    refine dmaJob_foldl_modCore hf (l := l) ?_
    rw [State.modCore_core]
    split
    · exact .inr (dmaJob_modDmaJob _ id (hf c))
    · next hne => exact h.imp_left fun hm => (List.mem_cons.mp hm).resolve_left hne

theorem padAsked_askPad (s : State) (d : DmaDesc) : padAsked (askPad s d) d = true :=
  List.all_eq_true.mpr fun _ he => dmaJob_foldl_modCore (id := d.id)
    (f := fun c j => { j with
      reads := j.reads ++ ((padWords d).filter fun e => decide (e.2.1 = c)).map fun e => (e.1, e.2.2),
      want := j.want + (((padWords d).filter fun e => decide (e.2.1 = c)).map fun e => (e.1, e.2.2)).length }) (fun _ _ => rfl)
    (.inl (List.mem_dedup.mpr (List.mem_map_of_mem he)))

theorem wordsMoved_askPad (s : State) (d : DmaDesc) : WordsMoved s (askPad s d) := by
  unfold askPad
  refine foldl_prop (p := WordsMoved s) (fun _ _ h => h.trans ?_) _ (.refl s)
  exact ⟨rfl, fun _ => rfl⟩

/-! #### The start of a descriptor -/

theorem wordsMoved_advanceDma (s : State) (d : DmaDesc) (den : List Nat) (ups : List (Nat × StackUpset)) :
    WordsMoved s (advanceDma s d den ups).1 := by
  unfold advanceDma
  split
  · exact wordsMoved_run ..
  · split
    · exact .refl s
    · exact wordsMoved_askPad s d

theorem advanceDma_movedOn (s : State) (d : DmaDesc) (den : List Nat) (ups : List (Nat × StackUpset)) : MovedOn d (advanceDma s d den ups).2 := by
  unfold advanceDma
  split
  · exact run_movedOn ..
  · split <;> exact ⟨rfl, Nat.le_refl _⟩

theorem advanceDma_asks {d : DmaDesc} {den : List Nat} {ups : List (Nat × StackUpset)} (h : padServed s d = false) :
    (advanceDma s d den ups).2.moved = d.moved ∧ padAsked (advanceDma s d den ups).1 d = true := by
  unfold advanceDma
  rw [h, if_neg Bool.false_ne_true]
  split
  · next ha => exact ⟨rfl, ha⟩
  · exact ⟨rfl, padAsked_askPad s d⟩

theorem padServed_congr (h : t.cores = s.cores) : padServed t = padServed s := by
  funext d
  simp only [padServed, padGot, State.core, h]

theorem startable_congr (hr : t.ring = s.ring) (hc : t.cores = s.cores) : startable t = startable s := by
  have hruns : coreRuns t = coreRuns s := by
    funext c
    rw [coreRuns, coreRuns, hr]
  have hasked : padAsked t = padAsked s := by
    funext d
    simp only [padAsked, State.core, hc]
  funext d
  unfold startable
  rw [hruns, hasked, padServed_congr hc]

/-- A descriptor that takes its place and moves on. -/
def startedDma (s : State) (d : DmaDesc) (den : List Nat) (ups : List (Nat × StackUpset)) : State :=
  let r := advanceDma s { d with running := true } den ups
  let t := putDma r.1 r.2
  { t with ring := { t.ring with high := max t.ring.high (inFlight t) } }

theorem mergeHost_cores (s : State) (h : List Host.Cell) : (mergeHost s h).cores = s.cores := by
  have e := ringHostAlone_mergeHost s h
  unfold RingHostAlone at e
  rw [e]

theorem exec_dmaDescriptorStart_none {h : List Host.Cell} {den : List Nat} {ups : List (Nat × StackUpset)}
    (hf : s.ring.dmas.find? (startable s) = none) : exec (.dmaDescriptorStart h den ups) s = .next (mergeHost s h) := by
  rw [← startable_congr (mergeHost_ring s h) (mergeHost_cores s h), ← mergeHost_ring s h] at hf
  show execDmaDescriptorStart h den ups s = _
  unfold execDmaDescriptorStart
  dsimp only
  rw [hf]

theorem exec_dmaDescriptorStart_of {h : List Host.Cell} {den : List Nat} {ups : List (Nat × StackUpset)} {d : DmaDesc}
    (hf : s.ring.dmas.find? (startable s) = some d) (hroom : inFlight s < 4096 ∨ d.running = true) :
    exec (.dmaDescriptorStart h den ups) s = .next (startedDma (mergeHost s h) d den ups) := by
  have hno : ¬ (4096 ≤ inFlight (mergeHost s h) ∧ d.running = false) := by
    rintro ⟨hn, hd⟩
    rw [inFlight, mergeHost_ring] at hn
    obtain hlt | hrun := hroom
    · exact absurd hn (Nat.not_le.mpr hlt)
    · rw [hd] at hrun
      exact Bool.false_ne_true hrun
  rw [← startable_congr (mergeHost_ring s h) (mergeHost_cores s h), ← mergeHost_ring s h] at hf
  show execDmaDescriptorStart h den ups s = _
  unfold execDmaDescriptorStart
  dsimp only
  rw [hf]
  exact if_neg hno

/-- What the start of a descriptor leaves. -/
theorem startedDma_kept {d : DmaDesc} (den : List Nat) (ups : List (Nat × StackUpset)) (hg : getDma s d.id = some d) :
    ∃ e, getDma (startedDma s d den ups) d.id = some e ∧ MovedOn { d with running := true } e ∧
      (padServed s d = true → e.total ≤ e.moved ∨ e.parked.isSome = true ∨ e.dead = true) ∧
      (padServed s d = false → e.moved = d.moved ∧ padAsked (startedDma s d den ups) d = true) ∧
      (∀ j, j ≠ d.id → getDma (startedDma s d den ups) j = getDma s j) ∧ (startedDma s d den ups).ring.rings = s.ring.rings ∧
      startedDma s d den ups = { s with
        aon := (startedDma s d den ups).aon, cores := (startedDma s d den ups).cores, baker := (startedDma s d den ups).baker,
        ring := (startedDma s d den ups).ring, hbm := (startedDma s d den ups).hbm, host := (startedDma s d den ups).host } := by
  have hw := wordsMoved_advanceDma s { d with running := true } den ups
  have hm := advanceDma_movedOn s { d with running := true } den ups
  have hserved (h : padServed s d = true) : advanceDma s { d with running := true } den ups = DmaDesc.run s { d with running := true } den ups := if_pos h
  have hends := run_ends s { d with running := true } den ups
  have hasks (h : padServed s d = false) := advanceDma_asks (d := { d with running := true }) (den := den) (ups := ups) h
  have hx : startedDma s d den ups = { putDma (advanceDma s { d with running := true } den ups).1 (advanceDma s { d with running := true } den ups).2 with
    ring := (startedDma s d den ups).ring } := rfl
  have hdmas : (startedDma s d den ups).ring.dmas =
    (putDma (advanceDma s { d with running := true } den ups).1 (advanceDma s { d with running := true } den ups).2).ring.dmas := rfl
  have hrings : (startedDma s d den ups).ring.rings = (advanceDma s { d with running := true } den ups).1.ring.rings := rfl
  rw [hrings, getDma_congr hdmas]
  simp only [getDma_congr hdmas]
  have hring := hw.ring
  generalize startedDma s d den ups = v at *
  generalize advanceDma s { d with running := true } den ups = r at *
  obtain ⟨u, e⟩ := r
  have hid : e.id = d.id := (congrArg DmaDesc.id hm.1 :)
  have hu : u.ring.dmas = s.ring.dmas := (congrArg RingEngine.dmas hring :)
  refine ⟨e, ?_, hm, fun h => ?_, fun h => ?_, fun j hj => ?_, (congrArg RingEngine.rings hring :), ?_⟩
  · rw [← hid]
    exact getDma_putDma_same (e := d) (by rw [hid, getDma_congr hu, hg])
  · rwa [← hserved h] at hends
  · refine ⟨(hasks h).1, ?_⟩
    rw [hx]
    exact (hasks h).2
  · rw [getDma_putDma_other (by rwa [hid]), getDma_congr hu]
  · rw [hx]
    exact congrArg (fun w : State => { w with ring := v.ring }) hw.1

end Sys2Proof.Machine

/-! #### A copy between two areas of the stacks -/

namespace Sys2Proof.Machine

variable {s t : State}

/-- A word of the stacks as it is read without an upset: none where it is poisoned. -/
def plainWord (v : Option U64) : U64 × Bool :=
  match v with
  | some w => (w, false)
  | none => (0, true)

theorem stackRead_plain {a : Nat} (h : stackHas s a = true) : stackRead s a [] = (plainWord (mget none s.hbm.words (a / 8)), s) := by
  unfold stackRead
  simp only [h, Bool.not_true, Bool.false_eq_true, if_false, List.find?_nil]
  rfl

theorem stackWrite_plain {a : Nat} (h : stackHas s a = true) (v : Option U64) : stackWrite s a (plainWord v) =
    { s with hbm := { s.hbm with words := mset none s.hbm.words (a / 8) v } } := by
  unfold stackWrite
  rw [h, if_neg (by decide)]
  cases v <;> rfl

section
variable {d : DmaDesc} {b1 o1 b2 o2 : Nat} (hsrc : d.src = [.area b1 o1]) (hdst : d.dst = [.area b2 o2]) (hb : d.bytes = 8)
include hsrc hb

theorem padServed_area : padServed s d = true := by
  simp [padServed, padWords, padWordOf, rowSide, hsrc, hb, nth]

include hdst

theorem moveWord_area (hr : stackHas s (areaAddr (s.bake d.slot) b1 o1) = true) (hw : stackHas s (areaAddr (s.bake d.slot) b2 o2) = true)
    (den : List Nat) : moveWord s d den [] 0 = .done { s with hbm := { s.hbm with
      words := mset none s.hbm.words (areaAddr (s.bake d.slot) b2 o2 / 8) (mget none s.hbm.words (areaAddr (s.bake d.slot) b1 o1 / 8)) } } := by
  simp only [moveWord, hsrc, hdst, hb, nth, Nat.zero_div, Nat.zero_mod, Side.plus, Nat.add_zero, readSide, writeSide, stackRead_plain hr,
    stackWrite_plain hw]

theorem run_area (hm : d.moved = 0) (hr : stackHas s (areaAddr (s.bake d.slot) b1 o1) = true)
    (hw : stackHas s (areaAddr (s.bake d.slot) b2 o2) = true) (den : List Nat) : d.run s den [] =
      ({ s with hbm := { s.hbm with
        words := mset none s.hbm.words (areaAddr (s.bake d.slot) b2 o2 / 8) (mget none s.hbm.words (areaAddr (s.bake d.slot) b1 o1 / 8)) } },
        { d with moved := 8, parked := none }) := by
  have htotal : d.total / 8 + 1 = 2 := by rw [DmaDesc.total, hsrc, hb, List.length_singleton]
  have hword := (congrArg (moveWord s { d with parked := none } den []) hm).trans
    (moveWord_area (d := { d with parked := none }) (s := s) hsrc hdst hb hr hw den)
  have hlen : d.src.length * d.bytes = 8 := by rw [hsrc, hb, List.length_singleton]
  have hopen : ¬ d.src.length * d.bytes ≤ d.moved := by omega
  have hwhole : d.src.length * d.bytes ≤ d.moved + 8 := by omega
  rw [DmaDesc.run, htotal]
  simp only [moveGo, if_neg hopen, hword, if_pos hwhole]
  rw [hm]

end

/-! #### The completion of a descriptor -/

theorem exec_dmaDescriptorComplete_of {id : Nat} {d : DmaDesc} (hg : getDma s id = some d) (hr : d.running = true) (ht : d.total ≤ d.moved)
    (hw : padWritten s d = true) :
    exec (.dmaDescriptorComplete id) s = .next (afterFree (freeDma (endPadJobs (dmaDone s d) d) id) d) := by
  show execDmaDescriptorComplete id s = _
  unfold execDmaDescriptorComplete
  rw [hg]
  exact congrArg Host.Outcome.next (if_pos ⟨hr, ht, hw⟩)

theorem exec_dmaDescriptorComplete_other {id : Nat} {d : DmaDesc} (hg : getDma s id = some d)
    (h : d.running = false ∨ d.moved < d.total ∨ padWritten s d = false) : exec (.dmaDescriptorComplete id) s = .next s := by
  have hno : ¬ (d.running = true ∧ d.total ≤ d.moved ∧ padWritten s d = true) := by
    rintro ⟨hr, ht, hw⟩
    rw [hr, hw] at h
    obtain h | h | h := h
    · exact Bool.noConfusion h
    · omega
    · exact Bool.noConfusion h
  show execDmaDescriptorComplete id s = _
  unfold execDmaDescriptorComplete
  rw [hg]
  exact congrArg Host.Outcome.next (if_neg hno)

theorem endPadJobs_frame (s : State) (d : DmaDesc) : endPadJobs s d = { s with cores := (endPadJobs s d).cores } := by
  unfold endPadJobs
  refine foldl_prop (p := fun u : State => u = { s with cores := u.cores }) (fun u c h => ?_) _ rfl
  exact congrArg (fun w : State => { w with cores := (u.modCore c fun k => k.modPad fun p =>
    p.setJobs 7 ((p.jobs 7).filter fun j => decide (j.order ≠ d.id))).cores }) h

theorem endPadJobs_seq (s : State) (d : DmaDesc) (c : CoreId) : ((endPadJobs s d).core c).seq = (s.core c).seq := by
  unfold endPadJobs
  refine foldl_keeps (fun u : State => (u.core c).seq) (fun u e => ?_) _ s
  rw [State.modCore_core]
  split
  · next h => rw [h]; rfl
  · rfl

theorem endPadJobs_core {d : DmaDesc} {e : CoreId} (h : e ∉ padCores d) : (endPadJobs s d).core e = s.core e := by
  unfold endPadJobs
  refine foldl_prop_mem (p := fun u : State => u.core e = s.core e) (fun u c hc hu => ?_) rfl
  have hne : e ≠ c := fun heq => h (by rwa [heq])
  rw [State.modCore_core, if_neg hne, hu]

theorem getDma_freeDma_same (s : State) (id : Nat) : getDma (freeDma s id) id = none := by
  rw [getDma, List.find?_eq_none]
  intro d hd hid
  exact of_decide_eq_true (List.mem_filter.mp hd).2 (of_decide_eq_true hid)

theorem getDma_freeDma_other {id j : Nat} (h : j ≠ id) : getDma (freeDma s id) j = getDma s j := by
  show (s.ring.dmas.filter _).find? _ = s.ring.dmas.find? _
  rw [List.find?_filter]
  congr
  funext d
  by_cases hj : d.id = j
  · simp [hj, h]
  · simp [hj]

theorem endItem_dmas (s : State) (r : Nat) (i : U32) (c : U8) (d : BitVec 128) : (endItem s r i c d).ring.dmas = s.ring.dmas := by
  unfold endItem
  dsimp only
  repeat' split
  all_goals simp [modItem, State.modRing]

theorem fillsDone_load {b : Nat} (hf : (s.bake b).filling = true) (hs : (s.bake b).state = 1) :
    ((fillsDone s b).bake b).state = idleState (s.bake b) ∧ ((fillsDone s b).bake b).filling = false ∧
    (fillsDone s b).ring.dmas = s.ring.dmas ∧
    fillsDone s b = { s with baker := (fillsDone s b).baker, ring := (fillsDone s b).ring, host := (fillsDone s b).host } := by
  have hx : fillsDone s b = endItem ((s.modBake b fun q => { q with filling := false }).modBake b fun q => { q with state := idleState q })
      (s.bake b).ring (s.bake b).loadIdx 0 (BitVec.ofNat 128 ((s.bake b).epoch.toNat + 2 ^ 32 * phasesOf (s.bake b))) := by
    unfold fillsDone
    simp only [hf, hs, Bool.not_true, Bool.false_eq_true, if_false, if_true]
  have hbake : ((s.modBake b fun q => { q with filling := false }).modBake b fun q => { q with state := idleState q }).bake b =
      { s.bake b with filling := false, state := idleState (s.bake b) } := by
    rw [State.modBake_bake_same, State.modBake_bake_same]
    rfl
  rw [hx]
  generalize hm : (s.modBake b fun q => { q with filling := false }).modBake b (fun q => { q with state := idleState q }) = m at *
  have hframe : m = { s with baker := m.baker } := by
    rw [← hm]
    rfl
  have ha := ringHostAlone_endItem m (s.bake b).ring (s.bake b).loadIdx 0 (BitVec.ofNat 128 ((s.bake b).epoch.toNat + 2 ^ 32 * phasesOf (s.bake b)))
  have hd := endItem_dmas m (s.bake b).ring (s.bake b).loadIdx 0 (BitVec.ofNat 128 ((s.bake b).epoch.toNat + 2 ^ 32 * phasesOf (s.bake b)))
  generalize endItem m (s.bake b).ring (s.bake b).loadIdx 0 (BitVec.ofNat 128 ((s.bake b).epoch.toNat + 2 ^ 32 * phasesOf (s.bake b))) = u at *
  have hub : u.bake b = { s.bake b with filling := false, state := idleState (s.bake b) } := by
    rw [← hbake, State.bake, ha.baker]
    rfl
  refine ⟨congrArg Bake.state hub, congrArg Bake.filling hub, ?_, ?_⟩
  · rw [hd, hframe]
  · unfold RingHostAlone at ha
    rw [ha, hframe]

end Sys2Proof.Machine

/-! #### Invalidations (R272, R305, R306) -/

namespace Sys2Proof.Machine

variable {s t u : State}

/-- From `s` to `t` descriptors have been tried again: of the rings' part only what a retry writes has changed. -/
def Retried (s t : State) : Prop := t.ring = { s.ring with
  tlb := t.ring.tlb, ats := t.ring.ats, pri := t.ring.pri, dmas := t.ring.dmas, faultSeq := t.ring.faultSeq, recent := t.ring.recent,
  recLost := t.ring.recLost, fqTail := t.ring.fqTail, msix := t.ring.msix, late := t.ring.late, resolved := t.ring.resolved }

theorem Retried.trans (h : Retried s t) (k : Retried t u) : Retried s u := by
  unfold Retried at *
  rw [k, h]

theorem Retried.invBusy (h : Retried s t) : t.ring.invBusy = s.ring.invBusy := by
  unfold Retried at h
  rw [h]

theorem Retried.rings (h : Retried s t) : t.ring.rings = s.ring.rings := by
  unfold Retried at h
  rw [h]

theorem retried_wordsMoved (h : WordsMoved s t) : Retried s t := by
  unfold Retried
  rw [h.ring]

theorem retried_writeFault (s : State) (d : DmaDesc) (v c : Nat) : Retried s (writeFault s d v c) := by
  unfold Retried
  by_cases h : 256 ≤ s.ring.fqTail.toNat - s.ring.fqHead.toNat
  · rw [writeFault_of_full h]
    rfl
  · rw [writeFault_of_room (Nat.lt_of_not_le h), recorded_ring]
    rfl

theorem retried_countResolved (s : State) (b : Nat) : Retried s (countResolved s b) := by
  unfold countResolved
  split <;> rfl

theorem retried_dropPri (s : State) (d : DmaDesc) : Retried s (dropPri s d) := by
  unfold dropPri
  split <;> rfl

theorem retried_putDma (s : State) (d : DmaDesc) : Retried s (putDma s d) := rfl

theorem retried_retryDma (s : State) (d : DmaDesc) (den : List Nat) : Retried s (retryDma s d den) := by
  have hpri := retried_dropPri s d
  have hrun := hpri.trans (retried_wordsMoved (wordsMoved_run (dropPri s d) d den []))
  have hword : WordsMoved (dropPri s d) (moveWord (dropPri s d) d den [] d.moved).after :=
    moveWord_keeps (p := WordsMoved (dropPri s d)) (fun _ _ _ _ _ _ h => h.trans (wordsMoved_translate ..))
      (fun _ _ _ _ _ _ _ h => h.trans (wordsMoved_readSide ..)) (fun _ _ _ _ _ _ h => h.trans (wordsMoved_writeSide ..)) d den [] d.moved (.refl _)
  unfold retryDma
  dsimp only
  split
  · split
    · next he =>
      rw [he] at hword
      exact (hpri.trans (retried_wordsMoved hword)).trans (retried_writeFault ..)
    · exact (hpri.trans (retried_putDma ..)).trans (retried_countResolved ..)
  · have hput := hrun.trans (retried_putDma _ (d.run (dropPri s d) den []).2)
    split
    · split
      · exact hput.trans (retried_countResolved ..)
      · exact hput.trans (retried_writeFault ..)
    · exact hput.trans (retried_countResolved ..)

theorem retried_retryAll (s : State) (pick : DmaDesc → Bool) : Retried s (retryAll s pick) := by
  unfold retryAll
  refine foldl_prop (p := Retried s) (fun u d h => h.trans ?_) _ rfl
  split
  · exact retried_retryDma ..
  · exact rfl

theorem retryAll_none {pick : DmaDesc → Bool} (h : ∀ d ∈ s.ring.dmas, d.parked = none) : retryAll s pick = s := by
  have hnone : (s.ring.dmas.filter fun d => d.parked.isSome && pick d) = [] :=
    List.filter_eq_nil_iff.mpr fun d hd => by simp [h d hd]
  rw [retryAll, hnone]
  rfl

theorem invCovers_root {root a r : Nat} {v : U64} (h : invCovers root v r a = true) : r = root :=
  of_decide_eq_true (Bool.and_eq_true_iff.mp h).1

/-- The descriptors that the invalidation under way lets try again. -/
def invPicks (s : State) (d : DmaDesc) : Bool :=
  match d.parked with
  | some p => decide (p.2.2 ≠ 0) && invCovers s.ring.invRoot.toNat s.ring.invAddr (bakeRoot s d.slot) p.1
  | none => false

theorem exec_invalidationComplete_busy (h : s.ring.invBusy = true) : exec .invalidationComplete s =
    .next (retryAll { s with ring := { s.ring with invBusy := false } } (invPicks s)) := by
  show execInvalidationComplete s = _
  unfold execInvalidationComplete
  rw [h]
  exact if_neg (by decide)

/-- Settles O46: a descriptor by the rows it still has to move, an invalidation by what it covers. -/
theorem descriptorsMoveTheirRows : Obligations.DescriptorsMoveTheirRows := by
  unfold Obligations.DescriptorsMoveTheirRows
  refine ⟨⟨?_, ?_, ?_, ?_, ?_, ?_⟩, ?_, ?_, ?_, ?_, ?_⟩
  · exact fun s h den ups hf => exec_dmaDescriptorStart_none hf
  · intro s h den ups d hf hroom hg
    have hx := exec_dmaDescriptorStart_of (h := h) (den := den) (ups := ups) hf hroom
    have hr := mergeHost_ring s h
    have ha := ringHostAlone_mergeHost s h
    have hg' (j : Nat) : getDma (mergeHost s h) j = getDma s j := getDma_congr (by rw [hr]) j
    obtain ⟨e, he, hm, hend, hask, ho, hrings, hframe⟩ := startedDma_kept den ups ((hg' d.id).trans hg)
    rw [padServed_congr (mergeHost_cores s h)] at hend hask
    refine ⟨_, e, hx, he, (congrArg DmaDesc.running hm.1 :), (congrArg DmaDesc.src hm.1 :), (congrArg DmaDesc.dst hm.1 :), (congrArg DmaDesc.use hm.1 :), hm.2,
      hend, hask, fun j hj => (ho j hj).trans (hg' j), hrings.trans (by rw [hr]), ?_⟩
    generalize startedDma (mergeHost s h) d den ups = v at *
    unfold RingHostAlone at ha
    rw [hframe, ha]
  · intro s h den d b1 o1 b2 o2 hf hroom hg hsrc hdst hb hm hr hw
    have hx := exec_dmaDescriptorStart_of (h := h) (den := den) (ups := []) hf hroom
    have ha := ringHostAlone_mergeHost s h
    have hg' : getDma (mergeHost s h) d.id = some d := (getDma_congr (by rw [mergeHost_ring]) _).trans hg
    generalize mergeHost s h = m at *
    have hbake : m.bake d.slot = s.bake d.slot := by rw [State.bake, ha.baker]; rfl
    have hhas (a : Nat) : stackHas m a = stackHas s a := by
      unfold RingHostAlone at ha
      rw [ha]
      rfl
    have hwords : m.hbm.words = s.hbm.words := by
      unfold RingHostAlone at ha
      rw [ha]
    rw [← hhas, ← hbake] at hr hw
    rw [← hwords, ← hbake]
    have hadv : advanceDma m { d with running := true } den [] = _ :=
      (if_pos (padServed_area (d := { d with running := true }) (s := m) hsrc hb)).trans
        (run_area (d := { d with running := true }) hsrc hdst hb hm hr hw den)
    refine ⟨_, hx, ?_⟩
    unfold startedDma
    rw [hadv]
    exact ⟨mget_mset_same .., fun a ha => mget_mset_other _ _ ha _, getDma_putDma_same (d := { d with running := true, moved := 8, parked := none }) hg', rfl⟩
  · exact fun s d id hg h => exec_dmaDescriptorComplete_other hg h
  · intro s d id c o n v hg hr ht hw hu
    have hx := exec_dmaDescriptorComplete_of hg hr ht hw
    have hdone : dmaDone s d = s.modCore c fun k => k.modSeq fun q =>
        { q with flight := q.flight.map fun i => if i.order = o then { i with ready := true } else i } := by rw [dmaDone, hu]
    have hfree (u : State) : afterFree u d = u := by simp [afterFree, hu]
    have hframe := endPadJobs_frame (dmaDone s d) d
    have hflight : ((endPadJobs (dmaDone s d) d).core c).seq.flight =
        (s.core c).seq.flight.map fun i => if i.order = o then { i with ready := true } else i := by
      rw [endPadJobs_seq, hdone, State.modCore_core_same]
      rfl
    have hcore (e : CoreId) (he : e ≠ c) (hp : e ∉ padCores d) : (endPadJobs (dmaDone s d) d).core e = s.core e := by
      rw [endPadJobs_core hp, hdone, State.modCore_core, if_neg he]
    have hdmas : (endPadJobs (dmaDone s d) d).ring.dmas = s.ring.dmas := by
      rw [hframe, hdone]
      rfl
    rw [hfree] at hx
    rw [hdone] at hframe hx hflight hcore hdmas
    generalize endPadJobs _ d = u at *
    refine ⟨_, hx, getDma_freeDma_same u id, fun x hin ho => ?_, ?_, fun j hj => ?_, hcore, ?_⟩
    · obtain ⟨i, -, rfl⟩ := List.mem_map.mp ((congrArg (x ∈ ·) hflight).mp hin)
      split at ho
      · next h => rw [if_pos h]
      · next h => exact absurd ho h
    · exact (congrArg List.length hflight).trans (List.length_map _)
    · rw [getDma_freeDma_other hj, getDma_congr hdmas]
    · exact congrArg (fun w : State => { w with ring := { w.ring with dmas := (freeDma u id).ring.dmas } }) hframe
  · intro s d id j hg hr ht hw hu hlast hf hs
    have hx := exec_dmaDescriptorComplete_of hg hr ht hw
    have hdone : dmaDone s d = s := by rw [dmaDone, hu]
    have hframe := endPadJobs_frame s d
    rw [hdone] at hx
    generalize endPadJobs s d = u at *
    have hbake : (freeDma u id).bake d.slot = s.bake d.slot := by
      rw [hframe]
      rfl
    have hdmas : (freeDma u id).ring.dmas = s.ring.dmas.filter fun x => decide (x.id ≠ id) := by
      rw [hframe]
      rfl
    have hfree : afterFree (freeDma u id) d = fillsDone (freeDma u id) d.slot := by
      unfold afterFree
      refine if_pos ?_
      beta_reduce
      rw [hu, hdmas]
      simp only [Bool.true_and, Bool.not_eq_true', List.any_eq_false]
      intro x hin hx
      obtain ⟨hin, hid⟩ := List.mem_filter.mp hin
      rw [Bool.and_eq_true] at hx
      split at hx
      · next k hk => exact hlast x hin (of_decide_eq_true hx.2) (of_decide_eq_true hid) k hk
      · exact Bool.false_ne_true hx.1
    have hfills := fillsDone_load (s := freeDma u id) (b := d.slot) (by rw [hbake, hf]) (by rw [hbake, hs])
    obtain ⟨hstate, hfilling, hd, hfr⟩ := hfills
    rw [hfree] at hx
    rw [hbake] at hstate
    refine ⟨_, hx, (getDma_congr hd id).trans (getDma_freeDma_same u id), hstate, hfilling, ?_⟩
    generalize fillsDone (freeDma u id) d.slot = v at *
    rw [hfr, hframe]
    rfl
  · intro s v h
    refine ⟨_, if_neg (by rw [h]; exact Bool.false_ne_true), rfl, rfl, fun e he => ?_, fun e he hne => ?_, rfl⟩
    · obtain ⟨hin, hk⟩ := List.mem_filter.mp he
      exact ⟨hin, by simpa using (Bool.and_eq_true_iff.mp hk).1⟩
    · have hno (a : Nat) : invCovers s.ring.invRoot.toNat v e.root a = false :=
        Bool.eq_false_iff.mpr fun hc => hne (invCovers_root hc)
      refine List.mem_filter.mpr ⟨he, ?_⟩
      simp only [hno]
      rfl
  · intro s v h
    refine ⟨_, if_pos h, raiseS_event_of s rfl rfl rfl .., raiseS_kept_of s rfl .., raiseS_eq ..⟩
  · intro s h
    exact if_pos (by rw [h]; rfl)
  · intro s h
    have hb := retried_retryAll { s with ring := { s.ring with invBusy := false } } (invPicks s)
    exact ⟨_, exec_invalidationComplete_busy h, hb.invBusy, hb.rings, fun hd => retryAll_none hd⟩
  · intro s a n
    refine ⟨_, rfl, rfl, fun e he => ?_, fun e he hout => ?_, rfl⟩
    · obtain ⟨hin, hk⟩ := List.mem_filter.mp he
      refine ⟨hin, ?_⟩
      simp only [Bool.not_eq_true', Bool.and_eq_false_iff, decide_eq_false_iff_not] at hk
      omega
    · refine List.mem_filter.mpr ⟨he, ?_⟩
      simp only [Bool.not_eq_true', Bool.and_eq_false_iff, decide_eq_false_iff_not]
      omega

end Sys2Proof.Machine

/-! ### The items a ring starts (R277, R278, R279, R290, R297) -/

namespace Sys2Proof.Machine

variable {s t u : State} {r : Nat} {i : U32} {x : Item}

/-! #### Starting an item -/

/-- Item `i` of ring `r` has started. -/
def begunItem (s : State) (r : Nat) (i : U32) : State := modItem s r i fun x => { x with started := true }

theorem begunItem_frame (s : State) (r : Nat) (i : U32) : begunItem s r i = { s with ring := { s.ring with rings := (begunItem s r i).ring.rings } } := rfl

theorem getItem_begunItem (h : getItem s r i = some x) : getItem (begunItem s r i) r i = some { x with started := true } :=
  getItem_modItem_same (f := fun x => { x with started := true }) (fun _ => rfl) h

theorem otherItemsKept_begunItem (s : State) (r : Nat) (i : U32) : OtherItemsKept s (begunItem s r i) r i :=
  otherItemsKept_modItem (f := fun x => { x with started := true }) (fun _ => rfl) r i

theorem OtherItemsKept.trans (h : OtherItemsKept s t r i) (k : OtherItemsKept t u r i) : OtherItemsKept s u r i :=
  ⟨fun j hj => (k.1 j hj).trans (h.1 j hj), fun q hq => (k.2 q hq).trans (h.2 q hq)⟩

theorem otherItemsKept_of_rings (h : t.ring.rings = s.ring.rings) (r : Nat) (i : U32) : OtherItemsKept s t r i :=
  otherItemsKept_congr (v := s) (fun k => by rw [State.workRing, State.workRing, h]) ⟨fun _ _ => rfl, fun _ _ => rfl⟩

theorem getItem_of_rings (h : t.ring.rings = s.ring.rings) (r : Nat) (j : U32) : getItem t r j = getItem s r j :=
  getItem_congr (by rw [State.workRing, State.workRing, h]) j

/-- The checks before an item starts let it run. -/
def MayRun (s : State) (r : Nat) (i : U32) (op : Nat) (x : Item) : Prop :=
  getItem s r i = some x ∧ x.startable = true ∧ x.started = false ∧ x.status = none ∧ wdOp x.desc = op ∧
    i ∉ (s.workRing r).cancels ∧ descBad x.desc = none ∧ waitBad s r x = none

/-- The old acceptance record that a replayed item names. -/
def oldRecord (s : State) (x : Item) : W256 := BitVec.ofNat 256 (hostNum s (wdPlog x.desc) 32)

theorem startItem_mayRun {op : Nat} (h : MayRun s r i op x) (go : State → Item → State) : startItem s r i op go =
    if wdRpl x.desc = true ∧ fld (oldRecord s x) 63 56 = 3 ∧ fld (oldRecord s x) 255 192 = (wdToken x.desc).toNat then
      endItem (begunItem s r i) r i 1 (BitVec.ofNat 128 (fld (oldRecord s x) 159 128))
    else go (begunItem s r i) x := by
  obtain ⟨hg, hst, hnot, hs, hop, hc, hd, hw⟩ := h
  have hgo : ¬ (!x.startable || x.started || x.status.isSome || decide (wdOp x.desc ≠ op) || (s.workRing r).cancels.contains i) = true := by
    simp [hst, hnot, hs, hop, hc]
  unfold startItem
  rw [hg]
  dsimp only
  rw [if_neg hgo, hd, hw]
  rfl

theorem startItem_runs {op : Nat} (h : ItemRuns s r i op x) (go : State → Item → State) : startItem s r i op go = go (begunItem s r i) x := by
  obtain ⟨hg, hst, hnot, hs, hop, hc, hd, hw, hr⟩ := h
  rw [startItem_mayRun ⟨hg, hst, hnot, hs, hop, hc, hd, hw⟩, if_neg]
  rw [hr]
  exact fun h => Bool.false_ne_true h.1

theorem startItem_none (h : getItem s r i = none) (op : Nat) (go : State → Item → State) : startItem s r i op go = s := by
  unfold startItem
  rw [h]

/-! #### The bake an item names -/

/-- Item `i` works on slot `b`. -/
def onSlotItem (s : State) (r : Nat) (i : U32) (b : Nat) : State := modItem s r i fun x => { x with slot := b }

theorem slotOfLoad_modItem (f : Item → Item) (j : U32) : slotOfLoad (modItem s r i f) r j = slotOfLoad s r j := rfl

theorem namedSlot_modItem {f : Item → Item} (hf : ∀ y, (f y).index = y.index) (hs : ∀ y, (f y).status = y.status) (n : Nat) (l : Option U32) :
    namedSlot (modItem s r i f) r n l = namedSlot s r n l := by
  have hopen (j : U32) : (getItem (modItem s r i f) r j).map (·.status) = (getItem s r j).map (·.status) := by
    rw [getItem_modItem hf, Option.map_map]
    refine congrArg (fun g => Option.map g (getItem s r j)) (funext fun y => ?_)
    show (if y.index = i then f y else y).status = y.status
    split
    · exact hs y
    · rfl
  unfold namedSlot
  split
  · split
    · rfl
    · next j =>
      rw [slotOfLoad_modItem]
      split
      · rfl
      · have hj := hopen j
        cases hg : getItem s r j <;> cases hm : getItem (modItem s r i f) r j <;> rw [hg, hm] at hj
        · exact absurd hj (Option.some_ne_none _)
        · exact absurd hj.symm (Option.some_ne_none _)
        · dsimp only
          rw [show (_ : Item).status = (_ : Item).status from Option.some.inj hj]
  · rfl

theorem onBake_slot {b : Nat} (h : namedSlot s r (wdBake x.desc) x.lref = .slot b) (hi : x.index = i) (go : State → Nat → State) :
    onBake (begunItem s r i) r x go = go (onSlotItem (begunItem s r i) r i b) b := by
  unfold onBake
  rw [begunItem, namedSlot_modItem (f := fun x => { x with started := true }) (fun _ => rfl) (fun _ => rfl), h, hi]
  rfl

/-- What is known of an item that has started on slot `b`. -/
theorem onSlotItem_begun (h : getItem s r i = some x) (b : Nat) :
    getItem (onSlotItem (begunItem s r i) r i b) r i = some { x with started := true, slot := b } ∧
    OtherItemsKept s (onSlotItem (begunItem s r i) r i b) r i ∧
    onSlotItem (begunItem s r i) r i b = { s with ring := { s.ring with rings := (onSlotItem (begunItem s r i) r i b).ring.rings } } :=
  ⟨getItem_modItem_same (f := fun x => { x with slot := b }) (fun _ => rfl) (getItem_begunItem h),
    (otherItemsKept_begunItem s r i).trans (otherItemsKept_modItem (f := fun x => { x with slot := b }) (fun _ => rfl) r i), rfl⟩

/-! #### The end of an item -/

theorem endItem_done (h : getItem s r i = some x) (hs : x.status = none) {c : U8} (hc : c = 0 ∨ c = 1) (d : BitVec 128) :
    endItem s r i c d = modItem s r i fun x => { x with status := some (c, d) } := by
  unfold endItem
  rw [h]
  simp only [hs, Option.isSome_none, Bool.false_eq_true, if_false, if_pos hc]

theorem getItem_endItem_done (h : getItem s r i = some x) (hs : x.status = none) {c : U8} (hc : c = 0 ∨ c = 1) (d : BitVec 128) :
    getItem (endItem s r i c d) r i = some { x with status := some (c, d) } := by
  rw [endItem_done h hs hc]
  exact getItem_modItem_same (f := fun x => { x with status := some (c, d) }) (fun _ => rfl) h

theorem getItem_endItem_failed (h : getItem s r i = some x) (hs : x.status = none) {c : U8} (hc : 1 < c.toNat) (d : BitVec 128) :
    getItem (endItem s r i c d) r i = some (x.failed c d) := by
  rw [getItem_congr (endItem_workRing_failed h hs hc d r)]
  exact getItem_modItem_same (f := fun x => x.failed c d) (fun _ => rfl) h

theorem otherItemsKept_endItem (s : State) (r : Nat) (i : U32) (c : U8) (d : BitVec 128) : OtherItemsKept s (endItem s r i c d) r i := by
  cases h : getItem s r i with
  | none =>
    have hx : endItem s r i c d = s := by rw [endItem, h]
    rw [hx]
    exact ⟨fun _ _ => rfl, fun _ _ => rfl⟩
  | some x =>
    cases hs : x.status with
    | some e =>
      have hx : endItem s r i c d = s := by
        rw [endItem, h]
        dsimp only
        rw [hs]
        rfl
      rw [hx]
      exact ⟨fun _ _ => rfl, fun _ _ => rfl⟩
    | none =>
      by_cases hc : c = 0 ∨ c = 1
      · rw [endItem_done h hs hc]
        exact otherItemsKept_modItem (f := fun x => { x with status := some (c, d) }) (fun _ => rfl) r i
      · have hlt : 1 < c.toNat := by
          have h0 : c.toNat ≠ 0 := fun h0 => hc (.inl (BitVec.eq_of_toNat_eq h0))
          have h1 : c.toNat ≠ 1 := fun h1 => hc (.inr (BitVec.eq_of_toNat_eq h1))
          omega
        exact otherItemsKept_congr (endItem_workRing_failed h hs hlt d) (otherItemsKept_modItem (f := fun x => x.failed c d) (fun _ => rfl) r i)

theorem endItem_done_frame (h : getItem s r i = some x) (hs : x.status = none) {c : U8} (hc : c = 0 ∨ c = 1) (d : BitVec 128) :
    endItem s r i c d = { s with ring := { s.ring with rings := (endItem s r i c d).ring.rings } } := by
  rw [endItem_done h hs hc]
  rfl

end Sys2Proof.Machine

/-! #### NOP, SIGNAL, RUN, MIGRATE and UNLOAD (R263, R264, R277 to R279, R287, R297) -/

namespace Sys2Proof.Machine

variable {s t u : State} {r : Fin 64} {i : U32} {x : Item} {b : Nat}

theorem ItemRuns.item {op : Nat} (h : ItemRuns s r i op x) : getItem s r i = some x := h.1

theorem ItemRuns.open {op : Nat} (h : ItemRuns s r i op x) : x.status = none := h.2.2.2.1

theorem exec_nopItem (s : State) (r : Fin 64) (i : U32) : exec (.nopItem r i) s = .next (startItem s r i 0 fun t _ => endItem t r i 0 0) := rfl

/-- An item that is still open on its slot ends well. -/
theorem endItem_onSlot (hg : getItem t r i = some { x with started := true, slot := b }) (hs : x.status = none) (h : OtherItemsKept s t r i) :
    getItem (endItem t r i 0 0) r i = some { x with started := true, slot := b, status := some (0, 0) } ∧ OtherItemsKept s (endItem t r i 0 0) r i ∧
      endItem t r i 0 0 = { t with ring := { t.ring with rings := (endItem t r i 0 0).ring.rings } } :=
  ⟨getItem_endItem_done hg hs (.inl rfl) 0, h.trans (otherItemsKept_endItem ..), endItem_done_frame hg hs (.inl rfl) 0⟩

/-! ##### SIGNAL -/

theorem signalObj_rings (s : State) (g : Sig) : (signalObj s g).ring.rings = s.ring.rings ∧
    signalObj s g = { s with ring := (signalObj s g).ring, cores := (signalObj s g).cores } ∧
    syncObj (signalObj s g) g.obj = if (syncObj s g.obj).epoch = g.epoch then applySig (syncObj s g.obj) g.set g.val else syncObj s g.obj := by
  unfold signalObj
  dsimp only
  split
  · refine ⟨?_, ?_, syncObj_setSyncObj ..⟩
    · unfold setSyncObj
      split <;> rfl
    · exact (setSyncObj_ring ..).2.2
  · exact ⟨rfl, rfl, rfl⟩

theorem syncObj_of_rings (h : t = { s with ring := { s.ring with rings := t.ring.rings } }) (n : Nat) : syncObj t n = syncObj s n := by
  rw [h]
  rfl

/-- The signal that a SIGNAL item makes. -/
def itemSignal (s : State) (x : Item) (b : Nat) : Sig :=
  ⟨hwSync (s.bake b) (wdArg2 x.desc), decide (2 ^ 63 ≤ wdArg1 x.desc), BitVec.ofNat 32 (wdArg1 x.desc % 2 ^ 32), (s.bake b).epoch⟩

theorem exec_signal_of (h : ItemRuns s r i 5 x) (hn : namedSlot s r (wdBake x.desc) x.lref = .slot b)
    (hlt : wdArg2 x.desc < (s.bake b).pkg.syncs.length) (hsc : soScope (nth 0 (s.bake b).pkg.syncs (wdArg2 x.desc)) = 1) :
    exec (.signal r i) s = .next (endItem (signalObj (onSlotItem (begunItem s r i) r i b) (itemSignal s x b)) r i 0 0) := by
  have hgo : ¬ ((s.bake b).pkg.syncs.length ≤ wdArg2 x.desc ∨ soScope (nth 0 (s.bake b).pkg.syncs (wdArg2 x.desc)) ≠ 1) := by
    rintro (hle | hne)
    · exact absurd hlt (Nat.not_lt.mpr hle)
    · exact hne hsc
  show execSignal r i s = _
  unfold execSignal
  rw [startItem_runs h, onBake_slot hn (getItem_index h.item)]
  exact congrArg Host.Outcome.next (if_neg hgo)

/-! ##### RUN -/

/-- From `s` to `t` nothing has changed but the cores. -/
def CoresAlone (s t : State) : Prop := t = { s with cores := t.cores }

theorem CoresAlone.trans (h : CoresAlone s t) (k : CoresAlone t u) : CoresAlone s u := by
  unfold CoresAlone at *
  rw [k, h]

theorem coresAlone_foldl {α : Type} {f : State → α → State} (h : ∀ u x, CoresAlone u (f u x)) (l : List α) (s : State) :
    CoresAlone s (l.foldl f s) := foldl_prop (p := CoresAlone s) (fun u x hu => hu.trans (h u x)) l rfl

theorem coresAlone_modCore (s : State) (c : CoreId) (f : Core → Core) : CoresAlone s (s.modCore c f) := rfl

theorem coresAlone_writeBounds (s : State) (b : Nat) : CoresAlone s (writeBounds s b) := by
  have hput (u : State) (l : List (CoreId × Nat)) (lo hi : F32) : CoresAlone u
      (l.foldl (fun t e => t.modCore e.1 fun q => q.modLive fun v => v.modSlot e.2 fun x => { x with low := lo, high := hi }) u) :=
    coresAlone_foldl (fun v e => coresAlone_modCore v e.1 _) l u
  unfold writeBounds
  exact (coresAlone_foldl (fun u j => hput u _ _ _) _ s).trans (coresAlone_foldl (fun u w => hput u _ _ _) _ _)

theorem coresAlone_startPhase (s : State) (b ph : Nat) : CoresAlone s (startPhase s b ph) := by
  unfold startPhase
  refine coresAlone_foldl (fun u e => ?_) _ s
  exact coresAlone_modCore ..

/-- The step of an item starts: the bake runs, and the item has one more attempt. -/
theorem startStep_of {n : Nat} (hi : (s.bake b).item = some i) (hr : (s.bake b).ring = n) (hg : getItem s n i = some x) :
    ((startStep s b).bake b).state = 3 ∧ ((startStep s b).bake b).item = some i ∧ ((startStep s b).bake b).committing = false ∧
    ((startStep s b).bake b).io = (s.bake b).io ∧ ((startStep s b).bake b).epoch = (s.bake b).epoch ∧
    getItem (startStep s b) n i = some { x with attempts := x.attempts + 1 } ∧ OtherItemsKept s (startStep s b) n i ∧
    startStep s b = { s with
      cores := (startStep s b).cores, baker := (startStep s b).baker,
      ring := { s.ring with rings := (startStep s b).ring.rings } } := by
  let v := s.modBake b fun q => { q with state := 3, begun := decide ((s.bake b).phase ≤ 1), committing := false, carried := [] }
  let w := modItem v n i fun t => { t with attempts := t.attempts + 1 }
  have hx : startStep s b = if (s.bake b).phase ≤ 1 then startPhase (w.modBake b fun q => { q with phase := 1 }) b 1 else w := by
    show (let k := s.bake b
      let s := v
      let s := match k.item with
        | some i => modItem s k.ring i fun t => { t with attempts := t.attempts + 1 }
        | none => s
      if k.phase ≤ 1 then startPhase (s.modBake b fun q => { q with phase := 1 }) b 1 else s) = _
    dsimp only
    rw [hi, hr]
  have hw : w.bake b = { s.bake b with state := 3, begun := decide ((s.bake b).phase ≤ 1), committing := false, carried := [] } :=
    State.modBake_bake_same ..
  have hwi : getItem w n i = some { x with attempts := x.attempts + 1 } :=
    getItem_modItem_same (f := fun t => { t with attempts := t.attempts + 1 }) (fun _ => rfl) hg
  have hwo : OtherItemsKept s w n i := otherItemsKept_modItem (s := v) (f := fun t => { t with attempts := t.attempts + 1 }) (fun _ => rfl) n i
  have hwf : w = { s with cores := w.cores, baker := w.baker, ring := { s.ring with rings := w.ring.rings } } := rfl
  rw [hx]
  clear_value w
  split
  · have ha := coresAlone_startPhase (w.modBake b fun q => { q with phase := 1 }) b 1
    generalize startPhase (w.modBake b fun q => { q with phase := 1 }) b 1 = z at *
    unfold CoresAlone at ha
    have hb : z.bake b = { w.bake b with phase := 1 } := by
      rw [ha]
      exact State.modBake_bake_same ..
    have hz : z.ring.rings = w.ring.rings := by rw [ha]; rfl
    rw [hb, hw, getItem_of_rings hz]
    exact ⟨rfl, hi, rfl, rfl, rfl, hwi, hwo.trans (otherItemsKept_of_rings hz ..), by rw [ha, hwf]; rfl⟩
  · rw [hw]
    exact ⟨rfl, hi, rfl, rfl, rfl, hwi, hwo, hwf⟩

theorem exec_run_of {host : List Host.Cell} (h : ItemRuns (mergeHost s host) r i 2 x)
    (hn : namedSlot (mergeHost s host) r (wdBake x.desc) x.lref = .slot b) (ha : wdArg1 x.desc = 0)
    (hio : ioMissing ((mergeHost s host).bake b).pkg (stepTemplates ((mergeHost s host).bake b).pkg) [] = false) :
    exec (.run r i host) s = .next (startStep (writeBounds ((onSlotItem (begunItem (mergeHost s host) r i) r i b).modBake b fun k =>
      { k with item := some i, io := [], reason := 0 }) b) b) := by
  have hread (u : State) : readIo u r x.desc = (.ok [], u) := if_pos ha
  have hgo : ¬ (ioBad ((mergeHost s host).bake b).pkg.tensors.length [] || ioMissing ((mergeHost s host).bake b).pkg
      (stepTemplates ((mergeHost s host).bake b).pkg) (ioMap [])) = true := by
    have hmap : ioMap [] = [] := rfl
    rw [hmap, hio]
    exact Bool.false_ne_true
  show execRun r i host s = _
  unfold execRun
  rw [startItem_runs h, onBake_slot hn (getItem_index h.item)]
  simp only [hread]
  exact congrArg Host.Outcome.next (if_neg hgo)

/-! ##### MIGRATE -/

theorem exec_migrate_of (h : ItemRuns s r i 4 x) (hn : namedSlot s r (wdBake x.desc) x.lref = .slot b) : exec (.migrate r i) s = .next
    ((startMigration (onSlotItem (begunItem s r i) r i b) b (wdTgt x.desc) (wdArg2 x.desc)).getD
      (endInvalid (onSlotItem (begunItem s r i) r i b) r i 495)) := by
  show execMigrate r i s = _
  unfold execMigrate
  rw [startItem_runs h, onBake_slot hn (getItem_index h.item)]
  cases startMigration (onSlotItem (begunItem s r i) r i b) b (wdTgt x.desc) (wdArg2 x.desc) <;> rfl

theorem exec_migrate_starts (h : ItemRuns s r i 4 x) (hn : namedSlot s r (wdBake x.desc) x.lref = .slot b) (h0 : (s.bake b).state ≠ 0)
    (h1 : (s.bake b).state ≠ 1) (hm : (s.bake b).migTo = 0) (ht : targetOk s b (wdTgt x.desc) = true) :
    exec (.migrate r i) s = .next ((onSlotItem (begunItem s r i) r i b).modBake b fun q => { q with
      migTo := BitVec.ofNat 8 (wdTgt x.desc)
      migDrain := decide (boundaryOf s b (wdArg2 x.desc) = 1)
      state := if q.state = 2 then 6 else q.state }) := by
  have hno : ¬ ((s.bake b).state = 0 ∨ (s.bake b).state = 1 ∨ (s.bake b).migTo ≠ 0 ∨ targetOk s b (wdTgt x.desc) = false) := by
    rintro (h | h | h | h)
    · exact h0 h
    · exact h1 h
    · exact h hm
    · exact Bool.false_ne_true (h.symm.trans ht)
  have hst : startMigration (onSlotItem (begunItem s r i) r i b) b (wdTgt x.desc) (wdArg2 x.desc) = _ := if_neg hno
  rw [exec_migrate_of h hn, hst]
  rfl

theorem exec_migrate_refused (h : ItemRuns s r i 4 x) (hn : namedSlot s r (wdBake x.desc) x.lref = .slot b)
    (hno : (s.bake b).state = 1 ∨ (s.bake b).migTo ≠ 0 ∨ targetOk s b (wdTgt x.desc) = false) :
    exec (.migrate r i) s = .next (endInvalid (onSlotItem (begunItem s r i) r i b) r i 495) := by
  have hst : startMigration (onSlotItem (begunItem s r i) r i b) b (wdTgt x.desc) (wdArg2 x.desc) = none := if_pos (.inr hno)
  rw [exec_migrate_of h hn, hst]
  rfl

end Sys2Proof.Machine

/-! ##### UNLOAD -/

namespace Sys2Proof.Machine

variable {s t u : State} {r : Fin 64} {i : U32} {x : Item} {b : Nat}

theorem ringHostAlone_endItems (s : State) (b : Nat) (pick : U32 → Bool) (c : U8) (d : BitVec 128) : RingHostAlone s (endItems s b pick c d) :=
  ringHostAlone_foldl (fun u j => ringHostAlone_endItem u (s.bake b).ring j c d) _ s

/-- Items of a bake that end leave every other item and every other ring. -/
theorem endItems_others {n : Nat} {pick : U32 → Bool} (hr : (s.bake b).ring = n) (hp : pick i = false) (c : U8) (d : BitVec 128) :
    getItem (endItems s b pick c d) n i = getItem s n i ∧ ∀ q, q ≠ n → (endItems s b pick c d).workRing q = s.workRing q := by
  unfold endItems
  rw [hr]
  refine foldl_prop_mem (p := fun u : State => getItem u n i = getItem s n i ∧ ∀ q, q ≠ n → u.workRing q = s.workRing q)
    (fun u j hj ⟨hi, hq⟩ => ?_) ⟨rfl, fun _ _ => rfl⟩
  obtain ⟨ho, hrest⟩ := otherItemsKept_endItem u n j c d
  have hne : i ≠ j := fun heq => by
    have hpj := (List.mem_filter.mp hj).2
    rw [← heq, hp] at hpj
    exact Bool.false_ne_true hpj
  exact ⟨(ho i hne).trans hi, fun q hne => (hrest q hne).trans (hq q hne)⟩

/-! ##### An empty slot -/

theorem coresAlone_clearCores (s : State) (b : Nat) : CoresAlone s (clearCores s b) := by
  unfold clearCores
  refine coresAlone_foldl (fun u e => ?_) _ s
  exact coresAlone_modCore ..

theorem bakeOf_of_inst {k : Core} {n : Nat} (h : k.inst = some (b, n)) : bakeOf k = b := by
  rw [bakeOf, h]
  rfl

/-- No core of a cleared bake runs an instance of it. -/
theorem clearCores_inst {c : CoreId} (hc : c ∈ bakeCores (s.bake b)) (n : Nat) : ((clearCores s b).core c).inst ≠ some (b, n) := by
  have hgo : ∀ (l : List CoreId) (f : Core → Core) (_ : ∀ k, bakeOf (f k) ≠ b ∨ (f k).inst = none) (_ : ∀ k n, k.inst ≠ some (b, n) → (f k).inst ≠ some (b, n)) (v : State),
      (c ∈ l ∨ ∀ n, (v.core c).inst ≠ some (b, n)) → ((l.foldl (fun t c => t.modCore c f) v).core c).inst ≠ some (b, n) := by
    intro l f h1 h2
    induction l with
    | nil => exact fun v h => h.resolve_left (List.not_mem_nil) n
    | cons e l ih =>
      refine fun v h => ih _ ?_
      rw [State.modCore_core]
      split
      · next he =>
        refine .inr fun n hi => ?_
        obtain h1 | h1 := h1 (v.core e)
        · exact h1 (bakeOf_of_inst hi)
        · exact absurd (h1.symm.trans hi) (Option.some_ne_none _).symm
      · next he => exact h.imp_left fun hm => (List.mem_cons.mp hm).resolve_left he
  unfold clearCores
  refine hgo _ _ (fun k => ?_) (fun k n hk => ?_) s (.inl hc)
  · split
    · exact .inr rfl
    · next h => exact .inl h
  · split
    · exact (Option.some_ne_none _).symm
    · exact hk

theorem foldl_modRouter_frame (f : Router → Router) (l : List Site) (s : State) : l.foldl (fun u p => u.modRouter p f) s =
    { s with flue := (l.foldl (fun u p => u.modRouter p f) s).flue } :=
  foldl_prop (p := fun u : State => u = { s with flue := u.flue })
    (fun u p h => congrArg (fun w : State => { w with flue := (u.modRouter p f).flue }) h) l rfl

/-- What an emptied slot leaves. -/
theorem emptySlot_kept (s : State) (b : Nat) : (emptySlot s b).bake b = {} ∧ (∀ d, d ≠ b → (emptySlot s b).bake d = s.bake d) ∧
    (∀ d ∈ (emptySlot s b).ring.dmas, d.slot ≠ b) ∧
    (∀ c ∈ bakeCores (s.bake b), ∀ n, ((emptySlot s b).core c).inst ≠ some (b, n)) ∧ (emptySlot s b).ring.rings = s.ring.rings ∧
    emptySlot s b = { s with
      cores := (emptySlot s b).cores, flue := (emptySlot s b).flue, baker := (emptySlot s b).baker, ring := (emptySlot s b).ring,
      ctl := (emptySlot s b).ctl } := by
  have hc := coresAlone_clearCores s b
  have hi (c : CoreId) (h : c ∈ bakeCores (s.bake b)) (n : Nat) := clearCores_inst h n
  unfold emptySlot
  dsimp only
  generalize clearCores s b = v at *
  have hf := foldl_modRouter_frame (fun q => { q with sched := { q.sched with period := 0, epoch := 0 }, staged := none })
    (tenantRouters v (s.bake b).tenant.toNat) v
  generalize List.foldl _ v _ = w at *
  unfold CoresAlone at hc
  have hwb (d : Nat) : w.bake d = s.bake d := by
    rw [hf, hc]
    rfl
  refine ⟨?_, fun d hd => ?_, fun d hd => ?_, fun c hin n => ?_, ?_, ?_⟩
  · exact State.modBake_bake_same (s := w.modDmas fun l => l.filter fun d => decide (d.slot ≠ b)) b _
  · exact (State.modBake_bake (s := w.modDmas fun l => l.filter fun d => decide (d.slot ≠ b)) b d _).trans ((if_neg hd).trans (hwb d))
  · exact of_decide_eq_true (List.mem_filter.mp hd).2
  · have hcore : w.core c = v.core c := by
      rw [hf]
      rfl
    exact fun heq => hi c hin n (hcore ▸ heq)
  · show w.ring.rings = s.ring.rings
    rw [hf, hc]
  · rw [hf, hc]
    rfl

end Sys2Proof.Machine

/-! ##### The items act on the bakes they name -/

namespace Sys2Proof.Machine

variable {s t u : State} {r : Fin 64} {i : U32} {x : Item} {b : Nat}

/-- The items of the bake that come before an item of its ring. -/
def endsBefore (s : State) (r : Nat) (x : Item) (j : U32) : Bool := ((earlier (s.workRing r) x).map (·.index)).contains j

theorem endsBefore_self (s : State) (r : Nat) (x : Item) : endsBefore s r x x.index = false := by
  rw [endsBefore, Bool.eq_false_iff]
  intro h
  obtain ⟨y, hy, heq⟩ := List.mem_map.mp (List.contains_iff_mem.mp h)
  exact of_decide_eq_true (List.mem_takeWhile_imp (List.mem_of_mem_filter hy) :) heq

theorem exec_unload_of (h : ItemRuns s r i 3 x) (hn : namedSlot s r (wdBake x.desc) x.lref = .slot b) (hi : (s.bake b).item = none) :
    exec (.unload r i) s = .next (endItem (emptySlot (endItems (onSlotItem (begunItem s r i) r i b) b
      (endsBefore (onSlotItem (begunItem s r i) r i b) r x) 7 0) b) r i 0 0) := by
  have hbusy : ¬ ((s.bake b).item.isSome && !(s.bake b).absorbed) = true := by
    rw [hi]
    exact Bool.false_ne_true
  have hwait : ¬ namedSlot (begunItem s r i) r (wdBake x.desc) x.lref = .waiting := by
    rw [begunItem, namedSlot_modItem (f := fun x => { x with started := true }) (fun _ => rfl) (fun _ => rfl), hn]
    exact Named.noConfusion
  show execUnload r i s = _
  unfold execUnload
  rw [h.item]
  dsimp only
  rw [hn]
  dsimp only
  rw [if_neg (fun hgo => hbusy (Bool.and_eq_true_iff.mp hgo).1), startItem_runs h, if_neg hwait, onBake_slot hn (getItem_index h.item)]
  refine congrArg Host.Outcome.next ?_
  have hskip : (if ((onSlotItem (begunItem s r i) r i b).bake b).item.isSome && !((onSlotItem (begunItem s r i) r i b).bake b).absorbed then
      fence (onSlotItem (begunItem s r i) r i b) b 0 true else onSlotItem (begunItem s r i) r i b) = onSlotItem (begunItem s r i) r i b :=
    if_neg hbusy
  rw [hskip]
  rfl

theorem mergeHost_frame (s : State) (l : List Host.Cell) : mergeHost s l = { s with host := (mergeHost s l).host } := by
  unfold mergeHost
  split <;> rfl

theorem itemRuns_mergeHost {op : Nat} (h : ItemRuns s r i op x) (l : List Host.Cell) : ItemRuns (mergeHost s l) r i op x := by
  rw [mergeHost_frame]
  exact h

/-- Settles O38: each operation on the bake that the item names. -/
theorem itemsRunOnTheBakesTheyName : Obligations.ItemsRunOnTheBakesTheyName := by
  unfold Obligations.ItemsRunOnTheBakesTheyName
  refine ⟨⟨?_, ?_, ?_, ?_, ?_⟩, ?_, ?_, ?_⟩
  · intro s r i x h
    have hx := exec_nopItem s r i
    rw [startItem_runs h] at hx
    have hg := getItem_begunItem h.item
    refine ⟨_, hx, getItem_endItem_done hg h.open (.inl rfl) 0, (otherItemsKept_begunItem s r i).trans (otherItemsKept_endItem ..), ?_⟩
    rw [endItem_done hg h.open (.inl rfl)]
    rfl
  · intro s r i h
    refine ⟨?_, ?_, ?_, ?_⟩
    · exact congrArg Host.Outcome.next (startItem_none h ..)
    · exact congrArg Host.Outcome.next (startItem_none h ..)
    · exact congrArg Host.Outcome.next (startItem_none h ..)
    · show execUnload r i s = _
      unfold execUnload
      rw [h]
  · intro s r i x hg hst hnot hs hop hc hd hw hr h3 htok
    have hx := exec_nopItem s r i
    rw [startItem_mayRun ⟨hg, hst, hnot, hs, hop, hc, hd, hw⟩, if_pos ⟨hr, h3, htok⟩] at hx
    exact ⟨_, hx, getItem_endItem_done (getItem_begunItem hg) hs (.inr rfl) _⟩
  · intro s r i x b h hn hlt hsc
    have hx := exec_signal_of h hn hlt hsc
    obtain ⟨hg, ho, hf⟩ := onSlotItem_begun h.item b
    generalize onSlotItem (begunItem s r i) r i b = m at *
    obtain ⟨hrings, hsf, hobj⟩ := signalObj_rings m (itemSignal s x b)
    rw [syncObj_of_rings hf, applySig_eq] at hobj
    generalize signalObj m (itemSignal s x b) = v at *
    obtain ⟨hi, hk, hef⟩ := endItem_onSlot ((getItem_of_rings hrings r i).trans hg) h.open (ho.trans (otherItemsKept_of_rings hrings ..))
    refine ⟨_, hx, hi, hk, (syncObj_of_rings hef _).trans ?_, ?_⟩
    · simpa only [itemSignal, decide_eq_true_eq] using hobj
    · generalize endItem v r i 0 0 = w at *
      rw [hef, hsf, hf]
  · intro s r i x b host h hn hr ha hio
    have hm := mergeHost_frame s host
    have hmh := itemRuns_mergeHost h host
    have hmn : namedSlot (mergeHost s host) r (wdBake x.desc) x.lref = .slot b := by
      rw [hm]
      exact hn
    have hmb : (mergeHost s host).bake b = s.bake b := by
      rw [hm]
      rfl
    have hmo : OtherItemsKept s (mergeHost s host) r i := otherItemsKept_of_rings (by rw [mergeHost_ring]) ..
    have hx := exec_run_of hmh hmn ha (by rw [hmb]; exact hio)
    generalize mergeHost s host = m at *
    obtain ⟨hg, ho, hf⟩ := onSlotItem_begun hmh.item b
    have hvb : (onSlotItem (begunItem m r i) r i b).bake b = s.bake b := hmb
    generalize onSlotItem (begunItem m r i) r i b = v at *
    have hw := coresAlone_writeBounds (v.modBake b fun k => { k with item := some i, io := [], reason := 0 }) b
    unfold CoresAlone at hw
    generalize writeBounds (v.modBake b fun k => { k with item := some i, io := [], reason := 0 }) b = w at *
    have hwb : w.bake b = { s.bake b with item := some i, io := [], reason := 0 } := by
      rw [hw, ← hvb]
      exact State.modBake_bake_same ..
    have hwr : w.ring.rings = v.ring.rings := by rw [hw]; rfl
    obtain ⟨h3, hitem, hcom, hio', hep, hi, hk, hzf⟩ := startStep_of (s := w) (n := r) (i := i) (b := b) (by rw [hwb]) (by rw [hwb]; exact hr)
      ((getItem_of_rings hwr r i).trans hg)
    rw [hwb] at hio' hep
    generalize startStep w b = z at *
    exact ⟨_, hx, h3, hitem, hcom, hio', hep, hi, (hmo.trans ho).trans ((otherItemsKept_of_rings hwr ..).trans hk),
      by rw [hzf, hw, hf]; rfl, by rw [hzf, hw, hf, hm]; rfl⟩
  · intro s r i x b h hn h0 h1 hm ht
    have hx := exec_migrate_starts h hn h0 h1 hm ht
    obtain ⟨hg, ho, hf⟩ := onSlotItem_begun h.item b
    have hb (d : Nat) : (onSlotItem (begunItem s r i) r i b).bake d = s.bake d := rfl
    generalize onSlotItem (begunItem s r i) r i b = m at *
    refine ⟨_, hx, ?_, fun d hd => ?_, hg, ho, ?_⟩
    · rw [State.modBake_bake_same, hb]
    · rw [State.modBake_bake, if_neg hd, hb]
    · rw [hf]
      rfl
  · intro s r i x b h hn hno
    have hx := exec_migrate_refused h hn hno
    obtain ⟨hg, ho, hf⟩ := onSlotItem_begun h.item b
    generalize onSlotItem (begunItem s r i) r i b = m at *
    have ha := ringHostAlone_endItem m r i 3 (BitVec.ofNat 128 495)
    have hi := getItem_endItem_failed hg h.open (c := 3) (by decide) (BitVec.ofNat 128 495)
    unfold endInvalid at hx
    generalize endItem m r i 3 (BitVec.ofNat 128 495) = v at *
    refine ⟨_, hx, hi, ?_, ?_⟩
    · rw [ha.baker, hf]
    · unfold RingHostAlone at ha
      rw [ha, hf]
  · intro s r i x b h hn hr hitem
    have hx := exec_unload_of h hn hitem
    obtain ⟨hg, ho, hf⟩ := onSlotItem_begun h.item b
    have hb (d : Nat) : (onSlotItem (begunItem s r i) r i b).bake d = s.bake d := rfl
    have hself := endsBefore_self (onSlotItem (begunItem s r i) r i b) r x
    rw [getItem_index h.item] at hself
    generalize onSlotItem (begunItem s r i) r i b = m at *
    obtain ⟨hei, heq⟩ := endItems_others (s := m) (b := b) (n := r) (by rw [hb, hr]) hself 7 0
    have hea := ringHostAlone_endItems m b (endsBefore m r x) 7 0
    generalize endItems m b (endsBefore m r x) 7 0 = v at *
    have hvb (d : Nat) : v.bake d = s.bake d := (show v.bake d = m.bake d by rw [State.bake, hea.baker]; rfl).trans (hb d)
    obtain ⟨hempty, hothers, hdmas, hinst, hrings, hfr⟩ := emptySlot_kept v b
    rw [hvb b] at hinst
    generalize emptySlot v b = w at *
    have hwi : getItem w r i = some { x with started := true, slot := b } := (getItem_of_rings hrings r i).trans (hei.trans hg)
    have hi := getItem_endItem_done hwi h.open (.inl rfl) 0
    obtain ⟨-, hq⟩ := otherItemsKept_endItem w r i 0 0
    have hef := endItem_done_frame hwi h.open (.inl rfl) 0
    generalize endItem w r i 0 0 = z at *
    have hzb (d : Nat) : z.bake d = w.bake d := by rw [hef]; rfl
    have hzd : z.ring.dmas = w.ring.dmas := by rw [hef]
    have hzc (c : CoreId) : z.core c = w.core c := by rw [hef]; rfl
    refine ⟨_, hx, (hzb b).trans hempty, fun d hd => (hzb d).trans ((hothers d hd).trans (hvb d)), fun d hd => hdmas d (by rwa [hzd] at hd),
      fun c hc n => by rw [hzc]; exact hinst c hc n, hi, fun q hne => ?_, ?_⟩
    · rw [hq q hne, State.workRing, hrings]
      exact (heq q hne).trans (ho.2 q hne)
    · unfold RingHostAlone at hea
      rw [hef, hfr, hea, hf]

end Sys2Proof.Machine

/-! ### LOAD takes a slot (R129, R232, R243, R286) -/

namespace Sys2Proof.Machine

variable {s t u : State}

/-- From `s` to `t` nothing has changed but the caches of translations. -/
def CachesAlone (s t : State) : Prop := t = { s with ring := { s.ring with tlb := t.ring.tlb, ats := t.ring.ats } }

theorem CachesAlone.trans (h : CachesAlone s t) (k : CachesAlone t u) : CachesAlone s u := by
  unfold CachesAlone at *
  rw [k, h]

theorem cachesAlone_useLeaf (south : Bool) (dva sh : Nat) (e : U64) (write : Bool) (denied : List Nat) :
    CachesAlone s (useLeaf s south dva sh e write denied).2 := by
  unfold useLeaf
  dsimp only
  repeat' split
  all_goals exact rfl

theorem cachesAlone_translate (south : Bool) (root dva : Nat) (write : Bool) (denied : List Nat) :
    CachesAlone s (translate s south root dva write denied).2 := by
  unfold translate
  split
  · exact rfl
  · split
    · exact cachesAlone_useLeaf ..
    · split
      · exact rfl
      · exact (show CachesAlone s { s with ring := { s.ring with tlb := _ } } from rfl).trans (cachesAlone_useLeaf ..)

theorem cachesAlone_readDva (root : Nat) (denied : List Nat) : ∀ (n dva : Nat) (s : State), CachesAlone s (readDva s root denied n dva).2
  | 0, _, _ => rfl
  | n + 1, dva, s => by
    have ht := cachesAlone_translate (s := s) false root dva false denied
    unfold readDva
    split
    · next he => rwa [he] at ht
    · next t he =>
      rw [he] at ht
      have hu := cachesAlone_readDva root denied n (dva + 8) t
      dsimp only
      split <;> next hr =>
        rw [hr] at hu
        exact ht.trans hu

theorem CachesAlone.rings (h : CachesAlone s t) : t.ring.rings = s.ring.rings := by
  rw [h]

theorem CachesAlone.baker (h : CachesAlone s t) : t.baker = s.baker := by
  rw [h]

theorem CachesAlone.host (h : CachesAlone s t) : t.host = s.host := by
  rw [h]

theorem rectBusy_cachesAlone (h : CachesAlone s t) (n : Nat) : rectBusy t n = rectBusy s n := by
  rw [h]
  rfl

theorem freeSlot_cachesAlone (h : CachesAlone s t) : freeSlot t = freeSlot s := by
  rw [h]
  rfl

theorem defaultsNow_cachesAlone (h : CachesAlone s t) : defaultsNow t = defaultsNow s := by
  rw [h]
  rfl

section
variable {r : Fin 64} {i : U32} {x : Item} {host : List Host.Cell}

/-- The header of a package, as its first 32 bytes are read for a LOAD. -/
def headerRead (s : State) (r : Fin 64) (i : U32) (x : Item) : Except (Nat × Nat) (List Byte) × State :=
  readDva (begunItem s r i) (s.workRing r).ptRoot.toNat [] 4 (wdArg0 x.desc)

theorem begunItem_ptRoot (s : State) (r : Fin 64) (i : U32) : ((begunItem s r i).workRing r).ptRoot = (s.workRing r).ptRoot := by
  rw [begunItem, modItem_workRing_same]

section
variable {l : List Byte} (h : ItemRuns (mergeHost s host) r i 1 x) (hl : (headerRead (mergeHost s host) r i x).1 = .ok l)
include h hl

theorem exec_load_takes {b : Nat} (hb : rectBusy (headerRead (mergeHost s host) r i x).2 (phTnt (BitVec.ofNat 256 (ofLe l))) = false)
    (hf : freeSlot (headerRead (mergeHost s host) r i x).2 = some b) : exec (.load r i host) s =
      .next (takeLoad (headerRead (mergeHost s host) r i x).2 r i x.desc b (BitVec.ofNat 256 (ofLe l))) := by
  show execLoad r i host s = _
  unfold execLoad
  rw [startItem_runs h, begunItem_ptRoot]
  unfold headerRead at *
  dsimp only
  rw [hl]
  dsimp only
  rw [hb, hf, if_neg Bool.false_ne_true]

theorem exec_load_rejects (hno : rectBusy (headerRead (mergeHost s host) r i x).2 (phTnt (BitVec.ofNat 256 (ofLe l))) = true ∨
      freeSlot (headerRead (mergeHost s host) r i x).2 = none) : exec (.load r i host) s =
      .next (rejectEarly (headerRead (mergeHost s host) r i x).2 r i (pkgReject 7 0 0xFFFFFF)) := by
  show execLoad r i host s = _
  unfold execLoad
  rw [startItem_runs h, begunItem_ptRoot]
  unfold headerRead at *
  dsimp only
  rw [hl]
  dsimp only
  obtain hb | hf := hno
  · rw [if_pos hb]
  · rw [hf]
    exact congrArg Host.Outcome.next (ite_self _)

end

theorem headerRead_kept (h : getItem s r i = some x) : CachesAlone (begunItem s r i) (headerRead s r i x).2 ∧
    getItem (headerRead s r i x).2 r i = some { x with started := true } ∧ OtherItemsKept s (headerRead s r i x).2 r i := by
  have hc : CachesAlone (begunItem s r i) (headerRead s r i x).2 := cachesAlone_readDva ..
  exact ⟨hc, (getItem_of_rings hc.rings r i).trans (getItem_begunItem h),
    (otherItemsKept_begunItem s r i).trans (otherItemsKept_of_rings hc.rings ..)⟩

/-- Slot `b` as a load takes it. -/
def loadingBake (s : State) (r : Fin 64) (i : U32) (h : W256) : Bake :=
  { state := 1, ring := r.val, loadIdx := i, tenant := BitVec.ofNat 8 (phTnt h), defaults := defaultsNow s }

/-- A load has taken slot `b`. -/
def slotTaken (s : State) (r : Fin 64) (i : U32) (b : Nat) (k : Bake) : State := onSlotItem (s.modBake b fun _ => k) r i b

theorem slotTaken_kept (b : Nat) (k : Bake) (h : getItem s r i = some x) : (slotTaken s r i b k).bake b = k ∧
    (∀ d, d ≠ b → (slotTaken s r i b k).bake d = s.bake d) ∧ getItem (slotTaken s r i b k) r i = some { x with slot := b } ∧
    OtherItemsKept s (slotTaken s r i b k) r i ∧ ((slotTaken s r i b k).workRing r).ptRoot = (s.workRing r).ptRoot ∧
    slotTaken s r i b k = { s with
      baker := (slotTaken s r i b k).baker, ring := { s.ring with rings := (slotTaken s r i b k).ring.rings } } := by
  refine ⟨State.modBake_bake_same (s := s) b fun _ => k, fun d hd => (State.modBake_bake (s := s) b d fun _ => k).trans (if_neg hd),
    getItem_modItem_same (f := fun x => { x with slot := b }) (fun _ => rfl) h,
    otherItemsKept_modItem (s := s.modBake b fun _ => k) (f := fun x => { x with slot := b }) (fun _ => rfl) r i, ?_, rfl⟩
  rw [slotTaken, onSlotItem, modItem_workRing_same]
  rfl

/-- A load that passes every check is placing in its slot. -/
theorem takeLoad_places {w : BitVec 512} {b : Nat} {h : W256} {l : List Byte} {v : State} (hh : headerFault h = none)
    (hv : v = slotTaken s r i b (loadingBake s r i h))
    (hl : (readDva v (v.workRing r).ptRoot.toNat [] (ceilDiv (phBytes h) 8) (wdArg0 w)).1 = .ok l)
    (hp : packageReject (readDva v (v.workRing r).ptRoot.toNat [] (ceilDiv (phBytes h) 8) (wdArg0 w)).2 (l.take (phBytes h)) = none)
    (ha : wdArg1 w = 0)
    (hio : ioMissing (readPackage (l.take (phBytes h))) (fillTemplates (readPackage (l.take (phBytes h)))) [] = false) :
    takeLoad s r i w b h = (readDva v (v.workRing r).ptRoot.toNat [] (ceilDiv (phBytes h) 8) (wdArg0 w)).2.modBake b fun k =>
      { k with pkg := readPackage (l.take (phBytes h)), digest := sha384 (l.take (phBytes h)), io := [], loadIo := [] } := by
  have hread (u : State) : readIo u r w = (.ok [], u) := if_pos ha
  have hgo : ¬ (ioBad (readPackage (l.take (phBytes h))).tensors.length [] || ioMissing (readPackage (l.take (phBytes h)))
      (fillTemplates (readPackage (l.take (phBytes h)))) (ioMap [])) = true := by
    have hmap : ioMap [] = [] := rfl
    rw [hmap, hio]
    exact Bool.false_ne_true
  unfold takeLoad
  rw [hh]
  dsimp only
  unfold slotTaken onSlotItem loadingBake at hv
  rw [← hv, hl]
  dsimp only
  rw [hp]
  simp only [hread]
  exact if_neg hgo

end

theorem getItem_rejectEarly {r : Nat} {i : U32} {x : Item} (e : Reject) (h : getItem s r i = some x) (hs : x.status = none) :
    getItem (rejectEarly s r i e) r i = some (x.failed 4 e.bits) ∧ OtherItemsKept s (rejectEarly s r i e) r i ∧
    (rejectEarly s r i e).baker = { s.baker with reject := e.bits } := by
  unfold rejectEarly
  generalize e.bits = d
  generalize hu : ({ s with baker := { s.baker with reject := d } } : State) = u
  have hr : u.ring.rings = s.ring.rings := by rw [← hu]
  refine ⟨getItem_endItem_failed ((getItem_of_rings hr r i).trans h) hs (by decide) d,
    (otherItemsKept_of_rings hr r i).trans (otherItemsKept_endItem u r i 4 d), ?_⟩
  rw [(ringHostAlone_endItem u r i 4 d).baker, ← hu]

/-- Settles O39: the checks of a package one after the other, then the slot. -/
theorem loadTakesTheLowestFreeSlot : Obligations.LoadTakesTheLowestFreeSlot := by
  unfold Obligations.LoadTakesTheLowestFreeSlot
  refine ⟨?_, ?_⟩
  · intro s r i x host l0 b l h u root hl0 h' hbusy hfree hfault v hl hp ha hio
    have hroot : ((mergeHost s host).workRing r).ptRoot.toNat = root := by rw [mergeHost_workRing]
    have hhead : headerRead (mergeHost s host) r i x = readDva u root [] 4 (wdArg0 x.desc) := by rw [headerRead, hroot]; rfl
    have hm := mergeHost_frame s host
    have hx {b : Nat} := exec_load_takes (b := b) h (by rw [hhead]; exact hl0)
    obtain ⟨hc, hg, ho⟩ := headerRead_kept h.item
    rw [hhead] at hx hc hg ho
    have hmo : OtherItemsKept s (mergeHost s host) r i := otherItemsKept_of_rings (by rw [mergeHost_ring]) ..
    have hu : u = { s with ring := { s.ring with rings := u.ring.rings }, host := (mergeHost s host).host } := by
      rw [show u = begunItem (mergeHost s host) r i from rfl, begunItem_frame, hm]
    change CachesAlone u _ at hc
    have hdef : defaultsNow (readDva u root [] 4 (wdArg0 x.desc)).2 = defaultsNow s := by
      rw [defaultsNow_cachesAlone hc, hu]
      rfl
    have hvdef : v = slotTaken (readDva u root [] 4 (wdArg0 x.desc)).2 r i b (loadingBake (readDva u root [] 4 (wdArg0 x.desc)).2 r i h') := by
      rw [loadingBake, hdef]
      rfl
    obtain ⟨hvb, hvo, hvi, hvk, hvp, hvf⟩ := slotTaken_kept b (loadingBake (readDva u root [] 4 (wdArg0 x.desc)).2 r i h') hg
    rw [← hvdef, loadingBake, hdef] at hvb
    rw [← hvdef] at hvo hvi hvk hvp hvf
    have hpt : (v.workRing r).ptRoot.toNat = root := by
      have hqr : ((readDva u root [] 4 (wdArg0 x.desc)).2).workRing r = u.workRing r := by rw [State.workRing, hc.rings]; rfl
      have hur : (u.workRing r).ptRoot = (s.workRing r).ptRoot := (begunItem_ptRoot ..).trans (by rw [mergeHost_workRing])
      rw [hvp, hqr, hur]
    rw [← hpt] at hl hp
    have htake := takeLoad_places hfault hvdef hl hp ha hio
    have hq := cachesAlone_readDva (v.workRing r).ptRoot.toNat [] (ceilDiv (phBytes h') 8) (wdArg0 x.desc) v
    rw [rectBusy_cachesAlone hc, freeSlot_cachesAlone hc, show rectBusy u = rectBusy s by rw [hu]; rfl,
      show freeSlot u = freeSlot s by rw [hu]; rfl] at hx
    have hgo := hx hbusy hfree
    clear hx
    rw [htake] at hgo
    generalize (readDva v (v.workRing r).ptRoot.toNat [] (ceilDiv (phBytes h') 8) (wdArg0 x.desc)).2 = w at *
    have hwb (d : Nat) : w.bake d = v.bake d := by rw [State.bake, hq.baker]; rfl
    clear_value v
    generalize (readDva u root [] 4 (wdArg0 x.desc)).2 = q at *
    have hqb (d : Nat) : q.bake d = s.bake d := by rw [State.bake, hc.baker, hu]; rfl
    refine ⟨_, hgo, ?_, fun d hne => ?_, (getItem_of_rings hq.rings r i).trans hvi,
      hmo.trans (ho.trans (hvk.trans (otherItemsKept_of_rings hq.rings ..))), ?_, ?_⟩
    · rw [State.modBake_bake_same, hwb, hvb]
    · rw [State.modBake_bake, if_neg hne, hwb, hvo d hne, hqb]
    · show w.host = _
      rw [hq.host, hvf]
      exact hc.host.trans (by rw [hu])
    · unfold CachesAlone at hq hc
      rw [hq, hvf, hc, hu]
      rfl
  · intro s r i x host l0 h hl0 hno
    have hm := mergeHost_frame s host
    rw [← mergeHost_workRing s host r] at hl0
    have hx := exec_load_rejects h hl0
    obtain ⟨hc, hg, ho⟩ := headerRead_kept h.item
    have hmo : OtherItemsKept s (mergeHost s host) r i := otherItemsKept_of_rings (by rw [mergeHost_ring]) ..
    have hbusy (n : Nat) : rectBusy (headerRead (mergeHost s host) r i x).2 n = rectBusy s n := by
      rw [rectBusy_cachesAlone hc, begunItem_frame, hm]
      rfl
    have hfree : freeSlot (headerRead (mergeHost s host) r i x).2 = freeSlot s := by
      rw [freeSlot_cachesAlone hc, begunItem_frame, hm]
      rfl
    have hbaker : (headerRead (mergeHost s host) r i x).2.baker = s.baker := by
      rw [hc.baker, begunItem_frame, hm]
    rw [hbusy, hfree] at hx
    have hgo := hx hno
    obtain ⟨hi, hk, hrb⟩ := getItem_rejectEarly (pkgReject 7 0 0xFFFFFF) hg h.open
    rw [hbaker] at hrb
    exact ⟨_, hgo, hi, hrb, hmo.trans (ho.trans hk)⟩

end Sys2Proof.Machine

/-! ### Channels and stacks that retire (R260, R317, R320, R321) -/

namespace Sys2Proof.Machine

variable {s t u : State}

theorem mget_filter {α : Type} {d : α} {p : Nat → Bool} (k : Nat) : ∀ m : SMap α, mget d (m.filter fun e => p e.1) k = if p k then mget d m k else d
  | [] => (ite_self _).symm
  | (j, v) :: m => by
    have ih := mget_filter (d := d) (p := p) k m
    unfold mget at *
    rw [List.filter_cons]
    by_cases hp : p j = true
    · rw [if_pos hp]
      unfold smGet
      by_cases hj : j = k
      · rw [if_pos hj, if_pos hj, ← hj, if_pos hp]
      · rw [if_neg hj, if_neg hj, ih]
    · rw [if_neg hp, ih]
      conv_rhs => unfold smGet
      by_cases hj : j = k
      · rw [← hj, if_neg hp, if_neg hp]
      · rw [if_neg hj]

theorem mget_mwithout {α : Type} {d : α} (m : SMap α) (lo n k : Nat) :
    mget d (mwithout m lo n) k = if lo ≤ k ∧ k < lo + n then d else mget d m k := by
  unfold mwithout
  rw [mget_filter (p := fun k => !(decide (lo ≤ k) && decide (k < lo + n)))]
  by_cases h : lo ≤ k ∧ k < lo + n
  · rw [if_pos h]
    simp [h]
  · rw [if_neg h, if_pos]
    simp only [Bool.not_eq_true', Bool.and_eq_false_iff, decide_eq_false_iff_not]
    omega

/-! #### What is lost with a channel -/

/-- From `s` to `t` bakes and pages may have been lost: the event queue, the bakes, the rings, the words of the stacks and host memory
may have changed. -/
def Lost (s t : State) : Prop :=
  t = { s with
    aon := t.aon, baker := t.baker, ring := t.ring, hbm := { s.hbm with words := t.hbm.words }, host := t.host } ∧
  t.aon.recA = s.aon.recA

theorem Lost.refl (s : State) : Lost s s := ⟨rfl, rfl⟩

theorem Lost.trans (h : Lost s t) (k : Lost t u) : Lost s u :=
  ⟨by rw [k.1, h.1], k.2.trans h.2⟩

theorem Lost.hbm (h : Lost s t) : t.hbm = { s.hbm with words := t.hbm.words } := congrArg State.hbm h.1

theorem lost_ringHostAlone (h : RingHostAlone s t) : Lost s t := by
  unfold RingHostAlone at h
  exact ⟨by rw [h], by rw [h]⟩

theorem lost_pauseBake (s : State) (b n : Nat) : Lost s (pauseBake s b n) := by
  unfold pauseBake
  refine ⟨?_, raiseS_aon_recA ..⟩
  rw [raiseS_eq]
  rfl

theorem words_pauseBake (s : State) (b n : Nat) : (pauseBake s b n).hbm.words = s.hbm.words := by
  unfold pauseBake
  rw [raiseS_eq]
  rfl

theorem lost_loseBake (s : State) (ch : Nat) (t : State) (b : Nat) : Lost t (loseBake s ch t b) ∧ (loseBake s ch t b).hbm.words = t.hbm.words := by
  unfold loseBake
  dsimp only
  split
  · have ha := ringHostAlone_endItems (pauseBake t b 6) b (fun _ => true) 5 6
    refine ⟨(lost_pauseBake t b 6).trans (lost_ringHostAlone ha), ?_⟩
    unfold RingHostAlone at ha
    rw [ha]
    exact words_pauseBake ..
  · split
    · exact ⟨.refl t, rfl⟩
    · exact ⟨⟨rfl, rfl⟩, rfl⟩

theorem unbackPages_alone (s : State) (ch : Nat) : RingHostAlone s (unbackPages s ch) := by
  unfold unbackPages
  refine ringHostAlone_foldl (fun u e => ?_) _ s
  exact rfl

/-- The bakes that a channel's loss concerns have been seen to. -/
def bakesLost (s : State) (ch : Nat) : State := (placedSlots s).foldl (loseBake s ch) s

theorem lost_bakesLost (s : State) (ch : Nat) : Lost s (bakesLost s ch) ∧ (bakesLost s ch).hbm.words = s.hbm.words :=
  foldl_prop (p := fun u => Lost s u ∧ u.hbm.words = s.hbm.words)
    (fun u b ⟨h, hw⟩ => ⟨h.trans (lost_loseBake s ch u b).1, (lost_loseBake s ch u b).2.trans hw⟩) _ ⟨.refl s, rfl⟩

theorem loseContents_eq (s : State) (ch : Nat) : loseContents s ch = { unbackPages (bakesLost s ch) ch with
    hbm := { (unbackPages (bakesLost s ch) ch).hbm with words := mwithout (unbackPages (bakesLost s ch) ch).hbm.words (2 ^ 28 * ch) (2 ^ 28) } } :=
  rfl

/-- What the loss of a channel's bytes leaves. -/
theorem loseContents_kept (s : State) (ch : Nat) : Lost s (loseContents s ch) ∧
    (loseContents s ch).hbm.words = mwithout s.hbm.words (2 ^ 28 * ch) (2 ^ 28) ∧ (loseContents s ch).baker = (bakesLost s ch).baker ∧
    (loseContents s ch).aon = (bakesLost s ch).aon := by
  obtain ⟨hl, hw⟩ := lost_bakesLost s ch
  have hu := unbackPages_alone (bakesLost s ch) ch
  rw [loseContents_eq]
  generalize unbackPages (bakesLost s ch) ch = v at *
  unfold RingHostAlone at hu
  have hwv : v.hbm.words = s.hbm.words := by rw [hu, hw]
  refine ⟨(hl.trans (lost_ringHostAlone hu)).trans ⟨rfl, rfl⟩, by rw [hwv], ?_, ?_⟩ <;> rw [hu]

/-! #### The retirement of a channel -/

/-- A channel in its new state, with its record. -/
def chanOut (s : State) (ch : Nat) (planned : Bool) : State :=
  (s.modChan ch fun c => { c with state := if planned then 1 else 2 }).modRec fun r => { r with retired := r.retired ++ [ch] }

theorem chanOut_chan (s : State) (ch : Nat) (planned : Bool) : ((chanOut s ch planned).chan ch).state = (if planned then 1 else 2) ∧
    ∀ c, c ≠ ch → (chanOut s ch planned).chan c = s.chan c :=
  ⟨congrArg Channel.state (mget_mset_same ..), fun _ hc => mget_mset_other _ _ hc _⟩

/-- What an event of the retirement leaves of a state. -/
def chanRaised (s : State) (ch : Nat) (planned : Bool) : State := raiseS (chanOut s ch planned) (0x4020 + ch / 32) (ch % 32 + 1) 3 ch

theorem chanRaised_event (s : State) (ch : Nat) (planned : Bool) :
    EventRaised s (chanRaised s ch planned) (0x4020 + ch / 32) (ch % 32 + 1) 3 (stokerId s) ch :=
  raise_event_of (s := s) (t := chanOut s ch planned) rfl rfl rfl rfl ..

theorem chanRaised_kept (s : State) (ch : Nat) (planned : Bool) : (chanRaised s ch planned).hbm = (chanOut s ch planned).hbm ∧
    (chanRaised s ch planned).aon.recA.retired = s.aon.recA.retired ++ [ch] ∧
    chanRaised s ch planned = { s with aon := (chanRaised s ch planned).aon, hbm := (chanOut s ch planned).hbm } := by
  have hrec : (chanRaised s ch planned).aon.recA = (chanOut s ch planned).aon.recA := raiseS_aon_recA ..
  refine ⟨raiseS_hbm .., by rw [hrec]; rfl, ?_⟩
  unfold chanRaised
  rw [raiseS_eq]
  rfl

theorem loseStripe_kept (s : State) (n : Nat) : (loseStripe s n).hbm.words = s.hbm.words ∧ (loseStripe s n).hbm.chans = s.hbm.chans ∧
    (loseStripe s n).hbm.state = s.hbm.state ∧ (loseStripe s n).aon.recA = s.aon.recA ∧
    loseStripe s n = { s with aon := (loseStripe s n).aon, hbm := (loseStripe s n).hbm } := by
  unfold loseStripe
  dsimp only
  split
  · refine ⟨?_, ?_, ?_, ?_, ?_⟩
    · rw [raiseS_eq, raiseS_eq]
    · rw [raiseS_eq, raiseS_eq]
    · rw [raiseS_eq, raiseS_eq]
    · exact (raiseS_aon_recA ..).trans (raiseS_aon_recA ..)
    · rw [raiseS_eq, raiseS_eq]
  · refine ⟨?_, ?_, ?_, raiseS_aon_recA .., ?_⟩ <;> rw [raiseS_eq]

theorem retireChannel_of {ch : Nat} (h : ch % 32 ≠ 31) (planned : Bool) (cached : List Nat) :
    retireChannel s ch planned cached = chanRaised s ch planned := if_neg h

theorem retireChannel_stripe {ch : Nat} (h : ch % 32 = 31) (planned : Bool) (cached : List Nat) :
    retireChannel s ch planned cached = dropCached (loseStripe (chanRaised s ch planned) (ch / 32)) cached := if_pos h

/-- What the retirement of a channel leaves, whether its stack keeps a stripe of a ledger copy or not. -/
theorem retireChannel_kept (s : State) (ch : Nat) (planned : Bool) (cached : List Nat) :
    ((retireChannel s ch planned cached).chan ch).state = (if planned then 1 else 2) ∧
    (∀ c, c ≠ ch → (retireChannel s ch planned cached).chan c = s.chan c) ∧
    (retireChannel s ch planned cached).hbm.words = s.hbm.words ∧
    (retireChannel s ch planned cached).aon.recA.retired = s.aon.recA.retired ++ [ch] ∧
    (retireChannel s ch planned cached).baker.slots = s.baker.slots ∧
    retireChannel s ch planned cached = { s with
      aon := (retireChannel s ch planned cached).aon, baker := (retireChannel s ch planned cached).baker,
      hbm := (retireChannel s ch planned cached).hbm } := by
  obtain ⟨hst, hother⟩ := chanOut_chan s ch planned
  obtain ⟨hh, hr, hf⟩ := chanRaised_kept s ch planned
  have hc (c : Nat) : (chanRaised s ch planned).chan c = (chanOut s ch planned).chan c := by rw [State.chan, hh]; rfl
  have hw : (chanRaised s ch planned).hbm.words = s.hbm.words := by rw [hh]; rfl
  have hb : (chanRaised s ch planned).baker = s.baker := by rw [hf]
  by_cases h : ch % 32 = 31
  · obtain ⟨hsw, hsc, -, hsr, hsf⟩ := loseStripe_kept (chanRaised s ch planned) (ch / 32)
    rw [retireChannel_stripe h]
    generalize chanRaised s ch planned = v at *
    generalize loseStripe v (ch / 32) = w at *
    have hcw (c : Nat) : w.chan c = v.chan c := by rw [State.chan, hsc]; rfl
    refine ⟨?_, fun c hne => ?_, hsw.trans hw, ?_, ?_, ?_⟩
    · show (w.chan ch).state = _
      rw [hcw, hc, hst]
    · show w.chan c = _
      rw [hcw, hc, hother c hne]
    · show w.aon.recA.retired = _
      rw [hsr, hr]
    · show w.baker.slots = _
      rw [hsf, hb]
    · unfold dropCached
      rw [hsf, hf]
  · rw [retireChannel_of h]
    refine ⟨?_, fun c hne => ?_, hw, hr, by rw [hb], ?_⟩
    · rw [hc, hst]
    · rw [hc, hother c hne]
    · rw [hf]

end Sys2Proof.Machine

/-! #### The retirement of a stack, and the rebuild of a ledger copy -/

namespace Sys2Proof.Machine

variable {s t u : State}

/-- The channels of a stack that still serve. -/
def servingOf (s : State) (n : Nat) : List Nat := (List.range 32).filter fun c => chanServes s (32 * n + c)

/-- A stack whose channels are out, with its record. -/
def stackOut (s : State) (n : Nat) : State :=
  ((servingOf s n).foldl (fun (t : State) c => t.modChan (32 * n + c) fun q => { q with state := 2 })
    { s with hbm := { s.hbm with state := mset 0 s.hbm.state n 1 } }).modRec fun r => { r with retired := r.retired ++ [640 + n] }

/-- The channels of a list out of service. -/
theorem foldl_chanOut (n : Nat) : ∀ (l : List Nat) (s : State),
    (∀ c, ((l.foldl (fun (t : State) c => t.modChan (32 * n + c) fun q => { q with state := 2 }) s).chan c) =
      if c ∈ l.map (32 * n + ·) then { s.chan c with state := 2 } else s.chan c) ∧
    l.foldl (fun (t : State) c => t.modChan (32 * n + c) fun q => { q with state := 2 }) s = { s with
      hbm := { s.hbm with chans := (l.foldl (fun (t : State) c => t.modChan (32 * n + c) fun q => { q with state := 2 }) s).hbm.chans } }
  | [], s => ⟨fun c => by simp, rfl⟩
  | e :: l, s => by
    obtain ⟨hc, hf⟩ := foldl_chanOut n l (s.modChan (32 * n + e) fun q => { q with state := 2 })
    refine ⟨fun c => ?_, hf⟩
    have hone : (s.modChan (32 * n + e) fun q => { q with state := 2 }).chan c =
        if c = 32 * n + e then { s.chan (32 * n + e) with state := 2 } else s.chan c :=
      mget_mset {} s.hbm.chans (32 * n + e) c { s.chan (32 * n + e) with state := 2 }
    rw [List.foldl_cons, hc, hone, List.map_cons]
    by_cases he : c = 32 * n + e
    · rw [if_pos he, if_pos (List.mem_cons.mpr (.inl he)), he]
      exact ite_self _
    · rw [if_neg he]
      simp only [List.mem_cons, he, false_or]

theorem stackOut_kept (s : State) (n : Nat) : mget 0 (stackOut s n).hbm.state n = 1 ∧
    (∀ c < 32, chanServes (stackOut s n) (32 * n + c) = false) ∧
    (∀ c, (c < 32 * n ∨ 32 * n + 32 ≤ c) → (stackOut s n).chan c = s.chan c) ∧
    (stackOut s n).aon.recA.retired = s.aon.recA.retired ++ [640 + n] ∧
    stackOut s n = { s with aon := (stackOut s n).aon, hbm := (stackOut s n).hbm } := by
  obtain ⟨hc, hf⟩ := foldl_chanOut n (servingOf s n) { s with hbm := { s.hbm with state := mset 0 s.hbm.state n 1 } }
  have hchan (c : Nat) : (stackOut s n).chan c = if c ∈ (servingOf s n).map (32 * n + ·) then { s.chan c with state := 2 } else s.chan c := hc c
  have hstate : (stackOut s n).hbm.state = mset 0 s.hbm.state n 1 := by
    unfold stackOut
    rw [hf]
    rfl
  have hrec : (stackOut s n).aon.recA.retired = s.aon.recA.retired ++ [640 + n] := by
    unfold stackOut
    rw [hf]
    rfl
  refine ⟨?_, fun c hlt => ?_, fun c hout => ?_, hrec, ?_⟩
  · rw [hstate]
    exact mget_mset_same ..
  · rw [chanServes, hchan]
    split
    · simp
    · next hno =>
      have hdead : chanServes s (32 * n + c) = false := by
        refine Bool.eq_false_iff.mpr fun hs => hno ?_
        exact List.mem_map_of_mem (List.mem_filter.mpr ⟨List.mem_range.mpr hlt, hs⟩)
      exact hdead
  · rw [hchan, if_neg]
    intro hin
    obtain ⟨e, he, heq⟩ := List.mem_map.mp hin
    have hlt := List.mem_range.mp (List.mem_of_mem_filter he)
    omega
  · unfold stackOut
    rw [hf]
    rfl

/-- A stack out of service, with its event and without its stripe of a ledger copy. -/
def stackRetired (s : State) (n : Nat) (cached : List Nat) : State :=
  let t := raiseS (stackOut s n) 0x4001 (n + 1) 3 n
  dropCached (if (servingOf s n).contains 31 then loseStripe t n else t) cached

theorem exec_stackRetirement_of {n : Fin 20} {cached : List Nat} (h : mget 0 s.hbm.state n.val ≠ 1) : exec (.stackRetirement n cached) s =
    .next ((servingOf s n).foldl (fun t c => loseContents t (32 * n + c)) (stackRetired s n cached)) := by
  show execStackRetirement n cached s = _
  unfold execStackRetirement
  exact if_neg h

theorem stackRetired_kept (s : State) (n : Nat) (cached : List Nat) : (stackRetired s n cached).hbm.state = (stackOut s n).hbm.state ∧
    (stackRetired s n cached).hbm.chans = (stackOut s n).hbm.chans ∧ (stackRetired s n cached).aon.recA = (stackOut s n).aon.recA ∧
    stackRetired s n cached = { stackOut s n with
      aon := (stackRetired s n cached).aon, baker := (stackRetired s n cached).baker, hbm := (stackRetired s n cached).hbm } := by
  have hr := raiseS_eq (s := stackOut s n) 0x4001 (n + 1) 3 n
  have ha : (raiseS (stackOut s n) 0x4001 (n + 1) 3 n).aon.recA = (stackOut s n).aon.recA := raiseS_aon_recA ..
  unfold stackRetired
  dsimp only
  generalize raiseS (stackOut s n) 0x4001 (n + 1) 3 n = v at *
  split
  · obtain ⟨-, hc, hst, hrec, hf⟩ := loseStripe_kept v n
    generalize loseStripe v n = w at *
    refine ⟨hst.trans (by rw [hr]), hc.trans (by rw [hr]), hrec.trans ha, ?_⟩
    unfold dropCached
    rw [hf, hr]
  · refine ⟨(congrArg (fun w : State => w.hbm.state) hr :), (congrArg (fun w : State => w.hbm.chans) hr :), ha, ?_⟩
    unfold dropCached
    rw [hr]

theorem lost_foldl_loseContents (n : Nat) (l : List Nat) (s : State) : Lost s (l.foldl (fun t c => loseContents t (32 * n + c)) s) :=
  foldl_prop (p := Lost s) (fun u c h => h.trans (loseContents_kept u (32 * n + c)).1) l (.refl s)

/-! ##### The ledger's copies -/

/-- The copy of one edge is whole. -/
def copyWhole (s : State) (south : Bool) : State :=
  { s with hbm := { s.hbm with copyA := s.hbm.copyA || !south, copyB := s.hbm.copyB || south } }

theorem exec_ledgerCopyRebuild_waits {south : Bool} {l : List (Fin 64 × U32)}
    (h : (if south then s.hbm.copyB else s.hbm.copyA) = true ∨ s.hbm.oneCopy = true ∨ ledgerStacks s south < 3) :
    exec (.ledgerCopyRebuild south l) s = .next s := by
  refine congrArg Host.Outcome.next (if_pos ?_)
  obtain h | h | h := h
  · rw [h]; rfl
  · rw [h, Bool.or_true]; rfl
  · rw [decide_eq_true h, Bool.or_true]

/-- Items whose entry is lost in both copies have ended. -/
def entriesLost (s : State) (l : List (Fin 64 × U32)) : State :=
  l.foldl (fun t e => match getItem t e.1.val e.2 with
    | some i => if i.status.isNone then endItem t e.1.val e.2 8 (BitVec.ofNat 128 i.reason.toNat) else t
    | none => t) s

theorem exec_ledgerCopyRebuild_of {south : Bool} {l : List (Fin 64 × U32)} (hw : (if south then s.hbm.copyB else s.hbm.copyA) = false)
    (h1 : s.hbm.oneCopy = false) (h3 : 3 ≤ ledgerStacks s south) : exec (.ledgerCopyRebuild south l) s =
      .next (raiseS (entriesLost (copyWhole s south) l) 0x4011 1 0 0) := by
  refine congrArg Host.Outcome.next (if_neg ?_)
  rw [hw, h1, decide_eq_false (Nat.not_lt.mpr h3)]
  exact Bool.false_ne_true

theorem entriesLost_one {r : Fin 64} {i : U32} {x : Item} (hg : getItem s r i = some x) (hs : x.status = none) :
    entriesLost s [(r, i)] = endItem s r i 8 (BitVec.ofNat 128 x.reason.toNat) := by
  unfold entriesLost
  rw [List.foldl_cons, List.foldl_nil, hg]
  dsimp only
  rw [hs]
  rfl

end Sys2Proof.Machine

/-! #### Channels and stacks retire -/

namespace Sys2Proof.Machine

variable {s t u : State} {ch : Nat}

theorem exec_channelRetrain_of (h : ch < 640) (w : Nat) : exec (.channelRetrain ch w) s = .next
    (if chanServes s ch = true ∧ mget 0 s.hbm.state (ch / 32) = 0 then
      s.modChan ch fun c => { c with waits := c.waits + BitVec.ofNat 64 (min w retrainMax) }
    else s) := if_pos h

theorem exec_channelRetirement_lost (h : ch < 640) (hs : chanServes s ch = true) (moves : List (Nat × Nat × Nat × Nat × Nat)) (cached : List Nat) :
    exec (.channelRetirement ch false moves cached) s = .next (loseContents (retireChannel s ch false cached) ch) := by
  refine (if_pos h).trans (congrArg Host.Outcome.next ?_)
  rw [hs]
  rfl

theorem exec_channelRetirement_planned (h : ch < 640) (hs : chanServes s ch = true) (hm : movesOk s ch [] = true) (ho : placedOff s ch = true)
    (cached : List Nat) : exec (.channelRetirement ch true [] cached) s = .next (retireChannel s ch true cached) := by
  have hgo : (movesOk s ch [] && placedOff s ch) = true := by rw [hm, ho]; rfl
  refine (if_pos h).trans (congrArg Host.Outcome.next ?_)
  rw [hs]
  exact if_pos hgo

theorem exec_channelRetirement_no {p : Bool} {moves : List (Nat × Nat × Nat × Nat × Nat)} (h : ch < 640)
    (hno : chanServes s ch = false ∨ (p = true ∧ movesOk s ch moves = false)) (cached : List Nat) :
    exec (.channelRetirement ch p moves cached) s = .next s := by
  refine (if_pos h).trans (congrArg Host.Outcome.next ?_)
  by_cases hs : chanServes s ch = true
  · obtain ⟨rfl, hm⟩ := hno.resolve_left (by rw [hs]; exact Bool.noConfusion)
    have hgo : ¬ (movesOk s ch moves && placedOff (moves.foldl (fun t m => moveGranules t ch m) s) ch) = true := by
      rw [hm]
      exact Bool.false_ne_true
    rw [hs]
    exact if_neg hgo
  · rw [Bool.eq_false_iff.mpr hs]
    rfl

theorem placedSlots_congr (h : t.baker.slots = s.baker.slots) : placedSlots t = placedSlots s := by rw [placedSlots, placedSlots, h]

theorem bake_of_slots (h : t.baker.slots = s.baker.slots) (b : Nat) : t.bake b = s.bake b := by rw [State.bake, State.bake, h]

theorem bakesLost_none (h : placedSlots s = []) : bakesLost s ch = s := by
  rw [bakesLost, h]
  rfl

theorem bakesLost_one {b : Nat} (h : placedSlots s = [b]) : bakesLost s ch = loseBake s ch s b := by
  rw [bakesLost, h]
  rfl

theorem loseBake_pauses {b : Nat} (h : (tensorsOn (s.bake b) ch).any (fun e => isState e.2) = true) :
    loseBake s ch t b = endItems (pauseBake t b 6) b (fun _ => true) 5 6 := by
  unfold loseBake
  refine if_pos ?_
  rw [h]
  rfl

theorem pauseBake_bake (s : State) (b n : Nat) : (pauseBake s b n).bake b = { s.bake b with state := 7, reason := BitVec.ofNat 8 n } := by
  unfold pauseBake
  rw [State.bake, raiseS_baker]
  exact State.modBake_bake_same ..

theorem loseBake_triggers {b : Nat} {e : Nat × W256} (ht : tensorsOn (s.bake b) ch = [e]) (he : isState e.2 = false)
    (hp : ∀ l ∈ pagesOn s b ch, (backedPage s l.1).isSome = true) : loseBake s ch t b = trigger t b 6 := by
  have hpages : (pagesOn s b ch).any (fun l => (backedPage s l.1).isNone) = false := by
    rw [List.any_eq_false]
    intro l hl hn
    have hsome := hp l hl
    cases hg : backedPage s l.1 with
    | none => rw [hg] at hsome; exact Bool.false_ne_true hsome
    | some _ => rw [hg] at hn; exact Bool.false_ne_true hn
  unfold loseBake
  dsimp only
  rw [ht, hpages]
  simp [he]

theorem mem_trigger (s : State) (b n : Nat) : n ∈ ((trigger s b n).bake b).triggers ∧ ((trigger s b n).bake b).state = (s.bake b).state := by
  rw [trigger, State.modBake_bake_same]
  refine ⟨?_, rfl⟩
  dsimp only
  split
  · next h => exact List.contains_iff_mem.mp h
  · exact List.mem_append_right _ (List.mem_singleton.mpr rfl)

theorem leafOf_congr (h : t.host = s.host) (dva : Nat) : ∀ (l : List (Nat × Nat × Nat)) (table : Nat), leafOf t dva l table = leafOf s dva l table
  | [], _ => rfl
  | (sh, w, lv) :: l, table => by
    have hn (a : Nat) : hostNum t a 8 = hostNum s a 8 := by simp only [hostNum, hostBytes, h]
    unfold leafOf
    simp only [hn, leafOf_congr h dva l]

theorem pagesOn_congr (hh : t.host = s.host) (hr : t.ring = s.ring) (hb : t.baker.slots = s.baker.slots) (b ch : Nat) :
    pagesOn t b ch = pagesOn s b ch := by
  have hroot : bakeRoot t b = bakeRoot s b := by rw [bakeRoot, bakeRoot, bake_of_slots hb, State.workRing, State.workRing, hr]
  have hleaf (dva : Nat) (l : List (Nat × Nat × Nat)) (a : Nat) : leafOf t dva l a = leafOf s dva l a := leafOf_congr hh dva l a
  unfold pagesOn
  simp only [bake_of_slots hb, hroot, hleaf]

/-- Settles O48: by what stands on the channel or stack that is lost. -/
theorem channelsAndStacksRetire : Obligations.ChannelsAndStacksRetire := by
  unfold Obligations.ChannelsAndStacksRetire
  refine ⟨?_, ?_, ?_, ?_, ?_, ?_, ?_, ?_, ?_, ?_, ?_, ?_⟩
  · intro s ch w h hs hst
    rw [exec_channelRetrain_of h, if_pos ⟨hs, hst⟩]
    rfl
  · intro s ch w h hno
    rw [exec_channelRetrain_of h, if_neg]
    rintro ⟨hs, hst⟩
    exact hno.elim (fun hf => Bool.false_ne_true (hf.symm.trans hs)) fun hne => hne hst
  · intro s ch moves cached h hs
    have hx := exec_channelRetirement_lost h hs moves cached
    obtain ⟨hst, hother, hw, hrec, hslots, hf⟩ := retireChannel_kept s ch false cached
    have hof (hc : ch % 32 ≠ 31) := retireChannel_of (s := s) hc false cached
    obtain ⟨hl, hlw, -, ha⟩ := loseContents_kept (retireChannel s ch false cached) ch
    have hnone (hp : placedSlots s = []) := bakesLost_none (ch := ch) ((placedSlots_congr hslots).trans hp)
    have hhbm := hl.hbm
    have hc (c : Nat) : (loseContents (retireChannel s ch false cached) ch).chan c = (retireChannel s ch false cached).chan c := by
      rw [State.chan, hhbm]
      rfl
    have hwords (a : Nat) : mget none (loseContents (retireChannel s ch false cached) ch).hbm.words a =
        if 2 ^ 28 * ch ≤ a ∧ a < 2 ^ 28 * ch + 2 ^ 28 then none else mget none s.hbm.words a := by rw [hlw, mget_mwithout, hw]
    generalize loseContents (retireChannel s ch false cached) ch = v at *
    refine ⟨v, hx, ?_, ?_, fun a h1 h2 => ?_, fun a h12 => ?_, fun c hne => ?_, fun h31 => ?_, fun h31 hp => ?_, ?_⟩
    · rw [hc, hst]
      rfl
    · rw [hl.2, hrec]
    · rw [hwords, if_pos ⟨h1, by omega⟩]
    · rw [hwords, if_neg (by omega)]
    · rw [hc, hother c hne]
    · have hcopy : (retireChannel s ch false cached).hbm.copyA = s.hbm.copyA ∧ (retireChannel s ch false cached).hbm.copyB = s.hbm.copyB := by
        rw [hof h31, (chanRaised_kept s ch false).1]
        exact ⟨rfl, rfl⟩
      rw [hhbm]
      exact hcopy
    · have he := chanRaised_event s ch false
      rw [← hof h31] at he
      rw [hnone hp] at ha
      unfold EventRaised at *
      rwa [ha]
    · rw [hl.1, hf]
  · intro s ch b moves cached h hs hp ht
    have hx := exec_channelRetirement_lost h hs moves cached
    obtain ⟨-, -, -, -, hslots, -⟩ := retireChannel_kept s ch false cached
    generalize retireChannel s ch false cached = u at *
    obtain ⟨-, -, hb, -⟩ := loseContents_kept u ch
    rw [bakesLost_one ((placedSlots_congr hslots).trans hp), loseBake_pauses (by rw [bake_of_slots hslots]; exact ht),
      (ringHostAlone_endItems ..).baker] at hb
    have hv : (loseContents u ch).bake b = { u.bake b with state := 7, reason := BitVec.ofNat 8 6 } := by
      rw [State.bake, hb]
      exact pauseBake_bake u b 6
    exact ⟨_, hx, congrArg Bake.state hv, congrArg Bake.reason hv⟩
  · intro s ch b e moves cached h h31 hs hp ht he hpages
    have hx := exec_channelRetirement_lost h hs moves cached
    obtain ⟨-, -, -, -, hslots, -⟩ := retireChannel_kept s ch false cached
    obtain ⟨-, -, hf⟩ := chanRaised_kept s ch false
    rw [← retireChannel_of h31 false cached] at hf
    have hback (l : Nat) : backedPage (retireChannel s ch false cached) l = backedPage s l := by
      rw [hf]
      rfl
    have hon : pagesOn (retireChannel s ch false cached) b ch = pagesOn s b ch := by
      rw [hf]
      exact pagesOn_congr rfl rfl rfl b ch
    generalize retireChannel s ch false cached = u at *
    obtain ⟨-, -, hb, -⟩ := loseContents_kept u ch
    rw [bakesLost_one ((placedSlots_congr hslots).trans hp), loseBake_triggers (by rw [bake_of_slots hslots]; exact ht) he
      (by rw [hon]; exact fun l hl => by rw [hback]; exact hpages l hl)] at hb
    have hv : (loseContents u ch).bake b = (trigger u b 6).bake b := by rw [State.bake, hb]; rfl
    obtain ⟨hm, hst⟩ := mem_trigger u b 6
    exact ⟨_, hx, by rw [hv]; exact hm, by rw [hv, hst, bake_of_slots hslots]⟩
  · intro s ch cached h h31 hs hm ho
    have hx := exec_channelRetirement_planned h hs hm ho cached
    obtain ⟨hst, -, hw, hrec, -, -⟩ := retireChannel_kept s ch true cached
    have he := chanRaised_event s ch true
    obtain ⟨-, -, hf⟩ := chanRaised_kept s ch true
    rw [retireChannel_of h31] at *
    generalize chanRaised s ch true = u at *
    exact ⟨_, hx, hst, hw, hrec, he, by rw [hf]⟩
  · exact fun s ch p moves cached h hno => exec_channelRetirement_no h hno cached
  · intro s n cached h
    have hx := exec_stackRetirement_of (cached := cached) h
    obtain ⟨hst, hdead, hother, hrec, hf⟩ := stackOut_kept s n
    obtain ⟨hs2, hc2, hr2, hf2⟩ := stackRetired_kept s n cached
    have hl := lost_foldl_loseContents n (servingOf s n) (stackRetired s n cached)
    generalize (servingOf s n).foldl (fun t c => loseContents t (32 * n + c)) (stackRetired s n cached) = w at *
    generalize stackRetired s n cached = v at *
    generalize stackOut s n = u at *
    have hchan (c : Nat) : w.chan c = u.chan c := by
      rw [State.chan, hl.hbm]
      show mget {} v.hbm.chans c = _
      rw [hc2]
      rfl
    refine ⟨w, hx, ?_, fun c hlt => ?_, fun c hout => ?_, ?_, ?_⟩
    · rw [hl.hbm]
      show mget 0 v.hbm.state n.val = 1
      rw [hs2, hst]
    · have hd := hdead c hlt
      unfold chanServes at *
      rwa [hchan]
    · rw [hchan, hother c hout]
    · rw [hl.2, hr2, hrec]
    · rw [hl.1, hf2, hf]
  · exact fun s n cached h => if_pos h
  · intro s hA h1 h3
    have hx := exec_ledgerCopyRebuild_of (l := []) (south := false) hA h1 h3
    have hu : entriesLost (copyWhole s false) [] = { s with hbm := { s.hbm with copyA := true } } := by
      show copyWhole s false = _
      unfold copyWhole
      rw [hA, Bool.or_false]
      rfl
    rw [hu] at hx
    have he := raiseS_event_of (t := { s with hbm := { s.hbm with copyA := true } }) s rfl rfl rfl 0x4011 1 0 0
    have hf := raiseS_eq (s := { s with hbm := { s.hbm with copyA := true } }) 0x4011 1 0 0
    exact ⟨_, hx, raiseS_hbm .., he, by rw [hf]⟩
  · intro s r i x hB h1 h3 hg hs
    have hx := exec_ledgerCopyRebuild_of (l := [(r, i)]) (south := true) hB h1 h3
    rw [entriesLost_one (s := copyWhole s true) (x := x) hg hs] at hx
    have hi := getItem_endItem_failed (s := copyWhole s true) (x := x) hg hs (c := 8) (by decide) (BitVec.ofNat 128 x.reason.toNat)
    have ha := ringHostAlone_endItem (copyWhole s true) r i 8 (BitVec.ofNat 128 x.reason.toNat)
    have hA : (copyWhole s true).hbm = { s.hbm with copyB := true } := by
      unfold copyWhole
      rw [Bool.not_true, Bool.or_false, Bool.or_true]
    generalize copyWhole s true = m at *
    generalize endItem m r i 8 (BitVec.ofNat 128 x.reason.toNat) = v at *
    refine ⟨_, hx, ?_, ?_⟩
    · rw [raiseS_hbm]
      unfold RingHostAlone at ha
      rw [ha, hA]
    · exact (getItem_of_rings (by rw [raiseS_ring]) r i).trans hi
  · exact fun s south l h => exec_ledgerCopyRebuild_waits h

end Sys2Proof.Machine

/-! ### Epoch fences (R252, R259) -/

namespace Sys2Proof.Machine

variable {s t u : State} {b : Nat}

/-! #### What abandons a step -/

theorem coresAlone_dropCrumbs (s : State) (b : Nat) : CoresAlone s (dropCrumbs s b) := by
  unfold dropCrumbs
  refine coresAlone_foldl (fun u e => ?_) _ s
  exact coresAlone_modCore ..

theorem coresAlone_clearAmax (s : State) (b : Nat) : CoresAlone s (clearAmax s b) := by
  unfold clearAmax
  refine coresAlone_foldl (fun u e => ?_) _ s
  exact coresAlone_modCore ..

theorem coresAlone_installPhase (s : State) (b ph : Nat) : CoresAlone s (installPhase s b ph) := by
  unfold installPhase
  refine coresAlone_foldl (fun u e => ?_) _ s
  exact coresAlone_modCore ..

/-- From `s` to `t` nothing has changed but the cores and the routers. -/
def CoresFlueAlone (s t : State) : Prop := t = { s with cores := t.cores, flue := { s.flue with routers := t.flue.routers } }

theorem CoresFlueAlone.trans (h : CoresFlueAlone s t) (k : CoresFlueAlone t u) : CoresFlueAlone s u := by
  unfold CoresFlueAlone at *
  rw [k, h]

theorem coresFlueAlone_writeEpoch (s : State) (n : Nat) (e : U32) : CoresFlueAlone s (writeEpoch s n e) := by
  unfold writeEpoch
  refine foldl_prop (p := CoresFlueAlone s) (fun u c h => h.trans ?_) _ rfl
  dsimp only
  split <;> exact rfl

theorem syncAlone_initSyncs (s : State) (b : Nat) : SyncAlone s (initSyncs s b) := by
  unfold initSyncs
  exact foldl_prop (p := SyncAlone s) (fun u c h => h.trans (syncAlone_setSyncObj ..)) _ (.refl s)

theorem fenceLinks_kept (s : State) (b : Nat) : ∃ l, SyncAlone { s with links := l } (fenceLinks s b) := by
  unfold fenceLinks
  dsimp only
  refine ⟨_, foldl_prop (p := SyncAlone _) (fun u e h => ?_) _ (.refl _)⟩
  split
  · exact h.trans (syncAlone_signalObj ..)
  · exact h

/-- From `s` to `t` the bake `b` alone has changed, to `k`. -/
def BakeSet (s t : State) (b : Nat) (k : Bake) : Prop :=
  t.bake b = k ∧ (∀ d, d ≠ b → t.bake d = s.bake d) ∧ t = { s with baker := { s.baker with slots := t.baker.slots } }

theorem bakeSet_modBake (s : State) (b : Nat) (f : Bake → Bake) : BakeSet s (s.modBake b f) b (f (s.bake b)) :=
  ⟨State.modBake_bake_same .., fun d hd => (State.modBake_bake ..).trans (if_neg hd), rfl⟩

theorem BakeSet.trans {k l : Bake} (h : BakeSet s t b k) (g : BakeSet t u b l) : BakeSet s u b l :=
  ⟨g.1, fun d hd => (g.2.1 d hd).trans (h.2.1 d hd), by rw [g.2.2, h.2.2]⟩

/-- The counts of an abandoned step, and the baseline of the next. -/
theorem takeGains_kept (s : State) (b : Nat) (c : Bool) : BakeSet s (takeGains s b c) b { s.bake b with
    tstats := ((takeGains s b c).bake b).tstats, baseline := ((takeGains s b c).bake b).baseline } := by
  unfold takeGains newBaseline
  dsimp only
  refine ((bakeSet_modBake s b _).trans (bakeSet_modBake _ b _)).trans ⟨?_, fun _ _ => rfl, rfl⟩
  simp only [State.modBake_bake_same]

/-- What the fence of a bake does besides its slot: cores, routers, signals, links and descriptors. -/
def refitted (s : State) (b ph n : Nat) (e : U32) : State :=
  fenceLinks (initSyncs (writeEpoch (dropDmas (installPhase (clearAmax s b) b ph) b) n e) b) b

/-- The rings' part of an abandoned step: the descriptors of the bake but those of its banks have gone, and signals have been set. -/
def RingAbandoned (s t : State) (b : Nat) : Prop := t.ring = { s.ring with
  dmas := s.ring.dmas.filter (fun d => decide (d.slot ≠ b) || keptDma d), globals := t.ring.globals, mirrors := t.ring.mirrors,
  stale := t.ring.stale }

section ringAbandoned
variable {s t : State} {b : Nat} (h : RingAbandoned s t b)
include h

theorem RingAbandoned.dmas : t.ring.dmas = s.ring.dmas.filter (fun d => decide (d.slot ≠ b) || keptDma d) := by
  unfold RingAbandoned at h
  rw [h]

theorem RingAbandoned.unresolved : t.ring.unresolved = s.ring.unresolved := by
  unfold RingAbandoned at h
  rw [h]

theorem RingAbandoned.rings : t.ring.rings = s.ring.rings := by
  unfold RingAbandoned at h
  rw [h]

end ringAbandoned

theorem refitted_kept (s : State) (b ph n : Nat) (e : U32) : RingAbandoned s (refitted s b ph n e) b ∧
    refitted s b ph n e = { s with
      cores := (refitted s b ph n e).cores, flue := { s.flue with routers := (refitted s b ph n e).flue.routers },
      ring := (refitted s b ph n e).ring, links := (refitted s b ph n e).links } := by
  unfold refitted
  have h1 : CoresAlone s (installPhase (clearAmax s b) b ph) := (coresAlone_clearAmax s b).trans (coresAlone_installPhase ..)
  generalize installPhase (clearAmax s b) b ph = v1 at *
  have h2 := coresFlueAlone_writeEpoch (dropDmas v1 b) n e
  generalize hv2 : writeEpoch (dropDmas v1 b) n e = v2 at *
  obtain ⟨h3, -, h3r⟩ := syncAlone_initSyncs v2 b
  generalize initSyncs v2 b = v3 at *
  obtain ⟨l, h4, -, h4r⟩ := fenceLinks_kept v3 b
  generalize fenceLinks v3 b = v4 at *
  unfold CoresAlone at h1
  unfold CoresFlueAlone at h2
  have hr2 : v2.ring = (dropDmas v1 b).ring := by rw [h2]
  have hd : (dropDmas v1 b).ring = { s.ring with dmas := s.ring.dmas.filter (fun d => decide (d.slot ≠ b) || keptDma d) } := by
    rw [h1]
    rfl
  have hr3 : v3.ring = { s.ring with
      dmas := s.ring.dmas.filter (fun d => decide (d.slot ≠ b) || keptDma d), globals := v3.ring.globals, mirrors := v3.ring.mirrors,
      stale := v3.ring.stale } := by rw [h3r, hr2, hd]
  refine ⟨?_, ?_⟩
  · unfold RingAbandoned
    rw [h4r]
    show ({ v3.ring with globals := v4.ring.globals, mirrors := v4.ring.mirrors, stale := v4.ring.stale } : RingEngine) = _
    rw [hr3]
  · rw [h4, h3, h2, h1]
    rfl

theorem refitted_bake (s : State) (b ph n : Nat) (e : U32) (d : Nat) : (refitted s b ph n e).bake d = s.bake d := by
  rw [(refitted_kept s b ph n e).2]
  rfl

/-- The bake of an abandoned step. -/
def abandonedBake (k : Bake) (e : U32) (ts : SMap TensorStat) (bl : SMap (Nat × Nat × Nat)) : Bake :=
  { k with
    tstats := ts, baseline := bl, epoch := e, committing := false, begun := false, preempted := false, noRoute := false, absorbed := false,
    carried := [], waitFrom := none, filling := false, fenced := k.fenced + 1 }

/-- The slot of an abandoned step, under the epoch taken for it. -/
def startedOver (s : State) (b : Nat) : State :=
  (takeEpoch s).2.modBake b fun k => abandonedBake k (takeEpoch s).1 k.tstats k.baseline

theorem abandon_eq (s : State) (b : Nat) : abandon s b =
    refitted (startedOver (dropCrumbs (takeGains s b false) b) b) b
      ((clearAmax (startedOver (dropCrumbs (takeGains s b false) b) b) b).bake b).phase
      ((dropDmas (installPhase (clearAmax (startedOver (dropCrumbs (takeGains s b false) b) b) b) b
        ((clearAmax (startedOver (dropCrumbs (takeGains s b false) b) b) b).bake b).phase) b).bake b).tenant.toNat
      (takeEpoch (dropCrumbs (takeGains s b false) b)).1 := by
  unfold abandon refitted startedOver abandonedBake
  rfl

/-- What an abandoned step leaves. -/
theorem abandon_kept (s : State) (b : Nat) : (∃ ts bl, (abandon s b).bake b = abandonedBake (s.bake b) (nextEpoch s.baker.epoch) ts bl) ∧
    (∀ d, d ≠ b → (abandon s b).bake d = s.bake d) ∧ (abandon s b).baker.epoch = nextEpoch s.baker.epoch ∧
    (epochFree s = true → (abandon s b).baker.epochAt = some s.flue.cycle) ∧ RingAbandoned s (abandon s b) b ∧
    abandon s b = { s with
      cores := (abandon s b).cores,
      flue := { s.flue with routers := (abandon s b).flue.routers },
      baker := (abandon s b).baker, ring := (abandon s b).ring,
      links := (abandon s b).links } := by
  obtain ⟨hg, hgo, hgf⟩ := takeGains_kept s b false
  have hc := coresAlone_dropCrumbs (takeGains s b false) b
  rw [abandon_eq]
  dsimp only [startedOver]
  rw [takeEpoch_fst]
  generalize takeGains s b false = g at *
  generalize dropCrumbs g b = v at *
  unfold CoresAlone at hc
  have hvb (d : Nat) : v.bake d = g.bake d := by rw [hc]; rfl
  have hve : v.baker.epoch = s.baker.epoch := by rw [hc, hgf]
  have hva : v.baker.epochAt = s.baker.epochAt := by rw [hc, hgf]
  have hvc : v.flue.cycle = s.flue.cycle := by rw [hc, hgf]
  rw [hve]
  obtain ⟨hm, hmo, hmf⟩ := bakeSet_modBake (takeEpoch v).2 b fun k => abandonedBake k (nextEpoch s.baker.epoch) k.tstats k.baseline
  have hta : (takeEpoch v).2.baker.epochAt = some (match s.baker.epochAt with
      | some a => max s.flue.cycle (a + 4096)
      | none => s.flue.cycle) := by
    rw [← hva, ← hvc]
    rfl
  have hte : (takeEpoch v).2.baker.epoch = nextEpoch s.baker.epoch := by
    rw [← hve]
    rfl
  have htf : (takeEpoch v).2 = { v with baker := (takeEpoch v).2.baker } := rfl
  have htb (d : Nat) : (takeEpoch v).2.bake d = g.bake d := hvb d
  generalize (takeEpoch v).2 = w at *
  generalize (w.modBake b fun k => abandonedBake k (nextEpoch s.baker.epoch) k.tstats k.baseline) = m at *
  have hr (ph n : Nat) := refitted_kept m b ph n (nextEpoch s.baker.epoch)
  have hrb (ph n d : Nat) := refitted_bake m b ph n (nextEpoch s.baker.epoch) d
  obtain ⟨hrr, hrf⟩ := hr ((clearAmax m b).bake b).phase
    ((dropDmas (installPhase (clearAmax m b) b ((clearAmax m b).bake b).phase) b).bake b).tenant.toNat
  have hrb := hrb ((clearAmax m b).bake b).phase
    ((dropDmas (installPhase (clearAmax m b) b ((clearAmax m b).bake b).phase) b).bake b).tenant.toNat
  generalize refitted m b _ _ _ = z at *
  have hmr : m.ring = s.ring := by rw [hmf, htf, hc, hgf]
  have hzb : z.baker = m.baker := by rw [hrf]
  refine ⟨⟨(g.bake b).tstats, (g.bake b).baseline, ?_⟩, fun d hd => ?_, ?_, fun hfree => ?_, ?_, ?_⟩
  · rw [hrb, hm, htb]
    generalize (g.bake b).tstats = ts at *
    generalize (g.bake b).baseline = bl at *
    rw [hg]
    rfl
  · rw [hrb, hmo d hd, htb, hgo d hd]
  · rw [hzb, hmf]
    exact hte
  · rw [hzb, hmf]
    show w.baker.epochAt = _
    rw [hta]
    unfold epochFree at hfree
    cases he : s.baker.epochAt with
    | none => rfl
    | some a =>
      rw [he] at hfree
      exact congrArg some (Nat.max_eq_left (of_decide_eq_true hfree))
  · unfold RingAbandoned at *
    rwa [hmr] at hrr
  · rw [hrf, hmf, htf, hc, hgf]

end Sys2Proof.Machine

/-! #### What a fence leaves -/

namespace Sys2Proof.Machine

variable {s t u : State} {b : Nat}

/-- An item after a fence. -/
def Item.fencedFor (x : Item) (reason : Nat) (counts : Bool) : Item :=
  { x with
    fences := x.fences + 1, reason := BitVec.ofNat 8 reason, epoch := 0, state := 1,
    uncounted := x.uncounted + (if counts then 0 else 1) }

/-- A step abandoned for a reason. -/
def abandonedFor (s : State) (b reason : Nat) : State := (abandon s b).modBake b fun q => { q with reason := BitVec.ofNat 8 reason }

/-- The item of a fenced bake has its count. -/
def itemFenced (s t : State) (b reason : Nat) (counts : Bool) : State :=
  match (s.bake b).item with
  | none => t
  | some i =>
    let t := modItem t (s.bake b).ring i fun x => x.fencedFor reason counts
    if (runItem s b).any (fun x => x.state == 2) then writeAccept t (s.bake b).ring i else t

theorem fence_eq (s : State) (b reason : Nat) (counts : Bool) :
    fence s b reason counts = raiseS (itemFenced s (abandonedFor s b reason) b reason counts) 0x3416 b 2 reason := rfl

theorem ringHostAlone_itemFenced (s t : State) (b reason : Nat) (counts : Bool) : RingHostAlone t (itemFenced s t b reason counts) ∧
    (itemFenced s t b reason counts).ring = { t.ring with rings := (itemFenced s t b reason counts).ring.rings } := by
  unfold itemFenced
  split
  · exact ⟨rfl, rfl⟩
  · dsimp only
    split
    · refine ⟨(ringHostAlone_modItem ..).trans (ringHostAlone_writeAccept ..), ?_⟩
      rw [(writeAccept_rest ..).2.2.2.2.2.2.2.2.2.1]
      rfl
    · exact ⟨rfl, rfl⟩

theorem itemFenced_item {i : U32} {x : Item} (reason : Nat) (counts : Bool) (hi : (s.bake b).item = some i) (hg : getItem t (s.bake b).ring i = some x) :
    getItem (itemFenced s t b reason counts) (s.bake b).ring i = some (x.fencedFor reason counts) ∧
    OtherItemsKept t (itemFenced s t b reason counts) (s.bake b).ring i := by
  have hm := getItem_modItem_same (f := fun x => x.fencedFor reason counts) (fun _ => rfl) hg
  have ho := otherItemsKept_modItem (s := t) (f := fun x => x.fencedFor reason counts) (fun _ => rfl) (s.bake b).ring i
  unfold itemFenced
  rw [hi]
  dsimp only
  split
  · exact ⟨(getItem_congr (writeAccept_workRing ..) i).trans hm, otherItemsKept_congr (writeAccept_workRing _ _) ho⟩
  · exact ⟨hm, ho⟩

/-- The bake of a fence. -/
def fencedBake (s : State) (b reason : Nat) (ts : SMap TensorStat) (bl : SMap (Nat × Nat × Nat)) : Bake :=
  { abandonedBake (s.bake b) (nextEpoch s.baker.epoch) ts bl with reason := BitVec.ofNat 8 reason }

theorem fence_kept (s : State) (b reason : Nat) (counts : Bool) : (∃ ts bl, (fence s b reason counts).bake b = fencedBake s b reason ts bl) ∧
    (∀ d, d ≠ b → (fence s b reason counts).bake d = s.bake d) ∧ (fence s b reason counts).baker.epoch = nextEpoch s.baker.epoch ∧
    (epochFree s = true → (fence s b reason counts).baker.epochAt = some s.flue.cycle) ∧
    (fence s b reason counts).ring.dmas = s.ring.dmas.filter (fun d => decide (d.slot ≠ b) || keptDma d) ∧
    (fence s b reason counts).ring.unresolved = s.ring.unresolved ∧
    EventRaised s (fence s b reason counts) 0x3416 b 2 (stokerId s) reason ∧ AonKept s (fence s b reason counts) ∧
    fence s b reason counts = { s with
      aon := (fence s b reason counts).aon, cores := (fence s b reason counts).cores,
      flue := { s.flue with routers := (fence s b reason counts).flue.routers },
      baker := (fence s b reason counts).baker, ring := (fence s b reason counts).ring, host := (fence s b reason counts).host,
      links := (fence s b reason counts).links } := by
  obtain ⟨⟨ts, bl, hb⟩, ho, he, hat, hd, hf⟩ := abandon_kept s b
  obtain ⟨hm, hmo, hmf⟩ := bakeSet_modBake (abandon s b) b fun q => { q with reason := BitVec.ofNat 8 reason }
  obtain ⟨hi, hid⟩ := ringHostAlone_itemFenced s (abandonedFor s b reason) b reason counts
  rw [fence_eq]
  change (abandonedFor s b reason).bake b = _ at hm
  change ∀ d, d ≠ b → (abandonedFor s b reason).bake d = _ at hmo
  change abandonedFor s b reason = { abandon s b with baker := { (abandon s b).baker with slots := (abandonedFor s b reason).baker.slots } } at hmf
  generalize abandonedFor s b reason = v at *
  generalize itemFenced s v b reason counts = w at *
  generalize abandon s b = a at *
  unfold RingHostAlone at hi
  have hwb (d : Nat) : w.bake d = v.bake d := by
    rw [hi]
    rfl
  have hwr : w.recov = s.recov := by rw [hi, hmf, hf]
  have hwa : w.aon = s.aon := by rw [hi, hmf, hf]
  have hwc : w.flue.cycle = s.flue.cycle := by rw [hi, hmf, hf]
  have hz := raiseS_eq (s := w) 0x3416 b 2 reason
  have hev := raiseS_event_of s hwa hwr hwc 0x3416 b 2 reason
  have hk := raiseS_kept_of s hwa 0x3416 b 2 reason
  generalize raiseS w 0x3416 b 2 reason = z at *
  have hzb (d : Nat) : z.bake d = w.bake d := by
    rw [hz]
    rfl
  have hbk : z.baker = v.baker := by rw [hz, hi]
  refine ⟨⟨ts, bl, ?_⟩, fun d hd => ?_, ?_, fun hfree => ?_, ?_, ?_, hev, hk, ?_⟩
  · rw [hzb, hwb, hm, hb]
    rfl
  · rw [hzb, hwb, hmo d hd, ho d hd]
  · rw [hbk, hmf]
    exact he
  · rw [hbk, hmf]
    exact hat hfree
  · have hzd : z.ring = w.ring := by rw [hz]
    rw [hzd, hid, hmf]
    exact hd.dmas
  · have hzd : z.ring = w.ring := by rw [hz]
    rw [hzd, hid, hmf]
    exact hd.unresolved
  · rw [hz, hi, hmf, hf]

theorem fence_item {i : U32} {x : Item} (reason : Nat) (counts : Bool) (hi : (s.bake b).item = some i) (hg : getItem s (s.bake b).ring i = some x) :
    getItem (fence s b reason counts) (s.bake b).ring i = some (x.fencedFor reason counts) ∧
    OtherItemsKept s (fence s b reason counts) (s.bake b).ring i := by
  obtain ⟨-, -, -, -, hr, -⟩ := abandon_kept s b
  have hv : (abandonedFor s b reason).ring.rings = s.ring.rings := hr.rings
  obtain ⟨h1, h2⟩ := itemFenced_item (t := abandonedFor s b reason) reason counts hi ((getItem_of_rings hv _ i).trans hg)
  rw [fence_eq]
  have hz : (raiseS (itemFenced s (abandonedFor s b reason) b reason counts) 0x3416 b 2 reason).ring.rings =
      (itemFenced s (abandonedFor s b reason) b reason counts).ring.rings := by rw [raiseS_ring]
  exact ⟨(getItem_of_rings hz _ i).trans h1, (otherItemsKept_of_rings hv _ i).trans (h2.trans (otherItemsKept_of_rings hz _ i))⟩

end Sys2Proof.Machine

/-! #### The item after a fence (R259, R262, R263, R444) -/

namespace Sys2Proof.Machine

variable {s t u : State} {b : Nat} {i : U32} {x : Item}

/-- A bake whose item is no longer under way. -/
def idleBake (k : Bake) : Bake := { k with item := none, state := idleState k, committing := false }

theorem resumeItem_idle (h : runItem s b = none) : resumeItem s b = s.modBake b idleBake := by
  unfold resumeItem
  dsimp only
  rw [h]
  cases (s.bake b).item <;> rfl

section
variable (hi : (s.bake b).item = some i) (hg : getItem s (s.bake b).ring i = some x)
include hi hg

theorem runItem_of : runItem s b = some x := by
  rw [runItem, hi]
  exact hg

theorem resumeItem_ends (h : setting s 0x3402 4 < x.fences - x.uncounted) : resumeItem s b =
    endItem (s.modBake b idleBake) (s.bake b).ring i 5 (BitVec.ofNat 128 (s.bake b).reason.toNat) := by
  unfold resumeItem
  dsimp only
  rw [runItem_of hi hg, hi]
  exact if_pos h

variable (h : x.fences - x.uncounted ≤ setting s 0x3402 4)
include h

theorem resumeItem_drains (hd : (s.bake b).draining = true) : resumeItem s b = s.modBake b fun q => { q with state := 7 } := by
  unfold resumeItem
  dsimp only
  rw [runItem_of hi hg, hi]
  dsimp only
  rw [if_neg (Nat.not_lt.mpr h), hd, if_pos rfl]

theorem resumeItem_migrates (hd : (s.bake b).draining = false) (hm : (s.bake b).migTo ≠ 0) :
    resumeItem s b = s.modBake b fun q => { q with state := 6, absorbed := true } := by
  unfold resumeItem
  dsimp only
  rw [runItem_of hi hg, hi]
  dsimp only
  rw [if_neg (Nat.not_lt.mpr h), hd, if_neg Bool.false_ne_true, if_pos hm]

theorem resumeItem_starts (hd : (s.bake b).draining = false) (hm : (s.bake b).migTo = 0) : resumeItem s b = startStep s b := by
  unfold resumeItem
  dsimp only
  rw [runItem_of hi hg, hi]
  dsimp only
  rw [if_neg (Nat.not_lt.mpr h), hd, if_neg Bool.false_ne_true, if_neg (not_not.mpr hm)]

end

/-- The fields of a bake that the resumption of its item leaves. -/
def ItemFieldsKept (k l : Bake) : Prop :=
  l.epoch = k.epoch ∧ l.migDrain = k.migDrain ∧ l.committed = k.committed ∧ l.swapped = k.swapped ∧ l.fenced = k.fenced ∧ l.triggers = k.triggers ∧
  (k.committing = false → l.committing = false) ∧ l.place = k.place

/-- From `s` to `t` the slot `b`, the rings' items, the cores and host memory may have changed, and the bake keeps what an item leaves it. -/
def ItemResumed (s t : State) (b : Nat) : Prop :=
  ItemFieldsKept (s.bake b) (t.bake b) ∧ (∀ d, d ≠ b → t.bake d = s.bake d) ∧ t.ring.dmas = s.ring.dmas ∧
  t = { s with cores := t.cores, baker := { s.baker with slots := t.baker.slots }, ring := t.ring, host := t.host }

theorem itemResumed_of_bakeSet {k : Bake} (h : BakeSet s t b k) (hk : ItemFieldsKept (s.bake b) k) : ItemResumed s t b := by
  obtain ⟨hb, ho, hf⟩ := h
  refine ⟨hb ▸ hk, ho, ?_, ?_⟩
  · rw [hf]
  · rw [hf]

theorem itemResumed_idle (s : State) (b : Nat) : ItemResumed s (s.modBake b idleBake) b :=
  itemResumed_of_bakeSet (bakeSet_modBake ..) ⟨rfl, rfl, rfl, rfl, rfl, rfl, fun _ => rfl, rfl⟩

theorem ItemResumed.after (h : ItemResumed s t b) (hb : u.baker = t.baker) (hd : u.ring.dmas = t.ring.dmas)
    (hf : u = { t with cores := u.cores, ring := u.ring, host := u.host }) : ItemResumed s u b := by
  obtain ⟨hk, ho, hdm, hfr⟩ := h
  have hbk (d : Nat) : u.bake d = t.bake d := by
    rw [State.bake, hb]
    rfl
  refine ⟨(hbk b) ▸ hk, fun d hne => (hbk d).trans (ho d hne), hd.trans hdm, ?_⟩
  rw [hf, hfr]

theorem itemResumed_firstPhase {w : State} (h : ItemResumed s w b) (p : Prop) [Decidable p] :
    ItemResumed s (if p then startPhase (w.modBake b fun q => { q with phase := 1 }) b 1 else w) b := by
  split
  · have hc := coresAlone_startPhase (w.modBake b fun q => { q with phase := 1 }) b 1
    have hz : ItemResumed s (w.modBake b fun q => { q with phase := 1 }) b := by
      obtain ⟨hk, ho, hd, hf⟩ := h
      obtain ⟨hb, hbo, hbf⟩ := bakeSet_modBake w b fun q => { q with phase := 1 }
      generalize (w.modBake b fun q => { q with phase := 1 }) = z at *
      refine ⟨?_, fun d hne => (hbo d hne).trans (ho d hne), ?_, ?_⟩
      · rw [hb]
        exact hk
      · rw [hbf]
        exact hd
      · rw [hbf, hf]
    unfold CoresAlone at hc
    generalize startPhase (w.modBake b fun q => { q with phase := 1 }) b 1 = y at *
    exact hz.after (by rw [hc]) (by rw [hc]) (by rw [hc])
  · exact h

theorem itemResumed_startStep (s : State) (b : Nat) : ItemResumed s (startStep s b) b := by
  have h1 : ItemResumed s (s.modBake b fun q => { q with state := 3, begun := decide ((s.bake b).phase ≤ 1), committing := false, carried := [] }) b :=
    itemResumed_of_bakeSet (bakeSet_modBake ..) ⟨rfl, rfl, rfl, rfl, rfl, rfl, fun _ => rfl, rfl⟩
  refine itemResumed_firstPhase ?_ _
  generalize (s.modBake b fun q => { q with state := 3, begun := decide ((s.bake b).phase ≤ 1), committing := false, carried := [] }) = v at *
  split
  · exact h1.after rfl rfl rfl
  · exact h1

/-- What the resumption of an item leaves, whichever way it goes. -/
theorem resumeItem_kept (s : State) (b : Nat) : ItemResumed s (resumeItem s b) b ∧
    ((s.bake b).draining = true → ((resumeItem s b).bake b).state = 7) := by
  have hidle (hd : (s.bake b).draining = true) : (idleBake (s.bake b)).state = 7 := by
    show idleState (s.bake b) = 7
    rw [idleState, hd, if_pos rfl]
  cases hr : runItem s b with
  | none =>
    rw [resumeItem_idle hr]
    exact ⟨itemResumed_idle s b, fun hd => by rw [State.modBake_bake_same]; exact hidle hd⟩
  | some x =>
    obtain ⟨i, hi, hg⟩ := Option.bind_eq_some_iff.mp hr
    by_cases hlim : setting s 0x3402 4 < x.fences - x.uncounted
    · rw [resumeItem_ends hi hg hlim]
      have ha := ringHostAlone_endItem (s.modBake b idleBake) (s.bake b).ring i 5 (BitVec.ofNat 128 (s.bake b).reason.toNat)
      have hd := endItem_dmas (s.modBake b idleBake) (s.bake b).ring i 5 (BitVec.ofNat 128 (s.bake b).reason.toNat)
      have hb : (s.modBake b idleBake).bake b = idleBake (s.bake b) := State.modBake_bake_same ..
      have hres := itemResumed_idle s b
      generalize s.modBake b idleBake = v at *
      generalize endItem v (s.bake b).ring i 5 (BitVec.ofNat 128 (s.bake b).reason.toNat) = w at *
      have hbk : w.baker = v.baker := ha.baker
      unfold RingHostAlone at ha
      refine ⟨hres.after hbk hd (by rw [ha]), fun hdr => ?_⟩
      rw [State.bake, hbk]
      exact (congrArg Bake.state hb).trans (hidle hdr)
    · have hle := Nat.le_of_not_lt hlim
      cases hdr : (s.bake b).draining with
      | true =>
        rw [resumeItem_drains hi hg hle hdr]
        exact ⟨itemResumed_of_bakeSet (bakeSet_modBake ..) ⟨rfl, rfl, rfl, rfl, rfl, rfl, id, rfl⟩, fun _ => by rw [State.modBake_bake_same]⟩
      | false =>
        refine ⟨?_, fun h => absurd h Bool.false_ne_true⟩
        by_cases hm : (s.bake b).migTo = 0
        · rw [resumeItem_starts hi hg hle hdr hm]
          exact itemResumed_startStep s b
        · rw [resumeItem_migrates hi hg hle hdr hm]
          exact itemResumed_of_bakeSet (bakeSet_modBake ..) ⟨rfl, rfl, rfl, rfl, rfl, rfl, id, rfl⟩

end Sys2Proof.Machine

/-! #### Fences and re-placements (R259 to R262) -/

namespace Sys2Proof.Machine

variable {s t u : State} {b : Nat} {i : U32} {x : Item}

/-! ##### The items of a bake that changes -/

/-- A change of the bake listed under `b` that leaves a test as it is leaves `b` the first slot that passes it. -/
theorem find?_smPut {p : Nat × Bake → Bool} {v : Bake} : ∀ {l : SMap Bake}, p (b, v) = p (b, mget {} l b) →
    (l.find? p).map (·.1) = some b → ((smPut l b v).find? p).map (·.1) = some b
  | [], _, h => absurd h.symm (Option.some_ne_none b)
  | (j, w) :: l, hv, h => by
    unfold smPut
    split
    · next hlt =>
      rw [List.find?_cons]
      split
      · rfl
      · exact h
    · next hnlt =>
      split
      · next heq =>
        subst heq
        have hw : mget {} ((b, w) :: l) b = w := if_pos rfl
        rw [hw] at hv
        rw [List.find?_cons] at h ⊢
        rw [hv]
        split at h
        · rfl
        · exact h
      · next hne =>
        have hw : mget {} ((j, w) :: l) b = mget {} l b := if_neg (fun h => hne h.symm)
        rw [hw] at hv
        rw [List.find?_cons] at h ⊢
        split at h
        · next hp => exact absurd (Option.some.inj h).symm hne
        · next hp => exact find?_smPut hv h

theorem slotOfLoad_modBake {r : Nat} {f : Bake → Bake} (hs : (s.bake b).state ≠ 0) (hf : (f (s.bake b)).state ≠ 0)
    (hr : (f (s.bake b)).ring = (s.bake b).ring) (hl : (f (s.bake b)).loadIdx = (s.bake b).loadIdx) (h : slotOfLoad s r i = some b) :
    slotOfLoad (s.modBake b f) r i = some b := by
  have hne : f (s.bake b) ≠ {} := fun heq => hf (by rw [heq])
  have hput : (s.modBake b f).baker.slots = smPut s.baker.slots b (f (s.bake b)) := if_neg hne
  unfold slotOfLoad
  rw [hput]
  refine find?_smPut ?_ h
  show (decide ((f (s.bake b)).state ≠ 0) && decide ((f (s.bake b)).ring = r) && decide ((f (s.bake b)).loadIdx = i)) =
    (decide ((s.bake b).state ≠ 0) && decide ((s.bake b).ring = r) && decide ((s.bake b).loadIdx = i))
  rw [hr, hl, decide_eq_true hf, decide_eq_true hs]

/-- A bake keeps its items while its ring, its load and its presence stay as they are. -/
theorem itemOf_modBake {r : Nat} {f : Bake → Bake} (hs : (s.bake b).state ≠ 0) (hf : (f (s.bake b)).state ≠ 0)
    (hr : (f (s.bake b)).ring = (s.bake b).ring) (hl : (f (s.bake b)).loadIdx = (s.bake b).loadIdx) (h : itemOf s r b x = true) :
    itemOf (s.modBake b f) r b x = true := by
  have hnamed (n : Nat) (l : Option U32) (h : namedSlot s r n l = .slot b) : namedSlot (s.modBake b f) r n l = .slot b := by
    unfold namedSlot at h ⊢
    split at h
    · next h0 =>
      rw [if_pos h0]
      split at h
      · exact Named.noConfusion h
      · next j =>
        split at h
        · next c hc =>
          injection h with hcb
          rw [hcb] at hc
          rw [slotOfLoad_modBake hs hf hr hl hc]
        · split at h
          · split at h <;> exact Named.noConfusion h
          · exact Named.noConfusion h
    · next h0 =>
      rw [if_neg h0]
      split at h
      · next hc =>
        injection h with hcb
        subst hcb
        rw [if_pos]
        rw [State.modBake_bake_same]
        exact ⟨hc.1, hf, hr.trans hc.2.2⟩
      · exact Named.noConfusion h
  unfold itemOf at h ⊢
  dsimp only at h ⊢
  split at h
  · next hop =>
    rw [if_pos hop, State.modBake_bake_same, hl]
    exact h
  · next hop =>
    rw [if_neg hop]
    simp only [Bool.and_eq_true, decide_eq_true_eq] at h ⊢
    exact ⟨h.1, hnamed _ _ h.2⟩

theorem bakeItems_modBake {f : Bake → Bake} (hs : (s.bake b).state ≠ 0) (hf : (f (s.bake b)).state ≠ 0)
    (hr : (f (s.bake b)).ring = (s.bake b).ring) (hl : (f (s.bake b)).loadIdx = (s.bake b).loadIdx) (h : i ∈ bakeItems s b) :
    i ∈ bakeItems (s.modBake b f) b := by
  obtain ⟨y, hy, rfl⟩ := List.mem_map.mp h
  obtain ⟨hin, hp⟩ := List.mem_filter.mp hy
  rw [Bool.and_eq_true] at hp
  unfold bakeItems
  rw [State.modBake_bake_same, hr]
  exact List.mem_map_of_mem (List.mem_filter.mpr ⟨hin, by rw [hp.1, itemOf_modBake hs hf hr hl hp.2]; rfl⟩)

/-- An item that a list of items to end holds has ended behind it. -/
theorem foldl_endItem_ends {r : Nat} {c : U8} {d : BitVec 128} (hc : 1 < c.toNat) (hx : x.status = none) : ∀ {l : List U32} {s : State},
    (getItem s r i = some (x.failed c d) ∨ (i ∈ l ∧ getItem s r i = some x)) →
      getItem (l.foldl (fun t j => endItem t r j c d) s) r i = some (x.failed c d)
  | [], _, h => h.resolve_right fun h => List.not_mem_nil h.1
  | j :: l, s, h => by
    refine foldl_endItem_ends hc hx (l := l) ?_
    by_cases hj : i = j
    · subst hj
      refine .inl ?_
      obtain h | ⟨-, h⟩ := h
      · have hsame : endItem s r i c d = s := by
          unfold endItem
          rw [h]
          rfl
        exact (congrArg (fun u => getItem u r i) hsame).trans h
      · exact getItem_endItem_failed h hx hc d
    · rw [(otherItemsKept_endItem s r j c d).1 i hj]
      exact h.imp_right fun h => ⟨(List.mem_cons.mp h.1).resolve_left hj, h.2⟩

theorem endItems_ends {c : U8} {d : BitVec 128} (hc : 1 < c.toNat) (hx : x.status = none) (hi : i ∈ bakeItems s b)
    (hg : getItem s (s.bake b).ring i = some x) :
    getItem (endItems s b (fun _ => true) c d) (s.bake b).ring i = some (x.failed c d) := by
  unfold endItems
  exact foldl_endItem_ends hc hx (.inr ⟨List.mem_filter.mpr ⟨hi, rfl⟩, hg⟩)

/-! ##### The commands -/

theorem onSlot_64 {t : State} (h1 : 1 ≤ b) (h64 : b ≤ 64) : onSlot 64 b t = .next t := if_pos ⟨h1, h64⟩

theorem mem_fenceRows {k : Bake} {r : Nat} : (fenceRows k).contains r = true ↔ r ∈ k.triggers ∧ r ≠ 4 ∧ r ≠ 8 := by
  rw [List.contains_iff_mem, fenceRows, List.mem_filter]
  simp

theorem exec_epochFence_of {r : Nat} (h1 : 1 ≤ b) (h64 : b ≤ 64)
    (hst : (s.bake b).state = 2 ∨ (s.bake b).state = 3 ∨ (s.bake b).state = 6 ∨ heldStep (s.bake b) = true) (hr : r ∈ (s.bake b).triggers)
    (h4 : r ≠ 4) (h8 : r ≠ 8) (hfree : epochFree s = true) :
    exec (.epochFence b r) s = .next (afterFence ((fence s b r true).modBake b fun q => { q with migDrain := false }) b) := by
  refine (onSlot_64 h1 h64).trans (congrArg Host.Outcome.next ?_)
  exact if_pos ⟨hst, mem_fenceRows.mpr ⟨hr, h4, h8⟩, hfree⟩

theorem exec_epochFence_no {r : Nat} (h1 : 1 ≤ b) (h64 : b ≤ 64) (h : r ∉ (s.bake b).triggers ∨ r = 4 ∨ r = 8 ∨ epochFree s = false ∨
    (s.bake b).state = 0 ∨ (s.bake b).state = 1 ∨ (s.bake b).state = 4 ∨ (s.bake b).state = 5 ∨
    ((s.bake b).state = 7 ∧ heldStep (s.bake b) = false)) : exec (.epochFence b r) s = .next s := by
  refine (onSlot_64 h1 h64).trans (congrArg Host.Outcome.next (if_neg ?_))
  rintro ⟨hst, hrow, hfree⟩
  obtain ⟨hr, h4, h8⟩ := mem_fenceRows.mp hrow
  have hstate (n : U8) (hn : (s.bake b).state = n) (hn2 : n ≠ 2) (hn3 : n ≠ 3) (hn6 : n ≠ 6) (hh : heldStep (s.bake b) = false) : False := by
    rw [hn, hh] at hst
    obtain h | h | h | h := hst
    · exact hn2 h
    · exact hn3 h
    · exact hn6 h
    · exact Bool.false_ne_true h
  have hheld (hne : (s.bake b).state ≠ 7) : heldStep (s.bake b) = false := by
    rw [heldStep, decide_eq_false hne]
    rfl
  obtain h | h | h | h | h | h | h | h | ⟨h, hh⟩ := h
  · exact h hr
  · exact h4 h
  · exact h8 h
  · exact Bool.false_ne_true (h.symm.trans hfree)
  · exact hstate 0 h (by decide) (by decide) (by decide) (hheld (by rw [h]; decide))
  · exact hstate 1 h (by decide) (by decide) (by decide) (hheld (by rw [h]; decide))
  · exact hstate 4 h (by decide) (by decide) (by decide) (hheld (by rw [h]; decide))
  · exact hstate 5 h (by decide) (by decide) (by decide) (hheld (by rw [h]; decide))
  · exact hstate 7 h (by decide) (by decide) (by decide) hh

theorem exec_rePlacement_of {r : Nat} (ok : Bool) (h1 : 1 ≤ b) (h64 : b ≤ 64) (hr : r ∈ (s.bake b).triggers)
    (hst : (s.bake b).state = 4 ∨ (s.bake b).state = 5) : exec (.rePlacement b r ok) s = .next
      (if !ok then cannotPlace s b r
       else if (s.bake b).filling && needsPlace s (s.bake b) then (dropDmas s b).modBake b fun q => { q with filling := false }
       else s.modBake b fun q => { q with state := 5 }) := by
  have hin : ¬ (!(s.bake b).triggers.contains r) = true := by
    rw [List.contains_iff_mem.mpr hr]
    exact Bool.false_ne_true
  exact (onSlot_64 h1 h64).trans (congrArg Host.Outcome.next ((if_neg hin).trans (if_pos hst)))

/-- A pause where the Baker finds no placement. -/
def unplaced (s : State) (b row : Nat) : State := pauseBake (dropDmas (s.modBake b fun q => { q with filling := false, losses := 0 }) b) b row

theorem unplaced_kept (s : State) (b row : Nat) :
    (unplaced s b row).bake b = { s.bake b with filling := false, losses := 0, state := 7, reason := BitVec.ofNat 8 row } ∧
    (∀ d ∈ (unplaced s b row).ring.dmas, d.slot = b → keptDma d = true) ∧
    EventRaised s (unplaced s b row) 0x3410 b 1 (stokerId s) row ∧ AonKept s (unplaced s b row) ∧
    unplaced s b row = { s with
      aon := (unplaced s b row).aon, baker := (unplaced s b row).baker, ring := { s.ring with dmas := (unplaced s b row).ring.dmas } } := by
  have hb : ((dropDmas (s.modBake b fun q => { q with filling := false, losses := 0 }) b).modBake b fun k =>
      { k with state := 7, reason := BitVec.ofNat 8 row }).bake b =
      { s.bake b with filling := false, losses := 0, state := 7, reason := BitVec.ofNat 8 row } := by
    rw [State.modBake_bake_same]
    have hd : (dropDmas (s.modBake b fun q => { q with filling := false, losses := 0 }) b).bake b =
      { s.bake b with filling := false, losses := 0 } := State.modBake_bake_same (s := s) b _
    rw [hd]
  have hdm : ((dropDmas (s.modBake b fun q => { q with filling := false, losses := 0 }) b).modBake b fun k =>
      { k with state := 7, reason := BitVec.ofNat 8 row }).ring.dmas = s.ring.dmas.filter fun d => decide (d.slot ≠ b) || keptDma d := rfl
  have hf : ((dropDmas (s.modBake b fun q => { q with filling := false, losses := 0 }) b).modBake b fun k =>
      { k with state := 7, reason := BitVec.ofNat 8 row }) = { s with
        baker := ((dropDmas (s.modBake b fun q => { q with filling := false, losses := 0 }) b).modBake b fun k =>
          { k with state := 7, reason := BitVec.ofNat 8 row }).baker,
        ring := { s.ring with dmas := s.ring.dmas.filter fun d => decide (d.slot ≠ b) || keptDma d } } := rfl
  unfold unplaced pauseBake
  generalize ((dropDmas (s.modBake b fun q => { q with filling := false, losses := 0 }) b).modBake b fun k =>
    { k with state := 7, reason := BitVec.ofNat 8 row }) = w at *
  have hz := raiseS_eq (s := w) 0x3410 b 1 row
  have hev := raiseS_event_of (t := w) s (by rw [hf]) (by rw [hf]) (by rw [hf]) 0x3410 b 1 row
  have hk := raiseS_kept_of (t := w) s (by rw [hf]) 0x3410 b 1 row
  generalize raiseS w 0x3410 b 1 row = z at *
  refine ⟨?_, fun d hd hs => ?_, hev, hk, ?_⟩
  · rw [hz]
    exact hb
  · rw [hz] at hd
    change d ∈ w.ring.dmas at hd
    rw [hdm] at hd
    have hp := (List.mem_filter.mp hd).2
    rw [hs] at hp
    simpa using hp
  · rw [hz, hf]

end Sys2Proof.Machine

/-! ##### A fence takes a new epoch -/

namespace Sys2Proof.Machine

variable {s t u : State} {b : Nat} {i : U32} {x : Item}

theorem bakeItems_congr (hb : t.baker = s.baker) (hr : t.ring.rings = s.ring.rings) (b : Nat) : bakeItems t b = bakeItems s b := by
  have hbake (d : Nat) : t.bake d = s.bake d := by rw [State.bake, State.bake, hb]
  have hw (r : Nat) : t.workRing r = s.workRing r := by rw [State.workRing, State.workRing, hr]
  have hg (r : Nat) (j : U32) : getItem t r j = getItem s r j := getItem_of_rings hr r j
  have hl (r : Nat) (j : U32) : slotOfLoad t r j = slotOfLoad s r j := by rw [slotOfLoad, slotOfLoad, hb]
  have hn : namedSlot t = namedSlot s := by
    funext r n l
    unfold namedSlot
    simp only [hbake, hg, hl]
  have hi (r : Nat) : itemOf t r b = itemOf s r b := by
    funext x
    simp only [itemOf, hbake, hn]
  simp only [bakeItems, hbake, hw, hi]

theorem unplaced_items (row : Nat) (hs : (s.bake b).state = 4 ∨ (s.bake b).state = 5) (h : i ∈ bakeItems s b) :
    i ∈ bakeItems (unplaced s b row) b := by
  have hne : (s.bake b).state ≠ 0 := by
    intro h0
    rw [h0] at hs
    exact hs.elim (by decide) (by decide)
  have h1 : i ∈ bakeItems (s.modBake b fun q => { q with filling := false, losses := 0 }) b := bakeItems_modBake hne hne rfl rfl h
  have hb : ((s.modBake b fun q => { q with filling := false, losses := 0 }).bake b).state ≠ 0 := by
    rw [State.modBake_bake_same]
    exact hne
  have h2 := bakeItems_modBake (f := fun k => { k with state := 7, reason := BitVec.ofNat 8 row }) hb (show (7 : U8) ≠ 0 by decide) rfl rfl h1
  have hz := raiseS_eq (s := (dropDmas (s.modBake b fun q => { q with filling := false, losses := 0 }) b).modBake b fun k =>
    { k with state := 7, reason := BitVec.ofNat 8 row }) 0x3410 b 1 row
  unfold unplaced pauseBake
  rw [bakeItems_congr (s := (s.modBake b fun q => { q with filling := false, losses := 0 }).modBake b fun k =>
    { k with state := 7, reason := BitVec.ofNat 8 row })]
  · exact h2
  · rw [raiseS_baker]
    rfl
  · rw [raiseS_ring]
    rfl

theorem needsPlace_congr {k : Bake} (hk : k.triggers = (s.bake b).triggers) (hp : k.place = (s.bake b).place)
    (hf : t = { s with aon := t.aon, cores := t.cores, flue := t.flue, baker := t.baker, ring := t.ring, host := t.host, links := t.links }) :
    needsPlace t k = needsPlace s (s.bake b) := by
  have hu (c : CoreId) : usable t c = usable s c := by
    rw [hf]
    rfl
  have hc : bakeCores k = bakeCores (s.bake b) := by rw [bakeCores, bakeCores, hp]
  unfold needsPlace
  rw [hk, hc]
  simp only [hu]

theorem eventRaised_of_aon (h : u.aon = t.aon) {n k v a : Nat} {src : U8} (he : EventRaised s t n k v src a) : EventRaised s u n k v src a := by
  unfold EventRaised at *
  rwa [h]

theorem aonKept_of_aon (h : u.aon = t.aon) (hk : AonKept s t) : AonKept s u := by
  unfold AonKept at *
  rwa [h]

/-- The state that a fence hands to the re-run of the item. -/
def fencedState (s : State) (b r : Nat) : State := (fence s b r true).modBake b fun q => { q with migDrain := false }

theorem fencedState_kept (s : State) (b r : Nat) :
    (∃ ts bl, (fencedState s b r).bake b = { fencedBake s b r ts bl with migDrain := false }) ∧
    (fencedState s b r).baker.epoch = nextEpoch s.baker.epoch ∧
    (epochFree s = true → (fencedState s b r).baker.epochAt = some s.flue.cycle) ∧
    (fencedState s b r).ring.dmas = s.ring.dmas.filter (fun d => decide (d.slot ≠ b) || keptDma d) ∧
    EventRaised s (fencedState s b r) 0x3416 b 2 (stokerId s) r ∧ AonKept s (fencedState s b r) ∧
    fencedState s b r = { s with
      aon := (fencedState s b r).aon, cores := (fencedState s b r).cores, flue := (fencedState s b r).flue,
      baker := (fencedState s b r).baker, ring := (fencedState s b r).ring, host := (fencedState s b r).host,
      links := (fencedState s b r).links } := by
  obtain ⟨⟨ts, bl, hb⟩, -, he, hat, hd, -, hev, hk, hf⟩ := fence_kept s b r true
  obtain ⟨hm, -, hmf⟩ := bakeSet_modBake (fence s b r true) b fun q => { q with migDrain := false }
  unfold fencedState
  generalize fence s b r true = v at *
  generalize (v.modBake b fun q => { q with migDrain := false }) = w at *
  have hwa : w.aon = v.aon := by rw [hmf]
  refine ⟨⟨ts, bl, by rw [hm, hb]⟩, ?_, fun h => ?_, ?_, ?_, ?_, ?_⟩
  · rw [hmf]
    exact he
  · rw [hmf]
    exact hat h
  · rw [hmf]
    exact hd
  · exact eventRaised_of_aon hwa hev
  · exact aonKept_of_aon hwa hk
  · rw [hmf, hf]

theorem fencedState_item {r : Nat} (hi : (s.bake b).item = some i) (hg : getItem s (s.bake b).ring i = some x) :
    getItem (fencedState s b r) (s.bake b).ring i = some (x.fencedFor r true) := (fence_item r true hi hg).1

/-- Triggers that no re-placement follows are gone, and the item goes on. -/
def refencing (s : State) (b : Nat) : State := s.modBake b fun q => { q with triggers := q.triggers.filter fun r => decide (r = 4) || decide (r = 8) }

theorem afterFence_places (h : needsPlace s (s.bake b) = true) : afterFence s b = s.modBake b fun q => { q with state := 4 } := if_pos h

theorem afterFence_resumes (h : needsPlace s (s.bake b) = false) : afterFence s b = resumeItem (refencing s b) b :=
  if_neg (by rw [h]; exact Bool.false_ne_true)

theorem ItemResumed.trans_set {k : Bake} (h : BakeSet s t b k) (hk : k.epoch = (s.bake b).epoch ∧ k.migDrain = (s.bake b).migDrain ∧
    k.committed = (s.bake b).committed ∧ k.swapped = (s.bake b).swapped ∧ k.fenced = (s.bake b).fenced ∧ k.committing = (s.bake b).committing)
    (g : ItemResumed t u b) : (u.bake b).epoch = (s.bake b).epoch ∧ (u.bake b).migDrain = (s.bake b).migDrain ∧
    (u.bake b).committed = (s.bake b).committed ∧ (u.bake b).swapped = (s.bake b).swapped ∧ (u.bake b).fenced = (s.bake b).fenced ∧
    ((s.bake b).committing = false → (u.bake b).committing = false) ∧ u.ring.dmas = s.ring.dmas ∧
    u = { s with cores := u.cores, baker := { s.baker with slots := u.baker.slots }, ring := u.ring, host := u.host } := by
  obtain ⟨hb, -, hf⟩ := h
  obtain ⟨h1, h2, h3, h4, h5, h6⟩ := hk
  obtain ⟨⟨g1, g2, g3, g4, g5, -, g7, -⟩, -, gd, gf⟩ := g
  rw [hb] at g1 g2 g3 g4 g5 g7
  refine ⟨g1.trans h1, g2.trans h2, g3.trans h3, g4.trans h4, g5.trans h5, fun hc => g7 (h6.trans hc), ?_, ?_⟩
  · rw [gd, hf]
  · rw [gf, hf]

/-- What comes after a fence leaves, whichever way the bake goes. -/
theorem afterFence_kept (s : State) (b : Nat) : ((afterFence s b).bake b).epoch = (s.bake b).epoch ∧
    ((afterFence s b).bake b).migDrain = (s.bake b).migDrain ∧ ((afterFence s b).bake b).committed = (s.bake b).committed ∧
    ((afterFence s b).bake b).swapped = (s.bake b).swapped ∧ ((afterFence s b).bake b).fenced = (s.bake b).fenced ∧
    ((s.bake b).committing = false → ((afterFence s b).bake b).committing = false) ∧ (afterFence s b).ring.dmas = s.ring.dmas ∧
    afterFence s b = { s with
      cores := (afterFence s b).cores, baker := { s.baker with slots := (afterFence s b).baker.slots }, ring := (afterFence s b).ring,
      host := (afterFence s b).host } := by
  by_cases h : needsPlace s (s.bake b) = true
  · rw [afterFence_places h]
    exact ItemResumed.trans_set (bakeSet_modBake s b _) ⟨rfl, rfl, rfl, rfl, rfl, rfl⟩ (itemResumed_of_bakeSet ⟨rfl, fun _ _ => rfl, rfl⟩ ⟨rfl, rfl, rfl, rfl, rfl, rfl, id, rfl⟩)
  · rw [afterFence_resumes (Bool.eq_false_iff.mpr h)]
    exact ItemResumed.trans_set (bakeSet_modBake s b _) ⟨rfl, rfl, rfl, rfl, rfl, rfl⟩ (resumeItem_kept (refencing s b) b).1

theorem refencing_bake (s : State) (b : Nat) : (refencing s b).bake b =
    { s.bake b with triggers := (s.bake b).triggers.filter fun r => decide (r = 4) || decide (r = 8) } := State.modBake_bake_same ..

end Sys2Proof.Machine

/-! ##### Fences and re-placements, settled -/

namespace Sys2Proof.Machine

variable {s t u : State} {b : Nat} {i : U32} {x : Item}

section
variable {r : Nat} (hi : (s.bake b).item = some i) (hg : getItem s (s.bake b).ring i = some x) (hs : x.status = none)
  (hn : needsPlace s (s.bake b) = false) (hd : (s.bake b).draining = false)
include hi hg hn hd

/-- The state and the item that the re-run after a fence starts from. -/
theorem refencing_fenced : ((refencing (fencedState s b r) b).bake b).item = some i ∧
    ((refencing (fencedState s b r) b).bake b).ring = (s.bake b).ring ∧ ((refencing (fencedState s b r) b).bake b).draining = false ∧
    ((refencing (fencedState s b r) b).bake b).migTo = (s.bake b).migTo ∧
    ((refencing (fencedState s b r) b).bake b).reason = BitVec.ofNat 8 r ∧
    getItem (refencing (fencedState s b r) b) ((refencing (fencedState s b r) b).bake b).ring i = some (x.fencedFor r true) ∧
    setting (refencing (fencedState s b r) b) 0x3402 4 = setting s 0x3402 4 ∧
    afterFence (fencedState s b r) b = resumeItem (refencing (fencedState s b r) b) b := by
  obtain ⟨⟨ts, bl, hb⟩, -, -, -, -, -, hf⟩ := fencedState_kept s b r
  have hfi := fencedState_item (r := r) hi hg
  have hset : setting (fencedState s b r) 0x3402 4 = setting s 0x3402 4 := by
    rw [hf]
    rfl
  have hnp : needsPlace (fencedState s b r) ((fencedState s b r).bake b) = false := by
    rw [needsPlace_congr (s := s) (b := b) (by rw [hb]; rfl) (by rw [hb]; rfl) hf, hn]
  generalize fencedState s b r = m at *
  have hrb := refencing_bake m b
  have hring : ((refencing m b).bake b).ring = (s.bake b).ring := by rw [hrb, hb]; rfl
  refine ⟨by rw [hrb, hb]; exact hi, hring, by rw [hrb, hb]; exact hd, by rw [hrb, hb]; rfl, by rw [hrb, hb]; rfl, ?_, hset, afterFence_resumes hnp⟩
  rw [hring]
  exact hfi

theorem fence_reruns (hm : (s.bake b).migTo = 0) (hlim : x.fences + 1 - x.uncounted ≤ setting s 0x3402 4) :
    ((afterFence (fencedState s b r) b).bake b).state = 3 ∧ ((afterFence (fencedState s b r) b).bake b).item = some i ∧
    getItem (afterFence (fencedState s b r) b) (s.bake b).ring i = some { x with
      fences := x.fences + 1, reason := BitVec.ofNat 8 r, epoch := 0, state := 1, attempts := x.attempts + 1 } := by
  obtain ⟨hi', hring, hd', hm', -, hg', hset, hx⟩ := refencing_fenced (r := r) hi hg hn hd
  rw [hx, resumeItem_starts hi' hg' (by rw [hset]; exact hlim) hd' (hm'.trans hm)]
  obtain ⟨h3, h4, -, -, -, h7, -, -⟩ := startStep_of hi' rfl hg'
  rw [hring] at h7
  exact ⟨h3, h4, h7⟩

theorem fence_waitsForSwitch (hm : (s.bake b).migTo ≠ 0) (hlim : x.fences + 1 - x.uncounted ≤ setting s 0x3402 4) :
    ((afterFence (fencedState s b r) b).bake b).state = 6 ∧ ((afterFence (fencedState s b r) b).bake b).absorbed = true ∧
    ((afterFence (fencedState s b r) b).bake b).item = some i ∧
    getItem (afterFence (fencedState s b r) b) (s.bake b).ring i = some { x with
      fences := x.fences + 1, reason := BitVec.ofNat 8 r, epoch := 0, state := 1 } := by
  obtain ⟨hi', hring, hd', hm', -, hg', hset, hx⟩ := refencing_fenced (r := r) hi hg hn hd
  rw [hx, resumeItem_migrates hi' hg' (by rw [hset]; exact hlim) hd' (by rw [hm']; exact hm)]
  rw [hring] at hg'
  generalize refencing (fencedState s b r) b = m at *
  rw [State.modBake_bake_same]
  exact ⟨rfl, rfl, hi', hg'⟩

include hs

theorem fence_endsItem (hm : (s.bake b).migTo = 0) (h256 : r < 256) (hlim : setting s 0x3402 4 < x.fences + 1 - x.uncounted) :
    ((afterFence (fencedState s b r) b).bake b).state = 2 ∧ ((afterFence (fencedState s b r) b).bake b).item = none ∧
    getItem (afterFence (fencedState s b r) b) (s.bake b).ring i = some { x with
      fences := x.fences + 1, reason := BitVec.ofNat 8 r, epoch := 0, state := 4, status := some (5, BitVec.ofNat 128 r) } := by
  obtain ⟨hi', hring, hd', hm', hr', hg', hset, hx⟩ := refencing_fenced (r := r) hi hg hn hd
  have hreason : ((refencing (fencedState s b r) b).bake b).reason.toNat = r := by
    rw [hr', BitVec.toNat_ofNat]
    exact Nat.mod_eq_of_lt h256
  rw [hx, resumeItem_ends hi' hg' (by rw [hset]; exact hlim), hreason]
  rw [hring] at hg' ⊢
  generalize refencing (fencedState s b r) b = m at *
  have hb : (m.modBake b idleBake).bake b = idleBake (m.bake b) := State.modBake_bake_same ..
  have hmi : getItem (m.modBake b idleBake) (s.bake b).ring i = some (x.fencedFor r true) := hg'
  generalize m.modBake b idleBake = w at *
  have he := getItem_endItem_failed hmi hs (c := 5) (by decide) (BitVec.ofNat 128 r)
  have ha := ringHostAlone_endItem w (s.bake b).ring i 5 (BitVec.ofNat 128 r)
  generalize endItem w (s.bake b).ring i 5 (BitVec.ofNat 128 r) = z at *
  have hzb : z.bake b = idleBake (m.bake b) := by
    rw [← hb, State.bake, ha.baker]
    rfl
  rw [hzb]
  refine ⟨?_, rfl, he⟩
  show idleState (m.bake b) = 2
  rw [idleState, hd', hm', hm]
  rfl

end

/-- Settles O42: a fence by what it does to the item, then to the bake. -/
theorem fencesTakeANewEpoch : Obligations.FencesTakeANewEpoch := by
  unfold Obligations.FencesTakeANewEpoch
  refine ⟨?_, ?_, ?_, ?_, ?_, ?_, ?_, ?_⟩
  · intro s b r h1 h64 hst hr h4 h8 h256 hfree
    have hx := exec_epochFence_of h1 h64 hst hr h4 h8 hfree
    change exec (.epochFence b r) s = .next (afterFence (fencedState s b r) b) at hx
    obtain ⟨⟨ts, bl, hb⟩, he, hat, hd, hev, hk, hf⟩ := fencedState_kept s b r
    obtain ⟨a1, a2, a3, a4, a5, a6, a7, a8⟩ := afterFence_kept (fencedState s b r) b
    rw [hb] at a1 a2 a3 a4 a5 a6
    have hnp := needsPlace_congr (s := s) (b := b) (k := (fencedState s b r).bake b) (by rw [hb]; rfl) (by rw [hb]; rfl) hf
    have hplaces (h : needsPlace s (s.bake b) = true) : ((afterFence (fencedState s b r) b).bake b).state = 4 ∧
        ((afterFence (fencedState s b r) b).bake b).triggers = (s.bake b).triggers := by
      rw [afterFence_places (hnp.trans h), State.modBake_bake_same, hb]
      exact ⟨rfl, rfl⟩
    have hdrains (h : needsPlace s (s.bake b) = false) (hdr : (s.bake b).draining = true) :
        ((afterFence (fencedState s b r) b).bake b).state = 7 := by
      rw [afterFence_resumes (hnp.trans h)]
      refine (resumeItem_kept _ b).2 ?_
      rw [refencing_bake, hb]
      exact hdr
    refine ⟨_, hx, a1, ?_, ?_, a6 rfl, a2, a3, a4, ?_, ?_, fun d hdm hsl => ?_, hplaces, hdrains, ?_, ?_, ?_⟩
    · rw [a8]
      exact he
    · rw [a8]
      exact hat hfree
    · exact eventRaised_of_aon (by rw [a8]) hev
    · exact aonKept_of_aon (by rw [a8]) hk
    · rw [a7, hd] at hdm
      have hp := (List.mem_filter.mp hdm).2
      rw [hsl] at hp
      simpa using hp
    · intro i x hi hg hs hn hdr hm
      exact ⟨a5, fun hlim => fence_reruns hi hg hn hdr hm hlim, fun hlim => fence_endsItem hi hg hs hn hdr hm h256 hlim⟩
    · exact fun i x hi hg hs hn hdr hm hlim => fence_waitsForSwitch hi hg hn hdr hm hlim
    · rw [a8, hf]
  · exact fun s b r h1 h64 h => exec_epochFence_no h1 h64 h
  · intro s b r h1 h64 hr hst hno
    rw [exec_rePlacement_of true h1 h64 hr hst]
    refine congrArg Host.Outcome.next ((if_neg (by decide)).trans (if_neg ?_))
    rw [Bool.and_eq_true]
    rintro ⟨hfill, hn⟩
    exact hno.elim (fun h => Bool.false_ne_true (h.symm.trans hfill)) fun h => Bool.false_ne_true (h.symm.trans hn)
  · intro s b r h1 h64 hr hst hfill hn
    rw [exec_rePlacement_of true h1 h64 hr hst]
    exact congrArg Host.Outcome.next ((if_neg (by decide)).trans (if_pos (by rw [hfill, hn]; rfl)))
  · intro s b r h1 h64 hr hst h256 hl
    have hx := exec_rePlacement_of false h1 h64 hr hst
    have hc : cannotPlace s b r = unplaced s b r := if_neg (Nat.not_le.mpr hl)
    rw [Bool.not_false, if_pos rfl, hc] at hx
    obtain ⟨hb, hd, hev, hk, hf⟩ := unplaced_kept s b r
    exact ⟨_, hx, hb, hd, hev, hk, hf⟩
  · intro s b r h1 h64 hr hst hl
    have hx := exec_rePlacement_of false h1 h64 hr hst
    have hc : cannotPlace s b r = endItems (unplaced s b r) b (fun _ => true) 8 (BitVec.ofNat 128 (s.bake b).reason.toNat) := if_pos hl
    rw [Bool.not_false, if_pos rfl, hc] at hx
    obtain ⟨hb, -, -, -, hf⟩ := unplaced_kept s b r
    have hin (i : U32) (h : i ∈ bakeItems s b) := unplaced_items r hst h
    have hrings : (unplaced s b r).ring.rings = s.ring.rings := by rw [hf]
    generalize unplaced s b r = v at *
    have hring : (v.bake b).ring = (s.bake b).ring := by rw [hb]
    refine ⟨_, hx, ?_, fun i hi x hg hs => ?_⟩
    · have hbk := (ringHostAlone_endItems v b (fun _ => true) 8 (BitVec.ofNat 128 (s.bake b).reason.toNat)).baker
      rw [State.bake, hbk]
      exact congrArg Bake.state hb
    · rw [← hring] at hg ⊢
      exact endItems_ends (by decide) hs (hin i hi) ((getItem_of_rings hrings _ i).trans hg)
  · intro s b h1 h64 h4 hst
    refine (onSlot_64 h1 h64).trans (congrArg Host.Outcome.next ?_)
    have hin : ¬ (!(s.bake b).triggers.contains 4) = true := by
      rw [List.contains_iff_mem.mpr h4]
      exact Bool.false_ne_true
    have hno : ¬ ((s.bake b).state = 4 ∨ (s.bake b).state = 5) := by
      obtain h | h := hst <;> rw [h] <;> decide
    exact (if_neg hin).trans ((if_neg hno).trans (if_pos ⟨rfl, rfl, hst⟩))
  · intro s b r ok h1 h64 hr
    refine (onSlot_64 h1 h64).trans (congrArg Host.Outcome.next (if_pos ?_))
    rw [Bool.eq_false_iff.mpr fun h => hr (List.contains_iff_mem.mp h)]
    rfl

end Sys2Proof.Machine

/-! #### Timeouts, paging and the end of the hold (R158, R262, R307 to R310) -/

namespace Sys2Proof.Machine

variable {s t u : State} {b : Nat}

/-! ##### One change of many cores -/

section foldlCores
variable {α : Type} {g : α → CoreId} {f : Core → Core}

theorem coresAlone_foldl_modCore (l : List α) (s : State) : CoresAlone s (l.foldl (fun t e => t.modCore (g e) f) s) :=
  coresAlone_foldl (f := fun t e => State.modCore t (g e) f) (fun _ _ => rfl) l s

theorem core_foldl_modCore {R : Core → Prop} (hf : ∀ k, R k → R (f k)) (c : CoreId) (l : List α) {s : State} (h : R (s.core c)) :
    R ((l.foldl (fun t e => t.modCore (g e) f) s).core c) := by
  induction l generalizing s with
  | nil => exact h
  | cons e l ih =>
    refine ih ?_
    rw [State.modCore_core]
    split
    · next hc => exact hf _ (hc ▸ h)
    · exact h

/-- A core named in the list has been changed at least once. -/
theorem core_foldl_modCore_mem {R Q : Core → Prop} (hf : ∀ k, R k → Q (f k)) (hq : ∀ k, Q k → R k) {e : α} {l : List α} (he : e ∈ l)
    {s : State} (h : R (s.core (g e))) : Q ((l.foldl (fun t e => t.modCore (g e) f) s).core (g e)) := by
  obtain ⟨l₁, l₂, rfl⟩ := List.append_of_mem he
  have h1 := core_foldl_modCore (g := g) (fun k hk => hq _ (hf k hk)) (g e) l₁ h
  rw [List.foldl_append, List.foldl_cons]
  refine core_foldl_modCore (fun k hk => hf k (hq k hk)) (g e) l₂ ?_
  rw [State.modCore_core_same]
  exact hf _ h1

end foldlCores

/-! ##### Timeouts -/

theorem bakeTimeout_none (h : (s.bake b).item = none ∨ ((s.bake b).state ≠ 3 ∧ (heldStep (s.bake b) = false ∨ (s.bake b).draining = false)))
    (h1 : 1 ≤ b) (h64 : b ≤ 64) : exec (.bakeTimeout b) s = .next s := by
  refine (onSlot_64 h1 h64).trans (congrArg Host.Outcome.next (if_pos (h.imp_right ?_)))
  rintro ⟨h3, hh⟩ (hc | ⟨hc, hd⟩)
  · exact h3 hc
  · exact hh.elim (fun h => Bool.false_ne_true (h.symm.trans hc)) fun h => Bool.false_ne_true (h.symm.trans hd)

theorem bakeTimeout_some {i : U32} (hi : (s.bake b).item = some i)
    (h : (s.bake b).state = 3 ∨ (heldStep (s.bake b) = true ∧ (s.bake b).draining = true)) (h1 : 1 ≤ b) (h64 : b ≤ 64) :
    exec (.bakeTimeout b) s = .next (if (faultPending s b && !(s.bake b).draining) = true then preempt s b
      else trigger (s.modBake b fun q => { q with migDrain := false }) b 7) := by
  refine (onSlot_64 h1 h64).trans (congrArg Host.Outcome.next (if_neg ?_))
  rintro (hc | hc)
  · exact Option.some_ne_none i (hi.symm.trans hc)
  · exact hc h

theorem saveDmas_saved {d : DmaDesc} (hd : d ∈ (saveDmas s b).ring.dmas) (hb : d.slot = b) :
    d.saved = true ∨ ∀ c o n v, d.use ≠ .step c o n v := by
  obtain ⟨e, he, rfl⟩ := List.mem_map.mp hd
  split
  · exact .inl rfl
  · next hno =>
    rw [if_neg hno] at hb
    exact .inr fun c o n v hu => hno ⟨hb, by simp only [hu]⟩

theorem preempt_kept (s : State) (b : Nat) : (preempt s b).bake b = { s.bake b with state := 7, preempted := true, migDrain := false } ∧
    (∀ e ∈ phaseInsts (s.bake b) (s.bake b).phase,
      ((preempt s b).core e.2).seq.flight = [] ∧ ((preempt s b).core e.2).seq.resume = (s.core e.2).seq.resume) ∧
    (∀ d ∈ (preempt s b).ring.dmas, d.slot = b → (d.saved = true ∨ (∀ c o n v, d.use ≠ .step c o n v))) ∧
    preempt s b = { s with
      cores := (preempt s b).cores, baker := (preempt s b).baker, ring := { s.ring with dmas := (preempt s b).ring.dmas } } := by
  have ha := coresAlone_foldl_modCore (g := Prod.snd) (f := stopCore) (phaseInsts (s.bake b) (s.bake b).phase) s
  have hc (e : Nat × CoreId) (he : e ∈ phaseInsts (s.bake b) (s.bake b).phase) :=
    core_foldl_modCore_mem (g := Prod.snd) (f := stopCore) (R := fun k => k.seq.resume = (s.core e.2).seq.resume)
      (Q := fun k => k.seq.flight = [] ∧ k.seq.resume = (s.core e.2).seq.resume) (fun k hk => ⟨rfl, hk⟩) (fun k hk => hk.2) he rfl
  unfold preempt
  dsimp only
  generalize (phaseInsts (s.bake b) (s.bake b).phase).foldl (fun t e => t.modCore e.2 stopCore) s = v at *
  unfold CoresAlone at ha
  refine ⟨?_, hc, fun d hd hb => saveDmas_saved (s := v) hd hb, ?_⟩
  · rw [State.modBake_bake_same, ha]
    rfl
  · rw [ha]
    rfl

/-! ##### Resumption -/

theorem resumeCore_resumes {k : Core} {r : Resume} (h : k.seq.state ≠ .ended ∧ k.seq.resume = r) :
    (resumeCore k).seq.state = .running ∧ (resumeCore k).seq.step = r.step ∧ (resumeCore k).seq.loops = r.loops ∧
    (resumeCore k).seq.replay = true ∧ (resumeCore k).seq.resume = r := by
  obtain ⟨hs, rfl⟩ := h
  rw [resumeCore, if_neg hs]
  exact ⟨rfl, rfl, rfl, rfl, rfl⟩

theorem resumption_no (h1 : 1 ≤ b) (h64 : b ≤ 64) (h : (s.bake b).state ≠ 7 ∨ (s.bake b).preempted = false ∨ faultPending s b = true ∨
    fenceRows (s.bake b) ≠ [] ∨ s.flue.cutOff = true) : exec (.resumption b) s = .next s := by
  refine (onSlot_64 h1 h64).trans (congrArg Host.Outcome.next (if_pos ?_))
  simpa only [ne_eq, List.isEmpty_eq_false_iff] using h

theorem resumption_resumes (h1 : 1 ≤ b) (h64 : b ≤ 64) (hs : (s.bake b).state = 7) (hp : (s.bake b).preempted = true)
    (hf : faultPending s b = false) (hr : fenceRows (s.bake b) = []) (hc : s.flue.cutOff = false) :
    exec (.resumption b) s = .next (((phaseInsts (s.bake b) (s.bake b).phase).foldl (fun t e => t.modCore e.2 resumeCore) s).modBake b
      fun q => { q with state := 3, preempted := false }) := by
  refine (onSlot_64 h1 h64).trans (congrArg Host.Outcome.next (if_neg ?_))
  rw [hs, hp, hf, hr, hc]
  decide

/-! ##### Paging -/

theorem copyPage_ring (s : State) (fr src : Nat) : (copyPage s fr src).ring = s.ring := by
  unfold copyPage
  refine foldl_prop (p := fun t : State => t.ring = s.ring) (fun u e h => ?_) _ rfl
  rw [stackWrite_ring]
  exact h

theorem Retried.frames (h : Retried s t) : t.ring.frames = s.ring.frames := by
  unfold Retried at h
  rw [h]

theorem Retried.backed (h : Retried s t) : t.ring.backed = s.ring.backed := by
  unfold Retried at h
  rw [h]

theorem pageIn_brings {d : DmaDesc} {v a : Nat} {e : U64} (hl : leafOf s v ptLevels (bakeRoot s d.slot) = some (a, 12, e)) (he : fld e 63 62 = 2)
    (hr : s.ring.frames < setting s 0x5102 3) (hc : chanServes s ((setting s 0x5102 2 + 4096 * s.ring.frames) / 2 ^ 31) = true) :
    (pageIn s d v).ring.frames = s.ring.frames + 1 ∧
    (pageIn s d v).ring.backed = s.ring.backed ++ [(setting s 0x5102 2 + 4096 * s.ring.frames, a, fld e 56 12 * 4096)] := by
  unfold pageIn
  dsimp only
  rw [hl]
  dsimp only
  rw [if_neg (by rw [he]; simpa using hr), hc, Bool.not_true, if_neg Bool.false_ne_true]
  have hp := copyPage_ring s (setting s 0x5102 2 + 4096 * s.ring.frames) (fld e 56 12 * 4096)
  generalize copyPage s (setting s 0x5102 2 + 4096 * s.ring.frames) (fld e 56 12 * 4096) = c at *
  have hh : (hostStore c a (leBytes 8
      (putFld (putFld e 63 62 1) 56 12 ((setting s 0x5102 2 + 4096 * s.ring.frames) / 4096)).toNat)).ring = s.ring := by
    rw [(hostStore_rest ..).2.2.2.2.2.2.2.2.2.1, hp]
  refine ⟨(retried_retryDma _ d []).frames.trans ?_, (retried_retryDma _ d []).backed.trans ?_⟩
  · rw [hh]
  · rw [hh]

theorem faultPaging_one {d : DmaDesc} (h1 : 1 ≤ b) (h64 : b ≤ 64) (hp : (s.bake b).preempted = true)
    (hd : s.ring.dmas.filter (fun d => decide (d.slot = b)) = [d]) {p : Nat × Nat × U32} (hk : d.parked = some p) :
    exec (.faultPaging b) s = .next (if p.2.1 = 3 then pageIn s d p.1
      else if (p.2.1 = 4 ∨ p.2.1 = 6) ∧ s.ring.pri.contains p.2.2 = false then { s with ring := { s.ring with pri := s.ring.pri ++ [p.2.2] } }
      else s) := by
  refine (onSlot_64 h1 h64).trans (congrArg Host.Outcome.next ?_)
  rw [hp, if_neg (by decide), hd, List.foldl_cons, List.foldl_nil, hk]

/-! ##### The end of the hold -/

theorem endItem_unresolved (s : State) (r : Nat) (i : U32) (c : U8) (d : BitVec 128) :
    (endItem s r i c d).ring.unresolved = s.ring.unresolved := by
  unfold endItem
  dsimp only
  repeat' split
  all_goals simp [modItem, State.modRing]

/-- The state with a fault counted as unresolved. -/
def holdEnded (s : State) (n : Nat) : State := { s with ring := { s.ring with unresolved := s.ring.unresolved + BitVec.ofNat 64 n } }

/-- A bake whose item has ended with the hold. -/
def itemDropped (k : Bake) : Bake := { k with item := none, state := idleState k }

theorem faultHoldExpiry_one {d : DmaDesc} {p : Nat × Nat × U32} {i : U32} (h1 : 1 ≤ b) (h64 : b ≤ 64) (hp : (s.bake b).preempted = true)
    (he : epochFree s = true) (hd : s.ring.dmas.filter (fun d => decide (d.slot = b)) = [d]) (hk : d.parked = some p)
    (hi : (s.bake b).item = some i) :
    exec (.faultHoldExpiry b) s = .next ((endItem (fence (holdEnded s 1) b 7 true) (s.bake b).ring i 6
      (BitVec.ofNat 128 (p.1 + 2 ^ 64 * p.2.1))).modBake b itemDropped) := by
  have hl : s.ring.dmas.filterMap (fun d => if d.slot = b then d.parked else none) = [p] := by
    have h := List.filterMap_filter (p := fun d : DmaDesc => decide (d.slot = b)) (f := DmaDesc.parked) (l := s.ring.dmas)
    rw [hd] at h
    simpa [hk] using h.symm
  refine (onSlot_64 h1 h64).trans (congrArg Host.Outcome.next ?_)
  dsimp only
  rw [hl]
  dsimp only
  rw [if_neg (by rw [hp, he]; decide), hi, List.length_singleton]
  rfl

theorem holdExpiry_ends {i : U32} {x : Item} (n : Nat) (hi : (s.bake b).item = some i) (hg : getItem s (s.bake b).ring i = some x) (hs : x.status = none)
    (dt : BitVec 128) :
    let t := (endItem (fence (holdEnded s n) b 7 true) (s.bake b).ring i 6 dt).modBake b itemDropped
    t.ring.unresolved = s.ring.unresolved + BitVec.ofNat 64 n ∧ (t.bake b).item = none ∧ (t.bake b).preempted = false ∧
    (t.bake b).epoch = nextEpoch s.baker.epoch ∧
    (t.bake b).state = (if (s.bake b).draining then 7 else if (s.bake b).migTo ≠ 0 then 6 else 2) ∧
    getItem t (s.bake b).ring i = some { x with fences := x.fences + 1, reason := 7, epoch := 0, state := 4, status := some (6, dt) } ∧
    EventRaised s t 0x3416 b 2 (stokerId s) 7 ∧ AonKept s t := by
  obtain ⟨⟨ts, bl, hb⟩, -, -, -, -, hu, hev, hk, -⟩ := fence_kept (holdEnded s n) b 7 true
  obtain ⟨hf, -⟩ := fence_item (s := holdEnded s n) (b := b) (i := i) (x := x) 7 true hi hg
  change (fence (holdEnded s n) b 7 true).bake b = fencedBake s b 7 ts bl at hb
  change (fence (holdEnded s n) b 7 true).ring.unresolved = s.ring.unresolved + BitVec.ofNat 64 n at hu
  change EventRaised s _ _ _ _ _ _ at hev
  change AonKept s _ at hk
  change getItem _ (s.bake b).ring i = _ at hf
  generalize fence (holdEnded s n) b 7 true = v at *
  have he := getItem_endItem_failed hf hs (c := 6) (by decide) dt
  have ha := ringHostAlone_endItem v (s.bake b).ring i 6 dt
  have hue := (endItem_unresolved v (s.bake b).ring i 6 dt).trans hu
  generalize endItem v (s.bake b).ring i 6 dt = z at *
  have hzb : z.bake b = fencedBake s b 7 ts bl := by rw [State.bake, ha.baker, ← hb, State.bake]
  have hza : z.aon = v.aon := by rw [ha]
  have hmb : (z.modBake b itemDropped).bake b = itemDropped (fencedBake s b 7 ts bl) := by rw [State.modBake_bake_same, hzb]
  refine ⟨hue, ?_, ?_, ?_, ?_, he, eventRaised_of_aon hza hev, aonKept_of_aon hza hk⟩
  all_goals rw [hmb]
  all_goals rfl

/-- Settles O43: a step by its pending faults, a pre-empted bake by the resume records of its cores. -/
theorem timeoutsPreemptOrFence : Obligations.TimeoutsPreemptOrFence := by
  unfold Obligations.TimeoutsPreemptOrFence
  refine ⟨?_, ?_, ?_, ?_, ?_, ?_, ?_, ?_, ?_⟩
  · intro s b i h1 h64 hst hi hno
    have hc : ¬ (faultPending s b && !(s.bake b).draining) = true := by
      rw [Bool.and_eq_true, Bool.not_eq_true']
      rintro ⟨hf, hd⟩
      exact hno.elim (fun h => Bool.false_ne_true (h.symm.trans hf)) fun h => Bool.false_ne_true (hd.symm.trans h)
    have hx := bakeTimeout_some hi hst h1 h64
    rw [if_neg hc] at hx
    obtain ⟨hm, hmo, -⟩ := bakeSet_modBake s b fun q => { q with migDrain := false }
    obtain ⟨ht, hto, -⟩ := bakeSet_modBake (s.modBake b fun q => { q with migDrain := false }) b fun k => { k with
      triggers := if k.triggers.contains 7 then k.triggers else k.triggers ++ [7]
      losses := k.losses + (if 7 = 1 ∨ 7 = 2 ∨ 7 = 6 then 1 else 0)
      migDrain := false }
    refine ⟨_, hx, (mem_trigger ..).1, ?_, ?_, fun d hd => (hto d hd).trans (hmo d hd), ?_⟩
    · exact (mem_trigger ..).2.trans (by rw [hm])
    · exact congrArg Bake.migDrain ht
    · rfl
  · intro s b i h1 h64 hst hi hf hd
    have hx := bakeTimeout_some hi (.inl hst) h1 h64
    rw [if_pos (by rw [hf, hd]; rfl)] at hx
    exact ⟨_, hx, preempt_kept s b⟩
  · exact fun s b h1 h64 h => bakeTimeout_none h h1 h64
  · intro s b h1 h64 hs hp hf hr hc
    have ha := coresAlone_foldl_modCore (g := Prod.snd) (f := resumeCore) (phaseInsts (s.bake b) (s.bake b).phase) s
    refine ⟨_, resumption_resumes h1 h64 hs hp hf hr hc, ?_, fun e he hne => ?_, ?_⟩
    · rw [State.modBake_bake_same, ha]
      rfl
    · obtain ⟨h1, h2, h3, h4, -⟩ := core_foldl_modCore_mem (g := Prod.snd) (f := resumeCore)
        (R := fun k => k.seq.state ≠ .ended ∧ k.seq.resume = (s.core e.2).seq.resume)
        (Q := fun k => k.seq.state = .running ∧ k.seq.step = (s.core e.2).seq.resume.step ∧
          k.seq.loops = (s.core e.2).seq.resume.loops ∧ k.seq.replay = true ∧ k.seq.resume = (s.core e.2).seq.resume)
        (fun k hk => resumeCore_resumes hk) (fun k ⟨h1, _, _, _, h5⟩ => ⟨by rw [h1]; decide, h5⟩) he ⟨hne, rfl⟩
      exact ⟨h1, h2, h3, h4⟩
    · rw [ha]
      rfl
  · exact fun s b h1 h64 h => resumption_no h1 h64 h
  · intro s b d v q h1 h64 hp hd hk hq
    rw [faultPaging_one h1 h64 hp hd hk, if_neg (show (4 : Nat) ≠ 3 by decide), if_pos ⟨.inl rfl, hq⟩]
  · intro s b d v q a e h1 h64 hp hd hk hl he hr hc
    refine ⟨_, (faultPaging_one h1 h64 hp hd hk).trans (congrArg Host.Outcome.next (if_pos rfl)), pageIn_brings hl he hr hc⟩
  · intro s b h1 h64 hp
    refine ⟨(onSlot_64 h1 h64).trans (congrArg Host.Outcome.next (if_pos hp)), (onSlot_64 h1 h64).trans (congrArg Host.Outcome.next ?_)⟩
    dsimp only
    split
    · rfl
    · exact if_pos (.inl hp)
  · intro s b d i x p h1 h64 hp he hd hk hi hg hs
    exact ⟨_, faultHoldExpiry_one h1 h64 hp he hd hk hi, holdExpiry_ends 1 hi hg hs _⟩

end Sys2Proof.Machine

/-! #### Replicas and banks (R461 to R468) -/

namespace Sys2Proof.Machine

variable {s t u : State} {b : Nat}

/-! ##### Reading a view changes cores alone -/

theorem stackRead_calm (s : State) (a : Nat) : (stackRead s a []).2 = s := by
  unfold stackRead
  dsimp only
  split <;> rfl

theorem coresAlone_copyRead (s : State) (b : Nat) (x : Side) : CoresAlone s (copyRead s b x).2 := by
  cases x with
  | pad c a => exact coresAlone_modCore ..
  | host d => exact rfl
  | tens j v o =>
    show CoresAlone s (stackRead s _ []).2
    rw [stackRead_calm]
    exact rfl
  | area o n =>
    show CoresAlone s (stackRead s _ []).2
    rw [stackRead_calm]
    exact rfl

theorem coresAlone_readGo (b : Nat) (side : Nat → Side) (s : State) (n : Nat) : CoresAlone s (readGo b side s n).2 := by
  unfold readGo
  exact foldl_prop (p := fun a : List (U64 × Bool) × State => CoresAlone s a.2) (fun a i h => h.trans (coresAlone_copyRead ..)) _ rfl

theorem coresAlone_viewWords (s : State) (b j : Nat) (nx : Bool) : CoresAlone s (viewWords s b j nx).2 := by
  exact coresAlone_readGo ..

theorem coresAlone_digestWords (s : State) (b j : Nat) : CoresAlone s (digestWords s b j).2 := by
  unfold digestWords
  split
  · exact coresAlone_modCore ..
  · exact coresAlone_viewWords ..

theorem coresAlone_digestOf (s : State) (b : Nat) (seed : U64) (l : List Nat) : CoresAlone s (digestOf s b seed l).2 := by
  unfold digestOf
  exact foldl_prop (p := fun a : (BitVec 128 × Bool) × State => CoresAlone s a.2) (fun a i h => h.trans (coresAlone_digestWords ..)) _ rfl

theorem readGo_areas {side : Nat → Side} (h : ∀ i, ∃ o n, side i = .area o n) (n : Nat) : (readGo b side s n).2 = s := by
  unfold readGo
  refine foldl_prop (p := fun a : List (U64 × Bool) × State => a.2 = s) (fun a i ha => ?_) _ rfl
  obtain ⟨o, m, hs⟩ := h i
  show (copyRead a.2 b (side i)).2 = s
  rw [hs]
  exact (stackRead_calm ..).trans ha

theorem bankDigest_state (s : State) (b : Nat) (areaB : Bool) : (bankDigest s b areaB).2 = s := by
  unfold bankDigest
  refine foldl_prop (p := fun a : BitVec 128 × State => a.2 = s) (fun a j ha => ?_) _ rfl
  exact (readGo_areas (fun i => ⟨_, _, rfl⟩) _).trans ha

/-! ##### The digest of a device goes out to the group -/

/-- Messages have gone out. -/
def MsgsSent (s t : State) : Prop := t = { s with ctl := t.ctl, flue := t.flue, links := t.links }

theorem MsgsSent.trans (h : MsgsSent s t) (k : MsgsSent t u) : MsgsSent s u := by
  unfold MsgsSent at *
  rw [k, h]

theorem sendFrame_frame (s : State) (f : Frame) : sendFrame s f = { s with links := (sendFrame s f).links } := by
  unfold sendFrame
  (repeat' split) <;> rfl

theorem msgsSent_sendMsg (s : State) (d : Nat) (m : FwMsg) : MsgsSent s (sendMsg s (some d) m) := by
  unfold MsgsSent sendMsg dispatchMsg
  dsimp only
  rw [sendFrame_frame]

/-- The state with the device's own digest in place. -/
def digestTaken (s : State) (b : Nat) : State :=
  let x := digestOf s b (groupSeed s b) (coveredTensors s b)
  x.2.modBake b fun q => { q with replica := { q.replica with whole := true, own := x.1.1, poison := x.1.2 } }

theorem digestTaken_kept (s : State) (b : Nat) : ((digestTaken s b).bake b).replica = { (s.bake b).replica with
      whole := true, own := (digestOf s b (groupSeed s b) (coveredTensors s b)).1.1
      poison := (digestOf s b (groupSeed s b) (coveredTensors s b)).1.2 } ∧
    (∀ d, d ≠ b → (digestTaken s b).bake d = s.bake d) ∧
    digestTaken s b = { s with cores := (digestTaken s b).cores, baker := (digestTaken s b).baker } := by
  have hc := coresAlone_digestOf s b (groupSeed s b) (coveredTensors s b)
  unfold digestTaken
  dsimp only
  generalize digestOf s b (groupSeed s b) (coveredTensors s b) = x at *
  obtain ⟨y, v⟩ := x
  change CoresAlone s v at hc
  obtain ⟨h1, h2, h3⟩ := bakeSet_modBake v b fun q => { q with replica := { q.replica with whole := true, own := y.1, poison := y.2 } }
  have hb (d : Nat) : v.bake d = s.bake d := by
    rw [hc]
    rfl
  refine ⟨?_, fun d hd => (h2 d hd).trans (hb d), ?_⟩
  · rw [h1, hb]
  · generalize v.modBake b (fun q => { q with replica := { q.replica with whole := true, own := y.1, poison := y.2 } }) = w at *
    rw [h3, hc]

theorem digestComplete_takes (h1 : 1 ≤ b) (h64 : b ≤ 64) (ho : (s.bake b).replica.open_ = true) (hw : (s.bake b).replica.whole = false)
    (hr : digestRead s b = true) : ∃ t, exec (.digestComplete b) s = .next t ∧ MsgsSent (digestTaken s b) t ∧
      ((s.bake b).replica.expelled = true → t = digestTaken s b) := by
  refine ⟨_, (onSlot_64 h1 h64).trans (congrArg Host.Outcome.next (if_neg (by rw [ho, hw, hr]; decide))), ?_, fun he => if_pos (by rw [he]; rfl)⟩
  split
  · exact rfl
  · exact foldl_prop (p := MsgsSent (digestTaken s b)) (fun u d h => h.trans (msgsSent_sendMsg ..)) _ rfl

theorem digestComplete_no (h1 : 1 ≤ b) (h64 : b ≤ 64)
    (h : (s.bake b).replica.open_ = false ∨ (s.bake b).replica.whole = true ∨ digestRead s b = false) :
    exec (.digestComplete b) s = .next s := by
  refine (onSlot_64 h1 h64).trans (congrArg Host.Outcome.next (if_pos ?_))
  obtain h | h | h := h <;> simp [h]

/-! ##### Reports -/

/-- A report that is counted with an event and otherwise dropped. -/
theorem reportDropped (f : Bake → Bake) (m : Nat) :
    (((raiseS (s.modBake b f) 0x6002 b 1 m).bake b) = f (s.bake b)) ∧
    EventRaised s (raiseS (s.modBake b f) 0x6002 b 1 m) 0x6002 b 1 (stokerId s) m ∧ AonKept s (raiseS (s.modBake b f) 0x6002 b 1 m) ∧
    raiseS (s.modBake b f) 0x6002 b 1 m =
      { s with baker := (raiseS (s.modBake b f) 0x6002 b 1 m).baker, aon := (raiseS (s.modBake b f) 0x6002 b 1 m).aon } := by
  obtain ⟨h1, -, h3⟩ := bakeSet_modBake s b f
  generalize s.modBake b f = v at *
  have hva : v.aon = s.aon := by rw [h3]
  have hvr : v.recov = s.recov := by rw [h3]
  have hvc : v.flue.cycle = s.flue.cycle := by rw [h3]
  have hz := raiseS_eq (s := v) 0x6002 b 1 m
  refine ⟨?_, raiseS_event_of s hva hvr hvc .., raiseS_kept_of s hva .., ?_⟩
  · rw [← h1, State.bake, raiseS_baker, State.bake]
  · generalize raiseS v 0x6002 b 1 m = z at *
    rw [hz, h3]

/-! ##### A check resolves -/

/-- The members that hold another value than the majority's. -/
def oddMembers (s : State) (b : Nat) : List Nat :=
  match majorityOf (activeMembers s b).length (countedValues s b) with
  | none => []
  | some v => ((countedValues s b).filter fun e => decide (e.2 ≠ some v)).map (·.1)

/-- This device's place in the group, where it is active. -/
def ownMember (s : State) (b : Nat) : Option Nat := (activeMembers s b).find? fun i => decide (nth 0xFFFF (groupMembers s b) i = deviceId s)

/-- This device is among the odd ones. -/
def selfOdd (s : State) (b : Nat) : Bool := (ownMember s b).any (oddMembers s b).contains

/-- The replica's record after a check. -/
def checkedReplica (s : State) (b : Nat) (k : Replica) : Replica :=
  let maj := majorityOf (activeMembers s b).length (countedValues s b)
  { k with
    open_ := false
    result := if maj.isNone then 4 else if selfOdd s b then 3 else if (oddMembers s b).isEmpty then 1 else 2
    odd := maskOf (oddMembers s b), counted := BitVec.ofNat 8 (countedValues s b).length, majority := maj.getD 0
    checks := k.checks + 1
    dropped := k.dropped ||| maskOf ((oddMembers s b).filter fun i => decide (some i ≠ ownMember s b))
    expelled := k.expelled || selfOdd s b }

/-- Events alone have been raised. -/
def EventsAlone (s t : State) : Prop := t = { s with aon := t.aon }

theorem EventsAlone.trans (h : EventsAlone s t) (k : EventsAlone t u) : EventsAlone s u := by
  unfold EventsAlone at *
  rw [k, h]

theorem eventsAlone_raiseS (s : State) (i x v a : Nat) : EventsAlone s (raiseS s i x v a) := raiseS_eq ..

theorem EventsAlone.bake (h : EventsAlone s t) (d : Nat) : t.bake d = s.bake d := by
  rw [h]
  rfl

/-- The active members whose value is missing. -/
def missingMembers (s : State) (b : Nat) : List Nat := (activeMembers s b).filter fun i => !((countedValues s b).any fun e => decide (e.1 = i))

/-- The events of a check. -/
def checkEvents (s t : State) (b : Nat) : State :=
  let t := (missingMembers s b).foldl (fun u i => raiseS u 0x6002 b 1 (nth 0xFFFF (groupMembers s b) i)) t
  let t := if (majorityOf (activeMembers s b).length (countedValues s b)).isNone then raiseS t 0x6002 b 2 0 else t
  ((oddMembers s b).filter fun i => decide (some i ≠ ownMember s b)).foldl
    (fun u i => raiseS u 0x6002 b 2 (nth 0xFFFF (groupMembers s b) i)) t

theorem eventsAlone_foldl {α : Type} (g : α → Nat) (v : Nat) (l : List α) (s : State) :
    EventsAlone s (l.foldl (fun u i => raiseS u 0x6002 b v (g i)) s) :=
  foldl_prop (p := EventsAlone s) (fun _ _ h => h.trans (eventsAlone_raiseS ..)) l rfl

theorem eventsAlone_checkEvents (s t : State) (b : Nat) : EventsAlone t (checkEvents s t b) := by
  unfold checkEvents
  dsimp only
  have h1 := eventsAlone_foldl (b := b) (fun i => nth 0xFFFF (groupMembers s b) i) 1 (missingMembers s b) t
  split
  · exact (h1.trans (eventsAlone_raiseS ..)).trans (eventsAlone_foldl ..)
  · exact h1.trans (eventsAlone_foldl ..)

/-- A device outside the majority: its step is abandoned and its bake pauses. -/
def expelledSelf (s t : State) (b : Nat) : State :=
  let t := raiseS t 0x6002 b 3 (deviceId s)
  let t := if (t.bake b).item.isSome then fence t b 5 true else t
  t.modBake b fun q => { q with state := 7 }

theorem expelledSelf_kept (s t : State) (b : Nat) : ((expelledSelf s t b).bake b).replica = (t.bake b).replica ∧
    ((expelledSelf s t b).bake b).state = 7 ∧ (expelledSelf s t b).hbm = t.hbm ∧ (expelledSelf s t b).fuse = t.fuse ∧
    (expelledSelf s t b).pending = t.pending := by
  have he := eventsAlone_raiseS t 0x6002 b 3 (deviceId s)
  unfold expelledSelf
  dsimp only
  generalize raiseS t 0x6002 b 3 (deviceId s) = u at *
  have hu := he.bake b
  unfold EventsAlone at he
  split
  · obtain ⟨⟨ts, bl, hb⟩, -, -, -, -, -, -, -, hf⟩ := fence_kept u b 5 true
    generalize fence u b 5 true = v at *
    rw [State.modBake_bake_same, hb, ← hu]
    refine ⟨rfl, rfl, ?_, ?_, ?_⟩
    · rw [State.modBake_hbm, hf, he]
    · rw [State.modBake_fuse, hf, he]
    · rw [State.modBake_pending, hf, he]
  · rw [State.modBake_bake_same, ← hu]
    refine ⟨rfl, rfl, ?_, ?_, ?_⟩
    · rw [State.modBake_hbm, he]
    · rw [State.modBake_fuse, he]
    · rw [State.modBake_pending, he]

theorem checkResolution_eq (w : Bool) (h1 : 1 ≤ b) (h64 : b ≤ 64) (ho : (s.bake b).replica.open_ = true) (hw : (s.bake b).replica.whole = true)
    (h : w = true ∨ ∀ i ∈ activeMembers s b, ∃ e ∈ countedValues s b, e.1 = i) :
    exec (.checkResolution b w) s = .next (
      let t := checkEvents s (s.modBake b fun q => { q with replica := checkedReplica s b q.replica }) b
      if selfOdd s b then expelledSelf s t b else t) := by
  have hm : (w || (missingMembers s b).isEmpty) = true := by
    refine h.elim (fun h => by rw [h]; rfl) fun h => ?_
    rw [Bool.or_eq_true, List.isEmpty_iff, missingMembers, List.filter_eq_nil_iff]
    refine .inr fun i hi => ?_
    obtain ⟨e, he, hei⟩ := h i hi
    simpa using ⟨e.2, hei ▸ he⟩
  refine (onSlot_64 h1 h64).trans (congrArg Host.Outcome.next ((if_neg ?_).trans ?_))
  · change ¬ (!(s.bake b).replica.open_ || !(s.bake b).replica.whole || !(w || (missingMembers s b).isEmpty)) = true
    rw [ho, hw, hm]
    decide
  · rfl

theorem checkResolution_no {w : Bool} (h1 : 1 ≤ b) (h64 : b ≤ 64) (h : (s.bake b).replica.open_ = false ∨ (s.bake b).replica.whole = false) :
    exec (.checkResolution b w) s = .next s := by
  refine (onSlot_64 h1 h64).trans (congrArg Host.Outcome.next (if_pos ?_))
  obtain h | h := h <;> rw [h] <;> simp

/-- A check that resolves leaves its record, and a device outside the majority pauses its bake. -/
theorem checkResolution_kept (w : Bool) (h1 : 1 ≤ b) (h64 : b ≤ 64) (ho : (s.bake b).replica.open_ = true) (hw : (s.bake b).replica.whole = true)
    (h : w = true ∨ ∀ i ∈ activeMembers s b, ∃ e ∈ countedValues s b, e.1 = i) : ∃ t, exec (.checkResolution b w) s = .next t ∧
      (t.bake b).replica = checkedReplica s b (s.bake b).replica ∧
      (t.bake b).state = (if selfOdd s b then 7 else (s.bake b).state) ∧ t.hbm = s.hbm ∧ t.fuse = s.fuse ∧ t.pending = s.pending := by
  refine ⟨_, checkResolution_eq w h1 h64 ho hw h, ?_⟩
  obtain ⟨hm, -, hmf⟩ := bakeSet_modBake s b fun q => { q with replica := checkedReplica s b q.replica }
  generalize (s.modBake b fun q => { q with replica := checkedReplica s b q.replica }) = u at *
  have he := eventsAlone_checkEvents s u b
  generalize checkEvents s u b = v at *
  have hv := (he.bake b).trans hm
  unfold EventsAlone at he
  have hh : v.hbm = s.hbm := by rw [he, hmf]
  have hf : v.fuse = s.fuse := by rw [he, hmf]
  have hp : v.pending = s.pending := by rw [he, hmf]
  dsimp only
  split
  · obtain ⟨h1, h2, h3, h4, h5⟩ := expelledSelf_kept s v b
    exact ⟨h1.trans (by rw [hv]), h2, h3.trans hh, h4.trans hf, h5.trans hp⟩
  · rw [hv]
    exact ⟨rfl, rfl, hh, hf, hp⟩

theorem oddMembers_none (hv : majorityOf (activeMembers s b).length (countedValues s b) = none) : oddMembers s b = [] := by
  rw [oddMembers, hv]

theorem oddMembers_some {d : BitVec 128} (hv : majorityOf (activeMembers s b).length (countedValues s b) = some d) :
    oddMembers s b = ((countedValues s b).filter fun e => decide (e.2 ≠ some d)).map (·.1) := by
  rw [oddMembers, hv]

theorem oddMembers_agreed {d : BitVec 128} (hv : majorityOf (activeMembers s b).length (countedValues s b) = some d)
    (h : ∀ e ∈ countedValues s b, e.2 = some d) : oddMembers s b = [] := by
  rw [oddMembers_some hv, List.map_eq_nil_iff, List.filter_eq_nil_iff]
  exact fun e he => by simp [h e he]

theorem selfOdd_nil (h : oddMembers s b = []) : selfOdd s b = false := by
  rw [selfOdd, h]
  cases ownMember s b <;> rfl

theorem selfOdd_odd {d : BitVec 128} {i : Nat} (hv : majorityOf (activeMembers s b).length (countedValues s b) = some d)
    (hi : ownMember s b = some i) (h : ∃ e ∈ countedValues s b, e.1 = i ∧ e.2 ≠ some d) : selfOdd s b = true := by
  obtain ⟨e, he, rfl, hne⟩ := h
  rw [selfOdd, hi, oddMembers_some hv]
  exact List.contains_iff_mem.mpr (List.mem_map.mpr ⟨e, List.mem_filter.mpr ⟨he, decide_eq_true hne⟩, rfl⟩)

/-! ##### Banks -/

/-- One DMA request more waits, and nothing else has changed. -/
def OneRequested (s t : State) : Prop := t.ring.dmas.length = s.ring.dmas.length + 1 ∧ t = { s with ring := t.ring }

theorem oneRequested_requestWhole (s : State) (use : DmaUse) (b n : Nat) (src dst : Side) : OneRequested s (requestWhole s use b n src dst) :=
  ⟨List.length_append .., rfl⟩

theorem requested_foldl {α : Type} {f : State → α → State} (hf : ∀ u e, OneRequested u (f u e)) (l : List α) (s : State) :
    (l.foldl f s).ring.dmas.length = s.ring.dmas.length + l.length ∧ l.foldl f s = { s with ring := (l.foldl f s).ring } := by
  induction l generalizing s with
  | nil => exact ⟨rfl, rfl⟩
  | cons e l ih =>
    obtain ⟨hn, hr⟩ := ih (f s e)
    obtain ⟨h1, h2⟩ := hf s e
    refine ⟨hn.trans ?_, hr.trans ?_⟩
    · rw [h1, List.length_cons]
      omega
    · rw [List.foldl_cons]
      generalize l.foldl f (f s e) = w
      rw [h2]

/-- A bank area that is whole. -/
def wholeBank (s : State) (b : Nat) (areaB : Bool) : State :=
  modBank s b areaB fun x => { x with
    state := if (bankOf' (s.bake b) areaB).io.isEmpty then 2 else 3, at_ := micros s, digest := (bankDigest s b areaB).1 }

/-- The host copies of a bank are asked for. -/
def bankRequested (s t : State) (b : Nat) (areaB : Bool) : State :=
  (bankOf' (s.bake b) areaB).io.foldl
    (fun u e => requestWhole u (.hostCopy areaB) b (tnSize (tensorRow (u.bake b) e.1)) (bankSide (u.bake b) areaB e.1 0) (.host e.2)) t

theorem bankWhole_eq {areaB : Bool} (h1 : 1 ≤ b) (h64 : b ≤ 64)
    (h : ([false, true].find? fun a => decide ((bankOf' (s.bake b) a).state = 1) && !bankCopying s b a false) = some areaB) :
    exec (.bankWhole b) s = .next (bankRequested s (wholeBank s b areaB) b areaB) := by
  refine (onSlot_64 h1 h64).trans (congrArg Host.Outcome.next ?_)
  rw [h]
  dsimp only
  rw [bankDigest_state]
  rfl

theorem bankRequested_kept (s t : State) (b : Nat) (areaB : Bool) :
    (bankRequested s t b areaB).ring.dmas.length = t.ring.dmas.length + (bankOf' (s.bake b) areaB).io.length ∧
    bankRequested s t b areaB = { t with ring := (bankRequested s t b areaB).ring } :=
  requested_foldl (fun _ _ => oneRequested_requestWhole ..) _ t

theorem modBank_A (s : State) (b : Nat) (f : Bank → Bank) : (modBank s b false f).bake b = { s.bake b with bankA := f (s.bake b).bankA } :=
  State.modBake_bake_same ..

theorem modBank_B (s : State) (b : Nat) (f : Bank → Bank) : (modBank s b true f).bake b = { s.bake b with bankB := f (s.bake b).bankB } :=
  State.modBake_bake_same ..

theorem startDue_none (h : (s.bake b).bankDue = none) : startDue s b = s := by
  rw [startDue, h]

theorem bankHostCopyComplete_eq {areaB : Bool} (ok : Bool) (h1 : 1 ≤ b) (h64 : b ≤ 64)
    (h : ([false, true].find? fun a => decide ((bankOf' (s.bake b) a).state = 3)) = some areaB) :
    exec (.bankHostCopyComplete b ok) s = .next (
      if ok then (if bankCopying s b areaB true then s else startDue (modBank s b areaB fun x => { x with state := 4 }) b)
      else if !bankStuck s b areaB then s
      else startDue (raiseS ((modBank s b areaB fun x => { x with state := 5 }).modDmas fun l =>
        l.filter fun d => !(decide (d.slot = b) && decide (d.use = .hostCopy areaB))) 0x6021 b 2 (if areaB then 2 else 1)) b) := by
  refine (onSlot_64 h1 h64).trans (congrArg Host.Outcome.next ?_)
  rw [h]

theorem bankHostCopyComplete_none {ok : Bool} (h1 : 1 ≤ b) (h64 : b ≤ 64)
    (ha : (s.bake b).bankA.state ≠ 3) (hb : (s.bake b).bankB.state ≠ 3) : exec (.bankHostCopyComplete b ok) s = .next s := by
  refine (onSlot_64 h1 h64).trans (congrArg Host.Outcome.next ?_)
  have h : ([false, true].find? fun a => decide ((bankOf' (s.bake b) a).state = 3)) = none :=
    List.find?_eq_none.mpr (by simpa [bankOf'] using ⟨ha, hb⟩)
  rw [h]

theorem find_bankA {p : Bool → Bool} (h : p false = true) : [false, true].find? p = some false := by
  rw [List.find?, h]

theorem find_bankB {p : Bool → Bool} (h : p false = false) (h' : p true = true) : [false, true].find? p = some true := by
  rw [List.find?, h]
  dsimp only
  rw [List.find?, h']

/-- Settles O45: a check by its votes, a bank copy by the descriptors it waits for. -/
theorem replicasAndBanksGuardABake : Obligations.ReplicasAndBanksGuardABake := by
  unfold Obligations.ReplicasAndBanksGuardABake
  refine ⟨⟨?_, ?_, ?_, ?_, ?_, ?_, ?_⟩, ?_, ?_, ?_, ?_, ?_, ?_, ?_, ?_⟩
  · intro s b h1 h64 ho hw hr
    obtain ⟨t, hx, hm, he⟩ := digestComplete_takes h1 h64 ho hw hr
    obtain ⟨k1, k2, k3⟩ := digestTaken_kept s b
    generalize digestTaken s b = v at *
    have hb (d : Nat) : t.bake d = v.bake d := by
      rw [hm]
      rfl
    refine ⟨t, hx, by rw [hb, k1], fun d hd => (hb d).trans (k2 d hd), ?_, ?_, fun h => he h ▸ k3⟩
    · rw [hm, k3]
    · rw [hm, k3]
  · exact fun s b h1 h64 h => digestComplete_no h1 h64 h
  · intro s b m r h1 h64 hm hg hk hp hj
    have hlate : ¬ (decide (r.j.toNat < (s.bake b).replica.j.toNat) || (decide (r.j = (s.bake b).replica.j) && !(s.bake b).replica.open_)) = true := by
      obtain hj | ⟨hj, ho⟩ := hj
      · have hne : r.j ≠ (s.bake b).replica.j := fun h => by rw [h] at hj; omega
        simp [hne]
        omega
      · simp [hj, ho]
    have hfor : ¬ (decide (r.group.toNat ≠ groupId s b) || decide (r.k.toNat ≠ groupK s b) || decide (r.gpfx ≠ graphPrefix (s.bake b)) ||
        decide (8 ≤ m)) = true := by
      simp [hg, hk, hp]
      omega
    refine ⟨_, (onSlot_64 h1 h64).trans (congrArg Host.Outcome.next ((if_neg hfor).trans (if_neg hlate))), ?_, ?_, ⟨rfl, rfl⟩, rfl⟩
    · rw [State.modBake_bake_same]
      exact List.mem_append_right _ List.mem_cons_self
    · rw [State.modBake_bake_same]
      intro e he hem
      obtain h | h := List.mem_append.mp he
      · exact absurd hem (of_decide_eq_true (List.mem_filter.mp h).2)
      · rw [List.mem_singleton.mp h]
  · intro s b m r h1 h64 h
    have hfor : (decide (r.group.toNat ≠ groupId s b) || decide (r.k.toNat ≠ groupK s b) || decide (r.gpfx ≠ graphPrefix (s.bake b)) ||
        decide (8 ≤ m)) = true := by
      obtain h | h | h := h <;> simp [h]
    obtain ⟨hb, he, hk, hf⟩ := reportDropped (s := s) (b := b) (fun q => { q with replica := { q.replica with foreign := q.replica.foreign + 1 } }) m
    exact ⟨_, (onSlot_64 h1 h64).trans (congrArg Host.Outcome.next (if_pos hfor)), congrArg Bake.replica hb, he, hk, hf⟩
  · intro s b m r h1 h64 hm hg hk hp hj
    have hfor : ¬ (decide (r.group.toNat ≠ groupId s b) || decide (r.k.toNat ≠ groupK s b) || decide (r.gpfx ≠ graphPrefix (s.bake b)) ||
        decide (8 ≤ m)) = true := by
      simp [hg, hk, hp]
      omega
    have hlate : (decide (r.j.toNat < (s.bake b).replica.j.toNat) || (decide (r.j = (s.bake b).replica.j) && !(s.bake b).replica.open_)) = true := by
      rw [decide_eq_true hj, Bool.true_or]
    obtain ⟨hb, he, -, hf⟩ := reportDropped (s := s) (b := b) (fun q => { q with replica := { q.replica with late := q.replica.late + 1 } }) m
    exact ⟨_, (onSlot_64 h1 h64).trans (congrArg Host.Outcome.next ((if_neg hfor).trans (if_pos hlate))), congrArg Bake.replica hb, he, hf⟩
  · exact fun s b w h1 h64 h => checkResolution_no h1 h64 h
  · intro s b w v h1 h64 ho hw hmiss hv
    obtain ⟨t, hx, hr, hs, hh, hf, hp⟩ := checkResolution_kept w h1 h64 ho hw hmiss
    refine ⟨t, hx, congrArg Replica.open_ hr, congrArg Replica.checks hr, congrArg Replica.counted hr, ?_, ?_, ?_, hh, hf, hp⟩
    · rintro rfl
      have hself := selfOdd_nil (oddMembers_none hv)
      rw [hr, hs, checkedReplica, hself, hv]
      exact ⟨rfl, rfl, Bool.or_false _⟩
    · rintro d rfl hall
      have hodd := oddMembers_agreed hv hall
      have hself := selfOdd_nil hodd
      rw [hr, hs, checkedReplica, hself, hodd, hv]
      exact ⟨rfl, rfl, rfl, BitVec.or_zero, rfl⟩
    · rintro d i rfl hi he
      have hself := selfOdd_odd hv hi he
      rw [hr, hs, checkedReplica, hself, hv]
      exact ⟨rfl, Bool.or_true _, rfl⟩
  · intro s b h1 h64 hst hc
    have hx := bankWhole_eq (s := s) h1 h64 (find_bankA (by rw [hc]; simpa [bankOf'] using hst))
    obtain ⟨hn, hr⟩ := bankRequested_kept s (wholeBank s b false) b false
    have hb := modBank_A s b fun x => { x with
      state := if (bankOf' (s.bake b) false).io.isEmpty then 2 else 3, at_ := micros s, digest := (bankDigest s b false).1 }
    change (wholeBank s b false).bake b = _ at hb
    have hw : wholeBank s b false = { s with baker := (wholeBank s b false).baker } := rfl
    generalize wholeBank s b false = v at *
    generalize bankRequested s v b false = t at *
    have htb : t.bake b = v.bake b := by
      rw [hr]
      rfl
    rw [hw] at hn
    refine ⟨t, hx, ?_, ?_, hn, ?_⟩
    · rw [htb, hb]
      rfl
    · rw [htb, hb]
    · rw [hr, hw]
  · intro s b h1 h64 ha hst hc
    have hx := bankWhole_eq (s := s) h1 h64 (find_bankB (Bool.and_eq_false_iff.mpr (.inl (decide_eq_false ha))) (by rw [hc]; simpa [bankOf'] using hst))
    obtain ⟨-, hr⟩ := bankRequested_kept s (wholeBank s b true) b true
    have hb := modBank_B s b fun x => { x with
      state := if (bankOf' (s.bake b) true).io.isEmpty then 2 else 3, at_ := micros s, digest := (bankDigest s b true).1 }
    change (wholeBank s b true).bake b = _ at hb
    have hw : wholeBank s b true = { s with baker := (wholeBank s b true).baker } := rfl
    generalize wholeBank s b true = v at *
    generalize bankRequested s v b true = t at *
    have htb : t.bake b = v.bake b := by
      rw [hr]
      rfl
    refine ⟨t, hx, ?_, ?_, ?_⟩
    · rw [htb, hb]
      rfl
    · rw [htb, hb]
    · rw [hr, hw]
  · intro s b h1 h64 ha hb
    refine (onSlot_64 h1 h64).trans (congrArg Host.Outcome.next ?_)
    have h : ([false, true].find? fun a => decide ((bankOf' (s.bake b) a).state = 1) && !bankCopying s b a false) = none :=
      List.find?_eq_none.mpr (by simpa [bankOf'] using ⟨fun h => absurd h ha, fun h => absurd h hb⟩)
    rw [h]
  · intro s b h1 h64 hst hc hd
    have hx := bankHostCopyComplete_eq (s := s) true h1 h64 (find_bankA (decide_eq_true hst))
    rw [if_pos rfl, hc, if_neg Bool.false_ne_true, startDue_none (by rw [modBank_A]; exact hd)] at hx
    exact hx
  · intro s b h1 h64 hst hc
    have hx := bankHostCopyComplete_eq (s := s) true h1 h64 (find_bankA (decide_eq_true hst))
    rw [if_pos rfl, hc, if_pos rfl] at hx
    exact hx
  · intro s b h1 h64 ha hst hc hd
    have hx := bankHostCopyComplete_eq (s := s) false h1 h64 (find_bankB (decide_eq_false ha) (decide_eq_true hst))
    rw [if_neg Bool.false_ne_true, hc, if_neg (by decide), if_pos rfl] at hx
    have hm := modBank_B s b fun x => { x with state := 5 }
    have hw : modBank s b true (fun x => { x with state := 5 }) = { s with baker := (modBank s b true fun x => { x with state := 5 }).baker } := rfl
    generalize modBank s b true (fun x => { x with state := 5 }) = v at *
    have hl : ∀ d ∈ (v.modDmas fun l => l.filter fun d => !(decide (d.slot = b) && decide (d.use = .hostCopy true))).ring.dmas,
        d.slot = b → d.use ≠ .hostCopy true := by
      intro d hdm hsl hu
      have hp := (List.mem_filter.mp hdm).2
      rw [hsl, hu] at hp
      simp at hp
    have hvd : (v.modDmas fun l => l.filter fun d => !(decide (d.slot = b) && decide (d.use = .hostCopy true))) =
        { s with baker := v.baker, ring := { s.ring with dmas := (v.modDmas fun l =>
          l.filter fun d => !(decide (d.slot = b) && decide (d.use = .hostCopy true))).ring.dmas } } := by
      rw [State.modDmas, hw]
    generalize (v.modDmas fun l => l.filter fun d => !(decide (d.slot = b) && decide (d.use = .hostCopy true))) = w at *
    have hz := raiseS_eq (s := w) 0x6021 b 2 2
    have hev := raiseS_event_of s (t := w) (by rw [hvd]) (by rw [hvd]) (by rw [hvd]) 0x6021 b 2 2
    have hk := raiseS_kept_of s (t := w) (by rw [hvd]) 0x6021 b 2 2
    generalize raiseS w 0x6021 b 2 2 = z at *
    have hzb : z.bake b = { s.bake b with bankB := { (s.bake b).bankB with state := 5 } } := by
      rw [← hm, hz, hvd]
      rfl
    rw [startDue_none (by rw [hzb]; exact hd)] at hx
    refine ⟨z, hx, hzb, ?_, hev, hk, ?_⟩
    · have hzr : z.ring = w.ring := by rw [hz]
      rw [hzr]
      exact hl
    · rw [hz, hvd]
  · intro s b h1 h64 ha hc
    by_cases hst : (s.bake b).bankB.state = 3
    · have hx := bankHostCopyComplete_eq (s := s) false h1 h64 (find_bankB (decide_eq_false ha) (decide_eq_true hst))
      rw [if_neg Bool.false_ne_true, hc, if_pos (by decide)] at hx
      exact hx
    · exact bankHostCopyComplete_none h1 h64 ha hst
  · exact fun s b ok h1 h64 ha hb => bankHostCopyComplete_none h1 h64 ha hb

end Sys2Proof.Machine

/-! #### Commits (R253, R280, R284, R461, R466) -/

namespace Sys2Proof.Machine

variable {s t u : State} {b : Nat} {i : U32} {x : Item}

/-! ##### The end of a step -/

theorem stepEnded_facts (h : stepEnded s b = true) : (s.bake b).state = 3 ∧ (s.bake b).committing = false := by
  unfold stepEnded at h
  simp only [Bool.and_eq_true, decide_eq_true_eq, Bool.not_eq_true'] at h
  exact ⟨h.1.1.1.1.1.1, h.1.1.1.1.2⟩

/-- The bake once the time its commit has waited is counted. -/
def waitCounted (s : State) (k : Bake) : Bake :=
  match k.waitFrom with
  | some a => { k with waitFrom := none, waitUs := k.waitUs + BitVec.ofNat 64 ((s.flue.cycle - a) / 1600) }
  | none => k

theorem waitCounted_frame (s : State) (k : Bake) :
    waitCounted s k = { k with waitFrom := (waitCounted s k).waitFrom, waitUs := (waitCounted s k).waitUs } := by
  unfold waitCounted
  split <;> rfl

theorem countWait_bake (s : State) (b : Nat) : (countWait s b).bake b = waitCounted s (s.bake b) := by
  rw [countWait, State.modBake_bake_same]
  rfl

theorem checkEntries_countWait (s : State) (b : Nat) : checkEntries (countWait s b) b = checkEntries s b := rfl

theorem entryTrips_countWait (s : State) (b : Nat) : entryTrips (countWait s b) b = entryTrips s b := by
  funext w
  unfold entryTrips
  rw [countWait_bake, waitCounted_frame]
  rfl

/-- The state with the events of the output check. -/
def checkRaised (s : State) (b : Nat) : State :=
  ((((checkEntries s b).filter (entryTrips s b)).filter fun w => decide (ckAction w = 1)).foldl
    (fun u w => raiseS u 0x6010 b 2 (ckTensor w)) (countWait s b))

theorem stepCommit_eq (h1 : 1 ≤ b) (h64 : b ≤ 64) (h : stepEnded s b = true) (hw : commitWaits (s.bake b) = false) :
    exec (.stepCommit b) s = .next (if ((checkEntries s b).filter (entryTrips s b)).any (fun w => decide (ckAction w = 2))
      then trigger (checkRaised s b) b 5 else beginCommit (checkRaised s b) b) := by
  refine (onSlot_64 h1 h64).trans (congrArg Host.Outcome.next ?_)
  rw [h, hw, if_neg (by decide), if_neg (by decide)]
  dsimp only
  rw [checkEntries_countWait, entryTrips_countWait]
  rfl

theorem checkRaised_none (h : (checkEntries s b).filter (entryTrips s b) = []) : checkRaised s b = countWait s b := by
  rw [checkRaised, h]
  rfl

theorem beginCommit_some (hi : (s.bake b).item = some i) : beginCommit s b =
    requestCopyOut ((writeAccept (modItem s (s.bake b).ring i fun x => { x with state := 2, epoch := (s.bake b).epoch }) (s.bake b).ring i).modBake b
      fun q => { q with committing := true }) b := by
  unfold beginCommit
  dsimp only
  rw [hi]

theorem requestCopyOut_kept (s : State) (b : Nat) : (requestCopyOut s b).ring.dmas.length = s.ring.dmas.length +
      ((s.bake b).io.filter fun e => decide (tnCls (tensorRow (s.bake b) e.1) = 4)).length ∧
    (∀ d ∈ s.ring.dmas, d ∈ (requestCopyOut s b).ring.dmas) ∧ (requestCopyOut s b).ring.rings = s.ring.rings ∧
    requestCopyOut s b = { s with ring := (requestCopyOut s b).ring } := by
  obtain ⟨h1, h2⟩ := requested_foldl (f := fun t e => requestWhole t (.copyOut e.1) b (tnSize (tensorRow (s.bake b) e.1))
    (tensorSide (s.bake b) e.1 false 0) (.host e.2)) (fun _ _ => oneRequested_requestWhole ..)
    ((s.bake b).io.filter fun e => decide (tnCls (tensorRow (s.bake b) e.1) = 4)) s
  refine ⟨h1, fun d hd => ?_, ?_, h2⟩
  · unfold requestCopyOut
    exact foldl_prop (p := fun u : State => d ∈ u.ring.dmas) (fun _ _ h => List.mem_append_left _ h) _ hd
  · unfold requestCopyOut
    dsimp only
    refine foldl_prop (p := fun u : State => u.ring.rings = s.ring.rings) (fun u e h => ?_) _ rfl
    exact h

/-- COMMITTING, and the copy-out asked for. -/
theorem beginCommit_kept (hi : (s.bake b).item = some i) (hg : getItem s (s.bake b).ring i = some x) :
    (beginCommit s b).bake b = { s.bake b with committing := true } ∧
    getItem (beginCommit s b) (s.bake b).ring i = some { x with state := 2, epoch := (s.bake b).epoch } ∧
    (beginCommit s b).ring.dmas.length = s.ring.dmas.length +
      ((s.bake b).io.filter fun e => decide (tnCls (tensorRow (s.bake b) e.1) = 4)).length ∧
    (∀ d ∈ s.ring.dmas, d ∈ (beginCommit s b).ring.dmas) ∧
    beginCommit s b = { s with baker := (beginCommit s b).baker, ring := (beginCommit s b).ring, host := (beginCommit s b).host } := by
  rw [beginCommit_some hi]
  have hm := getItem_modItem_same (f := fun x => { x with state := 2, epoch := (s.bake b).epoch }) (fun _ => rfl) hg
  have ha : RingHostAlone s (modItem s (s.bake b).ring i fun x => { x with state := 2, epoch := (s.bake b).epoch }) := ringHostAlone_modItem ..
  have hd : (modItem s (s.bake b).ring i fun x => { x with state := 2, epoch := (s.bake b).epoch }).ring.dmas = s.ring.dmas := rfl
  generalize modItem s (s.bake b).ring i (fun x => { x with state := 2, epoch := (s.bake b).epoch }) = m at *
  have hw := (getItem_congr (writeAccept_workRing (s := m) (s.bake b).ring i (s.bake b).ring) i).trans hm
  have hwa := ha.trans (ringHostAlone_writeAccept m (s.bake b).ring i)
  have hwr : (writeAccept m (s.bake b).ring i).ring = m.ring := (writeAccept_rest ..).2.2.2.2.2.2.2.2.2.1
  generalize writeAccept m (s.bake b).ring i = w at *
  obtain ⟨hb, -, hbf⟩ := bakeSet_modBake w b fun q => { q with committing := true }
  generalize (w.modBake b fun q => { q with committing := true }) = v at *
  obtain ⟨h1, h2, h3, h4⟩ := requestCopyOut_kept v b
  generalize requestCopyOut v b = z at *
  have hwb : w.bake b = s.bake b := by rw [State.bake, hwa.baker, State.bake]
  have hvr : v.ring = w.ring := by rw [hbf]
  rw [hwb] at hb
  rw [hb, hvr, hwr, hd] at h1
  refine ⟨?_, ?_, h1, fun d hdm => h2 d (by rw [hvr, hwr, hd]; exact hdm), ?_⟩
  · rw [h4, ← hb]
    rfl
  · exact (getItem_of_rings (h3.trans (by rw [hvr])) _ i).trans hw
  · rw [h4, hbf, hwa]

theorem trigger_kept (s : State) (b n : Nat) : n ∈ ((trigger s b n).bake b).triggers ∧ ((trigger s b n).bake b).committing = (s.bake b).committing ∧
    trigger s b n = { s with baker := (trigger s b n).baker } := by
  refine ⟨(mem_trigger s b n).1, ?_, rfl⟩
  rw [trigger, State.modBake_bake_same]

theorem eventsAlone_checkRaised (s : State) (b : Nat) : EventsAlone (countWait s b) (checkRaised s b) := by
  unfold checkRaised
  exact foldl_prop (p := EventsAlone (countWait s b)) (fun _ _ h => h.trans (eventsAlone_raiseS ..)) _ rfl

/-! ##### The completion boundary -/

theorem coresAlone_rebind (s : State) (b : Nat) : CoresAlone s (rebind s b) := by
  unfold rebind
  exact coresAlone_foldl (fun _ _ => coresAlone_modCore ..) _ s

theorem coresAlone_delayedScaling (s : State) (b : Nat) : CoresAlone s (delayedScaling s b) := by
  unfold delayedScaling
  refine CoresAlone.trans (coresAlone_foldl (fun u j => ?_) _ s) (coresAlone_clearAmax ..)
  dsimp only
  split
  · exact rfl
  · exact coresAlone_foldl (fun _ _ => coresAlone_modCore ..) _ u

/-- A channel at the completion boundary of a bake. -/
def channelKept (b : Nat) (e : Nat × Channel5) : Nat × Channel5 := if ceBake e.2.ent = b then (e.1, { e.2 with xseqC := e.2.xseq }) else e

theorem channelKept_fst (b : Nat) (e : Nat × Channel5) : (channelKept b e).1 = e.1 := by
  unfold channelKept
  split <;> rfl

theorem channelKept_xseq (b : Nat) (e : Nat × Channel5) : (channelKept b e).2.xseq = e.2.xseq := by
  unfold channelKept
  split <;> rfl

theorem xseq_channelsKept (b n : Nat) (m : SMap Channel5) : (mget {} (m.map (channelKept b)) n).xseq = (mget {} m n).xseq := by
  have h : (channelKept b (n, ({} : Channel5))).2 = {} := by
    unfold channelKept
    split <;> rfl
  rw [mget_map (channelKept_fst b) n h, channelKept_xseq]

/-- A bake at the completion boundary. -/
def turnedBake (k : Bake) : Bake := { k with swapped := !k.swapped, committed := k.committed + 1, linkRecv := [] }

/-- Views, counts and links turned over. -/
def turned (s : State) (b : Nat) : State :=
  let t := s.modBake b turnedBake
  { t with links := { t.links with chans := t.links.chans.map (channelKept b) } }

theorem turnOver_eq (s : State) (b : Nat) : turnOver s b = rebind (turned (delayedScaling (takeGains s b true) b) b) b := by
  unfold turnOver turned
  rfl

theorem turned_kept (s : State) (b : Nat) : (turned s b).bake b = turnedBake (s.bake b) ∧
    turned s b = { s with baker := (turned s b).baker, links := { s.links with chans := s.links.chans.map (channelKept b) } } :=
  ⟨State.modBake_bake_same .., rfl⟩

theorem turnOver_kept (s : State) (b : Nat) :
    (∃ ts bl, (turnOver s b).bake b = turnedBake { s.bake b with tstats := ts, baseline := bl }) ∧
    (∀ n, ((turnOver s b).channel n).xseq = (s.channel n).xseq) ∧
    turnOver s b = { s with
      cores := (turnOver s b).cores, baker := (turnOver s b).baker, links := { s.links with chans := (turnOver s b).links.chans } } := by
  obtain ⟨hg, -, hgf⟩ := takeGains_kept s b true
  have hd := coresAlone_delayedScaling (takeGains s b true) b
  rw [turnOver_eq]
  generalize takeGains s b true = g at *
  generalize delayedScaling g b = v at *
  obtain ⟨hm, hmf⟩ := turned_kept v b
  have hr := coresAlone_rebind (turned v b) b
  generalize turned v b = w at *
  generalize rebind w b = z at *
  unfold CoresAlone at hd hr
  have hzb : z.bake b = w.bake b := by
    rw [hr]
    rfl
  have hvb : v.bake b = g.bake b := by
    rw [hd]
    rfl
  have hzl : z.links = { s.links with chans := s.links.chans.map (channelKept b) } := by rw [hr, hmf, hd, hgf]
  refine ⟨⟨_, _, by rw [hzb, hm, hvb, hg]⟩, fun n => ?_, ?_⟩
  · rw [State.channel, hzl]
    exact xseq_channelsKept ..
  · rw [hr, hmf, hd, hgf]

/-! ##### What a commit starts -/

/-- The checks and banks that a commit starts have begun. -/
def GuardsBegun (s t : State) (b : Nat) : Prop :=
  (∃ r x y io due, t.bake b = { s.bake b with replica := r, bankA := x, bankB := y, bankIo := io, bankDue := due }) ∧
  t.ring.rings = s.ring.rings ∧ t = { s with cores := t.cores, baker := t.baker, ring := t.ring }

theorem GuardsBegun.trans (h : GuardsBegun s t b) (k : GuardsBegun t u b) : GuardsBegun s u b := by
  obtain ⟨⟨r, x, y, io, due, hb⟩, hr, hf⟩ := h
  obtain ⟨⟨r', x', y', io', due', hb'⟩, hr', hf'⟩ := k
  refine ⟨⟨r', x', y', io', due', by rw [hb', hb]⟩, hr'.trans hr, ?_⟩
  rw [hf', hf]

theorem guardsBegun_refl (s : State) (b : Nat) : GuardsBegun s s b := ⟨⟨_, _, _, _, _, rfl⟩, rfl, rfl⟩

theorem guardsBegun_cores (h : CoresAlone s t) : GuardsBegun s t b := by
  refine ⟨⟨(s.bake b).replica, (s.bake b).bankA, (s.bake b).bankB, (s.bake b).bankIo, (s.bake b).bankDue, ?_⟩, ?_, ?_⟩
  · rw [h]
    rfl
  · rw [h]
  · rw [h]

theorem guardsBegun_modBake {f : Bake → Bake} (h : ∃ r x y io due, f (s.bake b) =
    { s.bake b with replica := r, bankA := x, bankB := y, bankIo := io, bankDue := due }) : GuardsBegun s (s.modBake b f) b := by
  obtain ⟨r, x, y, io, due, h⟩ := h
  exact ⟨⟨r, x, y, io, due, (State.modBake_bake_same ..).trans h⟩, rfl, rfl⟩

theorem guardsBegun_startCheck (s : State) (b : Nat) : GuardsBegun s (startCheck s b) b := by
  unfold startCheck
  dsimp only
  split
  · have hc : CoresAlone s (startDigest s b) := by
      unfold startDigest
      refine coresAlone_foldl (fun u j => ?_) _ s
      split <;> rfl
    exact (guardsBegun_cores hc).trans (guardsBegun_modBake ⟨_, _, _, _, _, rfl⟩)
  · exact guardsBegun_refl ..

theorem guardsBegun_modBank (s : State) (b : Nat) (a : Bool) (f : Bank → Bank) : GuardsBegun s (modBank s b a f) b := by
  unfold modBank
  cases a
  · exact guardsBegun_modBake ⟨_, _, _, _, _, rfl⟩
  · exact guardsBegun_modBake ⟨_, _, _, _, _, rfl⟩

theorem guardsBegun_requestWhole (s : State) (use : DmaUse) (d n b : Nat) (src dst : Side) : GuardsBegun s (requestWhole s use d n src dst) b :=
  ⟨⟨(s.bake b).replica, (s.bake b).bankA, (s.bake b).bankB, (s.bake b).bankIo, (s.bake b).bankDue, rfl⟩, rfl, rfl⟩

theorem guardsBegun_startBank (s : State) (b : Nat) (a : Bool) : GuardsBegun s (startBank s b a) b := by
  unfold startBank
  dsimp only
  split
  · exact guardsBegun_modBake ⟨_, _, _, _, _, rfl⟩
  · refine foldl_prop (p := fun u => GuardsBegun s u b) (fun u j h => h.trans (guardsBegun_requestWhole ..)) _ ?_
    refine GuardsBegun.trans (guardsBegun_modBank ..) (guardsBegun_modBake ?_)
    exact ⟨_, _, _, _, _, rfl⟩

/-- The checks and banks after a commit. -/
def guarded (s : State) (b : Nat) : State :=
  let t := startCheck s b
  if bankWanted t b then
    let t := t.modBake b fun q => { q with bankIo := q.io.filter fun e => isState (tensorRow q e.1) }
    startBank t b (bankArea (t.bake b))
  else t

theorem guardsBegun_guarded (s : State) (b : Nat) : GuardsBegun s (guarded s b) b := by
  unfold guarded
  dsimp only
  split
  · exact ((guardsBegun_startCheck s b).trans (guardsBegun_modBake ⟨_, _, _, _, _, rfl⟩)).trans (guardsBegun_startBank ..)
  · exact guardsBegun_startCheck ..

/-- The item COMMITTED, the views turned over, and its completion. -/
def committedItem (s : State) (b : Nat) (i : U32) : State :=
  let k := s.bake b
  let t := writeAccept (turnOver (modItem s k.ring i fun x => { x with state := 3 }) b) k.ring i
  endItem t k.ring i 0 (BitVec.ofNat 128 (k.epoch.toNat + 2 ^ 32 * (t.bake b).committed.toNat))

/-- A bake whose step is committed. -/
def restedBake (k : Bake) : Bake := { k with item := none, committing := false, state := idleState k }

theorem copyOutComplete_eq (h1 : 1 ≤ b) (h64 : b ≤ 64) (hi : (s.bake b).item = some i) (hc : (s.bake b).committing = true)
    (ho : copyingOut s b = false) (hr : fenceRows (s.bake b) = []) :
    exec (.copyOutComplete b) s = .next (switchNext ((guarded (committedItem s b i) b).modBake b restedBake) b) := by
  refine (onSlot_64 h1 h64).trans (congrArg Host.Outcome.next ?_)
  dsimp only
  rw [hi]
  dsimp only
  rw [hc, ho, hr, if_neg (by decide)]
  rfl

theorem committedItem_kept (hg : getItem s (s.bake b).ring i = some x) (hs : x.status = none) :
    (∃ ts bl, (committedItem s b i).bake b = turnedBake { s.bake b with tstats := ts, baseline := bl }) ∧
    getItem (committedItem s b i) (s.bake b).ring i = some { x with
      state := 3, status := some (0, BitVec.ofNat 128 ((s.bake b).epoch.toNat + 2 ^ 32 * ((s.bake b).committed + 1).toNat)) } ∧
    (∀ n, ((committedItem s b i).channel n).xseq = (s.channel n).xseq) ∧
    committedItem s b i = { s with
      cores := (committedItem s b i).cores, baker := (committedItem s b i).baker, ring := (committedItem s b i).ring
      host := (committedItem s b i).host, links := { s.links with chans := (committedItem s b i).links.chans } } := by
  have hm := getItem_modItem_same (f := fun x => { x with state := 3 }) (fun _ => rfl) hg
  have ha : RingHostAlone s (modItem s (s.bake b).ring i fun x => { x with state := 3 }) := ringHostAlone_modItem ..
  unfold committedItem
  dsimp only
  generalize modItem s (s.bake b).ring i (fun x => { x with state := 3 }) = m at *
  obtain ⟨⟨ts, bl, hb⟩, hx, hf⟩ := turnOver_kept m b
  have hmb : m.bake b = s.bake b := by rw [State.bake, ha.baker, State.bake]
  rw [hmb] at hb
  generalize turnOver m b = v at *
  have hvr : v.ring = m.ring := by rw [hf]
  have hw := (getItem_congr (writeAccept_workRing (s := v) (s.bake b).ring i (s.bake b).ring) i).trans
    ((getItem_of_rings (congrArg RingEngine.rings hvr) _ i).trans hm)
  have hwa := ringHostAlone_writeAccept v (s.bake b).ring i
  generalize writeAccept v (s.bake b).ring i = w at *
  have hwb : w.bake b = v.bake b := by rw [State.bake, hwa.baker, State.bake]
  have hn : (w.bake b).committed = (s.bake b).committed + 1 := by
    rw [hwb, hb]
    rfl
  rw [hn]
  have he := getItem_endItem_done hw hs (.inl rfl) (BitVec.ofNat 128 ((s.bake b).epoch.toNat + 2 ^ 32 * ((s.bake b).committed + 1).toNat))
  have hea := hwa.trans (ringHostAlone_endItem w (s.bake b).ring i 0
    (BitVec.ofNat 128 ((s.bake b).epoch.toNat + 2 ^ 32 * ((s.bake b).committed + 1).toNat)))
  generalize endItem w (s.bake b).ring i 0 (BitVec.ofNat 128 ((s.bake b).epoch.toNat + 2 ^ 32 * ((s.bake b).committed + 1).toNat)) = z at *
  have hsc (n : Nat) : m.channel n = s.channel n := by
    rw [ha]
    rfl
  have hzc (n : Nat) : z.channel n = v.channel n := by
    rw [hea]
    rfl
  refine ⟨⟨ts, bl, by rw [State.bake, hea.baker, ← hb, State.bake]⟩, he, fun n => by rw [hzc, hx, hsc], ?_⟩
  rw [hea, hf, ha]

theorem switchNext_none (h : (s.bake b).nextPlace = none) : switchNext s b = s := by
  rw [switchNext, h]

theorem copyOutComplete_no (h1 : 1 ≤ b) (h64 : b ≤ 64) (h : (s.bake b).item = none ∨ (s.bake b).committing = false ∨ copyingOut s b = true ∨
    fenceRows (s.bake b) ≠ []) : exec (.copyOutComplete b) s = .next s := by
  refine (onSlot_64 h1 h64).trans (congrArg Host.Outcome.next ?_)
  dsimp only
  split
  · rfl
  · next i hi =>
    refine if_pos ?_
    obtain h | h | h | h := h
    · exact absurd (h.symm.trans hi) (Option.some_ne_none i).symm
    · rw [h]
      rfl
    · rw [h, Bool.or_true]
      rfl
    · rw [List.isEmpty_eq_false_iff.mpr h]
      exact Bool.or_true _

/-- Settles O41: by what the commit must still wait for, then by the exchange of the views. -/
theorem commitsExchangeTheViews : Obligations.CommitsExchangeTheViews := by
  unfold Obligations.CommitsExchangeTheViews
  refine ⟨?_, ?_, ?_, ?_, ?_, ?_⟩
  · intro s b h1 h64 h
    exact (onSlot_64 h1 h64).trans (congrArg Host.Outcome.next (if_pos (by rw [h]; rfl)))
  · intro s b h1 h64 h hw
    exact (onSlot_64 h1 h64).trans (congrArg Host.Outcome.next ((if_neg (by rw [h]; decide)).trans (if_pos hw)))
  · intro s b i x h1 h64 h hw hno hi hg
    obtain ⟨hst, -⟩ := stepEnded_facts h
    have hx := stepCommit_eq h1 h64 h hw
    rw [hno, if_neg (by decide), checkRaised_none hno] at hx
    have hb := countWait_bake s b
    rw [waitCounted_frame] at hb
    have hf : countWait s b = { s with baker := (countWait s b).baker } := rfl
    generalize countWait s b = v at *
    have hvr : v.ring = s.ring := by rw [hf]
    have hva : v.aon = s.aon := by rw [hf]
    have hgv : getItem v (v.bake b).ring i = some x := by
      rw [hb]
      exact (getItem_of_rings (congrArg RingEngine.rings hvr) _ i).trans hg
    obtain ⟨k1, k2, k3, k4, k5⟩ := beginCommit_kept (s := v) (b := b) (by rw [hb]; exact hi) hgv
    generalize beginCommit v b = z at *
    have hza : z.aon = s.aon := by rw [k5, hva]
    rw [hb] at k1 k2 k3
    rw [hvr] at k3 k4
    refine ⟨z, hx, ?_, ?_, ?_, ?_, ?_, k2, k3, k4, ⟨by rw [hza], by rw [hza]⟩, ?_⟩
    · rw [k1]
    · rw [k1]
      exact hst
    · rw [k1]
      exact hi
    · rw [k1]
    · rw [k1]
    · rw [k5, hf]
  · intro s b w h1 h64 h hw hin htr hact
    obtain ⟨-, hcm⟩ := stepEnded_facts h
    have hany : ((checkEntries s b).filter (entryTrips s b)).any (fun w => decide (ckAction w = 2)) = true :=
      List.any_eq_true.mpr ⟨w, List.mem_filter.mpr ⟨hin, htr⟩, decide_eq_true hact⟩
    have hx := stepCommit_eq h1 h64 h hw
    rw [if_pos hany] at hx
    have he := eventsAlone_checkRaised s b
    have hb := countWait_bake s b
    rw [waitCounted_frame] at hb
    have hf : countWait s b = { s with baker := (countWait s b).baker } := rfl
    generalize checkRaised s b = v at *
    generalize countWait s b = c at *
    have hvb := he.bake b
    unfold EventsAlone at he
    obtain ⟨k1, k2, k3⟩ := trigger_kept v b 5
    refine ⟨_, hx, k1, ?_, ?_, ?_⟩
    · rw [k2, hvb, hb]
      exact hcm
    · rw [k3, he, hf]
    · rw [k3, he, hf]
  · intro s b i x h1 h64 hi hg hs hc ho hr hn
    have hx := copyOutComplete_eq h1 h64 hi hc ho hr
    obtain ⟨⟨ts, bl, hb⟩, hgi, hxs, hf⟩ := committedItem_kept (b := b) hg hs
    generalize committedItem s b i = v at *
    obtain ⟨⟨r, y, z, io, due, hgb⟩, hgr, hgf⟩ := guardsBegun_guarded v b
    generalize guarded v b = w at *
    obtain ⟨hm, -, hmf⟩ := bakeSet_modBake w b restedBake
    generalize w.modBake b restedBake = u at *
    rw [hgb, hb] at hm
    rw [switchNext_none (by rw [hm]; exact hn)] at hx
    have hur : u.ring.rings = v.ring.rings := by rw [hmf, hgr]
    have huc (n : Nat) : u.channel n = v.channel n := by
      rw [hmf, hgf]
      rfl
    refine ⟨u, hx, ?_, ?_, ?_, ?_, ?_, ?_, (getItem_of_rings hur _ i).trans hgi, fun n => by rw [huc, hxs], ?_⟩
    · rw [hm]
      rfl
    · rw [hm]
      rfl
    · rw [hm]
      rfl
    · rw [hm]
      rfl
    · rw [hm]
      rfl
    · rw [hm]
      rfl
    · rw [hmf, hgf, hf]
  · exact fun s b h1 h64 h => copyOutComplete_no h1 h64 h

end Sys2Proof.Machine

/-! #### Bakes on their cores: what the Baker's operations leave as it was (R117, R158, R263) -/

namespace Sys2Proof.Machine

variable {s t u : State} {b : Nat}

/-- Cores, routers, the rings' signals and requests and the stacks have changed: the numbering of every sequencer, the bakes and the
ledgers have not. -/
def Reseated (s t : State) : Prop :=
  (∀ c, (t.core c).seq.order = (s.core c).seq.order ∧ (t.core c).seq.attempt = (s.core c).seq.attempt) ∧
  t.ring.rings = s.ring.rings ∧
  t = { s with cores := t.cores, flue := { s.flue with routers := t.flue.routers }, ring := t.ring, hbm := t.hbm }

theorem Reseated.refl (s : State) : Reseated s s := ⟨fun _ => ⟨rfl, rfl⟩, rfl, rfl⟩

theorem Reseated.trans (h : Reseated s t) (k : Reseated t u) : Reseated s u := by
  obtain ⟨hc, hr, hf⟩ := h
  obtain ⟨kc, kr, kf⟩ := k
  refine ⟨fun c => ⟨(kc c).1.trans (hc c).1, (kc c).2.trans (hc c).2⟩, kr.trans hr, ?_⟩
  rw [kf, hf]

theorem Reseated.baker (h : Reseated s t) : t.baker = s.baker := by
  obtain ⟨-, -, hf⟩ := h
  rw [hf]

theorem Reseated.bake (h : Reseated s t) (d : Nat) : t.bake d = s.bake d := by rw [State.bake, h.baker, State.bake]

theorem reseated_foldl {α : Type} {f : State → α → State} (h : ∀ u x, Reseated u (f u x)) (l : List α) (s : State) : Reseated s (l.foldl f s) :=
  foldl_prop (p := Reseated s) (fun u x k => k.trans (h u x)) l (.refl s)

/-- A change of a core that keeps the numbering of its sequencer. -/
def KeepsNumbers (f : Core → Core) : Prop := ∀ k, (f k).seq.order = k.seq.order ∧ (f k).seq.attempt = k.seq.attempt

theorem reseated_modCore {f : Core → Core} (h : KeepsNumbers f) (s : State) (c : CoreId) : Reseated s (s.modCore c f) := by
  refine ⟨fun d => ?_, rfl, rfl⟩
  rw [State.modCore_core]
  split
  · next hd => rw [hd]; exact h _
  · exact ⟨rfl, rfl⟩

theorem reseated_syncAlone (h : SyncAlone s t) : Reseated s t := by
  obtain ⟨hf, hc, hr⟩ := h
  refine ⟨fun c => ?_, by rw [hr], ?_⟩
  · rw [hc]
    exact ⟨rfl, rfl⟩
  · rw [hf]

theorem reseated_modRouter (s : State) (p : Site) (f : Router → Router) : Reseated s (s.modRouter p f) := ⟨fun _ => ⟨rfl, rfl⟩, rfl, rfl⟩

theorem reseated_requestWhole (s : State) (use : DmaUse) (b n : Nat) (src dst : Side) : Reseated s (requestWhole s use b n src dst) :=
  ⟨fun _ => ⟨rfl, rfl⟩, rfl, rfl⟩

theorem reseated_stackWrite (s : State) (a : Nat) (w : U64 × Bool) : Reseated s (stackWrite s a w) := by
  unfold stackWrite
  split
  · exact .refl s
  · exact ⟨fun _ => ⟨rfl, rfl⟩, rfl, rfl⟩

theorem reseated_copyWrite (s : State) (b : Nat) (x : Side) (w : U64 × Bool) : Reseated s (copyWrite s b x w) := by
  cases x with
  | pad c a => exact reseated_modCore (f := fun k => k.writeWord 5 (a / 8) w.1 w.2) (fun _ => ⟨rfl, rfl⟩) s c
  | tens j v o => exact reseated_stackWrite ..
  | area o n => exact reseated_stackWrite ..
  | host d => exact .refl s

theorem readWord_seq (k : Core) (c w : Nat) : (k.readWord c w).2.1.seq = k.seq := by
  unfold Core.readWord
  dsimp only
  repeat' split
  all_goals rfl

theorem reseated_copyRead (s : State) (b : Nat) (x : Side) : Reseated s (copyRead s b x).2 := by
  have hstack (a : Nat) : Reseated s (stackRead s a []).2 := by
    rw [stackRead_calm]
    exact .refl s
  cases x with
  | pad c a =>
    refine ⟨fun d => ?_, rfl, rfl⟩
    show ((s.modCore c fun _ => ((s.core c).readWord 5 (a / 8)).2.1).core d).seq.order = _ ∧ _
    have hs : ((s.modCore c fun _ => ((s.core c).readWord 5 (a / 8)).2.1).core d).seq = (s.core d).seq := by
      rw [State.modCore_core]
      split
      · next hd => rw [hd, readWord_seq]
      · rfl
    exact ⟨congrArg Sequencer.order hs, congrArg Sequencer.attempt hs⟩
  | tens j v o => exact hstack _
  | area o n => exact hstack _
  | host d => exact .refl s

theorem reseated_readGo (b : Nat) (side : Nat → Side) (s : State) (n : Nat) : Reseated s (readGo b side s n).2 := by
  unfold readGo
  exact foldl_prop (p := fun a : List (U64 × Bool) × State => Reseated s a.2) (fun a i h => h.trans (reseated_copyRead ..)) _ (.refl s)

theorem reseated_viewWords (s : State) (b j : Nat) (nx : Bool) : Reseated s (viewWords s b j nx).2 := reseated_readGo ..

theorem reseated_gather (s : State) (b : Nat) (refill : Bool) : Reseated s (gather s b refill).2 := by
  unfold gather
  exact foldl_prop (p := fun a : List (Nat × Bool × List (U64 × Bool)) × State => Reseated s a.2)
    (fun a v h => h.trans (reseated_viewWords ..)) _ (.refl s)

theorem reseated_scatter (s : State) (b : Nat) (l : List (Nat × Bool × List (U64 × Bool))) : Reseated s (scatter s b l) := by
  unfold scatter
  exact reseated_foldl (fun u e => reseated_foldl (fun v w => reseated_copyWrite ..) _ u) _ s

theorem reseated_scatterSlots (s : State) (b : Nat) (l : List (Nat × Nat × StatSlot)) : Reseated s (scatterSlots s b l) := by
  unfold scatterSlots
  refine reseated_foldl (fun u e => reseated_modCore (fun k => ?_) ..) _ s
  exact ⟨rfl, rfl⟩

theorem reseated_clearCores (s : State) (b : Nat) : Reseated s (clearCores s b) := by
  unfold clearCores
  refine reseated_foldl (fun u c => reseated_modCore (fun k => ?_) ..) _ s
  split <;> exact ⟨rfl, rfl⟩

theorem reseated_writeEpoch (s : State) (n : Nat) (e : U32) : Reseated s (writeEpoch s n e) := by
  unfold writeEpoch
  refine reseated_foldl (fun u c => ?_) _ s
  have h := reseated_modCore (f := fun k => k.modIsland fun r => { r with tenant := BitVec.ofNat 8 n, epoch := e }) (fun _ => ⟨rfl, rfl⟩) u c
  dsimp only
  split
  · exact h.trans (reseated_modRouter ..)
  · exact h

theorem reseated_installPhase (s : State) (b ph : Nat) : Reseated s (installPhase s b ph) := by
  unfold installPhase
  refine reseated_foldl (fun u e => ?_) _ s
  unfold installCore
  refine reseated_modCore (fun k => ?_) ..
  exact ⟨rfl, rfl⟩

theorem reseated_startPhase (s : State) (b ph : Nat) : Reseated s (startPhase s b ph) := by
  unfold startPhase
  refine reseated_foldl (fun u e => reseated_modCore (fun k => ?_) ..) _ s
  exact ⟨rfl, rfl⟩

theorem reseated_putSchedule (s : State) (n : Nat) (e : U32) (p : Placement) (ph c0 : Nat) (w : Bool) : Reseated s (putSchedule s n e p ph c0 w) := by
  unfold putSchedule
  split
  · exact .refl s
  · exact reseated_foldl (fun u site => reseated_modRouter ..) _ s

theorem reseated_initSyncs (s : State) (b : Nat) : Reseated s (initSyncs s b) := reseated_syncAlone (syncAlone_initSyncs s b)

theorem reseated_initShared (s : State) (b ph : Nat) : Reseated s (initShared s b ph) := by
  unfold initShared
  refine reseated_foldl (fun u e => ?_) _ s
  dsimp only
  split
  · exact reseated_syncAlone (syncAlone_setSyncObj ..)
  · exact .refl u

theorem reseated_deliverCarried (s : State) (b ph : Nat) : Reseated s (deliverCarried s b ph) := by
  unfold deliverCarried
  refine reseated_foldl (fun u e => ?_) _ s
  dsimp only
  split
  · refine Reseated.trans (reseated_modCore (fun k => ?_) ..) (reseated_syncAlone (syncAlone_signalObj ..))
    exact ⟨rfl, rfl⟩
  · exact .refl u

theorem reseated_writeBounds (s : State) (b : Nat) : Reseated s (writeBounds s b) := by
  unfold writeBounds
  dsimp only
  refine Reseated.trans (reseated_foldl (fun u j => ?_) (countedTensors (s.bake b)) s) (reseated_foldl (fun u w => ?_) _ _)
  · refine reseated_foldl (fun v e => reseated_modCore (fun k => ?_) ..) _ u
    exact ⟨rfl, rfl⟩
  · refine reseated_foldl (fun v e => reseated_modCore (fun k => ?_) ..) _ u
    exact ⟨rfl, rfl⟩

theorem reseated_requestFills (s : State) (b : Nat) (pick : Nat → Bool) : Reseated s (requestFills s b pick) := by
  unfold requestFills
  refine reseated_foldl (fun u e => ?_) _ s
  split
  · exact reseated_requestWhole ..
  · exact .refl u

theorem reseated_copyBytes (s : State) (b n : Nat) (src dst : Nat → Side) : Reseated s (copyBytes s b n src dst) := by
  unfold copyBytes
  exact reseated_foldl (fun u i => (reseated_copyRead ..).trans (reseated_copyWrite ..)) _ s

theorem reseated_swapPhase (s : State) (b ph : Nat) (out : Bool) : Reseated s (swapPhase s b ph out) := by
  unfold swapPhase
  have hcopy (u : State) (j : Nat) (src dst : Nat → Side) : Reseated u (copyView u b j src dst) := reseated_copyBytes ..
  refine reseated_foldl (fun u j => ?_) _ s
  cases out <;> dsimp only [Bool.false_eq_true, if_true, if_false]
  all_goals split
  · exact (hcopy ..).trans (hcopy ..)
  · exact hcopy ..
  · exact (hcopy ..).trans (hcopy ..)
  · exact hcopy ..

/-! ##### A bake seated anew -/

/-- From `s` to `t` the bake `b` has become `k`, and what else has changed is what `Reseated` allows. -/
def Seated (s t : State) (b : Nat) (k : Bake) : Prop :=
  t.bake b = k ∧ (∀ c, (t.core c).seq.order = (s.core c).seq.order ∧ (t.core c).seq.attempt = (s.core c).seq.attempt) ∧
  t.ring.rings = s.ring.rings ∧
  t = { s with
    cores := t.cores, flue := { s.flue with routers := t.flue.routers }, baker := { s.baker with slots := t.baker.slots }, ring := t.ring
    hbm := t.hbm }

theorem Seated.trans {k l : Bake} (h : Seated s t b k) (g : Seated t u b l) : Seated s u b l := by
  obtain ⟨-, hc, hr, hf⟩ := h
  obtain ⟨gb, gc, gr, gf⟩ := g
  refine ⟨gb, fun c => ⟨(gc c).1.trans (hc c).1, (gc c).2.trans (hc c).2⟩, gr.trans hr, ?_⟩
  rw [gf, hf]

theorem seated_modBake (s : State) (b : Nat) (f : Bake → Bake) : Seated s (s.modBake b f) b (f (s.bake b)) :=
  ⟨State.modBake_bake_same .., fun _ => ⟨rfl, rfl⟩, rfl, rfl⟩

theorem Reseated.seated (h : Reseated s t) (b : Nat) : Seated s t b (s.bake b) := by
  refine ⟨h.bake b, h.1, h.2.1, ?_⟩
  rw [h.2.2]

/-- A change of the bake's record, then of its cores. -/
theorem seated_then {f : Bake → Bake} (h : Reseated (s.modBake b f) t) : Seated s t b (f (s.bake b)) := by
  have g := (seated_modBake s b f).trans (h.seated b)
  rwa [State.modBake_bake_same] at g

/-- A bake placed on its cores. -/
def placedBake (p : Placement) (k : Bake) : Bake :=
  { k with
    place := some p, phase := 1, begun := false, carried := [], nextPlace := none, longest := p.streams.foldl (fun a e => max a e.cycles) 0 }

theorem reseated_install (s : State) (b : Nat) (p : Placement) : Reseated (s.modBake b (placedBake p)) (install s b p) :=
  (((reseated_putSchedule ..).trans (reseated_writeEpoch ..)).trans (reseated_installPhase ..)).trans (reseated_initSyncs ..)

theorem newBaseline_kept (s : State) (b : Nat) : ∃ l, Seated s (newBaseline s b) b { s.bake b with baseline := l } :=
  ⟨_, seated_modBake s b _⟩

end Sys2Proof.Machine

/-! #### Migrations and changes of phase (R252, R263, R264, R266) -/

namespace Sys2Proof.Machine

variable {s t u : State} {b : Nat}

theorem settled_frame (s : State) (b n m : Nat) (p : Placement) :
    (settled s b n m p).2 = { s with baker := { s.baker with made := (settled s b n m p).2.baker.made } } := by
  unfold settled
  dsimp only
  split <;> rfl

/-! ##### Migrations -/

theorem migrationSwitch_switches {p q : Placement} (h1 : 1 ≤ b) (h64 : b ≤ 64) (hm : (s.bake b).migTo ≠ 0) (hmay : mayMigrate (s.bake b) = true)
    (hn : needsPlace s (s.bake b) = false) (he : (s.bake b).absorbed = true ∨ epochFree s = true) (hc : s.flue.cutOff = false)
    (hr : rectOf s (s.bake b).migTo.toNat ≠ none)
    (hq : (settled s b (s.bake b).migTo.toNat (phMaxph (s.bake b).pkg.hdr) p).1 = q)
    (hp : placementOk s b (s.bake b).migTo.toNat (phMaxph (s.bake b).pkg.hdr) (s.bake b).pkg q = true) :
    exec (.migrationSwitch b p) s = .next (switchBake (settled s b (s.bake b).migTo.toNat (phMaxph (s.bake b).pkg.hdr) p).2 b q) := by
  subst hq
  exact (onSlot_64 h1 h64).trans (congrArg Host.Outcome.next (if_pos ⟨hm, hmay, hn, he, hc, hr, hp⟩))

theorem migrationSwitch_no {p : Placement} (h1 : 1 ≤ b) (h64 : b ≤ 64) (h : (s.bake b).migTo = 0 ∨ mayMigrate (s.bake b) = false ∨
    needsPlace s (s.bake b) = true ∨ ((s.bake b).absorbed = false ∧ epochFree s = false) ∨ s.flue.cutOff = true) :
    exec (.migrationSwitch b p) s = .next s := by
  refine (onSlot_64 h1 h64).trans (congrArg Host.Outcome.next (if_neg ?_))
  rintro ⟨hm, hmay, hn, he, hc, -, -⟩
  obtain h | h | h | ⟨ha, hf⟩ | h := h
  · exact hm h
  · exact Bool.false_ne_true (h.symm.trans hmay)
  · exact Bool.false_ne_true (hn.symm.trans h)
  · exact he.elim (fun h => Bool.false_ne_true (ha.symm.trans h)) fun h => Bool.false_ne_true (hf.symm.trans h)
  · exact Bool.false_ne_true (hc.symm.trans h)

/-- The bake under a new epoch, its DMA dropped. -/
def departed (s : State) (b : Nat) : State := dropDmas ((takeEpoch s).2.modBake b fun q => { q with epoch := (takeEpoch s).1 }) b

/-- A bake that has switched to its migration's target. -/
def switchedBake (q : Bake) : Bake :=
  { q with
    tenant := q.migTo, migTo := 0, migDrain := false, absorbed := false, triggers := q.triggers.filter fun r => decide (r = 4) || decide (r = 8) }

/-- A departed bake on the cores of its new rectangle. -/
def resettled (d : State) (b n : Nat) (p : Placement) : State :=
  let g := gather d b false
  let h := gatherSlots d b
  let t := (writeEpoch (clearCores g.2 b) n (d.bake b).epoch).modBake b switchedBake
  newBaseline (writeBounds (scatterSlots (scatter (install t b p) b g.1) b h) b) b

/-- The MIGRATE item under way completes. -/
def migrateEnded (d t : State) (b r : Nat) : State :=
  match migrateItem d b with
  | some i => endItem t r i.index 0 0
  | none => t

theorem switchBake_idle (p : Placement) (hi : (s.bake b).item = none) (ha : (s.bake b).absorbed = false) :
    switchBake s b p = (migrateEnded (departed s b) (resettled (departed s b) b (s.bake b).tenant.toNat p) b (s.bake b).ring).modBake b
      fun q => { q with state := idleState q } := by
  unfold switchBake
  dsimp only
  rw [hi, ha, if_neg Bool.false_ne_true, if_neg (by decide), if_neg (by decide)]
  unfold migrateEnded resettled departed
  rfl

theorem resettled_kept (d : State) (b n : Nat) (p : Placement) :
    ∃ l, Seated d (resettled d b n p) b { placedBake p (switchedBake (d.bake b)) with baseline := l } := by
  unfold resettled
  dsimp only
  have h1 := ((reseated_gather d b false).trans (reseated_clearCores _ b)).trans (reseated_writeEpoch _ n (d.bake b).epoch)
  generalize writeEpoch (clearCores (gather d b false).2 b) n (d.bake b).epoch = v at *
  have h2 := (h1.seated b).trans (seated_modBake v b switchedBake)
  generalize v.modBake b switchedBake = w at *
  have h3 := ((reseated_install w b p).trans (reseated_scatter _ b (gather d b false).1)).trans
    ((reseated_scatterSlots _ b (gatherSlots d b)).trans (reseated_writeBounds _ b))
  generalize writeBounds (scatterSlots (scatter (install w b p) b (gather d b false).1) b (gatherSlots d b)) b = z at *
  have h4 := h2.trans (seated_then h3)
  obtain ⟨l, h5⟩ := newBaseline_kept z b
  refine ⟨l, ?_⟩
  have h6 := h4.trans h5
  rwa [h4.1, h2.1, h1.bake] at h6

theorem departed_kept (s : State) (b : Nat) : (departed s b).bake b = { s.bake b with epoch := nextEpoch s.baker.epoch } ∧
    (departed s b).ring.rings = s.ring.rings ∧
    departed s b = { s with baker := (departed s b).baker, ring := (departed s b).ring } := by
  refine ⟨?_, rfl, rfl⟩
  show ((takeEpoch s).2.modBake b fun q => { q with epoch := (takeEpoch s).1 }).bake b = _
  rw [State.modBake_bake_same, takeEpoch_bake, takeEpoch_fst]

theorem migrateItem_congr (hr : t.ring.rings = s.ring.rings) (hb : (t.bake b).ring = (s.bake b).ring) : migrateItem t b = migrateItem s b := by
  unfold migrateItem
  dsimp only
  rw [hb, State.workRing, State.workRing, hr]

theorem migrateItem_open {x : Item} (h : migrateItem s b = some x) : x.status = none := by
  have h := List.find?_some h
  simp only [Bool.and_eq_true, Option.isNone_iff_eq_none] at h
  exact h.1.2

theorem ringHostAlone_migrateEnded (d t : State) (b r : Nat) : RingHostAlone t (migrateEnded d t b r) := by
  unfold migrateEnded
  split
  · exact ringHostAlone_endItem ..
  · exact .refl t

/-- A migration of a bake with no step in progress. -/
theorem switchBake_kept (p : Placement) (hi : (s.bake b).item = none) (ha : (s.bake b).absorbed = false) :
    (∃ l, (switchBake s b p).bake b = (fun q : Bake => { q with state := idleState q })
      { placedBake p (switchedBake { s.bake b with epoch := nextEpoch s.baker.epoch }) with baseline := l }) ∧
    (∀ x, migrateItem s b = some x → getItem s (s.bake b).ring x.index = some x →
      getItem (switchBake s b p) (s.bake b).ring x.index = some { x with status := some (0, 0) }) ∧
    switchBake s b p = { s with
      cores := (switchBake s b p).cores, flue := (switchBake s b p).flue, baker := (switchBake s b p).baker, ring := (switchBake s b p).ring
      hbm := (switchBake s b p).hbm, host := (switchBake s b p).host } := by
  rw [switchBake_idle p hi ha]
  obtain ⟨hdb, hdr, hdf⟩ := departed_kept s b
  have hmi : migrateItem (departed s b) b = migrateItem s b := migrateItem_congr hdr (by rw [hdb])
  generalize departed s b = d at *
  obtain ⟨l, hb, -, hr, hf⟩ := resettled_kept d b (s.bake b).tenant.toNat p
  rw [hdb] at hb
  generalize resettled d b (s.bake b).tenant.toNat p = v at *
  have hrings : v.ring.rings = s.ring.rings := hr.trans hdr
  have ha := ringHostAlone_migrateEnded d v b (s.bake b).ring
  have hitem (x : Item) (hx : migrateItem s b = some x) (hg : getItem s (s.bake b).ring x.index = some x) :
      getItem (migrateEnded d v b (s.bake b).ring) (s.bake b).ring x.index = some { x with status := some (0, 0) } := by
    rw [migrateEnded, hmi, hx]
    exact getItem_endItem_done ((getItem_of_rings hrings _ _).trans hg) (migrateItem_open hx) (.inl rfl) 0
  generalize migrateEnded d v b (s.bake b).ring = w at *
  have hwb : w.bake b = v.bake b := by rw [State.bake, ha.baker, State.bake]
  obtain ⟨hm, -, hmf⟩ := bakeSet_modBake w b fun q => { q with state := idleState q }
  generalize (w.modBake b fun q => { q with state := idleState q }) = z at *
  rw [hwb, hb] at hm
  have hzr : z.ring.rings = w.ring.rings := by rw [hmf]
  refine ⟨⟨l, hm⟩, fun x hx hg => (getItem_of_rings hzr _ _).trans (hitem x hx hg), ?_⟩
  rw [hmf, ha, hf, hdf]

/-! ##### Changes of phase -/

/-- The next phase of a bake installed on its cores, not yet started. -/
def phasedIn (s : State) (b ph : Nat) : State :=
  let k := s.bake b
  let t := (clearCores (swapPhase s b k.phase true) b).modBake b fun q => { q with phase := ph, begun := true }
  let t := swapPhase t b ph false
  let t := match k.place with
    | some p => putSchedule t k.tenant.toNat k.epoch p ph (phaseSwitch t k) false
    | none => t
  deliverCarried (writeEpoch (initShared (installPhase t b ph) b ph) k.tenant.toNat k.epoch) b ph

theorem changePhase_eq (s : State) (b ph : Nat) : changePhase s b ph =
    if (tensorsOf (s.bake b)).any fun e => refilled (s.bake b) ph e.1 then
      requestFills ((phasedIn s b ph).modBake b fun q => { q with filling := true }) b fun e => refilled (s.bake b) ph e
    else startPhase (phasedIn s b ph) b ph := rfl

theorem phasedIn_kept (s : State) (b ph : Nat) : Seated s (phasedIn s b ph) b { s.bake b with phase := ph, begun := true } := by
  have h1 := (reseated_swapPhase s b (s.bake b).phase true).trans (reseated_clearCores _ b)
  unfold phasedIn
  dsimp only
  generalize clearCores (swapPhase s b (s.bake b).phase true) b = v at *
  have h2 := (h1.seated b).trans (seated_modBake v b fun q => { q with phase := ph, begun := true })
  rw [h1.bake] at h2
  generalize (v.modBake b fun q => { q with phase := ph, begun := true }) = w at *
  have hrest (x : State) (n : Nat) (e : U32) : Reseated x (deliverCarried (writeEpoch (initShared (installPhase x b ph) b ph) n e) b ph) :=
    (((reseated_installPhase ..).trans (reseated_initShared ..)).trans (reseated_writeEpoch ..)).trans (reseated_deliverCarried ..)
  have hend {z : State} (h : Reseated w z) : Seated s z b { s.bake b with phase := ph, begun := true } := by
    have h3 := h2.trans (h.seated b)
    rwa [h2.1] at h3
  split
  · exact hend (((reseated_swapPhase ..).trans (reseated_putSchedule ..)).trans (hrest ..))
  · exact hend ((reseated_swapPhase ..).trans (hrest ..))

theorem phaseChange_changes {ph : Nat} {i : U32} (h1 : 1 ≤ b) (h64 : b ≤ 64) (hs : (s.bake b).state = 3) (hi : (s.bake b).item = some i)
    (hc : (s.bake b).committing = false) (hf : fenceRows (s.bake b) = []) (hp : ph ≤ phasesOf (s.bake b)) (hb : (s.bake b).begun = true)
    (hph : ph = (s.bake b).phase + 1) (he : ∀ e ∈ phaseInsts (s.bake b) (s.bake b).phase, (s.core e.2).seq.state = .ended) :
    exec (.phaseChange b ph) s = .next (changePhase s b ph) := by
  refine (onSlot_64 h1 h64).trans (congrArg Host.Outcome.next ((if_neg ?_).trans (if_pos (.inr ⟨hb, hph, ?_⟩))))
  · rw [hs, hi, hc, hf]
    rintro (h | h | h | h | h | h)
    · exact h rfl
    · exact Option.some_ne_none i h
    · exact Bool.false_ne_true h
    · exact Bool.false_ne_true h.symm
    · omega
    · omega
  · exact List.all_eq_true.mpr fun e hm => decide_eq_true (he e hm)

theorem phaseChange_no {ph : Nat} (h1 : 1 ≤ b) (h64 : b ≤ 64) (h : (s.bake b).state ≠ 3 ∨ (s.bake b).item = none ∨ (s.bake b).committing = true ∨
    fenceRows (s.bake b) ≠ [] ∨ ph = 0 ∨ phasesOf (s.bake b) < ph ∨ ((s.bake b).begun = true ∧ ph ≠ (s.bake b).phase + 1)) :
    exec (.phaseChange b ph) s = .next s := by
  refine (onSlot_64 h1 h64).trans (congrArg Host.Outcome.next ?_)
  dsimp only
  split
  · rfl
  · next hno =>
    refine if_neg ?_
    rintro (⟨hb, -⟩ | ⟨-, hp, -⟩)
    · obtain h | h | h | h | h | h | ⟨h, -⟩ := h
      · exact hno (.inl h)
      · exact hno (.inr (.inl h))
      · exact hno (.inr (.inr (.inl h)))
      · exact hno (.inr (.inr (.inr (.inl (List.isEmpty_eq_false_iff.mpr h)))))
      · exact hno (.inr (.inr (.inr (.inr (.inr h)))))
      · exact hno (.inr (.inr (.inr (.inr (.inl h)))))
      · exact Bool.false_ne_true (hb.symm.trans h)
    · obtain h | h | h | h | h | h | ⟨-, h⟩ := h
      · exact hno (.inl h)
      · exact hno (.inr (.inl h))
      · exact hno (.inr (.inr (.inl h)))
      · exact hno (.inr (.inr (.inr (.inl (List.isEmpty_eq_false_iff.mpr h)))))
      · exact hno (.inr (.inr (.inr (.inr (.inr h)))))
      · exact hno (.inr (.inr (.inr (.inr (.inl h)))))
      · exact h hp

/-- The cores of a phase that starts run from the beginning, under the numbering they have. -/
theorem startPhase_core {ph : Nat} {e : Nat × CoreId} (he : e ∈ phaseInsts (s.bake b) ph) :
    ((startPhase s b ph).core e.2).seq = { order := (s.core e.2).seq.order, attempt := (s.core e.2).seq.attempt, state := .running } := by
  unfold startPhase
  refine core_foldl_modCore_mem (g := Prod.snd) (f := fun q => { q with seq := { q.seq.fresh with state := .running } })
    (R := fun k => k.seq.order = (s.core e.2).seq.order ∧ k.seq.attempt = (s.core e.2).seq.attempt)
    (Q := fun k => k.seq = { order := (s.core e.2).seq.order, attempt := (s.core e.2).seq.attempt, state := .running })
    (fun k hk => ?_) (fun k hk => ?_) he ⟨rfl, rfl⟩
  · obtain ⟨ho, ha⟩ := hk
    show { k.seq.fresh with state := .running } = _
    rw [Sequencer.fresh, ho, ha]
  · rw [hk]
    exact ⟨rfl, rfl⟩

theorem any_refilled {ph : Nat} : ((tensorsOf (s.bake b)).any fun e => refilled (s.bake b) ph e.1) = true ↔
    ∃ e ∈ tensorsOf (s.bake b), refilled (s.bake b) ph e.1 = true := List.any_eq_true

/-- Settles O44: a migration by the bakes it may switch, a change of phase over the cores of the next phase. -/
theorem bakesMoveAndChangePhase : Obligations.BakesMoveAndChangePhase := by
  unfold Obligations.BakesMoveAndChangePhase
  refine ⟨?_, ?_, ?_, ?_⟩
  · intro s b p q h1 h64 hm hi hst ha hn he hc hr hq hp
    have hmay : mayMigrate (s.bake b) = true := by
      rw [mayMigrate, hi]
      obtain h | h := hst <;> rw [h] <;> rfl
    have hx := migrationSwitch_switches h1 h64 hm hmay hn (.inr he) hc hr hq hp
    have hf := settled_frame s b (s.bake b).migTo.toNat (phMaxph (s.bake b).pkg.hdr) p
    generalize (settled s b (s.bake b).migTo.toNat (phMaxph (s.bake b).pkg.hdr) p).2 = v at *
    have hvb : v.bake b = s.bake b := by
      rw [hf]
      rfl
    have hve : v.baker.epoch = s.baker.epoch := by rw [hf]
    have hvr : v.ring.rings = s.ring.rings := by rw [hf]
    obtain ⟨⟨l, hb⟩, hitem, hfr⟩ := switchBake_kept (s := v) (b := b) q (by rw [hvb]; exact hi) (by rw [hvb]; exact ha)
    rw [hvb, hve] at hb
    rw [hvb] at hitem
    generalize switchBake v b q = t at *
    refine ⟨t, hx, ?_, ?_, ?_, ?_, ?_, ?_, ?_, ?_, fun x hmx hg => ?_, ?_⟩
    · rw [hb]
      rfl
    · rw [hb]
      rfl
    · rw [hb]
      rfl
    · rw [hb]
      rfl
    · rw [hb]
      rfl
    · rw [hb]
      rfl
    · rw [hb]
      rfl
    · rw [hb]
      rfl
    · exact hitem x ((migrateItem_congr hvr (by rw [hvb])).trans hmx) ((getItem_of_rings hvr _ _).trans hg)
    · rw [hfr, hf]
  · exact fun s b p h1 h64 h => migrationSwitch_no h1 h64 h
  · intro s b ph i h1 h64 hs hi hc hf hp hb hph he
    have hx := phaseChange_changes h1 h64 hs hi hc hf hp hb hph he
    rw [changePhase_eq] at hx
    have hk := phasedIn_kept s b ph
    generalize phasedIn s b ph = v at *
    by_cases hfill : ((tensorsOf (s.bake b)).any fun e => refilled (s.bake b) ph e.1) = true
    · rw [if_pos hfill] at hx
      have hm := (seated_modBake v b fun q => { q with filling := true })
      have hz := (reseated_requestFills (v.modBake b fun q => { q with filling := true }) b fun e => refilled (s.bake b) ph e).seated b
      have h := (hk.trans hm).trans hz
      rw [hm.1, hk.1] at h
      obtain ⟨h1, -, -, h4⟩ := h
      refine ⟨_, hx, ?_, ?_, ?_, ?_, fun hno => ?_, fun _ _ _ => ?_, ?_⟩
      · rw [h1]
      · rw [h1]
      · rw [h1]
        exact hs
      · rw [h1]
      · obtain ⟨e, hin, hr⟩ := any_refilled.mp hfill
        exact absurd ((hno e hin).symm.trans hr) Bool.false_ne_true
      · rw [h1]
      · rw [h4]
    · rw [if_neg hfill] at hx
      have h := hk.trans ((reseated_startPhase v b ph).seated b)
      rw [hk.1] at h
      obtain ⟨h1, -, -, h4⟩ := h
      refine ⟨_, hx, ?_, ?_, ?_, ?_, fun _ e hin => ?_, fun e hin hr => absurd (any_refilled.mpr ⟨e, hin, hr⟩) hfill, ?_⟩
      · rw [h1]
      · rw [h1]
      · rw [h1]
        exact hs
      · rw [h1]
      · obtain ⟨hvb, hn, -, -⟩ := hk
        rw [startPhase_core (by rw [hvb]; exact hin), (hn e.2).1, (hn e.2).2]
      · rw [h4]
  · exact fun s b ph h1 h64 h => phaseChange_no h1 h64 h

end Sys2Proof.Machine

/-! #### Placements (R117, R196, R243 to R260) -/

namespace Sys2Proof.Machine

variable {s t u : State} {b : Nat}

/-! ##### Placements found before -/

theorem settled_found {n m : Nat} {p : Placement} {e : BitVec 384 × Nat × Placement}
    (h : (s.baker.made.find? fun e => decide (e.1 = (s.bake b).digest) && decide (e.2.1 = placeInputs s n m)) = some e)
    (hp : placementOk s b n m (s.bake b).pkg { e.2.2 with c0 := p.c0, micros := p.micros } = true) :
    settled s b n m p = ({ e.2.2 with c0 := p.c0, micros := p.micros }, s) := by
  unfold settled
  dsimp only
  rw [h]
  dsimp only
  rw [if_pos hp]

theorem settled_new {n m : Nat} {p : Placement} (h : ∀ e ∈ s.baker.made, e.1 = (s.bake b).digest → e.2.1 ≠ placeInputs s n m) :
    settled s b n m p = (p, { s with baker := { s.baker with made := s.baker.made ++ [((s.bake b).digest, placeInputs s n m, p)] } }) := by
  have hno : (s.baker.made.find? fun e => decide (e.1 = (s.bake b).digest) && decide (e.2.1 = placeInputs s n m)) = none := by
    rw [List.find?_eq_none]
    intro e he
    rw [Bool.and_eq_true, decide_eq_true_eq, decide_eq_true_eq]
    rintro ⟨hd, hn⟩
    exact h e he hd hn
  unfold settled
  dsimp only
  rw [hno]

theorem cachedPlace_off {m : Nat} {p : Placement} (h : setting s 0x3402 3 = 0 ∨ phNocache (s.bake b).pkg.hdr = true) :
    cachedPlace s b m p = settled s b (s.bake b).tenant.toNat m p := by
  refine if_pos ?_
  rw [Bool.or_eq_true, decide_eq_true_eq]
  exact h.symm

/-- The cache with a hit or a miss counted. -/
theorem cachedPlace_on {m : Nat} {p : Placement} (h : setting s 0x3402 3 ≠ 0) (h' : phNocache (s.bake b).pkg.hdr = false) :
    (cachedPlace s b m p).1 = (settled s b (s.bake b).tenant.toNat m p).1 ∧
    (cachedPlace s b m p).2.baker.hits = s.baker.hits +
      (if (cacheFind s (s.bake b).digest (placeInputs s (s.bake b).tenant.toNat m)).isSome then 1 else 0) ∧
    (cachedPlace s b m p).2.baker.misses = s.baker.misses +
      (if (cacheFind s (s.bake b).digest (placeInputs s (s.bake b).tenant.toNat m)).isSome then 0 else 1) := by
  have hf := settled_frame s b (s.bake b).tenant.toNat m p
  have hno : ¬ (phNocache (s.bake b).pkg.hdr || decide (setting s 0x3402 3 = 0)) = true := by
    rw [h', decide_eq_false h]
    decide
  unfold cachedPlace
  dsimp only
  rw [if_neg hno]
  generalize settled s b (s.bake b).tenant.toNat m p = x at *
  have hh : x.2.baker.hits = s.baker.hits := by rw [hf]
  have hm : x.2.baker.misses = s.baker.misses := by rw [hf]
  dsimp only [cachePut]
  refine ⟨rfl, ?_, ?_⟩
  · split <;> simp [hh]
  · split <;> simp [hm]

theorem cachedPlace_kept (s : State) (b m : Nat) (p : Placement) : (cachedPlace s b m p).2.baker.slots = s.baker.slots ∧
    (cachedPlace s b m p).2.baker.epoch = s.baker.epoch ∧ (cachedPlace s b m p).2 = { s with baker := (cachedPlace s b m p).2.baker } := by
  have hf := settled_frame s b (s.bake b).tenant.toNat m p
  unfold cachedPlace
  dsimp only
  generalize settled s b (s.bake b).tenant.toNat m p = x at *
  have hs : x.2.baker.slots = s.baker.slots := by rw [hf]
  have he : x.2.baker.epoch = s.baker.epoch := by rw [hf]
  split
  · exact ⟨hs, he, by rw [hf]⟩
  · dsimp only [cachePut]
    split <;> exact ⟨hs, he, by rw [hf]⟩

/-! ##### Cores manned by the instances of a phase -/

/-- The instance, the recipe and the island of every core are as they were. -/
def Manned (s t : State) : Prop := ∀ c, (t.core c).inst = (s.core c).inst ∧ (t.core c).recipe = (s.core c).recipe ∧ (t.core c).island = (s.core c).island

theorem Manned.refl (s : State) : Manned s s := fun _ => ⟨rfl, rfl, rfl⟩

theorem Manned.trans (h : Manned s t) (k : Manned t u) : Manned s u :=
  fun c => ⟨(k c).1.trans (h c).1, (k c).2.1.trans (h c).2.1, (k c).2.2.trans (h c).2.2⟩

theorem manned_of_cores (h : t.cores = s.cores) : Manned s t := fun c => by
  rw [State.core, h, State.core]
  exact ⟨rfl, rfl, rfl⟩

theorem manned_foldl {α : Type} {f : State → α → State} (h : ∀ u x, Manned u (f u x)) (l : List α) (s : State) : Manned s (l.foldl f s) :=
  foldl_prop (p := Manned s) (fun u x k => k.trans (h u x)) l (.refl s)

theorem manned_modLive (s : State) (c : CoreId) (f : Counters → Counters) : Manned s (s.modCore c fun q => q.modLive f) := by
  intro d
  rw [State.modCore_core]
  split
  · next hd => rw [hd]; exact ⟨rfl, rfl, rfl⟩
  · exact ⟨rfl, rfl, rfl⟩

theorem manned_syncAlone (h : SyncAlone s t) : Manned s t := by
  obtain ⟨-, hc, -⟩ := h
  intro c
  rw [hc]
  exact ⟨rfl, rfl, rfl⟩

theorem manned_writeBounds (s : State) (b : Nat) : Manned s (writeBounds s b) := by
  unfold writeBounds
  dsimp only
  refine Manned.trans (manned_foldl (fun u j => ?_) (countedTensors (s.bake b)) s) (manned_foldl (fun u w => ?_) _ _)
  · exact manned_foldl (fun v e => manned_modLive v _ _) _ u
  · exact manned_foldl (fun v e => manned_modLive v _ _) _ u

theorem slotsPut_cleared {R : State → State → Prop} (hr : ∀ s, R s s) (ht : ∀ {s t u}, R s t → R t u → R s u)
    (hm : ∀ s c f, R s (s.modCore c fun q => q.modLive f)) (s : State) (b : Nat) : R s (clearSlots s b) := by
  unfold clearSlots putSlots
  refine foldl_prop (p := R s) (fun u e h => ht h ?_) _ (hr s)
  exact foldl_prop (p := R u) (fun v d h => ht h (hm ..)) _ (hr u)

theorem manned_clearSlots (s : State) (b : Nat) : Manned s (clearSlots s b) := slotsPut_cleared .refl .trans manned_modLive s b

theorem reseated_clearSlots (s : State) (b : Nat) : Reseated s (clearSlots s b) :=
  slotsPut_cleared .refl .trans (fun s c f => reseated_modCore (f := fun q => q.modLive f) (fun _ => ⟨rfl, rfl⟩) s c) s b

/-- The core of an instance of bake `b`, as `k` describes it. -/
def MannedBy (k : Bake) (b i : Nat) (q : Core) : Prop := q.inst = some (b, i) ∧ q.recipe = instRecipe k i ∧ q.island.epoch = k.epoch

theorem mannedBy_installCore (s : State) (b i : Nat) (c : CoreId) : MannedBy (s.bake b) b i ((installCore s b i c).core c) := by
  rw [installCore, State.modCore_core_same]
  exact ⟨rfl, rfl, rfl⟩

theorem core_installed {l : List (Nat × CoreId)} {s : State} {c : CoreId} (h : c ∉ l.map Prod.snd) :
    (l.foldl (fun t e => installCore t b e.1 e.2) s).core c = s.core c := by
  induction l generalizing s with
  | nil => rfl
  | cons e l ih =>
    rw [List.map_cons, List.mem_cons, not_or] at h
    rw [List.foldl_cons, ih h.2, installCore, State.modCore_core, if_neg h.1]

theorem bake_installed (l : List (Nat × CoreId)) (s : State) (d : Nat) : (l.foldl (fun t e => installCore t b e.1 e.2) s).bake d = s.bake d := by
  refine foldl_prop (p := fun u : State => u.bake d = s.bake d) (fun u e h => ?_) l rfl
  exact h

theorem mannedBy_installPhase {ph : Nat} (hd : ((phaseInsts (s.bake b) ph).map Prod.snd).Nodup) {e : Nat × CoreId} (he : e ∈ phaseInsts (s.bake b) ph) :
    MannedBy (s.bake b) b e.1 ((installPhase s b ph).core e.2) := by
  unfold installPhase
  generalize phaseInsts (s.bake b) ph = l at *
  obtain ⟨l₁, l₂, rfl⟩ := List.append_of_mem he
  rw [List.map_append, List.map_cons] at hd
  have hno : e.2 ∉ l₂.map Prod.snd := (List.nodup_cons.mp hd.of_append_right).1
  rw [List.foldl_append, List.foldl_cons, core_installed hno]
  have hb := bake_installed (b := b) l₁ s b
  generalize l₁.foldl (fun t e => installCore t b e.1 e.2) s = v at *
  rw [← hb]
  exact mannedBy_installCore ..

theorem phaseInsts_cores {k : Bake} {p : Placement} (hp : k.place = some p) (ph : Nat) :
    (phaseInsts k ph).map Prod.snd = ((p.insts.map fun e => (e.1, e.2.1)).filter fun e => decide (e.2 = ph)).map Prod.fst := by
  have hz (l : List (CoreId × Nat × Bool)) : ∀ n, ((l.zipIdx n).filterMap fun e => if e.1.2.1 = ph then some (e.2, e.1.1) else none).map Prod.snd =
      ((l.map fun e => (e.1, e.2.1)).filter fun e => decide (e.2 = ph)).map Prod.fst := by
    induction l with
    | nil => exact fun _ => rfl
    | cons x l ih =>
      intro n
      rw [List.zipIdx_cons, List.filterMap_cons, List.map_cons, List.filter_cons]
      by_cases h : x.2.1 = ph
      · simp only [h, if_true, decide_true, List.map_cons, ih]
      · simp only [h, if_false, decide_false, Bool.false_eq_true, ih]
  rw [phaseInsts, hp]
  exact hz p.insts 0

theorem nodup_of_distinct {α : Type} [DecidableEq α] {l : List α} (h : distinct l = true) : l.Nodup := by
  have hl := of_decide_eq_true h
  rw [← (List.dedup_sublist l).eq_of_length hl]
  exact List.nodup_dedup l

/-- No core is given two instances of one phase. -/
theorem nodup_phaseInsts {n m : Nat} {k : Package} {p : Placement} (h : placementOk s b n m k p = true) {q : Bake} (hq : q.place = some p) (ph : Nat) :
    ((phaseInsts q ph).map Prod.snd).Nodup := by
  have hd : distinct (p.insts.map fun e => (e.1, e.2.1)) = true := by
    simp only [placementOk, instsOk, Bool.and_eq_true] at h
    obtain ⟨⟨⟨⟨⟨⟨⟨⟨⟨-, hd⟩, -⟩, -⟩, -⟩, -⟩, -⟩, -⟩, -⟩, -⟩ := h
    exact hd
  rw [phaseInsts_cores hq]
  refine List.Nodup.map_on (fun x hx y hy hxy => ?_) ((nodup_of_distinct hd).filter _)
  exact Prod.ext hxy ((of_decide_eq_true (List.mem_filter.mp hx).2).trans (of_decide_eq_true (List.mem_filter.mp hy).2).symm)

/-! ##### A placement on its cores -/

theorem install_mans (p : Placement) (hd : ((phaseInsts (placedBake p (s.bake b)) 1).map Prod.snd).Nodup) :
    ∀ e ∈ phaseInsts (placedBake p (s.bake b)) 1, MannedBy (placedBake p (s.bake b)) b e.1 ((install s b p).core e.2) := by
  intro e he
  have hb : (s.modBake b (placedBake p)).bake b = placedBake p (s.bake b) := State.modBake_bake_same ..
  have hr := (reseated_putSchedule (s.modBake b (placedBake p)) (s.bake b).tenant.toNat ((s.modBake b (placedBake p)).bake b).epoch p 1 p.c0 true).trans
    (reseated_writeEpoch _ (s.bake b).tenant.toNat ((s.modBake b (placedBake p)).bake b).epoch)
  have hx : install s b p = initSyncs (installPhase (writeEpoch (putSchedule (s.modBake b (placedBake p)) (s.bake b).tenant.toNat
      ((s.modBake b (placedBake p)).bake b).epoch p 1 p.c0 true) (s.bake b).tenant.toNat ((s.modBake b (placedBake p)).bake b).epoch) b 1) b := rfl
  rw [hx]
  generalize writeEpoch (putSchedule (s.modBake b (placedBake p)) (s.bake b).tenant.toNat
    ((s.modBake b (placedBake p)).bake b).epoch p 1 p.c0 true) (s.bake b).tenant.toNat ((s.modBake b (placedBake p)).bake b).epoch = v at *
  have hvb := (hr.bake b).trans hb
  rw [← hvb] at hd he ⊢
  have hm := mannedBy_installPhase hd he
  obtain ⟨h1, h2, h3⟩ := manned_syncAlone (syncAlone_initSyncs (installPhase v b 1) b) e.2
  exact ⟨h1.trans hm.1, h2.trans hm.2.1, (congrArg Island.epoch h3).trans hm.2.2⟩

/-- A bake given its cores: the state before its fills. -/
def seatedBake (s : State) (b : Nat) (p : Placement) : State := newBaseline (writeBounds (clearSlots (install s b p) b) b) b

theorem install_dmas (s : State) (b : Nat) (p : Placement) : (install s b p).ring.dmas = s.ring.dmas := by
  unfold install
  dsimp only
  obtain ⟨-, -, h⟩ := syncAlone_initSyncs (installPhase (writeEpoch (putSchedule (s.modBake b (placedBake p)) (s.bake b).tenant.toNat
    ((s.modBake b (placedBake p)).bake b).epoch p 1 p.c0 true) (s.bake b).tenant.toNat ((s.modBake b (placedBake p)).bake b).epoch) b 1) b
  refine (congrArg RingEngine.dmas h).trans ?_
  simp

theorem seatedBake_kept (s : State) (b : Nat) (p : Placement) : (∃ l, Seated s (seatedBake s b p) b { placedBake p (s.bake b) with baseline := l }) ∧
    Manned (install s b p) (seatedBake s b p) ∧ (seatedBake s b p).ring.dmas = s.ring.dmas := by
  have h1 := seated_then (((reseated_install s b p).trans (reseated_clearSlots _ b)).trans (reseated_writeBounds _ b))
  have h2 := (manned_clearSlots (install s b p) b).trans (manned_writeBounds _ b)
  have h3 : (writeBounds (clearSlots (install s b p) b) b).ring.dmas = s.ring.dmas := by
    rw [(writeBounds_rest ..).2.2.2.2.2.2.2.2.1, (clearSlots_rest ..).2.2.2.2.2.2.2.2.1, install_dmas]
  unfold seatedBake
  generalize writeBounds (clearSlots (install s b p) b) b = v at *
  obtain ⟨l, h4⟩ := newBaseline_kept v b
  rw [h1.1] at h4
  exact ⟨⟨l, h1.trans h4⟩, h2.trans (manned_of_cores rfl), h3⟩

/-! ##### Fills -/

theorem requested_foldl_filter {α : Type} {f : State → α → State} {p : α → Bool} (h1 : ∀ u e, p e = true → OneRequested u (f u e))
    (h0 : ∀ u e, p e = false → f u e = u) (l : List α) (s : State) :
    (l.foldl f s).ring.dmas.length = s.ring.dmas.length + (l.filter p).length := by
  induction l generalizing s with
  | nil => rfl
  | cons e l ih =>
    rw [List.foldl_cons, ih]
    cases hp : p e with
    | true =>
      obtain ⟨h, -⟩ := h1 s e hp
      rw [h, List.filter_cons_of_pos hp, List.length_cons]
      omega
    | false =>
      rw [h0 s e hp, List.filter_cons_of_neg (by rw [hp]; exact Bool.false_ne_true)]

theorem requestFills_dmas (s : State) (b : Nat) (pick : Nat → Bool) : (requestFills s b pick).ring.dmas.length = s.ring.dmas.length +
    ((tensorsOf (s.bake b)).filter fun e => decide (tnLdma e.2 ≠ 0xFFFF) && pick e.1).length := by
  unfold requestFills
  refine requested_foldl_filter (fun u e h => ?_) (fun u e h => ?_) _ s
  · rw [Bool.and_eq_true, decide_eq_true_eq] at h
    rw [if_pos h]
    exact oneRequested_requestWhole ..
  · refine if_neg fun hc => Bool.false_ne_true (h.symm.trans ?_)
    rw [Bool.and_eq_true, decide_eq_true_eq]
    exact hc

theorem length_filter_tensorsOf (k : Bake) (p : W256 → Bool) :
    ((tensorsOf k).filter fun e => p e.2).length = (k.pkg.tensors.filter p).length := by
  have h : (tensorsOf k).map Prod.snd = k.pkg.tensors := by
    rw [tensorsOf, List.map_map]
    exact List.zipIdx_map_fst ..
  rw [← h, List.filter_map, List.length_map]
  rfl

/-- The fills of a bake asked for. -/
def fillsAsked (s : State) (b : Nat) (pick : W256 → Bool) : State :=
  requestFills (s.modBake b fun k => { k with filling := true }) b fun j => pick (tensorRow (s.bake b) j)

theorem fillsAsked_kept (s : State) (b : Nat) (pick : W256 → Bool) : Seated s (fillsAsked s b pick) b { s.bake b with filling := true } ∧
    Manned s (fillsAsked s b pick) ∧ (fillsAsked s b pick).ring.dmas.length = s.ring.dmas.length +
      ((tensorsOf (s.bake b)).filter fun e => decide (tnLdma e.2 ≠ 0xFFFF) && pick (tensorRow (s.bake b) e.1)).length := by
  have hm := seated_modBake s b fun k => { k with filling := true }
  have hn : Manned s (s.modBake b fun k => { k with filling := true }) := manned_of_cores rfl
  have hd := requestFills_dmas (s.modBake b fun k => { k with filling := true }) b fun j => pick (tensorRow (s.bake b) j)
  have hr := reseated_requestFills (s.modBake b fun k => { k with filling := true }) b fun j => pick (tensorRow (s.bake b) j)
  have hc := (requestFills_rest (s := s.modBake b fun k => { k with filling := true }) b fun j => pick (tensorRow (s.bake b) j)).2.2.2.2.2.2.1
  rw [hm.1] at hd
  have hk := hm.trans (hr.seated b)
  rw [hm.1] at hk
  exact ⟨hk, hn.trans (manned_of_cores hc), hd⟩

theorem beginFills_some {pick : W256 → Bool} (h : ∃ e ∈ tensorsOf (s.bake b), tnLdma e.2 ≠ 0xFFFF ∧ pick e.2 = true) :
    beginFills s b pick = fillsAsked s b pick := by
  obtain ⟨e, he, hl, hp⟩ := h
  exact if_pos (List.any_eq_true.mpr ⟨e, he, by rw [decide_eq_true hl, hp]; rfl⟩)

theorem beginFills_none {pick : W256 → Bool} (h : ∀ e ∈ tensorsOf (s.bake b), tnLdma e.2 = 0xFFFF ∨ pick e.2 = false) :
    beginFills s b pick = fillsDone (fillsAsked s b pick) b := by
  refine if_neg ?_
  rw [List.any_eq_true]
  rintro ⟨e, he, hp⟩
  rw [Bool.and_eq_true, decide_eq_true_eq] at hp
  exact (h e he).elim hp.1 fun h => Bool.false_ne_true (h.symm.trans hp.2)

/-- The fills of a LOAD that waits for nothing more: the bake is ready and the LOAD completes. -/
theorem fillsDone_loaded (hf : (s.bake b).filling = true) (hs : (s.bake b).state = 1) :
    (fillsDone s b).bake b = { s.bake b with filling := false, state := idleState (s.bake b) } ∧
    (∀ x, getItem s (s.bake b).ring (s.bake b).loadIdx = some x → x.status = none →
      getItem (fillsDone s b) (s.bake b).ring (s.bake b).loadIdx =
        some { x with status := some (0, BitVec.ofNat 128 ((s.bake b).epoch.toNat + 2 ^ 32 * phasesOf (s.bake b))) }) ∧
    (fillsDone s b).baker.epoch = s.baker.epoch ∧
    fillsDone s b = { s with baker := (fillsDone s b).baker, ring := (fillsDone s b).ring, host := (fillsDone s b).host } := by
  have hx : fillsDone s b = endItem ((s.modBake b fun q => { q with filling := false }).modBake b fun q => { q with state := idleState q })
      (s.bake b).ring (s.bake b).loadIdx 0 (BitVec.ofNat 128 ((s.bake b).epoch.toNat + 2 ^ 32 * phasesOf (s.bake b))) := by
    unfold fillsDone
    dsimp only
    rw [hf, hs, if_neg (by decide), if_pos rfl]
  have h := (seated_modBake s b fun q => { q with filling := false }).trans (seated_modBake _ b fun q => { q with state := idleState q })
  rw [State.modBake_bake_same] at h
  rw [hx]
  have he : ((s.modBake b fun q => { q with filling := false }).modBake b fun q => { q with state := idleState q }).baker.epoch = s.baker.epoch := rfl
  have hfr : ((s.modBake b fun q => { q with filling := false }).modBake b fun q => { q with state := idleState q }) =
    { s with baker := ((s.modBake b fun q => { q with filling := false }).modBake b fun q => { q with state := idleState q }).baker } := rfl
  generalize (s.modBake b fun q => { q with filling := false }).modBake b (fun q => { q with state := idleState q }) = v at *
  obtain ⟨hb, -, hr, -⟩ := h
  have ha := ringHostAlone_endItem v (s.bake b).ring (s.bake b).loadIdx 0 (BitVec.ofNat 128 ((s.bake b).epoch.toNat + 2 ^ 32 * phasesOf (s.bake b)))
  refine ⟨?_, fun x hg hst => getItem_endItem_done ((getItem_of_rings hr _ _).trans hg) hst (.inl rfl) _, ?_, ?_⟩
  · rw [State.bake, ha.baker]
    exact hb
  · rw [ha.baker]
    exact he
  · generalize endItem v (s.bake b).ring (s.bake b).loadIdx 0 (BitVec.ofNat 128 ((s.bake b).epoch.toNat + 2 ^ 32 * phasesOf (s.bake b))) = w at *
    unfold RingHostAlone at ha
    rw [ha, hfr]

/-! ##### LOAD -/

/-- The state under a new epoch for the bake. -/
def epochGiven (s : State) (b : Nat) : State := (takeEpoch s).2.modBake b fun q => { q with epoch := (takeEpoch s).1 }

theorem placeLoad_places {p q : Placement} (he : epochFree s = true) (hc : s.flue.cutOff = false)
    (hq : (cachedPlace s b (phMaxph (s.bake b).pkg.hdr) p).1 = q)
    (hp : placementOk s b (s.bake b).tenant.toNat (phMaxph (s.bake b).pkg.hdr) (s.bake b).pkg q = true) :
    placeLoad s b p = beginFills (seatedBake (epochGiven (cachedPlace s b (phMaxph (s.bake b).pkg.hdr) p).2 b) b q) b fun _ => true := by
  subst hq
  exact if_neg (by rw [he, hc, hp]; decide)

theorem epochGiven_kept (s : State) (b : Nat) : (epochGiven s b).bake b = { s.bake b with epoch := nextEpoch s.baker.epoch } ∧
    (epochGiven s b).baker.epoch = nextEpoch s.baker.epoch ∧ epochGiven s b = { s with baker := (epochGiven s b).baker } := by
  refine ⟨?_, rfl, rfl⟩
  show ((takeEpoch s).2.modBake b fun q => { q with epoch := (takeEpoch s).1 }).bake b = _
  rw [State.modBake_bake_same, takeEpoch_bake, takeEpoch_fst]

end Sys2Proof.Machine

/-! ##### Placements, settled -/

namespace Sys2Proof.Machine

variable {s t u : State} {b : Nat}

theorem frame_of_hbm (h : t = { s with
    cores := t.cores, flue := t.flue, baker := t.baker, ring := t.ring, hbm := t.hbm, host := t.host }) (hh : t.hbm = s.hbm) :
    t = { s with cores := t.cores, flue := t.flue, baker := t.baker, ring := t.ring, host := t.host } := by
  rwa [hh] at h

/-- The cores of a placed bake, and the new epoch. -/
def Loaded (s t : State) (b : Nat) (q : Placement) : Prop :=
  (t.bake b).place = some q ∧ (t.bake b).epoch = nextEpoch s.baker.epoch ∧ t.baker.epoch = nextEpoch s.baker.epoch ∧ (t.bake b).phase = 1 ∧
  (∀ e ∈ phaseInsts (t.bake b) 1, MannedBy (t.bake b) b e.1 (t.core e.2))

theorem mannedBy_congr {k l : Bake} {c d : Core} {i : Nat} (h : MannedBy k b i c) (hp : l.place = k.place) (hg : l.pkg = k.pkg)
    (he : l.epoch = k.epoch) (hi : d.inst = c.inst) (hr : d.recipe = c.recipe) (hs : d.island = c.island) : MannedBy l b i d := by
  obtain ⟨h1, h2, h3⟩ := h
  refine ⟨hi.trans h1, hr.trans (h2.trans ?_), ?_⟩
  · unfold instRecipe instPlace instRow
    rw [hp, hg]
  · rw [hs, h3, he]

theorem phaseInsts_congr {k l : Bake} (hp : l.place = k.place) (ph : Nat) : phaseInsts l ph = phaseInsts k ph := by
  rw [phaseInsts, phaseInsts, hp]

/-- The state of a LOAD's bake placed on its cores, its fills asked for. -/
def loadAsked (s : State) (b : Nat) (p q : Placement) : State :=
  fillsAsked (seatedBake (epochGiven (cachedPlace s b (phMaxph (s.bake b).pkg.hdr) p).2 b) b q) b fun _ => true

theorem loadAsked_kept {p q : Placement}
    (hp : placementOk s b (s.bake b).tenant.toNat (phMaxph (s.bake b).pkg.hdr) (s.bake b).pkg q = true) :
    (∃ l, (loadAsked s b p q).bake b =
      { placedBake q { s.bake b with epoch := nextEpoch s.baker.epoch } with baseline := l, filling := true }) ∧
    Loaded s (loadAsked s b p q) b q ∧ (loadAsked s b p q).ring.rings = s.ring.rings ∧
    (loadAsked s b p q).ring.dmas.length = s.ring.dmas.length + ((s.bake b).pkg.tensors.filter fun w => decide (tnLdma w ≠ 0xFFFF)).length ∧
    loadAsked s b p q = { s with
      cores := (loadAsked s b p q).cores, flue := (loadAsked s b p q).flue, baker := (loadAsked s b p q).baker, ring := (loadAsked s b p q).ring
      hbm := (loadAsked s b p q).hbm } := by
  obtain ⟨hcs, hce, hcf⟩ := cachedPlace_kept s b (phMaxph (s.bake b).pkg.hdr) p
  unfold loadAsked
  generalize (cachedPlace s b (phMaxph (s.bake b).pkg.hdr) p).2 = c at *
  obtain ⟨hgb, hge, hgf⟩ := epochGiven_kept c b
  have hcb : c.bake b = s.bake b := by rw [State.bake, hcs, State.bake]
  rw [hcb, hce] at hgb
  rw [hce] at hge
  generalize epochGiven c b = g at *
  obtain ⟨⟨l, hv⟩, hvm, hvd⟩ := seatedBake_kept g b q
  have hmans := install_mans (s := g) (b := b) q (nodup_phaseInsts hp rfl 1)
  rw [hgb] at hv hmans
  generalize seatedBake g b q = v at *
  obtain ⟨ha, ham, had⟩ := fillsAsked_kept v b fun _ => true
  generalize fillsAsked v b (fun _ => true) = a at *
  have hm := hvm.trans ham
  have hs := hv.trans ha
  rw [hv.1] at hs had
  obtain ⟨hb, -, hr, hf⟩ := hs
  have hplace : (a.bake b).place = some q := by
    rw [hb]
    rfl
  have hepoch : (a.bake b).epoch = nextEpoch s.baker.epoch := by
    rw [hb]
    rfl
  have hpkg : (a.bake b).pkg = (s.bake b).pkg := by
    rw [hb]
    rfl
  refine ⟨⟨l, hb⟩, ⟨hplace, hepoch, ?_, ?_, fun e he => ?_⟩, ?_, ?_, ?_⟩
  · rw [hf]
    exact hge
  · rw [hb]
    rfl
  · rw [phaseInsts_congr (k := placedBake q { s.bake b with epoch := nextEpoch s.baker.epoch }) hplace] at he
    obtain ⟨h1, h2, h3⟩ := hm e.2
    exact mannedBy_congr (hmans e he) hplace hpkg hepoch h1 h2 h3
  · rw [hr, hgf, hcf]
  · rw [had, hvd, hgf, hcf]
    refine congrArg (_ + ·) ?_
    simp only [Bool.and_true]
    exact length_filter_tensorsOf _ fun w => decide (tnLdma w ≠ 0xFFFF)
  · rw [hf, hgf, hcf]

theorem exists_tensorsOf {k : Bake} {w : W256} (h : w ∈ k.pkg.tensors) : ∃ e ∈ tensorsOf k, e.2 = w := by
  have hl : (tensorsOf k).map Prod.snd = k.pkg.tensors := by
    rw [tensorsOf, List.map_map]
    exact List.zipIdx_map_fst ..
  rw [← hl] at h
  exact List.mem_map.mp h

theorem mem_tensorsOf {k : Bake} {e : Nat × W256} (h : e ∈ tensorsOf k) : e.2 ∈ k.pkg.tensors := by
  obtain ⟨x, hx, rfl⟩ := List.mem_map.mp h
  exact List.fst_mem_of_mem_zipIdx hx

theorem placementComplete_loads {p q : Placement} (h1 : 1 ≤ b) (h64 : b ≤ 64) (hs : (s.bake b).state = 1) (hf : (s.bake b).filling = false)
    (hn : notPlaced s b (phMaxph (s.bake b).pkg.hdr) p = false) (he : epochFree s = true) (hc : s.flue.cutOff = false)
    (hq : (cachedPlace s b (phMaxph (s.bake b).pkg.hdr) p).1 = q)
    (hp : placementOk s b (s.bake b).tenant.toNat (phMaxph (s.bake b).pkg.hdr) (s.bake b).pkg q = true) :
    exec (.placementComplete b p) s = .next (placeLoad s b p) ∧
    ((∃ w ∈ (s.bake b).pkg.tensors, tnLdma w ≠ 0xFFFF) → placeLoad s b p = loadAsked s b p q) ∧
    ((∀ w ∈ (s.bake b).pkg.tensors, tnLdma w = 0xFFFF) → placeLoad s b p = fillsDone (loadAsked s b p q) b) := by
  have hpkg : ((seatedBake (epochGiven (cachedPlace s b (phMaxph (s.bake b).pkg.hdr) p).2 b) b q).bake b).pkg = (s.bake b).pkg := by
    obtain ⟨⟨l, hv⟩, -, -⟩ := seatedBake_kept (epochGiven (cachedPlace s b (phMaxph (s.bake b).pkg.hdr) p).2 b) b q
    rw [hv.1, (epochGiven_kept ..).1, State.bake, (cachedPlace_kept s b (phMaxph (s.bake b).pkg.hdr) p).1]
    rfl
  have hx := placeLoad_places he hc hq hp
  refine ⟨(onSlot_64 h1 h64).trans (congrArg Host.Outcome.next ?_), fun ⟨w, hw, hl⟩ => ?_, fun hno => ?_⟩
  · dsimp only
    rw [hf, hs, if_neg Bool.false_ne_true, if_pos rfl, hn, if_neg Bool.false_ne_true]
  · rw [← hpkg] at hw
    obtain ⟨e, he, rfl⟩ := exists_tensorsOf hw
    rw [hx, beginFills_some ⟨e, he, hl, rfl⟩]
    rfl
  · rw [hx, beginFills_none fun e he => .inl (hno _ (hpkg ▸ mem_tensorsOf he))]
    rfl

/-- A LOAD ended with the fields of its refusal. -/
def loadRejected (s : State) (b : Nat) (d : BitVec 128) : State :=
  clearTable ((endItem { s with baker := { s.baker with reject := d } } (s.bake b).ring (s.bake b).loadIdx 4 d).modBake b fun _ => { reject := d }) b

theorem rejectLoad_eq (s : State) (b : Nat) (r : Reject) : rejectLoad s b r = loadRejected s b r.bits := by
  unfold rejectLoad loadRejected
  rfl

theorem loadRejected_kept {x : Item} (d : BitVec 128) (hg : getItem s (s.bake b).ring (s.bake b).loadIdx = some x) (hs : x.status = none) :
    (loadRejected s b d).bake b = { reject := d } ∧ (loadRejected s b d).baker.reject = d ∧
    getItem (loadRejected s b d) (s.bake b).ring (s.bake b).loadIdx = some { x with state := 4, status := some (4, d) } ∧
    (loadRejected s b d).cores = s.cores ∧ (loadRejected s b d).flue = s.flue := by
  unfold loadRejected
  have hm : getItem { s with baker := { s.baker with reject := d } } (s.bake b).ring (s.bake b).loadIdx = some x :=
    (getItem_of_rings rfl _ _).trans hg
  have he := getItem_endItem_failed hm hs (c := 4) (by decide) d
  have ha := ringHostAlone_endItem { s with baker := { s.baker with reject := d } } (s.bake b).ring (s.bake b).loadIdx 4 d
  generalize endItem { s with baker := { s.baker with reject := d } } (s.bake b).ring (s.bake b).loadIdx 4 d = v at *
  obtain ⟨hb, -, hf⟩ := bakeSet_modBake v b fun _ => { reject := d }
  generalize (v.modBake b fun _ => { reject := d }) = w at *
  have hwr : w.ring.rings = v.ring.rings := by rw [hf]
  have hwj : w.baker.reject = d := by rw [hf, ha]
  have hwc : w.cores = s.cores := by rw [hf, ha]
  have hwf : w.flue = s.flue := by rw [hf, ha]
  have hz : clearTable w b = { w with ctl := (clearTable w b).ctl } := rfl
  generalize clearTable w b = z at *
  refine ⟨?_, ?_, ?_, ?_, ?_⟩
  · rw [hz]
    exact hb
  · rw [hz]
    exact hwj
  · exact (getItem_of_rings (by rw [hz, hwr]) _ _).trans he
  · rw [hz]
    exact hwc
  · rw [hz]
    exact hwf

/-! ##### Re-placements -/

theorem moveBake_kept (s : State) (b : Nat) (p : Placement) (r : Bool) :
    ∃ l, Seated s (moveBake s b p r) b { placedBake p (s.bake b) with baseline := l } := by
  have h1 := (reseated_gather s b r).trans (reseated_clearCores _ b)
  unfold moveBake
  dsimp only
  generalize clearCores (gather s b r).2 b = v at *
  have h2 := ((reseated_install v b p).trans (reseated_scatter _ b (gather s b r).1)).trans
    ((reseated_scatterSlots _ b (gatherSlots s b)).trans (reseated_writeBounds _ b))
  generalize writeBounds (scatterSlots (scatter (install v b p) b (gather s b r).1) b (gatherSlots s b)) b = w at *
  have h3 := (h1.seated b).trans (seated_then h2)
  rw [h1.bake] at h3
  obtain ⟨l, h4⟩ := newBaseline_kept w b
  rw [h3.1] at h4
  exact ⟨l, h3.trans h4⟩

/-- The fills of a re-placement that waits for nothing more. -/
theorem fillsDone_again (hf : (s.bake b).filling = true) (hs : (s.bake b).state = 5) (ht : ∀ r ∈ (s.bake b).triggers, r = 8) :
    ((fillsDone s b).bake b).place = (s.bake b).place ∧ ((fillsDone s b).bake b).epoch = (s.bake b).epoch ∧
    ((fillsDone s b).bake b).committed = (s.bake b).committed ∧ ((fillsDone s b).bake b).triggers = (s.bake b).triggers ∧
    fillsDone s b = { s with
      cores := (fillsDone s b).cores, baker := (fillsDone s b).baker, ring := (fillsDone s b).ring, host := (fillsDone s b).host } := by
  have hx : fillsDone s b = if needsPlace (s.modBake b fun q => { q with filling := false }) (s.bake b) then
      s.modBake b fun q => { q with filling := false }
      else resumeItem ((s.modBake b fun q => { q with filling := false }).modBake b fun q =>
        { q with losses := 0, triggers := q.triggers.filter fun r => decide (r = 4) || decide (r = 8) }) b := by
    unfold fillsDone
    dsimp only
    rw [hf, hs, if_neg (by decide), if_neg (by decide), if_pos rfl]
  rw [hx]
  split
  · refine ⟨?_, ?_, ?_, ?_, rfl⟩
    all_goals rw [State.modBake_bake_same]
  · have hm := (bakeSet_modBake s b fun q => { q with filling := false }).trans
      (bakeSet_modBake _ b fun q => { q with losses := 0, triggers := q.triggers.filter fun r => decide (r = 4) || decide (r = 8) })
    rw [State.modBake_bake_same] at hm
    generalize (s.modBake b fun q => { q with filling := false }).modBake b (fun q =>
        { q with losses := 0, triggers := q.triggers.filter fun r => decide (r = 4) || decide (r = 8) }) = v at *
    obtain ⟨hb, -, hfr⟩ := hm
    obtain ⟨⟨⟨he, -, hc, -, -, htr, -, hp⟩, -, -, hrf⟩, -⟩ := resumeItem_kept v b
    generalize resumeItem v b = w at *
    rw [hb] at he hc htr hp
    refine ⟨hp, he, hc, htr.trans ?_, ?_⟩
    · refine List.filter_eq_self.mpr fun r hr => ?_
      rw [ht r hr]
      rfl
    · rw [hrf, hfr]

/-- The tensors that a re-placement fills. -/
def fillsAgain (k : Bake) (w : W256) : Bool := !isState w && (homePad w || (k.triggers.contains 6 && decide (tnHome w = 1)))

theorem placeAgain_places {p q : Placement} (hc : s.flue.cutOff = false) (hm : mapWaits s (s.bake b) = false)
    (hq : (cachedPlace s b 8 p).1 = q) (hp : placementOk s b (s.bake b).tenant.toNat 8 (s.bake b).pkg q = true) :
    placeAgain s b p = beginFills ((moveBake (cachedPlace s b 8 p).2 b q true).modBake b fun q =>
      { q with triggers := q.triggers.filter fun x => decide (x = 8) }) b (fillsAgain (s.bake b)) := by
  subst hq
  exact if_neg (by rw [hc, hm, hp]; decide)

theorem placeAgain_kept {p q : Placement} (hs : (s.bake b).state = 5) (hc : s.flue.cutOff = false) (hm : mapWaits s (s.bake b) = false)
    (hq : (cachedPlace s b 8 p).1 = q) (hp : placementOk s b (s.bake b).tenant.toNat 8 (s.bake b).pkg q = true) :
    ((placeAgain s b p).bake b).place = some q ∧ ((placeAgain s b p).bake b).epoch = (s.bake b).epoch ∧
    ((placeAgain s b p).bake b).committed = (s.bake b).committed ∧
    ((placeAgain s b p).bake b).triggers = (s.bake b).triggers.filter (fun r => decide (r = 8)) ∧
    placeAgain s b p = { s with
      cores := (placeAgain s b p).cores, flue := (placeAgain s b p).flue, baker := (placeAgain s b p).baker, ring := (placeAgain s b p).ring
      hbm := (placeAgain s b p).hbm, host := (placeAgain s b p).host } := by
  rw [placeAgain_places hc hm hq hp]
  obtain ⟨hcs, -, hcf⟩ := cachedPlace_kept s b 8 p
  generalize (cachedPlace s b 8 p).2 = c at *
  have hcb : c.bake b = s.bake b := by rw [State.bake, hcs, State.bake]
  obtain ⟨l, h1⟩ := moveBake_kept c b q true
  generalize moveBake c b q true = v at *
  have h2 := h1.trans (seated_modBake v b fun q => { q with triggers := q.triggers.filter fun x => decide (x = 8) })
  rw [h1.1, hcb] at h2
  generalize (v.modBake b fun q => { q with triggers := q.triggers.filter fun x => decide (x = 8) }) = w at *
  obtain ⟨h3, -, -⟩ := fillsAsked_kept w b (fillsAgain (s.bake b))
  have h4 := h2.trans h3
  rw [h2.1] at h4
  generalize hz : fillsAsked w b (fillsAgain (s.bake b)) = z at *
  obtain ⟨hb, -, -, hf⟩ := h4
  by_cases hany : ∃ e ∈ tensorsOf (w.bake b), tnLdma e.2 ≠ 0xFFFF ∧ fillsAgain (s.bake b) e.2 = true
  · rw [beginFills_some hany, hz, hb]
    refine ⟨rfl, rfl, rfl, rfl, ?_⟩
    rw [hf, hcf]
  · have hno : ∀ e ∈ tensorsOf (w.bake b), tnLdma e.2 = 0xFFFF ∨ fillsAgain (s.bake b) e.2 = false := by
      intro e he
      by_contra hcon
      rw [not_or, Bool.not_eq_false] at hcon
      exact hany ⟨e, he, hcon⟩
    rw [beginFills_none hno, hz]
    obtain ⟨g1, g2, g3, g4, g5⟩ := fillsDone_again (s := z) (b := b) (by rw [hb]) (by rw [hb]; exact hs) (by
      rw [hb]
      exact fun r hr => of_decide_eq_true (List.mem_filter.mp hr).2)
    rw [hb] at g1 g2 g3 g4
    refine ⟨g1, g2, g3, g4, ?_⟩
    rw [g5, hf, hcf]

/-- Settles O40: by the search's answer, and by the fills that the bake asks for. -/
theorem placementPutsABakeOnItsCores : Obligations.PlacementPutsABakeOnItsCores := by
  unfold Obligations.PlacementPutsABakeOnItsCores
  refine ⟨?_, ?_, ?_, ?_, ?_, ?_⟩
  · intro s b p h1 h64 hs hf hn he hc q hq hp
    obtain ⟨hx, hsome, hnone⟩ := placementComplete_loads h1 h64 hs hf hn he hc hq hp
    obtain ⟨⟨l, hb⟩, ⟨a1, a2, a3, a4, a5⟩, hr, hd, hfr⟩ := loadAsked_kept (s := s) (b := b) (p := p) hp
    have hhbm : (placeLoad s b p).hbm = s.hbm := (placeLoad_outer b p).2.2
    refine ⟨_, hx, ?_⟩
    by_cases hany : ∃ w ∈ (s.bake b).pkg.tensors, tnLdma w ≠ 0xFFFF
    · rw [hsome hany] at hhbm ⊢
      generalize loadAsked s b p q = z at *
      refine ⟨a1, a2, a3, a4, ?_, fun _ => ⟨?_, ?_, hd⟩, fun hno => ?_, frame_of_hbm (by rw [hfr]) hhbm⟩
      · intro e he
        obtain ⟨m1, m2, m3⟩ := a5 e he
        exact ⟨m1, m2, m3.trans a2⟩
      · rw [hb]
        exact hs
      · rw [hb]
      · obtain ⟨w, hw, hl⟩ := hany
        exact absurd (hno w hw) hl
    · have hno : ∀ w ∈ (s.bake b).pkg.tensors, tnLdma w = 0xFFFF := by
        intro w hw
        by_contra hcon
        exact hany ⟨w, hw, hcon⟩
      rw [hnone hno] at hhbm ⊢
      generalize loadAsked s b p q = z at *
      obtain ⟨g1, g2, g3, g4⟩ := fillsDone_loaded (s := z) (b := b) (by rw [hb]) (by rw [hb]; exact hs)
      have hc : (fillsDone z b).cores = z.cores := by rw [g4]
      rw [hb] at g1 g2
      generalize fillsDone z b = y at *
      have hpl : (y.bake b).place = (z.bake b).place := by rw [g1, hb]
      have hep : (y.bake b).epoch = (z.bake b).epoch := by rw [g1, hb]
      have hpk : (y.bake b).pkg = (z.bake b).pkg := by rw [g1, hb]
      refine ⟨hpl.trans a1, hep.trans a2, g3.trans a3, ?_, ?_, fun h => absurd h hany, fun _ => ⟨?_, ?_, fun x hg hst => ?_⟩, frame_of_hbm ?_ hhbm⟩
      · rw [g1]
        rfl
      · intro e he
        rw [phaseInsts_congr hpl] at he
        have hce : y.core e.2 = z.core e.2 := by rw [State.core, hc, State.core]
        obtain ⟨m1, m2, m3⟩ := mannedBy_congr (a5 e he) hpl hpk hep (congrArg Core.inst hce) (congrArg Core.recipe hce) (congrArg Core.island hce)
        exact ⟨m1, m2, m3.trans (hep.trans a2)⟩
      · rw [g1]
        rfl
      · rw [g1]
      · exact g2 x ((getItem_of_rings hr _ _).trans hg) hst
      · rw [g4, hfr]
  · intro s b p x h1 h64 hs hf hn hg hst
    refine ⟨_, (onSlot_64 h1 h64).trans (congrArg Host.Outcome.next ?_), loadRejected_kept _ hg hst⟩
    dsimp only
    rw [hf, hs, if_neg Bool.false_ne_true, if_pos rfl, hn, if_pos rfl, rejectLoad_eq]
  · intro s b p h1 h64 hs hf hn hc hm q hq hp
    refine ⟨_, (onSlot_64 h1 h64).trans (congrArg Host.Outcome.next ?_), placeAgain_kept hs hc hm hq hp⟩
    dsimp only
    rw [hf, hs, if_neg Bool.false_ne_true, if_neg (by decide), if_pos rfl, hn, if_neg Bool.false_ne_true]
  · exact fun s b p h1 h64 hf => (onSlot_64 h1 h64).trans (congrArg Host.Outcome.next (if_pos hf))
  · intro s b m p
    by_cases hoff : setting s 0x3402 3 = 0 ∨ phNocache (s.bake b).pkg.hdr = true
    · have hx := cachedPlace_off (s := s) (b := b) (m := m) (p := p) hoff
      have hf := settled_frame s b (s.bake b).tenant.toNat m p
      refine ⟨congrArg Prod.fst hx, fun _ => ⟨?_, ?_⟩, fun h h' => ?_⟩
      · rw [hx, hf]
      · rw [hx, hf]
      · exact hoff.elim (fun h0 => absurd h0 h) fun h0 => absurd (h'.symm.trans h0) Bool.false_ne_true
    · obtain ⟨hset, hno⟩ := not_or.mp hoff
      obtain ⟨hc1, hc2, hc3⟩ := cachedPlace_on (s := s) (b := b) (m := m) (p := p) hset (Bool.eq_false_iff.mpr hno)
      refine ⟨hc1, fun h => absurd h hoff, fun _ _ => ⟨fun hhit => ⟨?_, ?_⟩, fun hmiss => ⟨?_, ?_⟩⟩⟩
      · rw [hc2, hhit, if_pos rfl]
      · rw [hc3, hhit, if_pos rfl, add_zero]
      · rw [hc3, hmiss, Option.isSome_none, if_neg Bool.false_ne_true]
      · rw [hc2, hmiss, Option.isSome_none, if_neg Bool.false_ne_true, add_zero]
  · exact fun s b n m p => ⟨fun h => by rw [settled_new h]; exact ⟨rfl, rfl⟩, fun e he hp => settled_found he hp⟩

end Sys2Proof.Machine

/-! #### Schedules, stops and compiles (R196, R206 to R229) -/

namespace Sys2Proof.Machine

variable {s t u : State}

/-! ##### Schedules -/

/-- Nothing has changed but cores, the Flue and the control plane; the fields of the Flue but its routers are as they were. -/
def Switched (s t : State) : Prop := t = { s with cores := t.cores, flue := { s.flue with routers := t.flue.routers }, ctl := t.ctl }

theorem Switched.trans (h : Switched s t) (k : Switched t u) : Switched s u := by
  unfold Switched at *
  rw [k, h]

theorem switched_countSwitch (s : State) (h : Schedule) : Switched s (countSwitch s h) := by
  unfold countSwitch
  split <;> rfl

/-- The router's state after it has switched to a schedule, the entries `l` of its table rewritten. -/
def Router.switched (l : List (Nat × U32)) (h : Schedule) (r : Router) : Router :=
  { r with sched := h, staged := none, rewrite := [], hold := false, table := l.foldl (fun m e => mset idleEntry m e.1 e.2) r.table }

/-- The schedule as it starts: at the first multiple of 64 after a rewrite of the table. -/
def startedSchedule (s : State) (p : Site) (h : Schedule) : Schedule :=
  if (s.router p).rewrite.isEmpty then h else { h with c0 := (s.flue.cycle / 64 + 1) * 64 }

theorem startedSchedule_of_nil {p : Site} (h : Schedule) (hw : (s.router p).rewrite = []) : startedSchedule s p h = h :=
  if_pos (by rw [hw]; rfl)

theorem startedSchedule_of_ne {p : Site} (h : Schedule) (hw : (s.router p).rewrite ≠ []) :
    startedSchedule s p h = { h with c0 := (s.flue.cycle / 64 + 1) * 64 } :=
  if_neg (by rw [List.isEmpty_iff]; exact hw)

/-- The island of a core under a schedule's tenant and epoch. -/
def Core.scheduled (h : Schedule) (k : Core) : Core := k.modIsland fun r => { r with tenant := h.tenant, epoch := h.epoch }

theorem switchSchedule_eq {p : Site} {h : Schedule} (hs : (s.router p).staged = some h) : switchSchedule s p =
    let t := s.modRouter p (Router.switched (s.router p).rewrite (startedSchedule s p h))
    match coreAt s p with
    | some c => t.modCore c (Core.scheduled (startedSchedule s p h))
    | none => t := by
  unfold switchSchedule
  rw [hs]
  rfl

theorem switchSchedule_kept {p : Site} {h : Schedule} (hs : (s.router p).staged = some h) :
    (switchSchedule s p).router p = (s.router p).switched (s.router p).rewrite (startedSchedule s p h) ∧
    (∀ q, q ≠ p → (switchSchedule s p).router q = s.router q) ∧ Switched s (switchSchedule s p) ∧
    (∀ c, coreAt s p = some c →
      (switchSchedule s p).core c = (s.core c).scheduled (startedSchedule s p h) ∧ OtherCoresKept s (switchSchedule s p) c) := by
  rw [switchSchedule_eq hs]
  dsimp only
  have hr := State.modRouter_router_same (s := s) p (Router.switched (s.router p).rewrite (startedSchedule s p h))
  have ho (q : Site) (hq : q ≠ p) : (s.modRouter p (Router.switched (s.router p).rewrite (startedSchedule s p h))).router q = s.router q :=
    (State.modRouter_router ..).trans (if_neg hq)
  have hf : Switched s (s.modRouter p (Router.switched (s.router p).rewrite (startedSchedule s p h))) := rfl
  have hc (d : CoreId) : (s.modRouter p (Router.switched (s.router p).rewrite (startedSchedule s p h))).core d = s.core d := rfl
  generalize s.modRouter p (Router.switched (s.router p).rewrite (startedSchedule s p h)) = v at *
  split
  · next d hd =>
    have hz : Switched v (v.modCore d (Core.scheduled (startedSchedule s p h))) := rfl
    refine ⟨hr, ho, hf.trans hz, fun c hcc => ?_⟩
    obtain rfl : d = c := Option.some.inj (hd.symm.trans hcc)
    refine ⟨by rw [State.modCore_core_same, hc], fun x hx => ?_⟩
    rw [State.modCore_core, if_neg hx, hc]
  · next hn => exact ⟨hr, ho, hf, fun c hcc => absurd (hn.symm.trans hcc) (Option.some_ne_none c).symm⟩

theorem takeSwitch_staged {p : Site} {h : Schedule} (hs : (s.router p).staged = some h) : takeSwitch s p = countSwitch (switchSchedule s p) h := by
  rw [takeSwitch, hs]

theorem takeSwitch_none {p : Site} (hs : (s.router p).staged = none) : takeSwitch s p = s := by
  rw [takeSwitch, hs]

/-- A router that switches, its core with it. -/
theorem takeSwitch_kept {p : Site} {h : Schedule} (hs : (s.router p).staged = some h) :
    (takeSwitch s p).router p = (s.router p).switched (s.router p).rewrite (startedSchedule s p h) ∧
    (∀ q, q ≠ p → (takeSwitch s p).router q = s.router q) ∧ Switched s (takeSwitch s p) ∧
    (∀ c, coreAt s p = some c → (takeSwitch s p).core c = (s.core c).scheduled (startedSchedule s p h) ∧ OtherCoresKept s (takeSwitch s p) c) := by
  rw [takeSwitch_staged hs]
  obtain ⟨h1, h2, h3, h4⟩ := switchSchedule_kept hs
  generalize switchSchedule s p = v at *
  have hz := switched_countSwitch v h
  have hf : countSwitch v h = { v with ctl := (countSwitch v h).ctl } := by
    unfold countSwitch
    split <;> rfl
  generalize countSwitch v h = w at *
  have hr (q : Site) : w.router q = v.router q := by
    rw [hf]
    rfl
  have hc (d : CoreId) : w.core d = v.core d := by
    rw [hf]
    rfl
  exact ⟨(hr p).trans h1, fun q hq => (hr q).trans (h2 q hq), h3.trans hz, fun c hcc =>
    ⟨(hc c).trans (h4 c hcc).1, fun d hd => (hc d).trans ((h4 c hcc).2 d hd)⟩⟩

theorem takeSwitch_other {p q : Site} (hq : q ≠ p) : (takeSwitch s p).router q = s.router q := by
  cases hs : (s.router p).staged with
  | none => rw [takeSwitch_none hs]
  | some h => exact (takeSwitch_kept hs).2.1 q hq

theorem switched_takeSwitch (s : State) (p : Site) : Switched s (takeSwitch s p) := by
  cases hs : (s.router p).staged with
  | none =>
    rw [takeSwitch_none hs]
    rfl
  | some h => exact (takeSwitch_kept hs).2.2.1

theorem switched_takeSwitches (l : List Site) (s : State) : Switched s (l.foldl takeSwitch s) :=
  foldl_prop (p := Switched s) (fun u p h => h.trans (switched_takeSwitch u p)) l rfl

/-- Each router of a list switches once, at the schedule it has staged. -/
theorem takeSwitches_router {p : Site} {h : Schedule} (l : List Site) {s : State} (hs : (s.router p).staged = some h) (hp : p ∈ l) :
    (l.foldl takeSwitch s).router p = (s.router p).switched (s.router p).rewrite (startedSchedule s p h) := by
  have hdone (l : List Site) {u : State} (hu : (u.router p).staged = none) : (l.foldl takeSwitch u).router p = u.router p := by
    induction l generalizing u with
    | nil => rfl
    | cons q l ih =>
      have hq : (takeSwitch u q).router p = u.router p := by
        by_cases hq : p = q
        · rw [← hq, takeSwitch_none hu]
        · exact takeSwitch_other hq
      exact (ih (by rw [hq]; exact hu)).trans hq
  induction l generalizing s with
  | nil => exact absurd hp List.not_mem_nil
  | cons q l ih =>
    rw [List.foldl_cons]
    by_cases hq : p = q
    · obtain ⟨h1, -⟩ := takeSwitch_kept hs
      rw [← hq, hdone l (by rw [h1]; rfl), h1]
    · have hr : (takeSwitch s q).router p = s.router p := takeSwitch_other hq
      have hcy : (takeSwitch s q).flue.cycle = s.flue.cycle := by rw [switched_takeSwitch s q]
      have hst : startedSchedule (takeSwitch s q) p h = startedSchedule s p h := by rw [startedSchedule, startedSchedule, hr, hcy]
      rw [ih (by rw [hr]; exact hs) (List.mem_of_ne_of_mem hq hp), hr, hst]

theorem mem_of_mget {α : Type} {d : α} : ∀ {m : SMap α} {n : Nat}, mget d m n ≠ d → (n, mget d m n) ∈ m := by
  intro m n h
  induction m with
  | nil => exact absurd rfl h
  | cons e m ih =>
    obtain ⟨j, v⟩ := e
    by_cases hj : j = n
    · have hv : mget d ((j, v) :: m) n = v := if_pos hj
      rw [hv, hj]
      exact List.mem_cons_self
    · have hv : mget d ((j, v) :: m) n = mget d m n := if_neg hj
      rw [hv] at h ⊢
      exact List.mem_cons_of_mem _ (ih h)

theorem mem_rewriteMates {p : Site} {h : Schedule} (hs : (s.router p).staged = some h) (hw : (s.router p).rewrite ≠ []) : p ∈ rewriteMates s h := by
  have hm : (p, s.router p) ∈ s.flue.routers := mem_of_mget fun hc => by
    rw [State.router, hc] at hs
    cases hs
  refine List.mem_map.mpr ⟨_, List.mem_filter.mpr ⟨hm, ?_⟩, rfl⟩
  dsimp only
  rw [hs]
  simp [hw]

theorem scheduleSwitch_now {p : Site} {h : Schedule} (hr : hasRouter s p = true) (hs : (s.router p).staged = some h) (hc : h.c0 ≤ s.flue.cycle) :
    exec (.scheduleSwitch p) s = .next (if (s.router p).rewrite.isEmpty then takeSwitch s p else (rewriteMates s h).foldl takeSwitch s) := by
  refine (if_pos hr).trans (congrArg Host.Outcome.next ?_)
  rw [hs]
  exact if_neg (Nat.not_lt.mpr hc)

theorem scheduleSwitch_no {p : Site} (hr : hasRouter s p = true)
    (h : (s.router p).staged = none ∨ ∃ h, (s.router p).staged = some h ∧ s.flue.cycle < h.c0) : exec (.scheduleSwitch p) s = .next s := by
  refine (if_pos hr).trans (congrArg Host.Outcome.next ?_)
  obtain h | ⟨h, hs, hc⟩ := h
  · rw [h]
  · rw [hs]
    exact if_pos hc

/-! ##### Stops -/

theorem stopSender_of {w : Site × Nat × Bool} {n : Nat} (h1 : (s.flue.stopOut.find? fun x => decide (x.2 = w)) = some (n, w))
    (h2 : (s.flue.stopOut.find? fun x => decide (x.1 = n)) = some (n, w)) : stopSender s w = some n := by
  rw [stopSender, h1]
  exact if_pos h2

/-- What is known where a bridge may send a word: it is the bridge's oldest. -/
theorem stopSender_some {w : Site × Nat × Bool} {n : Nat} (h : stopSender s w = some n) :
    ∃ x ∈ s.flue.stopOut, x.2 = w ∧ x.1 = n ∧ (s.flue.stopOut.find? fun y => decide (y.1 = x.1)) = some x := by
  unfold stopSender at h
  split at h
  · next e he =>
    obtain ⟨hf, hn⟩ := Option.ite_none_right_eq_some.mp h
    refine ⟨e, List.mem_of_find?_eq_some he, by simpa using List.find?_some he, Option.some.inj hn, hf⟩
  · cases h

theorem streamStopWord_sends {p : Site} {k n : Nat} {b : Bool} (h1 : (s.flue.stopOut.find? fun x => decide (x.2 = (p, k, b))) = some (n, p, k, b))
    (h2 : (s.flue.stopOut.find? fun x => decide (x.1 = n)) = some (n, p, k, b)) (h : mget 0 s.flue.stopAt n ≤ s.flue.cycle) :
    exec (.streamStopWord p k b) s = .next { s with flue := { s.flue with
      stopOut := eraseFirst (n, p, k, b) s.flue.stopOut
      stopQ := s.flue.stopQ ++ [(s.flue.cycle + 32, p, k, b)]
      stopAt := mset 0 s.flue.stopAt n (s.flue.cycle + 1) } } := by
  refine congrArg Host.Outcome.next ?_
  rw [stopSender_of h1 h2]
  exact if_neg (Nat.not_lt.mpr h)

theorem applyStreamStops_frame (s : State) : applyStreamStops s =
    { s with
      flue := { s.flue with stopQ := s.flue.stopQ.filter fun e => decide (s.flue.cycle < e.1) }, cores := (applyStreamStops s).cores } := by
  unfold applyStreamStops
  refine foldl_prop (p := fun u : State => u = { s with
    flue := { s.flue with stopQ := s.flue.stopQ.filter fun e => decide (s.flue.cycle < e.1) }, cores := u.cores }) (fun u e h => ?_) _ rfl
  split
  · rw [State.modCore, h]
  · exact h

/-- One word that is due stops or frees its stream at the island. -/
theorem applyStreamStops_one {a : Nat} {p : Site} {n : Nat} {v : Bool} {c : CoreId} (hq : s.flue.stopQ = [(a, p, n, v)]) (ha : a ≤ s.flue.cycle)
    (hc : coreAt s p = some c) : mget false ((applyStreamStops s).core c).island.stop n = v ∧ OtherCoresKept s (applyStreamStops s) c := by
  have hx : applyStreamStops s = ({ s with flue := { s.flue with stopQ := [] } } : State).modCore c fun q => q.modIsland fun r =>
      { r with stop := mset false r.stop n v } := by
    unfold applyStreamStops
    dsimp only
    have hyes : ([(a, p, n, v)].filter fun e => decide (e.1 ≤ s.flue.cycle)) = [(a, p, n, v)] :=
      List.filter_eq_self.mpr fun e he => by
        rw [List.mem_singleton.mp he]
        exact decide_eq_true ha
    have hno : ([(a, p, n, v)].filter fun e => decide (s.flue.cycle < e.1)) = [] :=
      List.filter_eq_nil_iff.mpr fun e he => by
        rw [List.mem_singleton.mp he, decide_eq_true_eq]
        exact Nat.not_lt.mpr ha
    rw [hq, hyes, hno, List.foldl_cons, List.foldl_nil]
    have hcc : coreAt { s with flue := { s.flue with stopQ := [] } } p = some c := hc
    rw [hcc]
  rw [hx]
  refine ⟨?_, fun d hd => ?_⟩
  · rw [State.modCore_core_same]
    exact mget_mset_same ..
  · rw [State.modCore_core, if_neg hd]
    rfl

/-! ##### Draught compiles -/

/-- Events have been raised and bakes' records have changed. -/
def NoticesAlone (s t : State) : Prop := t = { s with aon := t.aon, baker := t.baker }

theorem NoticesAlone.trans (h : NoticesAlone s t) (k : NoticesAlone t u) : NoticesAlone s u := by
  unfold NoticesAlone at *
  rw [k, h]

theorem noticesAlone_raiseS (s : State) (i x v a : Nat) : NoticesAlone s (raiseS s i x v a) := by
  unfold NoticesAlone
  rw [raiseS_eq]

theorem noticesAlone_triggerAll (s : State) (row : Nat) (pick : Bake → Bool) : NoticesAlone s (triggerAll s row pick) := by
  unfold triggerAll
  refine foldl_prop (p := NoticesAlone s) (fun u e h => h.trans ?_) _ rfl
  exact rfl

/-- The state of a compile once the bakes, flits and signals on lost routes are told apart. -/
def compileCleared (s : State) : State :=
  let broken := triggerAll s 3 (bakeBroken s)
  { broken with
    flue := { broken.flue with held := broken.flue.held.filter fun h => !heldLost s h },
    ring := { broken.ring with sigs := broken.ring.sigs.filter fun e => !sigLost s e } }

/-- The cores a compile leaves unreachable, and the agents' ports. -/
def compileUnreach (t : State) (plan : DraughtPlan) : List CoreId × SMap Nat :=
  let cores := (List.range (gridSize t)).filter fun c => decide (0 < width t c)
  let first := bindAgents t []
  let un := pruneCores t plan.routes (boundEnds first) 240 cores
  let agents := bindAgents t un
  (if agents = first then un else pruneCores t plan.routes (boundEnds agents) 240 cores, agents)

/-- The compile's routes and bindings in force. -/
def routesTaken (t : State) (plan : DraughtPlan) : State :=
  let x := compileUnreach t plan
  { t with
    map := { t.map with unreach := x.1 },
    flue := { t.flue with
      offsets := plan.offsets, routes := plan.routes, compiles := t.flue.compiles + 1, agents := x.2,
      cutOff := t.flue.cutOff || x.2.isEmpty, compiling := false } }

/-- The length of the longest route noted. -/
def routeNoted (t : State) (n : Nat) : State := { t with flue := { t.flue with maxRoute := n } }

/-- The compile's routes, bindings and longest route in force. -/
def compileTaken (t : State) (plan : DraughtPlan) : State := routeNoted (routesTaken t plan) (longestShortest (routesTaken t plan))

/-- What a compile reports. -/
def compileNotices (v t : State) (x : List CoreId × SMap Nat) : State :=
  let new := x.1.filter fun c => !v.map.unreach.contains c
  let t := new.foldl (fun t c => raiseS t 0x3002 (c + 1) 3 c) t
  let t := triggerAll t 3 fun b => new.any fun c => (bakeCores b).contains c
  let u := raiseS t 0x3310 4 1 t.flue.maxRoute
  let t : State := { t with aon := if 40 < t.flue.maxRoute then u.aon else t.aon }
  if x.2.isEmpty then pauseAll (raiseS t 0x3310 6 3 0) else t

theorem compileDraught_eq (s : State) (plan : DraughtPlan) : compileDraught s plan =
    compileNotices (compileCleared s) (compileTaken (compileCleared s) plan) (compileUnreach (compileCleared s) plan) := by
  unfold compileDraught compileNotices compileTaken routeNoted routesTaken compileUnreach compileCleared
  dsimp only

theorem noticesAlone_compileNotices (v t : State) (x : List CoreId × SMap Nat) : NoticesAlone t (compileNotices v t x) := by
  unfold compileNotices
  dsimp only
  have h1 := (foldl_prop (p := NoticesAlone t) (fun u c h => h.trans (noticesAlone_raiseS u 0x3002 (c + 1) 3 c))
    (x.1.filter fun c => !v.map.unreach.contains c) (rfl : NoticesAlone t t)).trans
    (noticesAlone_triggerAll _ 3 fun b => (x.1.filter fun c => !v.map.unreach.contains c).any fun c => (bakeCores b).contains c)
  generalize triggerAll ((x.1.filter fun c => !v.map.unreach.contains c).foldl (fun t c => raiseS t 0x3002 (c + 1) 3 c) t) 3
    (fun b => (x.1.filter fun c => !v.map.unreach.contains c).any fun c => (bakeCores b).contains c) = w at *
  have h2 : NoticesAlone w { w with aon := if 40 < w.flue.maxRoute then (raiseS w 0x3310 4 1 w.flue.maxRoute).aon else w.aon } := rfl
  split
  · exact ((h1.trans h2).trans (noticesAlone_raiseS ..)).trans rfl
  · exact h1.trans h2

/-- The longest route has been noted, events raised and bakes' records changed. -/
def RouteNoted (s t : State) : Prop := t = { s with aon := t.aon, baker := t.baker, flue := { s.flue with maxRoute := t.flue.maxRoute } }

theorem NoticesAlone.noted (h : NoticesAlone s t) : RouteNoted s t := by
  unfold NoticesAlone at h
  unfold RouteNoted
  rw [h]

theorem linkGo_congr (h : RouteNoted s t) (d : Dir) : ∀ n p a, linkGo t d n p a = linkGo s d n p a
  | 0, _, _ => rfl
  | n + 1, p, a => by
    have hr (q : Site) : hasRouter t q = hasRouter s q := by
      rw [h]
      rfl
    have hc (q : Site) : coreAt t q = coreAt s q := by
      rw [h]
      rfl
    have hl (m : Nat) : hearthLive t m = hearthLive s m := by
      rw [h]
      rfl
    unfold linkGo
    simp only [hr, hc, hl, linkGo_congr h d n]

theorem relax_congr (h : RouteNoted s t) (l : SMap Nat) : relax t l = relax s l := by
  have hl : t.flue.lostDirs = s.flue.lostDirs := by rw [h]
  have hk (p : Site) (d : Dir) : linkTo t p d = linkTo s p d := linkGo_congr h d 16 p 0
  unfold relax
  simp only [hl, hk]

theorem relaxed_congr (h : RouteNoted s t) : ∀ n l, relaxed t n l = relaxed s n l
  | 0, _ => rfl
  | n + 1, l => by rw [relaxed, relaxed, relax_congr h, relaxed_congr h n]

theorem longestShortest_congr (h : RouteNoted s t) : longestShortest t = longestShortest s := by
  have hg : gridSize t = gridSize s := by
    rw [h]
    rfl
  have hu : usable t = usable s := by
    rw [h]
    rfl
  have hs : siteOf t = siteOf s := by
    rw [h]
    rfl
  unfold longestShortest
  simp only [hg, hu, hs, relaxed_congr h]

theorem compileCleared_kept (s : State) : (∀ h ∈ (compileCleared s).flue.held, h ∈ s.flue.held) ∧ (∀ e ∈ (compileCleared s).ring.sigs, e ∈ s.ring.sigs) ∧
    compileCleared s = { s with
      baker := (compileCleared s).baker, flue := { s.flue with held := (compileCleared s).flue.held }
      ring := { s.ring with sigs := (compileCleared s).ring.sigs }, aon := (compileCleared s).aon } := by
  have h := noticesAlone_triggerAll s 3 (bakeBroken s)
  unfold compileCleared
  dsimp only
  generalize triggerAll s 3 (bakeBroken s) = v at *
  unfold NoticesAlone at h
  refine ⟨fun x hx => ?_, fun x hx => ?_, ?_⟩
  · rw [h] at hx
    exact (List.mem_filter.mp hx).1
  · rw [h] at hx
    exact (List.mem_filter.mp hx).1
  · rw [h]

theorem longestShortest_noted (t : State) (n : Nat) : longestShortest (routeNoted t n) = longestShortest t :=
  longestShortest_congr (by unfold RouteNoted routeNoted; rfl)

theorem compileTaken_kept (t : State) (plan : DraughtPlan) : (compileTaken t plan).flue.routes = plan.routes ∧
    (compileTaken t plan).flue.offsets = plan.offsets ∧ (compileTaken t plan).flue.maxRoute = longestShortest (compileTaken t plan) ∧
    (compileTaken t plan).flue.compiles = t.flue.compiles + 1 ∧ (compileTaken t plan).flue.compiling = false ∧
    (compileTaken t plan).flue.held = t.flue.held ∧
    compileTaken t plan = { t with map := (compileTaken t plan).map, flue := (compileTaken t plan).flue } := by
  have hf : routesTaken t plan = { t with map := (routesTaken t plan).map, flue := (routesTaken t plan).flue } := rfl
  have hr : (routesTaken t plan).flue.routes = plan.routes ∧ (routesTaken t plan).flue.offsets = plan.offsets ∧
      (routesTaken t plan).flue.compiles = t.flue.compiles + 1 ∧ (routesTaken t plan).flue.compiling = false ∧
      (routesTaken t plan).flue.held = t.flue.held := ⟨rfl, rfl, rfl, rfl, rfl⟩
  unfold compileTaken
  generalize routesTaken t plan = w at *
  obtain ⟨h1, h2, h3, h4, h5⟩ := hr
  rw [longestShortest_noted]
  generalize longestShortest w = n
  exact ⟨h1, h2, rfl, h3, h4, h5, by rw [routeNoted, hf]⟩

theorem compileDraught_kept (s : State) (plan : DraughtPlan) : ∃ t, compileDraught s plan = t ∧ t.flue.routes = plan.routes ∧
    t.flue.offsets = plan.offsets ∧ t.flue.maxRoute = longestShortest t ∧ t.flue.compiles = s.flue.compiles + 1 ∧ t.flue.compiling = false ∧
    (∀ h ∈ t.flue.held, h ∈ s.flue.held) ∧ (∀ e ∈ t.ring.sigs, e ∈ s.ring.sigs) ∧ t.cores = s.cores ∧
    t = { s with aon := t.aon, map := t.map, flue := t.flue, baker := t.baker, ring := t.ring } := by
  refine ⟨_, compileDraught_eq s plan, ?_⟩
  obtain ⟨c1, c2, c3⟩ := compileCleared_kept s
  generalize compileCleared s = c at *
  obtain ⟨k1, k2, k3, k4, k5, k6, k7⟩ := compileTaken_kept c plan
  generalize compileTaken c plan = v at *
  have hn := noticesAlone_compileNotices c v (compileUnreach c plan)
  generalize compileNotices c v (compileUnreach c plan) = t at *
  have hl := longestShortest_congr hn.noted
  unfold NoticesAlone at hn
  have hfl : t.flue = v.flue := by rw [hn]
  have hri : t.ring = c.ring := by rw [hn, k7]
  have hm : t.map = v.map := by rw [hn]
  refine ⟨?_, ?_, ?_, ?_, ?_, fun h hh => c1 h ?_, fun e he => c2 e ?_, ?_, ?_⟩
  · rw [hfl, k1]
  · rw [hfl, k2]
  · rw [hl, hfl, k3]
  · rw [hfl, k4, c3]
  · rw [hfl, k5]
  · rwa [← k6, ← hfl]
  · rwa [← hri]
  · rw [hn, k7, c3]
  · rw [hfl, hri, hm, hn, k7, c3]

/-- Settles O34: a schedule by the rules, its switch by the cycle, and a stop by the 32 cycles of its notice. -/
theorem schedulesAndStopsTakeEffect : Obligations.SchedulesAndStopsTakeEffect := by
  unfold Obligations.SchedulesAndStopsTakeEffect
  refine ⟨⟨?_, ?_, ?_, ?_, ?_⟩, ⟨?_, ?_, ?_, ?_⟩, ?_, ?_⟩
  · exact fun s p b n c0 tnt m den ep hr hok => (if_pos hr).trans (congrArg Host.Outcome.next (if_pos hok))
  · intro s p b n c0 tnt m den ep hr hok
    refine ⟨_, (if_pos hr).trans (congrArg Host.Outcome.next (if_neg (Bool.eq_false_iff.mp hok))), ?_, raise_kept .., raise_eq ..⟩
    exact raise_event_of rfl rfl rfl rfl ..
  · intro s p h hr hs hw hc
    have hx := scheduleSwitch_now hr hs hc
    rw [if_pos (by rw [hw]; rfl)] at hx
    obtain ⟨h1, h2, h3, h4⟩ := takeSwitch_kept hs
    rw [startedSchedule_of_nil h hw] at h1 h4
    refine ⟨_, hx, ?_, h2, fun c hcc => ?_, ?_⟩
    · rw [h1]
      generalize s.router p = r at hw ⊢
      obtain ⟨table, sched, staged, rewrite, hold⟩ := r
      obtain rfl : rewrite = [] := hw
      rfl
    · obtain ⟨hk, ho⟩ := h4 c hcc
      rw [hk]
      exact ⟨rfl, rfl, rfl, ho⟩
    · unfold Switched at h3
      rw [h3]
  · intro s p h hr hs hw hc
    have hx := scheduleSwitch_now hr hs hc
    rw [if_neg (by rw [List.isEmpty_iff]; exact hw)] at hx
    have h1 := takeSwitches_router (rewriteMates s h) hs (mem_rewriteMates hs hw)
    rw [startedSchedule_of_ne h hw] at h1
    have h3 := switched_takeSwitches (rewriteMates s h) s
    unfold Switched at h3
    refine ⟨_, hx, h1, ?_⟩
    rw [h3]
  · exact fun s p hr h => scheduleSwitch_no hr h
  · intro s
    refine ⟨_, rfl, fun e he => ?_, fun hall => ?_, fun c n b hq hn hc => ?_, rfl⟩
    · obtain ⟨hin, hlt⟩ := List.mem_filter.mp he
      exact ⟨hin, of_decide_eq_true hlt⟩
    · have hno : (s.flue.maskQ.filter fun e => decide (e.1 ≤ s.flue.cycle)) = [] :=
        List.filter_eq_nil_iff.mpr fun e he => by
          rw [decide_eq_true_eq]
          exact Nat.not_le.mpr (hall e he)
      have hyes : (s.flue.maskQ.filter fun e => decide (s.flue.cycle < e.1)) = s.flue.maskQ :=
        List.filter_eq_self.mpr fun e he => decide_eq_true (hall e he)
      unfold applyStops
      dsimp only
      rw [hno, hyes]
      rfl
    · have hyes : (s.flue.maskQ.filter fun e => decide (e.1 ≤ s.flue.cycle)) = [(c, n, b)] := by
        rw [hq]
        exact List.filter_eq_self.mpr fun e he => by
          rw [List.mem_singleton.mp he]
          exact decide_eq_true hc
      unfold applyStops
      dsimp only
      rw [hyes]
      exact bitAt_setBit_same _ hn b
  · intro s n p k b h1 h2 hle
    exact ⟨_, streamStopWord_sends h1 h2 hle, rfl, rfl, mget_mset_same 0 s.flue.stopAt n (s.flue.cycle + 1), rfl⟩
  · intro s p k b hall
    refine congrArg Host.Outcome.next ?_
    split
    · rfl
    · next n hn =>
      obtain ⟨x, hx, hw, rfl, hf⟩ := stopSender_some hn
      obtain ⟨e, he, hne⟩ | hlt := hall x hx hw
      · exact absurd (Option.some.inj (he.symm.trans hf)) hne
      · exact if_pos hlt
  · intro s
    have hf := applyStreamStops_frame s
    refine ⟨_, rfl, fun e he => ?_, fun c p n b k hq hc hk => applyStreamStops_one hq hc hk, ?_⟩
    · rw [hf] at he
      obtain ⟨hin, hlt⟩ := List.mem_filter.mp he
      exact ⟨hin, of_decide_eq_true hlt⟩
    · rw [hf]
  · exact fun s plan h => congrArg Host.Outcome.next (if_neg (Bool.eq_false_iff.mp h))
  · intro s plan h
    obtain ⟨t, ht, hk⟩ := compileDraught_kept s plan
    exact ⟨t, congrArg Host.Outcome.next ((if_pos h).trans ht), hk⟩

end Sys2Proof.Machine

/-! #### Flits of the draught share (R181 to R187, R226, R259) -/

namespace Sys2Proof.Machine

variable {s t u : State} {c : CoreId}

/-- From `s` to `t` core `c` alone has changed. -/
def OwnCore (s t : State) (c : CoreId) : Prop := OtherCoresKept s t c ∧ t = { s with cores := t.cores }

theorem OwnCore.trans (h : OwnCore s t c) (k : OwnCore t u c) : OwnCore s u c :=
  ⟨fun d hd => (k.1 d hd).trans (h.1 d hd), by rw [k.2, h.2]⟩

theorem ownCore_modCore (s : State) (c : CoreId) (f : Core → Core) : OwnCore s (s.modCore c f) c := ⟨otherCoresKept_modCore s c f, rfl⟩

theorem mset_idem {α : Type} [DecidableEq α] {d : α} {m : SMap α} {k : Nat} (v : α) : mset d (mset d m k v) k v = mset d m k v := by
  by_cases hv : v = d
  · show smSet _ (smSet _ m k v) k v = smSet _ m k v
    simp only [smSet, if_pos hv, smDrop, List.filter_filter, Bool.and_self]
  · exact mset_mset hv hv

/-- A change that finds nothing to change in a core just written. -/
theorem modCore_modCore_id {f g : Core → Core} (h : g (f (s.core c)) = f (s.core c)) : (s.modCore c f).modCore c g = s.modCore c f := by
  have hm : mset {} (s.modCore c f).cores c (g ((s.modCore c f).core c)) = (s.modCore c f).cores := by
    rw [State.modCore_core_same, h]
    exact mset_idem _
  show { s.modCore c f with cores := mset {} (s.modCore c f).cores c (g ((s.modCore c f).core c)) } = _
  rw [hm]

theorem dropDraught_core (s : State) (c : CoreId) :
    (dropDraught s c).core c = (s.core c).modIsland fun r => { r with inDraught := r.inDraught.drop 1 } := State.modCore_core_same ..

theorem ownCore_dropDraught (s : State) (c : CoreId) : OwnCore s (dropDraught s c) c := ownCore_modCore ..

/-! ##### PUT flits -/

/-- The words of a flit change neither the draught share nor the sequencer. -/
theorem putWord_kept (s : State) (c : CoreId) (d : Draught) (k : Core) (n : Nat) (w : U64 × Bool) :
    (putWord s c d k n w).island = k.island ∧ (putWord s c d k n w).seq = k.seq := by
  unfold putWord
  dsimp only
  repeat' split
  all_goals exact ⟨rfl, rfl⟩

theorem putWords_kept (s : State) (c : CoreId) (d : Draught) (k : Core) :
    (putWords s c d k).island = k.island ∧ (putWords s c d k).seq = k.seq := by
  unfold putWords
  refine foldl_prop (p := fun q : Core => q.island = k.island ∧ q.seq = k.seq) (fun q e h => ?_) _ ⟨rfl, rfl⟩
  obtain ⟨h1, h2⟩ := putWord_kept s c d q e.2 e.1
  exact ⟨h1.trans h.1, h2.trans h.2⟩

theorem putWords_one {s : State} {c : CoreId} {d : Draught} {w : U64 × Bool} (hd : d.data = [w]) (k : Core) :
    putWords s c d k = putWord s c d k 0 w := by
  rw [putWords, hd]
  rfl

section

variable {k : Core} {d : Draught} {n : Nat} {w : U64 × Bool} (htn : d.tnt = k.island.tenant)
include htn

theorem putWord_stale (he : d.epoch ≠ k.island.epoch) :
    putWord s c d k n w = k.modLive fun l => { l with staleWords := l.staleWords + 1 } := by
  rw [putWord, if_neg (not_not.mpr htn), if_pos he]

variable (he : d.epoch = k.island.epoch) (hp : k.power = .on) (hi : k.inst ≠ none)
include he hp hi

theorem putWord_outside (hin : inWindow k.island.windows (d.taddr + 8 * n) = false) : putWord s c d k n w =
    k.modSync fun y => { y with opened := openCrumb y.opened d (srcCore s d) c 1 (d.taddr + 8 * n) } := by
  have hon : ¬ (k.power ≠ .on ∨ k.inst = none) := fun h => h.elim (fun h => h hp) hi
  rw [putWord, if_neg (not_not.mpr htn), if_neg (not_not.mpr he), if_neg hon, hin]
  exact if_pos rfl

theorem putWord_asks (hin : inWindow k.island.windows (d.taddr + 8 * n) = true) :
    putWord s c d k n w = k.modPad fun p => p.askIngress [((d.taddr + 8 * n) / 8, w.1, w.2)] none := by
  have hon : ¬ (k.power ≠ .on ∨ k.inst = none) := fun h => h.elim (fun h => h hp) hi
  rw [putWord, if_neg (not_not.mpr htn), if_neg (not_not.mpr he), if_neg hon, hin]
  exact if_neg (by decide)

end

theorem sendCrumbs_core (s : State) (c : CoreId) (pick : Crumb → Bool) (d : Draught) :
    ((sendCrumbs s c pick d).core c).island.inDraught = (s.core c).island.inDraught ∧ ((sendCrumbs s c pick d).core c).seq = (s.core c).seq ∧
    ((sendCrumbs s c pick d).core c).pad = (s.core c).pad ∧
    ((sendCrumbs s c pick d).core c).sync.opened = (s.core c).sync.opened.filter (fun r => !pick r) ∧ OwnCore s (sendCrumbs s c pick d) c := by
  unfold sendCrumbs
  dsimp only
  refine ⟨?_, ?_, ?_, ?_, ownCore_modCore ..⟩
  all_goals rw [State.modCore_core_same]
  all_goals rfl

/-- The state once the words of the flit at the head are checked. -/
def wordsPut (s : State) (c : CoreId) (d : Draught) : State := (dropDraught s c).modCore c fun k => putWords s c d k

theorem wordsPut_core (s : State) (c : CoreId) (d : Draught) : (wordsPut s c d).core c =
    putWords s c d ((s.core c).modIsland fun r => { r with inDraught := r.inDraught.drop 1 }) := by
  rw [wordsPut, State.modCore_core_same, dropDraught_core]

theorem ownCore_wordsPut (s : State) (c : CoreId) (d : Draught) : OwnCore s (wordsPut s c d) c :=
  (ownCore_dropDraught s c).trans (ownCore_modCore ..)

theorem putWordArrival_some {d : Draught} (h : coreExists s c = true) (hd : headDraught s c 1 = some d) (hw : hearthWrites s c = true) :
    exec (.putWordArrival c) s =
      .next (if d.lst then sendCrumbs (wordsPut s c d) c (sameInstance d (srcCore s d)) d else wordsPut s c d) := by
  refine (onCore_of_exists h _).trans (congrArg Host.Outcome.next ?_)
  rw [hd]
  dsimp only
  rw [hw, if_neg (by decide)]
  rfl

theorem putWordArrival_word {d : Draught} {w : U64 × Bool} (h : coreExists s c = true) (hd : headDraught s c 1 = some d)
    (hw : hearthWrites s c = true) (hdata : d.data = [w]) (hl : d.lst = false) : ∃ t, exec (.putWordArrival c) s = .next t ∧
      t.core c = putWord s c d ((s.core c).modIsland fun r => { r with inDraught := r.inDraught.drop 1 }) 0 w := by
  refine ⟨_, putWordArrival_some h hd hw, ?_⟩
  rw [hl, if_neg Bool.false_ne_true, wordsPut_core, putWords_one hdata]

/-! ##### Probes, answers and crumbs -/

/-- The state once a probe has been answered. -/
def probeAnswered (s : State) (c : CoreId) (d : Draught) (t : State) : State :=
  (sendCrumbs t c (fun r => decide (r.init = srcCore s d)) d).modCore c fun k => k.modIsland fun r =>
    { r with outbox := r.outbox ++ [(0, replyTo s c d 3 none)] }

theorem probeAnswered_kept (s : State) (c : CoreId) (d : Draught) (t : State) :
    ((probeAnswered s c d t).core c).island.inDraught = (t.core c).island.inDraught ∧
    ((probeAnswered s c d t).core c).island.outbox.getLast? = some (0, replyTo s c d 3 none) ∧
    (∀ r ∈ ((probeAnswered s c d t).core c).sync.opened, r.init ≠ srcCore s d) ∧ ((probeAnswered s c d t).core c).pad = (t.core c).pad ∧
    OwnCore t (probeAnswered s c d t) c := by
  obtain ⟨h1, -, h3, h4, h5⟩ := sendCrumbs_core t c (fun r => decide (r.init = srcCore s d)) d
  unfold probeAnswered
  generalize sendCrumbs t c (fun r => decide (r.init = srcCore s d)) d = v at *
  refine ⟨?_, ?_, fun r hr => ?_, ?_, h5.trans (ownCore_modCore ..)⟩
  · rw [State.modCore_core_same]
    exact h1
  · rw [State.modCore_core_same]
    exact List.getLast?_concat ..
  · rw [State.modCore_core_same] at hr
    change r ∈ (v.core c).sync.opened at hr
    rw [h4] at hr
    simpa using (List.mem_filter.mp hr).2
  · rw [State.modCore_core_same]
    exact h3

theorem fenceProbe_some {d : Draught} (h : coreExists s c = true) (hd : headDraught s c 2 = some d) (hw : hearthWrites s c = true) :
    ∃ t, exec (.fenceProbe c) s = .next (probeAnswered s c d t) ∧ (t.core c).island.inDraught = (s.core c).island.inDraught.drop 1 ∧
      (t.core c).pad = (s.core c).pad ∧ OwnCore s t c := by
  have hx (t : State) (ht : t = if d.tnt ≠ ((dropDraught s c).core c).island.tenant then
      (dropDraught s c).modCore c fun k => k.modSync fun y => { y with opened := openCrumb y.opened d (srcCore s d) c 2 0 }
      else dropDraught s c) : exec (.fenceProbe c) s = .next (probeAnswered s c d t) := by
    refine (onCore_of_exists h _).trans (congrArg Host.Outcome.next ?_)
    rw [hd]
    dsimp only
    rw [hw, if_neg (by decide), ht]
    rfl
  by_cases htn : d.tnt ≠ ((dropDraught s c).core c).island.tenant
  · refine ⟨_, hx _ (if_pos htn).symm, ?_, ?_, (ownCore_dropDraught s c).trans (ownCore_modCore ..)⟩
    · rw [State.modCore_core_same, dropDraught_core]
      rfl
    · rw [State.modCore_core_same, dropDraught_core]
      rfl
  · refine ⟨_, hx _ (if_neg htn).symm, ?_, ?_, ownCore_dropDraught s c⟩
    · rw [dropDraught_core]
      rfl
    · rw [dropDraught_core]
      rfl

/-- A FENCE once a target has answered. -/
def answered (d : Draught) (src : CoreId) (f : FenceWait) : FenceWait :=
  if f.sobj = d.sobj.toNat ∧ f.count = d.fcount then { f with waiting := f.waiting.filter fun x => decide (x ≠ src) } else f

theorem answered_waits {d : Draught} {src : CoreId} {f : FenceWait} (h1 : (answered d src f).sobj = d.sobj.toNat)
    (h2 : (answered d src f).count = d.fcount) : src ∉ (answered d src f).waiting := by
  unfold answered at *
  split at h1
  · next h =>
    rw [if_pos h]
    exact fun hm => absurd rfl (of_decide_eq_true (List.mem_filter.mp hm).2)
  · next h =>
    rw [if_neg h] at h2
    exact absurd ⟨h1, h2⟩ h

/-- A core once an answer has reached it. -/
def answerTaken (d : Draught) (src : CoreId) (k : Core) : Core :=
  if d.epoch ≠ k.island.epoch then k else k.modSync fun y => { y with fence := y.fence.map (answered d src) }

theorem answerTaken_current {d : Draught} {src : CoreId} {k : Core} (h : d.epoch = k.island.epoch) :
    answerTaken d src k = k.modSync fun y => { y with fence := y.fence.map (answered d src) } := if_neg (not_not.mpr h)

theorem probeAnswer_some {d : Draught} (h : coreExists s c = true) (hd : headDraught s c 3 = some d) :
    exec (.probeAnswer c) s = .next ((dropDraught s c).modCore c (answerTaken d (srcCore s d))) := by
  refine (onCore_of_exists h _).trans (congrArg Host.Outcome.next ?_)
  rw [hd]
  rfl

/-- A core once a crumb has reached it. -/
def crumbTaken (r : Crumb) (k : Core) : Core :=
  let k := k.modLive fun l => { l with crumbsRecv := l.crumbsRecv + 1 }
  if r.epoch ≠ k.island.epoch ∨ r.att ≠ k.seq.attempt then k.modLive fun l => { l with crumbsOld := l.crumbsOld + 1 }
  else if k.sync.held.length < 16 then k.modSync fun y => { y with held := y.held ++ [r] }
  else k.modLive fun l => { l with crumbsLost := l.crumbsLost + 1 }

theorem crumbTaken_kept (r : Crumb) (k : Core) :
    (crumbTaken r k).island = k.island ∧ (crumbTaken r k).live.crumbsRecv = k.live.crumbsRecv + 1 := by
  unfold crumbTaken
  dsimp only
  repeat' split
  all_goals exact ⟨rfl, rfl⟩

theorem crumbTaken_held (r : Crumb) (k : Core) : (crumbTaken r k).sync.held =
    if r.epoch = k.island.epoch ∧ r.att = k.seq.attempt ∧ k.sync.held.length < 16 then k.sync.held ++ [r] else k.sync.held := by
  unfold crumbTaken
  dsimp only [Core.modLive]
  by_cases h : r.epoch ≠ k.island.epoch ∨ r.att ≠ k.seq.attempt
  · have hno : ¬ (r.epoch = k.island.epoch ∧ r.att = k.seq.attempt ∧ k.sync.held.length < 16) := by
      rintro ⟨he, ha, -⟩
      exact h.elim (fun h => h he) fun h => h ha
    rw [if_neg hno, if_pos h]
  · obtain ⟨he, ha⟩ := not_or.mp h
    rw [if_neg h]
    by_cases hl : k.sync.held.length < 16
    · have hyes : r.epoch = k.island.epoch ∧ r.att = k.seq.attempt ∧ k.sync.held.length < 16 := ⟨not_not.mp he, not_not.mp ha, hl⟩
      rw [if_pos hyes, if_pos hl]
      rfl
    · have hno : ¬ (r.epoch = k.island.epoch ∧ r.att = k.seq.attempt ∧ k.sync.held.length < 16) := fun h => hl h.2.2
      rw [if_neg hno, if_neg hl]

theorem takeCrumb_eq (s : State) (c : CoreId) (r : Crumb) : takeCrumb s c r = raise (s.modCore c (crumbTaken r)) 0x3250
    (BitVec.ofNat 8 (c + 1)) 2 (BitVec.ofNat 8 (0x20 + hearthOf s c)) (BitVec.ofNat 64 r.taddr) := rfl

theorem takeCrumb_core (s : State) (c : CoreId) (r : Crumb) : (takeCrumb s c r).core c = crumbTaken r (s.core c) := by
  rw [takeCrumb_eq, State.core, raise_cores]
  exact State.modCore_core_same ..

theorem takeCrumb_event (hq : t.aon = s.aon) (hn : eventsNow t = eventsNow s) (ht : eventTime t = eventTime s) (c : CoreId) (r : Crumb) : EventRaised s (takeCrumb t c r) 0x3250
    (c + 1) 2 (BitVec.ofNat 8 (0x20 + hearthOf t c)) r.taddr :=
  raise_event_of (s := s) (t := t.modCore c (crumbTaken r)) (congrArg AlwaysOn.queue hq) (congrArg AlwaysOn.lost hq) hn ht ..

theorem takeCrumb_frame (s : State) (c : CoreId) (r : Crumb) : OtherCoresKept s (takeCrumb s c r) c ∧
    takeCrumb s c r = { s with cores := (takeCrumb s c r).cores, aon := (takeCrumb s c r).aon } := by
  obtain ⟨hk, hf⟩ := ownCore_modCore s c (crumbTaken r)
  rw [takeCrumb_eq]
  generalize s.modCore c (crumbTaken r) = u at *
  refine ⟨fun e he => ?_, ?_⟩
  · rw [State.core, raise_cores]
    exact hk e he
  · have hu (a : AlwaysOn) : { u with aon := a } = { s with cores := u.cores, aon := a } := by rw [hf]
    rw [raise_cores]
    exact (raise_eq ..).trans (hu _)

theorem crumb_some {d : Draught} {r : Crumb} (h : coreExists s c = true) (hd : headDraught s c 4 = some d) (hr : d.crumb = some r) :
    exec (.crumb c) s = .next (takeCrumb (dropDraught s c) c r) := by
  refine (onCore_of_exists h _).trans (congrArg Host.Outcome.next ?_)
  rw [hd]
  dsimp only
  rw [hr]

theorem headDraught_none_idle (h : coreExists s c = true) :
    (headDraught s c 2 = none ∨ hearthWrites s c = false → exec (.fenceProbe c) s = .next s) ∧
    (headDraught s c 3 = none → exec (.probeAnswer c) s = .next s) ∧ (headDraught s c 4 = none → exec (.crumb c) s = .next s) := by
  refine ⟨fun hn => ?_, fun hn => ?_, fun hn => ?_⟩
  · refine (onCore_of_exists h _).trans (congrArg Host.Outcome.next ?_)
    split
    · rfl
    · next d hd =>
      refine if_pos ?_
      obtain hn | hn := hn
      · exact absurd (hn.symm.trans hd) (Option.some_ne_none d).symm
      · rw [hn]
        rfl
  · refine (onCore_of_exists h _).trans (congrArg Host.Outcome.next ?_)
    rw [hn]
  · refine (onCore_of_exists h _).trans (congrArg Host.Outcome.next ?_)
    rw [hn]

/-- Settles O31: a flit of each type by the test on its tenant, epoch and window. -/
theorem remoteWritesAreCheckedAndProbed : Obligations.RemoteWritesAreCheckedAndProbed := by
  unfold Obligations.RemoteWritesAreCheckedAndProbed
  refine ⟨⟨?_, ?_, ?_, ?_, ?_⟩, ?_, ?_, ?_, ?_, ?_⟩
  · intro s c d h hd hw
    refine ⟨_, putWordArrival_some h hd hw, ?_⟩
    obtain ⟨hi, hs⟩ := putWords_kept s c d ((s.core c).modIsland fun r => { r with inDraught := r.inDraught.drop 1 })
    rw [← wordsPut_core] at hi hs
    have ho := ownCore_wordsPut s c d
    split
    · obtain ⟨k1, k2, -, -, k5⟩ := sendCrumbs_core (wordsPut s c d) c (sameInstance d (srcCore s d)) d
      obtain ⟨hk, hf⟩ := ho.trans k5
      exact ⟨k1.trans (congrArg Island.inDraught hi), k2.trans hs, hk, hf⟩
    · exact ⟨congrArg Island.inDraught hi, hs, ho.1, ho.2⟩
  · intro s c h hn
    refine (onCore_of_exists h _).trans (congrArg Host.Outcome.next ?_)
    split
    · rfl
    · next d hd =>
      refine if_pos ?_
      obtain hn | hn := hn
      · exact absurd (hn.symm.trans hd) (Option.some_ne_none d).symm
      · rw [hn]
        rfl
  · intro s c d w h hd hw hdata hl ht he hp hi hin
    obtain ⟨t, hx, hc⟩ := putWordArrival_word h hd hw hdata hl
    replace hc := hc.trans (putWord_asks (n := 0) ht he hp hi hin)
    exact ⟨t, hx, by rw [hc]; rfl, by rw [hc]; rfl⟩
  · intro s c d w h hd hw hdata hl ht he hp hi hin hop
    obtain ⟨t, hx, hc⟩ := putWordArrival_word h hd hw hdata hl
    replace hc := hc.trans (putWord_outside (n := 0) ht he hp hi hin)
    refine ⟨t, hx, by rw [hc]; rfl, ?_⟩
    rw [hc]
    show openCrumb (s.core c).sync.opened d (srcCore s d) c 1 (d.taddr + 8 * 0) = _
    rw [hop]
    rfl
  · intro s c d w h hd hw hdata hl ht he
    obtain ⟨t, hx, hc⟩ := putWordArrival_word h hd hw hdata hl
    replace hc := hc.trans (putWord_stale ht he)
    exact ⟨t, hx, by rw [hc]; rfl, by rw [hc]; rfl, by rw [hc]; rfl⟩
  · intro s c d h hd hw
    obtain ⟨t, hx, hi, hp, ho⟩ := fenceProbe_some h hd hw
    obtain ⟨k1, k2, k3, k4, k5⟩ := probeAnswered_kept s c d t
    obtain ⟨hk, hf⟩ := ho.trans k5
    exact ⟨_, hx, k1.trans hi, k2, k3, k4.trans hp, hk, hf⟩
  · intro s c d h hd he
    have hcore : ((dropDraught s c).modCore c (answerTaken d (srcCore s d))).core c = _ :=
      (State.modCore_core_same ..).trans ((congrArg _ (dropDraught_core s c)).trans (answerTaken_current he))
    obtain ⟨hk, hf⟩ := (ownCore_dropDraught s c).trans (ownCore_modCore (dropDraught s c) c (answerTaken d (srcCore s d)))
    refine ⟨_, probeAnswer_some h hd, by rw [hcore]; rfl, fun f hf h1 h2 => ?_, ?_, by rw [hcore]; rfl, hk, hf⟩
    · rw [hcore] at hf
      obtain ⟨g, -, rfl⟩ := List.mem_map.mp hf
      exact answered_waits h1 h2
    · rw [hcore]
      exact List.length_map ..
  · intro s c d h hd he
    refine (probeAnswer_some h hd).trans (congrArg Host.Outcome.next (modCore_modCore_id ?_))
    exact if_pos he
  · intro s c d r h hd hr
    obtain ⟨k1, k2⟩ := crumbTaken_kept r ((dropDraught s c).core c)
    have k3 := crumbTaken_held r ((dropDraught s c).core c)
    rw [← takeCrumb_core, dropDraught_core] at k1 k2 k3
    obtain ⟨hk, hf⟩ := takeCrumb_frame (dropDraught s c) c r
    obtain ⟨gk, gf⟩ := ownCore_dropDraught s c
    refine ⟨_, crumb_some h hd hr, congrArg Island.inDraught k1, k2, k3, ?_, ?_, fun e he => (hk e he).trans (gk e he), ?_⟩
    · exact takeCrumb_event (t := dropDraught s c) rfl rfl rfl ..
    · exact raise_kept ..
    · generalize takeCrumb (dropDraught s c) c r = u at *
      rw [hf, gf]
  · exact fun s c h => headDraught_none_idle h

end Sys2Proof.Machine

/-! #### The bank cycle of a core whose units have nothing in hand (R164 to R169) -/

namespace Sys2Proof.Machine

variable {s : State} {c : CoreId} {k : Core}

/-! ##### Units with nothing in hand -/

theorem jobs_none {p : Scratchpad} (h : p.work = []) (u : Nat) : p.jobs u = [] := by
  rw [Scratchpad.jobs, h]
  rfl

theorem setJobs_none {p : Scratchpad} (h : p.work = []) (u : Nat) : p.setJobs u [] = p := by
  have hw : mset [] p.work u ([] : List Work) = p.work := by
    rw [h]
    rfl
  rw [Scratchpad.setJobs, hw]

theorem askUnit_none {p : Scratchpad} (h : p.work = []) (u cycle cap : Nat) : p.askUnit u cycle cap = p := by
  unfold Scratchpad.askUnit
  rw [jobs_none h, askAll]
  dsimp only
  rw [setJobs_none h, List.map_nil, List.append_nil]

/-- A core whose units have nothing in hand. -/
def UnitsIdle (k : Core) : Prop := k.pad.work = [] ∧ k.seq.flight = []

theorem unitHead_none (h : UnitsIdle k) (u : UnitKind) : unitHead k u = none := by
  rw [unitHead, h.2]
  rfl

theorem makePart_idle (h : UnitsIdle k) (u : UnitKind) : makePart s c k u = k := by
  rw [makePart, unitHead_none h]

theorem postUnit_idle (h : UnitsIdle k) (u : UnitKind) : postUnit s c k u = k := by
  have hs : startPart s k u = k := by rw [startPart, unitHead_none h]
  rw [postUnit, hs, makePart_idle h, unitHead_none h]

theorem settleUnit_idle (h : UnitsIdle k) (u : UnitKind) : settleUnit s c k u = k := by
  rw [settleUnit, makePart_idle h, unitHead_none h]

theorem postDrain_idle (h : UnitsIdle k) (n : Nat) : postDrain s k n = k := by
  have hd : drainMake s k n = k := by
    rw [drainMake, jobs_none h.1]
    rfl
  rw [postDrain, hd, Core.modPad, askUnit_none h.1]

theorem postDma_idle (h : UnitsIdle k) : postDma s k = k := by
  unfold postDma
  dsimp only [Core.modPad]
  rw [jobs_none h.1, List.map_nil, List.filter_nil, setJobs_none h.1, askUnit_none h.1]

/-- What keeps an element under every step keeps it under a fold. -/
theorem foldl_fixed {α β : Type} {f : β → α → β} {b : β} (h : ∀ a, f b a = b) : ∀ l : List α, l.foldl f b = b
  | [] => rfl
  | a :: l => by rw [List.foldl_cons, h, foldl_fixed h l]

theorem postUnits_idle (h : UnitsIdle k) : postUnits s c k = k := by
  rw [postUnits, foldl_fixed (postDrain_idle h), foldl_fixed (postUnit_idle h), postDma_idle h, postDigest, Core.modPad, askUnit_none h.1]

/-! ##### The end of the cycle -/

/-- From `k` to `q` nothing of a core has changed but the records of its arrays and what is in flight. -/
def ArraysAlone (k q : Core) : Prop := q = { k with arrays := q.arrays, seq := { k.seq with flight := q.seq.flight } }

theorem settle_arrays (s : State) (k : Core) : ArraysAlone k (settle s k) ∧ (k.seq.flight = [] → (settle s k).seq.flight = []) := by
  unfold settle
  dsimp only
  repeat' split
  all_goals refine ⟨rfl, fun h => ?_⟩
  all_goals exact List.map_eq_nil_iff.mpr h

theorem drainSettle_idle (h : UnitsIdle k) (n : Nat) : drainSettle s k n = settle s k := by
  unfold drainSettle
  dsimp only
  rw [jobs_none h.1]
  dsimp only [List.filter_nil, List.foldl_nil, Core.modPad]
  rw [jobs_none h.1, List.filter_nil, setJobs_none h.1]

theorem settleUnits_idle (h : UnitsIdle k) : ArraysAlone k (settleUnits s c k) := by
  rw [settleUnits, foldl_fixed (settleUnit_idle h)]
  have key : ArraysAlone k ((List.range 4).foldl (drainSettle s) k) ∧ UnitsIdle ((List.range 4).foldl (drainSettle s) k) := by
    refine foldl_prop (p := fun q => ArraysAlone k q ∧ UnitsIdle q) (fun q n hq => ?_) _ ⟨rfl, h⟩
    obtain ⟨ha, hi⟩ := hq
    obtain ⟨hs, hf⟩ := settle_arrays s q
    rw [drainSettle_idle hi]
    unfold ArraysAlone at ha hs ⊢
    refine ⟨?_, ?_, hf hi.2⟩
    · rw [hs, ha]
    · rw [hs]
      exact hi.1
  exact key.1

/-! ##### A lone request -/

/-- The core before a lone request is served. -/
def outCleared (k : Core) : Core := k.modPad fun p => { p with out := [] }

theorem heads_single (e : Waiting × Nat) : heads [e] = [e] := rfl

/-- The banks serve a lone request, and nothing loses. -/
theorem grantCycle_single (interval : Nat) (p : Scratchpad) (w : Waiting) : grantCycle interval p [(w, 0)] = ⟨[0], []⟩ := by
  have hb : inBank (bankOf w.req.word) [(w, 0)] = [(w, 0)] := by simp [inBank]
  have hbanks : ([(w, 0)].map fun e : Waiting × Nat => bankOf e.1.req.word).dedup = [bankOf w.req.word] := by simp
  have hinit : initCandidates p [bankOf w.req.word] [(w, 0)] = if w.req.wr.isSome && !p.blockValid w.req.word then [(w, 0)] else [] := by
    rw [initCandidates, List.flatMap_cons, List.flatMap_nil, List.append_nil, hb, heads_single]
    exact List.filter_cons
  unfold grantCycle
  dsimp only
  rw [hbanks, hinit]
  by_cases hw : (w.req.wr.isSome && !p.blockValid w.req.word) = true
  · rw [if_pos hw, List.flatMap_cons, hb]
    rfl
  · rw [if_neg hw, List.foldl_cons, grantBank, hb]
    rfl

/-- The requests of a bank cycle, with their places. -/
def bankWaiting (k : Core) (reqs : List BankReq) : List (Waiting × Nat) :=
  (k.pad.waiting ++ reqs.map (Waiting.mk · 0) ++ k.pad.backReqs).zipIdx

/-- The core once the banks have chosen: the losers are counted and age. -/
def bankChosen (k : Core) (l : List (Waiting × Nat)) (g : Grant) : Core :=
  let isBack (w : Waiting) : Bool := match w.req.tag with
    | .back _ => true
    | _ => false
  (g.losses.foldl (fun k e => k.modLive fun v => v.lose e.1 e.2) k).modPad fun p =>
    { p with
      out := [],
      waiting := (l.filter fun e => !g.won.contains e.2 && !isBack e.1).map fun e => { e.1 with age := e.1.age + 1 },
      backs := p.backs.map fun b => (b.1, b.2.1, b.2.2 + 1) }

/-- The requests that the banks have chosen. -/
def bankServed (l : List (Waiting × Nat)) (g : Grant) : List BankReq := (l.filter fun e => g.won.contains e.2).map fun e => e.1.req

/-- The state once requests have been served in a core and their reads reported. -/
def bankReported (s : State) (c : CoreId) (r : Core × List (Nat × Bool × List ReadEvent)) : State :=
  r.2.foldl (fun t e => if e.2.1 then scrubReport t c e.2.2 else reportReads t c e.1 e.2.2) (s.modCore c fun _ => r.1)

theorem bankCycle_eq (s : State) (c : CoreId) (stale : BankReq → Bool) (reqs : List BankReq) :
    bankCycle s c stale reqs =
      let l := bankWaiting (s.core c) reqs
      let g := grantCycle (setting s 0x3230 1) (s.core c).pad l
      (bankReported s c (serveAll s stale (bankChosen (s.core c) l g) (bankServed l g)), bankServed l g) := rfl

/-- One request, in a core with nothing else in hand, is served. -/
def Lone (k : Core) : Prop := k.pad.waiting = [] ∧ k.pad.backs = []

theorem bankWaiting_lone (h : Lone k) (r : BankReq) : bankWaiting k [r] = [(⟨r, 0⟩, 0)] := by
  rw [bankWaiting, h.1, Scratchpad.backReqs, h.2]
  rfl

theorem bankChosen_lone (h : Lone k) (r : BankReq) : bankChosen k [(⟨r, 0⟩, 0)] ⟨[0], []⟩ = outCleared k := by
  obtain ⟨hw, hb⟩ := h
  unfold bankChosen outCleared
  dsimp only [List.foldl_nil, Core.modPad]
  rw [hb, hw]
  rfl

theorem bankCycle_lone {stale : BankReq → Bool} {r : BankReq} (h : Lone (s.core c)) :
    bankCycle s c stale [r] = (bankReported s c (serveAll s stale (outCleared (s.core c)) [r]), [r]) := by
  rw [bankCycle_eq, bankWaiting_lone h]
  dsimp only
  rw [grantCycle_single, bankChosen_lone h]
  rfl

/-- The state once a lone write has been made. -/
theorem bankReported_none {r : Core × List (Nat × Bool × List ReadEvent)} (h : r.2 = []) :
    bankReported s c r = s.modCore c fun _ => r.1 := by
  rw [bankReported, h]
  rfl

theorem serveAll_single {stale : BankReq → Bool} {r : BankReq} (h : (serveReq stale k r).2 = []) :
    serveAll s stale k [r] = ((serveReq stale k r).1, []) := by
  rw [serveAll, h]
  rfl

/-! ##### The whole cycle -/

/-- The state in which the banks choose. -/
def padPosted (s : State) (c : CoreId) (ups : List (Nat × Check)) : State :=
  s.modCore c fun k => postUnits s c (k.modPad fun p => upsetWords p ups)

/-- The state once the banks have served. -/
def banksServed (s : State) (c : CoreId) (reqs : List BankReq) (ups : List (Nat × Check)) : State :=
  let b := bankCycle (padPosted s c ups) c (dmaStale (padPosted s c ups) c) reqs
  b.2.foldl (ingressServed c) b.1

theorem padCycle_eq (s : State) (c : CoreId) (reqs : List BankReq) (ups : List (Nat × Check)) :
    padCycle s c reqs ups = (banksServed s c reqs ups).modCore c (settleUnits (banksServed s c reqs ups) c) := rfl

theorem padPosted_quiet (h : PadQuiet (s.core c)) : (padPosted s c []).core c = s.core c := by
  obtain ⟨-, -, hwork, hfl⟩ := h
  exact (State.modCore_core_same ..).trans (postUnits_idle (k := s.core c) ⟨hwork, hfl⟩)

/-- A lone request in a core with nothing in hand, whose serving reports no event. -/
theorem banksServed_lone {r : BankReq} {q : Core} (h : PadQuiet (s.core c))
    (hq : serveReq (dmaStale (padPosted s c []) c) (outCleared (s.core c)) r = (q, [])) :
    banksServed s c [r] [] = ingressServed c ((padPosted s c []).modCore c fun _ => q) r := by
  have hp := padPosted_quiet h
  obtain ⟨hw, hb, -, -⟩ := h
  unfold banksServed
  generalize padPosted s c [] = t at *
  rw [bankCycle_lone (by rw [hp]; exact ⟨hw, hb⟩), hp]
  have hs := serveAll_single (s := t) (stale := dmaStale t c) (k := outCleared (s.core c)) (r := r) (by rw [hq])
  rw [hs, hq, bankReported_none rfl]
  rfl

theorem ownCore_padPosted (s : State) (c : CoreId) (ups : List (Nat × Check)) : OwnCore s (padPosted s c ups) c := by
  unfold padPosted
  exact ownCore_modCore ..

theorem bankCycle_runs {reqs : List BankReq} {ups : List (Nat × Check)} (hx : coreExists s c = true) (hr : padRuns s c = true) :
    exec (.scratchpadBankCycle c reqs ups) s =
      .next ((banksServed s c reqs ups).modCore c (settleUnits (banksServed s c reqs ups) c)) :=
  (onCore_of_exists hx _).trans (congrArg Host.Outcome.next ((if_pos hr).trans (padCycle_eq s c reqs ups)))

/-- A cycle with one request, which completes no transfer and reports nothing. -/
theorem bankCycle_one {r : BankReq} {q : Core} (hx : coreExists s c = true) (hr : padRuns s c = true) (h : PadQuiet (s.core c))
    (hq : serveReq (dmaStale (padPosted s c []) c) (outCleared (s.core c)) r = (q, [])) (ht : ∀ u, ingressServed c u r = u)
    (hi : UnitsIdle q) : ∃ t, exec (.scratchpadBankCycle c [r] []) s = .next t ∧ ArraysAlone q (t.core c) ∧ t = { s with cores := t.cores } := by
  have hs := banksServed_lone h hq
  rw [ht] at hs
  have ho := (ownCore_padPosted s c []).trans (ownCore_modCore _ c fun _ => q)
  rw [← hs] at ho
  refine ⟨_, bankCycle_runs hx hr, ?_, (ho.trans (ownCore_modCore ..)).2⟩
  rw [State.modCore_core_same, hs, State.modCore_core_same]
  exact settleUnits_idle hi

end Sys2Proof.Machine

/-! #### Flits on their way into a scratchpad (R166, R211 to R213, R226) -/

namespace Sys2Proof.Machine

variable {s : State} {c : CoreId}

/-- The state once the stream flit at the head has left its share. -/
def dropStream (s : State) (c : CoreId) : State := s.modCore c fun k => k.modIsland fun r => { r with inStream := r.inStream.drop 1 }

theorem dropStream_core (s : State) (c : CoreId) :
    (dropStream s c).core c = (s.core c).modIsland fun r => { r with inStream := r.inStream.drop 1 } := State.modCore_core_same ..

theorem streamFlitArrival_some {f : Flit} {rest : List Flit} (h : coreExists s c = true) (hf : (s.core c).island.inStream = f :: rest)
    (hw : hearthWrites s c = true) : exec (.streamFlitArrival c) s = .next (streamFlit (dropStream s c) c f) := by
  refine (onCore_of_exists h _).trans (congrArg Host.Outcome.next ?_)
  rw [hf]
  dsimp only
  rw [hw]
  exact if_neg (by decide)

theorem dropStream_rest {f : Flit} {rest : List Flit} (hf : (s.core c).island.inStream = f :: rest) :
    ((dropStream s c).core c).island.inStream = rest := by
  rw [dropStream_core]
  show (s.core c).island.inStream.drop 1 = rest
  rw [hf]
  rfl

theorem streamFlit_none {f : Flit} (h : ((s.core c).island.recv.find? fun e => decide (e.1 = f.strm.toNat)) = none) :
    streamFlit s c f = seqError s c := by
  unfold streamFlit
  dsimp only
  rw [h]

section

variable {f : Flit} {n : Nat} {r : RecvEntry}
  (h : ((s.core c).island.recv.find? fun e => decide (e.1 = f.strm.toNat)) = some (n, r)) (he : r.epoch = (s.core c).island.epoch)
include h he

theorem streamFlit_past (hp : f.epl.toNat ≠ r.epoch.toNat % 256) :
    streamFlit s c f = s.modCore c fun k => k.modLive fun l => l.flueInc 1 := by
  unfold streamFlit
  dsimp only
  rw [h]
  dsimp only
  rw [if_neg (not_not.mpr he), if_pos hp]

theorem streamFlit_first (hp : f.epl.toNat = r.epoch.toNat % 256) (hf : f.first = true) (hs : f.seq.toNat = r.num % 1024) :
    streamFlit s c f = takeFlit s c n r 0 false f := by
  unfold streamFlit
  dsimp only
  rw [h]
  dsimp only
  rw [if_neg (not_not.mpr he), if_neg (not_not.mpr hp), if_pos ⟨hf, hs⟩]

end

/-- An entry set anew is found where it stood. -/
theorem find_setRecv {l : List (Nat × RecvEntry)} {m n : Nat} {r : RecvEntry} (q : RecvEntry)
    (h : (l.find? fun e => decide (e.1 = m)) = some (n, r)) :
    ((l.map fun e => if e.1 = n then (n, q) else e).find? fun e => decide (e.1 = m)) = some (n, q) := by
  have hn : n = m := by simpa using List.find?_some h
  subst hn
  induction l with
  | nil => exact absurd h (by simp)
  | cons e l ih =>
    by_cases hm : e.1 = n
    · rw [List.map_cons, if_pos hm, List.find?_cons_of_pos (by simp)]
    · rw [List.find?_cons_of_neg (by simpa using hm)] at h
      rw [List.map_cons, if_neg hm, List.find?_cons_of_neg (by simpa using hm)]
      exact ih h

theorem ownCore_setRecv (s : State) (c : CoreId) (n : Nat) (r : RecvEntry) : OwnCore s (setRecv s c n r) c := ownCore_modCore ..

theorem ownCore_takeFlit (s : State) (c : CoreId) (n : Nat) (r : RecvEntry) (w : Nat) (again : Bool) (f : Flit) :
    OwnCore s (takeFlit s c n r w again f) c := by
  unfold takeFlit
  exact (ownCore_modCore ..).trans (ownCore_setRecv ..)

/-- The words of a whole transfer that its first flit carries. -/
theorem takeFlit_whole {f : Flit} {n : Nat} {r : RecvEntry} (h16 : r.size / 8 ≤ 16) :
    takeFlit s c n r 0 false f = setRecv (s.modCore c fun k => writeFlit k n r r.num 0 f true) c n { r with got := some (r.size / 8, false) } := by
  have hw : 0 + min 16 (r.size / 8 - 0) = r.size / 8 := by omega
  unfold takeFlit
  dsimp only
  rw [hw, decide_eq_true (le_refl _)]
  rfl

theorem writeFlit_whole {f : Flit} {n : Nat} {r : RecvEntry} {k : Core} (hl : r.size / 8 ≤ f.data.length) (m : Nat) :
    (writeFlit k n r m 0 f true).pad = { k.pad with
      waiting := k.pad.waiting ++ ((f.data.take (r.size / 8)).zipIdx.map fun e =>
        ⟨⟨0, true, 0, (r.base + m % max 1 r.depth * r.size) / 8 + e.2, some (e.1, bitAt f.pmask e.2),
          .ingress (if e.2 + 1 = r.size / 8 then some n else none)⟩, 0⟩) } := by
  have hlen : (f.data.take (r.size / 8)).length = r.size / 8 := by rw [List.length_take, Nat.min_eq_left hl]
  unfold writeFlit Scratchpad.askIngress
  dsimp only [Core.modPad]
  rw [Nat.sub_zero, List.length_map, List.length_zipIdx, hlen]
  congr 2
  refine List.ext_getElem (by simp) fun i h1 h2 => ?_
  simp

/-- The core that has counted a flit out of sequence or without an entry. -/
def errorCounted (s : State) (c : CoreId) : State := s.modCore c fun k => k.modLive fun l => l.flueInc 2

theorem seqError_core (s : State) (c : CoreId) : (seqError s c).core c = (s.core c).modLive fun l => l.flueInc 2 := by
  rw [seqError, State.core, raise_cores]
  exact State.modCore_core_same ..

theorem seqError_frame (s : State) (c : CoreId) : seqError s c = { s with cores := (seqError s c).cores, aon := (seqError s c).aon } := by
  have hf := (ownCore_modCore s c fun k => k.modLive fun l => l.flueInc 2).2
  unfold seqError
  generalize (s.modCore c fun k => k.modLive fun l => l.flueInc 2) = u at *
  have hu (a : AlwaysOn) : { u with aon := a } = { s with cores := u.cores, aon := a } := by rw [hf]
  rw [raise_cores]
  exact (raise_eq ..).trans (hu _)

theorem flueInc_same (l : Counters) (n : Nat) : mget 0 (l.flueInc n).flue n = mget 0 l.flue n + 1 := mget_mset_same ..

/-! ##### The last word of a transfer -/

/-- From `s` to `t` no sync object has changed. -/
def ObjectsKept (s t : State) : Prop := t.ring.globals = s.ring.globals ∧ ∀ d, (t.core d).sync = (s.core d).sync

theorem ObjectsKept.trans {t u : State} (h : ObjectsKept s t) (k : ObjectsKept t u) : ObjectsKept s u :=
  ⟨k.1.trans h.1, fun d => (k.2 d).trans (h.2 d)⟩

theorem ObjectsKept.obj {t : State} (h : ObjectsKept s t) (n : Nat) : syncObj t n = syncObj s n := by
  unfold syncObj
  rw [h.1, h.2]

theorem objectsKept_modCore {f : Core → Core} (h : (f (s.core c)).sync = (s.core c).sync) : ObjectsKept s (s.modCore c f) := by
  refine ⟨rfl, fun d => ?_⟩
  rw [State.modCore_core]
  split
  · next hd => rw [hd, h]
  · rfl

theorem streamDone_signals {n : Nat} {r : RecvEntry} (h : ((s.core c).island.recv.find? fun e => decide (e.1 = n)) = some (n, r))
    (he : (syncObj s r.sobj).epoch = r.epoch) : streamDone s c n =
      setSyncObj (setRecv s c n { r with got := none, num := r.num + 1 }) r.sobj
        { syncObj s r.sobj with value := (syncObj s r.sobj).value + r.amt } := by
  have ho : ObjectsKept s (setRecv s c n { r with got := none, num := r.num + 1 }) := objectsKept_modCore rfl
  unfold streamDone
  rw [h]
  dsimp only
  unfold signalObj
  dsimp only
  rw [ho.obj, if_pos he]
  rfl

/-- What the write of an arrived word leaves as it was. -/
theorem serveReq_ingress {stale : BankReq → Bool} {k : Core} {q : BankReq} {d : U64 × Bool} {n : Option Nat} (hw : q.wr = some d)
    (ht : q.tag = .ingress n) (hs : stale q = false) : serveReq stale k q = (k.writeWord q.cls q.word d.1 d.2, []) := by
  unfold serveReq
  rw [ht, hw]
  dsimp only
  rw [hs, if_neg Bool.false_ne_true]

theorem dmaStale_ingress {q : BankReq} {n : Option Nat} (ht : q.tag = .ingress n) : dmaStale s c q = false := by
  unfold dmaStale
  rw [ht]

/-- The cycle in which the last word of a transfer is written. -/
theorem bankCycle_signals {q : BankReq} {d : U64 × Bool} {n : Nat} {r : RecvEntry} (hx : coreExists s c = true) (hr : padRuns s c = true)
    (hquiet : PadQuiet (s.core c)) (hw : q.wr = some d) (ht : q.tag = .ingress (some n))
    (hfind : ((s.core c).island.recv.find? fun e => decide (e.1 = n)) = some (n, r)) (he : (syncObj s r.sobj).epoch = r.epoch) :
    ∃ t, exec (.scratchpadBankCycle c [q] []) s = .next t ∧
      syncObj t r.sobj = { syncObj s r.sobj with value := (syncObj s r.sobj).value + r.amt } ∧
      ((t.core c).island.recv.find? fun e => decide (e.1 = n)) = some (n, { r with got := none, num := r.num + 1 }) ∧
      t = { s with cores := t.cores, ring := t.ring } := by
  have hp := padPosted_quiet hquiet
  have hserve := serveReq_ingress (k := outCleared (s.core c)) hw ht (dmaStale_ingress (s := padPosted s c []) (c := c) ht)
  have hs := banksServed_lone hquiet hserve
  have hi : ingressServed c ((padPosted s c []).modCore c fun _ => (outCleared (s.core c)).writeWord q.cls q.word d.1 d.2) q =
      streamDone ((padPosted s c []).modCore c fun _ => (outCleared (s.core c)).writeWord q.cls q.word d.1 d.2) c n := by
    rw [ingressServed, ht]
  rw [hi] at hs
  have hk : ObjectsKept s ((padPosted s c []).modCore c fun _ => (outCleared (s.core c)).writeWord q.cls q.word d.1 d.2) := by
    refine ObjectsKept.trans (t := padPosted s c []) ?_ (objectsKept_modCore ?_)
    · refine objectsKept_modCore ?_
      exact congrArg Core.sync ((State.modCore_core_same ..).symm.trans hp)
    · rw [hp]
      rfl
  have ho := (ownCore_padPosted s c []).trans (ownCore_modCore _ c fun _ => (outCleared (s.core c)).writeWord q.cls q.word d.1 d.2)
  have hcore : ((padPosted s c []).modCore c fun _ => (outCleared (s.core c)).writeWord q.cls q.word d.1 d.2).core c = _ :=
    State.modCore_core_same ..
  generalize ((padPosted s c []).modCore c fun _ => (outCleared (s.core c)).writeWord q.cls q.word d.1 d.2) = u at *
  have hfind' : ((u.core c).island.recv.find? fun e => decide (e.1 = n)) = some (n, r) := by
    rw [hcore]
    exact hfind
  have hv := hs.trans (streamDone_signals hfind' (by rw [hk.obj, he]))
  rw [hk.obj] at hv
  obtain ⟨h1, h2, -⟩ := syncAlone_setSyncObj (setRecv u c n { r with got := none, num := r.num + 1 }) r.sobj
    { syncObj s r.sobj with value := (syncObj s r.sobj).value + r.amt }
  have hobj := syncObj_setSyncObj (setRecv u c n { r with got := none, num := r.num + 1 }) r.sobj
    { syncObj s r.sobj with value := (syncObj s r.sobj).value + r.amt }
  rw [← hv] at h1 h2 hobj
  have hc := h2 c
  rw [setRecv, State.modCore_core_same, hcore] at hc
  have hidle : UnitsIdle ((banksServed s c [q] []).core c) := by
    rw [hc]
    exact ⟨hquiet.2.2.1, hquiet.2.2.2⟩
  have hrun := bankCycle_runs (ups := []) (reqs := [q]) hx hr
  generalize banksServed s c [q] [] = v at *
  have harr : ArraysAlone (v.core c) (settleUnits v c (v.core c)) := settleUnits_idle hidle
  unfold ArraysAlone at harr
  refine ⟨_, hrun, ?_, ?_, ?_⟩
  · rw [(objectsKept_modCore (by rw [harr])).obj, hobj]
  · rw [State.modCore_core_same, harr, hc]
    exact find_setRecv _ hfind
  · have hset := (ho.trans (ownCore_setRecv u c n { r with got := none, num := r.num + 1 })).2
    rw [(ownCore_modCore v c _).2, h1, hset]

/-- Settles O33: the stream flit by the order of its tests, the draught flit by its type and tenant. -/
theorem flueTransfersAreChecked : Obligations.FlueTransfersAreChecked := by
  unfold Obligations.FlueTransfersAreChecked
  refine ⟨⟨?_, ?_, ?_, ?_, ?_⟩, ?_, ?_, ?_, ?_, ?_⟩
  · intro s c h hn
    refine (onCore_of_exists h _).trans (congrArg Host.Outcome.next ?_)
    split
    · rfl
    · next f l hf =>
      refine if_pos ?_
      obtain hn | hn := hn
      · exact absurd (hf.symm.trans hn) (List.cons_ne_nil _ _)
      · rw [hn]
        rfl
  · intro s c f rest n r h hf hw hfind he hp h1 hs h16 hl
    have hfind' : (((dropStream s c).core c).island.recv.find? fun e => decide (e.1 = f.strm.toNat)) = some (n, r) := by
      rw [dropStream_core]
      exact hfind
    have hcore : (takeFlit (dropStream s c) c n r 0 false f).core c = _ :=
      (congrArg (State.core · c) (takeFlit_whole h16)).trans (State.modCore_core_same ..)
    rw [State.modCore_core_same, dropStream_core] at hcore
    refine ⟨_, (streamFlitArrival_some h hf hw).trans (congrArg Host.Outcome.next (streamFlit_first hfind' ?_ hp h1 hs)), ?_, ?_, ?_, ?_, ?_⟩
    · rw [dropStream_core]
      exact he
    · rw [hcore]
      show (s.core c).island.inStream.drop 1 = rest
      rw [hf]
      rfl
    · rw [hcore]
      exact find_setRecv _ hfind
    · rw [hcore]
      exact writeFlit_whole hl _
    · exact (OwnCore.trans (ownCore_modCore ..) (ownCore_takeFlit ..)).1
    · exact (OwnCore.trans (ownCore_modCore ..) (ownCore_takeFlit ..)).2
  · exact fun s c q d n r h hr hquiet hw ht hfind he => bankCycle_signals h hr hquiet hw ht hfind he
  · intro s c f rest h hf hw hfind
    have hfind' : (((dropStream s c).core c).island.recv.find? fun e => decide (e.1 = f.strm.toNat)) = none := by
      rw [dropStream_core]
      exact hfind
    have hcore := seqError_core (dropStream s c) c
    refine ⟨_, (streamFlitArrival_some h hf hw).trans (congrArg Host.Outcome.next (streamFlit_none hfind')), ?_, ?_, ?_, ?_, ?_⟩
    · rw [hcore]
      exact dropStream_rest hf
    · rw [hcore, dropStream_core]
      exact flueInc_same ..
    · rw [hcore, dropStream_core]
      rfl
    · exact raise_event_of (s := s) (t := errorCounted (dropStream s c) c) rfl rfl rfl rfl ..
    · have ho := (ownCore_modCore s c fun k => k.modIsland fun r => { r with inStream := r.inStream.drop 1 }).2
      have he := seqError_frame (dropStream s c) c
      change dropStream s c = _ at ho
      generalize seqError (dropStream s c) c = t at *
      rw [he, ho]
  · intro s c f rest n r h hf hw hfind he hp
    have hfind' : (((dropStream s c).core c).island.recv.find? fun e => decide (e.1 = f.strm.toNat)) = some (n, r) := by
      rw [dropStream_core]
      exact hfind
    have he' : r.epoch = ((dropStream s c).core c).island.epoch := by
      rw [dropStream_core]
      exact he
    refine ⟨_, (streamFlitArrival_some h hf hw).trans (congrArg Host.Outcome.next (streamFlit_past hfind' he' hp)), ?_, ?_, ?_, rfl⟩
    · rw [State.modCore_core_same]
      exact dropStream_rest hf
    · rw [State.modCore_core_same, dropStream_core]
      exact flueInc_same ..
    · rw [State.modCore_core_same, dropStream_core]
      rfl
  · intro s c h hd
    refine (onCore_of_exists h _).trans (congrArg Host.Outcome.next ?_)
    rw [hd]
  · intro s c d rest h hd h5 hff ht
    refine (onCore_of_exists h _).trans (congrArg Host.Outcome.next ?_)
    rw [hd]
    dsimp only
    rw [if_neg h5, if_neg hff, if_pos ht]
  · intro s c d rest h hd hff
    refine (onCore_of_exists h _).trans (congrArg Host.Outcome.next ?_)
    rw [hd]
    dsimp only
    simp only [if_pos hff, ite_self]
  · intro s c d rest h hd h5 hff
    refine (onCore_of_exists h _).trans (congrArg Host.Outcome.next ?_)
    rw [hd]
    dsimp only
    rw [if_pos h5, if_neg hff]
  · intro s c d rest w h hd h1 hff ht hl hdata hop
    have hd1 : ¬ d.mtype = 5 := by rw [h1]; decide
    have hx : exec (.draughtFlitArrival c) s = .next (wordsPut s c d) := by
      refine (onCore_of_exists h _).trans (congrArg Host.Outcome.next ?_)
      rw [hd]
      dsimp only
      rw [if_neg hd1, if_neg hff, if_neg ht, h1, hl]
      rfl
    have hcore := wordsPut_core s c d
    rw [putWords_one hdata] at hcore
    replace hcore := hcore.trans (if_pos ht)
    obtain ⟨hk, hf⟩ := ownCore_wordsPut s c d
    refine ⟨_, hx, ?_, ?_, ?_, hk, hf⟩
    · rw [hcore]
      show (s.core c).island.inDraught.drop 1 = rest
      rw [hd]
      rfl
    · rw [hcore]
      rfl
    · rw [hcore]
      show openCrumb (s.core c).sync.opened d (srcCore s d) c 2 (d.taddr + 8 * 0) = _
      rw [hop]
      rfl

end Sys2Proof.Machine

/-! #### A bank cycle of any core (R163 to R169) -/

namespace Sys2Proof.Machine

variable {s t u : State} {c : CoreId} {k q : Core}

/-- The instance on a core and its recipe have stayed. -/
def ImageKept (k q : Core) : Prop := q.recipe = k.recipe ∧ q.inst = k.inst

theorem ImageKept.refl (k : Core) : ImageKept k k := ⟨rfl, rfl⟩

theorem ImageKept.trans {v : Core} (h : ImageKept k q) (g : ImageKept q v) : ImageKept k v := ⟨g.1.trans h.1, g.2.trans h.2⟩

theorem imageKept_foldl {α : Type} {f : Core → α → Core} (h : ∀ q a, ImageKept q (f q a)) (l : List α) (k : Core) :
    ImageKept k (l.foldl f k) :=
  foldl_prop (p := ImageKept k) (fun _ _ g => g.trans (h _ _)) l (ImageKept.refl k)

theorem imageKept_ite {p : Prop} [Decidable p] {v : Core} (h : ImageKept k q) (g : ImageKept k v) : ImageKept k (if p then q else v) := by
  split
  · exact h
  · exact g

theorem imageKept_modPad (k : Core) (f : Scratchpad → Scratchpad) : ImageKept k (k.modPad f) := ⟨rfl, rfl⟩

theorem imageKept_noteAll (x : VCtx) (k : Core) (l : List VRes) : ImageKept k (x.noteAll k l) := by
  unfold VCtx.noteAll
  split
  · exact ImageKept.refl k
  · exact ⟨rfl, rfl⟩

theorem imageKept_partMakes (s : State) (c : CoreId) (k : Core) (i : StepInst) (p : Nat) (l : List (U64 × Bool)) :
    ImageKept k (partMakes s c k i p l).2 := by
  unfold partMakes
  dsimp only
  split
  · exact imageKept_noteAll ..
  · exact ImageKept.refl k
  · exact ⟨rfl, rfl⟩
  · exact ImageKept.refl k

theorem imageKept_makePart (s : State) (c : CoreId) (k : Core) (v : UnitKind) : ImageKept k (makePart s c k v) := by
  unfold makePart
  split
  · dsimp only
    split
    · exact ImageKept.refl k
    · exact (imageKept_partMakes ..).trans ⟨rfl, rfl⟩
  · exact ImageKept.refl k

theorem imageKept_startPart (s : State) (k : Core) (v : UnitKind) : ImageKept k (startPart s k v) := by
  unfold startPart
  repeat' split
  all_goals exact ⟨rfl, rfl⟩

theorem imageKept_postUnit (s : State) (c : CoreId) (k : Core) (v : UnitKind) : ImageKept k (postUnit s c k v) := by
  have h := (imageKept_startPart s k v).trans (imageKept_makePart s c _ v)
  unfold postUnit
  dsimp only
  split
  · exact h
  · exact h.trans ⟨rfl, rfl⟩

theorem imageKept_settleUnit (s : State) (c : CoreId) (k : Core) (v : UnitKind) : ImageKept k (settleUnit s c k v) := by
  have h := imageKept_makePart s c k v
  unfold settleUnit
  dsimp only
  repeat' split
  all_goals exact h.trans ⟨rfl, rfl⟩

theorem imageKept_countDrain (x : MCtx) (k : Core) (d : Drained) : ImageKept k (countDrain x k d) := ⟨rfl, rfl⟩

theorem imageKept_makeRow (s : State) (k : Core) (x : MCtx) (n row : Nat) (old : Option (List (U64 × Bool))) (double : Bool) :
    ImageKept k (makeRow s k x n row old double).1 := by
  unfold makeRow
  dsimp only
  exact imageKept_ite (ImageKept.refl k) (imageKept_countDrain ..)

theorem imageKept_postDrain (s : State) (k : Core) (n : Nat) : ImageKept k (postDrain s k n) := by
  refine ImageKept.trans (q := drainMake s k n) (imageKept_foldl (fun q j => ?_) _ k) ⟨rfl, rfl⟩
  dsimp only
  repeat' split
  · exact ImageKept.refl q
  · exact ImageKept.refl q
  · exact (imageKept_makeRow ..).trans ⟨rfl, rfl⟩

theorem imageKept_drainSettle (s : State) (k : Core) (n : Nat) : ImageKept k (drainSettle s k n) := by
  unfold drainSettle
  dsimp only
  have h (q : Core) : ImageKept q (settle s q) := by
    have hs := (settle_arrays s q).1
    unfold ArraysAlone at hs
    exact ⟨by rw [hs], by rw [hs]⟩
  refine (ImageKept.trans ?_ ⟨rfl, rfl⟩).trans (h _)
  refine imageKept_foldl (fun q j => ?_) _ k
  exact ⟨rfl, rfl⟩

theorem imageKept_postUnits (s : State) (c : CoreId) (k : Core) : ImageKept k (postUnits s c k) := by
  have h := (imageKept_foldl (imageKept_postDrain s) (List.range 4) k).trans (imageKept_foldl (imageKept_postUnit s c) padUnits _)
  unfold postUnits postDigest postDma
  exact (h.trans (imageKept_modPad ..)).trans (imageKept_modPad ..)

theorem imageKept_settleUnits (s : State) (c : CoreId) (k : Core) : ImageKept k (settleUnits s c k) :=
  (imageKept_foldl (imageKept_settleUnit s c) _ k).trans (imageKept_foldl (imageKept_drainSettle s) _ _)

/-! ##### Serving -/

theorem imageKept_readWord (k : Core) (cls w : Nat) : ImageKept k (k.readWord cls w).2.1 := by
  unfold Core.readWord
  dsimp only
  repeat' split
  all_goals exact ⟨rfl, rfl⟩

theorem imageKept_serveReq (stale : BankReq → Bool) (k : Core) (r : BankReq) : ImageKept k (serveReq stale k r).1 := by
  unfold serveReq
  dsimp only
  repeat' split
  · exact ⟨rfl, rfl⟩
  · exact ⟨rfl, rfl⟩
  · exact ⟨rfl, rfl⟩
  · exact (imageKept_readWord ..).trans ⟨rfl, rfl⟩
  · exact (imageKept_readWord ..).trans ⟨rfl, rfl⟩

theorem imageKept_serveAll (s : State) (stale : BankReq → Bool) : ∀ (l : List BankReq) (k : Core), ImageKept k (serveAll s stale k l).1
  | [], k => ImageKept.refl k
  | r :: l, k => (imageKept_serveReq stale k r).trans (imageKept_serveAll s stale l _)

theorem imageKept_bankChosen (k : Core) (l : List (Waiting × Nat)) (g : Grant) : ImageKept k (bankChosen k l g) := by
  refine ImageKept.trans (imageKept_foldl (fun q e => ?_) g.losses k) (imageKept_modPad ..)
  exact ⟨rfl, rfl⟩

/-! ##### The state around the core -/

/-- From `s` to `t` nothing has changed but core `c`, whose image has stayed, the sync objects, events and the records of bakes. -/
def PadWorks (s t : State) (c : CoreId) : Prop :=
  ImageKept (s.core c) (t.core c) ∧ (∀ d, d ≠ c → t.core d = { s.core d with sync := (t.core d).sync }) ∧
    t = { s with cores := t.cores, aon := t.aon, baker := t.baker, ring := t.ring }

theorem PadWorks.refl (s : State) (c : CoreId) : PadWorks s s c := ⟨ImageKept.refl _, fun _ _ => rfl, rfl⟩

theorem PadWorks.trans (h : PadWorks s t c) (g : PadWorks t u c) : PadWorks s u c := by
  obtain ⟨h1, h2, h3⟩ := h
  obtain ⟨g1, g2, g3⟩ := g
  refine ⟨h1.trans g1, fun d hd => ?_, ?_⟩
  · rw [g2 d hd, h2 d hd]
  · rw [g3, h3]

theorem padWorks_modCore (f : Core → Core) (h : ImageKept (s.core c) (f (s.core c))) : PadWorks s (s.modCore c f) c := by
  refine ⟨?_, fun d hd => ?_, rfl⟩
  · rw [State.modCore_core_same]
    exact h
  · rw [otherCoresKept_modCore s c f d hd]

theorem padWorks_of_eventsBakes (hc : t.cores = s.cores) (hf : t = { s with aon := t.aon, baker := t.baker }) : PadWorks s t c := by
  have hcore (d : CoreId) : t.core d = s.core d := by rw [State.core, hc, State.core]
  refine ⟨?_, fun d _ => by rw [hcore], by rw [hf]⟩
  rw [hcore]
  exact ImageKept.refl _

theorem padWorks_foldl {α : Type} {f : State → α → State} (h : ∀ t a, PadWorks t (f t a) c) (l : List α) (s : State) :
    PadWorks s (l.foldl f s) c :=
  foldl_prop (p := fun t => PadWorks s t c) (fun _ _ g => g.trans (h _ _)) l (PadWorks.refl s c)

theorem padWorks_raise (s : State) (c : CoreId) (i : U16) (b v src : U8) (x : U64) : PadWorks s (raise s i b v src x) c := by
  have h := raise_eq (s := s) i b v src x
  generalize raise s i b v src x = t at *
  exact padWorks_of_eventsBakes (by rw [h]) (by rw [h])

theorem padWorks_scrubReport (s : State) (c : CoreId) (l : List ReadEvent) : PadWorks s (scrubReport s c l) c := by
  unfold scrubReport
  refine padWorks_foldl (fun t e => ?_) l s
  split
  · exact padWorks_raise ..
  · exact PadWorks.refl ..

theorem padWorks_reportReads (s : State) (c : CoreId) (order : Nat) (l : List ReadEvent) : PadWorks s (reportReads s c order l) c := by
  unfold reportReads
  dsimp only
  split
  · exact PadWorks.refl ..
  · refine PadWorks.trans (PadWorks.trans ?_ (padWorks_modCore _ ⟨rfl, rfl⟩)) (padWorks_of_eventsBakes rfl rfl)
    refine foldl_prop (p := fun a : State × Bool => PadWorks s a.1 c) (fun a e g => ?_) l (PadWorks.refl ..)
    repeat' split
    · exact g.trans (padWorks_raise ..)
    · exact g
    · exact g.trans (padWorks_raise ..)

theorem padWorks_of_syncAlone (h : SyncAlone s t) : PadWorks s t c := by
  obtain ⟨h1, h2, -⟩ := h
  refine ⟨?_, fun d _ => h2 d, by rw [h1]⟩
  rw [h2 c]
  exact ⟨rfl, rfl⟩

theorem padWorks_ingressServed (s : State) (c : CoreId) (r : BankReq) : PadWorks s (ingressServed c s r) c := by
  unfold ingressServed
  split
  · unfold streamDone
    split
    · exact PadWorks.refl ..
    · exact (padWorks_modCore _ ⟨rfl, rfl⟩).trans (padWorks_of_syncAlone (syncAlone_signalObj _ _))
  · exact PadWorks.refl ..

theorem padWorks_bankCycle (s : State) (c : CoreId) (stale : BankReq → Bool) (reqs : List BankReq) :
    PadWorks s (bankCycle s c stale reqs).1 c := by
  rw [bankCycle_eq]
  dsimp only
  unfold bankReported
  refine PadWorks.trans (padWorks_modCore _ ((imageKept_bankChosen ..).trans (imageKept_serveAll ..))) (padWorks_foldl (fun t e => ?_) _ _)
  split
  · exact padWorks_scrubReport ..
  · exact padWorks_reportReads ..

theorem padWorks_banksServed (s : State) (c : CoreId) (reqs : List BankReq) (ups : List (Nat × Check)) :
    PadWorks s (banksServed s c reqs ups) c := by
  have hp : PadWorks s (padPosted s c ups) c := by
    unfold padPosted
    exact padWorks_modCore _ ((imageKept_modPad ..).trans (imageKept_postUnits ..))
  exact (hp.trans (padWorks_bankCycle ..)).trans (padWorks_foldl (fun t r => padWorks_ingressServed t c r) _ _)

theorem padWorks_padCycle (s : State) (c : CoreId) (reqs : List BankReq) (ups : List (Nat × Check)) :
    PadWorks s ((banksServed s c reqs ups).modCore c (settleUnits (banksServed s c reqs ups) c)) c :=
  (padWorks_banksServed ..).trans (padWorks_modCore _ (imageKept_settleUnits ..))

end Sys2Proof.Machine

/-! #### The words of a scratchpad: reads and writes, write-backs and scrubbing, gating and wake (R170 to R176, R188 to R190) -/

namespace Sys2Proof.Machine

variable {s : State} {c : CoreId} {k : Core}

/-! ##### Words -/

theorem write_cell (p : Scratchpad) (w : Nat) (d : U64) : (p.write w d false).cell w = ⟨d, .good⟩ := mget_mset_same ..

theorem write_cell_other {p : Scratchpad} {w x : Nat} (d : U64) (b : Bool) (h : x ≠ w) : (p.write w d b).cell x = p.cell x :=
  mget_mset_other _ _ h _

theorem write_blockValid (p : Scratchpad) (w : Nat) (d : U64) (b : Bool) : (p.write w d b).blockValid w = true :=
  mget_mset_same false p.valid (w / 128) true

theorem writeBack_cell (p : Scratchpad) (w : Nat) (b : Bool) :
    (p.writeBack w b).cell w = if b then ⟨0, .poison⟩ else { p.cell w with chk := .good } := mget_mset_same ..

theorem writeBack_cell_other {p : Scratchpad} {w x : Nat} (b : Bool) (h : x ≠ w) : (p.writeBack w b).cell x = p.cell x :=
  mget_mset_other _ _ h _

theorem writeBack_backs {p : Scratchpad} {w : Nat} {b : Bool} {x : Nat × Bool × Nat} (h : x ∈ (p.writeBack w b).backs) :
    ¬ (x.1 = w ∧ x.2.1 = b) := by
  obtain ⟨-, hx⟩ := List.mem_filter.mp h
  rintro ⟨h1, h2⟩
  rw [h1, h2] at hx
  simp at hx

theorem queueBack_queued (p : Scratchpad) (w : Nat) (b : Bool) : ∃ x ∈ (p.queueBack w b).backs, x.1 = w ∧ x.2.1 = b := by
  unfold Scratchpad.queueBack
  split
  · next h =>
    obtain ⟨x, hx, hb⟩ := List.any_eq_true.mp h
    exact ⟨x, hx, by simpa using hb⟩
  · exact ⟨_, List.mem_append_right _ (List.mem_singleton.mpr rfl), rfl, rfl⟩

theorem queueBack_words (p : Scratchpad) (w : Nat) (b : Bool) : (p.queueBack w b).words = p.words := by
  unfold Scratchpad.queueBack
  split <;> rfl

theorem scrubbed_kept (p : Scratchpad) (w : Nat) : (scrubbed p w).words = p.words ∧ (scrubbed p w).backs = p.backs := by
  unfold scrubbed
  split
  · unfold endPass
    dsimp only
    split <;> exact ⟨rfl, rfl⟩
  · exact ⟨rfl, rfl⟩

/-! ##### Lone reads and writes -/

theorem dmaStale_other {q : BankReq} {n : Nat} (ht : q.tag = .other n) : dmaStale s c q = false := by
  unfold dmaStale
  rw [ht]

theorem lone_write {r : BankReq} {d : U64} (hx : coreExists s c = true) (hr : padRuns s c = true) (h : PadQuiet (s.core c))
    (hw : r.wr = some (d, false)) (ht : r.tag = .ingress none ∨ ∃ n, r.tag = .other n) :
    ∃ t, exec (.scratchpadBankCycle c [r] []) s = .next t ∧ (t.core c).pad.cell r.word = ⟨d, .good⟩ ∧
      (t.core c).pad.blockValid r.word = true ∧ (∀ w, w ≠ r.word → (t.core c).pad.cell w = (s.core c).pad.cell w) ∧
      (t.core c).pad.waiting = [] ∧ t = { s with cores := t.cores } := by
  have hserve : serveReq (dmaStale (padPosted s c []) c) (outCleared (s.core c)) r = ((outCleared (s.core c)).writeWord r.cls r.word d false, []) := by
    obtain ht | ⟨n, ht⟩ := ht
    · exact serveReq_ingress hw ht (dmaStale_ingress ht)
    · unfold serveReq
      rw [ht, hw]
      dsimp only
      rw [dmaStale_other ht, if_neg Bool.false_ne_true]
  have hserved (u : State) : ingressServed c u r = u := by
    unfold ingressServed
    obtain ht | ⟨n, ht⟩ := ht
    · rw [ht]
    · rw [ht]
  obtain ⟨t, he, ha, hf⟩ := bankCycle_one hx hr h hserve hserved ⟨h.2.2.1, h.2.2.2⟩
  have hp : (t.core c).pad = (outCleared (s.core c)).pad.write r.word d false := by
    unfold ArraysAlone at ha
    rw [ha]
    rfl
  refine ⟨t, he, ?_, ?_, fun w hw => ?_, ?_, hf⟩
  · rw [hp, write_cell]
  · rw [hp, write_blockValid]
  · rw [hp, write_cell_other _ _ hw]
    rfl
  · rw [hp]
    exact h.1

/-- A lone read that finds nothing to report. -/
theorem lone_read {r : BankReq} {n : Nat} {d : U64 × Bool} {q : Core} (hx : coreExists s c = true) (hr : padRuns s c = true)
    (h : PadQuiet (s.core c)) (hw : r.wr = none) (ht : r.tag = .other n)
    (hq : (outCleared (s.core c)).readWord r.cls r.word = (d, q, [])) (hpad : q.pad = (outCleared (s.core c)).pad)
    (hfl : q.seq.flight = []) :
    ∃ t, exec (.scratchpadBankCycle c [r] []) s = .next t ∧ (t.core c).pad.out = [(r, d.1, d.2)] ∧
      (t.core c).pad.words = (s.core c).pad.words ∧ t = { s with cores := t.cores } := by
  have hserve : serveReq (dmaStale (padPosted s c []) c) (outCleared (s.core c)) r =
      (q.modPad fun p => { p with out := p.out ++ [(r, d.1, d.2)] }, []) := by
    unfold serveReq
    rw [ht, hw]
    dsimp only
    rw [hq]
    rfl
  have hserved (u : State) : ingressServed c u r = u := by
    unfold ingressServed
    rw [ht]
  obtain ⟨t, he, ha, hf⟩ := bankCycle_one hx hr h hserve hserved ⟨(congrArg Scratchpad.work hpad).trans h.2.2.1, hfl⟩
  have hp : (t.core c).pad = { q.pad with out := q.pad.out ++ [(r, d.1, d.2)] } := by
    unfold ArraysAlone at ha
    rw [ha]
    rfl
  refine ⟨t, he, ?_, ?_, hf⟩
  · rw [hp, hpad]
    rfl
  · rw [hp, hpad]
    rfl

theorem readWord_good {cls w : Nat} (hv : k.pad.blockValid w = true) (hg : (k.pad.cell w).chk = .good) :
    k.readWord cls w = (((k.pad.cell w).data, false), k.modLive fun l => l.serve cls 1, []) := by
  unfold Core.readWord
  dsimp only [Core.modLive]
  rw [hv, hg]
  rfl

theorem readWord_invalid {cls w : Nat} (hv : k.pad.blockValid w = false) :
    ∃ q, k.readWord cls w = ((0, true), q, []) ∧ q.pad = k.pad ∧ q.seq = k.seq := by
  unfold Core.readWord
  dsimp only [Core.modLive]
  rw [hv]
  refine ⟨_, rfl, ?_, ?_⟩
  all_goals split <;> rfl

/-! ##### Write-backs -/

theorem correctionWriteBack_runs (h : coreExists s c = true) (hr : padRuns s c = true) :
    exec (.correctionWriteBack c) s = .next (writeBack s c false) :=
  (onCore_of_exists h _).trans (congrArg Host.Outcome.next (if_pos hr))

theorem poisonWriteBack_runs (h : coreExists s c = true) (hr : padRuns s c = true) :
    exec (.poisonWriteBack c) s = .next (writeBack s c true) :=
  (onCore_of_exists h _).trans (congrArg Host.Outcome.next (if_pos hr))

theorem correctionWriteBack_keeps (h : coreExists s c = true) (hk : padRuns s c = true → writeBack s c false = s) :
    exec (.correctionWriteBack c) s = .next s := by
  refine (onCore_of_exists h _).trans (congrArg Host.Outcome.next ?_)
  split
  · next hr => exact hk hr
  · rfl

theorem poisonWriteBack_keeps (h : coreExists s c = true) (hk : padRuns s c = true → writeBack s c true = s) :
    exec (.poisonWriteBack c) s = .next s := by
  refine (onCore_of_exists h _).trans (congrArg Host.Outcome.next ?_)
  split
  · next hr => exact hk hr
  · rfl

theorem writeBack_free {w a : Nat} {p : Bool} (h : ((s.core c).pad.backs.find? fun b => decide (b.2.1 = p)) = some (w, p, a))
    (hf : bankFree (s.core c).pad (bankOf w) = true) :
    writeBack s c p = s.modCore c fun k => (k.modLive fun l => l.serve 7 1).modPad fun q => q.writeBack w p := by
  unfold writeBack
  rw [h]
  exact if_pos hf

theorem writeBack_waits {w a : Nat} {p : Bool} (h : ((s.core c).pad.backs.find? fun b => decide (b.2.1 = p)) = some (w, p, a))
    (hf : bankFree (s.core c).pad (bankOf w) = false) : writeBack s c p = s := by
  unfold writeBack
  rw [h]
  dsimp only
  rw [hf]
  exact if_neg Bool.false_ne_true

theorem writeBack_none {p : Bool} (h : ∀ b ∈ (s.core c).pad.backs, b.2.1 ≠ p) : writeBack s c p = s := by
  have hn : ((s.core c).pad.backs.find? fun b => decide (b.2.1 = p)) = none := List.find?_eq_none.mpr fun b hb => by simpa using h b hb
  unfold writeBack
  rw [hn]

/-- A write-back in a free cycle of its bank. -/
theorem writeBack_works {w a : Nat} {p : Bool} (h : ((s.core c).pad.backs.find? fun b => decide (b.2.1 = p)) = some (w, p, a))
    (hf : bankFree (s.core c).pad (bankOf w) = true) :
    ((writeBack s c p).core c).pad.cell w = (if p then ⟨0, .poison⟩ else { (s.core c).pad.cell w with chk := .good }) ∧
      (∀ b ∈ ((writeBack s c p).core c).pad.backs, ¬(b.1 = w ∧ b.2.1 = p)) ∧
      (∀ x, x ≠ w → ((writeBack s c p).core c).pad.cell x = (s.core c).pad.cell x) ∧
      OtherCoresKept s (writeBack s c p) c ∧ writeBack s c p = { s with cores := (writeBack s c p).cores } := by
  rw [writeBack_free h hf]
  refine ⟨?_, fun b hb => ?_, fun x hx => ?_, otherCoresKept_modCore s c _, rfl⟩
  · rw [State.modCore_core_same]
    exact writeBack_cell ..
  · rw [State.modCore_core_same] at hb
    exact writeBack_backs hb
  · rw [State.modCore_core_same]
    exact writeBack_cell_other _ hx

/-! ##### Scrubbing -/

theorem scrubRead_runs {b : Fin 128} {u : Check} (hx : coreExists s c = true) (hs : setting s 0x3230 2 = 1) (hr : padRuns s c = true) :
    exec (.scrubRead c b u) s = .next (scrub s c b.val u) :=
  (onCore_of_exists hx _).trans (congrArg Host.Outcome.next (if_pos ⟨hs, hr⟩))

theorem scrub_waits {b : Nat} {u : Check} (h : scrubWaits (s.core c).pad b = true) : scrub s c b u = s := if_pos h

theorem scrubRead_idle {b : Fin 128} {u : Check} (hx : coreExists s c = true)
    (h : setting s 0x3230 2 ≠ 1 ∨ padRuns s c = false ∨ scrubWaits (s.core c).pad b = true) : exec (.scrubRead c b u) s = .next s := by
  refine (onCore_of_exists hx _).trans (congrArg Host.Outcome.next ?_)
  by_cases hrun : setting s 0x3230 2 = 1 ∧ padRuns s c = true
  · obtain h | h | h := h
    · exact absurd hrun.1 h
    · exact absurd (h.symm.trans hrun.2) Bool.false_ne_true
    · rw [if_pos hrun, scrub_waits h]
  · exact if_neg hrun

section

variable {b r : Nat} (hw : scrubWaits (s.core c).pad b = false)
include hw

theorem scrub_passed {u : Check} (h : nextValid (s.core c).pad (mget 0 (s.core c).pad.scrubRow b) = none) :
    scrub s c b u = s.modCore c fun k => k.modPad fun p => endPass p b := by
  unfold scrub
  dsimp only
  rw [hw, if_neg Bool.false_ne_true, h]

variable (h : nextValid (s.core c).pad (mget 0 (s.core c).pad.scrubRow b) = some r)
include h

theorem scrub_asks (hf : bankFree (s.core c).pad b = false) : scrub s c b .good = s.modCore c fun k => k.modPad fun p =>
    { p with waiting := p.waiting ++ [⟨⟨7, false, 0, bankWord b r, none, .scrub⟩, 0⟩] } := by
  unfold scrub
  dsimp only
  rw [hw, if_neg Bool.false_ne_true, h]
  dsimp only
  rw [hf]
  rfl

/-- A scrub read in a free cycle of its bank. -/
theorem scrub_reads {l : List ReadEvent} {d : U64 × Bool} {q : Core} (hf : bankFree (s.core c).pad b = true)
    (hq : (s.core c).readWord 7 (bankWord b r) = (d, q, l)) :
    scrub s c b .good = scrubReport (s.modCore c fun _ => q.modPad fun p => scrubbed p (bankWord b r)) c l := by
  have hserve : serveReq (fun _ => false) (s.core c) ⟨7, false, 0, bankWord b r, none, .scrub⟩ =
      (q.modPad fun p => scrubbed p (bankWord b r), l) := by
    unfold serveReq
    dsimp only
    rw [hq]
  unfold scrub
  dsimp only
  rw [hw, if_neg Bool.false_ne_true, h]
  dsimp only
  rw [hf, if_pos rfl]
  change scrubReport (s.modCore c fun _ => (serveReq _ (s.core c) _).1) c (serveReq _ (s.core c) _).2 = _
  rw [hserve]

end

/-- A single error that a read finds is counted and queued for correction. -/
theorem readWord_single {cls w : Nat} (hv : k.pad.blockValid w = true) (hg : (k.pad.cell w).chk = .single) :
    ∃ d q, k.readWord cls w = (d, q, []) ∧ q.live.corrected = k.live.corrected + 1 ∧ q.pad = k.pad.queueBack w false := by
  unfold Core.readWord
  dsimp only [Core.modLive]
  rw [hv, hg]
  exact ⟨_, _, rfl, rfl, rfl⟩

/-- An uncorrectable word that a read finds is counted, queued for its mark and reported. -/
theorem readWord_uncorrectable {cls w : Nat} (hv : k.pad.blockValid w = true) (hg : (k.pad.cell w).chk = .uncorrectable) :
    ∃ d q, k.readWord cls w = (d, q, [.uncorrectable w]) ∧ q.live.uncorr = k.live.uncorr + 1 ∧ q.pad = k.pad.queueBack w true := by
  unfold Core.readWord
  dsimp only [Core.modLive]
  rw [hv, hg]
  exact ⟨_, _, rfl, rfl, rfl⟩

theorem scrubbed_queued (p : Scratchpad) (w v : Nat) (b : Bool) :
    (∃ x ∈ (scrubbed (p.queueBack w b) v).backs, x.1 = w ∧ x.2.1 = b) ∧ (scrubbed (p.queueBack w b) v).words = p.words := by
  obtain ⟨h1, h2⟩ := scrubbed_kept (p.queueBack w b) v
  rw [h1, h2, queueBack_words]
  exact ⟨queueBack_queued .., rfl⟩

/-- The event of an uncorrectable word, raised in a core that the read has changed. -/
theorem scrubReport_uncorrectable (s : State) (c w : Nat) (q : Core) :
    (∀ d, (scrubReport (s.modCore c fun _ => q) c [.uncorrectable w]).core d = (s.modCore c fun _ => q).core d) ∧
      EventRaised s (scrubReport (s.modCore c fun _ => q) c [.uncorrectable w]) 0x3221 (c + 1) 2 (BitVec.ofNat 8 (0x20 + hearthOf s c)) (8 * w) ∧
      AonKept s (scrubReport (s.modCore c fun _ => q) c [.uncorrectable w]) ∧
      scrubReport (s.modCore c fun _ => q) c [.uncorrectable w] =
        { s with
          cores := (scrubReport (s.modCore c fun _ => q) c [.uncorrectable w]).cores,
          aon := (scrubReport (s.modCore c fun _ => q) c [.uncorrectable w]).aon } := by
  have hr : scrubReport (s.modCore c fun _ => q) c [.uncorrectable w] = raise (s.modCore c fun _ => q) 0x3221 (BitVec.ofNat 8 (c + 1)) 2
      (BitVec.ofNat 8 (0x20 + hearthOf s c)) (BitVec.ofNat 64 (8 * w)) := rfl
  refine ⟨fun d => ?_, ?_, ?_, ?_⟩
  · rw [hr, State.core, raise_cores]
    rfl
  · rw [hr]
    exact raise_event_of (s := s) (t := s.modCore c fun _ => q) rfl rfl rfl rfl ..
  · rw [hr]
    exact raise_kept ..
  · rw [hr, raise_cores]
    exact raise_eq ..

/-! ##### Gating and wake -/

theorem corePowerGating_idle (hx : coreExists s c = true) (h : (s.core c).power ≠ .on ∨ (s.core c).seq.state = .running) :
    exec (.corePowerGating c) s = .next s := by
  refine (onCore_of_exists hx _).trans (congrArg Host.Outcome.next (if_neg ?_))
  rintro ⟨h1, h2⟩
  exact h.elim (fun h => h h1) h2

/-- A core while it is gated. -/
def gatedCore (p : CorePower) (k : Core) : Core :=
  { k with
    power := p,
    recipe := {}, seq := {}, arrays := {},
    pad := { k.pad with waiting := [], out := [], backs := [], work := [] } }

theorem corePowerGating_runs (hx : coreExists s c = true) (h : (s.core c).power = .on) (hs : (s.core c).seq.state ≠ .running) :
    exec (.corePowerGating c) s = .next (s.modCore c (gatedCore (if setting s 0x3240 (c + 1) = 1 then .gatedKeep else .gatedLost))) :=
  (onCore_of_exists hx _).trans (congrArg Host.Outcome.next (if_pos ⟨h, hs⟩))

/-- The scratchpad of a woken core. -/
def wokenPad (lost : Bool) (p : Scratchpad) : Scratchpad := { (if lost then p.invalidate else p) with scrubRow := [], scrubEnd := [] }

/-- The state once a gated core is on again. -/
def coreWoken (s : State) (c : CoreId) : State :=
  s.modCore c fun k => ({ k with power := .on }).modPad (wokenPad (decide ((s.core c).power = CorePower.gatedLost)))

/-- The objects of a bake on a core are set. -/
def objectsSet (k : Bake) (c : CoreId) (s : State) : State :=
  k.pkg.syncs.zipIdx.foldl (fun v e => if hwSync k e.2 / 256 = c then setSyncObj v (hwSync k e.2) ⟨soInit e.1, k.epoch⟩ else v) s

theorem syncAlone_objectsSet (k : Bake) (c : CoreId) (s : State) : SyncAlone s (objectsSet k c s) := by
  unfold objectsSet
  refine foldl_prop (p := SyncAlone s) (fun u e h => ?_) _ (SyncAlone.refl s)
  split
  · exact h.trans (syncAlone_setSyncObj ..)
  · exact h

theorem coreWake_on (hx : coreExists s c = true) (h : (s.core c).power = .on) : exec (.coreWake c) s = .next s :=
  (onCore_of_exists hx _).trans (congrArg Host.Outcome.next (if_pos h))

theorem coreWake_free (hx : coreExists s c = true) (h : (s.core c).power ≠ .on) (hi : (s.core c).inst = none) :
    exec (.coreWake c) s = .next (coreWoken s c) := by
  refine (onCore_of_exists hx _).trans (congrArg Host.Outcome.next ((if_neg h).trans ?_))
  rw [hi]
  rfl

theorem coreWake_instance {b i : Nat} (hx : coreExists s c = true) (h : (s.core c).power ≠ .on) (hi : (s.core c).inst = some (b, i)) :
    exec (.coreWake c) s = .next (objectsSet (s.bake b) c (installCore (coreWoken s c) b i c)) := by
  refine (onCore_of_exists hx _).trans (congrArg Host.Outcome.next ((if_neg h).trans ?_))
  rw [hi]
  rfl

theorem coreWoken_core (s : State) (c : CoreId) : (coreWoken s c).core c =
    ({ s.core c with power := .on } : Core).modPad (wokenPad (decide ((s.core c).power = CorePower.gatedLost))) := State.modCore_core_same ..

/-- What a woken core keeps. -/
theorem coreWake_pad (hx : coreExists s c = true) (h : (s.core c).power ≠ .on) : ∃ t, exec (.coreWake c) s = .next t ∧
    (t.core c).power = .on ∧ (t.core c).pad.words = (wokenPad (decide ((s.core c).power = CorePower.gatedLost)) (s.core c).pad).words ∧
    (t.core c).pad.valid = (wokenPad (decide ((s.core c).power = CorePower.gatedLost)) (s.core c).pad).valid ∧
    (t.core c).pad.scrubRow = [] ∧ t.hbm = s.hbm ∧ t.host = s.host := by
  have hc := coreWoken_core s c
  have hf : (coreWoken s c).hbm = s.hbm ∧ (coreWoken s c).host = s.host := ⟨rfl, rfl⟩
  cases hi : (s.core c).inst with
  | none =>
    refine ⟨_, coreWake_free hx h hi, ?_, ?_, ?_, ?_, hf⟩
    all_goals rw [hc]
    all_goals rfl
  | some e =>
    obtain ⟨b, i⟩ := e
    obtain ⟨g1, g2, -⟩ := syncAlone_objectsSet (s.bake b) c (installCore (coreWoken s c) b i c)
    have hg := g2 c
    have hn : (installCore (coreWoken s c) b i c).core c = _ := State.modCore_core_same ..
    refine ⟨_, coreWake_instance hx h hi, ?_, ?_, ?_, ?_, ?_, ?_⟩
    · rw [hg, hn, hc]
      rfl
    · rw [hg, hn, hc]
      rfl
    · rw [hg, hn, hc]
      rfl
    · rw [hg, hn, hc]
      rfl
    · exact (congrArg State.hbm g1).trans hf.1
    · exact (congrArg State.host g1).trans hf.2

theorem coreWake_image {b i : Nat} (hx : coreExists s c = true) (h : (s.core c).power ≠ .on) (hi : (s.core c).inst = some (b, i)) :
    ∃ t, exec (.coreWake c) s = .next t ∧ (t.core c).inst = some (b, i) ∧ (t.core c).recipe = instRecipe (s.bake b) i ∧
      (t.core c).seq.state = .idle ∧ (t.core c).seq.step = 0 ∧ (t.core c).seq.flight = [] ∧
      (t.core c).seq.attempt = (s.core c).seq.attempt := by
  have hg := (syncAlone_objectsSet (s.bake b) c (installCore (coreWoken s c) b i c)).2.1 c
  have hn : (installCore (coreWoken s c) b i c).core c = _ := State.modCore_core_same ..
  rw [hn, coreWoken_core] at hg
  refine ⟨_, coreWake_instance hx h hi, ?_⟩
  rw [hg]
  exact ⟨rfl, rfl, rfl, rfl, rfl, rfl⟩

/-! ##### The obligation -/

/-- Settles O30: a lone request through the stages of a bank cycle, then the tests of write-backs, scrubbing, gating and wake. -/
theorem scratchpadKeepsItsWords : Obligations.ScratchpadKeepsItsWords := by
  unfold Obligations.ScratchpadKeepsItsWords
  refine ⟨⟨?_, ?_, ?_, ?_, ?_⟩, ⟨?_, ?_, ?_, ?_, ?_, ?_, ?_, ?_, ?_, ?_⟩, ?_, ?_, ?_, ?_, ?_, ?_⟩
  · intro s c reqs ups hx hr
    refine (onCore_of_exists hx _).trans (congrArg Host.Outcome.next ?_)
    rw [hr]
    exact if_neg Bool.false_ne_true
  · intro s c reqs ups hx hr
    obtain ⟨hi, ho, hf⟩ := padWorks_padCycle s c reqs ups
    exact ⟨_, bankCycle_runs hx hr, hi.1, hi.2, ho, hf⟩
  · exact fun s c r d hx hr hq hw ht => lone_write hx hr hq hw ht
  · intro s c r n hx hr hq hw ht hv hg
    exact lone_read hx hr hq hw ht (readWord_good (k := outCleared (s.core c)) hv hg) rfl hq.2.2.2
  · intro s c r n hx hr hq hw ht hv
    obtain ⟨q, hread, hp, hs⟩ := readWord_invalid (k := outCleared (s.core c)) (cls := r.cls) hv
    obtain ⟨t, he, ho, -, hf⟩ := lone_read hx hr hq hw ht hread hp ((congrArg Sequencer.flight hs).trans hq.2.2.2)
    exact ⟨t, he, ho, hf⟩
  · exact fun s c w a hx hr hb hf => ⟨_, correctionWriteBack_runs hx hr, writeBack_works hb hf⟩
  · exact fun s c w a hx hr hb hf => ⟨_, poisonWriteBack_runs hx hr, writeBack_works hb hf⟩
  · refine fun s c hx h => correctionWriteBack_keeps hx fun hr => writeBack_none fun b hb => ?_
    obtain h | h := h
    · exact absurd (h.symm.trans hr) Bool.false_ne_true
    · rw [h b hb]
      decide
  · refine fun s c hx h => poisonWriteBack_keeps hx fun hr => writeBack_none fun b hb => ?_
    obtain h | h := h
    · exact absurd (h.symm.trans hr) Bool.false_ne_true
    · rw [h b hb]
      decide
  · intro s c w p a hx hb hf
    cases p with
    | false => exact correctionWriteBack_keeps hx fun _ => writeBack_waits hb hf
    | true => exact poisonWriteBack_keeps hx fun _ => writeBack_waits hb hf
  · exact fun s c b u hx h => scrubRead_idle hx h
  · intro s c b r hx hs hr hw hf hn hv hg
    obtain ⟨d, q, hq, hcount, hpad⟩ := readWord_single (cls := 7) hv hg
    refine ⟨_, scrubRead_runs hx hs hr, ?_⟩
    have hscrub : scrub s c b .good = s.modCore c fun _ => q.modPad fun p => scrubbed p (bankWord b r) := scrub_reads hw hn hf hq
    rw [hscrub]
    refine ⟨?_, ?_, ?_, otherCoresKept_modCore s c _, rfl⟩
    · rw [State.modCore_core_same]
      exact hcount
    · rw [State.modCore_core_same, Core.modPad, hpad]
      exact (scrubbed_queued ..).1
    · rw [State.modCore_core_same, Core.modPad, hpad]
      exact (scrubbed_queued ..).2
  · intro s c b r hx hs hr hw hf hn hv hg
    obtain ⟨d, q, hq, hcount, hpad⟩ := readWord_uncorrectable (cls := 7) hv hg
    obtain ⟨h1, h2, h3, h4⟩ := scrubReport_uncorrectable s c (bankWord b r) (q.modPad fun p => scrubbed p (bankWord b r))
    refine ⟨_, scrubRead_runs hx hs hr, ?_⟩
    rw [scrub_reads hw hn hf hq]
    refine ⟨?_, ?_, h2, h3, fun e he => (h1 e).trans (otherCoresKept_modCore s c _ e he), h4⟩
    · rw [h1, State.modCore_core_same]
      exact hcount
    · rw [h1, State.modCore_core_same, Core.modPad, hpad]
      exact (scrubbed_queued ..).1
  · exact fun s c b r hx hs hr hw hf hn => (scrubRead_runs hx hs hr).trans (congrArg Host.Outcome.next (scrub_asks hw hn hf))
  · exact fun s c b u hx hs hr hw hn => (scrubRead_runs hx hs hr).trans (congrArg Host.Outcome.next (scrub_passed hw hn))
  · intro s c hx hp hs
    refine ⟨_, corePowerGating_runs hx hp hs, ?_⟩
    rw [State.modCore_core_same]
    exact ⟨rfl, rfl, rfl, rfl, rfl, rfl, rfl, otherCoresKept_modCore s c _, rfl⟩
  · exact fun s c hx h => corePowerGating_idle hx h
  · exact fun s c hx h => coreWake_on hx h
  · intro s c hx hp
    obtain ⟨t, h⟩ := coreWake_pad hx (by rw [hp]; decide)
    rw [hp] at h
    exact ⟨t, h⟩
  · intro s c hx hp
    obtain ⟨t, h⟩ := coreWake_pad hx (by rw [hp]; decide)
    rw [hp] at h
    exact ⟨t, h⟩
  · exact fun s c b i hx hp hi => coreWake_image hx hp hi

end Sys2Proof.Machine

/-! #### The arrays of a core and their drains (R52 to R73, R83, R84) -/

namespace Sys2Proof.Machine

variable {s : State} {c : CoreId} {k q : Core}

/-! ##### What a step of the arrays leaves as it was -/

/-- From `k` to `q` the array clock, the scratchpad, the recipe and the place in it have stayed. -/
def ClockKept (k q : Core) : Prop :=
  q.arrays.cycle = k.arrays.cycle ∧ q.pad = k.pad ∧ q.recipe = k.recipe ∧ q.seq.step = k.seq.step

theorem ClockKept.refl (k : Core) : ClockKept k k := ⟨rfl, rfl, rfl, rfl⟩

theorem ClockKept.trans {v : Core} (h : ClockKept k q) (g : ClockKept q v) : ClockKept k v :=
  ⟨g.1.trans h.1, g.2.1.trans h.2.1, g.2.2.1.trans h.2.2.1, g.2.2.2.trans h.2.2.2⟩

theorem clockKept_foldl {α : Type} {f : Core → α → Core} (h : ∀ q a, ClockKept q (f q a)) (l : List α) (k : Core) :
    ClockKept k (l.foldl f k) :=
  foldl_prop (p := ClockKept k) (fun _ _ g => g.trans (h _ _)) l (ClockKept.refl k)

theorem clockKept_modArrays {f : Arrays → Arrays} (h : (f k.arrays).cycle = k.arrays.cycle) : ClockKept k (k.modArrays f) :=
  ⟨h, rfl, rfl, rfl⟩

theorem clockKept_modLive (k : Core) (f : Counters → Counters) : ClockKept k (k.modLive f) := ⟨rfl, rfl, rfl, rfl⟩

theorem settle_kept (s : State) (k : Core) : ClockKept k (settle s k) ∧ (settle s k).arrays.arr = k.arrays.arr := by
  unfold settle
  dsimp only
  repeat' split
  all_goals exact ⟨⟨rfl, rfl, rfl, rfl⟩, rfl⟩

theorem foldl_modArr_cycle (f : Array4 → Array4) (l : List Nat) (a : Arrays) : (l.foldl (fun a n => a.modArr n f) a).cycle = a.cycle := by
  refine foldl_keeps Arrays.cycle (fun u n => ?_) l a
  rfl

/-! ##### The issue sequencer -/

theorem clockKept_startJob (s : State) (k : Core) : ClockKept k (startJob s k) := by
  unfold startJob
  split
  · exact ClockKept.refl k
  · split
    · exact ClockKept.refl k
    · exact clockKept_modArrays (foldl_modArr_cycle ..)

theorem passVec_cycle (x : MCtx) (order : Nat) (a : Arrays) (n : Nat) : (passVec x order a n).cycle = a.cycle := by
  unfold passVec
  dsimp only
  split <;> rfl

theorem clockKept_issueArray (x : MCtx) (order : Nat) (k : Core) (e : Nat × Outcome5) : ClockKept k (issueArray x order k e) := by
  unfold issueArray
  dsimp only
  split
  · exact (clockKept_modLive ..).trans (clockKept_modArrays (passVec_cycle ..))
  · exact (clockKept_modLive ..).trans (clockKept_modArrays rfl)
  · exact clockKept_modLive ..

theorem loaderReqs_cycle (s : State) (k : Core) (x : MCtx) : (loaderReqs s k x).2.cycle = k.arrays.cycle := by
  unfold loaderReqs
  dsimp only
  repeat' split
  all_goals rfl

theorem feederReqs_cycle (x : MCtx) (a : Arrays) (n : Nat) : (feederReqs x a n).2.cycle = a.cycle := by
  unfold feederReqs
  dsimp only
  split <;> rfl

/-- The requests of a cycle are only queued. -/
theorem postRequests_kept (s : State) (k : Core) : (postRequests s k).arrays.cycle = k.arrays.cycle ∧
    (postRequests s k).pad.words = k.pad.words ∧ (postRequests s k).recipe = k.recipe := by
  unfold postRequests
  split
  · exact ⟨rfl, rfl, rfl⟩
  · refine ⟨?_, rfl, rfl⟩
    refine (foldl_keeps (fun q : List BankReq × Arrays => q.2.cycle) (fun q n => ?_) _ _).trans (loaderReqs_cycle ..)
    exact feederReqs_cycle ..

/-- The arrays have issued their items of the cycle. -/
def issued (s : State) (k : Core) : Core :=
  match jobCtx s k with
  | none => k
  | some (order, x) =>
    let act := ((List.range 4).filter fun n => !issuedAll x k.arrays n).map fun n => (n, outcome x k.arrays n)
    let k := act.foldl (issueArray x order) k
    if act.any fun e => decide (e.2 = .token) then k.modArrays swapTile else k

theorem issueCycle_eq (s : State) (k : Core) : issueCycle s k =
    settle s (postRequests s (issued s (startJob s (k.modArrays fun a => { a with cycle := a.cycle + 1 })))) := rfl

theorem clockKept_issued (s : State) (k : Core) : ClockKept k (issued s k) := by
  unfold issued
  split
  · exact ClockKept.refl k
  · have h (x : MCtx) (order : Nat) (act : List (Nat × Outcome5)) := clockKept_foldl (clockKept_issueArray x order) act k
    dsimp only
    split
    · exact (h ..).trans (clockKept_modArrays rfl)
    · exact h ..

theorem issueCycle_kept (s : State) (k : Core) : (issueCycle s k).arrays.cycle = k.arrays.cycle + 1 ∧
    (issueCycle s k).pad.words = k.pad.words ∧ (issueCycle s k).recipe = k.recipe := by
  rw [issueCycle_eq]
  obtain ⟨h1, h2, h3, -⟩ := (clockKept_startJob s (k.modArrays fun a => { a with cycle := a.cycle + 1 })).trans (clockKept_issued s _)
  generalize issued s (startJob s (k.modArrays fun a => { a with cycle := a.cycle + 1 })) = u at *
  obtain ⟨g1, g2, g3⟩ := postRequests_kept s u
  obtain ⟨⟨f1, f2, f3, -⟩, -⟩ := settle_kept s (postRequests s u)
  exact ⟨(f1.trans g1).trans h1, ((congrArg Scratchpad.words f2).trans g2).trans (congrArg Scratchpad.words h2), (f3.trans g3).trans h3⟩

/-! ##### The loader -/

theorem takeSide_kept (x : MCtx) (order i : Nat) (a : Arrays) (l : List (U64 × Bool)) :
    (takeSide x order i a l).cycle = a.cycle ∧ (takeSide x order i a l).shadow = a.shadow := ⟨rfl, rfl⟩

theorem addSums_kept (x : MCtx) (p : Pass) (a : Arrays) (due : Nat) (codes : List Nat) :
    (addSums x p a due codes).cycle = a.cycle ∧ (addSums x p a due codes).shadow = a.shadow := by
  unfold addSums
  dsimp only
  repeat' split
  all_goals exact ⟨rfl, rfl⟩

theorem injectRow_kept (s : State) (k : Core) :
    ((injectRow s k).arrays.shadow = k.arrays.shadow ∨ ∃ r, (injectRow s k).arrays.shadow = k.arrays.shadow ++ [r]) ∧
      (injectRow s k).arrays.cycle = k.arrays.cycle ∧ (injectRow s k).pad = k.pad ∧ (injectRow s k).seq = k.seq := by
  unfold injectRow
  split
  · exact ⟨.inl rfl, rfl, rfl, rfl⟩
  · next order x hj =>
    dsimp only
    split
    · exact ⟨.inl rfl, rfl, rfl, rfl⟩
    split
    · exact ⟨.inl rfl, rfl, rfl, rfl⟩
    split
    · next sw w hs hw =>
      split
      · exact ⟨.inl rfl, rfl, rfl, rfl⟩
      · have ha : ∀ a : Arrays, a = (if k.arrays.shadow.length = 0 then takeSide x order k.arrays.loadPass k.arrays sw else k.arrays) →
            a.cycle = k.arrays.cycle ∧ a.shadow = k.arrays.shadow := by
          rintro a rfl
          split
          · exact takeSide_kept ..
          · exact ⟨rfl, rfl⟩
        obtain ⟨h1, h2⟩ := ha _ rfl
        obtain ⟨g1, g2⟩ := addSums_kept x (x.pass k.arrays.loadPass)
          (if k.arrays.shadow.length = 0 then takeSide x order k.arrays.loadPass k.arrays sw else k.arrays) k.arrays.shadow.length
          (x.rowCodes (x.pass k.arrays.loadPass) k.arrays.shadow.length w)
        exact ⟨.inr ⟨_, congrArg (· ++ [_]) (g2.trans h2)⟩, g1.trans h1, rfl, rfl⟩
    · exact ⟨.inl rfl, rfl, rfl, rfl⟩

/-! ##### The adds -/

theorem clockKept_countSingles (k : Core) (ups : List AccUpset) : ClockKept k (countSingles k ups) := by
  unfold countSingles
  dsimp only
  split
  · exact ClockKept.refl k
  · exact clockKept_modLive ..

theorem clockKept_addWave (s : State) (k : Core) (n : Nat) (w : Wave) (ups : List AccUpset) : ClockKept k (addWave s k n w ups) := by
  have hsingle : ClockKept k (if w.first then k else countSingles k ups) := by
    split
    · exact ClockKept.refl k
    · exact clockKept_countSingles ..
  unfold addWave
  dsimp only
  generalize (if w.first then k else countSingles k ups) = u at *
  split
  · split
    · exact hsingle.trans (clockKept_modArrays rfl)
    · exact hsingle.trans (ClockKept.trans (clockKept_modArrays rfl) (clockKept_modLive ..))
  · exact hsingle.trans (clockKept_modArrays rfl)

theorem clockKept_addWaves (s : State) (k : Core) (n : Nat) (ups : List AccUpset) : ClockKept k (addWaves s k n ups) := by
  unfold addWaves
  refine foldl_prop (p := fun a : Core × List AccUpset => ClockKept k a.1) (fun a w h => ?_) _ (ClockKept.refl k)
  exact h.trans (clockKept_addWave ..)

theorem clockKept_accumulatorAdd (s : State) (ups : List (Fin 4 × AccUpset)) (k : Core) :
    ClockKept k (settle s ((List.range 4).foldl (fun k n => addWaves s k n (upsetsOf ups n)) k)) :=
  (clockKept_foldl (fun q n => clockKept_addWaves s q n _) _ k).trans (settle_kept ..).1

end Sys2Proof.Machine

/-! #### The drains (R70 to R72) -/

namespace Sys2Proof.Machine

variable {s : State} {c : CoreId} {k q : Core}

/-! ##### A row is taken -/

theorem jobs_setJobs_other {p : Scratchpad} {u v : Nat} (l : List Work) (h : v ≠ u) : (p.setJobs u l).jobs v = p.jobs v :=
  mget_mset_other _ _ h _

/-- From `k` to `q` nothing has changed but array `n` and the counters. -/
def ArrayAlone (n : Nat) (k q : Core) : Prop :=
  q = { k with arrays := { k.arrays with arr := q.arrays.arr }, live := q.live } ∧ ∀ m, m ≠ n → q.arrays.array m = k.arrays.array m

theorem ArrayAlone.trans {n : Nat} {v : Core} (h : ArrayAlone n k q) (g : ArrayAlone n q v) : ArrayAlone n k v := by
  obtain ⟨h1, h2⟩ := h
  obtain ⟨g1, g2⟩ := g
  exact ⟨by rw [g1, h1], fun m hm => (g2 m hm).trans (h2 m hm)⟩

theorem arrayAlone_modArr (k : Core) (n : Nat) (f : Arrays → Array4 → Array4) :
    ArrayAlone n k (k.modArrays fun a => a.modArr n (f a)) := ⟨rfl, fun _ hm => mget_mset_other _ _ hm _⟩

theorem arrayAlone_modLive (k : Core) (n : Nat) (f : Counters → Counters) : ArrayAlone n k (k.modLive f) := ⟨rfl, fun _ _ => rfl⟩

theorem arrayAlone_countSingles (k : Core) (n : Nat) (ups : List AccUpset) : ArrayAlone n k (countSingles k ups) := by
  unfold countSingles
  dsimp only
  split
  · exact ⟨rfl, fun _ _ => rfl⟩
  · exact arrayAlone_modLive ..

theorem array_modArr (a : Arrays) (n : Nat) (f : Array4 → Array4) : (a.modArr n f).array n = f (a.array n) := mget_mset_same ..

/-- The row at the head of an array's ready list is taken. -/
def rowTaken (n : Nat) (k : Core) : Core := k.modArrays fun a => a.modArr n fun q => { q with ready := q.ready.drop 1 }

/-- The core once its drain has taken a row, whose old words are `old`. -/
def drainTaken (s : State) (x : MCtx) (n row : Nat) (ups : List AccUpset) (old : List Nat) (hold : Nat) (job : Work) (k : Core) : Core :=
  let double := ups.contains .double
  let k := countSingles (rowTaken n k) ups
  let k := k.modArrays fun a => a.modArr n fun q =>
    { q with
      busy := a.cycle + hold,
      acc := if double then mmod {} q.acc row (fun e => { e with poisoned := true, upset := true }) else q.acc }
  let m := if old.isEmpty then makeRow s k x n row none double else (k, [])
  m.1.modPad fun p => p.setJobs n (p.jobs n ++ [{ job with made := old.isEmpty, writes := m.2 }])

theorem makeRow_live (s : State) (k : Core) (x : MCtx) (n row : Nat) (old : Option (List (U64 × Bool))) (double : Bool) :
    ∃ l, (makeRow s k x n row old double).1 = { k with live := l } := by
  have h (p : Prop) [Decidable p] (d : Drained) : ∃ l, (if p then k else countDrain x k d) = { k with live := l } := by
    split
    · exact ⟨k.live, rfl⟩
    · exact ⟨_, rfl⟩
  exact h ..

/-- What a taken row changes in its array and in the jobs of its drain. -/
theorem drainTaken_works (s : State) (x : MCtx) (n row : Nat) (ups : List AccUpset) (old : List Nat) (hold : Nat) (job : Work) (k : Core) :
    ∃ v j, drainTaken s x n row ups old hold job k = v.modPad (fun p => p.setJobs n (p.jobs n ++ [j])) ∧ ArrayAlone n k v ∧
      (v.arrays.array n).ready = (k.arrays.array n).ready.drop 1 ∧ (v.arrays.array n).busy = k.arrays.cycle + hold ∧
      j.part = job.part ∧ j.order = job.order ∧ j.since = job.since ∧ j.want = job.want := by
  have ht : ArrayAlone n k (rowTaken n k) := arrayAlone_modArr k n _
  have hr : ((rowTaken n k).arrays.array n).ready = (k.arrays.array n).ready.drop 1 := congrArg Array4.ready (array_modArr ..)
  have hc := arrayAlone_countSingles (rowTaken n k) n ups
  have ha : (countSingles (rowTaken n k) ups).arrays = (rowTaken n k).arrays := by
    unfold countSingles
    dsimp only
    split <;> rfl
  unfold drainTaken
  dsimp only
  generalize countSingles (rowTaken n k) ups = u at *
  have hh := arrayAlone_modArr u n fun a q =>
    { q with
      busy := a.cycle + hold,
      acc := if ups.contains .double then mmod {} q.acc row (fun e => { e with poisoned := true, upset := true }) else q.acc }
  have hready : ((u.modArrays fun a => a.modArr n fun q =>
    { q with
      busy := a.cycle + hold,
      acc := if ups.contains .double then mmod {} q.acc row (fun e => { e with poisoned := true, upset := true }) else q.acc }).arrays.array n) = _ :=
    array_modArr ..
  generalize (u.modArrays fun a => a.modArr n fun q =>
    { q with
      busy := a.cycle + hold,
      acc := if ups.contains .double then mmod {} q.acc row (fun e => { e with poisoned := true, upset := true }) else q.acc }) = v at *
  have hcyc : u.arrays.cycle = k.arrays.cycle := by
    rw [ha]
    rfl
  have hm : ∃ l, (if old.isEmpty then makeRow s v x n row none (ups.contains .double) else (v, [])).1 = { v with live := l } := by
    split
    · exact makeRow_live ..
    · exact ⟨v.live, rfl⟩
  obtain ⟨l, hm⟩ := hm
  refine ⟨_, _, rfl, ?_, ?_, ?_, rfl, rfl, rfl, rfl⟩
  all_goals rw [hm]
  · exact ((ht.trans hc).trans hh).trans (arrayAlone_modLive v n fun _ => l)
  · show (v.arrays.array n).ready = _
    rw [hready, ha]
    exact hr
  · show (v.arrays.array n).busy = _
    rw [hready, ← hcyc]

theorem drainOne_none {n row : Nat} {ups : List AccUpset} (h : orderCtx s (s.core c) (mget {} ((s.core c).arrays.array n).acc row).order = none) :
    drainOne s c n row ups = s.modCore c (rowTaken n) := by
  unfold drainOne
  dsimp only
  rw [h]
  rfl

/-- The old words that a row is added to, of the row as the drain finds it. -/
def takenOld (k : Core) (x : MCtx) (n row : Nat) : List Nat := oldWords x (mget {} (k.arrays.array n).acc row)

/-- The cycles for which a row holds its drain. -/
def takenHold (k : Core) (x : MCtx) (n row : Nat) : Nat := max 1 (ceilDiv (holdWords x) 32) + ceilDiv (takenOld k x n row).length 32

/-- The job of a drain that takes a row. -/
def takenJob (k : Core) (x : MCtx) (n row : Nat) : Work :=
  { Work.reading (mget {} (k.arrays.array n).acc row).order row (takenOld k x n row) with
    since := k.arrays.cycle + 7 + ceilDiv (takenOld k x n row).length 32,
    due := k.arrays.cycle + 7 + takenHold k x n row }

theorem drainOne_some {n row : Nat} {ups : List AccUpset} {x : MCtx}
    (h : orderCtx s (s.core c) (mget {} ((s.core c).arrays.array n).acc row).order = some x) :
    let t := s.modCore c (drainTaken s x n row ups (takenOld (s.core c) x n row) (takenHold (s.core c) x n row) (takenJob (s.core c) x n row))
    drainOne s c n row ups = raiseUpset t c ∨ drainOne s c n row ups = t := by
  dsimp only
  unfold drainOne
  dsimp only
  rw [h]
  exact ite_eq_or_eq ..

theorem raiseUpset_kept (s : State) (c : CoreId) :
    (raiseUpset s c).cores = s.cores ∧ raiseUpset s c = { s with aon := (raiseUpset s c).aon } := ⟨raise_cores .., raise_eq ..⟩

/-- The state that a drain leaves: its core as it is once the row is taken, and perhaps an event. -/
theorem drainOne_state (s : State) (c : CoreId) (n row : Nat) (ups : List AccUpset) {f : Core → Core}
    (h : drainOne s c n row ups = raiseUpset (s.modCore c f) c ∨ drainOne s c n row ups = s.modCore c f) :
    (drainOne s c n row ups).core c = f (s.core c) ∧ OtherCoresKept s (drainOne s c n row ups) c ∧
      drainOne s c n row ups = { s with cores := (drainOne s c n row ups).cores, aon := (drainOne s c n row ups).aon } := by
  obtain ⟨ho, hf⟩ := ownCore_modCore s c f
  have hc := State.modCore_core_same c f (s := s)
  obtain ⟨r1, r2⟩ := raiseUpset_kept (s.modCore c f) c
  generalize s.modCore c f = u at *
  obtain h | h := h
  · rw [h]
    refine ⟨?_, fun e he => ?_, ?_⟩
    · rw [State.core, r1]
      exact hc
    · rw [State.core, r1]
      exact ho e he
    · generalize raiseUpset u c = t at *
      rw [r2, hf]
  · rw [h]
    exact ⟨hc, ho, by rw [hf]⟩

/-- What a drain changes in its core when it takes a row. -/
structure RowDrained (s : State) (n row : Nat) (k q : Core) : Prop where
  ready : (q.arrays.array n).ready = (k.arrays.array n).ready.drop 1
  others : ∀ m, m ≠ n → q.arrays.array m = k.arrays.array m ∧ q.pad.jobs m = k.pad.jobs m
  job : (orderCtx s k (mget {} (k.arrays.array n).acc row).order).isSome = true → ∃ j, q.pad.jobs n = k.pad.jobs n ++ [j] ∧ j.part = row ∧
    j.order = (mget {} (k.arrays.array n).acc row).order ∧ j.since = k.arrays.cycle + 7 + ceilDiv j.want 32 ∧
    k.arrays.cycle < (q.arrays.array n).busy
  words : q.pad.words = k.pad.words

theorem rowTaken_drained {n row : Nat} (h : orderCtx s k (mget {} (k.arrays.array n).acc row).order = none) :
    RowDrained s n row k (rowTaken n k) where
  ready := congrArg Array4.ready (array_modArr ..)
  others m hm := ⟨(arrayAlone_modArr k n _).2 m hm, rfl⟩
  job hs := by
    rw [h] at hs
    exact absurd hs Bool.false_ne_true
  words := rfl

theorem drainTaken_drained (s : State) (x : MCtx) (n row : Nat) (ups : List AccUpset) (k : Core) :
    RowDrained s n row k (drainTaken s x n row ups (takenOld k x n row) (takenHold k x n row) (takenJob k x n row) k) := by
  obtain ⟨v, j, hj, ⟨ha, hm⟩, hr, hb, j1, j2, j3, j4⟩ :=
    drainTaken_works s x n row ups (takenOld k x n row) (takenHold k x n row) (takenJob k x n row) k
  have hpad : v.pad = k.pad := by rw [ha]
  have hwant : j.want = (takenOld k x n row).length := j4
  rw [hj]
  refine ⟨hr, fun m hmn => ⟨hm m hmn, ?_⟩, fun _ => ⟨j, ?_, j1, j2, ?_, ?_⟩, ?_⟩
  · rw [← hpad]
    exact jobs_setJobs_other _ hmn
  · rw [← hpad]
    exact setJobs_jobs_same ..
  · rw [hwant]
    exact j3
  · show k.arrays.cycle < (v.arrays.array n).busy
    rw [hb, takenHold]
    omega
  · rw [← hpad]
    rfl

/-- A drain that takes a row changes its core and may raise an event. -/
theorem drainOne_works (s : State) (c : CoreId) (n row : Nat) (ups : List AccUpset) :
    RowDrained s n row (s.core c) ((drainOne s c n row ups).core c) ∧ OtherCoresKept s (drainOne s c n row ups) c ∧
      drainOne s c n row ups = { s with cores := (drainOne s c n row ups).cores, aon := (drainOne s c n row ups).aon } := by
  cases h : orderCtx s (s.core c) (mget {} ((s.core c).arrays.array n).acc row).order with
  | none =>
    obtain ⟨hc, hk⟩ := drainOne_state s c n row ups (.inr (drainOne_none h))
    refine ⟨?_, hk⟩
    rw [hc]
    exact rowTaken_drained h
  | some x =>
    obtain ⟨hc, hk⟩ := drainOne_state s c n row ups (drainOne_some h)
    refine ⟨?_, hk⟩
    rw [hc]
    exact drainTaken_drained ..

/-! ##### The last word of a row -/

theorem rows_cleared (l : List Nat) (m : SMap AccRow) {r : Nat} (h : r ∈ l ∨ ((mget {} m r).complete = false ∧ (mget {} m r).poisoned = false)) :
    (mget {} (l.foldl (fun m r => mmod {} m r AccRow.clear) m) r).complete = false ∧
      (mget {} (l.foldl (fun m r => mmod {} m r AccRow.clear) m) r).poisoned = false := by
  induction l generalizing m with
  | nil => exact h.resolve_left List.not_mem_nil
  | cons a l ih =>
    refine ih _ ?_
    by_cases hr : r = a
    · refine .inr ?_
      rw [mget_mmod, if_pos hr]
      exact ⟨rfl, rfl⟩
    · rw [mget_mmod, if_neg hr]
      exact h.imp_left fun h => (List.mem_cons.mp h).resolve_left hr

/-- The rows that a job of a drain writes. -/
def jobRows (s : State) (k : Core) (j : Work) : List Nat :=
  match orderCtx s k j.order with
  | some x => (x.drainRows j.part).flatMap (rowSpan x.wide)
  | none => [j.part]

/-- The rows of a finished job are cleared. -/
def jobCleared (s : State) (n : Nat) (k : Core) (j : Work) : Core :=
  let rows := jobRows s k j
  k.modArrays fun a =>
    let b := a.modArr n fun q => { q with acc := rows.foldl (fun m r => mmod {} m r AccRow.clear) q.acc }
    { b with draining := b.draining.map fun e => if e.1 = j.order then (e.1, e.2 - 1) else e }

theorem jobCleared_acc (s : State) (n : Nat) (k : Core) (j : Work) : ((jobCleared s n k j).arrays.array n).acc =
    (jobRows s k j).foldl (fun m r => mmod {} m r AccRow.clear) (k.arrays.array n).acc :=
  congrArg Array4.acc (array_modArr k.arrays n fun q => { q with acc := (jobRows s k j).foldl (fun m r => mmod {} m r AccRow.clear) q.acc })

theorem drainSettle_eq (s : State) (k : Core) (n : Nat) : drainSettle s k n =
    settle s ((((k.pad.jobs n).filter fun j => k.pad.jobDone n j).foldl (jobCleared s n) k).modPad fun p =>
      p.setJobs n ((p.jobs n).filter fun j => !p.jobDone n j)) := rfl

/-- The only job of a drain is done. -/
theorem drainSettle_done {n : Nat} {j : Work} (hj : k.pad.jobs n = [j]) (hd : k.pad.jobDone n j = true) :
    drainSettle s k n = settle s ((jobCleared s n k j).modPad fun p => p.setJobs n []) := by
  have h1 : ((k.pad.jobs n).filter fun j => k.pad.jobDone n j) = [j] := by
    rw [hj, List.filter_cons_of_pos hd, List.filter_nil]
  have h2 : ((k.pad.jobs n).filter fun j => !k.pad.jobDone n j) = [] := by
    rw [hj, List.filter_cons_of_neg (by rw [hd]; decide), List.filter_nil]
  rw [drainSettle_eq, h1]
  refine congrArg (settle s) ?_
  show (jobCleared s n k j).modPad (fun _ => k.pad.setJobs n ((k.pad.jobs n).filter fun j => !k.pad.jobDone n j)) = _
  rw [h2]
  rfl

theorem drainSettle_clears {n : Nat} {j : Work} (hj : k.pad.jobs n = [j]) (hd : k.pad.jobDone n j = true) :
    (drainSettle s k n).pad.jobs n = [] ∧ (drainSettle s k n).pad.words = k.pad.words ∧ ∀ r ∈ jobRows s k j,
      (mget {} ((drainSettle s k n).arrays.array n).acc r).complete = false ∧
        (mget {} ((drainSettle s k n).arrays.array n).acc r).poisoned = false := by
  obtain ⟨⟨-, hp, -, -⟩, ha⟩ := settle_kept s ((jobCleared s n k j).modPad fun p => p.setJobs n [])
  rw [drainSettle_done hj hd]
  generalize settle s ((jobCleared s n k j).modPad fun p => p.setJobs n []) = u at *
  refine ⟨?_, ?_, fun r hr => ?_⟩
  · rw [hp]
    exact setJobs_jobs_same (jobCleared s n k j).pad n []
  · rw [hp]
    rfl
  · have harr : u.arrays.array n = (jobCleared s n k j).arrays.array n := by
      rw [Arrays.array, ha]
      rfl
    rw [harr, jobCleared_acc]
    exact rows_cleared _ _ (.inl hr)

/-! ##### The obligation -/

/-- Settles O27: each command by what its stages keep of the core, a drain by the context of the row it takes. -/
theorem arraysDrainTheirRows : Obligations.ArraysDrainTheirRows := by
  unfold Obligations.ArraysDrainTheirRows
  refine ⟨⟨?_, ?_, ?_, ?_⟩, ⟨?_, ?_⟩, ?_⟩
  · intro s c hx hp hf
    obtain ⟨h1, h2, h3⟩ := issueCycle_kept s (s.core c)
    refine ⟨s.modCore c (issueCycle s), (onCore_of_exists hx _).trans (congrArg Host.Outcome.next (if_pos ⟨hp, hf⟩)), ?_⟩
    rw [State.modCore_core_same]
    exact ⟨h1, h2, h3, ownCore_modCore s c _⟩
  · intro s c hx hp hf
    obtain ⟨h1, h2, h3, h4⟩ := injectRow_kept s (s.core c)
    refine ⟨s.modCore c (injectRow s), (onCore_of_exists hx _).trans (congrArg Host.Outcome.next (if_pos ⟨hp, hf⟩)), ?_⟩
    rw [State.modCore_core_same]
    exact ⟨h1, h2, h3, h4, ownCore_modCore s c _⟩
  · intro s c ups hx hp hf
    obtain ⟨h1, h2, -, h4⟩ := clockKept_accumulatorAdd s ups (s.core c)
    refine ⟨s.modCore c _, (onCore_of_exists hx _).trans (congrArg Host.Outcome.next (if_pos ⟨hp, hf⟩)), ?_⟩
    rw [State.modCore_core_same]
    exact ⟨h1, h2, h4, ownCore_modCore s c _⟩
  · exact fun s c hx => onCore_of_exists hx _
  · intro s c n ups row cyc rest hx hp hf hready hfree hcyc
    have hrun : exec (.drainRow c n ups) s = .next (drainOne s c n row ups) := by
      refine (onCore_of_exists hx _).trans (congrArg Host.Outcome.next ?_)
      dsimp only
      rw [hready]
      exact if_pos ⟨hp, hf, hfree, hcyc⟩
    obtain ⟨⟨h1, h2, h3, h4⟩, ho, hfr⟩ := drainOne_works s c n row ups
    exact ⟨_, hrun, by rw [h1, hready]; rfl, h2, h3, h4, ho, hfr⟩
  · intro s c n ups hx h
    refine (onCore_of_exists hx _).trans (congrArg Host.Outcome.next ?_)
    dsimp only
    split
    · rfl
    · next e l he =>
      refine if_neg ?_
      rintro ⟨h1, h2, h3, h4⟩
      obtain h | h | h | h | ⟨row, cyc, rest, hr, hle⟩ := h
      · exact absurd (he.symm.trans h) (List.cons_ne_nil _ _)
      · exact h h1
      · exact absurd (h2.symm.trans h) Bool.false_ne_true
      · exact absurd (h.symm.trans h3) Bool.false_ne_true
      · obtain ⟨rfl, -⟩ := List.cons.inj (he.symm.trans hr)
        exact absurd h4 (Nat.not_lt.mpr hle)
  · intro s k n j hj hd
    have h := drainSettle_clears (s := s) hj hd
    unfold jobRows at h
    exact h

end Sys2Proof.Machine
